-- ==== Sys2Proof/Word.lean ====
section
/-! DEFINITION. The word types of the machine (R1): bytes, 32-bit registers, 64-bit instruction words. -/

namespace Sys2Proof

/-- One byte of memory (R1). -/
abbrev Byte := BitVec 8
/-- One v, k or 32-bit special register. -/
abbrev W32 := BitVec 32
/-- One instruction word or 64-bit special register. -/
abbrev W64 := BitVec 64

end Sys2Proof
end

