-- ==== Sys2Proof/Syntax.lean ====
section
/-! DEFINITION. The steps of the machine as syntax: one constructor of `Instr` for each row of
spec/opcode_table.json. The first 133 rows are the Epris instructions (R186 to R283); the others are the
events that the spec's step list gives the module (arbiter, agents, home slices, engines, Keystone, host). -/

namespace Sys2Proof

/-! ## Registers, types and the common top -/

/-- A register field (Tables 7.2 and 7.3): v, k, predicate, or a short constant (code minus 0xC0). -/
inductive Reg where
  | v (n : Fin 128)
  | k (n : Fin 32)
  | p (n : Fin 8)
  | c (n : Fin 64)
  deriving DecidableEq, Repr

/-- The common top of an instruction word (R154). -/
structure Ctl where
  stall : Fin 8
  set   : Fin 8
  wtag  : Fin 8
  wleft : Fin 8
  pn    : Bool
  pred  : Fin 8
  deriving DecidableEq, Repr

/-- Integer types, codes 0 to 7 (R162). -/
inductive ITy where
  | i8 | i16 | i32 | i64 | n8 | n16 | n32 | n64
  deriving DecidableEq, Repr

/-- Raw-bit widths of the logic and move instructions (R216). -/
inductive BTy where
  | b32 | b64 | b128
  deriving DecidableEq, Repr

/-- Floating formats of the scalar and vector instructions, codes 8 to 11 (R222). -/
inductive FTy where
  | f16 | bf16 | f32 | f64
  deriving DecidableEq, Repr

/-- The eight-bit floating formats beside them, codes 12 and 13. -/
inductive FFmt where
  | std (t : FTy)
  | e4m3
  | e5m2
  deriving DecidableEq, Repr

/-- A type of FCVT, codes 0 to 13 (R224). -/
inductive CTy where
  | int (t : ITy)
  | flt (t : FFmt)
  deriving DecidableEq, Repr

/-- Rounding modes (Table 6.4). -/
inductive RM where
  | rne | rtz | rup | rdn
  deriving DecidableEq, Repr

/-- Conditions of CMP (R220). -/
inductive Cond where
  | eq | ne | lt | le | gt | ge
  deriving DecidableEq, Repr

/-- Conditions of FCMP (Table 9.6). -/
inductive FCond where
  | eq | ne | lt | le | gt | ge | un | ord
  deriving DecidableEq, Repr

/-- Special functions (R227). -/
inductive SfnFn where
  | rcp | rsq | sqrt | ex2 | lg2 | sin | cos | tanh | sigm | erf
  deriving DecidableEq, Repr

/-- SHFL modes (Table 9.7). -/
inductive ShMode where
  | idx | up | down | xor
  deriving DecidableEq, Repr

/-- REDL and SCANL operations with their types (Table 9.9). -/
inductive LaneOp where
  | add (t : ITy) | min (t : ITy) | max (t : ITy)
  | and (t : BTy) | or (t : BTy) | xor (t : BTy)
  | fadd (t : FTy) (rm : RM)
  deriving DecidableEq, Repr

/-- VOTE modes (R234). -/
inductive VMode where
  | any | all | ballot
  deriving DecidableEq, Repr

/-- Scopes .t, .c, .p, .s (R114). -/
inductive Scope where
  | team | cluster | part | sys
  deriving DecidableEq, Repr

/-- Access widths (R165). -/
inductive Wd where
  | b8 | b16 | b32 | b64 | b128
  deriving DecidableEq, Repr

/-- Address part of format M, offset layout (R165): space with its offset field. -/
inductive MSp where
  | gl (off : BitVec 10)
  | sp (off : BitVec 10)
  | rem (k : Fin 32) (off : BitVec 5)
  deriving DecidableEq, Repr

/-- Space of format M, data layout (R166). -/
inductive DSp where
  | gl | sp
  deriving DecidableEq, Repr

/-- Ordering of LD (Table 7.8). -/
inductive LdOrd where
  | plain | acq (s : Scope) | vol
  deriving DecidableEq, Repr

/-- Ordering of ST (Table 7.8). -/
inductive StOrd where
  | plain | rel (s : Scope) | vol
  deriving DecidableEq, Repr

/-- Ordering of ATOM (R166). -/
inductive AtOrd where
  | plain | acq (s : Scope) | rel (s : Scope) | acqRel (s : Scope)
  deriving DecidableEq, Repr

/-- ATOM and RED operations with their types (Table 10.4). -/
inductive AtOp where
  | add (t : ITy) | min (t : ITy) | max (t : ITy)
  | and (t : BTy) | or (t : BTy) | xor (t : BTy)
  | xchg (t : BTy) | cas (t : BTy)
  | fadd (t : FTy)
  deriving DecidableEq, Repr

/-- Matrix format codes (Table 11.1). -/
inductive MFmt where
  | bf16 | f16 | f32 | f64 | i8 | e4m3 | e5m2 | mxf8 | mxf6 | mxf4 | lg6
  deriving DecidableEq, Repr

/-- Output codes of ACCST (Table 11.6). -/
inductive OFmt where
  | bf16 | f16 | raw | i8 | e4m3 | e5m2 | mxf8 | mxf6 | mxf4 | lg6
  deriving DecidableEq, Repr

/-! ## Operand records -/

/-- Integer, D, A, B. -/
structure IntR where
  c : Ctl
  d : Reg
  a : Reg
  b : Reg
  ty : ITy
  deriving DecidableEq, Repr

/-- Integer, D, A, B, C (MAD). -/
structure IntRC where
  c : Ctl
  d : Reg
  a : Reg
  b : Reg
  e : Reg
  ty : ITy
  deriving DecidableEq, Repr

/-- Integer, D, A. -/
structure IntU where
  c : Ctl
  d : Reg
  a : Reg
  ty : ITy
  deriving DecidableEq, Repr

/-- Integer, D, A, IMM20 (format I). -/
structure IntI where
  c : Ctl
  d : Reg
  a : Reg
  ty : ITy
  imm : BitVec 20
  deriving DecidableEq, Repr

/-- Raw bits, D, A, B. -/
structure BitR where
  c : Ctl
  d : Reg
  a : Reg
  b : Reg
  ty : BTy
  deriving DecidableEq, Repr

/-- Raw bits, D, A, B, C (BFI). -/
structure BitRC where
  c : Ctl
  d : Reg
  a : Reg
  b : Reg
  e : Reg
  ty : BTy
  deriving DecidableEq, Repr

/-- Raw bits, D, A. -/
structure BitU where
  c : Ctl
  d : Reg
  a : Reg
  ty : BTy
  deriving DecidableEq, Repr

/-- Raw bits, D, A, IMM20 (format I). -/
structure BitI where
  c : Ctl
  d : Reg
  a : Reg
  ty : BTy
  imm : BitVec 20
  deriving DecidableEq, Repr

/-- Shift or rotate by IMM20[5:0] (format I). -/
structure ShI where
  c : Ctl
  d : Reg
  a : Reg
  ty : BTy
  cnt : Fin 64
  deriving DecidableEq, Repr

/-- LEA, format R (R218). -/
structure LeaR where
  c : Ctl
  d : Reg
  a : Reg
  b : Reg
  ty : ITy
  sh : Fin 16
  deriving DecidableEq, Repr

/-- LEA, format I (R218). -/
structure LeaI where
  c : Ctl
  d : Reg
  a : Reg
  imm : BitVec 20
  deriving DecidableEq, Repr

/-- MOVI (R164). -/
structure MoviR where
  c : Ctl
  d : Reg
  imm : W32
  deriving DecidableEq, Repr

/-- SEL (R219); `q` is the selecting predicate. -/
structure SelR where
  c : Ctl
  d : Reg
  a : Reg
  b : Reg
  q : Fin 8
  ty : BTy
  deriving DecidableEq, Repr

/-- CMP, format R (R220). -/
structure CmpR where
  c : Ctl
  pd : Fin 8
  a : Reg
  b : Reg
  cond : Cond
  ty : ITy
  deriving DecidableEq, Repr

/-- CMP, format I (R220). -/
structure CmpI where
  c : Ctl
  pd : Fin 8
  a : Reg
  cond : Cond
  ty : ITy
  imm : BitVec 17
  deriving DecidableEq, Repr

/-- PAND, POR, PXOR (R221). -/
structure PredR where
  c : Ctl
  pd : Fin 8
  pa : Fin 8
  pb : Fin 8
  deriving DecidableEq, Repr

/-- PNOT (R221). -/
structure PredU where
  c : Ctl
  pd : Fin 8
  pa : Fin 8
  deriving DecidableEq, Repr

/-- Floating, D, A, B under RM (R222, R226). -/
structure FpR where
  c : Ctl
  d : Reg
  a : Reg
  b : Reg
  ty : FTy
  rm : RM
  deriving DecidableEq, Repr

/-- Floating, D, A, B, C under RM (FFMA). -/
structure FpRC where
  c : Ctl
  d : Reg
  a : Reg
  b : Reg
  e : Reg
  ty : FTy
  rm : RM
  deriving DecidableEq, Repr

/-- FMIN, FMAX (R222). -/
structure FpM where
  c : Ctl
  d : Reg
  a : Reg
  b : Reg
  ty : FTy
  deriving DecidableEq, Repr

/-- FSQRT (R226). -/
structure FpU where
  c : Ctl
  d : Reg
  a : Reg
  ty : FTy
  rm : RM
  deriving DecidableEq, Repr

/-- FCMP (R223). -/
structure FCmpR where
  c : Ctl
  pd : Fin 8
  a : Reg
  b : Reg
  cond : FCond
  ty : FTy
  deriving DecidableEq, Repr

/-- FCVT (R224). -/
structure FCvtR where
  c : Ctl
  d : Reg
  a : Reg
  td : CTy
  ts : CTy
  sat : Bool
  rm : RM
  deriving DecidableEq, Repr

/-- FCLASS (R225). -/
structure FClassR where
  c : Ctl
  d : Reg
  a : Reg
  ty : FFmt
  deriving DecidableEq, Repr

/-- SFN (R227). -/
structure SfnR where
  c : Ctl
  d : Reg
  a : Reg
  fn : SfnFn
  deriving DecidableEq, Repr

/-- SHFL (R230); `ls` is log2 S. -/
structure ShflR where
  c : Ctl
  d : Reg
  a : Reg
  b : Reg
  mode : ShMode
  ls : Fin 6
  own : Bool
  wide : Bool
  deriving DecidableEq, Repr

/-- REDL (R232). -/
structure RedlR where
  c : Ctl
  d : Reg
  a : Reg
  op : LaneOp
  ls : Fin 6
  deriving DecidableEq, Repr

/-- SCANL (R233). -/
structure ScanR where
  c : Ctl
  d : Reg
  a : Reg
  op : LaneOp
  ls : Fin 6
  excl : Bool
  deriving DecidableEq, Repr

/-- VOTE (R234). -/
structure VoteR where
  c : Ctl
  d : Reg
  pa : Fin 8
  mode : VMode
  deriving DecidableEq, Repr

/-- LD (R239). -/
structure LdR where
  c : Ctl
  d : Reg
  a : Reg
  m : MSp
  w : Wd
  reuse : Fin 16
  ord : LdOrd
  deriving DecidableEq, Repr

/-- ST (R239); `d` is the data source. -/
structure StR where
  c : Ctl
  d : Reg
  a : Reg
  m : MSp
  w : Wd
  reuse : Fin 16
  ord : StOrd
  deriving DecidableEq, Repr

/-- PREF (R241). -/
structure PrefR where
  c : Ctl
  a : Reg
  off : BitVec 10
  w : Wd
  reuse : Fin 16
  deriving DecidableEq, Repr

/-- LDF, STE, STF (R242); `take` is used by LDF alone; `wide` is the .c modifier. -/
structure FeR where
  c : Ctl
  d : Reg
  a : Reg
  m : MSp
  reuse : Fin 16
  take : Bool
  wide : Bool
  deriving DecidableEq, Repr

/-- SETFE (R242); `full` names the state set. -/
structure SetfeR where
  c : Ctl
  a : Reg
  m : MSp
  reuse : Fin 16
  full : Bool
  wide : Bool
  deriving DecidableEq, Repr

/-- ATOM (R244). -/
structure AtomR where
  c : Ctl
  d : Reg
  a : Reg
  b : Reg
  op : AtOp
  sp : DSp
  ord : AtOrd
  deriving DecidableEq, Repr

/-- RED (R244). -/
structure RedR where
  c : Ctl
  a : Reg
  b : Reg
  op : AtOp
  sp : DSp
  rel : Option Scope
  deriving DecidableEq, Repr

/-- GTH (R248); `lk` is log2 K. -/
structure GthR where
  c : Ctl
  d : Reg
  a : Reg
  b : Reg
  lk : Fin 4
  acq : Option Scope
  deriving DecidableEq, Repr

/-- OWN (R251). -/
structure OwnR where
  c : Ctl
  d : Reg
  u : Reg
  acc : Bool
  deriving DecidableEq, Repr

/-- WAITO (R252). -/
structure WaitoR where
  c : Ctl
  u : Reg
  acc : Bool
  ph : Bool
  deriving DecidableEq, Repr

/-- CPY (R253): far pair, descriptor quad. -/
structure CpyR where
  c : Ctl
  a : Reg
  b : Reg
  two : Bool
  deriving DecidableEq, Repr

/-- FILL (R253): pattern, far pair (FILL.g), descriptor quad. -/
structure FillR where
  c : Ctl
  pat : Reg
  a : Reg
  b : Reg
  two : Bool
  deriving DecidableEq, Repr

/-- LDS (R269); `off` is the slab offset register of the SRC = 1 form. -/
structure LdsR where
  c : Ctl
  off : Reg
  a : Reg
  fmt : MFmt
  sparse : Bool
  g : Bool
  key : Fin 16
  reuse : Fin 16
  deriving DecidableEq, Repr

/-- MMA (R271). -/
structure MmaR where
  c : Ctl
  row : Reg
  off : Reg
  b : Reg
  fmt : MFmt
  sparse : Bool
  z : Bool
  g : Bool
  deriving DecidableEq, Repr

/-- ACCST (R278). -/
structure AccstR where
  c : Ctl
  off : Reg
  row : Reg
  b : Reg
  fmt : OFmt
  sat : Bool
  rtz : Bool
  deriving DecidableEq, Repr

/-- ACCSCL (R279). -/
structure AccsclR where
  c : Ctl
  s : Reg
  row : Reg
  n : Reg
  rm : RM
  deriving DecidableEq, Repr

/-! ## Operands of the events -/

/-- Partition settings that a cut or a PARTITION_SET names (Table 12.8); an absent one is left as it is. -/
structure SettingsReq where
  schedule : Option (List (Nat × Nat))
  fixed    : Option Bool
  preempt  : Option Nat
  strict   : Option Bool
  slots    : Option (List Nat)
  deriving DecidableEq, Repr

/-- A cut request (R284). `tag` is the tag Keystone chooses among the free ones (R285); `goff` is the guest
offset the host sets (R335); `contexts` names each context's owner and `roots` its stage-one root until a launch
names one. -/
structure CutReq where
  tag      : Nat
  tiles    : List Nat
  lw       : Nat
  lh       : Nat
  places   : List Nat
  grains   : List (Nat × Nat)
  contexts : List Nat
  roots    : List Nat
  owners   : List Nat
  agent    : List (Nat × Nat)
  link     : Nat
  msix     : Nat
  settings : SettingsReq
  goff     : Int
  deriving DecidableEq, Repr

/-- The privileged part of a queue control block (Table 13.2), with the queue's number in its function and the
address of its QCB. -/
structure QueueCfg where
  tag    : Nat
  q      : Nat
  base   : Nat
  logsz  : Nat
  prio   : Nat
  owner  : Nat
  ctx    : Nat
  pasid  : Nat
  ringsp : Bool
  qcb    : Nat
  deriving DecidableEq, Repr

/-- A unit that repair can map out (Table 20.2). -/
inductive RepairUnit where
  | arrayLine (tile : Nat) (col : Bool)
  | poolSegment (tile : Nat)
  | storeSlot (tile : Nat)
  | meshLink (tile : Nat) (port : Nat)
  | tile (tile : Nat)
  | rowBucket (field : Nat) (grain : Nat)
  | slice (field : Nat)
  | walker (field : Nat)
  | spine (field : Nat)
  | memStop (field : Nat)
  | jarlet (port : Nat)
  deriving DecidableEq, Repr

/-- Shared structures of a blast record (Table 18.4). -/
inductive SharedStruct where
  | sliceTags | sliceAlu | walker | memRouter | spine | bitmap
  deriving DecidableEq, Repr

/-- Reshaping operations whose quiesce steps have bounds (Table 18.6). -/
inductive ReshapeOp where
  | grow | shrink | lend | compact | recall | reset | migrate
  deriving DecidableEq, Repr

/-- A tile-mesh packet or response as a router sees it (R289, R389); `port` is the port by which it left the router
before, 0 at its source, and `req` the request that it belongs to. -/
structure Packet where
  tag    : Nat
  gen    : Nat
  stile  : Nat
  dest   : Nat
  resp   : Bool
  vc     : Nat
  kind   : Nat
  owner  : Nat
  req    : Nat
  place  : Nat
  off    : Nat
  port   : Nat
  seq    : Nat
  deriving DecidableEq, Repr

/-- A peer-window access arriving at this module from another (R334). -/
structure PeerAccess where
  module : Nat
  tag    : Nat
  base   : Nat
  size   : Nat
  write  : Bool
  data   : List Byte
  offset : Nat
  ctx    : Nat
  owner  : Nat
  deriving DecidableEq, Repr

/-- A request to move a partition (R308): its tag, the phase, the other module, the number of regions that the host lets remain
for the last copy, and at the destination what the source has copied: partition physical address, byte. -/
structure MigReq where
  dst   : Nat
  limit : Nat
  cells : List (Nat × Byte)
  deriving DecidableEq, Repr

/-- A Jarlet flit in the clear part (R333). -/
structure JFlit where
  module : Nat
  tag    : Nat
  gen    : Nat
  owner  : Nat
  kind   : Nat
  phase  : Bool
  auth   : Bool
  ctr    : Nat
  deriving DecidableEq, Repr

/-- The steps of the machine: one constructor per row of spec/opcode_table.json, in its order, but for the events
without operands, which stand last and act at the place that `State.cur` names. -/
inductive Instr where
  -- control, templates and system (R186)
  | nop (c : Ctl)
  | bra (c : Ctl) (off : BitVec 24)
  | brx (c : Ctl) (tgt : Reg)
  | call (c : Ctl) (link : Reg) (off : BitVec 24)
  | ret (c : Ctl) (tgt : Reg)
  | exit (c : Ctl)
  | yield (c : Ctl)
  | trap (c : Ctl) (code : BitVec 15)
  | trapRet (c : Ctl)
  | eretRetry (c : Ctl) (s : Reg)
  | eretSkip (c : Ctl) (s : Reg)
  | eretRedir (c : Ctl) (s : Reg) (t : Reg)
  | mfs (c : Ctl) (d : Reg) (n : BitVec 10)
  | mfsAevt (c : Ctl) (d : Reg)
  | mts (c : Ctl) (n : BitVec 10) (a : Reg)
  | mtsApool (c : Ctl) (a : Reg)
  | mtsPmc (c : Ctl) (i : Fin 4) (a : Reg)
  | evt (c : Ctl) (n : BitVec 8)
  | evtH (c : Ctl) (n : BitVec 8) (a : Reg)
  | frz (c : Ctl) (idx : Fin 128) (mask : Reg) (t : Fin 16) (off : BitVec 16)
  | stamp (c : Ctl) (t : Fin 16) (base : Reg) (n : Reg)
  | spawn (c : Ctl) (t : Fin 16) (idx : Reg)
  | spawnRem (c : Ctl) (t : Fin 16) (idx : Reg) (place : Reg)
  | ctxsave (c : Ctl) (d : Reg) (s : Reg) (a : Reg)
  | ctxsaveFull (c : Ctl) (d : Reg) (s : Reg) (a : Reg)
  | ctxload (c : Ctl) (s : Reg) (a : Reg)
  | ctxsw (c : Ctl) (s : Reg)
  | tlbiCtx (c : Ctl) (bcast : Bool)
  | tlbiPart (c : Ctl) (bcast : Bool)
  | tlbiPage (c : Ctl) (a : Reg) (bcast : Bool)
  | tlbiGrain (c : Ctl) (a : Reg) (t : Reg) (bcast : Bool)
  | placew (c : Ctl) (d : Reg) (a : Reg) (b : Reg)
  -- integer, logic, moves (R211)
  | add (x : IntR)
  | addI (x : IntI)
  | sub (x : IntR)
  | subI (x : IntI)
  | mul (x : IntR)
  | mulI (x : IntI)
  | mulh (x : IntR)
  | mad (x : IntRC)
  | div (x : IntR)
  | rem (x : IntR)
  | min (x : IntR)
  | minI (x : IntI)
  | max (x : IntR)
  | maxI (x : IntI)
  | abs (x : IntU)
  | neg (x : IntU)
  | and (x : BitR)
  | andI (x : BitI)
  | or (x : BitR)
  | orI (x : BitI)
  | xor (x : BitR)
  | xorI (x : BitI)
  | not (x : BitU)
  | shl (x : BitR)
  | shlI (x : ShI)
  | shr (x : BitR)
  | shrI (x : ShI)
  | sar (x : BitR)
  | sarI (x : ShI)
  | rot (x : BitR)
  | rotI (x : ShI)
  | popc (x : BitU)
  | clz (x : BitU)
  | brev (x : BitU)
  | bfx (x : IntR)
  | bfi (x : BitRC)
  | lea (x : LeaR)
  | leaI (x : LeaI)
  | mov (x : BitU)
  | movi (x : MoviR)
  | sel (x : SelR)
  | cmp (x : CmpR)
  | cmpI (x : CmpI)
  | pand (x : PredR)
  | por (x : PredR)
  | pxor (x : PredR)
  | pnot (x : PredU)
  -- floating point (R222)
  | fadd (x : FpR)
  | fsub (x : FpR)
  | fmul (x : FpR)
  | ffma (x : FpRC)
  | fmin (x : FpM)
  | fmax (x : FpM)
  | fcmp (x : FCmpR)
  | fcvt (x : FCvtR)
  | fclass (x : FClassR)
  | fdiv (x : FpR)
  | fsqrt (x : FpU)
  | sfn (x : SfnR)
  | padd2 (x : FpR)
  | pmul2 (x : FpR)
  | pfma2 (x : FpRC)
  -- lanes (R229)
  | shfl (x : ShflR)
  | redl (x : RedlR)
  | scanl (x : ScanR)
  | vote (x : VoteR)
  -- memory (R236)
  | ld (x : LdR)
  | st (x : StR)
  | pref (x : PrefR)
  | ldf (x : FeR)
  | ste (x : FeR)
  | stf (x : FeR)
  | setfe (x : SetfeR)
  | atom (x : AtomR)
  | red (x : RedR)
  | gth (x : GthR)
  | fenceR (c : Ctl) (s : Scope)
  | fenceA (c : Ctl) (s : Scope)
  | fenceAr (c : Ctl) (s : Scope)
  | barT (c : Ctl)
  | barC (c : Ctl)
  | own (x : OwnR)
  | waito (x : WaitoR)
  | cpyG2s (x : CpyR)
  | cpyS2g (x : CpyR)
  | cpyS2r (x : CpyR)
  | cpyR2s (x : CpyR)
  | fillS (x : FillR)
  | fillG (x : FillR)
  -- matrix array (R267)
  | gangset (c : Ctl) (m : Reg) (n : Fin 8)
  | lds (x : LdsR)
  | ldsSlab (x : LdsR)
  | swp (c : Ctl) (g : Bool)
  | swpFree (c : Ctl) (g : Bool)
  | mma (x : MmaR)
  | accz (c : Ctl) (row : Reg) (n : Reg)
  | acczFree (c : Ctl) (row : Reg) (n : Reg)
  | accrd (c : Ctl) (d : Reg) (x : Reg)
  | accwr (c : Ctl) (x : Reg) (b : Reg)
  | accst (x : AccstR)
  | accscl (x : AccsclR)
  -- issue, queues and admission
  | doorbell (tag q value : Nat) (tbit : Bool)
  | packetAtHead (ifn : Nat)
  | waitSignalReread (ifn : Nat)
  | admitLaunch (tag : Nat)
  | admitCopy (tag : Nat)
  | copyPacketComplete (ifn : Nat)
  | admitSignal (tag : Nat)
  | admitWait (tag : Nat)
  | admitTimestamp (tag : Nat)
  | admitNop (tag : Nat)
  | qcbWriteback (ifn : Nat)
  -- agents, teams, bins
  | agentClaim (tile : Nat)
  | clusterReservation (tile anchor seq c : Nat)
  | clusterReservationGrant (tile : Nat)
  | clusterBuild (anchor seq c : Nat)
  | stampedGroupLaunch (tile team : Nat)
  | binItemAccept (tile : Nat)
  | binGroupLaunch (tile : Nat)
  | teamEnd (tile team : Nat)
  -- contexts
  | groupPark (tile slot : Nat)
  | shadowLoaded (tile cslot : Nat)
  | lendTile (tile borrower place : Nat) (force : Bool)
  | recallTile (tile : Nat) (force : Bool)
  -- memory steps
  | l1Fill (req : Nat)
  | loadResponse (req : Nat)
  | sliceRead (req : Nat)
  | sliceStoreApply (req : Nat)
  | sliceAtomicApply (req : Nat)
  | sliceGather (req : Nat)
  | storeAck (req : Nat)
  | atomResponse (req : Nat)
  | pageWalk (walk : Nat)
  | walkComplete (walk : Nat)
  | fenceWaitEnd (tile slot lane : Nat)
  | remoteScratchpadRequest (req : Nat)
  | feRequestServed (tile team word : Nat)
  | barrierComplete (tile team : Nat) (cluster : Bool)
  -- engines
  | copyEngineCommand (tile : Nat)
  | engineFlipBack (tile : Nat) (array : Bool)
  | arrayLdsRun (tile : Nat)
  | arraySwpRun (tile : Nat)
  | arrayMmaRun (tile : Nat)
  | gangRendezvous (tile team seq : Nat)
  | engineEccError (tile : Nat) (array : Bool) (src : Nat) (info : Nat)
  -- traps, aborts, counters
  | trapDeliver (tile slot : Nat)
  | abortPortWrite (tag ctx value : Nat)
  | abortNotice (tile tag ctx seq : Nat)
  | abortComplete (tag ctx seq : Nat)
  | counterOverflow (tile cslot n : Nat)
  | contextBlockWrite (tag ctx off value size : Nat) (user tbit : Bool)
  -- clock, thermal, module
  | clockStepDown (field : Nat) (temps : List Int)
  | clockStepUp (field : Nat) (temps : List Int)
  | thermalStop (field : Nat) (temps : List Int)
  | sensorDisagree (field sensor : Nat) (temps : List Int)
  | moduleFatal (cause field : Nat)
  -- partitions
  | partitionCut (x : CutReq)
  | partitionSet (tag : Nat) (x : SettingsReq)
  | partitionGrow (tag : Nat) (tiles places : List Nat)
  | partitionShrink (tag : Nat) (tiles : List Nat) (force : Bool)
  | partitionCompact (tag : Nat) (moves : List (Nat × Nat))
  | partitionReset (tag : Nat)
  | migrate (tag phase : Nat) (x : MigReq)
  | migrationKeyTransfer (tag : Nat)
  | migrationRunConfirm (tag : Nat)
  | peerAccessRemote (x : PeerAccess)
  | tileRetire (tile new : Nat)
  | repair (u : RepairUnit)
  | ownerWeightSet (owner weight : Nat)
  | ownerRelease (owner : Nat)
  | queuePrivilegedWrite (ifn : Nat) (x : QueueCfg)
  | linkFlitSend (link : Nat) (waiting : List Nat) (flitNs : Nat)
  -- Jarlet, mesh, shared faults
  | jarletLinkTrain (port : Nat) (off : Int)
  | jarletFlitReceive (port : Nat) (x : JFlit)
  | jarletKeyUpdate (port : Nat) (dir : Bool)
  | routerPacketReceive (tile : Nat) (x : Packet)
  | dropResponse (req : Nat)
  | dropRecordPost (tile tag ctx : Nat)
  | sharedStructureError (st : SharedStruct) (field unit : Nat)
  | timeBeacon (field : Nat) (skew : Int)
  | energyAttribution (activity : List (Nat × Nat)) (measured : Nat)
  -- trust
  | challenge (nonce : Nat)
  | measurements (sess : Nat) (index : Nat)
  | keyExchange (sess : Nat)
  | securedMessageFail (sess : Nat)
  | lockInterface (ifn sess : Nat)
  | startInterface (ifn sess : Nat)
  | stopInterface (ifn sess : Nat)
  | getDeviceInterfaceReport (ifn sess : Nat)
  | keySet (sess slot : Nat) (clear : Bool) (key wdid : Nat)
  | keyErase (sess slot : Nat)
  | keyQuery (sess : Nat)
  | keyEscrow (sess key : Nat)
  | keyImport (sess : Nat) (blob : List Nat) (kb : Nat)
  | ideKm (sess link stream tag key : Nat)
  | ideIntegrityFail (link stream : Nat)
  | lockedItemWrite (ifn off requester : Nat)
  | lockedRangeRead (ifn off requester : Nat)
  | functionLevelReset (tag : Nat)
  | atsInvalidation (tag pasid page : Nat)
  | registerWrite (tile reg : Nat) (value : Nat)
  | instructionComplete (tile slot iid : Nat)
  | partitionPause (tag : Nat)
  | partitionResume (tag : Nat) (wall : Bool) (d : Nat)
  | peerWindowMap (tag w module rtag rbase size : Nat) (write : Bool)
  | quiesceStepOverrun (op : ReshapeOp) (tag tile : Nat)
  | atsPriResponse (ifn : Nat) (ok : Bool) (page : Nat)
  | hostErrorCompletion (ifn addr : Nat)
  | endSession (sess : Nat)
  | jarletKeyAgreement (port : Nat) (ok : Bool)
  | migrationReceiptAck (tag : Nat)
  | migrationApproval (tag : Nat)
  -- events that act at the place named by State.cur: its tile (or field, tag, port) and its slot
  | interruptModerationExpire
  | binTimerExpire
  | preemptionTimeout
  | recallStepOverrun
  | fewaitTimeout
  | gangTimeout
  | spawnWaitTimeout
  | clockStepDeferred
  | clockHaltResume
  | migrationConfirmTimeout
  | peerForwardExpire
  | timeBeaconMissing
  | atsDrainTimeout
  | wtimeCounterMismatch
  | hostFlushCompletion
  | jarletPortDown
  | forcedRecall
  | planeRelease
  | tableRewrite
  | restoreListLoad
  | sliceBoundary
  | backwardBranchHandoff
  | poolSegmentExchange
  | accuracyTick
  | moduleReset
  | powerLoss
  | slotTableBoundary
  | scrubPass
  | lifetimeFold
  deriving DecidableEq, Repr

end Sys2Proof
end

