-- ==== Sys2Proof/Config.lean ====
section
/-! DEFINITION. What the implementation fixes and the spec leaves open, as constants with no body: nothing can
evaluate them, so a claim holds whatever they are. Each is named in the assumption log. -/

namespace Sys2Proof

/-- Whether an unguarded read returns the value after the pending write (R169), by free-value counter. -/
opaque Config.hazardNew : Nat → Bool

/-- SFN results inside the error bounds of Table 6.10: the coefficients are not architected (R149). -/
opaque Config.sfn : SfnFn → W32 → W32

/-- A byte that the spec leaves open: image bodies (R205), restored contents left unspecified (R281), by free-value counter. -/
opaque Config.freeByte : Nat → Byte

/-- A word that the spec leaves open: peer data and completion times (R334), by free-value counter. -/
opaque Config.freeNat : Nat → Nat

/-- Choice among several allowed outcomes, below the given bound: which value of a changed code word a fetch returns
(R178), a peer's answer (R334), by free-value counter. -/
opaque Config.pick : Nat → Nat → Nat

/-- Set of a line in the level-one cache (R92) and in a slice (R94). -/
opaque Config.setOf : Nat → Nat → Nat

/-- Row bucket of a granule of the plinth, below 1,024 (R428, R434). -/
opaque Config.bucketOf : Nat → Nat

/-- Jarlet port that leads to another module (R422). -/
opaque Config.portOf : Nat → Nat

/-- Spare rows of a field's plinth (R429). -/
opaque Config.spareRows : Nat → Nat

/-- Length in bytes of a saved image beyond its header, a multiple of 64 (R205), from the group and template
counts. -/
opaque Config.imageUnits : Nat → Nat → Nat

/-- A signature or message digest over the given numbers (R326 to R330, R434). -/
opaque Config.digest : Nat → List Nat → Nat

/-- Key material that Keystone derives: purpose and inputs (R328, R333, R423). -/
opaque Config.derive : Nat → List Nat → Nat

end Sys2Proof
end

