-- ==== Sys2Proof/WellFormed.lean ====
section
/-! DEFINITION. Which instruction terms have an encoding: the register classes, widths and limits of R158 to R160
and the field limits that each description states. `wf nv` takes the register count of the pool word (R91). The
event rows have no encoding and are well-formed. -/

namespace Sys2Proof

/-- The register is a v register. -/
def Reg.isV : Reg → Bool
  | .v _ => true
  | _ => false

/-- The register is a k register. -/
def Reg.isK : Reg → Bool
  | .k _ => true
  | _ => false

/-- A v or k register, pair, quad or octet of `n`, below the register count (R160). -/
def Reg.ok (nv n : Nat) : Reg → Bool
  | .v i => i.val % n = 0 && i.val + n ≤ nv
  | .k i => i.val % n = 0
  | _ => false

/-- A k register of `n`. -/
def Reg.okK (n : Nat) : Reg → Bool
  | .k i => i.val % n = 0
  | _ => false

/-- A v register of `n`. -/
def Reg.okV (nv n : Nat) : Reg → Bool
  | .v i => i.val % n = 0 && i.val + n ≤ nv
  | _ => false

/-- A source read as integer or bits: codes 0xF0 to 0xFF are refused (R159). -/
def Reg.srcI (nv n : Nat) : Reg → Bool
  | .c x => x.val < 48
  | .p _ => false
  | r => r.ok nv n

/-- A floating source; a format without infinities refuses 0xFE and 0xFF (R159). -/
def Reg.srcF (nv n : Nat) (noInf : Bool) : Reg → Bool
  | .c x => !noInf || x.val < 62
  | .p _ => false
  | r => r.ok nv n

/-- A k register or an integer short constant. -/
def Reg.srcK : Reg → Bool
  | .k _ => true
  | .c x => x.val < 48
  | _ => false

/-- A destination with the scalar-destination rule: no k destination beside a v source (R160). -/
def Reg.dst (nv n : Nat) (srcs : List Reg) (d : Reg) : Bool :=
  d.ok nv n && !(d.isK && srcs.any Reg.isV)

/-- A branch pair: not v0 (R187). -/
def Reg.branch (nv : Nat) (r : Reg) : Bool :=
  r.ok nv 2 && r != .v 0

/-- Registers that a value of the type takes. -/
def ITy.regs : ITy → Nat
  | .i64 | .n64 => 2
  | _ => 1

/-- Registers that a value of the type takes. -/
def BTy.regs : BTy → Nat
  | .b32 => 1
  | .b64 => 2
  | .b128 => 4

/-- Registers that a value of the type takes. -/
def FTy.regs : FTy → Nat
  | .f64 => 2
  | _ => 1

/-- Registers that a value of the type takes. -/
def FFmt.regs : FFmt → Nat
  | .std t => t.regs
  | _ => 1

/-- Registers that a value of the type takes. -/
def CTy.regs : CTy → Nat
  | .int t => t.regs
  | .flt t => t.regs

/-- Registers of a REDL or SCANL value. -/
def LaneOp.regs : LaneOp → Nat
  | .add t | .min t | .max t => t.regs
  | .and t | .or t | .xor t => t.regs
  | .fadd t _ => t.regs

/-- Registers of the data of an access. -/
def Wd.regs : Wd → Nat
  | .b64 => 2
  | .b128 => 4
  | _ => 1

/-- Registers of the data of an atomic. -/
def AtOp.regs : AtOp → Nat
  | .add t | .min t | .max t => t.regs
  | .and t | .or t | .xor t | .xchg t | .cas t => t.regs
  | .fadd t => t.regs

/-- 32- and 64-bit integer types. -/
def ITy.wide : ITy → Bool
  | .i32 | .n32 | .i64 | .n64 => true
  | _ => false

/-- Types of Table 9.9 for the operation. -/
def LaneOp.ok : LaneOp → Bool
  | .add t | .min t | .max t => t.wide
  | .and t | .or t | .xor t => t != .b128
  | .fadd t _ => t == .f32 || t == .f64

/-- Types of Table 10.4 for the operation. -/
def AtOp.ok : AtOp → Bool
  | .add t | .min t | .max t => t.wide
  | .and t | .or t | .xor t | .xchg t => t != .b128
  | .cas _ => true
  | .fadd t => t != .f16

/-- The operations that RED admits (Table 10.4). -/
def AtOp.isRed : AtOp → Bool
  | .xchg _ | .cas _ => false
  | _ => true

/-- Source format without infinities. -/
def FFmt.noInf : FFmt → Bool
  | .e4m3 => true
  | _ => false

/-- A source of FCVT. -/
def Reg.srcC (nv : Nat) (t : CTy) (r : Reg) : Bool :=
  match t with
  | .int t => r.srcI nv t.regs
  | .flt t => r.srcF nv t.regs t.noInf

/-- A source of an atomic: .fadd reads floating constants. -/
def Reg.srcAt (nv : Nat) (op : AtOp) (r : Reg) : Bool :=
  match op with
  | .fadd t => r.srcF nv t.regs false
  | op => r.srcI nv op.regs

/-- Address register: a pair for global memory, one register for a scratchpad (R165). -/
def MSp.aregs : MSp → Nat
  | .gl _ => 2
  | _ => 1

/-- Address register in the data layout (R166). -/
def DSp.aregs : DSp → Nat
  | .gl => 2
  | .sp => 1

/-- Modes that FCVT admits for a pair of types (R224). -/
def cvtModeOk (td ts : CTy) (rm : RM) : Bool :=
  match td, ts with
  | .int _, .int _ => rm == .rne
  | .int _, .flt _ => true
  | .flt (.std .f32), _ => true
  | .flt (.std .f16), _ => true
  | .flt (.std .bf16), _ => true
  | .flt _, _ => rm == .rne || rm == .rtz

/-- Width in registers of a special register, none for a number that is not assigned (Table 8.5). -/
def sregRegs (n : Nat) : Option Nat :=
  if n ∈ [0, 1, 2, 3, 4, 0x20, 0x21, 0x22, 0x24, 0x25, 0x38, 0x39, 0x3A, 0x3B, 0x41, 0x100, 0x102, 0x200] then some 1
  else if n ∈ [0x10, 0x11, 0x12, 0x23, 0x30, 0x31, 0x32, 0x33, 0x40, 0x101] then some 2
  else none

/-- Registers that some level may write (Table 8.5). -/
def sregWritable (n : Nat) : Bool :=
  n ∈ [0x20, 0x21, 0x22, 0x23, 0x25, 0x30, 0x31, 0x32, 0x33, 0x38, 0x39, 0x3A, 0x3B, 0x40, 0x41, 0x102, 0x200]

/-- WLEFT is 0 when WTAG is 0 or 7 (R154). -/
def Ctl.ok (c : Ctl) : Bool :=
  c.wleft.val = 0 || (c.wtag.val != 0 && c.wtag.val != 7)

/-- Each register field of an instruction, in the order D, A, B, C, with its check (R158 to R160). -/
def Instr.regChecks (nv : Nat) : Instr → List (Reg × Bool)
  | .brx _ t | .ret _ t => [(t, t.branch nv)]
  | .call _ l _ => [(l, l.branch nv)]
  | .eretRetry _ s | .eretSkip _ s => [(s, s.okK 1)]
  | .eretRedir _ s t => [(s, s.okK 1), (t, t.okK 2)]
  | .mfs _ d n => [(d, d.ok nv ((sregRegs n.toNat).getD 1))]
  | .mfsAevt _ d => [(d, d.ok nv 2)]
  | .mts _ n a => [(a, a.srcI nv ((sregRegs n.toNat).getD 1))]
  | .mtsApool _ a => [(a, a.srcI nv 1)]
  | .mtsPmc _ _ a => [(a, a.srcI nv 2)]
  | .evtH _ _ a => [(a, a.srcK)]
  | .frz _ i m _ _ => [(.v i, decide (i.val < nv)), (m, m.okK 4)]
  | .stamp _ _ b n => [(b, b.srcK), (n, n.srcK)]
  | .spawn _ _ i => [(i, i.srcI nv 1)]
  | .spawnRem _ _ i p => [(i, i.srcI nv 1), (p, p.ok nv 1)]
  | .ctxsave _ d s a | .ctxsaveFull _ d s a => [(d, d.okK 1), (s, s.okK 1), (a, a.okK 2)]
  | .ctxload _ s a => [(s, s.okK 1), (a, a.okK 2)]
  | .ctxsw _ s => [(s, s.okK 1)]
  | .tlbiPage _ a _ => [(a, a.okK 2)]
  | .tlbiGrain _ a t _ => [(a, a.okK 2), (t, t.okK 1)]
  | .placew _ d a b => [(d, d.okK 1), (a, a.okK 1), (b, b.okK 1)]
  | .add x | .sub x | .mul x | .mulh x | .div x | .rem x | .min x | .max x =>
    let n := x.ty.regs
    [(x.d, x.d.dst nv n [x.a, x.b]), (x.a, x.a.srcI nv n), (x.b, x.b.srcI nv n)]
  | .bfx x =>
    let n := x.ty.regs
    [(x.d, x.d.dst nv n [x.a, x.b]), (x.a, x.a.srcI nv n), (x.b, x.b.srcI nv 1)]
  | .addI x | .subI x | .mulI x | .minI x | .maxI x =>
    [(x.d, x.d.dst nv x.ty.regs [x.a]), (x.a, x.a.srcI nv x.ty.regs)]
  | .mad x =>
    let n := x.ty.regs
    [(x.d, x.d.dst nv n [x.a, x.b, x.e]), (x.a, x.a.srcI nv n), (x.b, x.b.srcI nv n), (x.e, x.e.srcI nv n)]
  | .abs x | .neg x => [(x.d, x.d.dst nv x.ty.regs [x.a]), (x.a, x.a.srcI nv x.ty.regs)]
  | .and x | .or x | .xor x =>
    let n := x.ty.regs
    [(x.d, x.d.dst nv n [x.a, x.b]), (x.a, x.a.srcI nv n), (x.b, x.b.srcI nv n)]
  | .shl x | .shr x | .sar x | .rot x =>
    let n := x.ty.regs
    [(x.d, x.d.dst nv n [x.a, x.b]), (x.a, x.a.srcI nv n), (x.b, x.b.srcI nv 1)]
  | .andI x | .orI x | .xorI x => [(x.d, x.d.dst nv x.ty.regs [x.a]), (x.a, x.a.srcI nv x.ty.regs)]
  | .shlI x | .shrI x | .sarI x | .rotI x => [(x.d, x.d.dst nv x.ty.regs [x.a]), (x.a, x.a.srcI nv x.ty.regs)]
  | .not x | .brev x | .mov x => [(x.d, x.d.dst nv x.ty.regs [x.a]), (x.a, x.a.srcI nv x.ty.regs)]
  | .popc x | .clz x => [(x.d, x.d.dst nv 1 [x.a]), (x.a, x.a.srcI nv x.ty.regs)]
  | .bfi x =>
    let n := x.ty.regs
    [(x.d, x.d.dst nv n [x.a, x.b, x.e]), (x.a, x.a.srcI nv n), (x.b, x.b.srcI nv 1), (x.e, x.e.srcI nv n)]
  | .lea x => [(x.d, x.d.dst nv 2 [x.a, x.b]), (x.a, x.a.ok nv 2), (x.b, x.b.srcI nv x.ty.regs)]
  | .leaI x => [(x.d, x.d.dst nv 2 [x.a]), (x.a, x.a.ok nv 2)]
  | .movi x => [(x.d, x.d.ok nv 1)]
  | .sel x =>
    let n := x.ty.regs
    [(x.d, x.d.okV nv n), (x.a, x.a.srcI nv n), (x.b, x.b.srcI nv n)]
  | .cmp x => [(x.a, x.a.srcI nv x.ty.regs), (x.b, x.b.srcI nv x.ty.regs)]
  | .cmpI x => [(x.a, x.a.srcI nv x.ty.regs)]
  | .fadd x | .fsub x | .fmul x | .fdiv x =>
    let n := x.ty.regs
    [(x.d, x.d.dst nv n [x.a, x.b]), (x.a, x.a.srcF nv n false), (x.b, x.b.srcF nv n false)]
  | .padd2 x | .pmul2 x => [(x.d, x.d.dst nv 1 [x.a, x.b]), (x.a, x.a.srcF nv 1 false), (x.b, x.b.srcF nv 1 false)]
  | .ffma x =>
    let n := x.ty.regs
    [(x.d, x.d.dst nv n [x.a, x.b, x.e]), (x.a, x.a.srcF nv n false), (x.b, x.b.srcF nv n false),
      (x.e, x.e.srcF nv n false)]
  | .pfma2 x =>
    [(x.d, x.d.dst nv 1 [x.a, x.b, x.e]), (x.a, x.a.srcF nv 1 false), (x.b, x.b.srcF nv 1 false),
      (x.e, x.e.srcF nv 1 false)]
  | .fmin x | .fmax x =>
    let n := x.ty.regs
    [(x.d, x.d.dst nv n [x.a, x.b]), (x.a, x.a.srcF nv n false), (x.b, x.b.srcF nv n false)]
  | .fcmp x => [(x.a, x.a.srcF nv x.ty.regs false), (x.b, x.b.srcF nv x.ty.regs false)]
  | .fcvt x => [(x.d, x.d.dst nv x.td.regs [x.a]), (x.a, x.a.srcC nv x.ts)]
  | .fclass x => [(x.d, x.d.dst nv 1 [x.a]), (x.a, x.a.srcF nv x.ty.regs x.ty.noInf)]
  | .fsqrt x => [(x.d, x.d.dst nv x.ty.regs [x.a]), (x.a, x.a.srcF nv x.ty.regs false)]
  | .sfn x => [(x.d, x.d.dst nv 1 [x.a]), (x.a, x.a.srcF nv 1 false)]
  | .shfl x =>
    let n := if x.wide then 2 else 1
    [(x.d, x.d.okV nv n), (x.a, x.a.okV nv n), (x.b, x.b.srcI nv 1)]
  | .redl x =>
    let n := x.op.regs
    [(x.d, x.d.ok nv n && (!x.d.isK || x.ls.val = 5)), (x.a, x.a.okV nv n)]
  | .scanl x => [(x.d, x.d.okV nv x.op.regs), (x.a, x.a.okV nv x.op.regs)]
  | .vote x => [(x.d, match x.mode with
      | .ballot => x.d.ok nv 1
      | _ => match x.d with
        | .p _ => true
        | _ => false)]
  | .ld x => [(x.d, x.d.dst nv x.w.regs [x.a]), (x.a, x.a.srcI nv x.m.aregs)]
  | .st x => [(x.d, x.d.srcI nv x.w.regs), (x.a, x.a.srcI nv x.m.aregs)]
  | .pref x => [(x.a, x.a.srcI nv 2)]
  | .ldf x => [(x.d, x.d.dst nv 1 [x.a]), (x.a, x.a.srcI nv 1)]
  | .ste x | .stf x => [(x.d, x.d.srcI nv 1), (x.a, x.a.srcI nv 1)]
  | .setfe x => [(x.a, x.a.srcI nv 1)]
  | .atom x => [(x.d, x.d.dst nv x.op.regs [x.a, x.b]), (x.a, x.a.srcI nv x.sp.aregs), (x.b, x.b.srcAt nv x.op)]
  | .red x => [(x.a, x.a.srcI nv x.sp.aregs), (x.b, x.b.srcAt nv x.op)]
  | .gth x =>
    [(x.d, x.d.dst nv (2 ^ x.lk.val) [x.a, x.b]), (x.a, x.a.srcI nv 2),
      (x.b, x.b.srcI nv (if x.lk.val ≤ 1 then 1 else if x.lk.val = 2 then 2 else 4))]
  | .own x => [(x.d, x.d.dst nv 1 [x.u]), (x.u, x.u.srcI nv 1)]
  | .waito x => [(x.u, x.u.srcI nv 1)]
  | .cpyG2s x | .cpyS2g x | .cpyS2r x | .cpyR2s x => [(x.a, x.a.okK 2), (x.b, x.b.okK 4)]
  | .fillS x => [(x.pat, x.pat.srcK), (x.b, x.b.okK 4)]
  | .fillG x => [(x.pat, x.pat.srcK), (x.a, x.a.okK 2), (x.b, x.b.okK 4)]
  | .gangset _ m _ => [(m, m.okK 1)]
  | .lds x => [(x.a, x.a.okK 2)]
  | .ldsSlab x => [(x.off, x.off.okK 1), (x.a, x.a.okK 2)]
  | .mma x => [(x.row, x.row.okK 1), (x.off, x.off.okK 1), (x.b, x.b.okK 1)]
  | .accz _ r n | .acczFree _ r n => [(r, r.okK 1), (n, n.srcK)]
  | .accrd _ d x => [(d, d.okV nv 2), (x, x.ok nv 1)]
  | .accwr _ x b => [(x, x.ok nv 1), (b, b.okV nv 2)]
  | .accst x => [(x.off, x.off.okK 1), (x.row, x.row.okK 1), (x.b, x.b.okK 1)]
  | .accscl x => [(x.s, match x.s with
      | .c _ => true
      | .k _ => true
      | r => r.okV nv 2), (x.row, x.row.okK 1), (x.n, x.n.okK 1)]
  | _ => []

/-- The common top of an instruction; none for an event. -/
def Instr.ctl : Instr → Option Ctl
  | .nop c | .bra c _ | .brx c _ | .call c _ _ | .ret c _ | .exit c | .yield c | .trap c _ | .trapRet c
  | .eretRetry c _ | .eretSkip c _ | .eretRedir c _ _ | .mfs c _ _ | .mfsAevt c _ | .mts c _ _ | .mtsApool c _
  | .mtsPmc c _ _ | .evt c _ | .evtH c _ _ | .frz c _ _ _ _ | .stamp c _ _ _ | .spawn c _ _ | .spawnRem c _ _ _
  | .ctxsave c _ _ _ | .ctxsaveFull c _ _ _ | .ctxload c _ _ | .ctxsw c _ | .tlbiCtx c _ | .tlbiPart c _
  | .tlbiPage c _ _ | .tlbiGrain c _ _ _ | .placew c _ _ _ => some c
  | .add x | .sub x | .mul x | .mulh x | .div x | .rem x | .min x | .max x | .bfx x => some x.c
  | .addI x | .subI x | .mulI x | .minI x | .maxI x => some x.c
  | .mad x => some x.c
  | .abs x | .neg x => some x.c
  | .and x | .or x | .xor x | .shl x | .shr x | .sar x | .rot x => some x.c
  | .andI x | .orI x | .xorI x => some x.c
  | .shlI x | .shrI x | .sarI x | .rotI x => some x.c
  | .not x | .popc x | .clz x | .brev x | .mov x => some x.c
  | .bfi x => some x.c
  | .lea x => some x.c
  | .leaI x => some x.c
  | .movi x => some x.c
  | .sel x => some x.c
  | .cmp x => some x.c
  | .cmpI x => some x.c
  | .pand x | .por x | .pxor x => some x.c
  | .pnot x => some x.c
  | .fadd x | .fsub x | .fmul x | .fdiv x | .padd2 x | .pmul2 x => some x.c
  | .ffma x | .pfma2 x => some x.c
  | .fmin x | .fmax x => some x.c
  | .fcmp x => some x.c
  | .fcvt x => some x.c
  | .fclass x => some x.c
  | .fsqrt x => some x.c
  | .sfn x => some x.c
  | .shfl x => some x.c
  | .redl x => some x.c
  | .scanl x => some x.c
  | .vote x => some x.c
  | .ld x => some x.c
  | .st x => some x.c
  | .pref x => some x.c
  | .ldf x | .ste x | .stf x => some x.c
  | .setfe x => some x.c
  | .atom x => some x.c
  | .red x => some x.c
  | .gth x => some x.c
  | .fenceR c _ | .fenceA c _ | .fenceAr c _ | .barT c | .barC c => some c
  | .own x => some x.c
  | .waito x => some x.c
  | .cpyG2s x | .cpyS2g x | .cpyS2r x | .cpyR2s x => some x.c
  | .fillS x | .fillG x => some x.c
  | .gangset c _ _ => some c
  | .lds x | .ldsSlab x => some x.c
  | .swp c _ | .swpFree c _ => some c
  | .mma x => some x.c
  | .accz c _ _ | .acczFree c _ _ | .accrd c _ _ | .accwr c _ _ => some c
  | .accst x => some x.c
  | .accscl x => some x.c
  | _ => none

/-- Field limits of the descriptions, besides registers: types, counts, modifiers, and zero for an operand that
the form does not use. -/
def Instr.fieldOk : Instr → Bool
  | .trap _ _ => true
  | .mfs _ _ n => (sregRegs n.toNat).isSome && n.toNat != 0x101
  | .mts _ n _ => sregWritable n.toNat && n.toNat != 0x102 && !(0x30 ≤ n.toNat && n.toNat ≤ 0x33)
  | .mulh x => x.ty.wide
  | .bfx x => x.ty.wide
  | .abs x => x.ty.ctorIdx < 4
  | .shl x | .shr x | .sar x | .rot x => x.ty != .b128
  | .andI x | .orI x | .xorI x => x.ty != .b128
  | .shlI x | .shrI x | .sarI x | .rotI x => x.ty != .b128
  | .popc x | .clz x | .brev x => x.ty != .b128
  | .bfi x => x.ty != .b128
  | .lea x => x.ty == .i32 || x.ty == .n32 || x.ty == .i64
  | .fcvt x => cvtModeOk x.td x.ts x.rm
  | .fdiv x => x.ty == .f32 || x.ty == .f64
  | .fsqrt x => x.ty == .f32 || x.ty == .f64
  | .padd2 x | .pmul2 x => x.ty == .f16 || x.ty == .bf16
  | .pfma2 x => x.ty == .f16 || x.ty == .bf16
  | .redl x => x.op.ok
  | .scanl x => x.op.ok
  | .ld x => x.ord != .vol || x.reuse.val = 0
  | .st x => x.ord != .vol || x.reuse.val = 0
  | .pref x => x.reuse.val != 0
  | .ldf x => match x.m with
    | .gl _ => false
    | _ => true
  | .ste x | .stf x => !x.take && match x.m with
    | .gl _ => false
    | _ => true
  | .setfe x => match x.m with
    | .gl _ => false
    | _ => true
  | .atom x => x.op.ok
  | .red x => x.op.ok && x.op.isRed && (match x.op, x.sp with
    | .fadd _, .sp => false
    | _, _ => true)
  | .barT c | .barC c => c.pred.val = 0 && !c.pn
  | .fillS x => x.a == .v 0
  | .lds x => x.off == .v 0
  | _ => true

/-- The term has an encoding, and its v registers lie below the register count (R160). -/
def Instr.wf (nv : Nat) (i : Instr) : Bool :=
  (match i.ctl with
    | some c => c.ok
    | none => true) && i.fieldOk && (i.regChecks nv).all (·.2)

end Sys2Proof
end

