-- ==== Sys2Proof/Decode.lean ====
section
/-! DEFINITION. The decoder of instruction words (R154 to R177) and, after it, an encoder written from the same
tables. `decode nv w` answers the instruction, or the ILL cause and INFO1 of Table 16.3. -/

namespace Sys2Proof

/-- What ILL reports of a word (Table 16.3). -/
structure Ill where
  cause : Nat
  info  : Nat
  deriving DecidableEq, Repr

/-! ## Bit fields -/

/-- `len` bits of `w` from bit `pos`. -/
def fld (w pos len : Nat) : Nat := w / 2 ^ pos % 2 ^ len

/-- Number of the lowest set bit below `fuel`. -/
def lowBit : Nat → Nat → Nat
  | 0, _ => 0
  | fuel + 1, n => if n % 2 = 1 then 0 else lowBit fuel (n / 2) + 1

/-- A field at `pos` that must be zero: its lowest set bit if it is not. -/
def zero (pos v : Nat) : Option Nat := if v = 0 then none else some (pos + lowBit 40 v)

/-- A code at `pos`: the field's lowest bit if the code is refused. -/
def code (pos : Nat) (ok : Bool) : Option Nat := if ok then none else some pos

/-- The lowest offending bit of a list of checks. -/
def lowest : List (Option Nat) → Option Nat
  | [] => none
  | none :: l => lowest l
  | some b :: l => match lowest l with
    | none => some b
    | some c => some (min b c)

/-! ## Codes -/

/-- The register of an 8-bit code (Table 7.2). -/
def Reg.ofCode (n : Nat) : Reg :=
  if n < 128 then .v (Fin.ofNat 128 n) else if n < 160 then .k (Fin.ofNat 32 (n - 128))
  else if n < 168 then .p (Fin.ofNat 8 (n - 160)) else .c (Fin.ofNat 64 (n - 192))

/-- The code of a register (Table 7.2). -/
def Reg.code : Reg → Nat
  | .v i => i.val
  | .k i => 128 + i.val
  | .p i => 160 + i.val
  | .c i => 192 + i.val

/-- The code is not a reserved register number. -/
def regCodeOk (n : Nat) : Bool := n < 168 || 192 ≤ n

/-- Type codes 0 to 7 (Table 7.4). -/
def ITy.ofCode : Nat → ITy
  | 0 => .i8 | 1 => .i16 | 2 => .i32 | 3 => .i64 | 4 => .n8 | 5 => .n16 | 6 => .n32 | _ => .n64

/-- Type codes 0 to 7 (Table 7.4). -/
def ITy.code : ITy → Nat
  | .i8 => 0 | .i16 => 1 | .i32 => 2 | .i64 => 3 | .n8 => 4 | .n16 => 5 | .n32 => 6 | .n64 => 7

/-- Type codes 14 and 15 with SUB (R216). -/
def BTy.ofCode (ty sub : Nat) : BTy := if ty = 14 then .b32 else if sub = 1 then .b128 else .b64

/-- Type code (R216). -/
def BTy.code : BTy → Nat
  | .b32 => 14 | _ => 15

/-- SUB of a raw-bit type (R216). -/
def BTy.sub : BTy → Nat
  | .b128 => 1 | _ => 0

/-- Type codes 8 to 11 (Table 7.4). -/
def FTy.ofCode : Nat → FTy
  | 8 => .f16 | 9 => .bf16 | 10 => .f32 | _ => .f64

/-- Type codes 8 to 11 (Table 7.4). -/
def FTy.code : FTy → Nat
  | .f16 => 8 | .bf16 => 9 | .f32 => 10 | .f64 => 11

/-- Type codes 8 to 13 (Table 7.4). -/
def FFmt.ofCode (n : Nat) : FFmt := if n = 12 then .e4m3 else if n = 13 then .e5m2 else .std (.ofCode n)

/-- Type codes 8 to 13 (Table 7.4). -/
def FFmt.code : FFmt → Nat
  | .std t => t.code | .e4m3 => 12 | .e5m2 => 13

/-- Type codes 0 to 13 (Table 7.4). -/
def CTy.ofCode (n : Nat) : CTy := if n < 8 then .int (.ofCode n) else .flt (.ofCode n)

/-- Type codes 0 to 13 (Table 7.4). -/
def CTy.code : CTy → Nat
  | .int t => t.code | .flt t => t.code

/-- Rounding modes (Table 6.4). -/
def RM.ofCode : Nat → RM
  | 0 => .rne | 1 => .rtz | 2 => .rup | _ => .rdn

/-- Rounding modes (Table 6.4). -/
def RM.code : RM → Nat
  | .rne => 0 | .rtz => 1 | .rup => 2 | .rdn => 3

/-- Conditions of CMP (R220). -/
def Cond.ofCode : Nat → Cond
  | 0 => .eq | 1 => .ne | 2 => .lt | 3 => .le | 4 => .gt | _ => .ge

/-- Conditions of CMP (R220). -/
def Cond.code : Cond → Nat
  | .eq => 0 | .ne => 1 | .lt => 2 | .le => 3 | .gt => 4 | .ge => 5

/-- Conditions of FCMP (Table 9.6). -/
def FCond.ofCode : Nat → FCond
  | 0 => .eq | 1 => .ne | 2 => .lt | 3 => .le | 4 => .gt | 5 => .ge | 6 => .un | _ => .ord

/-- Conditions of FCMP (Table 9.6). -/
def FCond.code : FCond → Nat
  | .eq => 0 | .ne => 1 | .lt => 2 | .le => 3 | .gt => 4 | .ge => 5 | .un => 6 | .ord => 7

/-- Selectors of SFN (R227). -/
def SfnFn.ofCode : Nat → SfnFn
  | 0 => .rcp | 1 => .rsq | 2 => .sqrt | 3 => .ex2 | 4 => .lg2 | 5 => .sin | 6 => .cos | 7 => .tanh | 8 => .sigm
  | _ => .erf

/-- Selectors of SFN (R227). -/
def SfnFn.code : SfnFn → Nat
  | .rcp => 0 | .rsq => 1 | .sqrt => 2 | .ex2 => 3 | .lg2 => 4 | .sin => 5 | .cos => 6 | .tanh => 7 | .sigm => 8
  | .erf => 9

/-- Modes of SHFL (Table 9.7). -/
def ShMode.ofCode : Nat → ShMode
  | 0 => .idx | 1 => .up | 2 => .down | _ => .xor

/-- Modes of SHFL (Table 9.7). -/
def ShMode.code : ShMode → Nat
  | .idx => 0 | .up => 1 | .down => 2 | .xor => 3

/-- Modes of VOTE (R234). -/
def VMode.ofCode : Nat → VMode
  | 0 => .any | 1 => .all | _ => .ballot

/-- Modes of VOTE (R234). -/
def VMode.code : VMode → Nat
  | .any => 0 | .all => 1 | .ballot => 2

/-- Scopes (R165). -/
def Scope.ofCode : Nat → Scope
  | 0 => .team | 1 => .cluster | 2 => .part | _ => .sys

/-- Scopes (R165). -/
def Scope.code : Scope → Nat
  | .team => 0 | .cluster => 1 | .part => 2 | .sys => 3

/-- Access widths (R165). -/
def Wd.ofCode : Nat → Wd
  | 0 => .b8 | 1 => .b16 | 2 => .b32 | 3 => .b64 | _ => .b128

/-- Access widths (R165). -/
def Wd.code : Wd → Nat
  | .b8 => 0 | .b16 => 1 | .b32 => 2 | .b64 => 3 | .b128 => 4

/-- Matrix formats (Table 11.1). -/
def MFmt.ofCode : Nat → MFmt
  | 0 => .bf16 | 1 => .f16 | 2 => .f32 | 3 => .f64 | 4 => .i8 | 5 => .e4m3 | 6 => .e5m2 | 7 => .mxf8 | 8 => .mxf6
  | 9 => .mxf4 | _ => .lg6

/-- Matrix formats (Table 11.1). -/
def MFmt.code : MFmt → Nat
  | .bf16 => 0 | .f16 => 1 | .f32 => 2 | .f64 => 3 | .i8 => 4 | .e4m3 => 5 | .e5m2 => 6 | .mxf8 => 7 | .mxf6 => 8
  | .mxf4 => 9 | .lg6 => 10

/-- Output codes of ACCST (Table 11.6). -/
def OFmt.ofCode : Nat → OFmt
  | 0 => .bf16 | 1 => .f16 | 2 => .raw | 4 => .i8 | 5 => .e4m3 | 6 => .e5m2 | 7 => .mxf8 | 8 => .mxf6 | 9 => .mxf4
  | _ => .lg6

/-- Output codes of ACCST (Table 11.6). -/
def OFmt.code : OFmt → Nat
  | .bf16 => 0 | .f16 => 1 | .raw => 2 | .i8 => 4 | .e4m3 => 5 | .e5m2 => 6 | .mxf8 => 7 | .mxf6 => 8 | .mxf4 => 9
  | .lg6 => 10

/-- REDL and SCANL operations (Table 9.9). -/
def LaneOp.ofCode (op ty rm : Nat) : LaneOp :=
  match op with
  | 0 => .add (.ofCode ty) | 1 => .min (.ofCode ty) | 2 => .max (.ofCode ty)
  | 3 => .and (.ofCode ty 0) | 4 => .or (.ofCode ty 0) | 5 => .xor (.ofCode ty 0)
  | _ => .fadd (.ofCode ty) (.ofCode rm)

/-- The operation's code, type code and mode code (Table 9.9). -/
def LaneOp.codes : LaneOp → Nat × Nat × Nat
  | .add t => (0, t.code, 0) | .min t => (1, t.code, 0) | .max t => (2, t.code, 0)
  | .and t => (3, t.code, 0) | .or t => (4, t.code, 0) | .xor t => (5, t.code, 0)
  | .fadd t rm => (6, t.code, rm.code)

/-- TYPE and RM admitted by an operation code of Table 9.9. -/
def laneCodesOk (op ty rm : Nat) : Bool :=
  if op ≤ 2 then (ty == 2 || ty == 3 || ty == 6 || ty == 7) && rm == 0
  else if op ≤ 5 then (ty == 14 || ty == 15) && rm == 0
  else ty == 10 || ty == 11

/-- ATOM and RED operations (Table 10.4). -/
def AtOp.ofCode (op ty : Nat) : AtOp :=
  match op with
  | 0 => .add (.ofCode ty) | 1 => .min (.ofCode ty) | 2 => .max (.ofCode ty)
  | 3 => .and (.ofCode ty 0) | 4 => .or (.ofCode ty 0) | 5 => .xor (.ofCode ty 0)
  | 6 => .xchg (.ofCode ty 0) | 7 => .cas (.ofCode ty 0) | 8 => .fadd (.ofCode ty)
  | _ => .cas .b128

/-- The operation's code and type code (Table 10.4). -/
def AtOp.codes : AtOp → Nat × Nat
  | .add t => (0, t.code) | .min t => (1, t.code) | .max t => (2, t.code)
  | .and t => (3, t.code) | .or t => (4, t.code) | .xor t => (5, t.code)
  | .xchg t => (6, t.code) | .cas .b128 => (9, 15) | .cas t => (7, t.code) | .fadd t => (8, t.code)

/-- TYPE admitted by an operation code of Table 10.4. -/
def atCodesOk (op ty : Nat) : Bool :=
  if op ≤ 2 then ty == 2 || ty == 3 || ty == 6 || ty == 7
  else if op ≤ 7 then ty == 14 || ty == 15
  else if op = 8 then ty == 9 || ty == 10 || ty == 11
  else op == 9 && ty == 15

/-! ## Formats -/

/-- Format R (Table 7.5). -/
structure RF where
  d : Nat
  a : Nat
  b : Nat
  c : Nat
  ty : Nat
  rm : Nat
  sub : Nat
  deriving DecidableEq, Repr

/-- Format I, short layout (Table 7.6). -/
structure IF where
  d : Nat
  a : Nat
  ty : Nat
  imm : Nat
  deriving DecidableEq, Repr

/-- Format M, offset layout (Table 7.7). -/
structure MF where
  d : Nat
  a : Nat
  off : Nat
  re : Nat
  sp : Nat
  w : Nat
  ov : Nat
  sc : Nat
  deriving DecidableEq, Repr

/-- Format M, data layout (Table 7.9). -/
structure DF where
  d : Nat
  a : Nat
  b : Nat
  op : Nat
  ty : Nat
  sp : Nat
  ov : Nat
  sc : Nat
  z : Nat
  deriving DecidableEq, Repr

/-- Format B (Table 7.10). -/
structure BF where
  link : Nat
  tgt : Nat
  off : Nat
  deriving DecidableEq, Repr

/-- Format X (Table 7.11). -/
structure XF where
  d : Nat
  a : Nat
  b : Nat
  ctl : Nat
  deriving DecidableEq, Repr

/-- The fields of a word in format R. -/
def RF.of (w : Nat) : RF :=
  ⟨fld w 32 8, fld w 24 8, fld w 16 8, fld w 8 8, fld w 4 4, fld w 2 2, fld w 0 2⟩

/-- Bits [39:0] in format R. -/
def RF.bits (x : RF) : Nat :=
  x.d * 2 ^ 32 + x.a * 2 ^ 24 + x.b * 2 ^ 16 + x.c * 2 ^ 8 + x.ty * 2 ^ 4 + x.rm * 2 ^ 2 + x.sub

/-- The fields of a word in format I. -/
def IF.of (w : Nat) : IF := ⟨fld w 32 8, fld w 24 8, fld w 20 4, fld w 0 20⟩

/-- Bits [39:0] in format I. -/
def IF.bits (x : IF) : Nat := x.d * 2 ^ 32 + x.a * 2 ^ 24 + x.ty * 2 ^ 20 + x.imm

/-- The fields of a word in the offset layout of format M. -/
def MF.of (w : Nat) : MF :=
  ⟨fld w 32 8, fld w 24 8, fld w 14 10, fld w 10 4, fld w 8 2, fld w 5 3, fld w 2 3, fld w 0 2⟩

/-- Bits [39:0] in the offset layout of format M. -/
def MF.bits (x : MF) : Nat :=
  x.d * 2 ^ 32 + x.a * 2 ^ 24 + x.off * 2 ^ 14 + x.re * 2 ^ 10 + x.sp * 2 ^ 8 + x.w * 2 ^ 5 + x.ov * 2 ^ 2 + x.sc

/-- The fields of a word in the data layout of format M. -/
def DF.of (w : Nat) : DF :=
  ⟨fld w 32 8, fld w 24 8, fld w 16 8, fld w 12 4, fld w 8 4, fld w 6 2, fld w 3 3, fld w 1 2, fld w 0 1⟩

/-- Bits [39:0] in the data layout of format M. -/
def DF.bits (x : DF) : Nat :=
  x.d * 2 ^ 32 + x.a * 2 ^ 24 + x.b * 2 ^ 16 + x.op * 2 ^ 12 + x.ty * 2 ^ 8 + x.sp * 2 ^ 6 + x.ov * 2 ^ 3
    + x.sc * 2 + x.z

/-- The fields of a word in format B. -/
def BF.of (w : Nat) : BF := ⟨fld w 32 8, fld w 24 8, fld w 0 24⟩

/-- Bits [39:0] in format B. -/
def BF.bits (x : BF) : Nat := x.link * 2 ^ 32 + x.tgt * 2 ^ 24 + x.off

/-- The fields of a word in format X. -/
def XF.of (w : Nat) : XF := ⟨fld w 32 8, fld w 24 8, fld w 16 8, fld w 0 16⟩

/-- Bits [39:0] in format X. -/
def XF.bits (x : XF) : Nat := x.d * 2 ^ 32 + x.a * 2 ^ 24 + x.b * 2 ^ 16 + x.ctl

/-- The common top of a word (Table 7.1). -/
def Ctl.of (w : Nat) : Ctl :=
  ⟨Fin.ofNat 8 (fld w 53 3), Fin.ofNat 8 (fld w 50 3), Fin.ofNat 8 (fld w 47 3), Fin.ofNat 8 (fld w 44 3),
    fld w 43 1 == 1, Fin.ofNat 8 (fld w 40 3)⟩

/-- Bits [63:40] of a word (Table 7.1). -/
def Ctl.bits (opc : Nat) (c : Ctl) : Nat :=
  opc * 2 ^ 56 + c.stall.val * 2 ^ 53 + c.set.val * 2 ^ 50 + c.wtag.val * 2 ^ 47 + c.wleft.val * 2 ^ 44
    + c.pn.toNat * 2 ^ 43 + c.pred.val * 2 ^ 40

/-! ## Assembling an answer -/

/-- The first register of a list of codes and checks that a word breaches (ILL cause 3). -/
def firstBadReg : List (Reg × Bool) → Option Nat
  | [] => none
  | (r, ok) :: l => if ok then firstBadReg l else some r.code

/-- The first code that names a reserved register. -/
def firstBadCode : List Nat → Option Nat
  | [] => none
  | n :: l => if regCodeOk n then firstBadCode l else some n

/-- The first code that does not name a predicate. -/
def firstBadPred : List Nat → Option Nat
  | [] => none
  | n :: l => if 160 ≤ n && n < 168 then firstBadPred l else some n

/-- WLEFT with WTAG 0 or 7 (R154). -/
def ctlBits (c : Ctl) : Option Nat := if c.ok then none else some (44 + lowBit 3 c.wleft.val)

/-- Accept an instruction whose fields pass: cause 2 with the lowest offending bit first, then cause 3 with the
first offending register. -/
def accept (nv : Nat) (bits : List (Option Nat)) (codes preds : List Nat) (i : Instr) : Except Ill Instr :=
  match lowest bits with
  | some b => .error ⟨2, b⟩
  | none => match firstBadCode codes with
    | some r => .error ⟨3, r⟩
    | none => match firstBadPred preds with
      | some r => .error ⟨3, r⟩
      | none => match firstBadReg (i.regChecks nv) with
        | some r => .error ⟨3, r⟩
        | none => .ok i

/-- The predicate of a predicate field. -/
def predOf (n : Nat) : Fin 8 := Fin.ofNat 8 (n - 160)

/-- Shorthand for the register of a code. -/
abbrev rg := Reg.ofCode

/-! ## Format R -/

/-- Integer D, A, B. -/
def decInt (nv : Nat) (c : Ctl) (x : RF) (wide : Bool) (mk : IntR → Instr) : Except Ill Instr :=
  accept nv [ctlBits c, zero 8 x.c, code 4 (x.ty < 8 && (!wide || (ITy.ofCode x.ty).wide)), zero 2 x.rm, zero 0 x.sub]
    [x.d, x.a, x.b] [] (mk ⟨c, rg x.d, rg x.a, rg x.b, .ofCode x.ty⟩)

/-- Integer D, A. -/
def decIntU (nv : Nat) (c : Ctl) (x : RF) (lim : Nat) (mk : IntU → Instr) : Except Ill Instr :=
  accept nv [ctlBits c, zero 16 x.b, zero 8 x.c, code 4 (x.ty < lim), zero 2 x.rm, zero 0 x.sub]
    [x.d, x.a] [] (mk ⟨c, rg x.d, rg x.a, .ofCode x.ty⟩)

/-- SUB of a raw-bit instruction: 1 only with TYPE 15 where .b128 is admitted (R216). -/
def subBits (x : RF) (quad : Bool) : Option Nat :=
  if x.sub = 1 && quad && x.ty = 15 then none else zero 0 x.sub

/-- Raw bits D, A, B. -/
def decBit (nv : Nat) (c : Ctl) (x : RF) (quad : Bool) (mk : BitR → Instr) : Except Ill Instr :=
  accept nv [ctlBits c, zero 8 x.c, code 4 (14 ≤ x.ty), zero 2 x.rm, subBits x quad]
    [x.d, x.a, x.b] [] (mk ⟨c, rg x.d, rg x.a, rg x.b, .ofCode x.ty x.sub⟩)

/-- Raw bits D, A. -/
def decBitU (nv : Nat) (c : Ctl) (x : RF) (quad : Bool) (mk : BitU → Instr) : Except Ill Instr :=
  accept nv [ctlBits c, zero 16 x.b, zero 8 x.c, code 4 (14 ≤ x.ty), zero 2 x.rm, subBits x quad]
    [x.d, x.a] [] (mk ⟨c, rg x.d, rg x.a, .ofCode x.ty x.sub⟩)

/-- Predicate logic of two sources. -/
def decPred (nv : Nat) (c : Ctl) (x : RF) (mk : PredR → Instr) : Except Ill Instr :=
  accept nv [ctlBits c, zero 8 x.c, zero 4 x.ty, zero 2 x.rm, zero 0 x.sub] [] [x.d, x.a, x.b]
    (mk ⟨c, predOf x.d, predOf x.a, predOf x.b⟩)

/-- Floating D, A, B with RM; `lo` and `hi` bound TYPE. -/
def decFp (nv : Nat) (c : Ctl) (x : RF) (lo hi : Nat) (mk : FpR → Instr) : Except Ill Instr :=
  accept nv [ctlBits c, zero 8 x.c, code 4 (lo ≤ x.ty && x.ty ≤ hi), zero 0 x.sub]
    [x.d, x.a, x.b] [] (mk ⟨c, rg x.d, rg x.a, rg x.b, .ofCode x.ty, .ofCode x.rm⟩)

/-- Floating D, A, B, C with RM. -/
def decFpC (nv : Nat) (c : Ctl) (x : RF) (hi : Nat) (mk : FpRC → Instr) : Except Ill Instr :=
  accept nv [ctlBits c, code 4 (8 ≤ x.ty && x.ty ≤ hi), zero 0 x.sub]
    [x.d, x.a, x.b, x.c] [] (mk ⟨c, rg x.d, rg x.a, rg x.b, rg x.c, .ofCode x.ty, .ofCode x.rm⟩)

/-- FMIN, FMAX. -/
def decFpM (nv : Nat) (c : Ctl) (x : RF) (mk : FpM → Instr) : Except Ill Instr :=
  accept nv [ctlBits c, zero 8 x.c, code 4 (8 ≤ x.ty && x.ty ≤ 11), zero 2 x.rm, zero 0 x.sub]
    [x.d, x.a, x.b] [] (mk ⟨c, rg x.d, rg x.a, rg x.b, .ofCode x.ty⟩)

/-- Modes of FCVT by code (R224). -/
def cvtRm (x : RF) : Bool :=
  cvtModeOk (.ofCode x.ty) (.ofCode (x.c % 16)) (.ofCode x.rm)

/-- Instructions of format R (R211 to R234). -/
def decR (nv opc : Nat) (c : Ctl) (x : RF) : Except Ill Instr :=
  match opc with
  | 0x20 => decInt nv c x false .add
  | 0x21 => decInt nv c x false .sub
  | 0x22 => decInt nv c x false .mul
  | 0x23 => decInt nv c x true .mulh
  | 0x24 => accept nv [ctlBits c, code 4 (x.ty < 8), zero 2 x.rm, zero 0 x.sub] [x.d, x.a, x.b, x.c] []
      (.mad ⟨c, rg x.d, rg x.a, rg x.b, rg x.c, .ofCode x.ty⟩)
  | 0x25 => decInt nv c x false .div
  | 0x26 => decInt nv c x false .rem
  | 0x27 => decInt nv c x false .min
  | 0x28 => decInt nv c x false .max
  | 0x29 => decIntU nv c x 4 .abs
  | 0x2A => decIntU nv c x 8 .neg
  | 0x2B => decBit nv c x true .and
  | 0x2C => decBit nv c x true .or
  | 0x2D => decBit nv c x true .xor
  | 0x2E => decBitU nv c x true .not
  | 0x2F => accept nv [ctlBits c, zero 16 x.b, zero 8 x.c, zero 4 x.ty, zero 2 x.rm, zero 0 x.sub] [] [x.d, x.a]
      (.pnot ⟨c, predOf x.d, predOf x.a⟩)
  | 0x30 => decBit nv c x false .shl
  | 0x31 => decBit nv c x false .shr
  | 0x32 => decBit nv c x false .sar
  | 0x33 => decBit nv c x false .rot
  | 0x34 => decBitU nv c x false .popc
  | 0x35 => decBitU nv c x false .clz
  | 0x36 => decBitU nv c x false .brev
  | 0x37 => decInt nv c x true .bfx
  | 0x38 => accept nv [ctlBits c, code 4 (14 ≤ x.ty), zero 2 x.rm, zero 0 x.sub] [x.d, x.a, x.b, x.c] []
      (.bfi ⟨c, rg x.d, rg x.a, rg x.b, rg x.c, .ofCode x.ty 0⟩)
  | 0x39 => accept nv [ctlBits c, zero 12 (x.c / 16), code 4 (x.ty == 2 || x.ty == 3 || x.ty == 6), zero 2 x.rm,
      zero 0 x.sub] [x.d, x.a, x.b] []
      (.lea ⟨c, rg x.d, rg x.a, rg x.b, .ofCode x.ty, Fin.ofNat 16 x.c⟩)
  | 0x3A => decBitU nv c x true .mov
  | 0x3B => accept nv [ctlBits c, code 4 (14 ≤ x.ty), zero 2 x.rm, subBits x true] [x.d, x.a, x.b] [x.c]
      (.sel ⟨c, rg x.d, rg x.a, rg x.b, predOf x.c, .ofCode x.ty x.sub⟩)
  | 0x3C => accept nv [ctlBits c, code 8 (x.c % 8 < 6), zero 11 (x.c / 8), code 4 (x.ty < 8), zero 2 x.rm,
      zero 0 x.sub] [x.a, x.b] [x.d]
      (.cmp ⟨c, predOf x.d, rg x.a, rg x.b, .ofCode (x.c % 8), .ofCode x.ty⟩)
  | 0x3D => decPred nv c x .pand
  | 0x3E => decPred nv c x .por
  | 0x3F => decPred nv c x .pxor
  | 0x50 => decFp nv c x 8 11 .fadd
  | 0x51 => decFp nv c x 8 11 .fsub
  | 0x52 => decFp nv c x 8 11 .fmul
  | 0x53 => decFpC nv c x 11 .ffma
  | 0x54 => decFpM nv c x .fmin
  | 0x55 => decFpM nv c x .fmax
  | 0x56 => accept nv [ctlBits c, zero 11 (x.c / 8), code 4 (8 ≤ x.ty && x.ty ≤ 11), zero 2 x.rm, zero 0 x.sub]
      [x.a, x.b] [x.d] (.fcmp ⟨c, predOf x.d, rg x.a, rg x.b, .ofCode (x.c % 8), .ofCode x.ty⟩)
  | 0x57 => accept nv [ctlBits c, zero 16 x.b, code 8 (x.c % 16 < 14), zero 13 (x.c / 32), code 4 (x.ty < 14),
      code 2 (cvtRm x), zero 0 x.sub] [x.d, x.a] []
      (.fcvt ⟨c, rg x.d, rg x.a, .ofCode x.ty, .ofCode (x.c % 16), x.c / 16 % 2 == 1, .ofCode x.rm⟩)
  | 0x58 => accept nv [ctlBits c, zero 16 x.b, zero 8 x.c, code 4 (8 ≤ x.ty && x.ty < 14), zero 2 x.rm, zero 0 x.sub]
      [x.d, x.a] [] (.fclass ⟨c, rg x.d, rg x.a, .ofCode x.ty⟩)
  | 0x59 => decFp nv c x 10 11 .fdiv
  | 0x5A => accept nv [ctlBits c, zero 16 x.b, zero 8 x.c, code 4 (10 ≤ x.ty && x.ty ≤ 11), zero 0 x.sub] [x.d, x.a] []
      (.fsqrt ⟨c, rg x.d, rg x.a, .ofCode x.ty, .ofCode x.rm⟩)
  | 0x5B => accept nv [ctlBits c, zero 16 x.b, code 8 (x.c % 16 < 10), zero 12 (x.c / 16), code 4 (x.ty == 10),
      zero 2 x.rm, zero 0 x.sub] [x.d, x.a] []
      (.sfn ⟨c, rg x.d, rg x.a, .ofCode (x.c % 16)⟩)
  | 0x5C => decFp nv c x 8 9 .padd2
  | 0x5D => decFp nv c x 8 9 .pmul2
  | 0x5E => decFpC nv c x 9 .pfma2
  | 0x60 => accept nv [ctlBits c, code 8 (x.c % 8 < 6), zero 12 (x.c / 16), code 4 (14 ≤ x.ty), zero 2 x.rm]
      [x.d, x.a, x.b] []
      (.shfl ⟨c, rg x.d, rg x.a, rg x.b, .ofCode x.sub, Fin.ofNat 6 (x.c % 8), x.c / 8 % 2 == 1, x.ty == 15⟩)
  | 0x61 => accept nv [ctlBits c, zero 16 x.b, code 8 (x.c % 8 < 6), zero 11 (x.c / 8 % 2), code 12 (x.c / 16 % 8 < 7),
      zero 15 (x.c / 128), code 4 (laneCodesOk (x.c / 16 % 8) x.ty x.rm), zero 0 x.sub] [x.d, x.a] []
      (.redl ⟨c, rg x.d, rg x.a, .ofCode (x.c / 16 % 8) x.ty x.rm, Fin.ofNat 6 (x.c % 8)⟩)
  | 0x62 => accept nv [ctlBits c, zero 16 x.b, code 8 (x.c % 8 < 6), zero 11 (x.c / 8 % 2), code 12 (x.c / 16 % 8 < 7),
      zero 15 (x.c / 128), code 4 (laneCodesOk (x.c / 16 % 8) x.ty x.rm), code 0 (x.sub < 2)] [x.d, x.a] []
      (.scanl ⟨c, rg x.d, rg x.a, .ofCode (x.c / 16 % 8) x.ty x.rm, Fin.ofNat 6 (x.c % 8), x.sub == 1⟩)
  | 0x63 => accept nv [ctlBits c, zero 16 x.b, zero 8 x.c, zero 4 x.ty, zero 2 x.rm, code 0 (x.sub < 3)] [x.d] [x.a]
      (.vote ⟨c, rg x.d, predOf x.a, .ofCode x.sub⟩)
  | _ => .error ⟨1, 0⟩

/-! ## Format I -/

/-- Integer D, A, IMM20. -/
def decII (nv : Nat) (c : Ctl) (x : IF) (mk : IntI → Instr) : Except Ill Instr :=
  accept nv [ctlBits c, code 20 (x.ty < 8)] [x.d, x.a] []
    (mk ⟨c, rg x.d, rg x.a, .ofCode x.ty, BitVec.ofNat 20 x.imm⟩)

/-- Logic D, A, IMM20. -/
def decBI (nv : Nat) (c : Ctl) (x : IF) (mk : BitI → Instr) : Except Ill Instr :=
  accept nv [ctlBits c, code 20 (14 ≤ x.ty)] [x.d, x.a] []
    (mk ⟨c, rg x.d, rg x.a, .ofCode x.ty 0, BitVec.ofNat 20 x.imm⟩)

/-- Shift D, A, count. -/
def decShI (nv : Nat) (c : Ctl) (x : IF) (mk : ShI → Instr) : Except Ill Instr :=
  accept nv [ctlBits c, code 20 (14 ≤ x.ty), zero 6 (x.imm / 64)] [x.d, x.a] []
    (mk ⟨c, rg x.d, rg x.a, .ofCode x.ty 0, Fin.ofNat 64 x.imm⟩)

/-- Instructions of format I (R164). -/
def decI (nv opc : Nat) (c : Ctl) (x : IF) : Except Ill Instr :=
  match opc with
  | 0x40 => decII nv c x .addI
  | 0x41 => decII nv c x .subI
  | 0x42 => decII nv c x .mulI
  | 0x43 => decBI nv c x .andI
  | 0x44 => decBI nv c x .orI
  | 0x45 => decBI nv c x .xorI
  | 0x46 => decShI nv c x .shlI
  | 0x47 => decShI nv c x .shrI
  | 0x48 => decShI nv c x .sarI
  | 0x49 => decShI nv c x .rotI
  | 0x4A => decII nv c x .minI
  | 0x4B => decII nv c x .maxI
  | 0x4C => accept nv [ctlBits c, code 20 (x.ty < 8), code 17 (x.imm / 2 ^ 17 < 6)] [x.a] [x.d]
      (.cmpI ⟨c, predOf x.d, rg x.a, .ofCode (x.imm / 2 ^ 17), .ofCode x.ty, BitVec.ofNat 17 (x.imm % 2 ^ 17)⟩)
  | 0x4D => accept nv [ctlBits c, code 20 (x.ty == 3)] [x.d, x.a] []
      (.leaI ⟨c, rg x.d, rg x.a, BitVec.ofNat 20 x.imm⟩)
  | 0x4E => accept nv [ctlBits c] [x.d] []
      (.movi ⟨c, rg x.d, BitVec.ofNat 32 (x.a * 2 ^ 24 + x.ty * 2 ^ 20 + x.imm)⟩)
  | _ => .error ⟨1, 0⟩

/-! ## Format M -/

/-- The address part of the offset layout (R165). -/
def mspOf (x : MF) : MSp :=
  if x.sp = 0 then .gl (BitVec.ofNat 10 x.off) else if x.sp = 1 then .sp (BitVec.ofNat 10 x.off)
  else .rem (Fin.ofNat 32 (x.off / 32)) (BitVec.ofNat 5 (x.off % 32))

/-- SP and OFF10 of an address part. -/
def MSp.codes : MSp → Nat × Nat
  | .gl o => (0, o.toNat) | .sp o => (1, o.toNat) | .rem k o => (2, k.val * 32 + o.toNat)

/-- Ordering of LD from OV and SCOPE. -/
def ldOrdOf (ov sc : Nat) : LdOrd := if ov = 0 then .plain else if ov = 4 then .vol else .acq (.ofCode sc)

/-- OV and SCOPE of LD. -/
def LdOrd.codes : LdOrd → Nat × Nat
  | .plain => (0, 0) | .vol => (4, 0) | .acq s => (1, s.code)

/-- Ordering of ST from OV and SCOPE. -/
def stOrdOf (ov sc : Nat) : StOrd := if ov = 0 then .plain else if ov = 4 then .vol else .rel (.ofCode sc)

/-- OV and SCOPE of ST. -/
def StOrd.codes : StOrd → Nat × Nat
  | .plain => (0, 0) | .vol => (4, 0) | .rel s => (2, s.code)

/-- SCOPE is 0 when OV is 0 or 4 (R165). -/
def scopeBits (pos ov sc : Nat) : Option Nat := if ov = 0 || ov = 4 then zero pos sc else none

/-- A full/empty instruction (R242). -/
def decFe (nv : Nat) (c : Ctl) (x : MF) (ldf : Bool) (mk : FeR → Instr) : Except Ill Instr :=
  accept nv [ctlBits c, code 8 (x.sp == 1 || x.sp == 2), code 5 (x.w == 2), code 2 (x.ov == 0 || (ldf && x.ov == 5)),
      code 0 (x.sc < 2)] [x.d, x.a] []
    (mk ⟨c, rg x.d, rg x.a, mspOf x, Fin.ofNat 16 x.re, x.ov == 5, x.sc == 1⟩)

/-- Instructions of the offset layout (R239 to R242). -/
def decM (nv opc : Nat) (c : Ctl) (x : MF) : Except Ill Instr :=
  match opc with
  | 0x70 => accept nv [ctlBits c, code 8 (x.sp < 3), code 5 (x.w < 5), code 2 (x.ov == 0 || x.ov == 1 || x.ov == 4),
      scopeBits 0 x.ov x.sc, if x.ov = 4 then zero 10 x.re else none] [x.d, x.a] []
      (.ld ⟨c, rg x.d, rg x.a, mspOf x, .ofCode x.w, Fin.ofNat 16 x.re, ldOrdOf x.ov x.sc⟩)
  | 0x71 => accept nv [ctlBits c, code 8 (x.sp < 3), code 5 (x.w < 5), code 2 (x.ov == 0 || x.ov == 2 || x.ov == 4),
      scopeBits 0 x.ov x.sc, if x.ov = 4 then zero 10 x.re else none] [x.d, x.a] []
      (.st ⟨c, rg x.d, rg x.a, mspOf x, .ofCode x.w, Fin.ofNat 16 x.re, stOrdOf x.ov x.sc⟩)
  | 0x72 => accept nv [ctlBits c, zero 32 x.d, code 10 (x.re != 0), zero 8 x.sp, code 5 (x.w < 5), zero 2 x.ov,
      zero 0 x.sc] [x.a] []
      (.pref ⟨c, rg x.a, BitVec.ofNat 10 x.off, .ofCode x.w, Fin.ofNat 16 x.re⟩)
  | 0x73 => decFe nv c x true .ldf
  | 0x74 => decFe nv c x false .ste
  | 0x75 => decFe nv c x false .stf
  | 0x76 => accept nv [ctlBits c, zero 32 x.d, code 8 (x.sp == 1 || x.sp == 2), code 5 (x.w == 2), code 2 (x.ov < 2),
      code 0 (x.sc < 2)] [x.a] []
      (.setfe ⟨c, rg x.a, mspOf x, Fin.ofNat 16 x.re, x.ov == 1, x.sc == 1⟩)
  | _ => .error ⟨1, 0⟩

/-- Space of the data layout. -/
def dspOf (n : Nat) : DSp := if n = 0 then .gl else .sp

/-- Ordering of ATOM (R166). -/
def atOrdOf (ov sc : Nat) : AtOrd :=
  match ov with
  | 0 => .plain | 1 => .acq (.ofCode sc) | 2 => .rel (.ofCode sc) | _ => .acqRel (.ofCode sc)

/-- OV and SCOPE of ATOM. -/
def AtOrd.codes : AtOrd → Nat × Nat
  | .plain => (0, 0) | .acq s => (1, s.code) | .rel s => (2, s.code) | .acqRel s => (3, s.code)

/-- Instructions of the data layout (R244, R248). -/
def decD (nv opc : Nat) (c : Ctl) (x : DF) : Except Ill Instr :=
  match opc with
  | 0x77 => accept nv [ctlBits c, code 12 (x.op < 10), code 8 (atCodesOk x.op x.ty), code 6 (x.sp < 2), code 3 (x.ov < 4),
      scopeBits 1 x.ov x.sc, zero 0 x.z] [x.d, x.a, x.b] []
      (.atom ⟨c, rg x.d, rg x.a, rg x.b, .ofCode x.op x.ty, dspOf x.sp, atOrdOf x.ov x.sc⟩)
  | 0x78 => accept nv [ctlBits c, zero 32 x.d, code 12 (x.op < 6 || x.op == 8), code 8 (atCodesOk x.op x.ty),
      code 6 (x.sp == 0 || (x.sp == 1 && x.op != 8)), code 3 (x.ov == 0 || x.ov == 2), scopeBits 1 x.ov x.sc, zero 0 x.z]
      [x.a, x.b] []
      (.red ⟨c, rg x.a, rg x.b, .ofCode x.op x.ty, dspOf x.sp, if x.ov = 2 then some (.ofCode x.sc) else none⟩)
  | 0x79 => accept nv [ctlBits c, code 12 (x.op < 4), code 8 (x.ty == 14), zero 6 x.sp, code 3 (x.ov < 2),
      scopeBits 1 x.ov x.sc, zero 0 x.z] [x.d, x.a, x.b] []
      (.gth ⟨c, rg x.d, rg x.a, rg x.b, Fin.ofNat 4 x.op, if x.ov = 1 then some (.ofCode x.sc) else none⟩)
  | _ => .error ⟨1, 0⟩

/-! ## Formats B and X -/

/-- Branches (R187). -/
def decB (nv opc : Nat) (c : Ctl) (x : BF) : Except Ill Instr :=
  match opc with
  | 0x02 => accept nv [ctlBits c, zero 32 x.link, zero 24 x.tgt] [] [] (.bra c (BitVec.ofNat 24 x.off))
  | 0x03 => accept nv [ctlBits c, zero 32 x.link, zero 0 x.off] [x.tgt] [] (.brx c (rg x.tgt))
  | 0x04 => accept nv [ctlBits c, zero 24 x.tgt] [x.link] [] (.call c (rg x.link) (BitVec.ofNat 24 x.off))
  | 0x05 => accept nv [ctlBits c, zero 32 x.link, zero 0 x.off] [x.tgt] [] (.ret c (rg x.tgt))
  | _ => .error ⟨1, 0⟩

/-- MFS of a number (R195). -/
def decMfs (nv : Nat) (c : Ctl) (x : XF) : Except Ill Instr :=
  accept nv [ctlBits c, zero 24 x.a, zero 16 x.b, code 0 ((sregRegs (x.ctl % 1024)).isSome), zero 10 (x.ctl / 1024)]
    [x.d] [] (if x.ctl % 1024 = 0x101 then .mfsAevt c (rg x.d) else .mfs c (rg x.d) (BitVec.ofNat 10 x.ctl))

/-- MTS of a number (R195). -/
def decMts (nv : Nat) (c : Ctl) (x : XF) : Except Ill Instr :=
  accept nv [ctlBits c, zero 32 x.d, zero 16 x.b, code 0 (sregWritable (x.ctl % 1024)), zero 10 (x.ctl / 1024)]
    [x.a] []
    (if x.ctl % 1024 = 0x102 then .mtsApool c (rg x.a)
     else if 0x30 ≤ x.ctl % 1024 && x.ctl % 1024 ≤ 0x33 then .mtsPmc c (Fin.ofNat 4 (x.ctl % 1024 - 0x30)) (rg x.a)
     else .mts c (BitVec.ofNat 10 x.ctl) (rg x.a))

/-- A format-X instruction that uses no field. -/
def decX0 (nv : Nat) (c : Ctl) (x : XF) (i : Instr) : Except Ill Instr :=
  accept nv [ctlBits c, zero 32 x.d, zero 24 x.a, zero 16 x.b, zero 0 x.ctl] [] [] i

/-- Control and system instructions of format X (R189 to R209). -/
def decXsys (nv opc : Nat) (c : Ctl) (x : XF) : Except Ill Instr :=
  match opc with
  | 0x01 => decX0 nv c x (.nop c)
  | 0x06 => decX0 nv c x (.exit c)
  | 0x07 => decX0 nv c x (.yield c)
  | 0x08 => accept nv [ctlBits c, zero 32 x.d, zero 24 x.a, zero 16 x.b,
      if x.ctl / 2 ^ 15 = 0 then none else zero 0 (x.ctl % 2 ^ 15)] [] []
      (if x.ctl / 2 ^ 15 = 0 then .trap c (BitVec.ofNat 15 x.ctl) else .trapRet c)
  | 0x09 => accept nv [ctlBits c, zero 32 x.d, zero 2 (x.ctl / 4), code 0 (x.ctl % 4 < 3),
      if x.ctl % 4 = 2 then none else zero 16 x.b] [x.a, x.b] []
      (match x.ctl % 4 with
        | 0 => .eretRetry c (rg x.a)
        | 1 => .eretSkip c (rg x.a)
        | _ => .eretRedir c (rg x.a) (rg x.b))
  | 0x0A => decMfs nv c x
  | 0x0B => decMts nv c x
  | 0x0C => accept nv [ctlBits c, zero 32 x.d, if x.ctl / 256 % 2 = 0 then zero 24 x.a else none, zero 16 x.b,
      zero 9 (x.ctl / 512)] (if x.ctl / 256 % 2 = 0 then [] else [x.a]) []
      (if x.ctl / 256 % 2 = 0 then .evt c (BitVec.ofNat 8 (x.ctl % 256)) else .evtH c (BitVec.ofNat 8 (x.ctl % 256)) (rg x.a))
  | 0x0D =>
    match accept nv [ctlBits c, zero 20 (x.b / 16)] [x.a] []
      (.frz c (Fin.ofNat 128 x.d) (rg x.a) (Fin.ofNat 16 (x.b % 16)) (BitVec.ofNat 16 x.ctl)) with
    | .ok i => if x.d < 128 then .ok i else .error ⟨3, x.d⟩
    | .error e => .error e
  | 0x0E => accept nv [ctlBits c, zero 32 x.d, zero 4 (x.ctl / 16)] [x.a, x.b] []
      (.stamp c (Fin.ofNat 16 (x.ctl % 16)) (rg x.a) (rg x.b))
  | 0x0F => accept nv [ctlBits c, zero 32 x.d, if x.ctl / 16 % 2 = 0 then zero 16 x.b else none, zero 5 (x.ctl / 32)]
      [x.a, x.b] []
      (if x.ctl / 16 % 2 = 0 then .spawn c (Fin.ofNat 16 (x.ctl % 16)) (rg x.a)
       else .spawnRem c (Fin.ofNat 16 (x.ctl % 16)) (rg x.a) (rg x.b))
  | 0x10 => accept nv [ctlBits c, zero 1 (x.ctl / 2)] [x.d, x.a, x.b] []
      (if x.ctl % 2 = 0 then .ctxsave c (rg x.d) (rg x.a) (rg x.b) else .ctxsaveFull c (rg x.d) (rg x.a) (rg x.b))
  | 0x11 => accept nv [ctlBits c, zero 32 x.d, zero 0 x.ctl] [x.a, x.b] [] (.ctxload c (rg x.a) (rg x.b))
  | 0x12 => accept nv [ctlBits c, zero 32 x.d, zero 16 x.b, zero 0 x.ctl] [x.a] [] (.ctxsw c (rg x.a))
  | 0x13 => accept nv [ctlBits c, zero 32 x.d, if x.ctl % 4 < 2 then zero 24 x.a else none,
      if x.ctl % 4 < 3 then zero 16 x.b else none, zero 3 (x.ctl / 8)] [x.a, x.b] []
      (match x.ctl % 4 with
        | 0 => .tlbiCtx c (x.ctl / 4 % 2 == 1)
        | 1 => .tlbiPart c (x.ctl / 4 % 2 == 1)
        | 2 => .tlbiPage c (rg x.a) (x.ctl / 4 % 2 == 1)
        | _ => .tlbiGrain c (rg x.a) (rg x.b) (x.ctl / 4 % 2 == 1))
  | 0x14 => accept nv [ctlBits c, zero 0 x.ctl] [x.d, x.a, x.b] [] (.placew c (rg x.d) (rg x.a) (rg x.b))
  | _ => .error ⟨1, 0⟩

/-- FENCE (R249). -/
def mkFence (c : Ctl) (kind : Nat) (s : Scope) : Instr :=
  match kind with
  | 1 => .fenceR c s | 2 => .fenceA c s | _ => .fenceAr c s

/-- CPY forms (Table 10.7). -/
def mkCpy (form : Nat) (x : CpyR) : Instr :=
  match form with
  | 0 => .cpyG2s x | 1 => .cpyS2g x | 2 => .cpyS2r x | _ => .cpyR2s x

/-- Synchronisation, copy and matrix instructions of format X (R249 to R253, R267 to R279). -/
def decXmem (nv opc : Nat) (c : Ctl) (x : XF) : Except Ill Instr :=
  match opc with
  | 0x80 => accept nv [ctlBits c, zero 32 x.d, zero 24 x.a, zero 16 x.b, code 0 (x.ctl % 4 != 0), zero 4 (x.ctl / 16)]
      [] [] (mkFence c (x.ctl % 4) (.ofCode (x.ctl / 4 % 4)))
  | 0x81 => accept nv [ctlBits c, zero 40 (c.pred.val + 8 * c.pn.toNat), zero 32 x.d, zero 24 x.a, zero 16 x.b,
      zero 1 (x.ctl / 2)] [] [] (if x.ctl % 2 = 0 then .barT c else .barC c)
  | 0x82 => accept nv [ctlBits c, zero 16 x.b, zero 1 (x.ctl / 2)] [x.d, x.a] []
      (.own ⟨c, rg x.d, rg x.a, x.ctl % 2 == 1⟩)
  | 0x83 => accept nv [ctlBits c, zero 32 x.d, zero 16 x.b, zero 2 (x.ctl / 4)] [x.a] []
      (.waito ⟨c, rg x.a, x.ctl % 2 == 1, x.ctl / 2 % 2 == 1⟩)
  | 0x84 => accept nv [ctlBits c, zero 32 x.d, zero 3 (x.ctl / 8)] [x.a, x.b] []
      (mkCpy (x.ctl % 4) ⟨c, rg x.a, rg x.b, x.ctl / 4 % 2 == 1⟩)
  | 0x85 => accept nv [ctlBits c, if x.ctl % 4 = 0 then zero 24 x.a else none, code 0 (x.ctl % 4 < 2), zero 3 (x.ctl / 8)]
      [x.d, x.a, x.b] []
      (if x.ctl % 4 = 0 then .fillS ⟨c, rg x.d, rg x.a, rg x.b, x.ctl / 4 % 2 == 1⟩
       else .fillG ⟨c, rg x.d, rg x.a, rg x.b, x.ctl / 4 % 2 == 1⟩)
  | 0x90 => accept nv [ctlBits c, zero 32 x.d, zero 16 x.b, zero 3 (x.ctl / 8)] [x.a] []
      (.gangset c (rg x.a) (Fin.ofNat 8 (x.ctl % 8)))
  | 0x91 => accept nv [ctlBits c, if x.ctl / 16 % 2 = 0 then zero 32 x.d else none, zero 16 x.b, code 0 (x.ctl % 16 < 11),
      zero 15 (x.ctl / 2 ^ 15)] [x.d, x.a] []
      (let r : LdsR := ⟨c, rg x.d, rg x.a, .ofCode (x.ctl % 16), x.ctl / 32 % 2 == 1, x.ctl / 64 % 2 == 1,
        Fin.ofNat 16 (x.ctl / 128 % 16), Fin.ofNat 16 (x.ctl / 2048 % 16)⟩
       if x.ctl / 16 % 2 = 0 then .lds r else .ldsSlab r)
  | 0x92 => accept nv [ctlBits c, zero 32 x.d, zero 24 x.a, zero 16 x.b, zero 2 (x.ctl / 4)] [] []
      (if x.ctl % 2 = 0 then .swp c (x.ctl / 2 % 2 == 1) else .swpFree c (x.ctl / 2 % 2 == 1))
  | 0x93 => accept nv [ctlBits c, code 0 (x.ctl % 16 < 11), zero 7 (x.ctl / 128)] [x.d, x.a, x.b] []
      (.mma ⟨c, rg x.d, rg x.a, rg x.b, .ofCode (x.ctl % 16), x.ctl / 16 % 2 == 1, x.ctl / 32 % 2 == 1,
        x.ctl / 64 % 2 == 1⟩)
  | 0x94 => accept nv [ctlBits c, zero 32 x.d, zero 1 (x.ctl / 2)] [x.a, x.b] []
      (if x.ctl % 2 = 0 then .accz c (rg x.a) (rg x.b) else .acczFree c (rg x.a) (rg x.b))
  | 0x95 => accept nv [ctlBits c, zero 16 x.b, zero 0 x.ctl] [x.d, x.a] [] (.accrd c (rg x.d) (rg x.a))
  | 0x96 => accept nv [ctlBits c, zero 32 x.d, zero 0 x.ctl] [x.a, x.b] [] (.accwr c (rg x.a) (rg x.b))
  | 0x97 => accept nv [ctlBits c, code 0 (x.ctl % 16 < 11 && x.ctl % 16 != 3), zero 6 (x.ctl / 64)] [x.d, x.a, x.b] []
      (.accst ⟨c, rg x.d, rg x.a, rg x.b, .ofCode (x.ctl % 16), x.ctl / 16 % 2 == 1, x.ctl / 32 % 2 == 1⟩)
  | 0x98 => accept nv [ctlBits c, zero 2 (x.ctl / 4)] [x.d, x.a, x.b] []
      (.accscl ⟨c, rg x.d, rg x.a, rg x.b, .ofCode (x.ctl % 4)⟩)
  | _ => .error ⟨1, 0⟩

/-- The decoder (Table 7.12, R175, R176). `nv` is the register count of the pool word. -/
def decode (nv : Nat) (word : W64) : Except Ill Instr :=
  let w := word.toNat
  let opc := fld w 56 8
  let c := Ctl.of w
  if opc < 0x20 then
    if 2 ≤ opc && opc ≤ 5 then decB nv opc c (.of w) else decXsys nv opc c (.of w)
  else if opc < 0x40 then decR nv opc c (.of w)
  else if opc < 0x50 then decI nv opc c (.of w)
  else if opc < 0x70 then decR nv opc c (.of w)
  else if opc < 0x77 then decM nv opc c (.of w)
  else if opc < 0x80 then decD nv opc c (.of w)
  else decXmem nv opc c (.of w)

/-! ## Block headers -/

/-- A block header (Table 7.13); `recon` and `pfoff` are signed word offsets. -/
structure Header where
  len : Nat
  live : Nat
  recon : Int
  pfoff : Int
  pfk : Nat
  entry : Nat
  nochk : Bool
  tentry : Bool
  calle : Bool
  preempt : Bool
  deriving DecidableEq, Repr

/-- Two's complement reading of an `n`-bit number. -/
def signedOf (n v : Nat) : Int := if v < 2 ^ (n - 1) then v else (v : Int) - 2 ^ n

/-- The word is a header word: bits [63:56] are 0xFC (R171). -/
def isHeader (word : W64) : Bool := fld word.toNat 56 8 == 0xFC

/-- The header of a word, none where it is malformed (R171). -/
def decodeHeader (word : W64) : Option Header :=
  let w := word.toNat
  let h : Header := {
    len := fld w 48 8, live := fld w 41 7, recon := signedOf 16 (fld w 25 16), pfoff := signedOf 12 (fld w 13 12)
    pfk := fld w 10 3, entry := fld w 4 6, nochk := fld w 3 1 == 1, tentry := fld w 2 1 == 1
    calle := fld w 1 1 == 1, preempt := fld w 0 1 == 1 }
  if h.len = 0 || 3 ≤ h.pfk || (h.pfk = 0 && h.pfoff != 0) then none else some h

/-! ## The encoder -/

/-- A word of a format's low 40 bits. -/
def word (opc : Nat) (c : Ctl) (bits : Nat) : W64 := BitVec.ofNat 64 (Ctl.bits opc c + bits)

/-- Format R. -/
def encR (opc : Nat) (c : Ctl) (d a b e ty rm sub : Nat) : W64 := word opc c (RF.bits ⟨d, a, b, e, ty, rm, sub⟩)

/-- Format I. -/
def encI (opc : Nat) (c : Ctl) (d a ty imm : Nat) : W64 := word opc c (IF.bits ⟨d, a, ty, imm⟩)

/-- Format M, offset layout. -/
def encM (opc : Nat) (c : Ctl) (d a : Nat) (m : MSp) (re w ov sc : Nat) : W64 :=
  word opc c (MF.bits ⟨d, a, m.codes.2, re, m.codes.1, w, ov, sc⟩)

/-- Format M, data layout. -/
def encD (opc : Nat) (c : Ctl) (d a b op ty sp ov sc : Nat) : W64 :=
  word opc c (DF.bits ⟨d, a, b, op, ty, sp, ov, sc, 0⟩)

/-- Format B. -/
def encB (opc : Nat) (c : Ctl) (link tgt off : Nat) : W64 := word opc c (BF.bits ⟨link, tgt, off⟩)

/-- Format X. -/
def encX (opc : Nat) (c : Ctl) (d a b ctl : Nat) : W64 := word opc c (XF.bits ⟨d, a, b, ctl⟩)

/-- Integer D, A, B. -/
def encInt (opc : Nat) (x : IntR) : W64 := encR opc x.c x.d.code x.a.code x.b.code 0 x.ty.code 0 0

/-- Raw bits D, A, B. -/
def encBit (opc : Nat) (x : BitR) : W64 := encR opc x.c x.d.code x.a.code x.b.code 0 x.ty.code 0 x.ty.sub

/-- Raw bits D, A. -/
def encBitU (opc : Nat) (x : BitU) : W64 := encR opc x.c x.d.code x.a.code 0 0 x.ty.code 0 x.ty.sub

/-- Predicate logic. -/
def encPred (opc : Nat) (x : PredR) : W64 :=
  encR opc x.c (160 + x.pd.val) (160 + x.pa.val) (160 + x.pb.val) 0 0 0 0

/-- Floating D, A, B. -/
def encFp (opc : Nat) (x : FpR) : W64 := encR opc x.c x.d.code x.a.code x.b.code 0 x.ty.code x.rm.code 0

/-- Floating D, A, B, C. -/
def encFpC (opc : Nat) (x : FpRC) : W64 := encR opc x.c x.d.code x.a.code x.b.code x.e.code x.ty.code x.rm.code 0

/-- Integer with IMM20. -/
def encII (opc : Nat) (x : IntI) : W64 := encI opc x.c x.d.code x.a.code x.ty.code x.imm.toNat

/-- Logic with IMM20. -/
def encBI (opc : Nat) (x : BitI) : W64 := encI opc x.c x.d.code x.a.code x.ty.code x.imm.toNat

/-- Shift with a count. -/
def encShI (opc : Nat) (x : ShI) : W64 := encI opc x.c x.d.code x.a.code x.ty.code x.cnt.val

/-- Full/empty instructions. -/
def encFe (opc : Nat) (x : FeR) : W64 :=
  encM opc x.c x.d.code x.a.code x.m x.reuse.val 2 (if x.take then 5 else 0) x.wide.toNat

/-- Copy commands. -/
def encCpy (form : Nat) (x : CpyR) : W64 := encX 0x84 x.c 0 x.a.code x.b.code (form + 4 * x.two.toNat)

/-- The encoder: the word of an instruction; none for an event, which has no encoding. -/
def encode : Instr → Option W64
  | .nop c => some (encX 0x01 c 0 0 0 0)
  | .bra c o => some (encB 0x02 c 0 0 o.toNat)
  | .brx c t => some (encB 0x03 c 0 t.code 0)
  | .call c l o => some (encB 0x04 c l.code 0 o.toNat)
  | .ret c t => some (encB 0x05 c 0 t.code 0)
  | .exit c => some (encX 0x06 c 0 0 0 0)
  | .yield c => some (encX 0x07 c 0 0 0 0)
  | .trap c n => some (encX 0x08 c 0 0 0 n.toNat)
  | .trapRet c => some (encX 0x08 c 0 0 0 0x8000)
  | .eretRetry c s => some (encX 0x09 c 0 s.code 0 0)
  | .eretSkip c s => some (encX 0x09 c 0 s.code 0 1)
  | .eretRedir c s t => some (encX 0x09 c 0 s.code t.code 2)
  | .mfs c d n => some (encX 0x0A c d.code 0 0 n.toNat)
  | .mfsAevt c d => some (encX 0x0A c d.code 0 0 0x101)
  | .mts c n a => some (encX 0x0B c 0 a.code 0 n.toNat)
  | .mtsApool c a => some (encX 0x0B c 0 a.code 0 0x102)
  | .mtsPmc c i a => some (encX 0x0B c 0 a.code 0 (0x30 + i.val))
  | .evt c n => some (encX 0x0C c 0 0 0 n.toNat)
  | .evtH c n a => some (encX 0x0C c 0 a.code 0 (256 + n.toNat))
  | .frz c i m t o => some (encX 0x0D c i.val m.code t.val o.toNat)
  | .stamp c t b n => some (encX 0x0E c 0 b.code n.code t.val)
  | .spawn c t i => some (encX 0x0F c 0 i.code 0 t.val)
  | .spawnRem c t i p => some (encX 0x0F c 0 i.code p.code (16 + t.val))
  | .ctxsave c d s a => some (encX 0x10 c d.code s.code a.code 0)
  | .ctxsaveFull c d s a => some (encX 0x10 c d.code s.code a.code 1)
  | .ctxload c s a => some (encX 0x11 c 0 s.code a.code 0)
  | .ctxsw c s => some (encX 0x12 c 0 s.code 0 0)
  | .tlbiCtx c b => some (encX 0x13 c 0 0 0 (4 * b.toNat))
  | .tlbiPart c b => some (encX 0x13 c 0 0 0 (1 + 4 * b.toNat))
  | .tlbiPage c a b => some (encX 0x13 c 0 a.code 0 (2 + 4 * b.toNat))
  | .tlbiGrain c a t b => some (encX 0x13 c 0 a.code t.code (3 + 4 * b.toNat))
  | .placew c d a b => some (encX 0x14 c d.code a.code b.code 0)
  | .add x => some (encInt 0x20 x)
  | .sub x => some (encInt 0x21 x)
  | .mul x => some (encInt 0x22 x)
  | .mulh x => some (encInt 0x23 x)
  | .mad x => some (encR 0x24 x.c x.d.code x.a.code x.b.code x.e.code x.ty.code 0 0)
  | .div x => some (encInt 0x25 x)
  | .rem x => some (encInt 0x26 x)
  | .min x => some (encInt 0x27 x)
  | .max x => some (encInt 0x28 x)
  | .abs x => some (encR 0x29 x.c x.d.code x.a.code 0 0 x.ty.code 0 0)
  | .neg x => some (encR 0x2A x.c x.d.code x.a.code 0 0 x.ty.code 0 0)
  | .and x => some (encBit 0x2B x)
  | .or x => some (encBit 0x2C x)
  | .xor x => some (encBit 0x2D x)
  | .not x => some (encBitU 0x2E x)
  | .pnot x => some (encR 0x2F x.c (160 + x.pd.val) (160 + x.pa.val) 0 0 0 0 0)
  | .shl x => some (encBit 0x30 x)
  | .shr x => some (encBit 0x31 x)
  | .sar x => some (encBit 0x32 x)
  | .rot x => some (encBit 0x33 x)
  | .popc x => some (encBitU 0x34 x)
  | .clz x => some (encBitU 0x35 x)
  | .brev x => some (encBitU 0x36 x)
  | .bfx x => some (encInt 0x37 x)
  | .bfi x => some (encR 0x38 x.c x.d.code x.a.code x.b.code x.e.code x.ty.code 0 0)
  | .lea x => some (encR 0x39 x.c x.d.code x.a.code x.b.code x.sh.val x.ty.code 0 0)
  | .mov x => some (encBitU 0x3A x)
  | .sel x => some (encR 0x3B x.c x.d.code x.a.code x.b.code (160 + x.q.val) x.ty.code 0 x.ty.sub)
  | .cmp x => some (encR 0x3C x.c (160 + x.pd.val) x.a.code x.b.code x.cond.code x.ty.code 0 0)
  | .pand x => some (encPred 0x3D x)
  | .por x => some (encPred 0x3E x)
  | .pxor x => some (encPred 0x3F x)
  | .addI x => some (encII 0x40 x)
  | .subI x => some (encII 0x41 x)
  | .mulI x => some (encII 0x42 x)
  | .andI x => some (encBI 0x43 x)
  | .orI x => some (encBI 0x44 x)
  | .xorI x => some (encBI 0x45 x)
  | .shlI x => some (encShI 0x46 x)
  | .shrI x => some (encShI 0x47 x)
  | .sarI x => some (encShI 0x48 x)
  | .rotI x => some (encShI 0x49 x)
  | .minI x => some (encII 0x4A x)
  | .maxI x => some (encII 0x4B x)
  | .cmpI x => some (encI 0x4C x.c (160 + x.pd.val) x.a.code x.ty.code (x.cond.code * 2 ^ 17 + x.imm.toNat))
  | .leaI x => some (encI 0x4D x.c x.d.code x.a.code 3 x.imm.toNat)
  | .movi x => some (word 0x4E x.c (x.d.code * 2 ^ 32 + x.imm.toNat))
  | .fadd x => some (encFp 0x50 x)
  | .fsub x => some (encFp 0x51 x)
  | .fmul x => some (encFp 0x52 x)
  | .ffma x => some (encFpC 0x53 x)
  | .fmin x => some (encR 0x54 x.c x.d.code x.a.code x.b.code 0 x.ty.code 0 0)
  | .fmax x => some (encR 0x55 x.c x.d.code x.a.code x.b.code 0 x.ty.code 0 0)
  | .fcmp x => some (encR 0x56 x.c (160 + x.pd.val) x.a.code x.b.code x.cond.code x.ty.code 0 0)
  | .fcvt x => some (encR 0x57 x.c x.d.code x.a.code 0 (x.ts.code + 16 * x.sat.toNat) x.td.code x.rm.code 0)
  | .fclass x => some (encR 0x58 x.c x.d.code x.a.code 0 0 x.ty.code 0 0)
  | .fdiv x => some (encFp 0x59 x)
  | .fsqrt x => some (encR 0x5A x.c x.d.code x.a.code 0 0 x.ty.code x.rm.code 0)
  | .sfn x => some (encR 0x5B x.c x.d.code x.a.code 0 x.fn.code 10 0 0)
  | .padd2 x => some (encFp 0x5C x)
  | .pmul2 x => some (encFp 0x5D x)
  | .pfma2 x => some (encFpC 0x5E x)
  | .shfl x => some (encR 0x60 x.c x.d.code x.a.code x.b.code (x.ls.val + 8 * x.own.toNat) (14 + x.wide.toNat) 0 x.mode.code)
  | .redl x =>
    some (encR 0x61 x.c x.d.code x.a.code 0 (x.ls.val + 16 * x.op.codes.1) x.op.codes.2.1 x.op.codes.2.2 0)
  | .scanl x =>
    some (encR 0x62 x.c x.d.code x.a.code 0 (x.ls.val + 16 * x.op.codes.1) x.op.codes.2.1 x.op.codes.2.2 x.excl.toNat)
  | .vote x => some (encR 0x63 x.c x.d.code (160 + x.pa.val) 0 0 0 0 x.mode.code)
  | .ld x => some (encM 0x70 x.c x.d.code x.a.code x.m x.reuse.val x.w.code x.ord.codes.1 x.ord.codes.2)
  | .st x => some (encM 0x71 x.c x.d.code x.a.code x.m x.reuse.val x.w.code x.ord.codes.1 x.ord.codes.2)
  | .pref x => some (encM 0x72 x.c 0 x.a.code (.gl x.off) x.reuse.val x.w.code 0 0)
  | .ldf x => some (encFe 0x73 x)
  | .ste x => some (encFe 0x74 x)
  | .stf x => some (encFe 0x75 x)
  | .setfe x => some (encM 0x76 x.c 0 x.a.code x.m x.reuse.val 2 x.full.toNat x.wide.toNat)
  | .atom x =>
    some (encD 0x77 x.c x.d.code x.a.code x.b.code x.op.codes.1 x.op.codes.2 (match x.sp with | .gl => 0 | .sp => 1)
      x.ord.codes.1 x.ord.codes.2)
  | .red x =>
    some (encD 0x78 x.c 0 x.a.code x.b.code x.op.codes.1 x.op.codes.2 (match x.sp with | .gl => 0 | .sp => 1)
      (if x.rel.isSome then 2 else 0) (match x.rel with | some s => s.code | none => 0))
  | .gth x =>
    some (encD 0x79 x.c x.d.code x.a.code x.b.code x.lk.val 14 0 x.acq.isSome.toNat
      (match x.acq with | some s => s.code | none => 0))
  | .fenceR c s => some (encX 0x80 c 0 0 0 (1 + 4 * s.code))
  | .fenceA c s => some (encX 0x80 c 0 0 0 (2 + 4 * s.code))
  | .fenceAr c s => some (encX 0x80 c 0 0 0 (3 + 4 * s.code))
  | .barT c => some (encX 0x81 c 0 0 0 0)
  | .barC c => some (encX 0x81 c 0 0 0 1)
  | .own x => some (encX 0x82 x.c x.d.code x.u.code 0 x.acc.toNat)
  | .waito x => some (encX 0x83 x.c 0 x.u.code 0 (x.acc.toNat + 2 * x.ph.toNat))
  | .cpyG2s x => some (encCpy 0 x)
  | .cpyS2g x => some (encCpy 1 x)
  | .cpyS2r x => some (encCpy 2 x)
  | .cpyR2s x => some (encCpy 3 x)
  | .fillS x => some (encX 0x85 x.c x.pat.code 0 x.b.code (4 * x.two.toNat))
  | .fillG x => some (encX 0x85 x.c x.pat.code x.a.code x.b.code (1 + 4 * x.two.toNat))
  | .gangset c m n => some (encX 0x90 c 0 m.code 0 n.val)
  | .lds x => some (encX 0x91 x.c 0 x.a.code 0
      (x.fmt.code + 32 * x.sparse.toNat + 64 * x.g.toNat + 128 * x.key.val + 2048 * x.reuse.val))
  | .ldsSlab x => some (encX 0x91 x.c x.off.code x.a.code 0
      (x.fmt.code + 16 + 32 * x.sparse.toNat + 64 * x.g.toNat + 128 * x.key.val + 2048 * x.reuse.val))
  | .swp c g => some (encX 0x92 c 0 0 0 (2 * g.toNat))
  | .swpFree c g => some (encX 0x92 c 0 0 0 (1 + 2 * g.toNat))
  | .mma x => some (encX 0x93 x.c x.row.code x.off.code x.b.code
      (x.fmt.code + 16 * x.sparse.toNat + 32 * x.z.toNat + 64 * x.g.toNat))
  | .accz c r n => some (encX 0x94 c 0 r.code n.code 0)
  | .acczFree c r n => some (encX 0x94 c 0 r.code n.code 1)
  | .accrd c d x => some (encX 0x95 c d.code x.code 0 0)
  | .accwr c x b => some (encX 0x96 c 0 x.code b.code 0)
  | .accst x => some (encX 0x97 x.c x.off.code x.row.code x.b.code (x.fmt.code + 16 * x.sat.toNat + 32 * x.rtz.toNat))
  | .accscl x => some (encX 0x98 x.c x.s.code x.row.code x.n.code x.rm.code)
  | _ => none

/-- The instruction that the decoder reads from a word numbered as spec/opcode_table.json numbers it: bit 0 is
the least significant bit of the word; an instruction is one 64-bit word. -/
def decodeTableWord (_nbits w : Nat) : Option Instr :=
  match decode 128 (BitVec.ofNat 64 w) with
  | .ok i => some i
  | .error _ => none

end Sys2Proof
end

