-- ==== Sys2Proof/Machine/State.lean ====
section
/-! DEFINITION. The state of one PH-X1-8192 module as plain data: tiles, groups, teams, memory, home slices,
partitions, queues, Keystone's tables, and the model's own schedule. Each field's comment names the rule that
gives it. No field is a function; sparse tables are lists of key and value in one canonical form. -/

namespace Sys2Proof.Machine

/-- Why a step stops. No instruction or event of the model answers a fault on every path. -/
inductive Fault where
  /-- Raised by an access whose module physical address lies in a reserved range of Table 13.1: R311 says such
  an access never occurs. Safe: the machine stops. -/
  | reservedPhysical
  deriving DecidableEq, Repr

/-- Why a step is refused. -/
inductive Refusal where
  /-- An instruction with no meaning in the model, by its mnemonic. Safe: nothing is claimed of it. -/
  | notModelled (mnemonic : String)
  deriving DecidableEq, Repr

/-- A sparse table: keys strictly rising. A table whose unlisted keys read a default lists no entry equal to it. -/
abbrev AMap (α : Type) := List (Nat × α)

/-! ## Threads and groups -/

/-- Trap classes, numbered as XSTAT.CLASS (Table 8.6). -/
inductive TrapClass where
  | ill | priv | align | xlate | place | stall | arith | tmpl | gang | owner | fewait | ecc | sw | resource
  deriving DecidableEq, Repr

/-- Privilege levels (R177). -/
inductive Priv where
  | user | agent | keystone
  deriving DecidableEq, Repr

/-- A lane's life (R26). -/
inductive LaneSt where
  | empty | live | exited
  deriving DecidableEq, Repr

/-- How control reaches a header, for the landing checks of R172. -/
inductive Via where
  | fall | branch | call | template | prologue | handler
  deriving DecidableEq, Repr

/-- Kinds of FENCE (R115). -/
inductive FenceKind where
  | rel | acq | acqRel
  deriving DecidableEq, Repr

/-- What a lane waits for under WaitUntil (R5). -/
inductive Wait where
  | none
  /-- page walks of its instruction (R86) -/
  | walk
  /-- a fence of the given kind and scope over the accesses issued before request `upto` (R115); `again` says the
  instruction itself is still to be performed -/
  | fence (k : FenceKind) (s : Scope) (upto : Nat) (again : Bool)
  /-- the release of a BAR, over the requests before `upto`, and then its barrier (R250) -/
  | relBar (cluster : Bool) (s : Scope) (upto : Nat)
  /-- a barrier, team or cluster (R250) -/
  | bar (cluster : Bool)
  /-- slabs or accumulator regions of the team, to read OWNER = 0 and PHASE = ph (R252) -/
  | units (acc ph : Bool) (us : List Nat)
  /-- full/empty requests of instruction `iid` (R242) -/
  | fe (iid : Nat)
  /-- bins not yet accepting the item of the lane `l` of its subset (R44) -/
  | spawn (l : Nat)
  /-- the planes of the matrix array, held by another team (R264) -/
  | planes
  /-- the rendezvous latch (R272) -/
  | latch
  /-- the completion of instruction `iid`, held by an enabled flag or SET = 7 (R352, R156) -/
  | inst (iid : Nat)
  deriving DecidableEq, Repr

/-- What a skip at a faulting address resumes at (R192): the next word of the open block; the first word of the block that
a header opens, with the header's LEN; or, where the fetch of a word at a landing faulted, what the word then turns out to be. -/
inductive SkipTo where
  | next
  | header (len : Nat)
  | unread
  deriving DecidableEq, Repr

/-- Where a redirected subset stood when its trap was raised: what trap.ret needs to continue the block (R192). -/
structure Resume where
  /-- words left in the open block, its header, its reconvergence offset -/
  left : Nat
  hdr : Nat
  roff : Int
  /-- the thread stood at a landing, and how it was reached -/
  entry : Bool
  via : Via
  src : Nat
  /-- the open block carries NOCHK -/
  nochk : Bool := false
  /-- what a skip at the faulting address resumes at -/
  skip : SkipTo
  deriving DecidableEq, Repr

/-- One thread of a group (R23, R25). -/
structure Lane where
  /-- empty, live or exited (R26); reset empty -/
  st : LaneSt := .empty
  /-- program counter, 56 bits (R23); reset 0 -/
  pc : Nat := 0
  /-- the thread stands at a landing: the word at pc must be a header (R172); reset true -/
  entry : Bool := true
  /-- instruction words left in the open block, the one at pc included (R171 LEN); reset 0 -/
  left : Nat := 0
  /-- address of the open block's header, for RECON (R28); reset 0 -/
  hdr : Nat := 0
  /-- reconvergence offset of that header in words, 0 for none (R28, R171); reset 0 -/
  roff : Int := 0
  /-- NOCHK of that header (R170, R171); reset false -/
  nochk : Bool := false
  /-- how the landing was reached (R172); reset prologue -/
  via : Via := .prologue
  /-- address of the branch that lands, or 0 for fall-through (Table 16.3); reset 0 -/
  src : Nat := 0
  /-- predicates p0 to p7, p0 reads true whatever bit 0 holds (R25, R158); reset 0 -/
  p : BitVec 8 := 0
  /-- private v registers, 32 bits each, unlisted ones zero (R25, R158); reset nothing listed -/
  v : AMap W32 := []
  /-- backing map: bit i set while vi is template-backed (R42, R43); reset 0 -/
  back : BitVec 128 := 0
  /-- template store slot that backs the thread (R40, R42); reset none -/
  tmpl : Option Nat := none
  /-- item index the thread was created with (R25); reset 0 -/
  item : Nat := 0
  /-- what the lane waits for (R5); reset none -/
  wait : Wait := .none
  /-- stopped by a trap that has not been answered (R352); reset false -/
  trapped : Bool := false
  /-- the thread runs the user handler that an ERET redirect entered (R193, R194); reset false -/
  inh : Bool := false
  /-- it stands at a header that a skip passes: of the word at pc only LEN takes effect (R192); reset false -/
  hskip : Bool := false
  /-- the release of the instruction at pc has been performed (R116); reset false -/
  relDone : Bool := false
  /-- progress already made by a SPAWN, LDF or STE at pc in this lane (R359, R372); reset false -/
  done : Bool := false
  deriving DecidableEq, Repr

/-- An entry of the reconvergence table (R28). -/
structure Recon where
  /-- reconvergence address -/
  addr : Nat
  /-- member mask, bit per lane -/
  mem : BitVec 32
  /-- waiting mask, bit per lane -/
  wait : BitVec 32
  deriving DecidableEq, Repr

/-- A fixed-latency register write inside its latency (R169): the values before it. -/
structure Haz where
  /-- writer's address (R358) -/
  pc : Nat
  /-- tile cycle from which a reader reads the result (R212) -/
  ready : Nat
  /-- lane (0 for a k register), register code and the value before the write -/
  old : List (Nat × Nat × W32)
  deriving DecidableEq, Repr

/-- An issued instruction that has not completed (R156). -/
structure OutInst where
  /-- identifier in issue order -/
  iid : Nat
  /-- SET of the instruction, 0 to 7 (R154) -/
  tag : Nat
  /-- instructions issued after it under the same tag (R156) -/
  younger : Nat := 0
  /-- its address -/
  pc : Nat
  /-- its word -/
  word : W64 := 0
  /-- the lanes that issued it, for a held ARITH check (R352) -/
  lanes : BitVec 32 := 0
  /-- memory operations of its lanes still outstanding -/
  rem : Nat
  /-- tile cycle before which it does not complete (R212) -/
  ready : Nat := 0
  /-- register writes made at completion: lane (32 = k register), register code, value -/
  res : List (Nat × Nat × W32) := []
  /-- wafer time that must have passed before it completes: a horizon at partition scope (R204); 0 for none -/
  hor : Nat := 0
  /-- registers it will write: lane, register code (R169) -/
  dst : List (Nat × Nat) := []
  /-- FPS flags raised at completion, bits [4:0] (R137) -/
  fps : Nat := 0
  /-- ISTAT flags raised at completion, bits [1:0] (R137) -/
  ist : Nat := 0
  /-- FPS and ISTAT flags by lane, 32 on the scalar path (R137) -/
  byLane : List (Nat × Nat × Nat) := []
  /-- engine commands that hold a translation which this TLBI drops (R255) -/
  cmds : List Nat := []
  /-- template store slot that this FRZ binds when it completes (R37, R191) -/
  frz : Option Nat := none
  /-- 1 can set FPS, 2 can set ISTAT, 4 an ATOM, 8 an MFS of FPS, 16 an MFS of ISTAT, 32 an FRZ, 64 a read
  kind that FENCE.A waits for, 128, 256, 512 a CTXLOAD of slot 0, 1, 2, 1024, 2048, 4096 a CTXSAVE of it where it was loaded, and
  8192 a FENCE, BAR or WAITO that waits (R137, R191, R115, R204, R206, R238) -/
  kind : Nat := 0
  deriving DecidableEq, Repr

/-- A trap of a subset, with what its record holds (R352, R354). -/
structure Trap where
  /-- class and cause (Table 16.3) -/
  cls : TrapClass
  cause : Nat
  /-- lowest faulting lane, or 0xFF -/
  lane : Nat
  /-- faulting address -/
  pc : Nat
  /-- faulting word, 0 for a fetch fault -/
  word : W64
  /-- cause-specific information -/
  info1 : Nat
  info2 : Nat
  /-- the trapped lanes; 0 for a record that stops no group (R377, R390) -/
  lanes : BitVec 32
  /-- wafer time of detection -/
  time : Nat
  /-- FLAGS.NESTED at the raise -/
  nested : Bool := false
  /-- FLAGS.ROUTED (R365) -/
  routed : Bool := false
  /-- the record has been written and its AEVT queued (R356) -/
  delivered : Bool := false
  /-- partition physical address of its record divided by 64 (Table 8.6) -/
  recAt : Nat := 0
  /-- held until trap.ret clears INH (R194) -/
  held : Bool := false
  deriving DecidableEq, Repr

/-- Access kinds, coded 0 to 5 as R85 gives. -/
inductive AccKind where
  | read | write | readWrite | execute | engRead | engWrite
  deriving DecidableEq, Repr

/-- A cached translation (R82, R86). -/
structure TlbEnt where
  /-- partition tag, context -/
  tag : Nat
  ctx : Nat
  /-- virtual base and log2 of its size -/
  va : Nat
  lg : Nat
  /-- partition and module physical base -/
  ppa : Nat
  pa : Nat
  /-- stage-one W, X, USER and device TYPE (Table 4.3) -/
  w : Bool
  x : Bool
  user : Bool
  dev : Bool
  /-- level of its stage-one leaf (R85) -/
  lvl : Nat
  /-- stage-two R, W, X, AONLY (Table 12.3) -/
  r2 : Bool
  w2 : Bool
  x2 : Bool
  aonly : Bool
  deriving DecidableEq, Repr

/-- What a walk answers (R85): a translation, a stage-one fault at a level, or a stage-two fault with the level being
walked and the partition physical address. -/
inductive WalkRes where
  | ok (e : TlbEnt)
  | one (lvl : Nat)
  | two (lvl ppa : Nat)
  deriving DecidableEq, Repr

/-- A requester of a walk (R86). -/
structure WalkReq where
  /-- tile and group slot -/
  tile : Nat
  slot : Nat
  /-- access kind and privilege level -/
  kind : AccKind
  priv : Priv
  deriving DecidableEq, Repr

/-- One group: fetch state, scalar registers and control state (R23, R69). -/
structure Group where
  /-- the group exists in its slot; reset false -/
  live : Bool := false
  /-- identifier of its team on the tile (R23); reset 0 -/
  team : Nat := 0
  /-- identifier of the group among all launched ones (the model's own); reset 0 -/
  gid : Nat := 0
  /-- launched from a bin, so no barrier participant (R35); reset false -/
  fromBin : Bool := false
  /-- the prologue leader of its team (R39); reset false -/
  leader : Bool := false
  /-- privilege level of its threads (R177); reset user -/
  priv : Priv := .user
  /-- 32 lanes (R24); reset none listed, a missing lane is empty -/
  lanes : List Lane := []
  /-- k0 to k31, unlisted ones zero (R158); reset nothing listed -/
  k : AMap W32 := []
  /-- FPS, 32 bits (Table 6.5); reset 0 -/
  fps : W32 := 0
  /-- ISTAT, 32 bits (Table 6.2); reset 0 -/
  istat : W32 := 0
  /-- GANG, 64 bits (Table 8.6); reset 0 -/
  gang : W64 := 0
  /-- XPC, 64 bits (Table 8.6); reset 0 -/
  xpc : W64 := 0
  /-- XSTAT, 32 bits (Table 8.6); reset 0 -/
  xstat : W32 := 0
  /-- where the subset that XPC tells of stood when it was redirected (R192); reset none -/
  sv : Option Resume := none
  /-- release horizon RH, wafer time (R112); reset 0 -/
  rh : Nat := 0
  /-- reconvergence table, newest entry first, at most 16 (R28); reset empty -/
  recon : List Recon := []
  /-- taken backward branches of the current subset (R32); reset 0 -/
  bcount : Nat := 0
  /-- rotation pointer (R32); reset 31 -/
  rot : Nat := 31
  /-- hand-off lane in force (R27, R32); reset none -/
  hand : Option Nat := none
  /-- lowest lane of the subset last selected (R32); reset none -/
  sel : Option Nat := none
  /-- first tile cycle in which the next instruction may issue (R155, R41); reset 0 -/
  nextCyc : Nat := 0
  /-- tile cycle in which its candidate was decoded (R61); reset 0 -/
  decCyc : Nat := 0
  /-- issued instructions that have not completed: the six tags' records (R156); reset empty -/
  out : List OutInst := []
  /-- entries that tags have lost: tile cycle, tag, instructions issued after it under the tag; waiters go on in the next tile
  cycle (R156); reset none -/
  lost : List (Nat × Nat × Nat) := []
  /-- fixed-latency writes inside their latency (R169); reset empty -/
  haz : List Haz := []
  /-- answers of page walks to the instruction that began them, by virtual address / 64 KiB (R86); reset empty -/
  walkAns : List (Nat × WalkRes) := []
  /-- traps raised and not yet answered, oldest first (R193, R368); reset empty -/
  traps : List Trap := []
  /-- gang sequence number (R268, R272); reset 0 -/
  gseq : Nat := 0
  /-- marked for preemption (R67); reset false -/
  marked : Bool := false
  /-- parked at a preemptible header (R67); reset false -/
  parked : Bool := false
  /-- LIVE of the header it parked at (R173); reset 127 -/
  parkLive : Nat := 127
  /-- stopped at an instruction boundary for a full save or an abort (R68, R364); reset false -/
  stopped : Bool := false
  deriving DecidableEq, Repr

/-! ## Templates, bins, teams -/

/-- A slot of the template store (R37, R40). -/
structure Template where
  /-- context number of the owner, and the context slot whose control state it belongs to (R43, R69) -/
  ctx : Nat
  cslot : Nat
  /-- teams that name it (one for FRZ, those of a launch for a host image) (R37) -/
  teams : List Nat
  /-- admission sequence number of the launch -/
  seq : Nat
  /-- template number 0 to 15 (R37) -/
  num : Nat
  /-- entry header address (R40) -/
  entry : Nat
  /-- index register number (R40) -/
  idx : Nat
  /-- slot of the parent (R40) -/
  parent : Option Nat
  /-- depth, 1 to 4 (R40) -/
  depth : Nat
  /-- k0 to k31 (R40) -/
  k : AMap W32
  /-- p1 to p7 in bits [7:1] (R40) -/
  pred : BitVec 8
  /-- registers selected by the mask, without the index register (R40) -/
  mask : BitVec 128
  /-- recorded values (R40) -/
  v : AMap W32
  /-- selected registers resolved through the parent (R40) -/
  link : BitVec 128
  /-- bound to its number: an image load binds at once, a FRZ when it completes (R37, R191) -/
  live : Bool
  /-- loaded from a host-prepared image (R37) -/
  host : Bool
  /-- marked bad by an uncorrectable error (R374) -/
  bad : Bool
  deriving DecidableEq, Repr

/-- A spawned item (R44). -/
structure Item where
  /-- index -/
  idx : Nat
  /-- wafer time of arrival (R45) -/
  at_ : Nat
  /-- tile cycle of arrival, 0 after a restore, and group slot of its spawner, 64 more for a remote one (R48) -/
  cyc : Nat
  src : Nat
  deriving DecidableEq, Repr

/-- A bin: items of one template and entry (R45). -/
structure Bin where
  /-- template store slot and team that key it -/
  tmpl : Nat
  team : Nat
  /-- pending items in order of arrival, at most 64 -/
  items : List Item
  /-- ready: 32 items, or its timer expired (R45) -/
  ready : Bool
  /-- tile cycle in which it last became ready (R48) -/
  readyCyc : Nat
  deriving DecidableEq, Repr

/-- An item that no bin holds yet (R45, R47): its spawner waits. -/
structure HeldItem where
  /-- template store slot and team -/
  tmpl : Nat
  team : Nat
  /-- the item; its time is that of its arrival, when the spawner began to wait -/
  item : Item
  /-- group slot and lane that wait on this tile; slot 99 for an item held by a restore (R47) -/
  slot : Nat
  lane : Nat
  /-- word of its SPAWN, for a record -/
  word : W64
  /-- request of a remote SPAWN that brought it, or 0 -/
  req : Nat
  deriving DecidableEq, Repr

/-- Owner state of a slab or accumulator region (Table 5.2). -/
structure UnitSt where
  /-- OWNER: false team, true engine -/
  own : Bool := false
  /-- PHASE -/
  phase : Bool := false
  /-- PEND, 0 to 7 -/
  pend : Nat := 0
  /-- tile cycle, plus 1, of its last flip back: a WAITO sees it one cycle later (R127) -/
  backAt : Nat := 0
  deriving DecidableEq, Repr

/-- A group queued by STAMP (R41). -/
structure Stamped where
  /-- template store slot -/
  tmpl : Nat
  /-- index of lane 0's item -/
  base : Nat
  /-- items in the group, 1 to 32 -/
  n : Nat
  deriving DecidableEq, Repr

/-- One team of a launch (R23). -/
structure Team where
  /-- identifier on the tile (model's own) -/
  id : Nat
  /-- TEAM, 32 bits (R57) -/
  num : Nat
  /-- admission sequence number of its launch (R54) -/
  seq : Nat
  /-- reserved group slots (R34) -/
  resv : List Nat
  /-- pending stamp queue, at most 32 groups (R41) -/
  pend : List Stamped
  /-- scratchpad size in 4 KiB slabs (R77) -/
  slabs : Nat
  /-- number of the context's pool contents: what no team has written since the pool word was applied is left open (R58) -/
  init : Nat
  /-- slabs of the scratchpad region and 4 KiB units of the accumulators that the team holds, in its own order (R77, R79) -/
  spAt : List Nat
  accAt : List Nat
  /-- the same for its accumulators, whose contents a restore leaves open where they were not in use (R281) -/
  accInit : Nat
  /-- scratchpad bytes by offset: those left there by earlier teams, and its own; one that no team has written is free (R58,
  R77) -/
  sp : AMap Byte
  /-- full words, by word number (R77) -/
  full : List Nat
  /-- owner state of each slab (R121) -/
  slabSt : AMap UnitSt
  /-- accumulator rows (R79) -/
  accRows : Nat
  /-- accumulator cells, key row × 64 + cell: those left there by earlier teams, and its own; one that no team has written is
  free (R58, R79) -/
  acc : AMap W32
  /-- owner state of each region (R274) -/
  accSt : AMap UnitSt
  /-- regions with INUSE (R274) -/
  accUse : List Nat
  /-- regions with DIRTY (R274) -/
  accDirty : List Nat
  /-- TCLK, 64 bits (R98) -/
  tclk : Nat
  /-- resident tile cycles at the last 1,024 ticks, newest first (R100) -/
  ticks : List Nat
  /-- tile cycle of the field at which the team last became resident (R100) -/
  resSince : Nat
  /-- resident tile cycles before that (R100) -/
  resBase : Nat
  /-- cluster: place of the anchor, width, height (R56); 1 × 1 for a plain launch -/
  anchor : Nat
  cw : Nat
  ch : Nat
  /-- plain launch: BAR.C is BAR.T (R250) -/
  plain : Bool
  /-- S1ROOT, UTRAP and FLAGS of its launch's context image (R83, R320, R365) -/
  root : Nat
  utrap : Nat
  flags : Nat
  /-- a cluster's teams issue only after every member is built (R57) -/
  started : Bool
  /-- phase of the team and cluster barriers (R250) -/
  barT : Nat
  barC : Nat
  /-- its arrival at the present cluster barrier has been dropped by a router (R390) -/
  lostC : Bool
  /-- largest c of its acknowledged stores (R60) -/
  rh : Nat
  /-- its end has begun: it takes no further work and waits for its stores (R35, R60) -/
  ended : Bool
  deriving DecidableEq, Repr

/-! ## Engines -/

/-- A command of the copy engine (R253 to R256). -/
structure CopyCmd where
  /-- its identifier (the model's own) -/
  id : Nat
  /-- 0 g2s, 1 s2g, 2 s2r, 3 r2s, 4 fill.s, 5 fill.g -/
  kind : Nat
  /-- issuing team, group slot, address, word -/
  team : Nat
  slot : Nat
  pc : Nat
  word : W64
  /-- LOFF, rows, bytes per row, far and local strides, d (Table 10.8) -/
  loff : Nat
  rows : Nat
  rowb : Nat
  fstride : Int
  lstride : Nat
  d : Nat
  /-- far address or remote offset, remote tile and team, pattern -/
  far : Nat
  rtile : Nat
  rteam : Nat
  /-- the remote place as the command named it (R390) -/
  place : Nat := 0
  pat : W32
  /-- due time of its far lines, computed at acceptance (R101, R256) -/
  due : Nat
  /-- translations held for the command's life (R255) -/
  held : List TlbEnt
  /-- local slabs named, and slabs named on the remote tile -/
  lunits : List Nat
  runits : List Nat
  /-- its rows have been moved (R256) -/
  ran : Bool
  /-- largest c of its stores (R123) -/
  hor : Nat
  deriving DecidableEq, Repr

/-- Queued state of one plane, or a plane's format part (R258, R266). -/
structure PlaneSt where
  /-- matrix format code -/
  fmt : MFmt := .bf16
  /-- sparse bit -/
  sparse : Bool := false
  /-- INUSE -/
  inuse : Bool := false
  deriving DecidableEq, Repr

/-- A plane of the matrix array (R258). -/
structure Plane where
  /-- weight image as plaintext (R260) -/
  image : List Byte := []
  /-- format, sparse bit, INUSE -/
  st : PlaneSt := {}
  /-- DIRTY -/
  dirty : Bool := false
  deriving DecidableEq, Repr

/-- One member's share of an array command's units (R265, R272). -/
structure Units where
  /-- team identifier -/
  team : Nat
  /-- slabs and accumulator regions flipped -/
  slabs : List Nat
  regions : List Nat
  deriving DecidableEq, Repr

/-- What an array command does (R269 to R271). -/
inductive ArrOp where
  /-- LDS from global memory: virtual address, held translations; key slot, format, sparse, d and its due time -/
  | ldsG (va : Nat) (held : List TlbEnt) (key : Nat) (fmt : MFmt) (sparse : Bool) (d due : Nat)
  /-- LDS from a slab: offset, tweak base; key slot, format, sparse -/
  | ldsS (off tweak : Nat) (key : Nat) (fmt : MFmt) (sparse : Bool)
  /-- exchange of the planes -/
  | swp
  /-- MMA: first row, offset, stride, rows, activation format, sparse, Z -/
  | mma (row off stride m : Nat) (fmt : MFmt) (sparse z : Bool)
  /-- SWP.FREE: release of the planes once the earlier commands have run -/
  | free
  deriving DecidableEq, Repr

/-- An accepted array command (R265). -/
structure ArrCmd where
  /-- its identifier (the model's own) -/
  id : Nat
  /-- its operation -/
  op : ArrOp
  /-- issuing team, group slot, address, word -/
  team : Nat
  slot : Nat
  pc : Nat
  word : W64
  /-- named units to return (R123) -/
  units : List Units
  /-- key state at acceptance: none clear, some (key, WDID) (R263) -/
  key : Option (Nat × Nat)
  /-- it has run and waits for its flip back -/
  ran : Bool
  deriving DecidableEq, Repr

/-- A gang instruction waiting in the rendezvous latch (R272). -/
structure LatchEntry where
  /-- team, group slot, sequence number, GANG value -/
  team : Nat
  slot : Nat
  seq : Nat
  gang : W64
  /-- opcode of the instruction and the FREE bit of SWP (R273) -/
  kind : Nat
  /-- wafer time at which the first member of its sequence number arrived (R273) -/
  time : Nat
  /-- the record of its instruction (R156) -/
  iid : Nat
  /-- the command it stands for -/
  cmd : ArrCmd
  /-- issuing lanes -/
  lanes : BitVec 32
  deriving DecidableEq, Repr

/-- The matrix array of a tile (R258 to R266). -/
structure Arr where
  /-- planes 0 and 1 (R258); reset zero -/
  p0 : Plane := {}
  p1 : Plane := {}
  /-- number of the active plane (R258); reset 0 -/
  act : Nat := 0
  /-- holder of the planes, a team identifier (R264); reset none -/
  holder : Option Nat := none
  /-- the planes are being released (R264); reset false -/
  releasing : Bool := false
  /-- accepted commands, oldest first, at most 8 (R265); reset empty -/
  q : List ArrCmd := []
  /-- queued state of planes 0 and 1 and the active plane then (R266); reset none in use -/
  qs0 : PlaneSt := {}
  qs1 : PlaneSt := {}
  qact : Nat := 0
  /-- the holding has ended in the queued state by SWP.FREE (R264); reset false -/
  qfree : Bool := false
  /-- rendezvous latch (R272); reset empty -/
  latch : List LatchEntry := []
  /-- spare rows and columns already used (R258); reset 0 -/
  spares : Nat × Nat := (0, 0)
  deriving DecidableEq, Repr

/-! ## Contexts on a tile -/

/-- Control state of one context on a tile (R69). -/
structure CtxCtl where
  /-- context number, 0 to 15; reset 0 -/
  ctx : Nat := 0
  /-- pool word, 16 bits (Table 4.4); reset 0 -/
  pool : BitVec 16 := 0
  /-- BINT, 20 bits (Table 8.6); reset 2,000 -/
  bint : Nat := 2000
  /-- LEASECAP, 19 bits (Table 4.7); reset 16,000 -/
  leasecap : Nat := 16000
  /-- checking-scoreboard mode (R170); reset false -/
  check : Bool := false
  /-- stage-one root (R83); reset 0 -/
  s1root : Nat := 0
  /-- PMC0 to PMC3, 48-bit counts; one at 2^48 or more wraps at its COUNTER_OVERFLOW (Table 8.6, R202); reset 0 -/
  pmc : List Nat := [0, 0, 0, 0]
  /-- PMS0 to PMS3, 32 bits (Table 8.6); reset 0 -/
  pms : List W32 := [0, 0, 0, 0]
  /-- tile cycle, plus 1, in which PMCn was last written, and that in which PMSn was, with the word before (R200); reset
  none -/
  pmcSet : AMap Nat := []
  pmsOld : AMap (Nat × W32) := []
  /-- groups by slot 0 to 31 (R23); reset none -/
  groups : AMap Group := []
  /-- teams by identifier; reset none -/
  teams : AMap Team := []
  /-- number of the pool contents, new with each pool word applied, and what ended teams have left: scratchpad bytes by region
  offset, accumulator cells by row of the region × 64 + cell (R58); reset 0, nothing listed -/
  poolInit : Nat := 0
  accInit : Nat := 0
  spLeft : AMap Byte := []
  accLeft : AMap W32 := []
  /-- bins 0 to 15 (R45); reset none -/
  bins : AMap Bin := []
  /-- items waiting for a bin, in order (R45, R47); reset none -/
  held : List HeldItem := []
  /-- claims and bin launches are stopped (R67); reset false -/
  noClaim : Bool := false
  /-- bin timers are stopped since this wafer time (R47); reset none -/
  timersOff : Option Nat := none
  /-- templates of the context while it is switched out (R43); reset none -/
  store : AMap Template := []
  /-- array state while it is switched out (R280); reset none -/
  arr : Option Arr := none
  /-- descriptors of its copies while it is switched out (R68); reset none -/
  copies : List CopyCmd := []
  /-- a save of this slot has been issued since it became active (R207); reset false -/
  saved : Bool := false
  /-- PAREA of the image it was restored from: where its saved planes stand (R205, R280); reset 0 -/
  parea : Nat := 0
  deriving DecidableEq, Repr, Inhabited

/-- State of a context slot, coded as ACTX.STATE (Table 8.6). -/
inductive SlotSt where
  | empty | streaming | loaded | active
  deriving DecidableEq, Repr

/-- One of the three context slots (R69). -/
structure Slot where
  /-- state; reset empty -/
  st : SlotSt := .empty
  /-- control state; reset that of a fresh context -/
  ctl : CtxCtl := {}
  /-- a CTXSAVE of the loaded slot streams it out: it reads as streaming (R204, R210); reset false -/
  saving : Bool := false
  deriving DecidableEq, Repr

/-- The pool image of a context that has been switched out: its context, the pool save area it goes to, and the segments that
hold v registers of its groups, accumulators in use and not yet saved, and scratchpad (R70, R280). -/
structure PoolOut where
  ctx : Nat
  parea : Nat
  regs : List Nat
  acc : List Nat
  sp : List Nat
  deriving DecidableEq, Repr

/-! ## Caches, translations, requests -/

/-- A line of the level-one cache: 128 bytes (R92). -/
structure L1Line where
  /-- module physical line number (address / 128) -/
  line : Nat
  /-- data; a missing byte is not held -/
  data : List Byte
  /-- lease, due time, declared distance, fill time (R92) -/
  lease : Nat
  due : Nat
  dist : Nat
  fill : Nat
  /-- declared under d = 15 (R102) -/
  held : Bool
  deriving DecidableEq, Repr

/-- A walk in flight (R86). -/
structure Walk where
  /-- field whose walkers take it, partition tag, context, stage-one root -/
  field : Nat
  tag : Nat
  ctx : Nat
  root : Nat
  /-- virtual address / 64 KiB -/
  page : Nat
  /-- generation of the partition when it began (R292) -/
  gen : Nat
  /-- requesters, in order -/
  req : List WalkReq
  /-- a walker has taken it (R86) -/
  started : Bool
  /-- TLBI has completed since it began: its result is not installed (R106) -/
  noInstall : Bool
  deriving DecidableEq, Repr

/-- What an outstanding memory operation does. -/
inductive ReqKind where
  /-- load; `fill` says it fills the L1 under `lease` (R93) -/
  | load (fill : Bool)
  /-- prefetch (R241) -/
  | pref
  /-- store of `data` (little-endian number) -/
  | store (data : Nat)
  /-- atomic with operand b and swap value -/
  | atom (op : AtOp) (b d : Nat)
  /-- reduction -/
  | red (op : AtOp) (b : Nat)
  /-- gather of the indices -/
  | gather (idx : List Nat)
  /-- store through a host window (R312) -/
  | hostStore (data : Nat)
  /-- store through a peer window (R334) -/
  | peerStore (data : Nat)
  /-- load through a peer window (R334) -/
  | peerLoad
  /-- remote scratchpad load, store, STF, SETFE (full), or a queued LDF (take) or STE -/
  | spLoad
  | spStore (data : Nat)
  | spStf (data : Nat)
  | spSet (full : Bool)
  | spLdf (take : Bool)
  | spSte (data : Nat)
  /-- remote SPAWN item: template number, index (R44) -/
  | spawn (num idx : Nat)
  deriving DecidableEq, Repr

/-- One lane's outstanding memory operation (R107, R237). -/
structure Req where
  /-- issuing tile, partition tag, generation, context, owner (R297) -/
  tile : Nat
  tag : Nat
  gen : Nat
  ctx : Nat
  owner : Nat
  /-- group slot, team, lane (32 for a scalar-path access), instruction -/
  slot : Nat
  gid : Nat
  team : Nat
  lane : Nat
  iid : Nat
  /-- address of the instruction and its word, for records -/
  pc : Nat
  word : W64
  /-- operation -/
  kind : ReqKind
  /-- partition virtual address (offset in a scratchpad) and module physical address -/
  va : Nat
  pa : Nat
  /-- bytes -/
  size : Nat
  /-- reuse field, due time and lease computed at issue (R101, R111) -/
  d : Nat
  due : Nat
  lease : Nat
  /-- volatile class (R118) -/
  vol : Bool
  /-- the L2 is not allocated (R94) -/
  noAlloc : Bool
  /-- destination register, none for a store -/
  dst : Option Reg
  /-- remote place and tile, for a scratchpad operation -/
  place : Nat
  rtile : Nat
  rteam : Nat
  /-- performed at its home, or at the word's tile; for a host-window store, acknowledged and not yet flushed
  (R107, R114) -/
  perf : Bool
  /-- value to return, once performed -/
  val : Nat
  /-- the sector as a fill returns it: its 128 bytes as a number (R93) -/
  sect : Nat
  /-- completion time c, once performed (R112) -/
  comp : Nat
  /-- FPS flags to return (R137) -/
  flags : Nat
  /-- it met poison (R375): 0 no, else 1 + source; of a peer access, 1 where its flit was lost (R422) -/
  ecc : Nat
  /-- a full/empty request has reached its word's queue (R124) -/
  arr : Bool
  /-- wafer time at which a full/empty request arrived, less the time already waited (R372); and its number in the order of
  arrival at its word (R124), or of a fill in the order of reading at home (R109) -/
  since : Nat
  ord : Nat
  deriving DecidableEq, Repr

/-- A line of a home slice (R94, R96, R102). -/
structure L2Line where
  /-- line number (module physical address / 256) -/
  line : Nat
  /-- set it occupies -/
  set : Nat
  /-- partition tag -/
  tag : Nat
  /-- due time, declared distance, declaration time, fill time -/
  due : Nat
  dist : Nat
  decl : Nat
  fill : Nat
  /-- held by a d = 15 declaration (R102) -/
  held : Bool
  /-- allocated and dirty sectors 0 and 1; owner that first dirtied each (R94, R299) -/
  sec0 : Bool
  sec1 : Bool
  dirty0 : Option Nat
  dirty1 : Option Nat
  /-- allocated under d = 0: stale from its fill (R102) -/
  stream : Bool
  /-- counted once as stale (R105) -/
  counted : Bool
  deriving DecidableEq, Repr

/-- One level-two slice (R94 to R96, R104, R105). -/
structure Slice where
  /-- resident lines -/
  lines : List L2Line := []
  /-- LeaseHorizon by line number (R111); reset 0 -/
  hor : AMap Nat := []
  /-- evicted horizon by set (R96); reset 0 -/
  evict : AMap Nat := []
  /-- accuracy counter A by tag (R105); reset 255 -/
  acc : AMap Nat := []
  /-- discount exponent k by tag (R105); reset 0 -/
  disc : AMap Nat := []
  deriving DecidableEq, Repr

/-- One reticle field (R8, R9, R18). -/
structure Field where
  /-- clock step 0 to 2 (R18); reset 0 (DESIGN CHOICE) -/
  step : Nat := 0
  /-- wafer time of the last step change (R19); reset none -/
  lastStep : Option Nat := none
  /-- step change asked for inside the 1 ms interval (R19); reset none -/
  pendStep : Option Nat := none
  /-- issue is halted by a step change (R19); reset false -/
  halted : Bool := false
  /-- wafer time at which that halt began; reset 0 -/
  haltAt : Nat := 0
  /-- all four sensors below 90 °C since this wafer time (R18); reset none -/
  coolSince : Option Nat := none
  /-- ignored sensors 0 to 3, and wafer time since which a sensor differs from the others (R432); reset none -/
  badSensors : List Nat := []
  offSince : AMap Nat := []
  /-- wafer time up to which residency at the clock step is in the lifetime counts (R434); reset 0 -/
  resAt : Nat := 0
  /-- tile cycles counted up to time `cycAt`, in clock units (R3); reset 0 -/
  cycBase : Nat := 0
  cycAt : Nat := 0
  /-- measured skew S in ns (R378); reset 0 -/
  skew : Int := 0
  /-- skew hold (R379); reset false -/
  hold : Bool := false
  /-- stopped as a lasting fault (R378); reset false -/
  stopped : Bool := false
  /-- issue halted by a WTIME counter mismatch until the next beacon (R378); reset false -/
  wtHalt : Bool := false
  /-- wafer time of the last beacon (R378); reset 0 -/
  beacon : Nat := 0
  /-- wafer time of the last counter mismatch (Table 20.1); reset none -/
  lastMis : Option Nat := none
  /-- good walkers and spare slices and walkers left (R9, R429); reset 16, 2, 2 -/
  walkers : Nat := 16
  spSlice : Nat := 2
  spWalk : Nat := 2
  /-- retired by repair (R429); reset false -/
  retired : Bool := false
  /-- spare rows already used, and withdrawn grains (R429, R431); reset 0, none -/
  rowsUsed : Nat := 0
  withdrawn : List Nat := []
  /-- home status entries by tag, bits [4:0] (Table 10.6); reset 0 -/
  status : AMap Nat := []
  deriving DecidableEq, Repr

/-! ## Tiles -/

/-- An AEVT (Table 8.6). -/
structure Aevt where
  /-- KIND 1 trap, 2 slice boundary, 3 launch notice, 4 recall, 5 counter overflow -/
  kind : Nat
  /-- group concerned -/
  gslot : Nat
  /-- context slot concerned -/
  slot : Nat
  /-- kind-specific -/
  info : Nat
  deriving DecidableEq, Repr

/-- A context image as the agents read it (Table 13.5). -/
structure CtxImage where
  entry : Nat
  timage : Nat
  s1root : Nat
  utrap : Nat
  pool : Nat
  slabs : Nat
  accRows : Nat
  flags : Nat
  bint : Nat
  leasecap : Nat
  items : Nat
  /-- a reserved field is nonzero -/
  rsvd : Bool
  deriving DecidableEq, Repr

/-- A cluster reservation at a member (R56). -/
structure Resv where
  /-- anchor tile, context, launch, cluster ticket -/
  anchor : Nat
  ctx : Nat
  seq : Nat
  c : Nat
  /-- number of the member's team, group slots and context image of the launch -/
  num : Nat
  g : Nat
  img : CtxImage
  /-- granted; the group slots and the template store slot that the grant holds (R34, R55) -/
  granted : Bool
  slots : List Nat
  tslot : Option Nat
  deriving DecidableEq, Repr

/-- A cluster that an anchor has drawn and not yet built (R56). -/
structure Anchored where
  /-- context, launch, cluster ticket -/
  ctx : Nat
  seq : Nat
  c : Nat
  /-- member tiles whose reservation a router has dropped (R390) -/
  lost : List Nat := []
  deriving DecidableEq, Repr

/-- Quiesce and recall progress of a tile (R305, R73). -/
inductive Quiesce where
  | none | paused | preempting | draining | saving | leases | retag
  deriving DecidableEq, Repr

/-- One compute tile (R8). -/
structure Tile where
  /-- KTAG.TAG and KTAG.GEN (Table 8.6); reset 0 -/
  tag : Nat := 0
  gen : Nat := 0
  /-- its own logical place (R287); reset 0 -/
  place : Nat := 0
  /-- place table: 16-bit entries, unlisted 0 = not valid (R209); reset 0 -/
  places : AMap Nat := []
  /-- route table: PORT by destination tile, unlisted 0 (R289); reset 0 -/
  routes : AMap Nat := []
  /-- POOLSZ.DIS, 0 to 48 (Table 4.5); reset 0 (DESIGN CHOICE: Repair) -/
  dis : Nat := 0
  /-- context slots 0 to 2 (R69); reset empty -/
  slots : AMap Slot := []
  /-- active slot (ACTX.ACT); reset 0 -/
  act : Nat := 0
  /-- pool segments not yet exchanged, next one first, and the outgoing pool image (R70); reset none -/
  segs : List Nat := []
  poolOut : Option PoolOut := none
  /-- template store, 16 slots (R37); reset empty -/
  store : AMap Template := []
  /-- store slots disabled by repair (R429); reset none -/
  storeBad : List Nat := []
  /-- tile cycle from which a unit is free: 0, 1 the pipelines, 2, 3 their divide paths, 4, 5 their special function units
  (R61, R212); reset 0 -/
  pipes : AMap Nat := []
  /-- tile cycle, plus 1, in which pipelines 0 and 1 last issued (R201); reset 0 -/
  issAt : AMap Nat := []
  /-- tile cycle in which the agent last took an issue slot (R62); reset none -/
  agentCyc : Option Nat := none
  /-- the agent's group, slot 32 (R62); reset absent -/
  agent : Group := {}
  /-- the agent has been stopped by a trap of its own (R366); reset false -/
  agentStop : Bool := false
  /-- AEVT queue, at most 64 (R356), and events that wait for room in it (log 95); reset empty -/
  aevt : List Aevt := []
  aevtWait : List Aevt := []
  /-- L1 cache lines (R92); reset empty -/
  l1 : List L1Line := []
  /-- L1 TLB, 64 entries, and L2 TLB, 2,048 entries (R86); reset empty -/
  tlb1 : List TlbEnt := []
  tlb2 : List TlbEnt := []
  /-- memory as instruction fetch last took it: reloaded when a team is built or a context switched in (R178); reset
  nothing listed -/
  icache : List Host.Cell := []
  /-- length of the record of stored words at that reload (R178); the model's own; reset 0 -/
  codeFrom : Nat := 0
  /-- copy engine queue, oldest first, at most 16 accepted (R255); reset empty -/
  copies : List CopyCmd := []
  /-- matrix array (R258); reset zero -/
  arr : Arr := {}
  /-- reservations received (R56); reset none -/
  resv : List Resv := []
  /-- cluster tickets this anchor keeps until it builds them (R56, R74); reset none -/
  anchoring : List Anchored := []
  /-- packets held at the router (R391); reset none -/
  heldPkts : List Packet := []
  /-- drop counter, 32 bits, saturating (R388); reset 0 -/
  drops : Nat := 0
  /-- quiesce step (R305), the wafer time at which it began, and the horizons it waits out in step 5; reset none, 0, 0 -/
  quiesce : Quiesce := .none
  qAt : Nat := 0
  qHor : Nat := 0
  /-- wafer time of the recall request (R396); reset none -/
  recallAt : Option Nat := none
  /-- lent by this tag, at this place of the lender (R72); reset none -/
  lender : Option (Nat × Nat) := none
  /-- a place or route table entry holds an uncorrectable error (R374); reset false -/
  tableBad : Bool := false
  /-- uncorrectable words of its pool: 1 registers, 2 scratchpad, 3 accumulators, 4 planes, with an offset (R374) -/
  badWords : List (Nat × Nat) := []
  /-- tile retired or never good (R6); reset false -/
  dead : Bool := false
  deriving DecidableEq, Repr

/-! ## Partitions and launches -/

/-- A launch of a context (R53, R54). -/
structure Launch where
  /-- admission sequence number -/
  seq : Nat
  /-- its queue interface, COOKIE, VEC and IRQ -/
  ifn : Nat
  cookie : Nat
  vec : Nat
  irq : Bool
  /-- owner of its queue (R299) -/
  owner : Nat
  /-- UNITS, G, CW, CH, IMAGE, SIGNAL (Table 3.3) -/
  units : Nat
  g : Nat
  cw : Nat
  ch : Nat
  image : Nat
  signal : Nat
  /-- on the active launch list (R53) -/
  listed : Bool
  /-- completed (R60) -/
  complete : Bool
  /-- aborted, with CODE and record slot (R364) -/
  aborted : Option (Nat × Nat)
  /-- tiles whose acknowledgement of the abort notice is awaited (R364) -/
  awaiting : List Nat
  deriving DecidableEq, Repr

/-- A saved control state (R204): the part of a saved image that only X1 tiles can read. -/
structure SavedImage where
  /-- context, place of the tile that saved it, and virtual address of the image -/
  ctx : Nat
  place : Nat
  va : Nat
  /-- the image is on its context's restore list (R363) -/
  listed : Bool
  /-- the bytes written (R205) -/
  bytes : List Byte
  /-- control state -/
  ctl : CtxCtl
  deriving DecidableEq, Repr

/-- One context of a partition (R65, R321, R356). -/
structure Ctx where
  /-- context owner (R297) -/
  owner : Nat
  /-- EVBASE, IRQEN, VEC, LOGSZ, EVPROD, EVCONS, EVLOST (Table 13.6); reset 0, LOGSZ 4 -/
  evbase : Nat := 0
  irqen : Bool := false
  vec : Nat := 0
  logsz : Nat := 4
  evprod : Nat := 0
  evcons : Nat := 0
  evlost : Nat := 0
  /-- LAREA, SAREA, PVALID, PASID (Table 13.6); reset 0 -/
  larea : Nat := 0
  sarea : Nat := 0
  pvalid : Bool := false
  pasid : Nat := 0
  /-- stage-one root under which the arbiter translates: the cut's, then that of the last LAUNCH admitted (R83) -/
  s1root : Nat := 0
  /-- error store PROD, CONS, ADROP (R356); reset 0 -/
  eprod : Nat := 0
  econs : Nat := 0
  adrop : Nat := 0
  /-- error store slots 1 to 255, 64 bytes each as a number (R354); reset 0 -/
  erecs : AMap (BitVec 512) := []
  /-- launches of the context (R53) -/
  launches : List Launch := []
  /-- next admission sequence number (R54); reset 0 -/
  nextSeq : Nat := 0
  deriving DecidableEq, Repr

/-- State of a weight key slot (R263). -/
inductive KeySlot where
  | empty
  | clear
  | keyed (key : BitVec 512) (wdid : W32)
  deriving DecidableEq, Repr

/-- A peer window (R334). -/
structure PeerWin where
  /-- window number, remote module, tag, partition physical base, size, write permission -/
  w : Nat
  module : Nat
  tag : Nat
  base : Nat
  size : Nat
  write : Bool
  deriving DecidableEq, Repr

/-- Progress of a migration (R308, R423). -/
structure Migration where
  /-- phase 1 to 5 of Table 19.4, 6 at a destination that takes in the copy; the destination module -/
  phase : Nat
  dst : Nat
  /-- the destination was approved by the tenant's verifier (R331) -/
  approved : Bool
  /-- the key blob and KB have been sent, as drawn (R424) -/
  sent : Option Nat
  /-- length of the record of stored words when the copy in progress began, and regions of 2 MiB written since (R308) -/
  mark : Nat
  dirty : List Nat
  /-- number of regions below which the rounds may end, as the host has named it, and the bytes copied so far, by partition
  physical address (R308) -/
  limit : Nat
  copy : List Host.Cell
  /-- at the destination, TAGGEN of the source's images, as the key blob gives it (R308, R424) -/
  src : Nat := 0
  /-- held as a copy source only (R423) -/
  heldSource : Bool
  deriving DecidableEq, Repr

/-- Drops of one source tile and context being collected for a kind-5 record (R390). -/
structure Cover where
  tile : Nat
  ctx : Nat
  /-- wafer time of the first drop, and the source tile's place then -/
  first : Nat
  src : Nat
  /-- reason, place named and scratchpad offset of the first drop, and drops counted -/
  reason : Nat
  place : Nat
  off : Nat
  count : Nat
  deriving DecidableEq, Repr

/-- Settings that wait for their moment (R286): the request to answer, none for those of a cut, and what is left of it. -/
structure PendSet where
  req : Option SettingsReq
  left : SettingsReq
  deriving DecidableEq, Repr

/-- One partition (R284). -/
structure Part where
  /-- generation, 0 to 15 (R285, R309) -/
  gen : Nat
  /-- logical bounding box (R287) -/
  lw : Nat
  lh : Nat
  /-- valid places: place, physical tile (R287) -/
  places : AMap Nat
  /-- grains in partition grain order: field, grain of the field (R87, R294) -/
  grains : List (Nat × Nat)
  /-- base of its stage-two tables, module physical (R293) -/
  s2root : Nat
  /-- contexts by number (R65) -/
  ctxs : AMap Ctx
  /-- owner set (R297) -/
  owners : List Nat
  /-- agent region: partition physical ranges (R324) -/
  agent : List (Nat × Nat)
  /-- host link and MSI-X table size of its virtual function (R313) -/
  link : Nat
  msix : Nat
  /-- MSI-X entries written by the host, and pending bits (R313) -/
  msixTab : AMap Nat
  msixPend : List Nat
  /-- slice schedule: context, length in µs (R65); its position, and the wafer time its slice began -/
  sched : List (Nat × Nat)
  schedPos : Nat
  sliceAt : Nat
  /-- the schedule rests (R66) -/
  resting : Bool
  /-- fixed-slice, preemption timeout in ns, strict (Table 12.8) -/
  fixed : Bool
  preempt : Nat
  strict : Bool
  /-- requests accepted whose settings are not all in effect, oldest first (R286) -/
  pendSet : List PendSet
  /-- outgoing context's boundary in progress: wafer time (R67) -/
  boundary : Option Nat
  /-- weight key slots 0 to 15 (R263); reset empty -/
  keys : AMap KeySlot
  /-- KEY_SET or KEY_ERASE held behind accepted LDS (R380): session, slot, new state -/
  keyHeld : List (Nat × Nat × KeySlot)
  /-- context-save key (R330) -/
  saveKey : BitVec 512
  /-- escrow public key (R423) -/
  escrow : Option Nat
  /-- GOFF, signed 64 bits (R335) -/
  goff : Int
  /-- paused by the host: w0, g0 (R335) -/
  paused : Option (Nat × Int)
  /-- peer windows (R334) -/
  peers : List PeerWin
  /-- deficits by level × 64 + owner (R51); reset none in rotation -/
  deficit : AMap Nat
  /-- owner last served by level, queue last served by level × 64 + owner, owner being served by level (R51) -/
  lastOwner : AMap Nat
  lastQueue : AMap Nat
  serving : AMap Nat
  /-- wafer time of the last reset (R309) -/
  lastReset : Option Nat
  /-- a reset is due when the 1 ms interval allows (R394) -/
  resetDue : Bool
  /-- claims and admission stopped (R394) -/
  heldStop : Bool
  /-- migration in progress (R308) -/
  mig : Option Migration
  /-- saved control states of its contexts (R204) -/
  images : List SavedImage
  /-- drops being collected for kind-5 records (R390); reset none -/
  covers : List Cover
  /-- the reshaping operation in progress, by its request, and those that wait their turn, oldest first (R307); reset none -/
  op : Option Instr
  waitOps : List Instr := []
  deriving DecidableEq, Repr

/-! ## Queues and the host side -/

/-- TDISP states of a queue interface (R325), coded as STATE. -/
inductive QState where
  | unlocked | locked | run | error
  deriving DecidableEq, Repr

/-- A queue error record (Table 19.2). -/
structure QErr where
  code : Nat
  pstate : QState
  hdr : Nat
  detail1 : Nat
  detail2 : Nat
  wtime : Nat
  gtime : Nat
  deriving DecidableEq, Repr

/-- A COPY packet in progress (R319). -/
structure CopyJob where
  /-- source, destination, bytes, signal, SPACES -/
  src : Nat
  dst : Nat
  len : Nat
  signal : Nat
  spaces : Nat
  /-- bytes moved, largest c, host flush still awaited -/
  done : Nat
  hor : Nat
  flush : Bool
  /-- a host page is being fetched through PRI (R319) -/
  pri : Bool
  /-- it finished moving -/
  moved : Bool
  /-- its ring index, IRQ and VEC (R317, R411) -/
  at_ : Nat
  irq : Bool
  vec : Nat
  /-- host pages of 4 KiB whose translation the device holds (R319, R419) -/
  ats : List Nat
  deriving DecidableEq, Repr

/-- A queue interface (R314 to R316, R325). -/
structure Queue where
  /-- the privileged part (Table 13.2) -/
  cfg : QueueCfg
  /-- WIDX, RIDX; reset 0 -/
  widx : Nat
  ridx : Nat
  /-- IMOD, GFLAGS.IRQEN as last read from the guest part (R316) -/
  imod : Nat
  irqen : Bool
  /-- STATE; reset CONFIG_UNLOCKED -/
  state : QState
  /-- head packet as read once (R314), and whether its wait signals are satisfied (R50) -/
  head : Option (List Byte)
  satisfied : Bool
  /-- its wait signals as its wait block gave them: address, threshold (R50) -/
  waits : List (Nat × Nat)
  /-- COPY in progress (R319) -/
  copy : Option CopyJob
  /-- queue error record (R413) -/
  err : Option QErr
  /-- tamper count, 16 bits, saturating (R415) -/
  tamper : Nat
  /-- session and IDE stream that locked it (R325) -/
  sess : Option Nat
  ide : Option Nat
  /-- STOP_INTERFACE waits for launches (R414) -/
  stopping : Bool
  /-- vector raised at this wafer time, and a vector collected meanwhile (R323) -/
  vecAt : Option Nat
  vecPend : Option Nat
  /-- QCB bytes 0 to 7, 16 and 64 to 127 as last written back (R415) -/
  shadow : List Byte
  /-- write-back due, and wafer time of the last one; none after a change of state (R316) -/
  wbDue : Bool
  wbAt : Option Nat
  /-- ATS invalidations draining: page and wafer time of receipt (R419) -/
  drain : List (Nat × Nat)
  deriving DecidableEq, Repr

/-- An SPDM session (R328, R420). -/
structure Session where
  /-- interface it is bound to, if any -/
  ifn : Option Nat
  /-- session secret, opaque to the model -/
  secret : Nat
  deriving DecidableEq, Repr

/-- A Jarlet port (R14, R303, R333, R422). -/
structure Jarlet where
  /-- in service, link up -/
  inService : Bool := true
  up : Bool := false
  /-- port offset in ns (R303) -/
  off : Int := 0
  /-- key per direction (0 send, 1 receive), its 96-bit counter and key phase (R333) -/
  key0 : Nat := 0
  key1 : Nat := 0
  ctr0 : Nat := 0
  ctr1 : Nat := 0
  ph0 : Bool := false
  ph1 : Bool := false
  /-- flits failing authentication in a row, and in the current 1 ms with its start (R422) -/
  failRow : Nat := 0
  failMs : Nat := 0
  failAt : Nat := 0
  /-- slot conflicts in the current 1 ms with its start, and re-measurements (R402) -/
  conf : Nat := 0
  confAt : Nat := 0
  remeas : Nat := 0
  /-- failed key agreements since the take-down (R422) -/
  agreeFail : Nat := 0
  /-- flits delivered (R333) -/
  delivered : Nat := 0
  deriving DecidableEq, Repr

/-- An IDE stream of a host link (R332, R421). -/
structure IdeStream where
  /-- number: 0 the link stream, 1 to 16 selective ones -/
  num : Nat
  /-- function that a selective stream is keyed for, by tag -/
  tag : Nat
  key : Nat
  /-- false in the Insecure state -/
  secure : Bool
  deriving DecidableEq, Repr

/-- A host link (R14, R332). -/
structure HostLink where
  /-- IDE streams keyed -/
  streams : List IdeStream := []
  /-- vectors raised: function tag (0 physical function), vector (R313, R411) -/
  msix : List (Nat × Nat) := []
  /-- AER uncorrectable internal error reported (R433) -/
  aer : Bool := false
  /-- ATS Invalidation Completions sent, newest first: tag, PASID, page (R419); reset none -/
  inval : List (Nat × Nat × Nat) := []
  deriving DecidableEq, Repr

/-- An owner (R297, R298, R300). -/
structure Owner where
  /-- weight 1 to 255; reset 1 (DESIGN CHOICE) -/
  weight : Nat := 1
  /-- 32-bit epoch; reset 0 -/
  epoch : Nat := 0
  /-- TILETIME, THROTTLE, DRAMB, HOSTB, JARB, ENERGY, 128 bits each; reset 0 (Table 12.4). The first two are kept in shares:
  144,403,552,893,600 of them, the least common multiple of 1 to 32, make one tile·ns (R299) -/
  tiletime : Nat := 0
  throttle : Nat := 0
  dramb : Nat := 0
  hostb : Nat := 0
  jarb : Nat := 0
  energy : Nat := 0
  deriving DecidableEq, Repr

/-- A drop log entry (Table 18.2). -/
structure DropEnt where
  wtime : Nat
  dtile : Nat
  dtag : Nat
  ptag : Nat
  stile : Nat
  dest : Nat
  reason : Nat
  kind : Nat
  owner : Nat
  deriving DecidableEq, Repr

/-- A blast record (Table 18.4). -/
structure Blast where
  seq : Nat
  wtime : Nat
  st : SharedStruct
  field : Nat
  unit : Nat
  blast : List Nat
  deriving DecidableEq, Repr

/-- A signed or plain answer of Keystone (R326 to R330): kind, fields, signature or digest value. -/
structure Answer where
  kind : Nat
  data : List Nat
  sig : Nat
  deriving DecidableEq, Repr

/-- A flit that waits at a shared link: tag, owner, and the request it carries, 0 for one of the link's other traffic
(R297, R302). -/
structure LinkFlit where
  tag : Nat
  owner : Nat
  req : Nat
  deriving DecidableEq, Repr

/-- Keystone's own state (R7, R15, R328). -/
structure Keystone where
  /-- retired or never good tiles: the complement of the good-tile map (R7); reset none (DESIGN CHOICE) -/
  bad : List Nat := []
  /-- wafer time at which each tag was last freed (R285); reset none -/
  freed : AMap Nat := []
  /-- owners 0 to 63 (R297); reset each at its reset -/
  owners : AMap Owner := []
  /-- unattributed energy (R299); reset 0 -/
  unattrib : Nat := 0
  /-- slot table: 64 tags, unlisted 0 = open (R301); reset 0 -/
  slots : AMap Nat := []
  /-- wafer time of the table boundary at which pending slot entries and strict marks take effect, and freed tags whose entries
  open then (R304); reset none -/
  slotAt : Option Nat := none
  slotDrop : List Nat := []
  /-- overruns by link × 1024 + tag (R401); reset 0 -/
  overruns : AMap Nat := []
  /-- stage-two fault log: tag, partition physical address, wafer time (R370); reset empty -/
  faults : List (Nat × Nat × Nat) := []
  /-- drop log, newest first, at most 65,536 (R389); reset empty -/
  dropLog : List DropEnt := []
  /-- blast records, and the next sequence number (R395); reset empty, 0 -/
  blasts : List Blast := []
  blastSeq : Nat := 0
  /-- working counts by class, and the same in flash (R434); reset 0; flash survives power loss (R22) -/
  counts : AMap Nat := []
  flash : AMap Nat := []
  /-- repairs: sequence number, wafer time, unit code, old, new (R434); survives power loss -/
  repairs : List (Nat × Nat × Nat × Nat × Nat) := []
  /-- next lifetime sequence number (R434); survives power loss -/
  lifeSeq : Nat := 0
  /-- module-fatal cause, field and WTIME in flash (R433); survives power loss -/
  fatalRec : Option (Nat × Nat × Nat) := none
  /-- LMS leaves used, in flash (R328); survives power loss; reset 1, leaf 0 signed at this reset (DESIGN CHOICE) -/
  leaf : Nat := 1
  /-- leaf that signed the alias certificate of this reset (R328); reset leaf 0 (DESIGN CHOICE) -/
  alias_ : Option Nat := some 0
  /-- SPDM sessions by identifier (R328); reset none -/
  sess : AMap Session := []
  /-- answers sent, newest first (R326 to R330); reset none -/
  answers : List Answer := []
  /-- answers to management requests, newest first: the request, and 0 accepted or the refusal's reason (R284, R286,
  R307, R400); reset none -/
  results : List (Instr × Nat) := []
  /-- repairs that wait for their tile's quiesce, with the wafer time of the fault (R429); reset none -/
  repairReq : List (Instr × Nat) := []
  /-- tile-mesh links out of service, by tile and port (R429); reset none -/
  badLinks : List (Nat × Nat) := []
  /-- flits that wait at a shared link, in order of arrival (R302); reset none -/
  flits : AMap (List LinkFlit) := []
  /-- partition that last took its turn in the rest of a slot, by link (R302); reset none -/
  rr : AMap Nat := []
  /-- tag of the flit last sent, by link (R302); reset none -/
  sent : AMap Nat := []
  /-- forwarding entries of migrated partitions: tag, end in wafer time, destination module (R425); reset none -/
  forwards : List (Nat × Nat × Nat) := []
  /-- wafer time at which a word was last corrected, by class, field and word, and those of the corrections of a row bucket, by
  field × 1024 + bucket (R428); reset none -/
  corrAt : AMap Nat := []
  rowAt : AMap (List Nat) := []
  /-- wafer time of the last scrub pass and fold (R427, R434); reset 0 -/
  scrubAt : Nat := 0
  foldAt : Nat := 0
  /-- ticks of 4,096 ns that the slices have taken (R105); reset 0 -/
  accAt : Nat := 0
  deriving DecidableEq, Repr

/-- Run state of the module (R433). -/
inductive ModSt where
  | running
  | fatal (cause field : Nat)
  deriving DecidableEq, Repr

/-! ## The machine -/

/-- What the issue unit has selected: the subset whose instruction is executed (R27). -/
structure Cur where
  /-- tile and group slot (32 the agent's) -/
  tile : Nat := 0
  slot : Nat := 0
  /-- issuing subset, bit per lane (R27) -/
  sub : BitVec 32 := 0
  /-- its address and word -/
  pc : Nat := 0
  word : W64 := 0
  deriving DecidableEq, Repr

/-- What the detection and the retry of a fault have shown (R428, Table 20.1), with the field, the class of Table 20.3 and the unit
that is repaired where it is lasting. -/
inductive Finding where
  /-- a word of a structure was corrected and written back; whether its read-back failed -/
  | corrected (field cls word : Nat) (bad : Bool) (u : RepairUnit)
  /-- a granule of the plinth was corrected; whether that took the code for a lost die -/
  | granule (g : Nat) (die : Bool)
  /-- any other retry: the patterns of an uncorrectable word, a flit sent again, an operation or a walk done again, the
  built-in test of an array cell; whether it failed -/
  | retried (field cls : Nat) (failed : Bool) (u : RepairUnit)
  deriving DecidableEq, Repr

/-- One turn of the environment's schedule (the model's own): time that passes, which group is offered issue, and
the event that happens; with no event the issue unit takes the turn. -/
structure Input where
  /-- elapsed time in units of 1/2,100 ns -/
  units : Nat
  /-- tile and group slot offered issue -/
  at_ : Option (Nat × Nat)
  /-- the event of this turn -/
  ev : Option Instr
  /-- bytes that the host writes into its own memory before this turn: key, byte (R312) -/
  host : List (Nat × Byte) := []
  /-- uncorrectable errors that storage takes before this turn (R374, R375): tile, structure, place in it. Structures 1 to 4
  are those of Tile.badWords, 5 a template store slot, 6 a granule of the plinth, 7 the tile's tables -/
  upsets : List (Nat × Nat × Nat) := []
  /-- faults detected and retried before this turn (R428) -/
  found : List Finding := []
  deriving DecidableEq, Repr

/-- An internal step that is due, with the place it acts at where it names none itself (the model's own). -/
structure Due where
  tile : Nat := 0
  slot : Nat := 0
  ev : Instr
  deriving DecidableEq, Repr

/-- The whole module. -/
structure State where
  /-- time since module reset in units of 1/2,100 ns: WTIME is now / 2,100 (R21); reset 0 -/
  now : Nat
  /-- running, or stopped by a module-fatal event (R433); reset running -/
  mode : ModSt
  /-- plinth bytes by module physical address, unlisted ones 0 (R10); reset nothing listed -/
  mem : List Host.Cell
  /-- poisoned 64-byte granules, by address / 64 (R375); reset none -/
  poison : List Nat
  /-- words of plinth memory stored since reset, newest first: number (address / 8) and value, for the fetches of R178;
  the model's own; reset empty -/
  writes : List (Nat × W64)
  /-- host memory bytes by I/O virtual address, plus 2^64 × (1 + PASID) with a PASID, plus 2^96 × the tag of the function that
  reaches it; unlisted bytes 0 (R312); reset nothing listed -/
  host : List Host.Cell
  /-- fields 0 to 83 (R9); reset each at its reset -/
  fields : AMap Field
  /-- level-two slices by field × 64 + slice (R94); reset empty -/
  slices : AMap Slice
  /-- walks in flight by identifier (R86); reset none -/
  walks : AMap Walk
  /-- memory operations in flight by identifier (R107); reset none -/
  reqs : AMap Req
  /-- tiles 0 to 8,399 (R8), and Keystone's own, 8,400 (R15, log 115); reset each at its reset -/
  tiles : AMap Tile
  /-- partitions by tag (R284); reset none -/
  parts : AMap Part
  /-- interface table: queues by IFNUM (R313); reset none -/
  queues : AMap Queue
  /-- Jarlet ports 0 to 63 (R14); reset each at its reset -/
  jarlets : AMap Jarlet
  /-- host links 0 to 3 (R14); reset each at its reset -/
  links : AMap HostLink
  /-- Keystone (R15) -/
  ks : Keystone
  /-- the issuing subset (R27); the model's own; reset tile 0, slot 0, no lane -/
  cur : Cur
  /-- the environment's schedule; the model's own; reset empty (DESIGN CHOICE) -/
  inputs : List Input
  /-- internal steps due next, oldest first; the model's own; reset empty -/
  due : List Due
  /-- the last turn without an input took an internal step; the model's own; reset false -/
  turn : Bool
  /-- counter of free values drawn; the model's own; reset 0 (DESIGN CHOICE) -/
  free : Nat
  /-- next identifier of requests, instructions, walks and teams; the model's own; reset 1 (DESIGN CHOICE) -/
  nextId : Nat
  deriving DecidableEq, Repr

/-- The module at the end of module reset (R21, R22): no partition, nothing in memory, WTIME 0. -/
def State.reset : State where
  now := 0
  mode := .running
  mem := []
  poison := []
  writes := []
  host := []
  fields := []
  slices := []
  walks := []
  reqs := []
  tiles := []
  parts := []
  queues := []
  jarlets := []
  links := []
  ks := {}
  cur := {}
  inputs := []
  due := []
  turn := false
  free := 0
  nextId := 1

end Sys2Proof.Machine
end

