-- ==== Sys2Proof/Machine/Ops.lean ====
section
/-! DEFINITION. The named operations over State: sparse tables, bytes of memory, tiles and groups, registers, time,
the issuing subset and its advance, reconvergence (R27 to R32), taking a trap (R352, R354) and the returns from one
(R192, R193). -/

namespace Sys2Proof.Machine

/-! ## Sparse tables -/

/-- The entry at a key. -/
def amGet {α : Type} : AMap α → Nat → Option α
  | [], _ => none
  | (j, x) :: m, k => if j = k then some x else amGet m k

/-- Set a key, keeping the keys rising. -/
def amSet {α : Type} (m : AMap α) (k : Nat) (x : α) : AMap α :=
  match m with
  | [] => [(k, x)]
  | (j, y) :: r => if j < k then (j, y) :: amSet r k x else if j = k then (k, x) :: r else (k, x) :: (j, y) :: r

/-- Remove a key. -/
def amDel {α : Type} (m : AMap α) (k : Nat) : AMap α := m.filter (·.1 != k)

/-- Set a key of a table with a default: the default is not listed. -/
def amPut {α : Type} [DecidableEq α] (d : α) (m : AMap α) (k : Nat) (x : α) : AMap α :=
  if x = d then amDel m k else amSet m k x

/-! ## Bytes of memory -/

/-- The byte at an address; an unlisted one reads 0. -/
def Memory.get (m : List Host.Cell) (a : Nat) : Byte := (amGet m a).getD 0

/-- Write one byte, keeping the canonical form. -/
def Memory.set (m : List Host.Cell) (a : Nat) (b : Byte) : List Host.Cell := amPut 0 m a b

/-- Canonical form: addresses strictly rising, no listed byte equal to 0. -/
def Memory.wf : List Host.Cell → Bool
  | [] => true
  | (a, b) :: m => b != 0 && (match m with
    | [] => true
    | (c, _) :: _ => decide (a < c)) && Memory.wf m

/-- `n` bytes from `a` as a little-endian number (R1). -/
def Memory.read (m : List Host.Cell) (a : Nat) : Nat → Nat
  | 0 => 0
  | n + 1 => (Memory.get m a).toNat + 256 * Memory.read m (a + 1) n

/-- Write the low `n` bytes of `v` at `a`, little-endian (R1). -/
def Memory.write (m : List Host.Cell) (a : Nat) : Nat → Nat → List Host.Cell
  | 0, _ => m
  | n + 1, v => Memory.write (Memory.set m a (BitVec.ofNat 8 v)) (a + 1) n (v / 256)

/-- The bytes from `a`. -/
def Memory.bytes (m : List Host.Cell) (a n : Nat) : List Byte := (List.range n).map fun i => Memory.get m (a + i)

/-- Write a list of bytes. -/
def Memory.putBytes (m : List Host.Cell) (a : Nat) : List Byte → List Host.Cell
  | [] => m
  | b :: l => Memory.putBytes (Memory.set m a b) (a + 1) l

/-! ## Bits and masks -/

/-- Bit `i` of a lane mask. -/
def bit {w : Nat} (m : BitVec w) (i : Nat) : Bool := m.getLsbD i

/-- Set bit `i`. -/
def setBit {w : Nat} (m : BitVec w) (i : Nat) : BitVec w := m ||| (1#w <<< i)

/-- Clear bit `i`. -/
def clrBit {w : Nat} (m : BitVec w) (i : Nat) : BitVec w := m &&& ~~~(1#w <<< i)

/-- The lanes of a mask, ascending. -/
def lanesOf (m : BitVec 32) : List Nat := (List.range 32).filter (bit m ·)

/-- The mask of a list of lanes. -/
def maskOf (l : List Nat) : BitVec 32 := l.foldl setBit 0

/-- Bits [hi:lo] of a number. -/
def bits (v lo len : Nat) : Nat := v / 2 ^ lo % 2 ^ len

/-- `v` with bits [lo+len-1:lo] replaced by `x`. -/
def putBits (v lo len x : Nat) : Nat := v - bits v lo len * 2 ^ lo + x % 2 ^ len * 2 ^ lo

/-- Bit `i` of a number. -/
def tbit (v i : Nat) : Bool := v / 2 ^ i % 2 == 1

/-- A list of bytes as a little-endian number. -/
def leNum (l : List Byte) : Nat := l.foldr (fun b a => b.toNat + 256 * a) 0

/-- `n` bytes at an offset of a list, as a number. -/
def sliceNum (l : List Byte) (off n : Nat) : Nat := leNum ((l.drop off).take n)

/-- The low `n` bytes of a number, ascending. -/
def leBytes (n v : Nat) : List Byte := (List.range n).map fun i => BitVec.ofNat 8 (v / 256 ^ i)

/-- Two's complement reading of the low `n` bits. -/
def sext (n v : Nat) : Int := if v % 2 ^ n < 2 ^ (n - 1) then ((v % 2 ^ n : Nat) : Int) else ((v % 2 ^ n : Nat) : Int) - 2 ^ n

/-- An integer modulo 2^n. -/
def wrap (n : Nat) (i : Int) : Nat := (i % 2 ^ n).toNat

/-! ## Lenses -/

/-- The number of Keystone's own tile, beside the 8,400 compute tiles (R15). Its two lock-stepped halves run as one; it belongs to
tag 0 and stands at field 0's stop. The spec gives no program for it: what Keystone does is the module's steps. -/
def keystoneTile : Nat := 8400

/-- A tile after reset: Keystone's group runs at privilege K (R15). -/
def tileReset (t : Nat) : Tile := if t = keystoneTile then { agent := { priv := .keystone } } else {}

/-- A tile. -/
def State.tile (s : State) (t : Nat) : Tile := (amGet s.tiles t).getD (tileReset t)

/-- Replace a tile. -/
def State.setTile (s : State) (t : Nat) (x : Tile) : State := { s with tiles := amSet s.tiles t x }

/-- Change a tile. -/
def State.modTile (s : State) (t : Nat) (f : Tile → Tile) : State := s.setTile t (f (s.tile t))

/-- A context slot of a tile. -/
def Tile.slot (T : Tile) (i : Nat) : Slot := (amGet T.slots i).getD {}

/-- The control state of the active slot. -/
def Tile.ctl (T : Tile) : CtxCtl := (T.slot T.act).ctl

/-- Replace a context slot. -/
def Tile.setSlot (T : Tile) (i : Nat) (x : Slot) : Tile := { T with slots := amSet T.slots i x }

/-- Replace the active control state. -/
def Tile.setCtl (T : Tile) (c : CtxCtl) : Tile := T.setSlot T.act { T.slot T.act with ctl := c }

/-- A group of the active context; slot 32 is the agent's (R62). -/
def Tile.group (T : Tile) (g : Nat) : Group := if g = 32 then T.agent else (amGet T.ctl.groups g).getD {}

/-- Replace a group. -/
def Tile.setGroup (T : Tile) (g : Nat) (x : Group) : Tile :=
  if g = 32 then { T with agent := x } else T.setCtl { T.ctl with groups := amSet T.ctl.groups g x }

/-- A team of the active context. -/
def Tile.team (T : Tile) (i : Nat) : Option Team := amGet T.ctl.teams i

/-- Replace a team. -/
def Tile.setTeam (T : Tile) (x : Team) : Tile := T.setCtl { T.ctl with teams := amSet T.ctl.teams x.id x }

/-- Change a team that exists. -/
def Tile.modTeam (T : Tile) (i : Nat) (f : Team → Team) : Tile :=
  match T.team i with
  | some x => T.setTeam (f x)
  | none => T

/-- A lane of a group. -/
def Group.lane (g : Group) (l : Nat) : Lane := g.lanes.getD l {}

/-- The 32 lanes of a group. -/
def Group.all (g : Group) : List Lane := (List.range 32).map g.lane

/-- Change each lane, by number. -/
def Group.mapLanes (g : Group) (f : Nat → Lane → Lane) : Group :=
  { g with lanes := (List.range 32).map fun i => f i (g.lane i) }

/-- Change one lane. -/
def Group.modLane (g : Group) (l : Nat) (f : Lane → Lane) : Group := g.mapLanes fun i x => if i = l then f x else x

/-- Change the lanes of a mask. -/
def Group.modMask (g : Group) (m : BitVec 32) (f : Lane → Lane) : Group :=
  g.mapLanes fun i x => if bit m i then f x else x

/-- Change a group of a tile. -/
def State.modGroup (s : State) (t g : Nat) (f : Group → Group) : State :=
  s.modTile t fun T => T.setGroup g (f (T.group g))

/-- The templates of FRZ instructions are bound: they are live from their completion on (R37, R191). -/
def Tile.bindFrz (T : Tile) (l : List OutInst) : Tile :=
  { T with store := T.store.map fun z => if l.any fun (o : OutInst) => o.frz == some z.1 then (z.1, { z.2 with live := true }) else z }

/-- The CTXSAVE of a loaded slot has completed: the slot reads loaded again (R204, R210). -/
def Tile.savesDone (T : Tile) (l : List OutInst) : Tile :=
  { T with slots := T.slots.map fun x =>
      if l.any fun (o : OutInst) => o.kind / (1024 * 2 ^ x.1) % 2 == 1 then (x.1, { x.2 with saving := false }) else x }

/-- An instruction that completes in a tile cycle leaves its tag's record; losses of earlier cycles are forgotten (R156). -/
def Group.outLose (g : Group) (cyc iid : Nat) : Group :=
  { g with
    out := g.out.filter fun o => o.iid != iid
    lost := (g.lost.filter fun x => decide (cyc ≤ x.1)) ++
      ((g.out.filter fun o => o.iid == iid).map fun o => (cyc, o.tag, o.younger)) }

/-- The issuing tile. -/
def State.T (s : State) : Tile := s.tile s.cur.tile

/-- The issuing group. -/
def State.G (s : State) : Group := s.T.group s.cur.slot

/-- Replace the issuing group. -/
def State.setG (s : State) (g : Group) : State := s.setTile s.cur.tile (s.T.setGroup s.cur.slot g)

/-- Change the issuing group. -/
def State.modG (s : State) (f : Group → Group) : State := s.setG (f s.G)

/-- The team of the issuing group. -/
def State.curTeam (s : State) : Option Team := s.T.team s.G.team

/-- A field. -/
def State.field (s : State) (f : Nat) : Field := (amGet s.fields f).getD {}

/-- Replace a field. -/
def State.setField (s : State) (f : Nat) (x : Field) : State := { s with fields := amSet s.fields f x }

/-- A partition. -/
def State.part (s : State) (tag : Nat) : Option Part := amGet s.parts tag

/-- Replace a partition. -/
def State.setPart (s : State) (tag : Nat) (x : Part) : State := { s with parts := amSet s.parts tag x }

/-- Change a partition that exists. -/
def State.modPart (s : State) (tag : Nat) (f : Part → Part) : State :=
  match s.part tag with
  | some x => s.setPart tag (f x)
  | none => s

/-- Change a context of a partition. -/
def State.modCtx (s : State) (tag ctx : Nat) (f : Ctx → Ctx) : State :=
  s.modPart tag fun P => match amGet P.ctxs ctx with
    | some x => { P with ctxs := amSet P.ctxs ctx (f x) }
    | none => P

/-- A context of a partition. -/
def State.ctx (s : State) (tag ctx : Nat) : Option Ctx := (s.part tag).bind fun P => amGet P.ctxs ctx

/-- Change Keystone. -/
def State.modKs (s : State) (f : Keystone → Keystone) : State := { s with ks := f s.ks }

/-- A queue interface. -/
def State.queue (s : State) (n : Nat) : Option Queue := amGet s.queues n

/-- Replace a queue interface. -/
def State.setQueue (s : State) (n : Nat) (q : Queue) : State := { s with queues := amSet s.queues n q }

/-- Change a queue that exists. -/
def State.modQueue (s : State) (n : Nat) (f : Queue → Queue) : State :=
  match s.queue n with
  | some q => s.setQueue n (f q)
  | none => s

/-- A level-two slice, by field and number. -/
def State.slice (s : State) (f i : Nat) : Slice := (amGet s.slices (f * 64 + i)).getD {}

/-- Replace a slice. -/
def State.setSlice (s : State) (f i : Nat) (x : Slice) : State := { s with slices := amSet s.slices (f * 64 + i) x }

/-- A Jarlet port. -/
def State.jarlet (s : State) (p : Nat) : Jarlet := (amGet s.jarlets p).getD {}

/-- Replace a Jarlet port. -/
def State.setJarlet (s : State) (p : Nat) (x : Jarlet) : State := { s with jarlets := amSet s.jarlets p x }

/-- A host link. -/
def State.link (s : State) (h : Nat) : HostLink := (amGet s.links h).getD {}

/-- Replace a host link. -/
def State.setLink (s : State) (h : Nat) (x : HostLink) : State := { s with links := amSet s.links h x }

/-- Add to a working count of the lifetime records (Table 20.3): class, field and place in the class. -/
def State.tally (s : State) (cls f i n : Nat) : State :=
  let key := cls * 2 ^ 20 + f * 256 + i
  s.modKs fun k => { k with counts := amSet k.counts key (min (2 ^ 32 - 1) ((amGet k.counts key).getD 0 + n)) }

/-- An outstanding memory operation. -/
def State.req (s : State) (r : Nat) : Option Req := amGet s.reqs r

/-- Replace an outstanding memory operation. -/
def State.setReq (s : State) (r : Nat) (x : Req) : State := { s with reqs := amSet s.reqs r x }

/-- Remove an outstanding memory operation. -/
def State.delReq (s : State) (r : Nat) : State := { s with reqs := amDel s.reqs r }

/-- Append internal steps that are due. -/
def State.push (s : State) (l : List Instr) : State := { s with due := s.due ++ l.map fun i => { ev := i } }

/-- Append an internal step that acts at a tile (or field, port, tag) and slot. -/
def State.pushAt (s : State) (tile slot : Nat) (i : Instr) : State :=
  { s with due := s.due ++ [{ tile := tile, slot := slot, ev := i }] }

/-- A step that is not yet possible stays due. -/
def State.again (s : State) (i : Instr) : State := if s.due.any fun d => d.ev == i then s else s.push [i]

/-- A step at a place that is not yet possible stays due. -/
def State.againAt (s : State) (tile slot : Nat) (i : Instr) : State :=
  if s.due.contains { tile := tile, slot := slot, ev := i } then s else s.pushAt tile slot i

/-- Advance the counter of free values. -/
def State.drawn (s : State) : State := { s with free := s.free + 1 }

/-- Take the next identifier. -/
def State.fresh (s : State) : State := { s with nextId := s.nextId + 1 }

/-- Replace plinth memory. -/
def State.setMem (s : State) (m : List Host.Cell) : State := { s with mem := m }

/-- The aligned words that `n` bytes at an address touch enter the record of stored words, as memory now holds them. -/
def State.noteWords (s : State) (pa n : Nat) : State :=
  let words := if n = 0 then [] else (List.range ((pa + n - 1) / 8 - pa / 8 + 1)).map fun i =>
    (pa / 8 + i, BitVec.ofNat 64 (Memory.read s.mem (8 * (pa / 8 + i)) 8))
  { s with writes := words ++ s.writes }

/-- The home slices report stores to the queues whose head packet names wait signals (R50). -/
def State.report (s : State) : State :=
  s.queues.foldl (fun s q => if q.2.head.isSome && q.2.waits != [] then s.again (.waitSignalReread q.1) else s) s

/-- The arbiter looks again at the heads of a partition's queues: a list entry or a record slot may have become free
(R50). -/
def State.wake (s : State) (tag : Nat) : State :=
  s.queues.foldl (fun s q => if q.2.cfg.tag = tag && q.2.head.isSome then s.again (.waitSignalReread q.1) else s) s

/-- Store the low `n` bytes of a number in plinth memory. -/
def State.putMem (s : State) (pa n v : Nat) : State :=
  ((s.setMem (Memory.write s.mem pa n v)).noteWords pa n).report

/-- Store bytes in plinth memory. -/
def State.putBytes (s : State) (pa : Nat) (l : List Byte) : State :=
  ((s.setMem (Memory.putBytes s.mem pa l)).noteWords pa l.length).report

/-- Replace host memory. -/
def State.setHost (s : State) (m : List Host.Cell) : State := { s with host := m }

/-- Enter an answer of Keystone to a management request. -/
def State.result (s : State) (i : Instr) (r : Nat) : State := s.modKs fun k => { k with results := (i, r) :: k.results }

/-! ## Time (R3, R8, R18, R21) -/

/-- Time units of one tile cycle at a clock step: 1/700, 1/525 and 1/350 MHz in units of 1/2,100 ns. -/
def stepUnits (step : Nat) : Nat := if step = 0 then 3000 else if step = 1 then 4000 else 6000

/-- The field of a tile (R8). -/
def fieldOf (t : Nat) : Nat := if t = keystoneTile then 0 else 12 * (t / 120 / 10) + t % 120 / 10

/-- Wafer time in ns (R21). -/
def State.wtime (s : State) : Nat := s.now / 2100

/-- Issue on a tile is halted by a step change of its field, for at most 1 µs (R19). -/
def State.haltedAt (s : State) (t : Nat) : Bool :=
  let F := s.field (fieldOf t)
  F.halted && decide (s.wtime < F.haltAt + 1000)

/-- Tile cycles of a field since module reset. -/
def State.fcycle (s : State) (f : Nat) : Nat :=
  (s.field f).cycBase + (s.now - (s.field f).cycAt) / stepUnits (s.field f).step

/-- Tile cycles of a tile's field. -/
def State.cycle (s : State) (t : Nat) : Nat := s.fcycle (fieldOf t)

/-- The skew of a field now: in skew hold it shrinks by one tick in 16 from the beacon that measured it (R379). -/
def State.skewOf (s : State) (f : Nat) : Int :=
  let F := s.field f
  if F.hold then
    let d : Int := ((s.wtime - F.beacon) / 16 : Nat)
    if 0 ≤ F.skew then max 0 (F.skew - d) else min 0 (F.skew + d)
  else F.skew

/-- WTIME as a field's tiles read it: its skew included (R378). -/
def State.tileTime (s : State) (t : Nat) : Nat := ((s.wtime : Int) + s.skewOf (fieldOf t)).toNat

/-! ## Template values and registers (R25, R42) -/

/-- The value of a register in a template, through its link chain. -/
def Tile.tval (T : Tile) : Nat → Option Nat → Nat → W32
  | 0, _, _ => 0
  | _, none, _ => 0
  | fuel + 1, some sl, i =>
    match amGet T.store sl with
    | none => 0
    | some t => if bit t.link i then T.tval fuel t.parent i else (amGet t.v i).getD 0

/-- A thread's v register: the template's value while it is backed. -/
def Tile.vreg (T : Tile) (L : Lane) (i : Nat) : W32 :=
  if bit L.back i then T.tval 5 L.tmpl i else (amGet L.v i).getD 0

/-- A register by code in lane `l`: v, k or predicate; p0 is true (R158). -/
def Tile.regNow (T : Tile) (g : Group) (l n : Nat) : W32 :=
  if n < 128 then T.vreg (g.lane l) n
  else if n < 160 then (amGet g.k (n - 128)).getD 0
  else if n = 160 then 1
  else if bit (g.lane l).p (n - 160) then 1 else 0

/-- The lane under which a register's hazards are listed: 32 for a k register. -/
def hazLane (l n : Nat) : Nat := if 128 ≤ n && n < 160 then 32 else l

/-- The value before a fixed-latency write that is still inside its latency. -/
def Group.oldVal (g : Group) (cyc l n : Nat) : Option W32 :=
  g.haz.findSome? fun h =>
    if h.ready ≤ cyc then none
    else h.old.findSome? fun x => if x.1 = hazLane l n && x.2.1 = n then some x.2.2 else none

/-- A register as an instruction reads it: inside the latency of an unguarded write, the value before or after it by
a free choice (R169). -/
def State.reg (s : State) (l n : Nat) : W32 :=
  match s.G.oldVal (s.cycle s.cur.tile) l n with
  | some o => if Config.hazardNew (s.free * 65536 + l * 256 + n) then s.T.regNow s.G l n else o
  | none => s.T.regNow s.G l n

/-- `n` registers from a code as one little-endian number (R1). -/
def State.regs (s : State) (l code : Nat) : Nat → Nat
  | 0 => 0
  | n + 1 => (s.reg l code).toNat + 2 ^ 32 * s.regs l (code + 1) n

/-- Write one register of a lane (R25, R42, R160): a v register becomes private, p0 is discarded. -/
def Group.wr (g : Group) (w : Nat × Nat × W32) : Group :=
  if w.2.1 < 128 then
    g.modLane w.1 fun L => { L with v := amPut 0 L.v w.2.1 w.2.2, back := clrBit L.back w.2.1 }
  else if w.2.1 < 160 then { g with k := amPut 0 g.k (w.2.1 - 128) w.2.2 }
  else if w.2.1 = 160 then g
  else g.modLane w.1 fun L => { L with p := if w.2.2 = 0 then clrBit L.p (w.2.1 - 160) else setBit L.p (w.2.1 - 160) }

/-- The writes of a value to `n` registers from a destination, in lane `l`; a k register is listed under lane 32. -/
def spread (l : Nat) (d : Reg) (n v : Nat) : List (Nat × Nat × W32) :=
  (List.range n).map fun j => (hazLane l d.code, d.code + j, BitVec.ofNat 32 (v / 2 ^ (32 * j)))

/-! ## The issuing subset -/

/-- The active lanes of the instruction (R157), ascending. -/
def State.active (s : State) (c : Ctl) : List Nat :=
  (lanesOf s.cur.sub).filter fun l => (s.reg l (160 + c.pred.val) == 1) != c.pn

/-- A live lane that no reconvergence entry holds and no trap stops (R27, R29). -/
def Group.eligible (g : Group) (l : Nat) : Bool :=
  (g.lane l).st == .live && !(g.lane l).trapped && !g.recon.any fun e => bit e.wait l

/-- The innermost entry of a lane (R29). -/
def Group.innermost (g : Group) (l : Nat) : Option Recon := g.recon.find? fun e => bit e.mem l

/-- Place of a lane's innermost entry in the table, newest first: two entries of one address and one member mask are told
apart by it (R29). -/
def Group.innermostAt (g : Group) (l : Nat) : Option Nat := g.recon.findIdx? fun e => bit e.mem l

/-- A live lane stands at the landing that the entry at place `i` names, and that entry is its innermost (R29). -/
def Group.arrivesAt (g : Group) (e : Recon) (i l : Nat) : Bool :=
  (g.lane l).st == .live && (g.lane l).entry && (g.lane l).pc == e.addr && g.innermostAt l == some i

/-- One round of arrivals at reconvergence points and removals of complete entries (R29). -/
def Group.settle1 (g : Group) : Group :=
  let g := { g with recon := g.recon.zipIdx.map fun e =>
    { e.1 with wait := maskOf ((List.range 32).filter fun l => bit e.1.wait l || g.arrivesAt e.1 e.2 l) } }
  let keep := g.recon.filter fun e =>
    !(List.range 32).all fun l => !(bit e.mem l && (g.lane l).st == .live) || bit e.wait l
  if keep.length = g.recon.length then g else { g with recon := keep, bcount := 0 }

/-- Arrivals and removals until none is left (R29): an entry that completes can let its members reach an outer one. -/
def Group.settle (g : Group) : Nat → Group
  | 0 => g
  | n + 1 => g.settle1.settle n

/-- The lanes of a mask pass to the next word of their block, or fall through to the next header (R172). -/
def Group.advance (g : Group) (m : BitVec 32) : Group :=
  (g.modMask m fun L =>
    { L with pc := (L.pc + 8) % 2 ^ 56, left := L.left - 1, entry := decide (L.left ≤ 1), via := .fall, src := 0, relDone := false,
             done := false, wait := .none }).settle 17

/-- The issuing subset passes to the next word. -/
def State.next (s : State) : State := s.modG fun g => g.advance s.cur.sub

/-- The issuing subset waits and its instruction is issued again (WaitUntil, R5). -/
def State.hold (s : State) (w : Wait) : State := s.modG fun g => g.modMask s.cur.sub fun L => { L with wait := w }

/-! ## Traps -/

/-- XSTAT.INH (Table 8.6). -/
def Group.inh (g : Group) : Bool := bit g.xstat 7

/-- A group's level. -/
def State.priv (s : State) : Priv := s.G.priv

/-- Raise a trap of the given lanes at the issuing instruction (R352, R354): the instruction has no effect, the lanes
stop, and the record is delivered by a later step. An ARITH or SW trap of another subset is held while INH is 1 (R194).
In the agent's slot a refusal lets the agent continue, and any other class stops it (R366). -/
def State.raise (s : State) (lanes : BitVec 32) (lane : Nat) (cls : TrapClass) (cause info1 info2 : Nat) : State :=
  let g := s.G
  let refusal := decide (s.cur.slot = 32) && cls == .resource
  let held := (cls == .arith || cls == .sw) && g.inh && !(lanesOf lanes).any fun l => (g.lane l).inh
  let t : Trap := {
    cls := cls, cause := cause, lane := lane, pc := s.cur.pc, word := s.cur.word, info1 := info1, info2 := info2
    lanes := if refusal then 0 else lanes, time := s.wtime, nested := g.inh && !held, held := held }
  let s := s.setG { (if refusal then g else g.modMask lanes fun L => { L with trapped := true, wait := .none }) with
    traps := g.traps ++ [t] }
  let s := if refusal then s.next
    else if s.cur.slot = 32 then
      (s.modTile s.cur.tile fun T => { T with agentStop := true }).push [.partitionReset s.T.tag]
    else s
  s.push [.trapDeliver s.cur.tile s.cur.slot]

/-- Raise a trap of the whole issuing subset, naming no lane. -/
def State.trapAll (s : State) (cls : TrapClass) (cause info1 info2 : Nat) : State :=
  s.raise s.cur.sub 0xFF cls cause info1 info2

/-- Raise a trap of the issuing subset at a lane. -/
def State.trapLane (s : State) (lane : Nat) (cls : TrapClass) (cause info1 info2 : Nat) : State :=
  s.raise s.cur.sub lane cls cause info1 info2

/-- The privilege check of R177 for a required level (1 A, 2 K): `f` runs where it passes. -/
def State.needPriv (s : State) (k : Bool) (f : State → State) : State :=
  let ok := match s.priv with
    | .keystone => true
    | .agent => !k
    | .user => false
  if ok then f s else s.trapAll .priv 1 (if k then 2 else 1) 0

/-- A lane passes a header of which only LEN takes effect: it goes on with the first word of the block that the header
opens, or at the next header where LEN is zero (R192). -/
def Lane.passHeader (L : Lane) (len : Nat) : Lane :=
  if len = 0 then { L with pc := L.pc + 8, entry := true, via := .fall, src := 0, hskip := false }
  else { L with hdr := L.pc, roff := 0, nochk := false, pc := L.pc + 8, entry := false, left := len, via := .fall, src := 0
                hskip := false }

/-- Lanes resume at an address inside the open block of `pc`: the same word, or the word after it. At a header the
word after it is the first word of the block that the header opens; a header that no fetch has reached yet is read when
the lane issues next (R192). -/
def Lane.resume (L : Lane) (skip : Bool) (dest : SkipTo) : Lane :=
  let L := { L with trapped := false, wait := .none, relDone := false, done := L.done && !skip }
  let next : Lane := { L with pc := L.pc + 8, left := L.left - 1, entry := decide (L.left ≤ 1), via := .fall, src := 0, hskip := false }
  if !skip then L
  else match dest with
    | .header n => L.passHeader n
    | .unread => if L.entry then { L with hskip := true } else next
    | .next => next

/-- The first trap of a group that the agent may answer: delivered, and not held (R193, R194). -/
def Group.answerable (g : Group) : Option Trap := g.traps.find? fun t => t.delivered && !t.held && t.lanes != 0

/-- Remove the first answerable trap. -/
def dropTrap : List Trap → List Trap
  | [] => []
  | t :: l => if t.delivered && !t.held && t.lanes != 0 then l else t :: dropTrap l

/-- What a skip at the faulting address resumes at: at a header that was read, the block of its LEN bits; after a fetch
fault, what stands there is not known yet (R192). -/
def Trap.skipTo (t : Trap) : SkipTo :=
  if t.cls == .xlate && t.cause = 6 then .unread
  else if t.cls == .ill && (t.cause = 4 || t.cause = 6) then .header (fld t.word.toNat 48 8)
  else if isHeader t.word && !(t.cls == .ill && t.cause = 5) then .header (fld t.word.toNat 48 8)
  else .next

/-- ERET .retry and .skip (Table 8.4): the trapped subset resumes. -/
def Group.eret (g : Group) (skip : Bool) : Option Group :=
  g.answerable.map fun t =>
    let g := { g with traps := dropTrap g.traps }
    (g.modMask t.lanes fun L => L.resume skip t.skipTo).settle 17

/-- XSTAT.CODE of a trap handed to the user handler (R365). -/
def Trap.code (t : Trap) : Nat :=
  if t.cls == .sw then t.info1 else if t.cls == .arith then (if t.cause = 1 then t.info1 else t.info1 * 256) else 0

/-- The number of a trap class (Table 8.6). -/
def TrapClass.num (c : TrapClass) : Nat := c.ctorIdx + 1

/-- Where a lane stands in its block, for the return from a user handler (R192). -/
def Lane.standing (L : Lane) (dest : SkipTo) : Resume :=
  { left := L.left, hdr := L.hdr, roff := L.roff, entry := L.entry, via := L.via, src := L.src, nochk := L.nochk, skip := dest }

/-- ERET .redir (Table 8.4): XPC and XSTAT record the trap, INH is set, SKIP cleared, and the subset enters the
header at `target`, whose address is not truncated: a landing above 2^56 faults there (R76). -/
def Group.eretRedir (g : Group) (target : Nat) : Option Group :=
  g.answerable.map fun t =>
    let g := { g with
      traps := dropTrap g.traps, xpc := BitVec.ofNat 64 t.pc
      xstat := BitVec.ofNat 32 (t.code * 2 ^ 16 + 128 + t.cls.num)
      sv := (lanesOf t.lanes).head?.map fun l => (g.lane l).standing t.skipTo }
    (g.modMask t.lanes fun L =>
      { L with
        trapped := false, wait := .none, relDone := false, done := false, inh := true, hskip := false
        pc := target, entry := true, via := .handler, src := t.pc }).settle 17

/-- Where a lane that trap.ret resumes at XPC stands: where the redirected subset stood. Where no redirect has set XPC (a
register write of privilege A), the words that are left in the block that holds XPC are a free number (log 88). -/
def Group.resumeAt (g : Group) (free : Nat) : Resume :=
  g.sv.getD { left := 1 + Config.pick free 255 % 255, hdr := g.xpc.toNat % 2 ^ 56, roff := 0, entry := false, via := .fall, src := 0,
              nochk := false, skip := .next }

/-- trap.ret for one lane: the block that holds `xpc` goes on there or at the next word; this is no entry (R192). -/
def Lane.trapRet (L : Lane) (r : Resume) (xpc : Nat) (skip : Bool) : Lane :=
  { L with inh := false, pc := xpc, left := r.left, hdr := r.hdr, roff := r.roff, entry := r.entry, via := r.via, src := r.src,
           nochk := r.nochk, hskip := false }.resume skip r.skip

end Sys2Proof.Machine
end

