-- ==== Sys2Proof/Machine/Flags.lean ====
section
/-! DEFINITION. FPS and ISTAT (R131, R136, R137): sticky flags, their enables, and the ARITH trap. FPS flags are bits
[4:0] with enables at [12:8]; ISTAT flags are bits [1:0] with enables at [9:8]. -/

namespace Sys2Proof.Machine

/-- The writable bits of FPS (Table 6.5). -/
def fpsMask : W32 := 0x1F1F

/-- The writable bits of ISTAT (Table 6.2). -/
def istatMask : W32 := 0x303

/-- FPS flags whose enable bits are set. -/
def Group.fpsTrap (g : Group) (flags : Nat) : Nat := flags % 32 &&& (g.fps.toNat / 256 % 32)

/-- ISTAT flags whose enable bits are set. -/
def Group.istTrap (g : Group) (flags : Nat) : Nat := flags % 4 &&& (g.istat.toNat / 256 % 4)

/-- OR flags into FPS and ISTAT (R137). -/
def Group.orFlags (g : Group) (fps ist : Nat) : Group :=
  { g with fps := g.fps ||| BitVec.ofNat 32 (fps % 32), istat := g.istat ||| BitVec.ofNat 32 (ist % 4) }

/-- Some enable bit of the kind of flags that an instruction can set is 1 (R352). -/
def Group.anyEnable (g : Group) (canF canI : Bool) : Bool :=
  (canF && g.fps.toNat / 256 % 32 != 0) || (canI && g.istat.toNat / 256 % 4 != 0)

/-- The lowest lane of a list whose flags meet an enable; 0xFF on the scalar path, listed as lane 32 (R137, R354). -/
def flagLane (trapped : Nat → Nat) (l : List (Nat × Nat)) : Nat :=
  match l.find? fun x => trapped x.2 != 0 with
  | some x => if x.1 = 32 then 0xFF else x.1
  | none => 0xFF

end Sys2Proof.Machine
end

