-- ==== Sys2Proof/Machine/Translate.lean ====
section
/-! DEFINITION. Addresses: module physical regions (R311), homes (R88), stage-one and stage-two tables (R82 to R85,
R293), TLBs and walks (R86), places (R209), horizons (R113), due times and leases (R98 to R100), counters (R200). -/

namespace Sys2Proof.Machine

/-! ## Module physical addresses (Table 13.1) -/

/-- What a module physical address names. -/
inductive Region where
  | plinth
  | host (tag off : Nat)
  | device (tag off : Nat)
  | peer (tag w off : Nat)
  | reserved
  deriving DecidableEq, Repr

/-- The range of an address (R311). -/
def regionOf (pa : Nat) : Region :=
  if pa < 0x054000000000 then .plinth
  else if pa < 0x400000000000 then .reserved
  else if pa < 0x800000000000 then .host ((pa - 0x400000000000) / 2 ^ 36) (pa % 2 ^ 36)
  else if pa < 0x800080000000 then .device ((pa - 0x800000000000) / 2 ^ 21) (pa % 2 ^ 21)
  else if pa < 0xA00000000000 then .reserved
  else if pa < 0xC00000000000 then
    .peer ((pa - 0xA00000000000) / 2 ^ 35) ((pa - 0xA00000000000) / 2 ^ 31 % 16) (pa % 2 ^ 31)
  else .reserved

/-- Home field and slice of a plinth address (R88). -/
def homeField (pa : Nat) : Nat := bits pa 36 7

/-- Home slice (R88). -/
def homeSlice (pa : Nat) : Nat := bits pa 8 6 ^^^ bits pa 14 6

/-- Module physical base of a grain of a field (R87). -/
def grainBase (f g : Nat) : Nat := f * 2 ^ 36 + g * 2 ^ 28

/-- Where Keystone keeps a partition's level-one table: in grains 0 and 1 of field 0, which it keeps for itself (R293). -/
def levelOneAt (tag : Nat) : Nat := tag * 2 ^ 16

/-- Where Keystone keeps the level-two table that maps a 1 GiB range whose first grain is given. -/
def levelTwoAt (f g : Nat) : Nat := 2 ^ 26 + 4096 * (f * 256 + g)

/-- Where Keystone keeps the level-two tables of a partition's windows: 0 the device window's, 1 to 32 the peer
windows'. -/
def windowTableAt (tag i : Nat) : Nat := 2 ^ 28 + 4096 * (33 * tag + i)

/-! ## Stage two (R293) -/

/-- A stage-two leaf: module physical address, log2 of its size, permissions. -/
structure S2 where
  pa : Nat
  lg : Nat
  r : Bool
  w : Bool
  x : Bool
  aonly : Bool
  deriving DecidableEq, Repr

/-- The leaf that an entry of the given size gives for an address. -/
def s2Leaf (e ppa lg : Nat) : S2 :=
  { pa := bits e 12 36 * 4096 + ppa % 2 ^ lg, lg := lg, r := tbit e 1, w := tbit e 2, x := tbit e 3, aonly := tbit e 5 }

/-- Stage-two lookup of a partition physical address; none where it lies in no leaf. -/
def State.stage2 (s : State) (tag ppa : Nat) : Option S2 :=
  match s.part tag with
  | none => none
  | some P =>
    if 2 ^ 43 ≤ ppa then none
    else
      let e := Memory.read s.mem (P.s2root + 8 * bits ppa 30 13) 8
      if !tbit e 0 then none
      else if tbit e 4 then some (s2Leaf e ppa 30)
      else
        let e2 := Memory.read s.mem (bits e 12 36 * 4096 + 8 * bits ppa 21 9) 8
        if tbit e2 0 && tbit e2 4 then some (s2Leaf e2 ppa 21) else none

/-- The words of plinth memory that a walker reads; no table lies elsewhere. -/
def State.physRead (s : State) (pa n : Nat) : Nat := if regionOf pa = .plinth then Memory.read s.mem pa n else 0

/-! ## Stage one (R83 to R85) -/

/-- Levels of Table 4.2: number, lowest address bit indexed, index bits. -/
def s1Levels : List (Nat × Nat × Nat) := [(0, 48, 8), (1, 39, 9), (2, 30, 9), (3, 21, 9), (4, 16, 5)]

/-- The translation that a stage-one leaf at a level gives, through stage two (R82): it covers the smaller of the page
and the grain. An address in no grain is left with no stage-two permission, so that the leaf is checked first (R85). -/
def State.leafRes (s : State) (tag ctx va lvl sh e : Nat) : WalkRes :=
  let ppa := bits e 8 40 * 256 + va % 2 ^ sh
  match s.stage2 tag ppa with
  | none =>
    .ok { tag := tag, ctx := ctx, va := va, lg := 0, ppa := ppa, pa := 0, w := tbit e 2, x := tbit e 3, user := tbit e 4
          dev := bits e 5 2 == 1, lvl := lvl, r2 := false, w2 := false, x2 := false, aonly := false }
  | some g =>
    let lg := min sh g.lg
    .ok { tag := tag, ctx := ctx, va := va - va % 2 ^ lg, lg := lg, ppa := ppa - va % 2 ^ lg, pa := g.pa - va % 2 ^ lg,
          w := tbit e 2, x := tbit e 3, user := tbit e 4, dev := bits e 5 2 == 1, lvl := lvl,
          r2 := g.r, w2 := g.w, x2 := g.x, aonly := g.aonly }

/-- A walk through the remaining levels from a table's partition physical address. -/
def State.walkFrom (s : State) (tag ctx va : Nat) : List (Nat × Nat × Nat) → Nat → WalkRes
  | [], _ => .one 4
  | (lvl, sh, w) :: rest, tab =>
    let ppa := tab + 8 * bits va sh w
    match s.stage2 tag ppa with
    | none => .two lvl ppa
    | some g =>
      if !g.r then .two lvl ppa
      else
        let e := s.physRead g.pa 8
        if !tbit e 0 || bits e 48 16 != 0 || tbit e 7 || decide (2 ≤ bits e 5 2) then .one lvl
        else if tbit e 1 then
          if lvl < 2 || bits e 8 40 * 256 % 2 ^ sh != 0 then .one lvl else s.leafRes tag ctx va lvl sh e
        else if lvl = 4 then .one lvl
        else s.walkFrom tag ctx va rest (bits e 8 40 * 256)

/-- The whole walk of a virtual address from a stage-one root. -/
def State.walk (s : State) (tag ctx root va : Nat) : WalkRes := s.walkFrom tag ctx va s1Levels root

/-! ## Checks of an access (R84, R85, R293) -/

/-- Code of an access kind (R85). -/
def AccKind.code : AccKind → Nat
  | .read => 0 | .write => 1 | .readWrite => 2 | .execute => 3 | .engRead => 4 | .engWrite => 5

/-- The access reads. -/
def AccKind.reads : AccKind → Bool
  | .read | .readWrite | .engRead => true
  | _ => false

/-- The access writes. -/
def AccKind.writes : AccKind → Bool
  | .write | .readWrite | .engWrite => true
  | _ => false

/-- Outcome of a translation: an entry, a fault (stage two or one, level, INFO2 of Table 16.3), or a miss. -/
inductive Tr where
  | ok (e : TlbEnt)
  | fault (two : Bool) (lvl info2 : Nat)
  | miss
  deriving DecidableEq, Repr

/-- The permissions of an entry for an access at a privilege level. -/
def TlbEnt.check (e : TlbEnt) (va : Nat) (kind : AccKind) (priv : Priv) : Tr :=
  if (priv == .user && !e.user) || (kind.writes && !e.w) || (kind == .execute && !e.x) then
    .fault false e.lvl (e.lvl + 8 * kind.code)
  else if (kind.reads && !e.r2) || (kind.writes && !e.w2) || (kind == .execute && !e.x2) || (e.aonly && priv == .user) then
    .fault true e.lvl (e.ppa + (va - e.va))
  else .ok e

/-- What a walk's answer gives an access. -/
def WalkRes.check (r : WalkRes) (va : Nat) (kind : AccKind) (priv : Priv) : Tr :=
  match r with
  | .ok e => e.check va kind priv
  | .one lvl => .fault false lvl (lvl + 8 * kind.code)
  | .two lvl ppa => .fault true lvl ppa

/-- The module physical address of a virtual address inside an entry. -/
def TlbEnt.phys (e : TlbEnt) (va : Nat) : Nat := e.pa + (va - e.va)

/-- An entry covers an address of a tag and context. -/
def TlbEnt.covers (e : TlbEnt) (tag ctx va : Nat) : Bool :=
  e.tag == tag && e.ctx == ctx && decide (e.va ≤ va) && decide (va < e.va + 2 ^ e.lg)

/-- Translate for a group of a tile: its TLBs, then the answers of its own walks. -/
def State.translate (s : State) (t g va : Nat) (kind : AccKind) : Tr :=
  let T := s.tile t
  let G := T.group g
  match (T.tlb1 ++ T.tlb2).find? fun e => e.covers T.tag T.ctl.ctx va with
  | some e => e.check va kind G.priv
  | none =>
    match G.walkAns.find? fun a => a.1 == va / 65536 with
    | some a => a.2.check va kind G.priv
    | none => .miss

/-- Translation without a TLB under a stage-one root: none on any fault. -/
def State.xlateAt (s : State) (tag ctx root va : Nat) (kind : AccKind) (priv : Priv) : Option Nat :=
  if 2 ^ 56 ≤ va then none
  else match (s.walk tag ctx root va).check va kind priv with
    | .ok e => some (e.phys va)
    | _ => none

/-- Translation without a TLB, as the arbiter and the device use it for a context. -/
def State.xlate (s : State) (tag ctx va : Nat) (kind : AccKind) (priv : Priv) : Option Nat :=
  (s.ctx tag ctx).bind fun c => s.xlateAt tag ctx c.s1root va kind priv

/-! ## Walks (R86) -/

/-- The stage-one root of a group: its launch's, or the one the tile's context runs under (R83). -/
def Tile.rootOf (T : Tile) (g : Nat) : Nat :=
  if g = 32 then T.ctl.s1root else ((T.team (T.group g).team).map (·.root)).getD T.ctl.s1root

/-- Send a miss to the walkers of the tile's field: it merges into a walk of the same tag, context, root and page. -/
def State.startWalk (s : State) (t g va : Nat) (kind : AccKind) : State :=
  let T := s.tile t
  let rq : WalkReq := { tile := t, slot := g, kind := kind, priv := (T.group g).priv }
  let same (w : Walk) := w.field == fieldOf t && w.tag == T.tag && w.gen == T.gen && w.ctx == T.ctl.ctx && w.root == T.rootOf g &&
    w.page == va / 65536
  match s.walks.find? fun x => same x.2 with
  | some (i, w) => if w.req.contains rq then s else { s with walks := amSet s.walks i { w with req := w.req ++ [rq] } }
  | none =>
    let w : Walk := { field := fieldOf t, tag := T.tag, ctx := T.ctl.ctx, root := T.rootOf g, page := va / 65536,
                      gen := T.gen, req := [rq], started := false, noInstall := false }
    ({ s with walks := amSet s.walks s.nextId w }.push [.pageWalk s.nextId]).fresh

/-- Install a translation in a tile's TLBs: 64 and 2,048 entries. -/
def Tile.install (T : Tile) (e : TlbEnt) : Tile :=
  { T with tlb1 := (e :: T.tlb1.filter (· != e)).take 64, tlb2 := (e :: T.tlb2.filter (· != e)).take 2048 }

/-- Enter a stage-two fault in Keystone's fault log (R370). -/
def State.logFault (s : State) (tag ppa : Nat) : State :=
  s.modKs fun k => { k with faults := k.faults ++ [(tag, ppa, s.wtime)] }

/-! ## Places (R209, R287) -/

/-- PlaceOf: the physical tile, or the PLACE cause of Table 16.3. -/
def Tile.placeOf (T : Tile) (lp : Nat) : Except Nat Nat :=
  if 8191 < lp then .error 2
  else
    let e := (amGet T.places lp).getD 0
    if tbit e 15 then .ok (e % 2 ^ 14) else .error 1

/-- Two teams belong to one cluster of one launch of one context (R36). -/
def Team.mate (a b : Team) : Bool := a.seq == b.seq && a.anchor == b.anchor && a.num / (a.cw * a.ch) == b.num / (b.cw * b.ch)

/-- A place lies in the rectangle of a team's cluster, on a logical mesh `lw` places wide (R36, R56). -/
def Team.spans (x : Team) (lw p : Nat) : Bool :=
  decide (x.anchor % lw ≤ p % lw) && decide (p % lw < x.anchor % lw + x.cw) &&
    decide (x.anchor / lw ≤ p / lw) && decide (p / lw < x.anchor / lw + x.ch)

/-- Width of a tile's logical mesh (R287). -/
def State.lwOf (s : State) (t : Nat) : Nat := ((s.part (s.tile t).tag).map (·.lw)).getD 1

/-- The team of a team's cluster on another tile whose active context is the same. -/
def State.mateOn (s : State) (t : Nat) (x : Team) (t2 : Nat) : Option Team :=
  let T := s.tile t
  let U := s.tile t2
  if U.tag = T.tag && U.ctl.ctx = T.ctl.ctx then (U.ctl.teams.find? fun y => x.mate y.2).map (·.2) else none

/-! ## Team clock, due times and leases (R98 to R100) -/

/-- Resident tile cycles of a team since it was built. -/
def State.resident (s : State) (t : Nat) (x : Team) : Nat := x.resBase + (s.cycle t - x.resSince)

/-- CPT in units of 1/256, clamped to 0.25 to 65,535. -/
def State.cpt (s : State) (t : Nat) (x : Team) : Nat :=
  if x.tclk = 0 then 1024
  else
    let c := if 1024 ≤ x.tclk then (s.resident t x - x.ticks.getD 1023 0) * 256 / 1024 else s.resident t x * 256 / x.tclk
    max 64 (min c (65535 * 256))

/-- Tile clock in MHz at a clock step (R18). -/
def stepMHz (step : Nat) : Nat := if step = 0 then 700 else if step = 1 then 525 else 350

/-- DueTime(d). Accesses of the agent's slot belong to no team, and R100 gives CPT for teams alone: they take that of a team with
no ticks yet, 4.0 (log 103). -/
def State.dueTime (s : State) (t : Nat) (x : Option Team) (cap d : Nat) : Nat :=
  let now := s.tileTime t
  if d = 0 then now
  else if d = 15 then now + cap
  else
    let span := if d = 14 then 512 else 2 ^ (d + 2)
    let cpt := match x with
      | some x => s.cpt t x
      | none => 1024
    let den := 256 * stepMHz (s.field (fieldOf t)).step
    now + min ((span * cpt * 1000 + den - 1) / den) (2 ^ 24)

/-- Lease(d): min(DueTime(d), Now() + LEASECAP) (R5). -/
def State.leaseOf (s : State) (t : Nat) (x : Option Team) (cap d : Nat) : Nat :=
  min (s.dueTime t x cap d) (s.tileTime t + cap)

/-- TCLK advances by one for a memory instruction of the team (R98). -/
def State.tick (s : State) : State :=
  match s.curTeam with
  | none => s
  | some x => s.modTile s.cur.tile fun T =>
    T.setTeam { x with tclk := x.tclk + 1, ticks := (s.resident s.cur.tile x :: x.ticks).take 1024 }

/-- WTIME has passed a horizon as a tile sees it: four ticks, and the skew of a field in skew hold (R113, R379). -/
def State.passed (s : State) (t h : Nat) : Bool :=
  let f := s.field (fieldOf t)
  decide (h + 4 + (if f.hold then f.skew.natAbs else 0) ≤ s.tileTime t)

/-- WTIME has passed a horizon at a field. -/
def State.passedF (s : State) (h : Nat) : Bool := decide (h + 4 ≤ s.wtime)

/-! ## Owners (R297) -/

/-- The launch of a context that a sequence number names. -/
def Ctx.launch (c : Ctx) (seq : Nat) : Option Launch := c.launches.find? fun l => l.seq == seq

/-- The owner that a team's requests carry: its launch's, or the context owner. -/
def State.ownerOf (s : State) (t : Nat) (x : Option Team) : Nat :=
  let T := s.tile t
  match s.ctx T.tag T.ctl.ctx with
  | none => 0
  | some c =>
    match x with
    | none => c.owner
    | some x =>
      match c.launch x.seq with
      | some l => l.owner
      | none => c.owner

/-- Charge an owner. -/
def State.charge (s : State) (o : Nat) (f : Owner → Owner) : State :=
  s.modKs fun k => { k with owners := amSet k.owners o (f ((amGet k.owners o).getD {})) }

/-- Payload bytes cross a host link for an owner (R298, R299). -/
def State.chargeHost (s : State) (o n : Nat) : State := s.charge o fun w => { w with hostb := w.hostb + n }

/-- Payload bytes are sent on a Jarlet port for an owner (R298, R299). -/
def State.chargeJar (s : State) (o n : Nat) : State := s.charge o fun w => { w with jarb := w.jarb + n }

/-! ## Counters (R200 to R202) -/

/-- PMSn as it counts in a tile cycle: a change takes effect in the next one (R200). -/
def CtxCtl.pmsIn (c : CtxCtl) (cyc i : Nat) : W32 :=
  match amGet c.pmsOld i with
  | some x => if x.1 = cyc + 1 then x.2 else c.pms.getD i 0
  | none => c.pms.getD i 0

/-- PMCn counts the events of a tile cycle: it was not written in it (R200). -/
def CtxCtl.pmcOpen (c : CtxCtl) (cyc i : Nat) : Bool := amGet c.pmcSet i != some (cyc + 1)

/-- Add `n` events of a tile cycle to every enabled counter of a context slot whose PMS word the selector admits. A count of
2^48 or more has wrapped; COUNTER_OVERFLOW, which is then due, takes it down (R202). -/
def State.countIn (s : State) (t slot cyc : Nat) (sel : W32 → Bool) (n : Nat) : State :=
  let c := ((s.tile t).slot slot).ctl
  let hit (i : Nat) : Bool := let w := c.pmsIn cyc i; bit w 13 && sel w && n != 0 && c.pmcOpen cyc i
  let pmc := (List.range 4).map fun i => if hit i then c.pmc.getD i 0 + n else c.pmc.getD i 0
  let wraps := (List.range 4).filter fun i => hit i && decide (2 ^ 48 ≤ pmc.getD i 0)
  (s.modTile t fun T => T.setSlot slot { T.slot slot with ctl := { c with pmc := pmc } }).push
    (wraps.map fun i => .counterOverflow t slot i)

/-- Add `n` events of the present tile cycle. -/
def State.countBy (s : State) (t slot : Nat) (sel : W32 → Bool) (n : Nat) : State := s.countIn t slot (s.cycle t) sel n

/-- The PMS word selects an event code. -/
def pmsIs (ev : Nat) (w : W32) : Bool := w.toNat % 256 == ev

/-- Count events of the active context of a tile. -/
def State.count (s : State) (t ev n : Nat) : State := if n = 0 then s else s.countBy t (s.tile t).act (pmsIs ev) n

/-- Count events of `n` tile cycles of the active context, each once, from a tile cycle on (R200, R201). -/
def State.countFrom (s : State) (t ev cyc n : Nat) : State :=
  let a := (s.tile t).act
  let s := if n = 0 then s else s.countIn t a cyc (pmsIs ev) 1
  if n ≤ 1 then s else s.countIn t a (cyc + 1) (pmsIs ev) (n - 1)

/-- Count events of the issuing group: privilege U only (R200). -/
def State.countU (s : State) (ev n : Nat) : State := if s.priv = .user then s.count s.cur.tile ev n else s

end Sys2Proof.Machine
end

