-- ==== Sys2Proof/Machine/Device.lean ====
section
/-! DEFINITION. The partition device window (R312, Table 13.12), context blocks (R321), home status entries (R247),
error stores (R356), writes that the device makes to memory, event rings (R322) and interrupt vectors (R313). -/

namespace Sys2Proof.Machine

/-! ## Context blocks (R321) -/

/-- The 64 bytes of a context block as a number. -/
def Ctx.block (c : Ctx) : Nat :=
  c.evbase % 2 ^ 64
    + ((if c.irqen then 2 ^ 31 else 0) + c.vec % 2 ^ 11 * 2 ^ 16 + c.logsz % 32) * 2 ^ 64
    + c.evprod % 2 ^ 32 * 2 ^ 96 + c.evcons % 2 ^ 32 * 2 ^ 128 + c.evlost % 2 ^ 32 * 2 ^ 160
    + c.larea % 2 ^ 64 * 2 ^ 192 + c.sarea % 2 ^ 64 * 2 ^ 256
    + ((if c.pvalid then 2 ^ 31 else 0) + c.pasid % 2 ^ 20) * 2 ^ 320

/-- A block's writable fields take the values of a 64-byte number; the host-set ones only where `hostOk`. LOGSZ keeps
its value unless the new one is 4 to 16. -/
def Ctx.setBlock (c : Ctx) (v : Nat) (hostOk : Bool) : Ctx :=
  let l := bits v 64 5
  let c := { c with
    evbase := bits v 0 64, irqen := tbit v 95, vec := bits v 80 11
    logsz := if 4 ≤ l && l ≤ 16 then l else c.logsz, evcons := bits v 128 32 }
  if hostOk then { c with larea := bits v 192 64, sarea := bits v 256 64, pvalid := tbit v 351, pasid := bits v 320 20 }
  else c

/-- A write of `size` bytes at an offset of the block. -/
def Ctx.writeBlock (c : Ctx) (off size v : Nat) (hostOk : Bool) : Ctx :=
  c.setBlock (putBits c.block (8 * off) (8 * size) v) hostOk

/-! ## The device window (Table 13.12) -/

/-- The ranges of the window that Table 13.12 gives to A and K only. -/
def devShut : List (Nat × Nat) := [(0x10000, 0x20000), (0x30000, 0x30080), (0x40000, 0x80000)]

/-- The first offset of an extent that the window keeps from a privilege level (R312). -/
def devBar (off n : Nat) (priv : Priv) : Option Nat :=
  if priv != .user then none
  else (devShut.find? fun r => decide (r.1 < off + n) && decide (off < r.2)).map fun r => max off r.1

/-- The window admits an access at a privilege level (R312). -/
def devAllowed (off : Nat) (priv : Priv) : Bool := (devBar off 1 priv).isNone

/-- Header of an error store: PROD, CONS, ADROP (R356). -/
def Ctx.errHeader (c : Ctx) : Nat := c.eprod % 2 ^ 32 + c.econs % 2 ^ 32 * 2 ^ 32 + c.adrop % 2 ^ 32 * 2 ^ 64

/-- One byte of a partition's device window. Doorbells, abort ports and reserved ranges read zero. -/
def State.devByte (s : State) (tag off : Nat) : Nat :=
  if 0x10000 ≤ off && off < 0x20000 then
    let f := (off - 0x10000) / 4
    if f < 84 then bits ((amGet (s.field f).status tag).getD 0) (8 * (off % 4)) 8 else 0
  else if 0x20000 ≤ off && off < 0x20400 then
    match s.ctx tag ((off - 0x20000) / 64) with
    | some c => bits c.block (8 * (off % 64)) 8
    | none => 0
  else if 0x40000 ≤ off && off < 0x80000 then
    match s.ctx tag ((off - 0x40000) / 0x4000) with
    | some c =>
      let r := off % 0x4000
      if r < 64 then bits c.errHeader (8 * r) 8 else bits ((amGet c.erecs (r / 64)).getD 0).toNat (8 * (r % 64)) 8
    | none => 0
  else 0

/-- A load of `n` bytes from the device window. -/
def State.devRead (s : State) (tag off : Nat) : Nat → Nat
  | 0 => 0
  | n + 1 => s.devByte tag off + 256 * s.devRead tag (off + 1) n

/-- Clear bits of home status entries written as ones (R247). -/
def State.clearStatus (s : State) (tag f v : Nat) : State :=
  if f < 84 then
    let F := s.field f
    let old := (amGet F.status tag).getD 0
    s.setField f { F with status := amPut 0 F.status tag (old &&& (31 - v % 32)) }
  else s

/-- The interfaces of a context that are locked or running: its block is a locked item of each (R325). -/
def State.locksOn (s : State) (tag ctx : Nat) : AMap Queue :=
  s.queues.filter fun q => q.2.cfg.tag == tag && q.2.cfg.ctx == ctx && (q.2.state == .locked || q.2.state == .run)

/-- A store through the device window to a context block. At privilege U the host-set fields do not change (R312); at A or K a
write to them while an interface of the context is locked or running is one to a locked item (R321, R325, R416). -/
def State.blockStore (s : State) (tag ctx off n v : Nat) (priv : Priv) : State :=
  match if priv != .user && off < 0x2C && 0x18 < off + n then s.locksOn tag ctx else [] with
  | [] => s.modCtx tag ctx fun c => c.writeBlock off n v (priv != .user)
  | q :: _ => (s.modCtx tag ctx fun c => c.writeBlock off n v false).push [.lockedItemWrite q.1 (0x20000 + 64 * ctx + off) 0]

/-- A store of `n` bytes to the device window at a privilege level. -/
def State.devWrite (s : State) (tag off n v : Nat) (priv : Priv) : State :=
  if off < 0x10000 then
    (List.range ((n + 7) / 8 + 1)).foldl (fun s i =>
      let q := off / 8 + i
      if q < 64 && off ≤ 8 * q && 8 * q + 4 ≤ off + n then s.push [.doorbell tag q (bits v (8 * (8 * q - off)) 32) true] else s) s
  else if off < 0x20000 then
    (List.range ((n + 3) / 4)).foldl (fun s i =>
      s.clearStatus tag ((off - 0x10000) / 4 + i) (bits v (32 * i) 32 * 2 ^ (8 * (off % 4)) % 2 ^ 32)) s
  else if off < 0x20400 then
    s.blockStore tag ((off - 0x20000) / 64) (off % 64) n v priv
  else if 0x30000 ≤ off && off < 0x30080 then
    if off % 8 ≠ 0 then s
    else (List.range (n / 8)).foldl (fun s i => s.push [.abortPortWrite tag ((off - 0x30000) / 8 + i) (bits v (64 * i) 64)]) s
  else if 0x40000 ≤ off && off < 0x80000 then
    if off % 0x4000 < 64 then
      s.modCtx tag ((off - 0x40000) / 0x4000) fun c =>
        { c with econs := bits (putBits c.errHeader (8 * (off % 64)) (8 * n) v) 32 32 }
    else s
  else s

/-! ## Device accesses to memory -/

/-- Key of a host address that the function of a partition reaches under a context's PASID, or in its own I/O address space
(R312). -/
def hostKey (tag : Nat) (c : Option Ctx) (a : Nat) : Nat :=
  match c with
  | some c => if c.pvalid then a + 2 ^ 64 * (1 + c.pasid) + 2 ^ 96 * tag else a + 2 ^ 96 * tag
  | none => a + 2 ^ 96 * tag

/-- What another module answers to a device read through a peer window: bytes that the spec leaves open (R334). -/
def State.peerBytes (s : State) (pa n : Nat) : Nat := Config.derive 30 [s.wtime, s.free, pa, n] % 2 ^ (8 * n)

/-- What another module answers to a device access through a peer window: 0 it is accepted, 1 refused, 2 its target has moved
(R334, R425). -/
def State.peerVerdict (s : State) (pa : Nat) : Nat := Config.derive 31 [s.wtime, s.free, pa] % 3

/-- Another module refuses a device access through a peer window (R334). -/
def State.peerRefuses (s : State) (pa : Nat) : Bool := s.peerVerdict pa != 0

/-- The device reads `n` bytes at a module physical address on behalf of a context, at privilege A. -/
def State.devMemRead (s : State) (c : Option Ctx) (pa n : Nat) : Nat :=
  match regionOf pa with
  | .plinth => Memory.read s.mem pa n
  | .host t off => Memory.read s.host (hostKey t c off) n
  | .device t off => s.devRead t off n
  | .peer _ _ _ => s.peerBytes pa n
  | .reserved => 0

/-- The device writes `n` bytes at a module physical address on behalf of a context, at privilege A. What goes out through a
peer window leaves nothing in this module. -/
def State.devMemWrite (s : State) (c : Option Ctx) (pa n v : Nat) : State :=
  match regionOf pa with
  | .plinth => s.putMem pa n v
  | .host t off => s.setHost (Memory.write s.host (hostKey t c off) n v)
  | .device t off => s.devWrite t off n v .agent
  | .peer _ _ _ | .reserved => s

/-- The device reads partition virtual memory of a context; none where it does not translate. -/
def State.virtRead (s : State) (tag ctx va n : Nat) (priv : Priv) : Option Nat :=
  (s.xlate tag ctx va .read priv).map fun pa => s.devMemRead (s.ctx tag ctx) pa n

/-- The device writes partition virtual memory of a context; nothing where it does not translate. -/
def State.virtWrite (s : State) (tag ctx va n v : Nat) (priv : Priv) : State :=
  match s.xlate tag ctx va .write priv with
  | some pa => s.devMemWrite (s.ctx tag ctx) pa n v
  | none => s

/-! ## Guest time, vectors and event rings -/

/-- Guest time of a partition where the wafer time reads so: that plus its offset, and the time at which a pause began while it
lasts (R335). -/
def State.gtimeAt (s : State) (tag now : Nat) : Nat :=
  match s.part tag with
  | some P => (match P.paused with
    | some (_, g0) => wrap 64 g0
    | none => wrap 64 ((now : Int) + P.goff))
  | none => now

/-- Guest time of a partition by the wafer time. -/
def State.gtime (s : State) (tag : Nat) : Nat := s.gtimeAt tag s.wtime

/-- An entry of the MSI-X table: 16 bytes as a number. The spec gives the table its size and its place; the layout of an entry,
with its mask in bit 96, is PCI's (log 106). -/
def Part.msixEntry (P : Part) (i : Nat) : Nat := (amGet P.msixTab i).getD 0

/-- The Table Size that Keystone reports in the function's MSI-X capability, which PCI encodes as one less (R313, log 106). -/
def Part.tableSize (P : Part) : Nat := P.msix - 1

/-- Raise a vector of a partition's function; one at or beyond the table raises none (R313, R321), and a masked one leaves its
pending bit set (log 106). -/
def State.raiseVector (s : State) (tag vec : Nat) : State :=
  match s.part tag with
  | some P =>
    if P.msix ≤ vec then s
    else if tbit (P.msixEntry vec) 96 then
      s.modPart tag fun P => { P with msixPend := if P.msixPend.contains vec then P.msixPend else P.msixPend ++ [vec] }
    else
      let L := s.link P.link
      s.setLink P.link { L with msix := L.msix ++ [(tag, vec)] }
  | none => s

/-- One byte that the host reads through BAR0 of a partition's function: the doorbell page and every reserved offset read zero
(R313, R315). -/
def State.bar0Byte (s : State) (tag off : Nat) : Nat :=
  match s.part tag with
  | none => 0
  | some P =>
    if 0x20000 ≤ off && off < 0x20400 then s.devByte tag off
    else if 0x30000 ≤ off && off < 0x30000 + 16 * P.msix then bits (P.msixEntry ((off - 0x30000) / 16)) (8 * (off % 16)) 8
    else if 0x38000 ≤ off && off < 0x38000 + (P.msix + 7) / 8 then
      ((List.range 8).filter fun b => P.msixPend.contains (8 * (off - 0x38000) + b)).foldl (fun a b => a + 2 ^ b) 0
    else 0

/-- Clear the mask of a pending vector: it is sent. -/
def State.sendPending (s : State) (tag vec : Nat) : State :=
  match s.part tag with
  | none => s
  | some P =>
    if P.msixPend.contains vec && !tbit (P.msixEntry vec) 96 then
      (s.modPart tag fun P => { P with msixPend := P.msixPend.filter (· != vec) }).raiseVector tag vec
    else s

/-- MSI-X entries that an interface locks (R325): those that its context names, and the one that its packet at the head names. -/
def State.lockedVecs (s : State) (q : Queue) : List Nat :=
  ((s.ctx q.cfg.tag q.cfg.ctx).map (·.vec)).toList ++ (q.head.map fun h => bits (sliceNum h 0 8) 16 11).toList ++ q.vecPend.toList

/-- The host writes 4 or 8 bytes of the MSI-X table through BAR0. An entry that a locked or running interface locks does not
change, and the write is one to a locked item (R313, R325, R416). -/
def State.msixWrite (s : State) (tag off n v : Nat) : State :=
  match s.part tag with
  | none => s
  | some P =>
    let i := (off - 0x30000) / 16
    if off < 0x30000 || P.msix ≤ i then s
    else match s.queues.find? fun q =>
        q.2.cfg.tag == tag && (q.2.state == .locked || q.2.state == .run) && (s.lockedVecs q.2).contains i with
      | some q => s.push [.lockedItemWrite q.1 off 0]
      | none =>
        (s.modPart tag fun P => { P with msixTab := amPut 0 P.msixTab i (putBits (P.msixEntry i) (8 * (off % 16)) (8 * n) v) }).sendPending
          tag i

/-- The host writes through BAR0 with the T bit or without it: doorbells, context blocks and MSI-X entries; a write of any other
offset is ignored (R313, R315, R321). -/
def State.bar0Write (s : State) (tag off n v : Nat) (tb : Bool) : State :=
  if off < 0x10000 then (if off % 8 = 0 && off < 512 then s.push [.doorbell tag (off / 8) (v % 2 ^ 32) tb] else s)
  else if 0x20000 ≤ off && off < 0x20400 then
    s.push [.contextBlockWrite tag ((off - 0x20000) / 64) (off % 64) v n false tb]
  else s.msixWrite tag off n v

/-- IMOD in ns: at most 1,000 µs (Table 13.2). -/
def Queue.imodNs (q : Queue) : Nat := 1000 * min q.imod 1000

/-- A packet of a queue with IRQ raises its vector under GFLAGS.IRQEN; inside the moderation interval it is collected into
the next vector (R317, R323). A queue in ERROR raises none (R417). -/
def State.queueVector (s : State) (ifn vec : Nat) : State :=
  match s.queue ifn with
  | none => s
  | some q =>
    if q.state == .error || !q.irqen then s
    else if (match q.vecAt with
      | some t => decide (s.wtime < t + q.imodNs)
      | none => false) then
      (s.setQueue ifn { q with vecPend := some vec }).againAt ifn 0 .interruptModerationExpire
    else (s.setQueue ifn { q with vecAt := some s.wtime }).raiseVector q.cfg.tag vec

/-- What an event record holds beside its context and time (Table 13.7). -/
structure EvRec where
  kind : Nat
  gslot : Nat := 0
  place : Nat := 0
  n : Nat := 0
  value : Nat := 0
  info : Nat := 0
  deriving DecidableEq, Repr

/-- The 32 bytes of an event record. -/
def EvRec.bytes (e : EvRec) (ctx gtime : Nat) : Nat :=
  e.kind % 256 + ctx % 256 * 2 ^ 8 + e.gslot % 256 * 2 ^ 16 + e.place % 2 ^ 32 * 2 ^ 32 + e.n % 2 ^ 32 * 2 ^ 64
    + e.value % 2 ^ 32 * 2 ^ 96 + gtime % 2 ^ 64 * 2 ^ 128 + e.info % 2 ^ 64 * 2 ^ 192

/-- The ring of a context is full (R322). -/
def Ctx.ringFull (c : Ctx) : Bool := (c.evprod + 2 ^ 32 - c.evcons) % 2 ^ 32 == 2 ^ c.logsz

/-- Post an event record: written and EVPROD advanced, or dropped with EVLOST where the ring is full or its slot cannot
be written; nothing without a ring (R322). A slot in a device or peer window counts as one that cannot be written (log 107). -/
def State.post (s : State) (tag ctx : Nat) (e : EvRec) : State :=
  match s.ctx tag ctx with
  | none => s
  | some c =>
    let lost := s.modCtx tag ctx fun c => { c with evlost := (c.evlost + 1) % 2 ^ 32 }
    if c.evbase = 0 then s
    else if c.ringFull then lost
    else match s.xlate tag ctx (c.evbase + 32 * (c.evprod % 2 ^ c.logsz)) .write .agent with
      | none => lost
      | some pa =>
        let held := match regionOf pa with
          | .plinth | .host _ _ => true
          | _ => false
        if !held then lost else
        let s := s.devMemWrite (some c) pa 32 (e.bytes ctx (s.gtime tag))
        let s := s.modCtx tag ctx fun c => { c with evprod := (c.evprod + 1) % 2 ^ 32 }
        if c.irqen then s.raiseVector tag c.vec else s

/-- The Invalidation Completion of a page is sent, once no interface of the function under the PASID drains it any more (R419). -/
def State.invalDone (s : State) (tag pasid page : Nat) : State :=
  if s.queues.any fun q => q.2.cfg.tag == tag && q.2.cfg.pasid == pasid && q.2.drain.any (·.1 == page) then s
  else
    let link := ((s.part tag).map (·.link)).getD 0
    let L := s.link link
    s.setLink link { L with inval := (tag, pasid, page) :: L.inval }

/-- Post a record to every context of a partition. -/
def State.postAll (s : State) (tag : Nat) (e : EvRec) : State :=
  match s.part tag with
  | some P => P.ctxs.foldl (fun s x => s.post tag x.1 e) s
  | none => s

end Sys2Proof.Machine
end

