-- ==== Sys2Proof/Machine/Cache.lean ====
section
/-! DEFINITION. The level-one cache (R92, R93) and the home slices (R94 to R96, R101 to R105): lookups, declarations,
victims, quotas, accuracy, lease horizons, poison. -/

namespace Sys2Proof.Machine

/-! ## Declarations and victims (R101 to R103) -/

/-- A line with this due time and declared distance is past its grace: one quarter of the distance (R102). -/
def pastGrace (now due dist : Nat) : Bool := decide (4 * due + dist < 4 * now)

/-- A candidate for eviction: its line, class of Table 4.8, rank within the class (the greatest goes) and fill time. -/
structure Cand where
  line : Nat
  cls : Nat
  rank : Int
  fill : Nat
  deriving DecidableEq, Repr

/-- `a` is taken before `b` (R103): lower class, then rank, then the older fill. -/
def Cand.before (a b : Cand) : Bool :=
  decide (a.cls < b.cls) || (a.cls == b.cls && (decide (b.rank < a.rank) || (a.rank == b.rank && decide (a.fill < b.fill))))

/-- The victim among candidates. -/
def victim : List Cand → Option Cand
  | [] => none
  | c :: l => match victim l with
    | none => some c
    | some d => if d.before c then some d else some c

/-- Rank in a class: the latest due time, but the earliest end of grace among stale lines. -/
def rankOf (cls due dist : Nat) : Int := if cls = 3 then -((4 * due + dist : Nat) : Int) else due

/-! ## The level-one cache -/

/-- Sets of the L1 under the pool word: 128, 256 or 512 KiB of 8 ways of 128 bytes (R92, Table 4.4). -/
def l1Sets (pool : BitVec 16) : Nat := 128 * 2 ^ bits pool.toNat 8 2

/-- Set of a line; which one is not architected. -/
def l1Set (pool : BitVec 16) (line : Nat) : Nat := Config.setOf (l1Sets pool) line % l1Sets pool

/-- The valid copy of a line: valid while Now() < lease. -/
def Tile.l1Find (T : Tile) (now line : Nat) : Option L1Line := T.l1.find? fun x => x.line == line && decide (now < x.lease)

/-- Invalidate a line. -/
def Tile.l1Drop (T : Tile) (line : Nat) : Tile := { T with l1 := T.l1.filter fun x => x.line != line }

/-- Redeclare a line under `d` with its due time (R101). -/
def L1Line.declare (x : L1Line) (now d due : Nat) : L1Line := { x with due := due, dist := due - now, held := d == 15 }

/-- Change a line that is present. -/
def Tile.l1Mod (T : Tile) (line : Nat) (f : L1Line → L1Line) : Tile :=
  { T with l1 := T.l1.map fun x => if x.line = line then f x else x }

/-- Class of an L1 line (Table 4.8): class 1 holds the lines whose lease has expired. -/
def L1Line.cls (x : L1Line) (now : Nat) : Nat :=
  if x.lease ≤ now then 1
  else if x.held && decide (now ≤ x.due) then 5
  else if pastGrace now x.due x.dist then 3
  else 4

/-- Put a line into the L1: the full set loses its victim (R103). -/
def Tile.l1Put (T : Tile) (now : Nat) (x : L1Line) : Tile :=
  let T := T.l1Drop x.line
  let pool := T.ctl.pool
  let set := T.l1.filter fun y => l1Set pool y.line == l1Set pool x.line
  let T := if set.length < 8 then T
    else match victim (set.map fun y => { line := y.line, cls := y.cls now, rank := rankOf (y.cls now) y.due y.dist,
                                          fill := y.fill }) with
      | some c => T.l1Drop c.line
      | none => T
  { T with l1 := x :: T.l1 }

/-- A number's low bytes over the bytes of a list at an offset. -/
def overlay (l : List Byte) (off n v : Nat) : List Byte :=
  (List.range l.length).map fun i =>
    if off ≤ i && i < off + n then BitVec.ofNat 8 (v / 256 ^ (i - off)) else l.getD i 0

/-! ## Slices -/

/-- WTIME at a field's spine; a slice's own clock moves a completion time only later (R379). -/
def State.fieldTime (s : State) (f : Nat) : Nat := max s.wtime ((s.wtime : Int) + s.skewOf f).toNat

/-- Set of a line in a slice: 512 sets of 16 ways (R94); which one is not architected (R88). -/
def l2Set (f i line : Nat) : Nat := Config.setOf (65536 + f * 64 + i) line % 512

/-- A slice's line is stale (R102). -/
def L2Line.stale (x : L2Line) (now : Nat) : Bool := x.stream || pastGrace now x.due x.dist

/-- A line is held: declared under 15 and not past its due time (R102). -/
def L2Line.isHeld (x : L2Line) (now : Nat) : Bool := x.held && decide (now ≤ x.due)

/-- Sectors allocated in a line. -/
def L2Line.sectors (x : L2Line) : Nat := (if x.sec0 then 1 else 0) + (if x.sec1 then 1 else 0)

/-- Resident bytes of a tag in a slice (R104). -/
def Slice.resident (S : Slice) (tag : Nat) : Nat :=
  S.lines.foldl (fun a x => if x.tag = tag then a + 128 * x.sectors else a) 0

/-- Weight of a partition: the sum of its owners' weights (R296). -/
def State.weight (s : State) (P : Part) : Nat :=
  P.owners.foldl (fun a o => a + ((amGet s.ks.owners o).getD {}).weight) 0

/-- Quota of a tag in each slice of a field, in bytes (R296). -/
def State.quota (s : State) (f tag : Nat) : Nat :=
  let ps := s.parts.filter fun p => p.2.grains.any fun g => g.1 == f
  let sum := ps.foldl (fun a p => a + s.weight p.2) 0
  match ps.find? fun p => p.1 == tag with
  | some p => if sum = 0 then 0 else 2 ^ 21 * s.weight p.2 / sum / 128 * 128
  | none => 0

/-- A tag is over its quota in a slice (R104). -/
def State.overQuota (s : State) (f : Nat) (S : Slice) (tag : Nat) : Bool := decide (s.quota f tag < S.resident tag)

/-- Class of a slice's line (Table 4.8). -/
def State.l2Cls (s : State) (f : Nat) (S : Slice) (now : Nat) (x : L2Line) : Nat :=
  if s.overQuota f S x.tag then 2
  else if x.isHeld now then 5
  else if x.stale now then 3
  else 4

/-- Accuracy counter A of a tag. -/
def Slice.accOf (S : Slice) (tag : Nat) : Nat := (amGet S.acc tag).getD 255

/-- Set A, between 0 and 255. -/
def Slice.setAcc (S : Slice) (tag v : Nat) : Slice := { S with acc := amPut 255 S.acc tag (min v 255) }

/-- Lines that have become stale take 8 from A, each once (R105). -/
def Slice.settleStale (S : Slice) (now : Nat) : Slice :=
  let fresh := S.lines.filter fun x => x.stale now && !x.counted
  let S := fresh.foldl (fun S x => S.setAcc x.tag (S.accOf x.tag - 8)) S
  { S with lines := S.lines.map fun x => if x.stale now then { x with counted := true } else x }

/-- LeaseHorizon of a line: its own, which its fill has set to the evicted horizon of its set, or that of the set where the line
is not resident (R96). -/
def Slice.horizon (S : Slice) (f i now line : Nat) : Nat :=
  let ev := (amGet S.evict (l2Set f i line)).getD 0
  if S.lines.any fun x => x.line == line then (amGet S.hor line).getD 0 else if ev ≤ now then 0 else ev

/-- The partition's due time under its discount (R105). -/
def discounted (k now due : Nat) : Nat :=
  if k = 0 then due else ((now : Int) + min (((due : Int) - now) * 2 ^ k) (2 ^ 24)).toNat

/-- Evict a line: write back its dirty sectors at the cost of their owners, and fold its horizon (R94, R96, R299). -/
def State.l2Evict (s : State) (f i now : Nat) (x : L2Line) : State :=
  let S := s.slice f i
  let h := (amGet S.hor x.line).getD 0
  let ev := (amGet S.evict x.set).getD 0
  let s := s.setSlice f i { S with
    lines := S.lines.filter fun y => y.line != x.line
    hor := amDel S.hor x.line
    evict := if now < h then amPut 0 S.evict x.set (max h ev) else S.evict }
  let bill (s : State) (d : Option Nat) : State := match d with
    | some o => s.charge o fun w => { w with dramb := w.dramb + 128 }
    | none => s
  bill (bill s x.dirty0) x.dirty1

/-- An access of a tag to the sector of `pa` at its home: redeclaration of a resident line, else allocation by R103
and R104. `alloc` is false for a volatile access or one through a device page, which is performed without allocating (R94); where
its line is resident it leaves the line's declaration as it is, of which R101 does not speak (log 104). The declaration time and
the declared distance are counted from the arrival at the slice (R101 names no moment, log 104). `own` is the owner of the
request; `wr` dirties the sector. Answers whether the sector was held. -/
def State.l2Touch (s : State) (tag own pa d due : Nat) (alloc wr : Bool) : State × Bool :=
  let f := homeField pa
  let i := homeSlice pa
  let now := s.fieldTime f
  let line := pa / 256
  let hi := tbit pa 7
  let S := (s.slice f i).settleStale now
  let s := s.setSlice f i S
  let k := (amGet S.disc tag).getD 0
  let due := discounted k now due
  let dirty (x : L2Line) : L2Line :=
    if !wr then x
    else if hi then { x with dirty1 := some (x.dirty1.getD own) } else { x with dirty0 := some (x.dirty0.getD own) }
  let fillCost (s : State) : State := s.charge own fun w => { w with dramb := w.dramb + 128 }
  if !alloc then
    match S.lines.find? fun x => x.line == line with
    | some x =>
      let has := if hi then x.sec1 else x.sec0
      if has then (s.setSlice f i { S with lines := S.lines.map fun y => if y.line = line then dirty y else y }, true)
      else (fillCost s, false)
    | none => (fillCost s, false)
  else match S.lines.find? fun x => x.line == line with
  | some x =>
    let has := if hi then x.sec1 else x.sec0
    let S := if x.stale now then S else S.setAcc tag (S.accOf tag + 1)
    let y : L2Line := dirty { x with
      due := due, dist := due - now, decl := now, held := d == 15 && k == 0, stream := false, counted := false
      sec0 := x.sec0 || !hi, sec1 := x.sec1 || hi }
    let s := s.setSlice f i { S with lines := S.lines.map fun z => if z.line = line then y else z }
    (if has then s else fillCost s, has)
  | none =>
    let set := l2Set f i line
    let mine := S.lines.filter fun x => x.set == set
    let own2 := s.overQuota f S tag
    let cands := (mine.map fun (x : L2Line) => (⟨x.line, s.l2Cls f S now x, rankOf (s.l2Cls f S now x) x.due x.dist, x.fill⟩ : Cand)).filter
      fun c => !own2 || c.cls == 2
    let room := decide (mine.length < 16)
    let s := fillCost s
    let v : Option Cand := if room then none else victim cands
    if !room && v.isNone then (s, false)
    else
      let s : State := match v with
        | some c => match S.lines.find? fun x => x.line == c.line with
          | some x => s.l2Evict f i now x
          | none => s
        | none => s
      let S := s.slice f i
      let ev := (amGet S.evict set).getD 0
      let y : L2Line := dirty {
        line := line, set := set, tag := tag, due := due, dist := due - now, decl := now, fill := now
        held := d == 15 && k == 0, sec0 := !hi, sec1 := hi, dirty0 := none, dirty1 := none
        stream := d == 0, counted := false }
      (s.setSlice f i { S with lines := y :: S.lines, hor := if now < ev then amPut 0 S.hor line ev else S.hor }, false)

/-- Enter a lease in a line's horizon (R111); where the line is not resident, in its set's evicted horizon. -/
def State.grantLease (s : State) (pa lease : Nat) : State :=
  let f := homeField pa
  let i := homeSlice pa
  let S := s.slice f i
  let line := pa / 256
  if S.lines.any fun x => x.line == line then
    s.setSlice f i { S with hor := amPut 0 S.hor line (max lease ((amGet S.hor line).getD 0)) }
  else
    let st := l2Set f i line
    s.setSlice f i { S with evict := amPut 0 S.evict st (max lease ((amGet S.evict st).getD 0)) }

/-- Write completion time of a store at its home (R112). -/
def State.complTime (s : State) (pa : Nat) : Nat :=
  let f := homeField pa
  let now := s.fieldTime f
  max now ((s.slice f (homeSlice pa)).horizon f (homeSlice pa) now (pa / 256))

/-- The sector of an address is held in its slice. -/
def State.l2Has (s : State) (pa : Nat) : Bool :=
  (s.slice (homeField pa) (homeSlice pa)).lines.any fun x => x.line == pa / 256 && (if tbit pa 7 then x.sec1 else x.sec0)

/-! ## The pool (R70, R89, R90) -/

/-- v registers per thread under a pool word. -/
def poolNv (p : BitVec 16) : Nat := [32, 48, 64, 96, 128].getD (bits p.toNat 0 3) 128

/-- Every code of the word is listed in Table 4.4. -/
def poolValid (p : Nat) : Bool :=
  bits p 0 3 ≤ 4 && !tbit p 3 && bits p 4 3 ≤ 4 && !tbit p 7 && bits p 8 2 ≤ 2 && bits p 10 6 == 0

/-- 4 KiB slabs taken by the registers, the accumulators and the L1. -/
def poolFixed (p : BitVec 16) : Nat := poolNv p + 64 * bits p.toNat 4 3 + 32 * 2 ^ bits p.toNat 8 2

/-- First segment of the accumulators and of the scratchpad. The regions are whole segments (R89); which ones is open: the
registers come first, then the accumulators, the L1 and the scratchpad (log 98). -/
def accSeg (p : BitVec 16) : Nat := poolNv p / 16
def spSeg (p : BitVec 16) : Nat := poolFixed p / 16

/-- Segments that hold the v registers of a group slot: the register region is that of slots 0 to 31 in order (log 98). -/
def regSegs (p : BitVec 16) (g : Nat) : List Nat :=
  let lo := g * 128 * poolNv p / 65536
  (List.range ((((g + 1) * 128 * poolNv p - 1) / 65536) - lo + 1)).map fun i => lo + i

/-- Segment of a slab of a team, and of an accumulator region. -/
def slabSeg (p : BitVec 16) (x : Team) (j : Nat) : Nat := spSeg p + x.spAt.getD j 0 / 16
def regionSeg (p : BitVec 16) (x : Team) (r : Nat) : Nat := accSeg p + x.accAt.getD r 0 / 16

/-- None of the segments still waits for the pool exchange (R70). -/
def Tile.segsHere (T : Tile) (l : List Nat) : Bool := T.segs == [] || l.all fun i => !T.segs.contains i

/-- The v registers of a group slot are in the pool. -/
def Tile.regsHere (T : Tile) (g : Nat) : Bool := g == 32 || T.segsHere (regSegs T.ctl.pool g)

/-- Slabs, or accumulator regions, of a team are in the pool. -/
def Tile.slabsHere (T : Tile) (team : Nat) (l : List Nat) : Bool :=
  T.segs == [] || ((T.team team).map fun x => T.segsHere (l.map (slabSeg T.ctl.pool x))).getD true
def Tile.regionsHere (T : Tile) (team : Nat) (l : List Nat) : Bool :=
  T.segs == [] || ((T.team team).map fun x => T.segsHere (l.map (regionSeg T.ctl.pool x))).getD true

/-! ## Scratchpad and accumulators (R58, R77, R79) -/

/-- The offset in the scratchpad region behind an offset of a team (R77). -/
def Team.spPlace (x : Team) (o : Nat) : Nat := x.spAt.getD (o / 4096) 0 * 4096 + o % 4096

/-- The accumulator row of the region behind a row of a team (R79). -/
def Team.accPlace (x : Team) (row : Nat) : Nat := x.accAt.getD (row / 16) 0 * 16 + row % 16

/-- A byte of a team's scratchpad. -/
def Team.spGet (x : Team) (o : Nat) : Byte := (amGet x.sp o).getD (Config.freeByte (x.init + x.spPlace o))

/-- `n` bytes of a team's scratchpad, little-endian. -/
def Team.spRead (x : Team) (o : Nat) : Nat → Nat
  | 0 => 0
  | n + 1 => (x.spGet o).toNat + 256 * x.spRead (o + 1) n

/-- Write `n` bytes of a team's scratchpad. -/
def Team.spWrite (x : Team) (o : Nat) : Nat → Nat → Team
  | 0, _ => x
  | n + 1, v => ({ x with sp := amSet x.sp o (BitVec.ofNat 8 v) }).spWrite (o + 1) n (v / 256)

/-- A cell of a team's accumulators. -/
def Team.accGet (x : Team) (row cell : Nat) : W32 :=
  (amGet x.acc (row * 64 + cell)).getD (BitVec.ofNat 32 (Config.freeNat (x.accInit + 2 ^ 24 + x.accPlace row * 64 + cell)))

/-- Write a cell of a team's accumulators. -/
def Team.accSet (x : Team) (row cell : Nat) (v : W32) : Team := { x with acc := amSet x.acc (row * 64 + cell) v }

/-- Size of a team's scratchpad in bytes. -/
def Team.spSize (x : Team) : Nat := x.slabs * 4096

/-- Owner state of a slab. -/
def Team.slab (x : Team) (j : Nat) : UnitSt := (amGet x.slabSt j).getD {}

/-- Owner state of an accumulator region: 16 rows (R79, R274). -/
def Team.region (x : Team) (j : Nat) : UnitSt := (amGet x.accSt j).getD {}

/-- An uncorrectable word of the tile's scratchpad lies in these bytes of a team (R374). -/
def Tile.badSp (T : Tile) (team off n : Nat) : Bool :=
  T.badWords.any fun w => w.1 == 2 && team * 2 ^ 32 + off ≤ w.2 && w.2 < team * 2 ^ 32 + off + n

/-! ## Poison (R375) -/

/-- Some granule of `n` bytes at an address is poisoned, or its home field is stopped (R379). -/
def State.poisoned (s : State) (pa n : Nat) : Bool :=
  (s.field (homeField pa)).stopped || s.poison.any fun g => pa / 64 ≤ g && g ≤ (pa + n - 1) / 64

/-- Stores that cover whole granules in one slice cycle clear their poison. -/
def State.clearPoison (s : State) (pa n : Nat) : State :=
  { s with poison := s.poison.filter fun g => !(pa ≤ 64 * g && 64 * g + 64 ≤ pa + n) }

/-- The source code of an ECC record for data at home (Table 17.2): 0 held in the L2, 1 read from the plinth. -/
def State.eccSource (s : State) (pa : Nat) : Nat := if s.l2Has pa then 0 else 1

end Sys2Proof.Machine
end

