-- ==== Sys2Proof/Machine/Float.lean ====
section
/-! DEFINITION. Floating-point values, rounding and the arithmetic of R132 to R142 and R151. A finite value is a
sign, a natural number and a power of two; every result is formed exactly (with a sticky bit for quotients and
roots) and rounded once. Flags are FPS bits [4:0]: NX 1, UF 2, OF 4, DZ 8, NV 16 (Table 6.5). -/

namespace Sys2Proof.Machine

/-- How a format uses its all-ones exponent (Table 6.3). -/
inductive Top where
  | ieee | e4m3 | e5m2 | finite
  deriving DecidableEq, Repr

/-- A floating-point format (Table 6.3): exponent and fraction widths and bias. -/
structure Fmt where
  eb : Nat
  fb : Nat
  bias : Nat
  top : Top
  deriving DecidableEq, Repr

/-- .f64 -/
def Fmt.f64 : Fmt := ⟨11, 52, 1023, .ieee⟩
/-- .f32 -/
def Fmt.f32 : Fmt := ⟨8, 23, 127, .ieee⟩
/-- .f16 -/
def Fmt.f16 : Fmt := ⟨5, 10, 15, .ieee⟩
/-- .bf16 -/
def Fmt.bf16 : Fmt := ⟨8, 7, 127, .ieee⟩
/-- .e4m3 -/
def Fmt.e4m3 : Fmt := ⟨4, 3, 7, .e4m3⟩
/-- .e5m2 -/
def Fmt.e5m2 : Fmt := ⟨5, 2, 15, .e5m2⟩
/-- E2M3, the .mxf6 element -/
def Fmt.e2m3 : Fmt := ⟨2, 3, 1, .finite⟩
/-- E2M1, the .mxf4 element -/
def Fmt.e2m1 : Fmt := ⟨2, 1, 1, .finite⟩

/-- The format of a type code. -/
def fmtOf : FTy → Fmt
  | .f16 => .f16 | .bf16 => .bf16 | .f32 => .f32 | .f64 => .f64

/-- The format of a type code, the eight-bit ones included. -/
def fmtOfF : FFmt → Fmt
  | .std t => fmtOf t | .e4m3 => .e4m3 | .e5m2 => .e5m2

/-- Width in bits. -/
def Fmt.width (f : Fmt) : Nat := f.eb + f.fb + 1

/-- A value: NaN (signalling or not), infinity, zero, or (-1)^s × m × 2^e with m nonzero. -/
inductive FVal where
  | nan (sig : Bool)
  | inf (s : Bool)
  | zero (s : Bool)
  | fin (s : Bool) (m : Nat) (e : Int)
  deriving DecidableEq, Repr

/-- Exponent of the smallest normal. -/
def Fmt.emin (f : Fmt) : Int := 1 - f.bias

/-- The sign bit of an encoding. -/
def Fmt.sgn (f : Fmt) (s : Bool) : Nat := if s then 2 ^ (f.eb + f.fb) else 0

/-- CanonicalNaN (Table 6.3). -/
def Fmt.cnan (f : Fmt) : Nat :=
  match f.top with
  | .ieee => (2 ^ f.eb - 1) * 2 ^ f.fb + 2 ^ (f.fb - 1)
  | .e4m3 => 0x7F
  | .e5m2 => 0x7E
  | .finite => 0

/-- Magnitude encoding of the largest finite value (Table 6.3). -/
def Fmt.maxBits (f : Fmt) : Nat :=
  match f.top with
  | .ieee | .e5m2 => (2 ^ f.eb - 1) * 2 ^ f.fb - 1
  | .e4m3 => 0x7E
  | .finite => 2 ^ (f.eb + f.fb) - 1

/-- Encoding of an infinity (.e4m3 has none; R141 decides before this is read). -/
def Fmt.infBits (f : Fmt) : Nat := (2 ^ f.eb - 1) * 2 ^ f.fb

/-- The value of an encoding (R132, R133). -/
def unpack (f : Fmt) (b : Nat) : FVal :=
  let s := b / 2 ^ (f.eb + f.fb) % 2 == 1
  let e := b / 2 ^ f.fb % 2 ^ f.eb
  let m := b % 2 ^ f.fb
  let fin : FVal :=
    if e = 0 then (if m = 0 then .zero s else .fin s m (f.emin - f.fb))
    else .fin s (2 ^ f.fb + m) ((e : Int) - f.bias - f.fb)
  match f.top with
  | .finite => fin
  | .e4m3 => if e = 15 && m = 7 then .nan false else fin
  | .e5m2 => if e = 31 then (if m = 0 then .inf s else .nan false) else fin
  | .ieee =>
    if e = 2 ^ f.eb - 1 then (if m = 0 then .inf s else .nan (m < 2 ^ (f.fb - 1))) else fin

/-- `m × 2^sh` for sh ≥ 0, else the floor, with the remainder's relation to half a unit: 0 exact, 1 below, 2 half,
3 above. -/
def shiftRem (m : Nat) (sh : Int) : Nat × Nat :=
  if 0 ≤ sh then (m * 2 ^ sh.toNat, 0)
  else
    let k := (-sh).toNat
    let r := m % 2 ^ k
    (m / 2 ^ k, if r = 0 then 0 else if r < 2 ^ (k - 1) then 1 else if r = 2 ^ (k - 1) then 2 else 3)

/-- Whether a magnitude rounds up (Table 6.4). -/
def roundUp (rm : RM) (s : Bool) (n rel : Nat) : Bool :=
  match rm with
  | .rne => rel = 3 || (rel = 2 && n % 2 = 1)
  | .rtz => false
  | .rup => rel != 0 && !s
  | .rdn => rel != 0 && s

/-- A magnitude rounded to a multiple of 2^q, as that multiple, with inexactness. -/
def roundAt (rm : RM) (s : Bool) (m : Nat) (e q : Int) : Nat × Bool :=
  let (n, rel) := shiftRem m (e - q)
  (if roundUp rm s n rel then n + 1 else n, rel != 0)

/-- The result of an overflow (R134, R140, R141). -/
def overflow (f : Fmt) (rm : RM) (sat s : Bool) : Nat × Nat :=
  let big := f.sgn s + f.maxBits
  let bits :=
    if sat then big
    else match f.top with
      | .e4m3 => if rm == .rtz then big else f.cnan
      | .finite => big
      | _ => match rm with
        | .rne => f.sgn s + f.infBits
        | .rtz => big
        | .rup => if s then big else f.sgn s + f.infBits
        | .rdn => if s then f.sgn s + f.infBits else big
  (bits, if f.top == .e4m3 && rm == .rtz then 1 else 5)

/-- RoundTo of a finite nonzero value: encoding and flags (R134, R140). -/
def roundFin (f : Fmt) (rm : RM) (sat s : Bool) (m : Nat) (e : Int) : Nat × Nat :=
  let E := (Nat.log2 m : Int) + e
  let q := max E f.emin - f.fb
  let (n, inx) := roundAt rm s m e q
  let tiny := E < f.emin && !(E = f.emin - 1 && (roundAt rm s m e (E - f.fb)).1 = 2 ^ (f.fb + 1))
  let mag := n + ((q + f.fb + f.bias - 1).toNat) * 2 ^ f.fb
  if n ≠ 0 && mag > f.maxBits then overflow f rm sat s
  else (f.sgn s + mag, if inx then (if tiny then 3 else 1) else 0)

/-- RoundTo of any value, given as the operand of a conversion or an arithmetic result (R135, R140, R141). A
signalling NaN sets NV. -/
def roundTo (f : Fmt) (rm : RM) (sat : Bool) : FVal → Nat × Nat
  | .nan sig => (f.cnan, if sig then 16 else 0)
  | .inf s => match f.top with
    | .e4m3 => if sat then (f.sgn s + f.maxBits, 0) else (f.cnan, 16)
    | .e5m2 => if sat then (f.sgn s + f.maxBits, 0) else (f.sgn s + f.infBits, 0)
    | _ => (f.sgn s + f.infBits, 0)
  | .zero s => (f.sgn s, 0)
  | .fin s m e => roundFin f rm sat s m e

/-! ## Exact operations -/

/-- The value is a signalling NaN. -/
def FVal.isSig : FVal → Bool
  | .nan s => s
  | _ => false

/-- The value is a NaN. -/
def FVal.isNan : FVal → Bool
  | .nan _ => true
  | _ => false

/-- The value with its sign changed; a NaN is left. -/
def FVal.neg : FVal → FVal
  | .nan s => .nan s
  | .inf s => .inf !s
  | .zero s => .zero !s
  | .fin s m e => .fin (!s) m e

/-- A signed number and a power of two as a value; `rdn` gives the sign of an exact zero (R135). -/
def ofSum (rm : RM) (i : Int) (e : Int) : FVal :=
  if i = 0 then .zero (rm == .rdn) else .fin (i < 0) i.natAbs e

/-- The integer of a sign and a magnitude. -/
def signed (s : Bool) (m : Nat) : Int := if s then -(m : Int) else m

/-- Exact sum, with NV for (+∞) + (−∞) (R135). -/
def fsum (rm : RM) : FVal → FVal → FVal × Nat
  | .nan a, b => (.nan false, if a || b.isSig then 16 else 0)
  | a, .nan b => (.nan false, if b || a.isSig then 16 else 0)
  | .inf a, .inf b => if a = b then (.inf a, 0) else (.nan false, 16)
  | .inf a, _ => (.inf a, 0)
  | _, .inf b => (.inf b, 0)
  | .zero a, .zero b => (.zero (if a = b then a else rm == .rdn), 0)
  | .zero _, b => (b, 0)
  | a, .zero _ => (a, 0)
  | .fin a m e, .fin b n g =>
    let q := min e g
    (ofSum rm (signed a (m * 2 ^ (e - q).toNat) + signed b (n * 2 ^ (g - q).toNat)) q, 0)

/-- Exact product, with NV for 0 × ∞ (R135). -/
def fprod : FVal → FVal → FVal × Nat
  | .nan a, b => (.nan false, if a || b.isSig then 16 else 0)
  | a, .nan b => (.nan false, if b || a.isSig then 16 else 0)
  | .inf _, .zero _ | .zero _, .inf _ => (.nan false, 16)
  | .inf a, .inf b | .inf a, .fin b _ _ | .fin a _ _, .inf b => (.inf (a != b), 0)
  | .zero a, .zero b | .zero a, .fin b _ _ | .fin a _ _, .zero b => (.zero (a != b), 0)
  | .fin a m e, .fin b n g => (.fin (a != b) (m * n) (e + g), 0)

/-- Quotient to `p` bits and a sticky bit, with NV for 0 / 0 and ∞ / ∞ and DZ for a zero divisor (R135). -/
def fquot (p : Nat) : FVal → FVal → FVal × Nat
  | .nan a, b => (.nan false, if a || b.isSig then 16 else 0)
  | a, .nan b => (.nan false, if b || a.isSig then 16 else 0)
  | .inf _, .inf _ | .zero _, .zero _ => (.nan false, 16)
  | .inf a, .zero b | .inf a, .fin b _ _ => (.inf (a != b), 0)
  | .zero a, .inf b | .fin a _ _, .inf b | .zero a, .fin b _ _ => (.zero (a != b), 0)
  | .fin a _ _, .zero b => (.inf (a != b), 8)
  | .fin a m e, .fin b n g =>
    let k := p + Nat.log2 n
    let x := m * 2 ^ k
    (.fin (a != b) (2 * (x / n) + (if x % n = 0 then 0 else 1)) (e - g - k - 1), 0)

/-- Floor of a square root, bit by bit from bit `b` down. -/
def isqrt : Nat → Nat → Nat → Nat
  | 0, r, _ => r
  | b + 1, r, x => if (r + 2 ^ b) * (r + 2 ^ b) ≤ x then isqrt b (r + 2 ^ b) x else isqrt b r x

/-- Square root to `p` bits and a sticky bit (R135, R151). -/
def froot (p : Nat) : FVal → FVal × Nat
  | .nan a => (.nan false, if a then 16 else 0)
  | .zero s => (.zero s, 0)
  | .inf s => if s then (.nan false, 16) else (.inf false, 0)
  | .fin s m e =>
    if s then (.nan false, 16)
    else
      let odd : Nat := if e % 2 = 0 then 0 else 1
      let x := m * 2 ^ odd * 2 ^ (2 * p)
      let r := isqrt (p + Nat.log2 m / 2 + 2) 0 x
      (.fin false (2 * r + (if r * r = x then 0 else 1)) ((e - odd) / 2 - p - 1), 0)

/-- Order of two values that are not NaN: the sign of a − b. -/
def fcompare : FVal → FVal → Int
  | .inf a, .inf b => if a = b then 0 else if a then -1 else 1
  | .inf a, _ => if a then -1 else 1
  | _, .inf b => if b then 1 else -1
  | a, b =>
    let num : FVal → Int × Int
      | .fin s m e => (signed s m, e)
      | _ => (0, 0)
    let (x, e) := num a
    let (y, g) := num b
    let q := min e g
    (x * 2 ^ (e - q).toNat - y * 2 ^ (g - q).toNat).sign

/-! ## Instructions of one lane -/

/-- A result rounded once, with the flags of its formation (R134, R135). -/
def rounded (f : Fmt) (rm : RM) (x : FVal × Nat) : Nat × Nat :=
  let r := roundTo f rm false x.1
  (r.1, r.2 ||| x.2)

/-- FADD (R222). -/
def fpAdd (f : Fmt) (rm : RM) (a b : Nat) : Nat × Nat := rounded f rm (fsum rm (unpack f a) (unpack f b))

/-- FSUB (R222): b is negated exactly. -/
def fpSub (f : Fmt) (rm : RM) (a b : Nat) : Nat × Nat := rounded f rm (fsum rm (unpack f a) (unpack f b).neg)

/-- FMUL (R222). -/
def fpMul (f : Fmt) (rm : RM) (a b : Nat) : Nat × Nat := rounded f rm (fprod (unpack f a) (unpack f b))

/-- FFMA (R222): 0 × ∞ sets NV whatever the addend (R135). -/
def fpFma (f : Fmt) (rm : RM) (a b c : Nat) : Nat × Nat :=
  let p := fprod (unpack f a) (unpack f b)
  let s := fsum rm p.1 (unpack f c)
  rounded f rm (s.1, s.2 ||| p.2)

/-- FDIV (R226). -/
def fpDiv (f : Fmt) (rm : RM) (a b : Nat) : Nat × Nat := rounded f rm (fquot (f.fb + 4) (unpack f a) (unpack f b))

/-- FSQRT (R226). -/
def fpSqrt (f : Fmt) (rm : RM) (a : Nat) : Nat × Nat := rounded f rm (froot (f.fb + 4) (unpack f a))

/-- FMIN, or FMAX where `mx` (R222, R135): −0 is less than +0. -/
def fpMinMax (f : Fmt) (mx : Bool) (a b : Nat) : Nat × Nat :=
  let x := unpack f a
  let y := unpack f b
  let fl := if x.isSig || y.isSig then 16 else 0
  match x, y with
  | .nan _, .nan _ => (f.cnan, fl)
  | .nan _, _ => (b, fl)
  | _, .nan _ => (a, fl)
  | _, _ =>
    let less := match x, y with
      | .zero s, .zero t => s && !t
      | x, y => fcompare x y < 0
    (if less != mx then a else b, fl)

/-- FCMP (Table 9.6). -/
def fpCmp (f : Fmt) (c : FCond) (a b : Nat) : Bool × Nat :=
  let x := unpack f a
  let y := unpack f b
  let un := x.isNan || y.isNan
  let sig := x.isSig || y.isSig
  let o := fcompare x y
  let quiet := if sig then 16 else 0
  let loud := if un then 16 else 0
  match c with
  | .eq => (!un && o = 0, quiet)
  | .ne => (un || o ≠ 0, quiet)
  | .lt => (!un && o < 0, loud)
  | .le => (!un && o ≤ 0, loud)
  | .gt => (!un && o > 0, loud)
  | .ge => (!un && o ≥ 0, loud)
  | .un => (un, quiet)
  | .ord => (!un, quiet)

/-- FCLASS (R225). -/
def fpClass (f : Fmt) (a : Nat) : Nat :=
  match unpack f a with
  | .nan sig => if sig then 2 ^ 8 else 2 ^ 9
  | .inf s => if s then 1 else 2 ^ 7
  | .zero s => if s then 2 ^ 3 else 2 ^ 4
  | .fin s m e =>
    if (Nat.log2 m : Int) + e < f.emin then (if s then 2 ^ 2 else 2 ^ 5) else (if s then 2 else 2 ^ 6)

/-- Float to integer (R142): `n` bits, `sg` signed. -/
def fpToInt (n : Nat) (sg sat : Bool) (rm : RM) (x : FVal) : Int × Nat :=
  let hi : Int := if sg then 2 ^ (n - 1) - 1 else 2 ^ n - 1
  let lo : Int := if sg then -2 ^ (n - 1) else 0
  let bad : Int := if sg then lo else hi
  match x with
  | .nan _ => (if sat then 0 else bad, 16)
  | .inf s => (if sat then (if s then lo else hi) else bad, 16)
  | .zero _ => (0, 0)
  | .fin s m e =>
    let (k, inx) := roundAt rm s m e 0
    let v := signed s k
    if v > hi then (if sat then hi else bad, 16)
    else if v < lo then (if sat then lo else bad, 16)
    else (v, if inx then 1 else 0)

/-- The value of an integer. -/
def ofInt (i : Int) : FVal := if i = 0 then .zero false else .fin (i < 0) i.natAbs 0

/-! ## Short constants (Table 7.3) -/

/-- The value of a floating short constant, code minus 0xC0; irrational ones carry 120 bits and a sticky bit. -/
def constVal (f : Fmt) (n : Nat) : FVal :=
  if n < 32 then ofInt n
  else if n < 48 then ofInt ((n : Int) - 48)
  else match n with
    | 48 => .fin false 1 (-1)
    | 49 => .fin true 1 (-1)
    | 50 => .fin false 1 (-2)
    | 51 => .fin true 1 (-2)
    | 52 => .fin false 1 (-3)
    | 53 => .fin false 3 (-1)
    | 54 => .zero true
    | 55 => unpack f f.maxBits
    | 56 => .fin false 0x6487ed5110b4611a62633145c06e0e7 (-121)
    | 57 => .fin false 0xa2f9836e4e441529fc2757d1f534dd (-121)
    | 58 => .fin false 0x162e42fefa39ef35793c7673007e5ed (-121)
    | 59 => .fin false 0x2e2a8eca5705fc2eefa1ffb41a474fb (-121)
    | 60 => .fin false 0x2d413cccfe779921165f626cdd52afb (-121)
    | 61 => .fin false 0x16a09e667f3bcc908b2fb1366ea957d (-121)
    | 62 => .inf false
    | _ => .inf true

/-- The encoding of a floating short constant: its value rounded RNE to the format (R159). -/
def constBits (f : Fmt) (n : Nat) : Nat := (roundTo f .rne false (constVal f n)).1

/-- The value of an integer short constant (Table 7.3). -/
def constInt (n : Nat) : Int := if n < 32 then n else (n : Int) - 48

end Sys2Proof.Machine
end

