-- ==== Sys2Proof/Machine/Sfn.lean ====
section
/-! DEFINITION. The special functions (R149, R150). The coefficients are not architected, so the result is the free
value `Config.sfn` of the operand, kept inside the error bound of Table 6.10: the exact function is enclosed by
fixed-point arithmetic to 2^-590, closer than any .f32 number can lie to the edge of its bound (log 24), and a free value outside
the bound is replaced by the rounded one. -/

namespace Sys2Proof.Machine

/-- Fixed-point scale: 2^-600. -/
def fx : Nat := 600

/-- A finite dyadic in fixed point, truncated. -/
def toFx (m : Nat) (e : Int) : Nat := (shiftRem m (e + fx)).1

/-- π, ln 2, log2 e and 2/√π in fixed point. -/
def piFx : Nat :=
  0x3243f6a8885a308d313198a2e03707344a4093822299f31d0082efa98ec4e6c89452821e638d01377be5466cf34e90c6cc0ac29b7c97c50dd3f84d5b5b54709179216d5d98979fb1bd1310b
def ln2Fx : Nat :=
  0xb17217f7d1cf79abc9e3b39803f2f6af40f343267298b62d8a0d175b8baafa2be7b876206debac98559552fb4afa1b10ed2eae35c138214427573b291169b8253e96ca16224ae8c51acbda
def log2eFx : Nat :=
  0x171547652b82fe1777d0ffda0d23a7d11d6aef551bad2b4b1164a2cd9a342648fbc3887eeaa2ed9ac49b25eeb82d7c167d52173cc1895213f897f5e06a7be73665fc529264c2fb3ab643687
def erfFx : Nat :=
  0x120dd750429b6d11ae3a914fed7fd8688281341d7587cea2e7342b06199cc416180eb39f0b24e1e2281806c12d98f35d77a3e9ddc91c394f0e9eedf0efffd84a2a4ac3b98489b8cbd3845e8

/-- Product of fixed-point numbers. -/
def mulFx (a b : Nat) : Nat := a * b / 2 ^ fx

/-- The exponential series of `x` in fixed point: the terms from `k` on, the last one being `t`. -/
def expSeries (x : Nat) : Nat → Nat → Nat → Nat
  | 0, _, _ => 0
  | n + 1, k, t => t + expSeries x n (k + 1) (mulFx t x / (k + 1))

/-- 2^f for f in [0, 1), in fixed point. -/
def exp2Frac (f : Nat) : Nat := expSeries (mulFx f ln2Fx) 120 0 (2 ^ fx)

/-- Alternating series in `y` = x²: `div k` divides the next term. -/
def altSeries (y : Nat) (div : Nat → Nat) : Nat → Nat → Int → Nat → Int
  | 0, _, _, _ => 0
  | n + 1, k, sg, t => sg * t + altSeries y div n (k + 1) (-sg) (mulFx t y / div k)

/-- sin θ in fixed point, θ from 0 to 2π. -/
def sinFx (t : Nat) : Int := altSeries (mulFx t t) (fun k => (2 * k + 2) * (2 * k + 3)) 95 0 1 t

/-- cos θ in fixed point. -/
def cosFx (t : Nat) : Int := altSeries (mulFx t t) (fun k => (2 * k + 1) * (2 * k + 2)) 95 0 1 (2 ^ fx)

/-- The sum of (−1)^n y^n / (n! (2n+1)) in fixed point, for erf; `t` is y^n / n!. -/
def erfSeries (y : Nat) : Nat → Nat → Int → Nat → Int
  | 0, _, _, _ => 0
  | n + 1, k, sg, t => sg * (t / (2 * k + 1) : Nat) + erfSeries y n (k + 1) (-sg) (mulFx t y / (k + 1))

/-- Fraction bits of log2 of `s` in [1, 2) by repeated squaring. -/
def log2Bits : Nat → Nat → Nat → Nat
  | 0, _, acc => acc
  | n + 1, s, acc =>
    let q := mulFx s s
    if q < 2 ^ (fx + 1) then log2Bits n q (2 * acc) else log2Bits n (q / 2) (2 * acc + 1)

/-- A signed fixed-point number as a value. -/
def ofFx (i : Int) : FVal := if i = 0 then .zero false else .fin (i < 0) i.natAbs (-fx)

/-- 2^v for a signed fixed-point v. -/
def exp2Val (v : Int) : FVal := .fin false (exp2Frac (v % 2 ^ fx).toNat) (v / 2 ^ fx - fx)

/-- A finite value in signed fixed point. -/
def fxOf : FVal → Int
  | .fin s m e => signed s (toFx m e)
  | _ => 0

/-- A close value of the function at a finite nonzero operand (Table 6.10). -/
def sfnNear (fn : SfnFn) (x : FVal) : FVal :=
  let one : FVal := .fin false 1 0
  match fn with
  | .rcp => (fquot 400 one x).1
  | .rsq => (fquot 400 one (froot 400 x).1).1
  | .sqrt => (froot 400 x).1
  | .ex2 => exp2Val (fxOf x)
  | .lg2 => match x with
    | .fin _ m e =>
      let L := Nat.log2 m
      ofFx (((L : Int) + e) * 2 ^ fx + (log2Bits 160 (toFx m (-(L : Int))) 0 : Nat) * 2 ^ (fx - 160))
    | y => y
  | .sin => ofFx (sinFx (mulFx (fxOf x % 2 ^ (fx + 1)).toNat piFx))
  | .cos => ofFx (cosFx (mulFx (fxOf x % 2 ^ (fx + 1)).toNat piFx))
  | .tanh => match x with
    | .fin s m e =>
      let E := exp2Val (-((2 * mulFx (toFx m e) log2eFx : Nat) : Int))
      (fquot 500 (fprod (.fin s 1 0) (fsum .rne one E.neg).1).1 (fsum .rne one E).1).1
    | y => y
  | .sigm => (fquot 500 one (fsum .rne one (exp2Val (-(fxOf x * log2eFx / 2 ^ fx)))).1).1
  | .erf => match x with
    | .fin _ m e =>
      let a := toFx m e
      (fprod x (ofFx (erfSeries (mulFx a a) 260 0 1 (2 ^ fx) * erfFx / 2 ^ fx))).1
    | y => y

/-- The allowed error as `k × 2^q` around a near value (Table 6.10). -/
def sfnBound (fn : SfnFn) (x y : FVal) : Nat × Int :=
  let ulps := match fn with
    | .rcp | .rsq | .sqrt => 1
    | _ => 2
  let rel : Nat × Int := match y with
    | .fin _ m e => (ulps, max ((Nat.log2 m : Int) + e) (-126) - 23)
    | _ => (ulps, -149)
  match fn with
  | .lg2 => match x with
    | .fin _ m e =>
      let L := (Nat.log2 m : Int) + e
      if L = 0 || L = -1 || (L = 1 && m = 2 ^ Nat.log2 m) then (1, -22) else rel
    | _ => rel
  | .sin | .cos => match y with
    | .fin _ m e => if (Nat.log2 m : Int) + e ≥ -4 then rel else (1, -26)
    | _ => (1, -26)
  | _ => rel

/-- A value as an integer multiple of 2^-700, truncated. -/
def scaled : FVal → Int
  | .fin s m e => signed s (shiftRem m (e + 700)).1
  | _ => 0

/-- The free value where it lies inside the bound, else the rounded near value, or the largest finite number where that rounds
to an infinity and the number lies inside the bound. A result of more than that has no encoding within the bound: R149 states
none, and the free value stands, a NaN as the canonical one (R133). -/
def sfnPick (fn : SfnFn) (x : FVal) (bits : Nat) : Nat :=
  let y := sfnNear fn x
  let c := (Config.sfn fn (BitVec.ofNat 32 bits)).toNat
  let (k, q) := sfnBound fn x y
  let inside (w : Nat) : Bool := match unpack .f32 w with
    | .nan _ | .inf _ => false
    | v => decide ((scaled v - scaled y).natAbs ≤ (shiftRem k (q + 700)).1)
  let near := (roundTo .f32 .rne false y).1
  let near := match unpack .f32 near with
    | .inf s => Fmt.f32.sgn s + 0x7F7FFFFF
    | _ => near
  if inside c then c
  else if inside near then near
  else match unpack .f32 c with
    | .nan _ => Fmt.f32.cnan
    | _ => c

/-- The operand is an integer. -/
def FVal.isInt : FVal → Bool
  | .fin _ m e => 0 ≤ e || m % 2 ^ (-e).toNat = 0
  | .zero _ => true
  | _ => false

/-- ±1 in .f32. -/
def oneBits (s : Bool) : Nat := if s then 0xBF800000 else 0x3F800000

/-- SFN of one lane (R149, R150): result and flags NV, DZ, OF. -/
def fpSfn (fn : SfnFn) (bits : Nat) : Nat × Nat :=
  let f := Fmt.f32
  let x := unpack f bits
  let mag (n : Int) : Bool := match x with
    | .fin _ m e => decide (0 ≤ fcompare (.fin false m e) (ofInt n))
    | _ => false
  let inf (s : Bool) := f.sgn s + f.infBits
  match x with
  | .nan sig => (f.cnan, if sig then 16 else 0)
  | _ => match fn with
    | .rcp => match x with
      | .zero s => (inf s, 8)
      | .inf s => (f.sgn s, 0)
      | _ => (sfnPick fn x bits, 0)
    | .rsq => match x with
      | .zero s => (inf s, 8)
      | .inf false => (0, 0)
      | .fin false _ _ => (sfnPick fn x bits, 0)
      | _ => (f.cnan, 16)
    | .sqrt => match x with
      | .zero s => (f.sgn s, 0)
      | .inf false => (inf false, 0)
      | .fin false _ _ => (sfnPick fn x bits, 0)
      | _ => (f.cnan, 16)
    | .ex2 => match x with
      | .inf s => (if s then 0 else inf false, 0)
      | .zero _ => (sfnPick fn (.fin false 1 (-300)) bits, 0)
      | .fin s _ _ => if !s && mag 128 then (inf false, 4) else if s && mag 150 then (0, 0) else (sfnPick fn x bits, 0)
      | _ => (f.cnan, 0)
    | .lg2 => match x with
      | .zero _ => (inf true, 8)
      | .inf false => (inf false, 0)
      | .fin false _ _ => if bits = 0x3F800000 then (0, 0) else (sfnPick fn x bits, 0)
      | _ => (f.cnan, 16)
    | .sin => match x with
      | .inf _ => (f.cnan, 16)
      | _ => if x.isInt then (0, 0) else (sfnPick fn x bits, 0)
    | .cos => match x with
      | .inf _ => (f.cnan, 16)
      | .fin _ m e => if x.isInt then (oneBits (decide (e ≤ 0) && m / 2 ^ (-e).toNat % 2 == 1), 0) else (sfnPick fn x bits, 0)
      | _ => (oneBits false, 0)
    | .tanh => match x with
      | .zero s => (f.sgn s, 0)
      | .inf s => (oneBits s, 0)
      | .fin s _ _ => if mag 9 then (oneBits s, 0) else (sfnPick fn x bits, 0)
      | _ => (f.cnan, 0)
    | .sigm => match x with
      | .inf s => (if s then 0 else oneBits false, 0)
      | .fin s _ _ => if !s && mag 17 then (oneBits false, 0) else if s && mag 87 then (0, 0) else (sfnPick fn x bits, 0)
      | _ => (sfnPick fn (.fin false 1 (-300)) bits, 0)
    | .erf => match x with
      | .zero s => (f.sgn s, 0)
      | .inf s => (oneBits s, 0)
      | .fin s _ _ => if mag 4 then (oneBits s, 0) else (sfnPick fn x bits, 0)
      | _ => (f.cnan, 0)

end Sys2Proof.Machine
end

