-- ==== Sys2Proof/Machine/Operands.lean ====
section
/-! DEFINITION. Operand forms (R158 to R164), the scalar path (R161), and the shared end of a register instruction:
its writes, its flags with their enables, its latency and its token (R137, R156, R169, R211, R212). -/

namespace Sys2Proof.Machine

/-- A source as raw bits of `n` registers: a short constant is sign-extended (R159). -/
def State.src (s : State) (l : Nat) (r : Reg) (n : Nat) : Nat :=
  match r with
  | .c x => wrap (32 * n) (constInt x.val)
  | r => s.regs l r.code n

/-- A source in a floating format (R159, R211): the low bits of its register or pair. -/
def State.srcF (s : State) (l : Nat) (r : Reg) (f : Fmt) : Nat :=
  match r with
  | .c x => constBits f x.val
  | r => s.regs l r.code (if f.width = 64 then 2 else 1) % 2 ^ f.width

/-- A packed two-wide source: a constant fills both halves (R159, R228). -/
def State.srcP (s : State) (l : Nat) (r : Reg) (f : Fmt) : Nat :=
  match r with
  | .c x => constBits f x.val * 65537
  | r => s.regs l r.code 1

/-- Width and reading of an integer type (R129). -/
def tyBits : ITy → Nat
  | .i8 | .n8 => 8 | .i16 | .n16 => 16 | .i32 | .n32 => 32 | .i64 | .n64 => 64

/-- Signed reading. -/
def tySigned : ITy → Bool
  | .i8 | .i16 | .i32 | .i64 => true
  | _ => false

/-- A number read in a type (R129). -/
def tyRead (t : ITy) (v : Nat) : Int := if tySigned t then sext (tyBits t) v else ((v % 2 ^ (tyBits t) : Nat) : Int)

/-- A result reduced to the type and extended to its registers (R129): 8 and 16 bits widen to 32. -/
def tyWrite (t : ITy) (x : Int) : Nat := wrap (32 * t.regs) (tyRead t (wrap (tyBits t) x))

/-- An integer source. -/
def State.srcI (s : State) (l : Nat) (r : Reg) (t : ITy) : Int := tyRead t (s.src l r t.regs)

/-- What one lane of a register instruction produces: the value and the flags of FPS and ISTAT. -/
structure LaneOut where
  val : Nat
  fps : Nat := 0
  ist : Nat := 0
  deriving DecidableEq, Repr

/-- The instruction runs on the scalar path: destination and sources are k registers or constants (R161). -/
def scalarPath (d : Reg) (srcs : List Reg) : Bool := d.isK && !srcs.any Reg.isV

/-- The lanes in which a register instruction computes: one on the scalar path, else the active ones. -/
def State.laneSet (s : State) (c : Ctl) (d : Reg) (srcs : List Reg) : List Nat :=
  if scalarPath d srcs then (s.active c).take 1 else s.active c

/-- A record of an issued instruction (R156). -/
def State.outInst (s : State) (c : Ctl) : OutInst :=
  { iid := s.nextId, tag := c.set.val, pc := s.cur.pc, word := s.cur.word, lanes := s.cur.sub, rem := 0 }

/-- An issued instruction enters its group's records: those under its tag have one younger instruction more (R156). -/
def Group.record (g : Group) (o : OutInst) : Group :=
  { g with out := (g.out.map fun p => if p.tag = o.tag then { p with younger := p.younger + 1 } else p) ++ [o] }

/-- Add an issued instruction to the group's records and take its identifier. -/
def State.issueOut (s : State) (o : OutInst) : State := (s.modG fun g => g.record o).fresh

/-- Register copies that the writes make (R42), by count. -/
def Group.copies (g : Group) (ws : List (Nat × Nat × W32)) : Nat :=
  (ws.filter fun w => w.2.1 < 128 && bit (g.lane w.1).back w.2.1).length

/-- Perform the writes of a fixed-latency instruction: the values before them are kept for reads inside the latency
(R169). -/
def Group.wrFixed (T : Tile) (g : Group) (pc ready : Nat) (ws : List (Nat × Nat × W32)) : Group :=
  let old := ws.map fun w => (w.1, w.2.1, T.regNow g w.1 w.2.1)
  let g := ws.foldl Group.wr g
  if ws = [] then g else { g with haz := g.haz ++ [{ pc := pc, ready := ready, old := old }] }

/-- The end of a register instruction. `outs` lists the computing lanes (a scalar-path result under lane 32) with
their flags, `ws` the writes. With a fixed latency the writes are performed at issue; with none they are performed when
the instruction completes. A flag whose enable is 1 raises ARITH and no destination is written (R137). -/
def State.retire (s : State) (c : Ctl) (ws : List (Nat × Nat × W32)) (flags : List (Nat × Nat × Nat)) (lat : Option Nat)
    (canF canI : Bool) : State :=
  let g := s.G
  let fps := flags.foldl (fun a x => a ||| x.2.1) 0
  let ist := flags.foldl (fun a x => a ||| x.2.2) 0
  match lat with
  | some n =>
    if g.fpsTrap fps ≠ 0 then
      (s.setG (g.orFlags fps ist)).trapLane (flagLane g.fpsTrap (flags.map fun x => (x.1, x.2.1))) .arith 1 fps 0
    else if g.istTrap ist ≠ 0 then
      (s.setG (g.orFlags fps ist)).trapLane (flagLane g.istTrap (flags.map fun x => (x.1, x.2.2))) .arith 2 ist 0
    else
      let ready := s.cycle s.cur.tile + n
      let s := s.setG ((Group.wrFixed s.T g s.cur.pc ready ws).orFlags fps ist)
      let s := if c.set.val = 0 then s
        else (s.issueOut { s.outInst c with ready := ready }).push [.instructionComplete s.cur.tile s.cur.slot s.nextId]
      s.next
  | none =>
    let o := { s.outInst c with
      res := ws, dst := ws.map fun w => (w.1, w.2.1), fps := fps, ist := ist, byLane := flags
      kind := (if canF then 1 else 0) + (if canI then 2 else 0) }
    let held := g.anyEnable canF canI
    let s := (s.issueOut o).push [.instructionComplete s.cur.tile s.cur.slot s.nextId]
    if held then s.hold (.inst o.iid) else s.next

/-- A register instruction: `f` gives each computing lane's result, written to `n` registers from `d`. -/
def State.alu (s : State) (c : Ctl) (d : Reg) (n : Nat) (srcs : List Reg) (lat : Option Nat) (canF canI : Bool)
    (f : Nat → LaneOut) : State :=
  let outs := (s.laneSet c d srcs).map fun l => (if scalarPath d srcs then 32 else l, f l)
  s.retire c (outs.flatMap fun x => spread x.1 d n x.2.val) (outs.map fun x => (x.1, x.2.fps, x.2.ist)) lat canF canI

/-- A predicate instruction: each active lane's truth value goes to `pd` (R220, R221). -/
def State.aluP (s : State) (c : Ctl) (pd : Fin 8) (lat : Nat) (f : Nat → Bool × Nat) : State :=
  let outs := (s.active c).map fun l => (l, f l)
  s.retire c (outs.flatMap fun x => spread x.1 (.p pd) 1 (if x.2.1 then 1 else 0)) (outs.map fun x => (x.1, x.2.2, 0))
    (some lat) true false

/-- Latency of the simple integer instructions by registers (Table 9.1). -/
def latI (n : Nat) : Nat := if n = 1 then 4 else 5

/-- Latency of the floating instructions by width (Table 9.1). -/
def latF (wide : Bool) : Nat := if wide then 7 else 6

end Sys2Proof.Machine
end

