-- ==== Sys2Proof/Machine/Integer.lean ====
section
/-! DEFINITION. Integer, logic, shift, bit-field, address, move, comparison and predicate instructions (R213 to R221).
Each meaning names its rule; operands, the scalar path, latencies and writes are those of Operands. -/

namespace Sys2Proof.Machine

/-- What a step of the machine answers. -/
abbrev Res := Host.Outcome State Fault Refusal

/-! ## Shared forms -/

/-- Latency of MUL, MULH and MAD (Table 9.1): a token on 64 bits. -/
def latMul (t : ITy) : Option Nat := if t.regs = 2 then none else some 6

/-- D, A, B of an integer type (R214). -/
def State.intR (s : State) (x : IntR) (lat : Option Nat) (f : Int → Int → Int) : Res :=
  .next (s.alu x.c x.d x.ty.regs [x.a, x.b] lat false false fun l =>
    { val := tyWrite x.ty (f (s.srcI l x.a x.ty) (s.srcI l x.b x.ty)) })

/-- The second operand of format I: IMM20 sign-extended for .i types, zero-extended for .n types (R164). -/
def imm20 (t : ITy) (i : BitVec 20) : Int := tyRead t (if tySigned t then wrap 64 i.toInt else i.toNat)

/-- D, A, IMM20 of an integer type (R214). -/
def State.intI (s : State) (x : IntI) (lat : Option Nat) (f : Int → Int → Int) : Res :=
  .next (s.alu x.c x.d x.ty.regs [x.a] lat false false fun l =>
    { val := tyWrite x.ty (f (s.srcI l x.a x.ty) (imm20 x.ty x.imm)) })

/-- D, A of an integer type (R214). -/
def State.intU (s : State) (x : IntU) (f : Int → Int) : Res :=
  .next (s.alu x.c x.d x.ty.regs [x.a] (some (latI x.ty.regs)) false false fun l =>
    { val := tyWrite x.ty (f (s.srcI l x.a x.ty)) })

/-- D, A, B of raw bits (R216). -/
def State.bitR (s : State) (x : BitR) (f : Nat → Nat → Nat) : Res :=
  .next (s.alu x.c x.d x.ty.regs [x.a, x.b] (some (latI x.ty.regs)) false false fun l =>
    { val := f (s.src l x.a x.ty.regs) (s.src l x.b x.ty.regs) })

/-- D, A, IMM20 of raw bits, zero-extended (R216). -/
def State.bitI (s : State) (x : BitI) (f : Nat → Nat → Nat) : Res :=
  .next (s.alu x.c x.d x.ty.regs [x.a] (some (latI x.ty.regs)) false false fun l =>
    { val := f (s.src l x.a x.ty.regs) x.imm.toNat })

/-- D, A of raw bits, writing `n` registers (R216). -/
def State.bitU (s : State) (x : BitU) (n : Nat) (f : Nat → Nat) : Res :=
  .next (s.alu x.c x.d n [x.a] (some (latI x.ty.regs)) false false fun l => { val := f (s.src l x.a x.ty.regs) })

/-- A shift or rotate by B[7:0] (R216). -/
def State.shR (s : State) (x : BitR) (f : Nat → Nat → Nat → Nat) : Res :=
  .next (s.alu x.c x.d x.ty.regs [x.a, x.b] (some (latI x.ty.regs)) false false fun l =>
    { val := f (32 * x.ty.regs) (s.src l x.a x.ty.regs) (s.src l x.b 1 % 256) })

/-- A shift or rotate by IMM20[5:0] (R216). -/
def State.shI (s : State) (x : ShI) (f : Nat → Nat → Nat → Nat) : Res :=
  .next (s.alu x.c x.d x.ty.regs [x.a] (some (latI x.ty.regs)) false false fun l =>
    { val := f (32 * x.ty.regs) (s.src l x.a x.ty.regs) x.cnt.val })

/-! ## Integer arithmetic (R213, R214) -/

/-- ADD -/
def execAdd (x : IntR) (s : State) : Res := s.intR x (some (latI x.ty.regs)) (· + ·)
/-- ADD, format I -/
def execAddI (x : IntI) (s : State) : Res := s.intI x (some (latI x.ty.regs)) (· + ·)
/-- SUB -/
def execSub (x : IntR) (s : State) : Res := s.intR x (some (latI x.ty.regs)) (· - ·)
/-- SUB, format I -/
def execSubI (x : IntI) (s : State) : Res := s.intI x (some (latI x.ty.regs)) (· - ·)
/-- MUL -/
def execMul (x : IntR) (s : State) : Res := s.intR x (latMul x.ty) (· * ·)
/-- MUL, format I -/
def execMulI (x : IntI) (s : State) : Res := s.intI x (latMul x.ty) (· * ·)
/-- MULH: the upper n bits of the product. -/
def execMulh (x : IntR) (s : State) : Res := s.intR x (latMul x.ty) fun a b => a * b / 2 ^ tyBits x.ty
/-- MAD -/
def execMad (x : IntRC) (s : State) : Res :=
  .next (s.alu x.c x.d x.ty.regs [x.a, x.b, x.e] (latMul x.ty) false false fun l =>
    { val := tyWrite x.ty (s.srcI l x.a x.ty * s.srcI l x.b x.ty + s.srcI l x.e x.ty) })
/-- MIN, in the reading of the type -/
def execMin (x : IntR) (s : State) : Res := s.intR x (some (latI x.ty.regs)) min
/-- MIN, format I -/
def execMinI (x : IntI) (s : State) : Res := s.intI x (some (latI x.ty.regs)) min
/-- MAX, in the reading of the type -/
def execMax (x : IntR) (s : State) : Res := s.intR x (some (latI x.ty.regs)) max
/-- MAX, format I -/
def execMaxI (x : IntI) (s : State) : Res := s.intI x (some (latI x.ty.regs)) max
/-- ABS: the most negative value is returned unchanged. -/
def execAbs (x : IntU) (s : State) : Res := s.intU x fun a => a.natAbs
/-- NEG -/
def execNeg (x : IntU) (s : State) : Res := s.intU x fun a => -a

/-- Quotient, remainder and ISTAT flags of a division (R130, R215): IDZ 1, IOV 2. -/
def divide (t : ITy) (a b : Int) : Int × Int × Nat :=
  if b = 0 then (if tySigned t then -1 else 2 ^ tyBits t - 1, a, 1)
  else if tySigned t && a = -2 ^ (tyBits t - 1) && b = -1 then (a, 0, 2)
  else (a.tdiv b, a - a.tdiv b * b, 0)

/-- DIV (R215): a token on the divide path. -/
def execDiv (x : IntR) (s : State) : Res :=
  .next (s.alu x.c x.d x.ty.regs [x.a, x.b] none false true fun l =>
    let r := divide x.ty (s.srcI l x.a x.ty) (s.srcI l x.b x.ty)
    { val := tyWrite x.ty r.1, ist := r.2.2 })

/-- REM (R215) -/
def execRem (x : IntR) (s : State) : Res :=
  .next (s.alu x.c x.d x.ty.regs [x.a, x.b] none false true fun l =>
    let r := divide x.ty (s.srcI l x.a x.ty) (s.srcI l x.b x.ty)
    { val := tyWrite x.ty r.2.1, ist := r.2.2 })

/-! ## Logic, shifts and bit fields (R216, R217) -/

/-- AND -/
def execAnd (x : BitR) (s : State) : Res := s.bitR x (· &&& ·)
/-- AND, format I -/
def execAndI (x : BitI) (s : State) : Res := s.bitI x (· &&& ·)
/-- OR -/
def execOr (x : BitR) (s : State) : Res := s.bitR x (· ||| ·)
/-- OR, format I -/
def execOrI (x : BitI) (s : State) : Res := s.bitI x (· ||| ·)
/-- XOR -/
def execXor (x : BitR) (s : State) : Res := s.bitR x (· ^^^ ·)
/-- XOR, format I -/
def execXorI (x : BitI) (s : State) : Res := s.bitI x (· ^^^ ·)
/-- NOT -/
def execNot (x : BitU) (s : State) : Res := s.bitU x x.ty.regs fun a => 2 ^ (32 * x.ty.regs) - 1 - a

/-- Left shift; 0 from the width on. -/
def shlBits (w a n : Nat) : Nat := if n ≥ w then 0 else a * 2 ^ n % 2 ^ w
/-- Logical right shift; 0 from the width on. -/
def shrBits (w a n : Nat) : Nat := if n ≥ w then 0 else a / 2 ^ n
/-- Arithmetic right shift; copies of the top bit from the width on. -/
def sarBits (w a n : Nat) : Nat := wrap w (sext w a / 2 ^ (min n w))
/-- Rotate left by n mod w. -/
def rotBits (w a n : Nat) : Nat := a * 2 ^ (n % w) % 2 ^ w + a / 2 ^ (w - n % w)

/-- SHL -/
def execShl (x : BitR) (s : State) : Res := s.shR x shlBits
/-- SHL, format I -/
def execShlI (x : ShI) (s : State) : Res := s.shI x shlBits
/-- SHR -/
def execShr (x : BitR) (s : State) : Res := s.shR x shrBits
/-- SHR, format I -/
def execShrI (x : ShI) (s : State) : Res := s.shI x shrBits
/-- SAR -/
def execSar (x : BitR) (s : State) : Res := s.shR x sarBits
/-- SAR, format I -/
def execSarI (x : ShI) (s : State) : Res := s.shI x sarBits
/-- ROT -/
def execRot (x : BitR) (s : State) : Res := s.shR x rotBits
/-- ROT, format I -/
def execRotI (x : ShI) (s : State) : Res := s.shI x rotBits

/-- Number of 1 bits among the low `w`. -/
def popBits : Nat → Nat → Nat
  | 0, _ => 0
  | w + 1, a => a % 2 + popBits w (a / 2)
/-- Number of leading 0 bits of a `w`-bit number. -/
def clzBits (w a : Nat) : Nat := if a = 0 then w else w - 1 - Nat.log2 a
/-- The low `w` bits in reverse order. -/
def revBits : Nat → Nat → Nat
  | 0, _ => 0
  | w + 1, a => a % 2 * 2 ^ w + revBits w (a / 2)

/-- POPC: one register even from a pair. -/
def execPopc (x : BitU) (s : State) : Res := s.bitU x 1 fun a => popBits (32 * x.ty.regs) a
/-- CLZ: one register even from a pair. -/
def execClz (x : BitU) (s : State) : Res := s.bitU x 1 fun a => clzBits (32 * x.ty.regs) a
/-- BREV -/
def execBrev (x : BitU) (s : State) : Res := s.bitU x x.ty.regs fun a => revBits (32 * x.ty.regs) a

/-- Position and length of a control operand, clipped to the width (R217). -/
def fieldCtl (w b : Nat) : Nat × Nat :=
  let pos := min (b % 256) w
  (pos, min (b / 256 % 256) (w - pos))

/-- BFX (R217) -/
def execBfx (x : IntR) (s : State) : Res :=
  .next (s.alu x.c x.d x.ty.regs [x.a, x.b] (some (latI x.ty.regs)) false false fun l =>
    let w := tyBits x.ty
    let (pos, len) := fieldCtl w (s.src l x.b 1)
    let f := s.src l x.a x.ty.regs / 2 ^ pos % 2 ^ len
    { val := wrap w (if len = 0 then 0 else if tySigned x.ty then sext len f else f) })

/-- BFI (R217) -/
def execBfi (x : BitRC) (s : State) : Res :=
  .next (s.alu x.c x.d x.ty.regs [x.a, x.b, x.e] (some (latI x.ty.regs)) false false fun l =>
    let (pos, len) := fieldCtl (32 * x.ty.regs) (s.src l x.b 1)
    { val := putBits (s.src l x.e x.ty.regs) pos len (s.src l x.a x.ty.regs) })

/-! ## Addresses, moves and selection (R218, R219) -/

/-- LEA: A plus B × 2^s modulo 2^64. -/
def execLea (x : LeaR) (s : State) : Res :=
  .next (s.alu x.c x.d 2 [x.a, x.b] (some 5) false false fun l =>
    { val := wrap 64 ((s.src l x.a 2 : Int) + s.srcI l x.b x.ty * 2 ^ x.sh.val) })

/-- LEA, format I -/
def execLeaI (x : LeaI) (s : State) : Res :=
  .next (s.alu x.c x.d 2 [x.a] (some 5) false false fun l =>
    { val := wrap 64 ((s.src l x.a 2 : Int) + x.imm.toInt) })

/-- MOV -/
def execMov (x : BitU) (s : State) : Res := s.bitU x x.ty.regs id

/-- MOVI -/
def execMovi (x : MoviR) (s : State) : Res :=
  .next (s.alu x.c x.d 1 [] (some 4) false false fun _ => { val := x.imm.toNat })

/-- SEL: A where the predicate holds, else B, in each lane. -/
def execSel (x : SelR) (s : State) : Res :=
  .next (s.alu x.c x.d x.ty.regs [x.a, x.b] (some (latI x.ty.regs)) false false fun l =>
    { val := if s.reg l (160 + x.q.val) = 1 then s.src l x.a x.ty.regs else s.src l x.b x.ty.regs })

/-! ## Comparisons and predicate logic (R220, R221) -/

/-- A condition of CMP. -/
def condHolds (c : Cond) (a b : Int) : Bool :=
  match c with
  | .eq => a = b | .ne => a ≠ b | .lt => a < b | .le => a ≤ b | .gt => a > b | .ge => a ≥ b

/-- CMP -/
def execCmp (x : CmpR) (s : State) : Res :=
  .next (s.aluP x.c x.pd (latI x.ty.regs) fun l => (condHolds x.cond (s.srcI l x.a x.ty) (s.srcI l x.b x.ty), 0))

/-- CMP, format I: 17 bits, sign- or zero-extended by type. -/
def execCmpI (x : CmpI) (s : State) : Res :=
  .next (s.aluP x.c x.pd (latI x.ty.regs) fun l =>
    (condHolds x.cond (s.srcI l x.a x.ty)
      (tyRead x.ty (if tySigned x.ty then wrap 64 x.imm.toInt else x.imm.toNat)), 0))

/-- PAND -/
def execPand (x : PredR) (s : State) : Res :=
  .next (s.aluP x.c x.pd 4 fun l => (s.reg l (160 + x.pa.val) = 1 && s.reg l (160 + x.pb.val) = 1, 0))
/-- POR -/
def execPor (x : PredR) (s : State) : Res :=
  .next (s.aluP x.c x.pd 4 fun l => (s.reg l (160 + x.pa.val) = 1 || s.reg l (160 + x.pb.val) = 1, 0))
/-- PXOR -/
def execPxor (x : PredR) (s : State) : Res :=
  .next (s.aluP x.c x.pd 4 fun l => (s.reg l (160 + x.pa.val) != s.reg l (160 + x.pb.val), 0))
/-- PNOT -/
def execPnot (x : PredU) (s : State) : Res := .next (s.aluP x.c x.pd 4 fun l => (s.reg l (160 + x.pa.val) != 1, 0))

end Sys2Proof.Machine
end

