-- ==== Sys2Proof/Machine/MemSteps.lean ====
section
/-! DEFINITION. Memory operations in flight: requests, the steps of the home slices (R95, R107, R111, R112, R119),
responses and completion (R156), fences (R114, R115) and page walks (R86). A step whose condition does not hold
leaves the state as it is and stays due. -/

namespace Sys2Proof.Machine

/-! ## Issued instructions and their completion -/

/-- The record of an issued instruction. -/
def Group.outOf (g : Group) (iid : Nat) : Option OutInst := g.out.find? fun o => o.iid == iid

/-- Change a record. -/
def Group.outMod (g : Group) (iid : Nat) (f : OutInst → OutInst) : Group :=
  { g with out := g.out.map fun o => if o.iid = iid then f o else o }

/-- Remove a record. -/
def Group.outDel (g : Group) (iid : Nat) : Group := { g with out := g.out.filter fun o => o.iid != iid }

/-- One memory operation of an instruction is answered: its register writes and FPS flags are kept for completion. -/
def State.outDone (s : State) (t g iid : Nat) (ws : List (Nat × Nat × W32)) (fps : Nat) : State :=
  match ((s.tile t).group g).outOf iid with
  | none => s
  | some o =>
    let s := s.modGroup t g fun G =>
      G.outMod iid fun o => { o with rem := o.rem - 1, res := o.res ++ ws, fps := o.fps ||| fps }
    if o.rem ≤ 1 then s.push [.instructionComplete t g iid] else s

/-- Raise a trap for an instruction issued earlier. -/
def State.raiseAt (s : State) (t g pc : Nat) (word : W64) (lanes : BitVec 32) (lane : Nat) (cls : TrapClass)
    (cause info1 info2 : Nat) : State :=
  let c := s.cur
  let s := { s with cur := { tile := t, slot := g, sub := lanes, pc := pc, word := word } }
  { s.raise lanes lane cls cause info1 info2 with cur := c }

/-- A record written against a group without stopping it (R375, R377, R390). -/
def State.noteTrap (s : State) (t g pc : Nat) (word : W64) (cls : TrapClass) (cause info1 info2 : Nat) : State :=
  (s.modGroup t g fun G => { G with traps := G.traps ++ [{
    cls := cls, cause := cause, lane := 0xFF, pc := pc, word := word, info1 := info1, info2 := info2, lanes := 0
    time := s.wtime, nested := G.inh }] }).push [.trapDeliver t g]

/-- Lanes of a group that wait for an instruction to complete. -/
def Group.waitersOf (g : Group) (iid : Nat) : BitVec 32 :=
  maskOf ((List.range 32).filter fun l => (g.lane l).wait == .inst iid)

/-- Earlier-issued instructions of the group can still set flags of a register that an MFS reads (R137). -/
def Group.flagsPending (g : Group) (o : OutInst) : Bool :=
  g.out.any fun p => decide (p.iid < o.iid) &&
    ((o.kind / 8 % 2 == 1 && p.kind % 2 == 1) || (o.kind / 8 % 2 == 1 && p.kind / 4 % 2 == 1) ||
      (o.kind / 16 % 2 == 1 && p.kind / 2 % 2 == 1))

/-- What an MFS of FPS or ISTAT reads when it completes (R137). -/
def Group.flagWrites (g : Group) (o : OutInst) : List (Nat × Nat × W32) :=
  if o.kind / 8 % 2 = 1 then o.dst.map fun d => (d.1, d.2, g.fps)
  else if o.kind / 16 % 2 = 1 then o.dst.map fun d => (d.1, d.2, g.istat)
  else []

/-- Some engine command of the list has not finished (R255). -/
def State.cmdsLive (s : State) (l : List Nat) : Bool :=
  l != [] && s.tiles.any fun x => (x.2.copies.any fun c => l.contains c.id) || (x.2.arr.q.any fun c => l.contains c.id) ||
    x.2.arr.latch.any fun e => l.contains e.cmd.id

/-- INSTRUCTION_COMPLETE (R156): the register writes and flag updates are done, the instruction leaves its tag's record
and the lanes that waited for it go on; a clock-step halt puts it off (R235). A flag whose enable is 1 raises ARITH where the instruction held its lanes for
it, and nothing is written (R137, R352). -/
def execInstructionComplete (t g iid : Nat) (s : State) : Res :=
  let G := (s.tile t).group g
  match G.outOf iid with
  | none => .next s
  | some o =>
    if s.haltedAt t || o.rem ≠ 0 || s.cmdsLive o.cmds || s.cycle t < o.ready || G.flagsPending o || !(o.hor == 0 || s.passed t o.hor) then
      .next (s.again (.instructionComplete t g iid))
    else
      let o := { o with res := o.res ++ G.flagWrites o }
      let w := G.waitersOf iid
      let trapF := if w ≠ 0 && o.kind % 2 = 1 then G.fpsTrap o.fps else 0
      let trapI := if w ≠ 0 && o.kind / 2 % 2 = 1 then G.istTrap o.ist else 0
      let s1 := s.modGroup t g fun G => (G.outLose (s.cycle t) iid).orFlags o.fps o.ist
      if trapF ≠ 0 then
        .next (s1.raiseAt t g o.pc o.word w (flagLane G.fpsTrap (o.byLane.map fun x => (x.1, x.2.1))) .arith 1 o.fps 0)
      else if trapI ≠ 0 then
        .next (s1.raiseAt t g o.pc o.word w (flagLane G.istTrap (o.byLane.map fun x => (x.1, x.2.2))) .arith 2 o.ist 0)
      else
        let n := G.copies o.res
        let s2 := (s1.modTile t fun T => (T.bindFrz [o]).savesDone [o]).modGroup t g fun G => (o.res.foldl Group.wr G).advance w
        .next (if G.priv = .user then s2.count t 3 n else s2)

/-! ## Requests -/

/-- LEASECAP of the active context of a tile. -/
def Tile.cap (T : Tile) : Nat := T.ctl.leasecap

/-- A memory operation of a lane of the issuing group, as the tile sends it: owner, due time and lease are those of
issue (R101, R111, R297). -/
def State.mkReq (s : State) (lane iid : Nat) (kind : ReqKind) (va pa size d : Nat) (vol noAlloc : Bool)
    (dst : Option Reg) : Req :=
  let t := s.cur.tile
  let T := s.T
  let x := s.curTeam
  { tile := t, tag := T.tag, gen := T.gen, ctx := T.ctl.ctx, owner := s.ownerOf t x, slot := s.cur.slot, gid := s.G.gid,
    team := s.G.team, lane := lane, iid := iid, pc := s.cur.pc, word := s.cur.word, kind := kind, va := va, pa := pa,
    size := size, d := d, due := s.dueTime t x T.cap d, lease := s.leaseOf t x T.cap d, vol := vol, noAlloc := noAlloc,
    dst := dst, place := 0, rtile := 0, rteam := 0, perf := false, val := 0, sect := 0, comp := 0, flags := 0, ecc := 0,
    arr := false, since := 0, ord := 0 }

/-- KIND of a packet in the drop log (Table 18.2). -/
def ReqKind.meshKind : ReqKind → Nat
  | .spLoad => 0
  | .spStore _ => 1
  | .spawn _ _ => 3
  | _ => 2

/-- The tile-mesh packet that carries a request (R289); `port` and `seq` are those of its last hop: the port by which it came,
0 at its source and 5 inside its destination tile, and its number in the order of arrival. -/
def Req.packet (r : Req) (id : Nat) : Packet :=
  { tag := r.tag, gen := r.gen, stile := r.tile, dest := r.rtile, resp := false, vc := 0, kind := r.kind.meshKind,
    owner := r.owner, req := id, place := r.place, off := r.va, port := 0, seq := id }

/-- Enter a drop in the log and count it at its tile (R388, R389). -/
def State.logDrop (s : State) (t : Nat) (p : Packet) (reason : Nat) : State :=
  let T := s.tile t
  let e : DropEnt := { wtime := s.wtime, dtile := t, dtag := T.tag + 1024 * T.gen, ptag := p.tag + 1024 * p.gen,
                       stile := p.stile, dest := p.dest, reason := reason, kind := p.kind, owner := p.owner }
  (s.modTile t fun T => { T with drops := min (T.drops + 1) (2 ^ 32 - 1) }).modKs fun k =>
    { k with dropLog := (e :: k.dropLog).take 65536 }

/-- A response of a spine reaches a tile that has changed hands: it is discarded and logged (R292, R388). -/
def State.stray (s : State) (id : Nat) (r : Req) : State :=
  (s.delReq id).logDrop r.tile { r.packet id with dest := r.tile, resp := true, kind := 7 } 4

/-- The step that performs a request. -/
def Req.step (r : Req) (id : Nat) : Instr :=
  match r.kind with
  | .load _ => if regionOf r.pa = .plinth then .sliceRead id else .loadResponse id
  | .pref => .sliceRead id
  | .peerLoad => .loadResponse id
  | .store _ => .sliceStoreApply id
  | .hostStore _ | .peerStore _ => .storeAck id
  | .atom _ _ _ | .red _ _ => .sliceAtomicApply id
  | .gather _ => .sliceGather id
  | .spLoad | .spStore _ | .spStf _ | .spSet _ | .spLdf _ | .spSte _ | .spawn _ _ =>
    .routerPacketReceive r.tile (r.packet id)

/-- The module that a peer window of a partition leads to (R334). -/
def State.peerModule (s : State) (tag w : Nat) : Nat :=
  (((s.part tag).bind fun P => P.peers.find? fun x => x.w == w).map (·.module)).getD 0

/-- The Jarlet port that leads to another module: which one is open. -/
def portTo (module : Nat) : Nat := Config.portOf module % 64

/-- The shared link that a request leaves the module by (R301): 0 to 3 the host links, 4 to 67 the Jarlet ports. -/
def State.linkOf (s : State) (r : Req) : Option Nat :=
  match r.kind, regionOf r.pa with
  | .peerLoad, .peer tag w _ | .peerStore _, .peer tag w _ =>
    let p := portTo (s.peerModule tag w)
    if (s.jarlet p).up then some (4 + p) else none
  | _, .host _ _ => (s.part r.tag).map (·.link)
  | _, _ => none

/-- An access through a peer window. -/
def ReqKind.isPeer : ReqKind → Bool
  | .peerLoad | .peerStore _ => true
  | _ => false

/-- Send a request: its identifier is the next one. One that leaves the module waits at its link (R302); a peer access whose
port is down is lost (R422). -/
def State.send (s : State) (r : Req) : State :=
  let link := s.linkOf r
  let r := if r.kind.isPeer && link.isNone then { r with ecc := 1 } else r
  let s1 := ((s.setReq s.nextId r).push [r.step s.nextId]).fresh
  match link with
  | none => s1
  | some l =>
    let f : LinkFlit := { tag := r.tag, owner := r.owner, req := s.nextId }
    (s1.modKs fun k => { k with flits := amSet k.flits l ((amGet k.flits l).getD [] ++ [f]) }).again
      (.linkFlitSend l [] (if l < 4 then 1 else 2))

/-- The flit of a request still waits at its link. -/
def State.flitWaits (s : State) (id : Nat) : Bool := s.ks.flits.any fun l => l.2.any fun f => f.req == id

/-- A Jarlet port goes down with its keys erased: the flits that wait there are lost, and the peer accesses among them will be
answered so (R422). -/
def State.portOff (s : State) (p : Nat) (inService : Bool) : State :=
  let lost := ((amGet s.ks.flits (4 + p)).getD []).map (·.req)
  let s := { s with reqs := s.reqs.map fun (q : Nat × Req) => (q.1, if lost.contains q.1 then { q.2 with ecc := 1 } else q.2) }
  let s := s.setJarlet p { s.jarlet p with inService := inService, up := false, key0 := 0, key1 := 0 }
  s.modKs fun k => { k with flits := amDel k.flits (4 + p) }

/-- The request is a store-like access of R114: global store, atomic or RED. -/
def ReqKind.isStore : ReqKind → Bool
  | .store _ | .atom _ _ _ | .red _ _ | .peerStore _ => true
  | _ => false

/-- The request is a load-like access that FENCE.A waits for (R115). -/
def ReqKind.isRead : ReqKind → Bool
  | .load _ | .peerLoad | .atom _ _ _ | .gather _ | .spLoad | .spLdf _ => true
  | _ => false

/-- The request is a remote scratchpad access. -/
def ReqKind.isRemote : ReqKind → Bool
  | .spLoad | .spStore _ | .spStf _ | .spSet _ | .spLdf _ | .spSte _ => true
  | _ => false

/-- A request that travels on the tile mesh. -/
def ReqKind.onMesh (k : ReqKind) : Bool := k.isRemote || (match k with
  | .spawn _ _ => true
  | _ => false)

/-- A full/empty request of a group, which waits at its word. -/
def Req.isFe (r : Req) : Bool := match r.kind with
  | .spLdf _ | .spSte _ => true
  | _ => false

/-- The threads of a group that an access belongs to: those of its subset on the scalar path, else its lane. -/
def Group.threadsOf (g : Group) (r : Req) : BitVec 32 :=
  if r.lane = 32 then ((g.outOf r.iid).map (·.lanes)).getD (maskOf (List.range 32)) else maskOf [r.lane]

/-- Global lines that a request reaches: those of its elements for a gather (R95). -/
def Req.lines (r : Req) : List Nat := match r.kind with
  | .gather idx => (idx.map fun i => (r.pa + 4 * i) / 256).eraseDups
  | _ => [r.pa / 256]

/-- Requests of one group. -/
def State.reqsOf (s : State) (t g : Nat) : AMap Req :=
  s.reqs.filter fun r => r.2.tile == t && r.2.slot == g && r.2.gid == ((s.tile t).group g).gid

/-- A completion time enters the release horizon of the issuing group, and of its team (R60, R112). -/
def State.ackRh (s : State) (r : Req) (c : Nat) : State :=
  s.modTile r.tile fun T =>
    let T := T.modTeam r.team fun x => { x with rh := max x.rh c }
    let G := T.group r.slot
    if G.gid = r.gid then T.setGroup r.slot { G with rh := max G.rh c } else T

/-- Earlier requests of the group to the lines of a request are performed (R108). -/
def State.lineOrder (s : State) (id : Nat) (r : Req) : Bool :=
  !s.reqs.any fun q => decide (q.1 < id) && q.2.tile == r.tile && q.2.slot == r.slot && q.2.gid == r.gid && !q.2.perf &&
    !q.2.kind.onMesh && q.2.lines.any r.lines.contains

/-- No earlier store of the team to the lines of a request is unacknowledged (R108). -/
def State.teamOrder (s : State) (id : Nat) (r : Req) : Bool :=
  !s.reqs.any fun q => decide (q.1 < id) && q.2.tile == r.tile && q.2.team == r.team && q.2.kind.isStore &&
    q.2.lines.any r.lines.contains

/-- The response still belongs to the requester's partition and generation (R292). -/
def State.reqLive (s : State) (r : Req) : Bool := (s.tile r.tile).tag == r.tag && (s.tile r.tile).gen == r.gen

/-- Data accesses that a slice serves are counted as served from L2 or from the plinth (R348), for privilege U. -/
def State.countServed (s : State) (r : Req) (hit : Bool) : State :=
  let T := s.tile r.tile
  if s.reqLive r && T.ctl.ctx == r.ctx && (T.group r.slot).priv == .user then s.count r.tile (if hit then 6 else 7) 1 else s

/-- Fills of a tile in flight for a sector. -/
def Req.isFill (q : Req) (tile sec : Nat) : Bool :=
  q.tile == tile && q.perf && q.pa / 128 == sec && (match q.kind with
    | .load f => f
    | .pref => true
    | _ => false)

/-! ## The slices' steps -/

/-- SLICE_READ (R111): a home slice serves a load, a fill or a prefetch. -/
def execSliceRead (id : Nat) (s : State) : Res :=
  match s.req id with
  | none => .next s
  | some r =>
    let fill := match r.kind with
      | .load f => some f
      | .pref => some true
      | _ => none
    match fill with
    | none => .next s
    | some fill =>
      if r.perf then .next s
      else if !s.lineOrder id r || !s.teamOrder id r then .next (s.again (.sliceRead id))
      else
        let src := s.eccSource r.pa
        let bad := s.poisoned r.pa r.size
        let badSec := s.poisoned (r.pa / 128 * 128) 128
        let x := s.l2Touch r.tag r.owner r.pa r.d r.due (!r.vol && !r.noAlloc) false
        let s := x.1.countServed r x.2
        if bad && r.kind != .pref then
          .next ((s.setReq id { r with perf := true, ecc := 1 + src, kind := .load false }).push [.loadResponse id])
        else if r.kind == .pref && badSec then .next (s.delReq id)
        else
          let fill := fill && !badSec
          let s := if fill then s.grantLease r.pa r.lease else s
          let val := Memory.read s.mem r.pa r.size
          let sect := Memory.read s.mem (r.pa / 128 * 128) 128
          let kind := if r.kind == .pref then .pref else .load fill
          .next ((s.setReq id { r with perf := true, val := val, sect := sect, kind := kind, ord := s.nextId }).fresh.push
            [if fill then .l1Fill id else .loadResponse id])

/-- Register writes of a value returned to a lane. -/
def Req.writes (r : Req) (v : Nat) : List (Nat × Nat × W32) :=
  match r.dst with
  | some d => spread r.lane d (max 1 (r.size / 4)) v
  | none => []

/-- L1_FILL (R93): the L1 takes the sector under the lease and due time of the request, with the later stores of its own
tile in place; fills of a sector come in the order in which they were read at home (R109). A sector that an atomic of the tile
has reached, a field in skew hold (R379) and a tile that no longer runs the context take nothing. The declared distance is
counted from the fill's arrival (log 104). -/
def execL1Fill (id : Nat) (s : State) : Res :=
  match s.req id with
  | none => .next s
  | some r =>
    let fills := r.isFill r.tile (r.pa / 128)
    let sec := r.pa / 128
    if !fills then .next s
    else if s.reqs.any fun q => q.1 != id && q.2.isFill r.tile sec && decide (q.2.ord < r.ord) then .next (s.again (.l1Fill id))
    else
      let T := s.tile r.tile
      let mine := s.reqs.filter fun q => q.2.tile == r.tile && q.2.pa / 128 == sec && !q.2.perf
      let blocked := mine.any fun q => match q.2.kind with
        | .atom _ _ _ | .red _ _ | .gather _ => true
        | _ => false
      let ok := s.reqLive r && T.ctl.ctx == r.ctx && !blocked && !(s.field (fieldOf r.tile)).hold
      let data := mine.foldl (fun d q => match q.2.kind with
        | .store v => overlay d (q.2.pa % 128) q.2.size v
        | _ => d) (leBytes 128 r.sect)
      let now := s.tileTime r.tile
      let line : L1Line := { line := sec, data := data, lease := r.lease, due := r.due, dist := r.due - now, fill := now,
                             held := r.d == 15 }
      let s := if ok then s.setTile r.tile (T.l1Put now line) else s
      match r.kind with
      | .pref => .next (s.delReq id)
      | _ => .next ((s.setReq id { r with kind := .load false }).push [.loadResponse id])

/-- A load that met an uncorrectable error writes nothing and traps precisely (R375). -/
def State.eccLoad (s : State) (id : Nat) (r : Req) : State :=
  let G := (s.tile r.tile).group r.slot
  let o := (G.outOf r.iid).map (·.lanes)
  let s := { s with reqs := s.reqs.filter fun q => !(q.2.tile == r.tile && q.2.slot == r.slot && q.2.iid == r.iid) }
  match o with
  | none => s.delReq id
  | some lanes =>
    let s := s.modGroup r.tile r.slot fun G => G.outDel r.iid
    s.raiseAt r.tile r.slot r.pc r.word lanes (if r.lane = 32 then 0xFF else r.lane) .ecc 4 r.va (r.ecc - 1)

/-- LOAD_RESPONSE (R107, R156): the value returns to the lane. A load through a host or peer window takes its value
here; a peer's refusal raises XLATE cause 8 (R334). -/
def execLoadResponse (id : Nat) (s : State) : Res :=
  match s.req id with
  | none => .next s
  | some r =>
    if !s.reqLive r then .next (s.stray id r)
    else if s.flitWaits id then .next (s.again (.loadResponse id))
    else match r.kind, regionOf r.pa with
    | .load true, _ => .next s
    | .load false, .host w off =>
      let v := Memory.read s.host (hostKey w (s.ctx r.tag r.ctx) off) r.size
      .next (((s.delReq id).chargeHost r.owner r.size).outDone r.tile r.slot r.iid (r.writes v) 0)
    | .peerLoad, _ =>
      let G := (s.tile r.tile).group r.slot
      if r.ecc ≠ 0 || Config.pick s.free 2 % 2 = 1 then
        let lanes := ((G.outOf r.iid).map (·.lanes)).getD 0
        let s := { s with reqs := s.reqs.filter fun q => !(q.2.tile == r.tile && q.2.slot == r.slot && q.2.iid == r.iid) }
        let s := (s.modGroup r.tile r.slot fun G => G.outDel r.iid).drawn
        .next (s.raiseAt r.tile r.slot r.pc r.word lanes (if r.lane = 32 then 0xFF else r.lane) .xlate 8 r.va 0)
      else
        .next (((s.delReq id).drawn).outDone r.tile r.slot r.iid (r.writes (Config.freeNat (s.free + 1))) 0)
    | .load false, _ | .gather _, _ =>
      if !r.perf then .next s
      else if r.ecc ≠ 0 then .next (s.eccLoad id r)
      else .next ((s.delReq id).outDone r.tile r.slot r.iid (r.writes r.val) 0)
    | _, _ => .next s

/-- The fills in flight of a store's own tile take its bytes (R93). -/
def State.patchFills (s : State) (r : Req) (v : Nat) : State :=
  { s with reqs := s.reqs.map fun q =>
      if q.2.isFill r.tile (r.pa / 128) then
        (q.1, { q.2 with sect := putBits q.2.sect (8 * (r.pa % 128)) (8 * r.size) v })
      else q }

/-- The fills in flight of an atomic's own tile install nothing (R93): the loads among them return what they have read, and the
prefetches end. -/
def State.killFills (s : State) (r : Req) : State :=
  let hit (q : Nat × Req) : Bool := q.2.isFill r.tile (r.pa / 128)
  let reqs := s.reqs.filterMap fun (q : Nat × Req) =>
    if !hit q then some q else if q.2.kind = .pref then none else some (q.1, { q.2 with kind := .load false })
  State.push { s with reqs := reqs } ((s.reqs.filter fun q => hit q && q.2.kind != .pref).map fun q => .loadResponse q.1)

/-- SLICE_STORE_APPLY (R107, R112): the store is applied at its home and takes its completion time. -/
def execSliceStoreApply (id : Nat) (s : State) : Res :=
  match s.req id with
  | none => .next s
  | some r =>
    match r.kind with
    | .store v =>
      if r.perf then .next s
      else if !s.lineOrder id r then .next (s.again (.sliceStoreApply id))
      else if (s.field (homeField r.pa)).stopped then
        .next ((s.setReq id { r with perf := true, ecc := 1 + s.eccSource r.pa }).push [.storeAck id])
      else
        let x := s.l2Touch r.tag r.owner r.pa r.d r.due (!r.vol && !r.noAlloc) true
        let s := (x.1.countServed r x.2).clearPoison r.pa r.size
        let s := (s.putMem r.pa r.size v).patchFills r v
        .next ((s.setReq id { r with perf := true, comp := s.complTime r.pa }).push [.storeAck id])
    | _ => .next s

/-- STORE_ACK (R107, R112): the acknowledgement returns and its completion time enters RH. A store through a host window
is written here and waits for the link's flush (R114); one through a peer window carries the remote c plus 8 (R334). -/
def execStoreAck (id : Nat) (s : State) : Res :=
  match s.req id with
  | none => .next s
  | some r =>
    if !s.reqLive r then .next (s.stray id r)
    else match r.kind with
    | .store _ =>
      if !r.perf then .next s
      else if s.reqs.any fun q => decide (q.1 ≠ id) && q.2.isFill r.tile (r.pa / 128) then .next (s.again (.storeAck id))
      else
        let s := (s.delReq id).ackRh r r.comp
        let s := if r.ecc = 0 then s else s.noteTrap r.tile r.slot r.pc r.word .ecc 4 r.va (r.ecc - 1)
        .next (s.outDone r.tile r.slot r.iid [] 0)
    | .hostStore v =>
      if r.perf then .next s
      else if s.flitWaits id then .next (s.again (.storeAck id))
      else
        let k := match regionOf r.pa with
          | .host w off => hostKey w (s.ctx r.tag r.ctx) off
          | _ => 0
        let s := (s.setHost (Memory.write s.host k r.size v)).chargeHost r.owner r.size
        .next ((s.setReq id { r with perf := true }).outDone r.tile r.slot r.iid [] 0)
    | .peerStore _ =>
      if s.flitWaits id then .next (s.again (.storeAck id)) else
      let s1 := (if r.ecc = 0 then (s.delReq id).chargeJar r.owner r.size else s.delReq id).drawn
      let answer := if r.ecc ≠ 0 then 1 else Config.pick s.free 3 % 3
      if answer ≠ 0 then
        let s2 := s1.post r.tag r.ctx
          { kind := 3, gslot := r.slot, place := (s.tile r.tile).place, value := answer
            info := if answer = 2 then Config.freeNat (s.free + 2) % 2 ^ 64 else 0 }
        .next (s2.outDone r.tile r.slot r.iid [] 0)
      else
        let c := Config.freeNat (s.free + 1) + 8
        let s2 := s1.ackRh r c
        .next (s2.outDone r.tile r.slot r.iid [] 0)
    | _ => .next s

/-! ## Atomics (R244 to R246) -/

/-- The new value, whether it is written, and the FPS flags, from old, b and d (Table 10.4). -/
def atApply (op : AtOp) (old b d : Nat) : Nat × Bool × Nat :=
  match op with
  | .add t => (wrap (tyBits t) ((old + b : Nat) : Int), true, 0)
  | .min t => (if tyRead t b < tyRead t old then b else old, true, 0)
  | .max t => (if tyRead t old < tyRead t b then b else old, true, 0)
  | .and _ => (old &&& b, true, 0)
  | .or _ => (old ||| b, true, 0)
  | .xor _ => (old ^^^ b, true, 0)
  | .xchg _ => (b, true, 0)
  | .cas _ => (if old = b then d else old, decide (old = b), 0)
  | .fadd .bf16 =>
    let lo := fpAdd Fmt.bf16 .rne (old % 65536) (b % 65536)
    let hi := fpAdd Fmt.bf16 .rne (old / 65536) (b / 65536)
    (lo.1 + 65536 * hi.1, true, lo.2 ||| hi.2)
  | .fadd t =>
    let r := fpAdd (fmtOf t) .rne old b
    (r.1, true, r.2)

/-- SLICE_ATOMIC_APPLY (R119, R245): one indivisible read and write at home. -/
def execSliceAtomicApply (id : Nat) (s : State) : Res :=
  match s.req id with
  | none => .next s
  | some r =>
    let ops := match r.kind with
      | .atom op b d => some (op, b, d, false)
      | .red op b => some (op, b, 0, true)
      | _ => none
    match ops with
    | none => .next s
    | some (op, b, d, isRed) =>
      if r.perf then .next s
      else if !s.lineOrder id r then .next (s.again (.sliceAtomicApply id))
      else match regionOf r.pa with
      | .host w off =>
        if s.flitWaits id then .next (s.again (.sliceAtomicApply id)) else
        let k := hostKey w (s.ctx r.tag r.ctx) off
        let old := Memory.read s.host k r.size
        let n := atApply op old b d
        let s := (if n.2.1 then s.setHost (Memory.write s.host k r.size n.1) else s).chargeHost r.owner r.size
        .next ((s.setReq id { r with perf := true, val := old, flags := n.2.2, comp := s.wtime }).push [.atomResponse id])
      | _ =>
        let f := homeField r.pa
        if s.poisoned r.pa r.size then
          .next ((s.setReq id { r with perf := true, ecc := 1 + s.eccSource r.pa, comp := s.complTime r.pa }).push
            [.atomResponse id])
        else
          let x := s.l2Touch r.tag r.owner r.pa r.d r.due true true
          let s := x.1.countServed r x.2
          let old := Memory.read s.mem r.pa r.size
          let n := atApply op old b d
          let s := (if n.2.1 then s.putMem r.pa r.size n.1 else s).killFills r
          let F := s.field f
          let s := if isRed then
              s.setField f { F with status := amPut 0 F.status r.tag ((amGet F.status r.tag).getD 0 ||| n.2.2) }
            else s
          .next ((s.setReq id { r with perf := true, val := old, flags := n.2.2, comp := s.complTime r.pa }).push
            [.atomResponse id])

/-- ATOM_RESPONSE (R119, R246): old value, flags and completion time return. A poisoned granule traps an ATOM and is
reported for a RED without stopping it (R375). -/
def execAtomResponse (id : Nat) (s : State) : Res :=
  match s.req id with
  | none => .next s
  | some r =>
    if !s.reqLive r then .next (s.stray id r)
    else if !r.perf then .next s
    else
      let up (s : State) : State := (s.delReq id).ackRh r r.comp
      match r.kind with
      | .atom _ _ _ =>
        if r.ecc ≠ 0 then .next (s.eccLoad id r) else .next ((up s).outDone r.tile r.slot r.iid (r.writes r.val) r.flags)
      | .red _ _ =>
        let s := up s
        let s := if r.ecc = 0 then s else s.noteTrap r.tile r.slot r.pc r.word .ecc 4 r.va (r.ecc - 1 + 4)
        .next (s.outDone r.tile r.slot r.iid [] 0)
      | _ => .next s

/-- SLICE_GATHER (R248): the elements of a gather, each read as a home load in its own line. -/
def execSliceGather (id : Nat) (s : State) : Res :=
  match s.req id with
  | none => .next s
  | some r =>
    match r.kind with
    | .gather idx =>
      if r.perf then .next s
      else if !s.lineOrder id r || !s.teamOrder id r then .next (s.again (.sliceGather id))
      else
        let pas := idx.map fun i => r.pa + 4 * i
        let s := pas.foldl (fun s a => let x := s.l2Touch r.tag r.owner a r.d r.due true false; x.1.countServed r x.2) s
        match pas.find? fun a => s.poisoned a 4 with
        | some a =>
          .next ((s.setReq id { r with perf := true, ecc := 1 + s.eccSource a, va := r.va + (a - r.pa) }).push
            [.loadResponse id])
        | none =>
          let v := pas.foldr (fun a acc => Memory.read s.mem a 4 + 2 ^ 32 * acc) 0
          .next ((s.setReq id { r with perf := true, val := v }).push [.loadResponse id])
    | _ => .next s

/-- HOST_FLUSH_COMPLETION (R114): the flush of the host link that State.cur names confirms its stores; a COPY's host
writes are confirmed, and an invalidation that waited for them is completed (R319, R419). -/
def execHostFlushCompletion (s : State) : Res :=
  let mine (tag : Nat) : Bool := ((s.part tag).map (·.link)).getD 0 == s.cur.tile
  let s1 := { s with
    reqs := s.reqs.filter fun q => !(q.2.perf && (match q.2.kind with
      | .hostStore _ => true
      | _ => false) && mine q.2.tag)
    queues := s.queues.map fun (q : Nat × Queue) =>
      if mine q.2.cfg.tag then
        (q.1, { q.2 with copy := q.2.copy.map fun (j : CopyJob) => { j with flush := false }, drain := [] })
      else q }
  .next (((s.queues.filter fun q => mine q.2.cfg.tag).flatMap fun q => q.2.drain.map fun d => (q.2.cfg, d.1)).foldl
    (fun s x => s.invalDone x.1.tag x.1.pasid x.2) s1)

/-! ## Fences (R114, R115) -/

/-- A release at a scope over the requests before `upto` is satisfied (Table 5.1). -/
def State.relOk (s : State) (t g : Nat) (sc : Scope) (upto : Nat) : Bool :=
  match sc with
  | .team => !(s.reqsOf t g).any fun q => decide (q.1 < upto) && q.2.isFe && q.2.rtile == t
  | sc =>
    s.passed t ((s.tile t).group g).rh &&
    !(s.reqsOf t g).any fun q => decide (q.1 < upto) && (q.2.kind.isStore || q.2.kind.isRemote ||
      (sc == .sys && (match q.2.kind with
        | .hostStore _ => true
        | _ => false)))

/-- The earlier loads, atomics, gathers and LDFs of the lanes are performed (R115). -/
def State.acqOk (s : State) (t g : Nat) (lanes : BitVec 32) (upto : Nat) : Bool :=
  !(s.reqsOf t g).any fun q => decide (q.1 < upto) && q.2.kind.isRead && !q.2.perf && (q.2.lane == 32 || bit lanes q.2.lane)

/-- A fence of a kind and scope is satisfied. -/
def State.fenceOk (s : State) (t g : Nat) (k : FenceKind) (sc : Scope) (lanes : BitVec 32) (upto : Nat) : Bool :=
  match k with
  | .rel => s.relOk t g sc upto
  | .acq => s.acqOk t g lanes upto
  | .acqRel => s.relOk t g sc upto && s.acqOk t g lanes upto

/-- A system-scope wait of a tile asks its host link for the flush completion (R114). -/
def State.flushFor (s : State) (t : Nat) (sc : Scope) : State :=
  if sc = .sys then s.againAt (((s.part (s.tile t).tag).map (·.link)).getD 0) 0 .hostFlushCompletion else s

/-- The token of a FENCE, BAR or WAITO clears when the wait of its lanes ends (R238). -/
def State.waitEnds (s : State) (t g : Nat) (lanes : BitVec 32) : State :=
  let mine (o : OutInst) : Bool := o.kind / 8192 % 2 == 1 && o.lanes &&& lanes != 0 && o.rem != 0
  let ids := (((s.tile t).group g).out.filter mine).map (·.iid)
  (s.modGroup t g fun G => { G with out := G.out.map fun (o : OutInst) => if mine o then { o with rem := 0 } else o }).push
    (ids.map fun i => .instructionComplete t g i)

/-- A unit reads OWNER = 0 and a PHASE; a WAITO sees a flip back in the tile cycle after it (R127, R252). -/
def UnitSt.ready (u : UnitSt) (cyc : Nat) (ph : Bool) : Bool := !u.own && u.phase == ph && decide (u.backAt ≤ cyc)

/-- Units of a team of a tile are ready for a WAITO. -/
def State.unitsReady (s : State) (t team : Nat) (acc ph : Bool) (us : List Nat) : Bool :=
  (((s.tile t).team team).map fun x => us.all fun j => (if acc then x.region j else x.slab j).ready (s.cycle t) ph).getD true

/-- Lanes of a group acquire at partition scope after an instruction that has ended; its token clears with that wait (R123). -/
def State.acquireThen (s : State) (t g : Nat) (sc : Scope) (lanes : BitVec 32) : State :=
  if s.acqOk t g lanes s.nextId then s.waitEnds t g lanes
  else (s.modGroup t g fun G => G.modMask lanes fun L => { L with wait := .fence .acq sc s.nextId false }).push
    ((lanesOf lanes).take 1 |>.map fun l => .fenceWaitEnd t g l)

/-- FENCE_WAIT_END (R115): the lanes that wait as `lane` does go on where the condition of their fence holds; those of a BAR
then wait at its barrier (R250), and those of a WAITO acquire (R252). -/
def execFenceWaitEnd (t g lane : Nat) (s : State) : Res :=
  let G := (s.tile t).group g
  let w := (G.lane lane).wait
  let lanes := maskOf ((List.range 32).filter fun l => (G.lane l).wait == w)
  match w with
  | .fence k sc upto rpt =>
    if s.fenceOk t g k sc lanes upto then
      .next ((s.modGroup t g fun G => G.modMask lanes fun L => { L with wait := .none, relDone := rpt }).waitEnds t g
        (if rpt then 0 else lanes))
    else .next ((s.flushFor t sc).again (.fenceWaitEnd t g lane))
  | .relBar cl sc upto =>
    if s.relOk t g sc upto then
      .next ((s.modGroup t g fun G => G.modMask lanes fun L => { L with wait := .bar cl }).push [.barrierComplete t G.team cl])
    else .next (s.again (.fenceWaitEnd t g lane))
  | .units acc ph us =>
    if s.unitsReady t G.team acc ph us then .next ((s.modGroup t g fun G => G.advance lanes).acquireThen t g .part lanes)
    else .next (s.again (.fenceWaitEnd t g lane))
  | _ => .next s

/-- Lanes of the issuing subset begin to wait for a fence. -/
def State.startFence (s : State) (lanes : BitVec 32) (k : FenceKind) (sc : Scope) (upto : Nat) (rpt : Bool) : State :=
  match lanesOf lanes with
  | [] => s
  | l :: _ =>
    (s.modG fun g => g.modMask lanes fun L => { L with wait := .fence k sc upto rpt }).push
      [.fenceWaitEnd s.cur.tile s.cur.slot l]
      |>.flushFor s.cur.tile sc

/-- A release before an access (R116): `k` runs once the release has been performed, else the subset waits for it. -/
def State.withRelease (s : State) (rel : Option Scope) (k : State → State) : State :=
  match rel with
  | none => k s
  | some sc =>
    if (lanesOf s.cur.sub).all fun l => (s.G.lane l).relDone then k s
    else if s.relOk s.cur.tile s.cur.slot sc s.nextId then k s
    else s.startFence s.cur.sub .rel sc s.nextId true

/-- An acquire after an access (R116): the subset waits until the reads before it are performed. -/
def State.withAcquire (s : State) (acq : Option Scope) (lanes : BitVec 32) : State :=
  match acq with
  | none => s
  | some sc =>
    if s.acqOk s.cur.tile s.cur.slot lanes s.nextId then s else s.startFence lanes .acq sc s.nextId false

/-! ## Page walks (R86) -/

/-- PAGE_WALK: a walker of the field takes the walk where one is free. -/
def execPageWalk (w : Nat) (s : State) : Res :=
  match amGet s.walks w with
  | none => .next s
  | some W =>
    if W.started then .next s
    else
      let busy := (s.walks.filter fun x => x.2.field == W.field && x.2.started).length
      if busy < (s.field W.field).walkers && !(s.field W.field).stopped then
        .next ({ s with walks := amSet s.walks w { W with started := true } }.push [.walkComplete w])
      else .next (s.again (.pageWalk w))

/-- A walk's answer reaches a requester of the walk's partition and generation (R292): its TLBs take a translation whose check
passes (R369), and its lanes go on. -/
def State.answer (s : State) (W : Walk) (r : WalkRes) (q : WalkReq) : State :=
  let T := s.tile q.tile
  if T.tag ≠ W.tag || T.gen ≠ W.gen || T.ctl.ctx ≠ W.ctx then s
  else
    let install := match r with
      | .ok e => (match e.check (W.page * 65536) q.kind q.priv with
        | .ok _ => !W.noInstall
        | _ => false)
      | _ => false
    let T := match r with
      | .ok e => if install then T.install e else T
      | _ => T
    let G := T.group q.slot
    let G := { G with walkAns := (W.page, r) :: G.walkAns.filter fun a => a.1 != W.page }
    let G := G.mapLanes fun _ L => if L.wait = .walk then { L with wait := .none } else L
    s.setTile q.tile (T.setGroup q.slot G)

/-- WALK_COMPLETE (R82 to R86): the walk reads the tables and answers every merged requester from the one result. -/
def execWalkComplete (w : Nat) (s : State) : Res :=
  match amGet s.walks w with
  | none => .next s
  | some W =>
    if !W.started then .next s
    else
      let r := s.walk W.tag W.ctx W.root (W.page * 65536)
      .next (W.req.foldl (fun s q => s.answer W r q) { s with walks := amDel s.walks w })

end Sys2Proof.Machine
end

