-- ==== Sys2Proof/Machine/MemInst.lean ====
section
/-! DEFINITION. Loads, stores, prefetch, full/empty accesses, atomics, gathers, fences, barriers and owner bits as
instructions (R236 to R252): addresses and their checks, then the effect or the requests that carry it out. -/

namespace Sys2Proof.Machine

/-! ## Effective addresses (R236) -/

/-- A lane's address after its checks: global, own scratchpad, another tile's scratchpad, a missing translation, or
the lane's fault. -/
inductive EA where
  | mem (va : Nat) (e : TlbEnt)
  | loc (off : Nat)
  | far (place tile team off : Nat)
  | miss (va : Nat)
  | bad (cls : TrapClass) (cause info1 info2 : Nat)
  deriving DecidableEq, Repr

/-- The lanes that access memory: one on the scalar path, else the active ones (R161, R237). -/
def State.memLanes (s : State) (c : Ctl) (regs : List Reg) : List Nat :=
  if regs.any Reg.isV then s.active c else (s.active c).take 1

/-- The lane under which a lane's accesses are listed: 32 on the scalar path. -/
def accLane (regs : List Reg) (l : Nat) : Nat := if regs.any Reg.isV then l else 32

/-- The lane that a trap names: none on the scalar path (R354). -/
def trapLaneOf (regs : List Reg) (l : Nat) : Nat := if regs.any Reg.isV then l else 0xFF

/-- A global address: bits [63:56], alignment to `al`, translation, and the device window's own check. `noDev` refuses
device pages and peer windows, as ATOM, RED and GTH do. -/
def State.eaGlobal (s : State) (kind : AccKind) (noDev : Bool) (al ea : Nat) : EA :=
  if 2 ^ 56 ≤ ea then .bad .xlate 1 ea 0
  else if ea % al ≠ 0 then .bad .align 1 ea al
  else match s.translate s.cur.tile s.cur.slot ea kind with
    | .miss => .miss ea
    | .fault two _ info => .bad .xlate (if two then 3 else 2) ea info
    | .ok e =>
      match regionOf (e.phys ea) with
      | .device _ off =>
        if noDev then .bad .xlate 8 ea 0
        else if devAllowed off s.priv then .mem ea e
        else .bad .xlate 3 ea (e.ppa + (ea - e.va))
      | .peer _ _ _ => if noDev then .bad .xlate 8 ea 0 else .mem ea e
      | _ => if noDev && e.dev then .bad .xlate 8 ea 0 else .mem ea e

/-- The checks of a scratchpad offset against a team (R236). -/
def spCheck (x : Team) (off : Int) (n : Nat) (ok : Nat → EA) : EA :=
  if off < 0 || off + n > x.spSize then .bad .xlate 4 (wrap 64 off) x.spSize
  else
    let o := off.toNat
    if o % n ≠ 0 then .bad .align 1 o n
    else if (x.slab (o / 4096)).own then .bad .owner 1 (o / 4096) 0
    else ok o

/-- A scratchpad offset of the own team; the agent's slot has none. -/
def State.eaLocal (s : State) (off : Int) (n : Nat) : EA :=
  match s.curTeam with
  | none => .bad .xlate 4 (wrap 64 off) 0
  | some x => spCheck x off n .loc

/-- A scratchpad offset at a logical place (R78). -/
def State.eaRemote (s : State) (lp : Nat) (off : Int) (n : Nat) : EA :=
  match s.T.placeOf lp with
  | .error c => .bad .place c lp 0
  | .ok t =>
    if t = s.cur.tile then s.eaLocal off n
    else match s.curTeam with
      | none => .bad .xlate 5 lp 0
      | some x =>
        match s.mateOn s.cur.tile x t with
        | none => .bad .xlate 5 lp 0
        | some y => spCheck y off n fun o => .far lp t y.id o

/-- The address of a lane in the offset layout (R165, R236). -/
def State.eaOf (s : State) (m : MSp) (kind : AccKind) (n : Nat) (a : Reg) (l : Nat) : EA :=
  match m with
  | .gl off => s.eaGlobal kind false n (wrap 64 ((s.src l a 2 : Int) + off.toInt * n))
  | .sp off => s.eaLocal ((s.src l a 1 : Int) + off.toInt * n) n
  | .rem k off => s.eaRemote (s.reg l (128 + k.val)).toNat ((s.src l a 1 : Int) + off.toInt * n) n

/-- Bytes of an access width (R165). -/
def wdBytes : Wd → Nat
  | .b8 => 1 | .b16 => 2 | .b32 => 4 | .b64 => 8 | .b128 => 16

/-- The lowest faulting lane of an instruction. -/
def firstBad : List (Nat × EA) → Option (Nat × TrapClass × Nat × Nat × Nat)
  | [] => none
  | (l, .bad c k i j) :: _ => some (l, c, k, i, j)
  | _ :: r => firstBad r

/-- The addresses whose translations are missing. -/
def missing (l : List (Nat × EA)) : List Nat := l.filterMap fun x => match x.2 with
  | .miss va => some va
  | _ => none

/-- A slab of the own team that an address lies in has not come back by the pool exchange (R70). -/
def State.slabAway (s : State) (eas : List (Nat × EA)) : Bool := eas.any fun x => match x.2 with
  | .loc off => !s.T.slabsHere s.G.team [off / 4096]
  | _ => false

/-- An instruction whose addresses are checked: it holds its subset while walks are awaited, traps at its lowest
faulting lane without effect, and else goes on with `k` (R236, R352). A place table under repair holds it (R374), and so does a
slab that the pool exchange has not brought yet (R70). -/
def State.withAddrs (s : State) (regs : List Reg) (kind : AccKind) (eas : List (Nat × EA)) (k : State → Res) : Res :=
  if s.T.tableBad && eas.any (fun x => match x.2 with
    | .far _ _ _ _ => true
    | .bad .place _ _ _ => true
    | _ => false) then .next (s.hold .none)
  else match missing eas with
  | [] =>
    let s := s.modG fun g => { g with walkAns := [] }
    (match firstBad eas with
    | some (l, c, cause, i, j) =>
      let s := if c = .xlate && cause = 3 then s.logFault s.T.tag j else s
      .next (s.trapLane (trapLaneOf regs l) c cause i j)
    | none =>
      if eas.any fun x => (match x.2 with
        | .mem va e => regionOf (e.phys va) == .reserved
        | _ => false) then .fault .reservedPhysical
      else if s.slabAway eas then .next (s.hold .none)
      else k s)
  | vas =>
    .next ((vas.foldl (fun s va => s.startWalk s.cur.tile s.cur.slot va kind) s).hold .walk)

/-! ## Loads (R239, R240) -/

/-- A fold over lanes: the state, the register writes made so far, and the operations still outstanding. -/
structure Acc where
  s : State
  ws : List (Nat × Nat × W32) := []
  n : Nat := 0

/-- The threads of the issuing subset whose accesses these lanes are: the whole subset on the scalar path. -/
def State.threads (s : State) (lanes : List Nat) : BitVec 32 := if lanes.contains 32 then s.cur.sub else maskOf lanes

/-- The byte that the last unacknowledged store of these threads has given to an address. -/
def State.ownByte (s : State) (m : BitVec 32) (pa : Nat) : Option Nat :=
  (s.reqsOf s.cur.tile s.cur.slot).foldl (fun a q => match q.2.kind with
    | .store v =>
      if !q.2.vol && m &&& ~~~(s.G.threadsOf q.2) = 0 && q.2.pa ≤ pa && pa < q.2.pa + q.2.size then
        some (v / 256 ^ (pa - q.2.pa) % 256)
      else a
    | _ => a) none

/-- The value that the earlier unacknowledged stores of the thread give to a load, where they give every byte (R108). -/
def State.forwarded (s : State) (lane pa n : Nat) : Option Nat :=
  (List.range n).foldr (fun i a => match s.ownByte (s.threads [lane]) (pa + i), a with
    | some b, some v => some (b + 256 * v)
    | _, _ => none) (some 0)

/-- An earlier volatile access of these threads is not yet performed, or not acknowledged if it is a store (R118). -/
def State.volBusy (s : State) (lanes : List Nat) : Bool :=
  (s.reqsOf s.cur.tile s.cur.slot).any fun q => q.2.vol && s.G.threadsOf q.2 &&& s.threads lanes != 0 &&
    (!q.2.perf || q.2.kind.isStore || (match q.2.kind with
      | .spStore _ => true
      | _ => false))

/-- A fill for an earlier load of these threads has not reached the L1: a load that would hit the copy there waits for it, as it
may not return an older value than that load (R109). -/
def State.fillAhead (s : State) (lanes : List Nat) (sec : Nat) : Bool :=
  (s.reqsOf s.cur.tile s.cur.slot).any fun q => q.2.kind == .load true && q.2.pa / 128 == sec &&
    s.G.threadsOf q.2 &&& s.threads lanes != 0

/-- One global access is volatile: its modifier, a device page, or a device or peer window (R84, R118, R334). -/
def isVol (m : Bool) (e : TlbEnt) (pa : Nat) : Bool :=
  m || e.dev || (match regionOf pa with
    | .device _ _ | .peer _ _ _ => true
    | _ => false)

/-- A load of one lane from global memory (R93, R108, R118). One that misses and takes its value from the thread's own store
still fills the line. -/
def Acc.load (a : Acc) (lane iid d n : Nat) (vol : Bool) (dst : Reg) (va : Nat) (e : TlbEnt) : Acc :=
  let s := a.s
  let pa := e.phys va
  let now (s : State) (v : Nat) : Acc := { a with s := s, ws := a.ws ++ spread lane dst (max 1 (n / 4)) v }
  let send (s : State) (k : ReqKind) (d : Nat) (vol : Bool) : Acc :=
    { a with s := s.send (s.mkReq lane iid k va pa n d vol vol (some dst)), n := a.n + 1 }
  match regionOf pa with
  | .device tag off => now s (s.devRead tag off n)
  | .peer _ _ _ => send (s.countU 12 4) .peerLoad 0 true
  | .host _ _ => send s (.load false) 0 (isVol vol e pa)
  | _ =>
    let vol := isVol vol e pa
    let d := if vol || (s.field (fieldOf s.cur.tile)).hold then 0 else d
    let t := s.cur.tile
    let hit := if d = 0 then none else s.T.l1Find (s.tileTime t) (pa / 128)
    match hit with
    | some x =>
      let due := s.dueTime t s.curTeam s.T.cap d
      let s := s.countU 4 1
      now (s.setTile t (s.T.l1Mod (pa / 128) fun x => x.declare (s.tileTime t) d due)) (sliceNum x.data (pa % 128) n)
    | none =>
      let s := if d = 0 then s else s.countU 5 1
      match if vol then none else s.forwarded lane pa n with
      | some v => now (if d = 0 then s else s.send (s.mkReq lane 0 .pref va pa n d false false none)) v
      | none => send s (.load (d != 0)) d vol

/-- A load of one lane (R240). -/
def Acc.ld (a : Acc) (lane iid d n : Nat) (vol : Bool) (dst : Reg) : EA → Acc
  | .mem va e => a.load lane iid d n vol dst va e
  | .loc off =>
    let v := ((a.s.curTeam).map fun x => x.spRead off n).getD 0
    { a with ws := a.ws ++ spread lane dst (max 1 (n / 4)) v }
  | .far place tile team off =>
    { a with
      s := a.s.send { a.s.mkReq lane iid .spLoad off 0 n 0 vol false (some dst) with place := place, rtile := tile, rteam := team }
      n := a.n + 1 }
  | _ => a

/-- Some access of an instruction is volatile (R84, R118). -/
def anyVol (m : Bool) (eas : List (Nat × EA)) : Bool := eas.any fun y => match y.2 with
  | .mem va e => isVol m e (e.phys va)
  | _ => m

/-- A load would hit an L1 copy ahead of an earlier load's fill (R109). -/
def State.hitsEarly (s : State) (lanes : List Nat) (d : Nat) (vol : Bool) (eas : List (Nat × EA)) : Bool :=
  d != 0 && eas.any fun y => match y.2 with
    | .mem va e =>
      let sec := e.phys va / 128
      !isVol vol e (e.phys va) && (s.T.l1Find (s.tileTime s.cur.tile) sec).isSome && s.fillAhead lanes sec
    | _ => false

/-- The granule, or the peer's answer, can still trap the load: it holds its subset (R352, R375). -/
def State.mayTrap (s : State) (eas : List (Nat × EA)) (n : Nat) : Bool :=
  eas.any fun x => match x.2 with
    | .mem va e => (match regionOf (e.phys va) with
      | .plinth => s.poisoned (e.phys va) n
      | .peer _ _ _ => true
      | _ => false)
    | _ => false

/-- The first lane whose own scratchpad bytes hold an uncorrectable error (R374). -/
def State.spEcc (s : State) (eas : List (Nat × EA)) (n : Nat) : Option (Nat × Nat) :=
  (eas.find? fun x => match x.2 with
    | .loc off => s.T.badSp s.G.team off n
    | _ => false).map fun x => (x.1, match x.2 with
    | .loc off => off
    | _ => 0)

/-- The end of an instruction with memory operations outstanding: its record counts them, TCLK advances, and the
instruction completes at once where none is left. It holds its subset where an operation can still trap it. -/
def State.memEnd (s : State) (iid : Nat) (a : Acc) (dst : List (Nat × Nat)) (held : Bool) : State :=
  let s1 := a.s.modG fun g => g.outMod iid fun o => { o with rem := a.n, res := a.ws, dst := dst }
  let s2 := s1.tick
  let s3 := if a.n = 0 then s2.push [.instructionComplete s.cur.tile s.cur.slot iid] else s2
  if held && a.n != 0 then s3.hold (.inst iid) else s3.next

/-- The reads before an acquiring access that holds its subset until it completes are not yet performed: it waits for
them first (R116). -/
def State.acqBusy (s : State) (acq : Option Scope) (held : Bool) : Bool :=
  held && acq.isSome && !s.acqOk s.cur.tile s.cur.slot s.cur.sub s.nextId

/-- The acquire of an access that did not hold its subset. -/
def State.acqEnd (s : State) (acq : Option Scope) (held : Bool) (lanes : BitVec 32) : State :=
  if held then s else s.withAcquire acq lanes

/-- Register codes that an instruction writes, by lane. -/
def dstCodes (lanes : List Nat) (d : Reg) (n : Nat) : List (Nat × Nat) :=
  lanes.flatMap fun l => (List.range n).map fun j => (hazLane l d.code, d.code + j)

/-- LD (R239, R240) -/
def execLd (x : LdR) (s : State) : Res :=
  let regs := [x.d, x.a]
  let n := wdBytes x.w
  let ls := s.memLanes x.c regs
  let eas := ls.map fun l => (l, s.eaOf x.m .read n x.a l)
  let vol := x.ord == .vol
  let acq := match x.ord with
    | .acq sc => some sc
    | _ => none
  s.withAddrs regs .read eas fun s =>
    let held := s.mayTrap eas n
    let me := ls.map (accLane regs)
    if (anyVol vol eas && s.volBusy me) || s.acqBusy acq held || s.hitsEarly me x.reuse.val vol eas then .next (s.hold .none)
    else match s.spEcc eas n with
    | some (l, off) => .next (s.trapLane (trapLaneOf regs l) .ecc 3 off 0)
    | none =>
      let iid := s.nextId
      let s0 := s.issueOut { s.outInst x.c with rem := 1, kind := 64 }
      let a := eas.foldl (fun (a : Acc) y => a.ld (accLane regs y.1) iid x.reuse.val n vol x.d y.2) { s := s0 }
      let s1 := s.memEnd iid a (dstCodes (ls.map (accLane regs)) x.d (max 1 (n / 4))) held
      .next (s1.acqEnd acq held s.cur.sub)

/-! ## Stores (R239, R240) -/

/-- RH takes a completion time. -/
def State.raiseRh (s : State) (c : Nat) : State :=
  s.modTile s.cur.tile fun T =>
    let T := T.modTeam (T.group s.cur.slot).team fun x => { x with rh := max x.rh c }
    T.setGroup s.cur.slot { T.group s.cur.slot with rh := max (T.group s.cur.slot).rh c }

/-- A store of one lane to global memory (R93, R112, R118). -/
def Acc.store (a : Acc) (lane iid d n : Nat) (vol : Bool) (v va : Nat) (e : TlbEnt) : Acc :=
  let s := a.s
  let pa := e.phys va
  let send (s : State) (k : ReqKind) (d : Nat) (vol : Bool) : Acc :=
    { a with s := s.send (s.mkReq lane iid k va pa n d vol vol none), n := a.n + 1 }
  match regionOf pa with
  | .device tag off => { a with s := (s.devWrite tag off n v s.priv).raiseRh s.wtime }
  | .peer _ _ _ => send (s.countU 12 4) (.peerStore v) 0 true
  | .host _ _ => send s (.hostStore v) 0 (isVol vol e pa)
  | _ =>
    let vol := isVol vol e pa
    let t := s.cur.tile
    let now := s.tileTime t
    let due := s.dueTime t s.curTeam s.T.cap d
    let s := match s.T.l1Find now (pa / 128) with
      | some _ => s.setTile t (s.T.l1Mod (pa / 128) fun x =>
          { x.declare now d due with data := overlay x.data (pa % 128) n v })
      | none => s
    send s (.store v) (if vol then 0 else d) vol

/-- A store of one lane (R240). One to the own scratchpad is performed as it issues: R117 leaves its order against accesses to
other locations open (log 105). -/
def Acc.st (a : Acc) (lane iid d n : Nat) (vol : Bool) (v : Nat) : EA → Acc
  | .mem va e => a.store lane iid d n vol v va e
  | .loc off => { a with s := a.s.modTile a.s.cur.tile fun T => T.modTeam a.s.G.team fun x => x.spWrite off n v }
  | .far place tile team off =>
    { a with
      s := a.s.send { a.s.mkReq lane iid (.spStore v) off 0 n 0 vol false none with place := place, rtile := tile, rteam := team }
      n := a.n + 1 }
  | _ => a

/-- ST (R239, R240) -/
def execSt (x : StR) (s : State) : Res :=
  let regs := [x.d, x.a]
  let n := wdBytes x.w
  let ls := s.memLanes x.c regs
  let eas := ls.map fun l => (l, s.eaOf x.m .write n x.a l)
  let vol := x.ord == .vol
  let rel := match x.ord with
    | .rel sc => some sc
    | _ => none
  s.withAddrs regs .write eas fun s =>
    if anyVol vol eas && s.volBusy (ls.map (accLane regs)) then .next (s.hold .none)
    else .next (s.withRelease rel fun s =>
      let iid := s.nextId
      let s0 := s.issueOut { s.outInst x.c with rem := 1 }
      let a := eas.foldl (fun (a : Acc) y =>
        a.st (accLane regs y.1) iid x.reuse.val n vol (s.src y.1 x.d x.w.regs % 256 ^ n) y.2) { s := s0 }
      s.memEnd iid a [] false)

/-- PREF (R241): each lane whose address is good fills its line; the others do nothing. -/
def execPref (x : PrefR) (s : State) : Res :=
  let regs := [x.a]
  let ls := s.memLanes x.c regs
  let eas := ls.map fun l => (l, s.eaGlobal .read false 1 (wrap 64 ((s.src l x.a 2 : Int) + x.off.toInt * wdBytes x.w)))
  match missing eas with
  | [] =>
    let one (s : State) (y : Nat × EA) : State := match y.2 with
      | .mem va e =>
        let pa := e.phys va
        if regionOf pa ≠ .plinth || e.dev || (s.field (fieldOf s.cur.tile)).hold then s
        else
          let s := s.countU (if (s.T.l1Find (s.tileTime s.cur.tile) (pa / 128)).isSome then 4 else 5) 1
          s.send (s.mkReq (accLane regs y.1) 0 .pref va pa 1 x.reuse.val false false none)
      | _ => s
    .next ((eas.foldl one (s.modG fun g => { g with walkAns := [] })).tick.retire x.c [] [] (some 0) false false)
  | vas => .next ((vas.foldl (fun s va => s.startWalk s.cur.tile s.cur.slot va .read) s).hold .walk)

/-! ## Full/empty accesses (R124, R242) -/

/-- The scope of a full/empty access: team for local words, cluster with a remote one among them or with .c (R124). A place
that is the tile's own names a local word (R78). -/
def feScope (wide : Bool) (eas : List (Nat × EA)) : Scope :=
  if wide || eas.any (fun x => match x.2 with
    | .far _ _ _ _ => true
    | _ => false) then .cluster else .team

/-- A word turns full or empty. -/
def Team.setFull (x : Team) (word : Nat) (f : Bool) : Team :=
  { x with full := if f then (if x.full.contains word then x.full else word :: x.full) else x.full.filter (· != word) }

/-- Requests that wait at a word: one for each lane not yet performed; the subset holds until all are (R242). -/
def State.feQueue (s : State) (x : FeR) (kind : AccKind) (mk : Nat → ReqKind) (dst : Option Reg) : Res :=
  let regs := [x.d, x.a]
  let ls := (s.memLanes x.c regs).filter fun l => !(s.G.lane l).done
  let eas := ls.map fun l => (l, s.eaOf x.m kind 4 x.a l)
  s.withAddrs regs kind eas fun s =>
    match if kind = .read then s.spEcc eas 4 else none with
    | some (l, off) => .next (s.trapLane (trapLaneOf regs l) .ecc 3 off 0)
    | none => .next (s.withRelease (if kind = .write then some (feScope x.wide eas) else none) fun s =>
      let iid := s.nextId
      let s0 := s.issueOut { s.outInst x.c with
        rem := eas.length, dst := if kind = .read then dstCodes (ls.map (accLane regs)) x.d 1 else [] }
      let one (s : State) (y : Nat × EA) : State :=
        let r (off place tile team : Nat) : Req :=
          { s.mkReq (accLane regs y.1) iid (mk y.1) off 0 4 0 false false dst with
            place := place, rtile := tile, rteam := team, since := s.wtime }
        match y.2 with
        | .loc off =>
          let id := s.nextId
          ((s.setReq id { r off 0xFFFFFFFF s.cur.tile s.G.team with arr := true, ord := s.nextId }).fresh).push
            [.feRequestServed s.cur.tile s.G.team (off / 4)]
        | .far place tile team off => s.send (r off place tile team)
        | _ => s
      let s1 := (eas.foldl one s0).tick
      if eas = [] then s1.push [.instructionComplete s.cur.tile s.cur.slot iid] |>.next
      else (s1.hold (.fe iid)).pushAt s1.cur.tile s1.cur.slot .fewaitTimeout)

/-- LDF (R242) -/
def execLdf (x : FeR) (s : State) : Res := s.feQueue x .read (fun _ => .spLdf x.take) (some x.d)

/-- STE (R242) -/
def execSte (x : FeR) (s : State) : Res := s.feQueue x .write (fun l => .spSte (s.src l x.d 1)) none

/-- A write to a word and its state by each lane: at once on the own tile, by a request on another (R242). -/
def State.feWrite (s : State) (c : Ctl) (regs : List Reg) (m : MSp) (a : Reg) (rel : Option Bool)
    (loc : Nat → Nat → Team → Team) (mk : Nat → ReqKind) : Res :=
  let ls := s.memLanes c regs
  let eas := ls.map fun l => (l, s.eaOf m .write 4 a l)
  s.withAddrs regs .write eas fun s => .next (s.withRelease (rel.map fun w => feScope w eas) fun s =>
    let iid := s.nextId
    let s0 := s.issueOut { s.outInst c with rem := 1 }
    let one (a : Acc) (y : Nat × EA) : Acc := match y.2 with
      | .loc off =>
        let st := a.s.modTile a.s.cur.tile fun T => T.modTeam a.s.G.team (loc y.1 off)
        { a with s := st.push [.feRequestServed st.cur.tile st.G.team (off / 4)] }
      | .far place tile team off =>
        { a with
          s := a.s.send { a.s.mkReq (accLane regs y.1) iid (mk y.1) off 0 4 0 false false none with
            place := place, rtile := tile, rteam := team }
          n := a.n + 1 }
      | _ => a
    s.memEnd iid (eas.foldl one { s := s0 }) [] false)

/-- STF (R242) -/
def execStf (x : FeR) (s : State) : Res :=
  s.feWrite x.c [x.d, x.a] x.m x.a (some x.wide)
    (fun l off y => (y.spWrite off 4 (s.src l x.d 1)).setFull (off / 4) true) fun l => .spStf (s.src l x.d 1)

/-- SETFE (R242) -/
def execSetfe (x : SetfeR) (s : State) : Res :=
  s.feWrite x.c [x.a] x.m x.a none (fun _ off y => y.setFull (off / 4) x.full) fun _ => .spSet x.full

/-! ## Atomics and gathers (R244 to R248) -/

/-- An operand of an atomic: .fadd reads floating constants, and .bf16 a pair of halves (R159, R244). -/
def State.srcAt (s : State) (l : Nat) (op : AtOp) (r : Reg) : Nat :=
  match op with
  | .fadd .bf16 => s.srcP l r Fmt.bf16
  | .fadd t => s.srcF l r (fmtOf t)
  | op => s.src l r op.regs

/-- The address of an atomic (R236). -/
def State.eaAt (s : State) (space : DSp) (n : Nat) (a : Reg) (l : Nat) : EA :=
  match space with
  | .gl => s.eaGlobal .readWrite true n (s.src l a 2)
  | .sp => s.eaLocal (s.src l a 1) n

/-- The old value and flags that a scratchpad atomic leaves (R245). -/
def State.atLocal (s : State) (op : AtOp) (off b d : Nat) : State × Nat × Nat :=
  match s.curTeam with
  | none => (s, 0, 0)
  | some x =>
    let n := 4 * op.regs
    let old := x.spRead off n
    let r := atApply op old b d
    let s := if r.2.1 then s.modTile s.cur.tile fun T => T.modTeam s.G.team fun x => x.spWrite off n r.1 else s
    (s, old, r.2.2)

/-- Lanes of an ATOM or RED in order: requests to the home slices, or the scratchpad at once; FPS flags of the latter are
gathered. -/
def State.atLanes (s : State) (regs : List Reg) (iid : Nat) (op : AtOp) (mk : Nat → ReqKind) (vals : Nat → Nat × Nat)
    (dst : Option Reg) (eas : List (Nat × EA)) : Acc × Nat :=
  eas.foldl (fun (a : Acc × Nat) y => match y.2 with
    | .mem va e =>
      let s := a.1.s
      let pa := e.phys va
      let s := s.setTile s.cur.tile (s.T.l1Drop (pa / 128))
      ({ a.1 with
         s := s.send (s.mkReq (accLane regs y.1) iid (mk y.1) va pa (4 * op.regs) 14 false false dst)
         n := a.1.n + 1 }, a.2)
    | .loc off =>
      let v := vals y.1
      let r := a.1.s.atLocal op off v.1 v.2
      let ws := match dst with
        | some d => spread (accLane regs y.1) d op.regs r.2.1
        | none => []
      ({ a.1 with s := r.1, ws := a.1.ws ++ ws }, a.2 ||| r.2.2)
    | _ => a) ({ s := s }, 0)

/-- ATOM (R244 to R246) -/
def execAtom (x : AtomR) (s : State) : Res :=
  let regs := [x.d, x.a, x.b]
  let n := 4 * x.op.regs
  let ls := s.memLanes x.c regs
  let eas := ls.map fun l => (l, s.eaAt x.sp n x.a l)
  let rel := match x.ord with
    | .rel sc | .acqRel sc => some sc
    | _ => none
  let acq := match x.ord with
    | .acq sc | .acqRel sc => some sc
    | _ => none
  s.withAddrs regs .readWrite eas fun s =>
    let held := s.mayTrap eas n
    if s.acqBusy acq held then .next (s.hold .none)
    else match s.spEcc eas n with
    | some (l, off) => .next (s.trapLane (trapLaneOf regs l) .ecc 3 off 0)
    | none => .next (s.withRelease rel fun s =>
      let iid := s.nextId
      let s0 := s.issueOut { s.outInst x.c with rem := 1, kind := 4 + 64 }
      let v (l : Nat) : Nat × Nat := (s.srcAt l x.op x.b, s.src l x.d x.op.regs)
      let a := s0.atLanes regs iid x.op (fun l => .atom x.op (v l).1 (v l).2) v (some x.d) eas
      let acc := { a.1 with s := a.1.s.modG fun g => g.outMod iid fun o => { o with fps := a.2 } }
      (s.memEnd iid acc (dstCodes (ls.map (accLane regs)) x.d x.op.regs) held).acqEnd acq held s.cur.sub)

/-- RED (R244 to R246) -/
def execRed (x : RedR) (s : State) : Res :=
  let regs := [x.a, x.b]
  let n := 4 * x.op.regs
  let ls := s.memLanes x.c regs
  let eas := ls.map fun l => (l, s.eaAt x.sp n x.a l)
  s.withAddrs regs .readWrite eas fun s => .next (s.withRelease x.rel fun s =>
    let iid := s.nextId
    let s0 := s.issueOut { s.outInst x.c with rem := 1 }
    let v (l : Nat) : Nat × Nat := (s.srcAt l x.op x.b, 0)
    let a := s0.atLanes regs iid x.op (fun l => .red x.op (v l).1) v none eas
    s.memEnd iid a.1 [] false)

/-- The indices of a gather, 16 bits each (R248). -/
def gthIdx (b k : Nat) : List Nat := (List.range k).map fun i => bits b (16 * i) 16

/-- A gather's address: the base, then the indices (R248). -/
def State.eaGth (s : State) (x : GthR) (l : Nat) : EA :=
  let k := 2 ^ x.lk.val
  let ea := s.eaGlobal .read true 4096 (s.src l x.a 2)
  match ea with
  | .mem _ _ =>
    (match (gthIdx (s.src l x.b (if k ≤ 2 then 1 else k / 2)) k).find? fun i => decide (1024 ≤ i) with
    | some i => .bad .xlate 4 i 1024
    | none => ea)
  | ea => ea

/-- GTH (R248) -/
def execGth (x : GthR) (s : State) : Res :=
  let regs := [x.d, x.a, x.b]
  let k := 2 ^ x.lk.val
  let ls := s.memLanes x.c regs
  let eas := ls.map fun l => (l, s.eaGth x l)
  s.withAddrs regs .read eas fun s =>
    let held := eas.any fun y => match y.2 with
      | .mem va e => s.poisoned (e.phys va) 4096
      | _ => false
    if s.acqBusy x.acq held then .next (s.hold .none) else
    let iid := s.nextId
    let s0 := s.issueOut { s.outInst x.c with rem := 1, kind := 64 }
    let one (a : Acc) (y : Nat × EA) : Acc := match y.2 with
      | .mem va e =>
        let idx := gthIdx (s.src y.1 x.b (if k ≤ 2 then 1 else k / 2)) k
        let pa := e.phys va
        let st := a.s
        let st := st.setTile st.cur.tile (idx.foldl (fun T i => T.l1Drop ((pa + 4 * i) / 128)) st.T)
        { a with s := st.send (st.mkReq (accLane regs y.1) iid (.gather idx) va pa (4 * k) 14 false false (some x.d)),
                 n := a.n + 1 }
      | _ => a
    let s1 := s.memEnd iid (eas.foldl one { s := s0 }) (dstCodes (ls.map (accLane regs)) x.d k) held
    .next (s1.acqEnd x.acq held s.cur.sub)

/-! ## Fences and barriers (R249, R250) -/

/-- A FENCE, BAR or WAITO that waits is on record under its token until the wait ends (R156, R238). -/
def State.waitOut (s : State) (c : Ctl) : State :=
  if c.set.val = 0 then s else s.issueOut { s.outInst c with rem := 1, kind := 8192 }

/-- The issuing subset performs a fence, and waits behind it; with no active lane it has no effect. -/
def State.fence (s : State) (c : Ctl) (k : FenceKind) (sc : Scope) : State :=
  if s.active c = [] || s.fenceOk s.cur.tile s.cur.slot k sc s.cur.sub s.nextId then s.retire c [] [] (some 0) false false
  else (s.waitOut c).next.startFence s.cur.sub k sc s.nextId false

/-- FENCE.R (R249) -/
def execFenceR (c : Ctl) (sc : Scope) (s : State) : Res := .next (s.fence c .rel sc)
/-- FENCE.A (R249) -/
def execFenceA (c : Ctl) (sc : Scope) (s : State) : Res := .next (s.fence c .acq sc)
/-- FENCE.AR (R249) -/
def execFenceAr (c : Ctl) (sc : Scope) (s : State) : Res := .next (s.fence c .acqRel sc)

/-- BAR: the release, then the wait; in a group launched from a bin a FENCE.AR (R250). -/
def State.bar (s : State) (c : Ctl) (cluster : Bool) : State :=
  let sc : Scope := if cluster then .cluster else .team
  if s.G.fromBin then s.fence c .acqRel sc
  else
    let cl := cluster && !((s.curTeam.map (·.plain)).getD true)
    let r := s.waitOut c
    if s.relOk s.cur.tile s.cur.slot sc s.nextId then (r.hold (.bar cl)).push [.barrierComplete s.cur.tile s.G.team cl]
    else (r.hold (.relBar cl sc s.nextId)).push ((lanesOf s.cur.sub).take 1 |>.map fun l => .fenceWaitEnd s.cur.tile s.cur.slot l)

/-- BAR.T (R250) -/
def execBarT (c : Ctl) (s : State) : Res := .next (s.bar c false)
/-- BAR.C (R250) -/
def execBarC (c : Ctl) (s : State) : Res := .next (s.bar c true)

/-! ## Owner bits (R251, R252) -/

/-- Units of a kind that the issuing team holds: slabs, or accumulator regions. -/
def State.unitCount (s : State) (acc : Bool) : Nat :=
  (s.curTeam.map fun x => if acc then x.accRows / 16 else x.slabs).getD 0

/-- State of a unit of the issuing team. -/
def State.unitOf (s : State) (acc : Bool) (j : Nat) : UnitSt :=
  (s.curTeam.map fun x => if acc then x.region j else x.slab j).getD {}

/-- The value that OWN returns (R251). -/
def UnitSt.word (u : UnitSt) : Nat := (if u.own then 1 else 0) + (if u.phase then 2 else 0) + u.pend % 8 * 4

/-- OWN (R251): a read of OWNER = 0 is an acquire at partition scope (R123). -/
def execOwn (x : OwnR) (s : State) : Res :=
  let ls := s.laneSet x.c x.d [x.u]
  let unit (l : Nat) : Nat := s.src l x.u 1
  match ls.find? fun l => s.unitCount x.acc ≤ unit l with
  | some l => .next (s.trapLane (if x.u.isV then l else 0xFF) .xlate 4 (unit l) (s.unitCount x.acc))
  | none =>
    let free := ls.any fun l => !(s.unitOf x.acc (unit l)).own
    let s1 := s.alu x.c x.d 1 [x.u] (some 2) false false fun l => { val := (s.unitOf x.acc (unit l)).word }
    .next (if free then s1.withAcquire (some .part) s.cur.sub else s1)

/-- WAITO (R252): the subset waits until its units read OWNER = 0 and PHASE = ph, then acquires. -/
def execWaito (x : WaitoR) (s : State) : Res :=
  let ls := if x.u.isV then s.active x.c else (s.active x.c).take 1
  let unit (l : Nat) : Nat := s.src l x.u 1
  match ls.find? fun l => s.unitCount x.acc ≤ unit l with
  | some l => .next (s.trapLane (if x.u.isV then l else 0xFF) .xlate 4 (unit l) (s.unitCount x.acc))
  | none =>
    let us := (ls.map unit).eraseDups
    let t := s.cur.tile
    let g := s.cur.slot
    if ls = [] then .next (s.retire x.c [] [] (some 0) false false)
    else if !s.unitsReady t s.G.team x.acc x.ph us then
      .next (((s.waitOut x.c).hold (.units x.acc x.ph us)).push ((lanesOf s.cur.sub).take 1 |>.map fun l => .fenceWaitEnd t g l))
    else if s.acqOk t g s.cur.sub s.nextId then .next (s.retire x.c [] [] (some 0) false false)
    else .next ((s.waitOut x.c).next.startFence s.cur.sub .acq .part s.nextId false)

end Sys2Proof.Machine
end

