-- ==== Sys2Proof/Machine/Work.lean ====
section
/-! DEFINITION. Groups, templates, stamps and bins (R25, R34 to R48): FRZ, STAMP, SPAWN, the launches of stamped and
bin groups, waits for bins, and the freeing of a group's slot. -/

namespace Sys2Proof.Machine

/-! ## Groups -/

/-- Granted reservations of the active context (R56). -/
def Tile.granted (T : Tile) : List Resv := T.resv.filter fun r => r.granted && r.ctx == T.ctl.ctx

/-- Group slots of the tile that no group, no team's reservation and no granted cluster reservation holds (R34, R56). -/
def Tile.freeSlots (T : Tile) : List Nat :=
  (List.range 32).filter fun g =>
    !(((amGet T.ctl.groups g).getD {}).live || (T.ctl.teams.any fun x => x.2.resv.contains g) ||
      T.granted.any fun r => r.slots.contains g)

/-- A lane created from a template (R25): index register private, the template's registers backed. -/
def tmplLane (t : Template) (slot idx : Nat) : Lane :=
  { st := .live, pc := t.entry, via := .template, p := t.pred, tmpl := some slot, item := idx
    back := clrBit (t.mask ||| t.link) t.idx, v := amPut 0 [] t.idx (BitVec.ofNat 32 idx) }

/-- A group of items of one template; the rest of its lanes are empty (R25, R26). It issues no earlier than 8 tile
cycles after its launch (R41, R45). -/
def State.launchGroup (s : State) (tile g : Nat) (team : Nat) (slot : Nat) (items : List Nat) (fromBin : Bool) : State :=
  let T := s.tile tile
  match amGet T.store slot with
  | none => s
  | some t =>
    let lanes := (List.range 32).map fun l => match items[l]? with
      | some i => tmplLane t slot i
      | none => {}
    let G : Group := { live := true, team := team, gid := s.nextId, fromBin := fromBin, lanes := lanes, k := t.k,
                       nextCyc := s.cycle tile + 8, decCyc := s.cycle tile + 8 }
    (s.setTile tile (T.setGroup g G)).fresh

/-! ## Templates -/

/-- The template that a team has given a number, live or with its FRZ still to complete. -/
def Tile.tmplNamed (T : Tile) (x : Team) (num : Nat) : Option (Nat × Template) :=
  T.store.find? fun t => t.2.num == num && t.2.teams.contains x.id

/-- The live template that a team names by a number (R37). -/
def Tile.tmplOf (T : Tile) (x : Team) (num : Nat) : Option (Nat × Template) :=
  T.store.find? fun t => t.2.num == num && t.2.teams.contains x.id && t.2.live

/-- Free slots of the template store: empty, not disabled, and held by no granted reservation (R55, R56). -/
def Tile.freeTmpl (T : Tile) : List Nat :=
  (List.range 16).filter fun i => (amGet T.store i).isNone && !T.storeBad.contains i && !T.granted.any fun r => r.tslot == some i

/-- Slots in use, as INFO2 of a TMPL record gives them. -/
def Tile.tmplUsed (T : Tile) : Nat := 16 - T.freeTmpl.length

/-- FRZ (R40, R190, R191): the lowest active lane freezes its registers into a free slot, and the instruction completes
when the slot is bound. A name that another FRZ has taken and not yet bound counts as in use (R210). The entry address is
not truncated: one that is no address of 56 bits faults at the first fetch (R76). -/
def execFrz (c : Ctl) (idx : Fin 128) (mask : Reg) (t : Fin 16) (off : BitVec 16) (s : State) : Res :=
  match s.active c, s.curTeam with
  | [], _ => .next (s.retire c [] [] (some 0) false false)
  | _, none => .next (s.trapAll .tmpl 5 t.val 0)
  | l :: _, some x =>
    let T := s.T
    let L := s.G.lane l
    let m := BitVec.ofNat 128 (s.src l mask 4)
    let nv := [32, 48, 64, 96, 128].getD (bits T.ctl.pool.toNat 0 3) 128
    let parent := (L.tmpl.bind fun sl => amGet T.store sl)
    let depth := match parent with
      | some p => p.depth + 1
      | none => 1
    if (T.tmplNamed x t.val).isSome then .next (s.trapLane l .tmpl 1 t.val T.tmplUsed)
    else match T.freeTmpl with
    | [] => .next (s.trapLane l .tmpl 2 t.val T.tmplUsed)
    | slot :: _ =>
      if (List.range 128).any fun i => bit m i && decide (nv ≤ i) then .next (s.trapLane l .tmpl 3 t.val T.tmplUsed)
      else if 4 < depth then .next (s.trapLane l .tmpl 4 t.val T.tmplUsed)
      else if (parent.map (·.bad)).getD false then .next (s.trapLane l .ecc 2 ((parent.map (·.num)).getD 0) 0)
      else
        let sel := (List.range 128).filter fun i => bit m i && i != idx.val
        let priv := sel.filter fun i => !bit L.back i
        let new : Template := {
          ctx := T.ctl.ctx, cslot := T.act, teams := [x.id], seq := x.seq, num := t.val
          entry := wrap 64 ((s.cur.pc : Int) + 8 * off.toInt), idx := idx.val, parent := L.tmpl, depth := depth
          k := (List.range 32).foldl (fun m i => amPut 0 m i (s.reg l (128 + i))) []
          pred := clrBit L.p 0
          mask := sel.foldl setBit 0
          v := priv.foldl (fun m i => amPut 0 m i (s.reg l i)) []
          link := (sel.filter fun i => bit L.back i).foldl setBit 0
          live := false, host := false, bad := false }
        let s1 := s.modTile s.cur.tile fun T => { T with store := amSet T.store slot new }
        .next ((s1.issueOut { s.outInst c with kind := 32, frz := some slot }).push
          [.instructionComplete s.cur.tile s.cur.slot s.nextId]).next

/-! ## Stamps (R41) -/

/-- The groups that a STAMP queues: 32 items each, the last one shorter. -/
def stampGroups (slot base n : Nat) : List Stamped :=
  (List.range ((n + 31) / 32)).map fun i => { tmpl := slot, base := (base + 32 * i) % 2 ^ 32, n := min 32 (n - 32 * i) }

/-- STAMP (R41, R190) -/
def execStamp (c : Ctl) (t : Fin 16) (base n : Reg) (s : State) : Res :=
  match s.active c, s.curTeam with
  | [], _ => .next (s.retire c [] [] (some 0) false false)
  | _, none => .next (s.trapAll .tmpl 5 t.val 0)
  | l :: _, some x =>
    let cnt := s.src l n 1
    match s.T.tmplOf x t.val with
    | none => .next (s.trapAll .tmpl 5 t.val 0)
    | some (slot, tm) =>
      if 1024 < cnt then .next (s.trapAll .tmpl 6 cnt 0)
      else if tm.bad then .next (s.trapAll .ecc 2 t.val 0)
      else
        let gs := stampGroups slot (s.src l base 1) cnt
        if 32 < x.pend.length + gs.length then .next (s.hold .none)
        else
          let s := s.modTile s.cur.tile fun T => T.modTeam x.id fun x => { x with pend := x.pend ++ gs }
          .next ((s.push (gs.map fun _ => .stampedGroupLaunch s.cur.tile x.id)).retire c [] [] (some 0) false false)

/-- STAMPED_GROUP_LAUNCH (R41, R46): the first queued group takes the lowest free reserved slot of its team. While the
context is being preempted none is launched: R67 names claims, bin timers and bin launches only, and a group launched then
would have to be stopped for a full save (log 94). -/
def execStampedGroupLaunch (tile team : Nat) (s : State) : Res :=
  let T := s.tile tile
  match T.team team with
  | none => .next s
  | some x =>
    let free := x.resv.filter fun g => !(T.group g).live
    match x.pend, (List.range 32).find? fun g => free.contains g with
    | p :: rest, some g =>
      if T.ctl.noClaim then .next s
      else
        let items := (List.range p.n).map fun i => (p.base + i) % 2 ^ 32
        let s := s.setTile tile (T.setTeam { x with pend := rest })
        .next (s.launchGroup tile g team p.tmpl items false)
    | _, _ => .next s

/-! ## Bins (R44 to R47) -/

/-- An item takes its place in a bin: behind the earlier ones, and among those of its own tile cycle by group slot, the
local ones first (R48). -/
def itemInsert (it : Item) : List Item → List Item
  | [] => [it]
  | x :: r => if x.cyc == it.cyc && decide (it.src < x.src) then it :: x :: r else x :: itemInsert it r

/-- Offer an item to the bins of a tile: the bin of its template and team takes it while it has room, else the lowest
empty bin; none where it must wait (R45). -/
def Tile.binOffer (T : Tile) (slot team : Nat) (it : Item) : Option Tile :=
  let c := T.ctl
  let put (n : Nat) (b : Bin) : Tile :=
    let items := itemInsert it b.items
    let ready := decide (32 ≤ items.length) || c.bint == 0
    T.setCtl { c with bins := amSet c.bins n { b with
      items := items, ready := b.ready || ready, readyCyc := if ready && !b.ready then it.cyc else b.readyCyc } }
  match c.bins.find? fun b => b.2.tmpl == slot && b.2.team == team with
  | some (n, b) => if b.items.length < 64 then some (put n b) else none
  | none =>
    match (List.range 16).find? fun n => (amGet c.bins n).isNone with
    | some n => some (put n { tmpl := slot, team := team, items := [], ready := false, readyCyc := 0 })
    | none => none

/-- A bin that took an item: its launch is offered, its timer runs, its spawner's tile counts the item (R45, R201). -/
def State.binTook (s : State) (tile srcTile : Nat) (user : Bool) : State :=
  let s := s.push [.binGroupLaunch tile]
  let s := (s.tile tile).ctl.bins.foldl (fun s b => if b.2.items.length = 1 then s.againAt tile b.1 .binTimerExpire else s) s
  if user then s.count srcTile 10 1 else s

/-- BIN_TIMER_EXPIRE: the bin that State.cur names becomes ready once its oldest item has waited BINT (R45, R46). -/
def execBinTimerExpire (s : State) : Res :=
  let t := s.cur.tile
  let T := s.tile t
  let c := T.ctl
  match amGet c.bins s.cur.slot with
  | none => .next s
  | some b =>
    match b.items with
    | [] => .next s
    | it :: _ =>
      if c.timersOff.isNone && it.at_ + c.bint ≤ s.tileTime t then
        let cyc := if b.ready then b.readyCyc else s.cycle t
        .next ((s.setTile t (T.setCtl { c with bins := amSet c.bins s.cur.slot { b with ready := true, readyCyc := cyc } })).push
          [.binGroupLaunch t])
      else if b.ready then .next s
      else .next (s.againAt t s.cur.slot .binTimerExpire)

/-- The ready bin whose first item is oldest (R46). -/
def oldestReady : List (Nat × Bin) → Option (Nat × Bin)
  | [] => none
  | b :: r =>
    let t (x : Nat × Bin) : Nat := (x.2.items.head?.map (·.at_)).getD 0
    match oldestReady r with
    | none => if b.2.ready && b.2.items ≠ [] then some b else none
    | some y => if b.2.ready && b.2.items ≠ [] && t b ≤ t y then some b else some y

/-- Items of a bin that arrived before a tile cycle: those that a launch in it takes (R48). -/
def Bin.before (b : Bin) (cyc : Nat) : Nat := (b.items.filter fun i => i.cyc == 0 || decide (i.cyc < cyc)).length

/-- BIN_GROUP_LAUNCH (R45, R46): a ready bin launches up to 32 items into the lowest free slot, after pending stamps of
teams with a free reserved slot, oldest first item first. It launches in a tile cycle after that in which it became ready,
and takes the items present before (R48). Items that stay keep the bin ready only where 32 of them stand or BINT is 0. -/
def execBinGroupLaunch (tile : Nat) (s : State) : Res :=
  let T := s.tile tile
  let c := T.ctl
  match oldestReady c.bins, T.freeSlots with
  | some (n, b), g :: _ =>
    let cyc := s.cycle tile
    if c.noClaim then .next s
    else if cyc ≤ b.readyCyc && b.readyCyc ≠ 0 then .next (s.again (.binGroupLaunch tile))
    else
      let took := min 32 (b.before cyc)
      let rest := b.items.drop took
      let left := decide (32 ≤ rest.length) || (c.bint == 0 && rest ≠ [])
      let bins := if rest = [] then amDel c.bins n else amSet c.bins n { b with items := rest, ready := left, readyCyc := cyc }
      let s := s.setTile tile (T.setCtl { c with bins := bins })
      let s := (s.launchGroup tile g b.team b.tmpl ((b.items.take took).map (·.idx)) true).count tile 9 1
      let s := if rest = [] then s else s.againAt tile n .binTimerExpire
      let s := if left then s.push [.binGroupLaunch tile] else s
      .next (if c.held = [] then s else s.push [.binItemAccept tile])
  | _, _ => .next s

/-- A lane of a SPAWN is done: its subset, whose lanes wait for it, issues again for the lanes that are left. -/
def Group.spawnDone (g : Group) (lane : Nat) : Group :=
  g.mapLanes fun i L => if i = lane then { L with done := true, wait := .none }
    else if L.wait = .spawn lane then { L with wait := .none } else L

/-- Lanes of the subset whose SPAWN waits for the item of a lane. -/
def Group.spawnWaiters (g : Group) (lane : Nat) : BitVec 32 :=
  maskOf ((List.range 32).filter fun l => (g.lane l).wait == .spawn lane)

/-- The first waiting item that the bins take, with the tile and the items that still wait (R45, R47). -/
def Tile.acceptHeld (T : Tile) : List HeldItem → Option (Tile × HeldItem × List HeldItem)
  | [] => none
  | h :: r =>
    match T.binOffer h.tmpl h.team h.item with
    | some T => some (T, h, r)
    | none => (T.acceptHeld r).map fun x => (x.1, x.2.1, h :: x.2.2)

/-- The response of a remote request is on its way back (R289). -/
def State.respond (s : State) (id : Nat) (r : Req) : State :=
  let p := r.packet id
  ((s.setReq id { r with perf := true }).push
    [.routerPacketReceive r.rtile { p with stile := r.rtile, dest := r.tile, resp := true, kind := 7, seq := s.nextId }]).fresh

/-- BIN_ITEM_ACCEPT (R45, R47): the first waiting item that finds room enters its bin, and its spawner goes on. -/
def execBinItemAccept (tile : Nat) (s : State) : Res :=
  let T := s.tile tile
  match T.acceptHeld T.ctl.held with
  | none => .next s
  | some (T, h, rest) =>
    let s := s.setTile tile (T.setCtl { T.ctl with held := rest })
    let s := if rest = [] then s else s.push [.binItemAccept tile]
    if h.req ≠ 0 then
      match s.req h.req with
      | some r => .next ((s.binTook tile r.tile true).respond h.req r)
      | none => .next (s.binTook tile tile false)
    else if h.slot = 99 then .next (s.binTook tile tile false)
    else
      let user := (T.group h.slot).priv == .user
      .next ((s.binTook tile tile user).modGroup tile h.slot fun g => g.spawnDone h.lane)

/-! ## SPAWN (R44, R190, R359) -/

/-- Lanes of a SPAWN already accepted, as INFO2 gives them. -/
def Group.doneMask (g : Group) : Nat := (maskOf ((List.range 32).filter fun l => (g.lane l).done)).toNat

/-- A SPAWN handles its lanes in order from the first that is not done: it traps at a fault with the lanes accepted so
far, waits where a bin refuses its item, and completes when every lane's item is accepted. -/
def State.spawnLanes (c : Ctl) (num : Nat) (idx : Nat → Nat) (place : Option (Nat → Nat)) :
    List Nat → State → State
  | [], s => s.retire c [] [] (some 0) false false
  | l :: rest, s =>
    let T := s.T
    let t := s.cur.tile
    let user := s.priv == .user
    match s.curTeam with
    | none => s.trapLane l .tmpl 5 num s.G.doneMask
    | some x =>
      let own (s : State) : State :=
        match s.T.tmplOf x num with
        | none => s.trapLane l .tmpl 5 num s.G.doneMask
        | some (slot, tm) =>
          if tm.bad then s.trapLane l .ecc 2 num 0
          else
            let it : Item := { idx := idx l, at_ := s.tileTime t, cyc := s.cycle t, src := s.cur.slot }
            match if T.ctl.held = [] then T.binOffer slot x.id it else none with
            | some T =>
              let s := ((s.setTile t T).binTook t t user).modG fun g => g.modLane l fun L => { L with done := true }
              s.spawnLanes c num idx place rest
            | none =>
              let h : HeldItem := { tmpl := slot, team := x.id, item := it, slot := s.cur.slot, lane := l, word := s.cur.word, req := 0 }
              let s := s.setTile t (T.setCtl { T.ctl with held := T.ctl.held ++ [h] })
              ((s.hold (.spawn l)).push [.binItemAccept t]).pushAt t s.cur.slot .spawnWaitTimeout
      match place with
      | none => own s
      | some pl =>
        match T.placeOf (pl l) with
        | .error k => s.trapLane l .place k (pl l) 0
        | .ok t2 =>
          if t2 = t then own s
          else match s.mateOn t x t2 with
          | none =>
            if x.spans (s.lwOf t) (pl l) then s.trapLane l .tmpl 5 num s.G.doneMask
            else s.trapLane l .tmpl 7 (pl l) s.G.doneMask
          | some y =>
            (s.send { s.mkReq l 0 (.spawn num (idx l)) 0 0 4 0 false false none with
              place := pl l, rtile := t2, rteam := y.id, since := s.tileTime t }).hold (.spawn l)

/-- SPAWN on the own tile (R44) -/
def execSpawn (c : Ctl) (t : Fin 16) (idx : Reg) (s : State) : Res :=
  let ls := (s.active c).filter fun l => !(s.G.lane l).done
  .next (s.withRelease (if ls = [] then none else some .team) fun s =>
    State.spawnLanes c t.val (fun l => s.src l idx 1) none ls s)

/-- SPAWN.REM (R44) -/
def execSpawnRem (c : Ctl) (t : Fin 16) (idx place : Reg) (s : State) : Res :=
  let ls := (s.active c).filter fun l => !(s.G.lane l).done
  if s.T.tableBad then .next (s.hold .none)
  else .next (s.withRelease (if ls = [] then none else some .cluster) fun s =>
    State.spawnLanes c t.val (fun l => s.src l idx 1) (some fun l => s.src l place 1) ls s)

/-- SPAWN_WAIT_TIMEOUT (R360): a lane of the group that State.cur names has waited 1 ms for a bin; its item is withdrawn
and RESOURCE cause 1 is raised. -/
def execSpawnWaitTimeout (s : State) : Res :=
  let t := s.cur.tile
  let T := s.tile t
  let due (h : HeldItem) : Bool := h.slot == s.cur.slot && h.req == 0 && decide (h.item.at_ + 1000000 ≤ s.tileTime t)
  match T.ctl.held.find? due with
  | none =>
    if T.ctl.held.any fun h => h.slot == s.cur.slot && h.req == 0 then .next (s.againAt t s.cur.slot .spawnWaitTimeout)
    else .next s
  | some h =>
    let G := T.group s.cur.slot
    let lanes := G.spawnWaiters h.lane
    let L := G.lane h.lane
    let num := ((amGet T.store h.tmpl).map (·.num)).getD 0
    let s := s.setTile t (T.setCtl { T.ctl with held := T.ctl.held.filter (· != h) })
    .next (s.raiseAt t s.cur.slot L.pc h.word lanes h.lane .resource 1 num G.doneMask)

/-! ## The end of a thread (R26, R34, R189) -/

/-- Reserved slots of a team that no group holds. -/
def Tile.idleSlots (T : Tile) (x : Team) : List Nat := x.resv.filter fun g => !(T.group g).live

/-- A group whose lanes are all exited or empty frees its slot: a reserved slot stays with its team only where a pending
stamped group has no other one to take (R34). The slot is then offered to stamps, bins and claims in that order (R46). -/
def State.freeGroup (s : State) (t g : Nat) : State :=
  let T := s.tile t
  let G := T.group g
  if !G.live || g = 32 || (List.range 32).any fun l => (G.lane l).st == .live then s
  else
    let keep : Bool := match T.team G.team with
      | some x => decide ((T.idleSlots x).length < x.pend.length)
      | none => false
    let T := T.modTeam G.team fun x => { x with resv := if keep then x.resv else x.resv.filter (· != g), rh := max x.rh G.rh }
    let T := (T.bindFrz G.out).setGroup g {}
    (s.setTile t T).push
      [.stampedGroupLaunch t G.team, .binGroupLaunch t, .agentClaim t, .barrierComplete t G.team false,
        .barrierComplete t G.team true, .teamEnd t G.team]

/-- The lanes of a mask exit: they leave every reconvergence entry (R29). -/
def Group.exitLanes (g : Group) (m : BitVec 32) : Group :=
  let g := g.modMask m fun L => { L with st := .exited, wait := .none }
  let g := { g with recon := g.recon.map fun (e : Recon) => { e with mem := e.mem &&& ~~~m, wait := e.wait &&& ~~~m } }
  g.settle 17

/-- EXIT (R189) -/
def execExit (c : Ctl) (s : State) : Res :=
  let m := maskOf (s.active c)
  let s := (s.retire c [] [] (some 0) false false).modG fun g => g.exitLanes m
  .next ((s.push [.barrierComplete s.cur.tile s.G.team false, .barrierComplete s.cur.tile s.G.team true]).freeGroup
    s.cur.tile s.cur.slot)

end Sys2Proof.Machine
end

