-- ==== Sys2Proof/Machine/Mesh.lean ====
section
/-! DEFINITION. The tile mesh (R289 to R292, R388 to R392), remote scratchpad accesses (R78, R120), full/empty words
(R124, R242, R372) and barriers (R125, R250). -/

namespace Sys2Proof.Machine

/-! ## Dropped packets (R388 to R390) -/

/-- Mark in `ecc` of a request that a router has dropped: no later one waits for it. -/
def errDropped : Nat := 400

/-- A drop joins the record that covers it, or starts the next one (R390). -/
def State.coverDrop (s : State) (tag tile ctx reason place off : Nat) : State :=
  match s.part tag with
  | none => s
  | some P =>
    let s := s.modPart tag fun P =>
      if P.covers.any fun c => c.tile == tile && c.ctx == ctx && decide (s.wtime ≤ c.first + 10000) then
        { P with covers := P.covers.map fun c =>
          if c.tile = tile && c.ctx = ctx && s.wtime ≤ c.first + 10000 then { c with count := c.count + 1 } else c }
      else { P with covers := P.covers ++ [{ tile := tile, ctx := ctx, first := s.wtime, src := (s.tile tile).place, reason := reason, place := place,
                                             off := off, count := 1 }] }
    if P.covers.any fun c => c.tile == tile && c.ctx == ctx && decide (s.wtime ≤ c.first + 10000) then s
    else s.push [.dropRecordPost tile tag ctx]

/-- A packet is dropped: it has no effect. A request dropped for reason 1, 2 or 3 in its partition's current
generation gets a drop response and a record (R390, R392). -/
def State.dropPacket (s : State) (t : Nat) (p : Packet) (reason : Nat) : State :=
  let s := s.logDrop t p reason
  let cur := ((s.part p.tag).map (·.gen)) == some p.gen
  if p.resp || !cur || 4 ≤ reason then s
  else match s.req p.req with
    | none => s
    | some r => ((s.setReq p.req { r with ecc := errDropped }).coverDrop p.tag p.stile r.ctx reason p.place p.off).push
        [.dropResponse p.req]

/-- DROP_RECORD_POST (R390): once 10 µs have passed since its first drop, a kind-5 record covers the drops. -/
def execDropRecordPost (tile tag ctx : Nat) (s : State) : Res :=
  match s.part tag with
  | none => .next s
  | some P =>
    match P.covers.find? fun c => c.tile == tile && c.ctx == ctx with
    | none => .next s
    | some c =>
      if s.wtime ≤ c.first + 10000 then .next (s.again (.dropRecordPost tile tag ctx))
      else
        let s := s.modPart tag fun P => { P with covers := P.covers.erase c }
        .next (s.post tag ctx { kind := 5, place := c.src, n := c.place, value := c.reason + 256 * c.count,
                                info := c.off })

/-- Error code that a response carries in `ecc`: the target tile holds no team of the cluster any more (R242). -/
def errNoTeam : Nat := 200

/-- The item of a remote SPAWN finds its template stale (R48). -/
def errStale : Nat := 300

/-! ## Full/empty words (R124, R242) -/

/-- Lanes that wait for a full/empty instruction. -/
def Group.feWaiters (g : Group) (iid : Nat) : BitVec 32 :=
  maskOf ((List.range 32).filter fun l => (g.lane l).wait == .fe iid)

/-- A lane of a full/empty instruction is performed: its destination is written and the lane marked; when none is left
the subset goes on, an LDF with its acquire (R116, R242, R372). -/
def State.feDone (s : State) (id : Nat) (r : Req) (ws : List (Nat × Nat × W32)) : State :=
  let s := (s.delReq id).modGroup r.tile r.slot fun g =>
    let g := ws.foldl Group.wr g
    let g := g.modLane r.lane fun L => { L with done := true }
    g.outMod r.iid fun o => { o with rem := o.rem - 1 }
  let g := (s.tile r.tile).group r.slot
  match g.outOf r.iid with
  | none => s
  | some o =>
    if o.rem ≠ 0 then s
    else
      let m := g.feWaiters r.iid
      let upto := s.nextId
      let rd := match r.kind with
        | .spLdf _ => true
        | _ => false
      let wait := rd && !s.acqOk r.tile r.slot m upto
      let s := s.modGroup r.tile r.slot fun g =>
        let g := g.advance m
        if wait then g.modMask m fun L => { L with wait := .fence .acq (if r.tile = r.rtile then .team else .cluster) upto false } else g
      let s := s.push [.instructionComplete r.tile r.slot r.iid]
      if wait then s.push ((lanesOf m).take 1 |>.map fun l => .fenceWaitEnd r.tile r.slot l) else s

/-- The request can be performed on the word's state: LDF waits for full, STE for empty. -/
def feReady (r : Req) (full : Bool) : Bool := match r.kind with
  | .spLdf _ => full
  | .spSte _ => !full
  | _ => false

/-- The first waiting request of a word that can be performed, in order of arrival. -/
def firstReady (full : Bool) : AMap Req → Option (Nat × Req)
  | [] => none
  | q :: r =>
    match firstReady full r with
    | none => if feReady q.2 full then some q else none
    | some y => if feReady q.2 full && decide (q.2.ord ≤ y.2.ord) then some q else some y

/-- FE_REQUEST_SERVED (R124): the word serves its earliest request whose condition holds, and is offered again. -/
def execFeRequestServed (tile team word : Nat) (s : State) : Res :=
  let T := s.tile tile
  match T.team team with
  | none => .next s
  | some x =>
    if !T.slabsHere team [word / 1024] then .next (s.again (.feRequestServed tile team word)) else
    let q := s.reqs.filter fun q => q.2.rtile == tile && q.2.rteam == team && q.2.va / 4 == word && q.2.arr && !q.2.perf
    match firstReady (x.full.contains word) q with
    | none => .next s
    | some (id, r) =>
      let val := x.spRead (4 * word) 4
      let x := match r.kind with
        | .spLdf take => if take then x.setFull word false else x
        | .spSte v => (x.spWrite (4 * word) 4 v).setFull word true
        | _ => x
      let s := (s.setTile tile (T.setTeam x)).push [.feRequestServed tile team word]
      let ws := match r.kind with
        | .spLdf _ => r.writes val
        | _ => []
      .next (if r.tile = tile then s.feDone id r ws else s.respond id { r with val := val })

/-- Requests of a full/empty instruction are withdrawn from their words' queues (R372). -/
def State.withdraw (s : State) (t g iid : Nat) : State :=
  { s with reqs := s.reqs.filter fun q => !(q.2.tile == t && q.2.slot == g && q.2.iid == iid) }.modGroup t g
    fun G => G.outDel iid

/-- FEWAIT_TIMEOUT (R124, R372): a lane of the group that State.cur names has waited longer than 1 ms; the lanes already performed
keep their effect, the others are withdrawn, and FEWAIT names the lowest lane. -/
def execFewaitTimeout (s : State) : Res :=
  let t := s.cur.tile
  let g := s.cur.slot
  match (s.reqsOf t g).find? fun q => q.2.isFe && q.2.arr && !q.2.perf && decide (q.2.since + 1000000 < s.wtime) with
  | none =>
    if (s.reqsOf t g).any fun q => q.2.isFe && !q.2.perf then .next (s.againAt t g .fewaitTimeout) else .next s
  | some (_, r) =>
    let G := (s.tile t).group g
    let m := G.feWaiters r.iid
    let cause := match r.kind with
      | .spLdf _ => 1
      | _ => 2
    let s := s.withdraw t g r.iid
    .next (s.raiseAt t g r.pc r.word m (if r.lane = 32 then 0xFF else r.lane) .fewait cause r.va r.place)

/-! ## Responses of the mesh -/

/-- A response to a remote request at its requester (R44, R120, R242). -/
def State.meshAnswer (s : State) (id : Nat) (r : Req) : State :=
  match r.kind with
  | .spawn num _ =>
    let G := (s.tile r.tile).group r.slot
    let s := s.delReq id
    if r.ecc = 0 then s.modGroup r.tile r.slot fun g => g.spawnDone r.lane
    else if r.ecc = errStale then s.raiseAt r.tile r.slot r.pc r.word (G.spawnWaiters r.lane) r.lane .tmpl 5 num G.doneMask
    else s.raiseAt r.tile r.slot r.pc r.word (G.spawnWaiters r.lane) r.lane .xlate 5 r.place 0
  | .spLdf _ | .spSte _ =>
    if r.ecc = errNoTeam then
      let m := ((s.tile r.tile).group r.slot).feWaiters r.iid
      (s.withdraw r.tile r.slot r.iid).raiseAt r.tile r.slot r.pc r.word m (if r.lane = 32 then 0xFF else r.lane) .xlate 5
        r.place 0
    else s.feDone id r (match r.kind with
      | .spLdf _ => r.writes r.val
      | _ => [])
  | .spLoad =>
    if r.ecc = 0 then (s.delReq id).outDone r.tile r.slot r.iid (r.writes r.val) 0
    else if r.ecc = errNoTeam then
      ((s.noteTrap r.tile r.slot r.pc r.word .xlate 5 r.place 0).delReq id).outDone r.tile r.slot r.iid [] 0
    else s.eccLoad id r
  | _ =>
    let s := if r.ecc = 0 then s else s.noteTrap r.tile r.slot r.pc r.word .xlate 5 r.place 0
    (s.delReq id).outDone r.tile r.slot r.iid [] 0

/-- A context is the active one of a tile: an answer to its requester, or an access to its teams, waits until it is. -/
def State.ctxHere (s : State) (t ctx : Nat) : Bool :=
  let T := s.tile t
  T.ctl.ctx == ctx && (T.slot T.act).st == .active

/-- DROP_RESPONSE (R390): a store is acknowledged with an error, a load writes nothing, a SPAWN lane is refused, and
all but SPAWN write a record without stopping the group. -/
def execDropResponse (id : Nat) (s : State) : Res :=
  match s.req id with
  | none => .next s
  | some r =>
    if !s.reqLive r then .next (s.delReq id)
    else if !s.ctxHere r.tile r.ctx then .next (s.again (.dropResponse id))
    else match r.kind with
    | .spawn _ _ => .next (s.meshAnswer id { r with ecc := errNoTeam })
    | .spLdf _ | .spSte _ =>
      .next ((s.noteTrap r.tile r.slot r.pc r.word .xlate 5 r.place 0).feDone id r [])
    | .spLoad =>
      .next (((s.noteTrap r.tile r.slot r.pc r.word .xlate 5 r.place 0).delReq id).outDone r.tile r.slot r.iid [] 0)
    | .spStore _ | .spStf _ | .spSet _ =>
      let s := (s.noteTrap r.tile r.slot r.pc r.word .xlate 5 r.place 0).ackRh r s.wtime
      .next ((s.delReq id).outDone r.tile r.slot r.iid [] 0)
    | _ => .next s

/-! ## Routers (R289 to R292, R391) -/

/-- The neighbour behind a port: 1 north, 2 east, 3 south, 4 west (R289). -/
def neighbour (t port : Nat) : Nat :=
  if port = 1 then t + 120 else if port = 2 then t + 1 else if port = 3 then t - 120 else t - 1

/-- A packet that its destination accepts leaves the mesh: a request is performed there, a response reaches its requester,
or waits inside the tile until its context is the active one. -/
def State.deliver (s : State) (p : Packet) : State :=
  if !p.resp then s.push [.remoteScratchpadRequest p.req]
  else match s.req p.req with
    | some r => if s.ctxHere r.tile r.ctx then s.meshAnswer p.req r else s.push [.routerPacketReceive p.dest { p with port := 5 }]
    | none => s

/-- An earlier packet of the same class came to a router by the same port on the same virtual channel and still stands there:
routers keep order within each channel (R290), and no link reorders its flits (R12). -/
def State.behind (s : State) (t : Nat) (p : Packet) : Bool :=
  p.port != 5 && s.due.any fun d => match d.ev with
    | .routerPacketReceive u q => u == t && q.resp == p.resp && q.port == p.port && q.vc == p.vc && decide (q.seq < p.seq)
    | _ => false

/-- What a router does with a packet whose destination is elsewhere (R289, R291, R292, R388): it drops it for a reason, or
passes it on by a port, one channel up at a turn. -/
def Tile.forward (T : Tile) (p : Packet) : Except Nat Packet :=
  if p.tag ≠ T.tag then .error 1
  else
    let port := (amGet T.routes p.dest).getD 0 % 8
    if port = 0 || 5 ≤ port then .error 2
    else .ok { p with port := port, vc := if p.port = 0 || p.port = port then p.vc else min 7 (p.vc + 1) }

/-- Where a packet that meets no other traffic is dropped on its way, with the reason; none where its destination accepts it.
The copy engine's data and the traffic of clusters pass the routers so (R289, R292). -/
def State.dropOnWay (s : State) : Nat → Nat → Packet → Option (Nat × Nat)
  | 0, t, _ => some (t, 2)
  | n + 1, t, p =>
    let T := s.tile t
    if t = p.dest then (if p.tag ≠ T.tag then some (t, 1) else if p.gen ≠ T.gen then some (t, 3) else none)
    else match T.forward p with
    | .error k => some (t, k)
    | .ok q => s.dropOnWay n (neighbour t q.port) q

/-- A packet of a tile's active context of KIND 4 to 6 (Table 18.2) to another tile. -/
def State.meshPacket (s : State) (t dest kind owner place off : Nat) : Packet :=
  { tag := (s.tile t).tag, gen := (s.tile t).gen, stile := t, dest := dest, resp := false, vc := 0, kind := kind, owner := owner
    req := 0, place := place, off := off, port := 0, seq := 0 }

/-- Such a packet is dropped: the drop is logged and reported (R388 to R390). -/
def State.dropOther (s : State) (ctx : Nat) (p : Packet) (at_ : Nat × Nat) : State :=
  (s.logDrop at_.1 p at_.2).coverDrop p.tag p.stile ctx at_.2 p.place p.off

/-- ROUTER_PACKET_RECEIVE: a router checks the packet's tag, and its generation at the destination, and passes it on by
the port of its route entry, one channel up at each turn (R289 to R292, R388, R391). -/
def execRouterPacketReceive (t : Nat) (p : Packet) (s : State) : Res :=
  let T := s.tile t
  if s.behind t p then .next (s.again (.routerPacketReceive t p))
  else
  let s := if p.port = 0 && t = p.stile then s.count t 13 1 else s
  if t = p.dest && T.quiesce = .retag then
    .next (s.setTile t { T with heldPkts := T.heldPkts ++ [p] })
  else if T.tableBad && t ≠ p.dest then .next (s.again (.routerPacketReceive t p))
  else if t = p.dest then
    if p.resp then
      .next (if p.tag ≠ T.tag || p.gen ≠ T.gen then s.logDrop t p 4 else s.deliver p)
    else if p.tag ≠ T.tag then .next (s.dropPacket t p 1)
    else if p.gen ≠ T.gen then .next (s.dropPacket t p 3)
    else .next (s.deliver p)
  else match T.forward p with
    | .error k => .next (s.dropPacket t p k)
    | .ok q => .next (s.push [.routerPacketReceive (neighbour t q.port) { q with seq := s.nextId }]).fresh

/-! ## Remote scratchpad (R78, R120) -/

/-- A tile that is being saved or re-tagged serves no access (R305, R391). -/
def Tile.held (T : Tile) : Bool := T.quiesce == .saving || T.quiesce == .leases || T.quiesce == .retag

/-- Earlier requests of the tile's context to the same target tile are performed, or queued at their word or bin: they come by
one path, in the order they were sent (R120, R237, R290). -/
def State.remoteOrder (s : State) (id : Nat) (r : Req) : Bool :=
  !s.reqs.any fun q => decide (q.1 < id) && q.2.tile == r.tile && q.2.ctx == r.ctx && q.2.kind.onMesh && q.2.rtile == r.rtile &&
    !q.2.perf && !q.2.arr && q.2.ecc != errDropped

/-- REMOTE_SCRATCHPAD_REQUEST: the target tile performs the access, or queues a full/empty request at its word. -/
def execRemoteScratchpadRequest (id : Nat) (s : State) : Res :=
  match s.req id with
  | none => .next s
  | some r =>
    let U := s.tile r.rtile
    if r.perf || r.arr || r.rtile = r.tile then .next s
    else if !s.remoteOrder id r || U.held then .next (s.again (.remoteScratchpadRequest id))
    else if U.tag ≠ r.tag then .next (s.dropPacket r.rtile (r.packet id) 1)
    else if U.gen ≠ r.gen then .next (s.dropPacket r.rtile (r.packet id) 3)
    else if !s.ctxHere r.rtile r.ctx then .next (s.again (.remoteScratchpadRequest id))
    else if !U.slabsHere r.rteam [r.va / 4096] && r.kind.isRemote then .next (s.again (.remoteScratchpadRequest id))
    else match U.team r.rteam with
    | none =>
      .next (s.respond id { r with ecc := match r.kind with
        | .spawn _ _ => errStale
        | _ => errNoTeam })
    | some y =>
      let off := r.va
      let put (y : Team) : State := s.setTile r.rtile (U.setTeam y)
      match r.kind with
      | .spLoad =>
        if U.badSp y.id off r.size then .next (s.respond id { r with ecc := 3 })
        else .next (s.respond id { r with val := y.spRead off r.size })
      | .spStore v => .next ((put (y.spWrite off r.size v)).respond id r)
      | .spStf v =>
        .next (((put ((y.spWrite off 4 v).setFull (off / 4) true)).respond id r).push [.feRequestServed r.rtile y.id (off / 4)])
      | .spSet f => .next (((put (y.setFull (off / 4) f)).respond id r).push [.feRequestServed r.rtile y.id (off / 4)])
      | .spLdf _ | .spSte _ =>
        .next ((s.setReq id { r with arr := true, since := s.wtime, ord := s.nextId }).fresh.push [.feRequestServed r.rtile y.id (off / 4)])
      | .spawn num idx =>
        if y.ended then .next (s.respond id { r with ecc := errStale })
        else match U.tmplOf y num with
        | none => .next (s.respond id { r with ecc := errStale })
        | some (slot, _) =>
          let it : Item := { idx := idx, at_ := s.tileTime r.rtile, cyc := s.cycle r.rtile, src := 64 + r.slot }
          (match if U.ctl.held = [] then U.binOffer slot y.id it else none with
          | some U => .next (((s.setTile r.rtile U).binTook r.rtile r.tile true).respond id r)
          | none =>
            let h : HeldItem := { tmpl := slot, team := y.id, item := it, slot := 0, lane := 0, word := 0, req := id }
            let s := s.setReq id { r with arr := true }
            .next ((s.setTile r.rtile (U.setCtl { U.ctl with held := U.ctl.held ++ [h] })).push [.binItemAccept r.rtile]))
      | _ => .next s

/-! ## Barriers (R250) -/

/-- A group takes part in its team's barriers: stamped groups and the leader (R34). A stamped group takes part from its STAMP
on: one that is still queued has not arrived (`Tile.allArrived`). R34 counts the team's stamped groups and does not speak of
queued ones; the model's reading (log 100). -/
def Group.participant (g : Group) (team : Nat) : Bool := g.live && g.team == team && !g.fromBin

/-- A participant has arrived: every live thread waits at a barrier of the kind. -/
def Group.arrived (g : Group) (cluster : Bool) : Bool :=
  (List.range 32).all fun l => (g.lane l).st != .live || (g.lane l).wait == .bar cluster

/-- Every participant of a team on its tile has arrived. -/
def Tile.allArrived (T : Tile) (team : Nat) (cluster : Bool) : Bool :=
  (T.ctl.groups.all fun g => !g.2.participant team || g.2.arrived cluster) && ((T.team team).map fun x => x.pend == []).getD true

/-- Some participant waits at the barrier. -/
def Tile.someArrived (T : Tile) (team : Nat) (cluster : Bool) : Bool :=
  T.ctl.groups.any fun g => g.2.participant team && (List.range 32).any fun l => (g.2.lane l).wait == .bar cluster

/-- Teams of a team's cluster, with their tiles. -/
def State.clusterOf (s : State) (tile : Nat) (x : Team) : List (Nat × Team) :=
  if x.cw * x.ch ≤ 1 then [(tile, x)]
  else s.tiles.flatMap fun t => ((s.mateOn tile x t.1).toList).map fun y => (t.1, y)

/-- A team of a team's cluster is switched out or saved somewhere: its groups cannot have arrived. One that has ended has no
participant (R250). -/
def State.clusterAway (s : State) (tile : Nat) (x : Team) : Bool :=
  let T := s.tile tile
  let mate (c : CtxCtl) : Bool := c.ctx == T.ctl.ctx && c.teams.any fun y => x.mate y.2
  decide (1 < x.cw * x.ch) &&
    ((s.tiles.any fun t => t.2.tag == T.tag && t.2.slots.any fun k => (k.1 != t.2.act || k.2.st != .active) && mate k.2.ctl) ||
      ((s.part T.tag).map fun P => P.images.any fun y => y.ctx == T.ctl.ctx && y.ctl.teams.any fun z => x.mate z.2).getD false)

/-- The first participant of a team, with the address of the word that its first waiting lane stands at. -/
def Tile.firstParticipant (T : Tile) (team : Nat) : Option (Nat × Nat) :=
  (T.ctl.groups.find? fun g => g.2.participant team).map fun g =>
    (g.1, (((List.range 32).find? fun l => (g.2.lane l).wait == .bar true).map fun l => (g.2.lane l).pc).getD 0)

/-- Teams of a cluster send their arrivals to the anchor's tile; a router can drop one, which the barrier then goes on waiting
for (R390). -/
def State.sendArrivals (s : State) (ms : List (Nat × Team)) : State :=
  ms.foldl (fun s m =>
    match (ms.find? fun y => (s.tile y.1).place == m.2.anchor).map (·.1) with
    | none => s
    | some a =>
      if a = m.1 || m.2.lostC then s
      else
        let T := s.tile m.1
        let p := s.meshPacket m.1 a 5 (s.ownerOf m.1 (some m.2)) m.2.anchor 0
        match s.dropOnWay 8400 m.1 p with
        | none => s
        | some d =>
          let s := (s.dropOther T.ctl.ctx p d).modTile m.1 fun T => T.modTeam m.2.id fun y => { y with lostC := true }
          match T.firstParticipant m.2.id with
          | some g => s.noteTrap m.1 g.1 g.2 0 .xlate 5 m.2.anchor 0
          | none => s) s

/-- The participants of a team leave a barrier with its acquire. -/
def State.leaveBarrier (s : State) (tile team : Nat) (cluster : Bool) : State :=
  (s.tile tile).ctl.groups.foldl (fun s g =>
    if !g.2.participant team then s
    else
      let m := maskOf ((List.range 32).filter fun l => (g.2.lane l).wait == .bar cluster)
      (s.modGroup tile g.1 fun g => g.advance m).acquireThen tile g.1 (if cluster then .cluster else .team) m) s

/-- BARRIER_COMPLETE (R250): when every participant group has arrived, all leave and the phase advances. -/
def execBarrierComplete (tile team : Nat) (cluster : Bool) (s : State) : Res :=
  match (s.tile tile).team team with
  | none => .next s
  | some x =>
    let ms := if cluster then s.clusterOf tile x else [(tile, x)]
    let whole := if cluster then !s.clusterAway tile x else true
    if whole && (ms.all fun m => (s.tile m.1).allArrived m.2.id cluster) &&
        (ms.any fun m => (s.tile m.1).someArrived m.2.id cluster) then
      let s := if cluster then s.sendArrivals ms else s
      if cluster && ms.any fun m => (((s.tile m.1).team m.2.id).map (·.lostC)).getD false then .next s
      else .next (ms.foldl (fun s m =>
        let s := s.leaveBarrier m.1 m.2.id cluster
        s.modTile m.1 fun T => T.modTeam m.2.id fun y =>
          if cluster then { y with barC := y.barC + 1 } else { y with barT := y.barT + 1 }) s)
    else .next s

end Sys2Proof.Machine
end

