-- ==== Sys2Proof/Machine/Control.lean ====
section
/-! DEFINITION. Instruction fetch (R178) and the control instructions (R187 to R194): branches and their divergence
(R28, R188), hand-off (R32), TRAP, trap.ret and ERET. -/

namespace Sys2Proof.Machine

/-! ## Fetch (R178) -/

/-- What a fetch of a word gives. -/
inductive Fetched where
  | word (w : W64)
  | fault (two : Bool) (lvl ppa : Nat)
  | miss
  deriving DecidableEq, Repr

/-- Fetch the word at an address for a group: the word as it was at the reload, or any value stored since, by a free
choice (R178). -/
def State.fetch (s : State) (t g va : Nat) : Fetched :=
  match s.translate t g va .execute with
  | .miss => .miss
  | .fault two lvl info => .fault two lvl info
  | .ok e =>
    let pa := e.phys va
    let T := s.tile t
    let old := BitVec.ofNat 64 (Memory.read T.icache pa 8)
    let since := ((s.writes.take (s.writes.length - T.codeFrom)).filter fun x => x.1 == pa / 8).map (·.2)
    match since with
    | [] => .word old
    | l => .word ((old :: l).getD (Config.pick (s.free * 256 + 1) (l.length + 1)) old)

/-! ## Hand-off (R32) -/

/-- Issue passes to the lowest eligible lane above the rotation pointer whose program counter differs from `pc`; a
subset that holds selection by a hand-off gives it back to the lowest-lane rule. -/
def Group.handOff (g : Group) (pc : Nat) : Group :=
  if g.hand.isSome then { g with hand := none, bcount := 0 }
  else
    let ord := (List.range 32).map fun i => (g.rot + 1 + i) % 32
    match ord.find? fun l => g.eligible l && (g.lane l).pc != pc with
    | some l => { g with rot := l, hand := some l, bcount := 0 }
    | none => { g with bcount := 0 }

/-- The selected subset that has taken 64 backward branches hands issue off (R32). -/
def Group.handOffDue (g : Group) : Group :=
  if g.bcount < 64 then g
  else g.handOff (match g.sel with
    | some l => (g.lane l).pc
    | none => 0)

/-- BACKWARD_BRANCH_HANDOFF (R32): the group that State.cur names has taken 64 backward branches in its subset. -/
def execBackwardBranchHandoff (s : State) : Res :=
  let t := s.cur.tile
  .next (if ((s.tile t).group s.cur.slot).bcount < 64 then s else s.modGroup t s.cur.slot Group.handOffDue)

/-! ## Branches (R188) -/

/-- A divergent branch creates a reconvergence entry unless the table is full or every thread's innermost entry already
covers the subset at that address (R28). -/
def Group.addRecon (g : Group) (sub : BitVec 32) (addr : Nat) : Group :=
  let same := (lanesOf sub).all fun l => match g.innermost l with
    | some e => e.addr == addr && (sub &&& ~~~e.mem) == 0
    | none => false
  if same || 16 ≤ g.recon.length then g else { g with recon := { addr := addr, mem := sub, wait := 0 } :: g.recon }

/-- The issuing subset is the group's selected one: it holds the lane that selection starts from (R27, R32). -/
def State.selected (s : State) : Bool := match s.G.sel with
  | some l => bit s.cur.sub l
  | none => true

/-- The effect of a branch once its checks have passed: link, next addresses, divergence, and the count of R32, which is that
of the selected subset. -/
def State.takeBranch (s : State) (c : Ctl) (act : List Nat) (link : Option Reg) (via : Via) (dest : Nat → Nat) : State :=
  let pc := s.cur.pc
  let ws := match link with
    | some r => (if r.isK then act.take 1 else act).flatMap fun l => spread l r 2 (pc + 8)
    | none => []
  let g := Group.wrFixed s.T s.G pc (s.cycle s.cur.tile + 1) ws
  let nxt (l : Nat) : Nat := if act.contains l then dest l else pc + 8
  let sub := lanesOf s.cur.sub
  let g := g.mapLanes fun l L =>
    if !bit s.cur.sub l then L
    else { L with pc := nxt l, entry := true, left := 0, relDone := false, done := false, wait := .none
                  via := if act.contains l then via else .fall, src := if act.contains l then pc else 0 }
  let diverges := sub.any fun l => sub.any fun m => nxt l != nxt m
  let L := s.G.lane (sub.headD 0)
  let g := if diverges && L.roff != 0 then g.addRecon s.cur.sub (wrap 56 ((L.hdr : Int) + 8 * L.roff)) else g
  let back := s.selected && act.any fun l => decide (dest l ≤ pc)
  let g := { g with bcount := if back then g.bcount + 1 else g.bcount }.settle 17
  let s := s.setG g
  let s := if 64 ≤ g.bcount then s.pushAt s.cur.tile s.cur.slot .backwardBranchHandoff else s
  if c.set.val = 0 then s
  else (s.issueOut (s.outInst c)).push [.instructionComplete s.cur.tile s.cur.slot s.nextId]

/-- The first lane that fails a check of R188, which the rule makes lane by lane: true for the address range, false for the
alignment of a register target. -/
def branchFault (reg : Bool) (dest : Nat → Int) (act : List Nat) : Option (Nat × Bool) :=
  act.findSome? fun l =>
    if dest l < 0 || 2 ^ 56 ≤ dest l then some (l, true)
    else if reg && dest l % 8 != 0 then some (l, false) else none

/-- The checks of a branch, then its effect (R188). A divergent branch whose reconvergence address is not a header
raises ILL cause 10; the header is fetched to see. -/
def State.branch (s : State) (c : Ctl) (tgt : Option Reg) (link : Option Reg) (via : Via) (dest : Nat → Int) : State :=
  let act := s.active c
  let lane (l : Nat) : Nat := match tgt with
    | some r => if r.isV then l else 0xFF
    | none => 0xFF
  match branchFault tgt.isSome dest act with
  | some (l, true) => s.trapLane (lane l) .xlate 1 (wrap 64 (dest l)) 0
  | some (l, false) => s.trapLane (lane l) .align 2 (wrap 64 (dest l)) 0
  | none =>
    let d (l : Nat) : Nat := (dest l).toNat
    let sub := lanesOf s.cur.sub
    let nxt (l : Nat) : Nat := if act.contains l then d l else s.cur.pc + 8
    let L := s.G.lane (sub.headD 0)
    if L.roff ≠ 0 && sub.any (fun l => sub.any fun m => nxt l != nxt m) then
      let ra := wrap 56 ((L.hdr : Int) + 8 * L.roff)
      match s.fetch s.cur.tile s.cur.slot ra with
      | .miss => (s.startWalk s.cur.tile s.cur.slot ra .execute).hold .walk
      | .fault _ _ _ => s.trapAll .ill 10 s.cur.pc ra
      | .word w => if isHeader w then s.takeBranch c act link via d else s.trapAll .ill 10 s.cur.pc ra
    else s.takeBranch c act link via d

/-- Target of a branch by a word offset. -/
def State.offTarget (s : State) (off : BitVec 24) : Int := (s.cur.pc : Int) + 8 * off.toInt

/-- The 64-bit value of a target pair in a lane. -/
def State.pairTarget (s : State) (r : Reg) (l : Nat) : Int := (s.src l r 2 : Nat)

/-- BRA -/
def execBra (c : Ctl) (off : BitVec 24) (s : State) : Res := .next (s.branch c none none .branch fun _ => s.offTarget off)
/-- BRX -/
def execBrx (c : Ctl) (tgt : Reg) (s : State) : Res := .next (s.branch c (some tgt) none .branch (s.pairTarget tgt))
/-- CALL -/
def execCall (c : Ctl) (link : Reg) (off : BitVec 24) (s : State) : Res :=
  .next (s.branch c none (some link) .call fun _ => s.offTarget off)
/-- RET: exactly the effect of BRX. -/
def execRet (c : Ctl) (tgt : Reg) (s : State) : Res := .next (s.branch c (some tgt) none .branch (s.pairTarget tgt))

/-- NOP (R189) -/
def execNop (c : Ctl) (s : State) : Res := .next (s.retire c [] [] (some 0) false false)

/-- YIELD (R189): issue is handed off under R32. A subset that issues only because the selected one waits (R27) holds
nothing that it could hand off. -/
def execYield (c : Ctl) (s : State) : Res :=
  let s1 := s.retire c [] [] (some 0) false false
  .next (if s.active c = [] || !s.selected then s1
    else s1.modG fun g => g.handOff ((g.lane ((lanesOf s.cur.sub).headD 0)).pc))

/-! ## TRAP, trap.ret and ERET (R192 to R194) -/

/-- TRAP -/
def execTrap (c : Ctl) (code : BitVec 15) (s : State) : Res :=
  .next (if s.active c = [] then s.retire c [] [] (some 0) false false else s.trapAll .sw 1 code.toNat 0)

/-- INH clears, and the traps held for it are delivered (R194). -/
def State.clearInh (s : State) : State :=
  let g := s.G
  let held := g.traps.any (·.held)
  let s := s.setG { g with xstat := clrBit g.xstat 7, traps := g.traps.map fun t => { t with held := false } }
  if held then s.push [.trapDeliver s.cur.tile s.cur.slot] else s

/-- The other lanes of the issuing subset pass to the next word, as their predicate lets them: `m` are the lanes that do
not. -/
def State.retireRest (s : State) (c : Ctl) (m : BitVec 32) : State :=
  let r := State.retire { s with cur := { s.cur with sub := s.cur.sub &&& ~~~m } } c [] [] (some 0) false false
  { r with cur := s.cur }

/-- trap.ret: the subset leaves the user handler. R192 does not say what lanes do whose predicate fails: they go to the next
word (log 88). -/
def execTrapRet (c : Ctl) (s : State) : Res :=
  if s.active c = [] then .next (s.retire c [] [] (some 0) false false)
  else if !s.G.inh then .next (s.trapAll .ill 9 0 0)
  else
    let g := s.G
    let m := maskOf (s.active c)
    let s1 := (s.retireRest c m).clearInh.drawn
    .next (s1.modG fun h => ({ h with sv := none }.modMask m fun L =>
      L.trapRet (g.resumeAt (s.free * 64)) (g.xpc.toNat % 2 ^ 56) (bit g.xstat 8)).settle 17)

/-- ERET acts on the trapped subset of the group that its register names (R193). -/
def State.eretOn (s : State) (c : Ctl) (r : Reg) (f : Group → Option Group) : State :=
  s.needPriv false fun s =>
    match s.active c with
    | [] => s.retire c [] [] (some 0) false false
    | l :: _ =>
      let v := s.src l r 1
      if 31 < v then s.trapAll .ill 9 v 0
      else match f (s.T.group v) with
        | none => s.trapAll .ill 9 v 0
        | some g => (s.modTile s.cur.tile fun T => T.setGroup v g).retire c [] [] (some 0) false false

/-- ERET.RETRY -/
def execEretRetry (c : Ctl) (r : Reg) (s : State) : Res := .next (s.eretOn c r fun g => g.eret false)
/-- ERET.SKIP -/
def execEretSkip (c : Ctl) (r : Reg) (s : State) : Res := .next (s.eretOn c r fun g => g.eret true)
/-- ERET.REDIR -/
def execEretRedir (c : Ctl) (r t : Reg) (s : State) : Res :=
  .next (s.eretOn c r fun g => g.eretRedir (s.src ((s.active c).headD 0) t 2))

end Sys2Proof.Machine
end

