-- ==== Sys2Proof/Machine/Crypto.lean ====
section
/-! DEFINITION. The checks and ciphers that the spec names by their standards: CRC-32 of IEEE 802.3 (R205) and
XTS-AES-256 of IEEE 1619 over 256-byte data units (R263, R280). Bytes are numbers below 256. -/

namespace Sys2Proof.Machine

/-! ## CRC-32 (R205) -/

/-- One byte's eight steps of the reflected CRC with polynomial 0xEDB88320. -/
def crcBits : Nat → Nat → Nat
  | 0, c => c
  | n + 1, c => crcBits n (if c % 2 = 1 then (c / 2) ^^^ 0xEDB88320 else c / 2)

/-- CRC-32 of a list of bytes. -/
def crc32 (l : List Byte) : Nat := (l.foldl (fun c b => crcBits 8 (c ^^^ b.toNat)) 0xFFFFFFFF) ^^^ 0xFFFFFFFF

/-! ## AES-256 (FIPS 197, as XTS-AES-256 of IEEE 1619 uses it) -/

/-- Multiplication by x in the field of AES. -/
def xtime (a : Nat) : Nat := if a < 128 then 2 * a else (2 * a % 256) ^^^ 0x1B

/-- Multiplication in the field of AES, over the low `n` bits of `b`. -/
def gmul : Nat → Nat → Nat → Nat
  | 0, _, _ => 0
  | n + 1, a, b => (if b % 2 = 1 then a else 0) ^^^ gmul n (xtime a) (b / 2)

/-- The product of two field elements. -/
def gf (a b : Nat) : Nat := gmul 8 a b

/-- The inverse, a to the power 254; 0 for 0. -/
def ginv (a : Nat) : Nat :=
  let a2 := gf a a
  let a4 := gf a2 a2
  let a8 := gf a4 a4
  let a16 := gf a8 a8
  let a32 := gf a16 a16
  let a64 := gf a32 a32
  let a128 := gf a64 a64
  gf a2 (gf a4 (gf a8 (gf a16 (gf a32 (gf a64 a128)))))

/-- Rotate a byte left. -/
def rol8 (a n : Nat) : Nat := (a * 2 ^ n % 256) ||| (a / 2 ^ (8 - n))

/-- SubBytes. -/
def sbox (a : Nat) : Nat :=
  let b := ginv a
  b ^^^ rol8 b 1 ^^^ rol8 b 2 ^^^ rol8 b 3 ^^^ rol8 b 4 ^^^ 0x63

/-- InvSubBytes. -/
def isbox (a : Nat) : Nat := ginv (rol8 a 1 ^^^ rol8 a 3 ^^^ rol8 a 6 ^^^ 0x05)

/-- Bytewise exclusive or. -/
def xorB (a b : List Nat) : List Nat := List.zipWith (· ^^^ ·) a b

/-- The round constant's first byte. -/
def rcon : Nat → Nat
  | 0 => 1
  | n + 1 => xtime (rcon n)

/-- Key expansion: words so far, newest first; `n` words still to make, the next one being number `i`. -/
def expand : Nat → Nat → List (List Nat) → List (List Nat)
  | 0, _, ws => ws.reverse
  | n + 1, i, ws =>
    let t := ws.headD []
    let t := if i % 8 = 0 then xorB ((t.drop 1 ++ t.take 1).map sbox) [rcon (i / 8 - 1), 0, 0, 0]
      else if i % 8 = 4 then t.map sbox else t
    expand n (i + 1) (xorB (ws.getD 7 []) t :: ws)

/-- The 15 round keys of a 32-byte key, 16 bytes each. -/
def roundKeys (key : List Nat) : List (List Nat) :=
  let ws := expand 52 8 (((List.range 8).map fun i => (key.drop (4 * i)).take 4).reverse)
  (List.range 15).map fun r => ((ws.drop (4 * r)).take 4).flatten

/-- ShiftRows by `k` times the row number. -/
def shiftRows (k : Nat) (s : List Nat) : List Nat :=
  (List.range 16).map fun i => s.getD (i % 4 + 4 * ((i / 4 + k * (i % 4)) % 4)) 0

/-- MixColumns with a row of coefficients. -/
def mixCols (m : List Nat) (s : List Nat) : List Nat :=
  (List.range 16).map fun i =>
    (List.range 4).foldl (fun a j => a ^^^ gf (m.getD ((j + 4 - i % 4) % 4) 0) (s.getD (4 * (i / 4) + j) 0)) 0

/-- Encrypt one block. -/
def aesEnc (key b : List Nat) : List Nat :=
  match roundKeys key with
  | [] => b
  | k0 :: ks =>
    let s := (ks.take 13).foldl (fun s k => xorB (mixCols [2, 3, 1, 1] (shiftRows 1 (s.map sbox))) k) (xorB b k0)
    xorB (shiftRows 1 (s.map sbox)) (ks.getD 13 [])

/-- Decrypt one block. -/
def aesDec (key b : List Nat) : List Nat :=
  match (roundKeys key).reverse with
  | [] => b
  | k14 :: ks =>
    let s := (ks.take 13).foldl (fun s k => mixCols [14, 11, 13, 9] (xorB ((shiftRows 3 s).map isbox) k)) (xorB b k14)
    xorB ((shiftRows 3 s).map isbox) (ks.getD 13 [])

/-! ## XTS over one 256-byte data unit -/

/-- The little-endian bytes of a number. -/
def numBytes : Nat → Nat → List Nat
  | 0, _ => []
  | n + 1, v => v % 256 :: numBytes n (v / 256)

/-- The next block's tweak: multiplication by x in the field of 2^128 elements, low byte first. -/
def xtsNext (t : List Nat) : List Nat :=
  let v := t.foldr (fun b a => b + 256 * a) 0
  numBytes 16 (if v < 2 ^ 127 then 2 * v else (2 * v % 2 ^ 128) ^^^ 0x87)

/-- The blocks of a data unit in ascending order, from a running tweak. -/
def xtsBlocks (f : List Nat → List Nat) : Nat → List Nat → List Nat → List Nat
  | 0, _, _ => []
  | n + 1, t, d => xorB (f (xorB (d.take 16) t)) t ++ xtsBlocks f n (xtsNext t) (d.drop 16)

/-- The two 32-byte keys of a 512-bit key: the data key in the low half. -/
def xtsKeys (key : Nat) : List Nat × List Nat := (numBytes 32 key, numBytes 32 (key / 2 ^ 256))

/-- Encrypt or decrypt a 256-byte data unit under a 512-bit key and a 128-bit tweak. -/
def xtsUnit (dec : Bool) (key tweak : Nat) (d : List Byte) : List Byte :=
  let k := xtsKeys key
  let f := if dec then aesDec k.1 else aesEnc k.1
  (xtsBlocks f 16 (aesEnc k.2 (numBytes 16 tweak)) (d.map (·.toNat))).map (BitVec.ofNat 8 ·)

/-- The data units of an image, with the tweak of each from its offset. -/
def xtsImage (dec : Bool) (key : Nat) (tweak : Nat → Nat) (d : List Byte) : List Byte :=
  (List.range ((d.length + 255) / 256)).flatMap fun i => xtsUnit dec key (tweak (256 * i)) ((d.drop (256 * i)).take 256)

end Sys2Proof.Machine
end

