-- ==== Sys2Proof/Machine/Context.lean ====
section
/-! DEFINITION. Contexts on a tile (R65 to R70, R204 to R207, R280, R281): the pool under a pool word, parking, the
save of a context's control state, saved images, streaming, the switch, and the slice schedule. -/

namespace Sys2Proof.Machine

/-! ## The pool (R89, R90) -/

/-- Usable 64 KiB segments: POOLSZ.SEGS. -/
def Tile.usable (T : Tile) : Nat := 48 - T.dis

/-- POOLSZ admits a pool word with a team scratchpad of so many slabs (R90). -/
def Tile.admits (T : Tile) (p slabs : Nat) : Bool :=
  poolValid p && decide (poolFixed (BitVec.ofNat 16 p) + slabs ≤ 16 * T.usable)

/-- Scratchpad slabs of a tile that no team holds. -/
def Tile.freeSlabs (T : Tile) (p : BitVec 16) : Nat :=
  16 * T.usable - poolFixed p - T.ctl.teams.foldl (fun a x => a + x.2.slabs) 0

/-- Accumulator rows of a tile that no team holds: 1,024 for each 256 KiB. -/
def Tile.freeRows (T : Tile) (p : BitVec 16) : Nat :=
  1024 * bits p.toNat 4 3 - T.ctl.teams.foldl (fun a x => a + x.2.accRows) 0

/-- A pool word is applied to a context: with a new word, what the pool's parts then hold is left open (R58). -/
def CtxCtl.applyPool (c : CtxCtl) (p : BitVec 16) (n : Nat) : CtxCtl :=
  if c.pool = p && c.poolInit ≠ 0 then c
  else { c with pool := p, poolInit := 2 ^ 128 * (n + 1), accInit := 2 ^ 128 * (n + 1), spLeft := [], accLeft := [] }

/-- The lowest `n` numbers that a list does not hold. -/
def lowestFree (n : Nat) (used : List Nat) : List Nat :=
  ((List.range (n + used.length)).filter fun i => !used.contains i).take n

/-- Slabs of the scratchpad region, and units of the accumulators, that teams of the context hold. -/
def CtxCtl.slabsHeld (c : CtxCtl) : List Nat := c.teams.flatMap fun x => x.2.spAt
def CtxCtl.unitsHeld (c : CtxCtl) : List Nat := c.teams.flatMap fun x => x.2.accAt

/-! ## Event queue of the agent -/

/-- The AEVT queue is full (R356). -/
def Tile.aevtFull (T : Tile) : Bool := decide (64 ≤ T.aevt.length)

/-- Queue an AEVT. The spec says of a trap's event alone that it waits where the queue is full: another event waits for room
too (log 95). -/
def Tile.aevtPush (T : Tile) (e : Aevt) : Tile :=
  if T.aevtFull then { T with aevtWait := T.aevtWait ++ [e] } else { T with aevt := T.aevt ++ [e] }

/-- An event of a tile's agent other than a trap's: the spec leaves its INFO open, which is a free value (log 95). -/
def State.notify (s : State) (t kind cslot : Nat) : State :=
  (s.modTile t fun T => T.aevtPush { kind := kind, gslot := 0, slot := cslot, info := Config.freeNat s.free % 2 ^ 52 }).drawn

/-- The first event is popped, and one that waits for room enters. -/
def Tile.aevtPop (T : Tile) : Tile := { T with aevt := T.aevt.drop 1 ++ T.aevtWait.take 1, aevtWait := T.aevtWait.drop 1 }

/-- Events that a predicate names leave the queue, and waiting ones move up. -/
def Tile.aevtDrop (T : Tile) (f : Aevt → Bool) : Tile :=
  let l := (T.aevt ++ T.aevtWait).filter fun e => !f e
  { T with aevt := l.take 64, aevtWait := l.drop 64 }

/-! ## Parking (R31, R67) -/

/-- All live lanes stand at one address and no reconvergence entry is open (R31). -/
def Group.converged (g : Group) : Bool :=
  match (List.range 32).filter fun l => (g.lane l).st == .live with
  | [] => true
  | l :: r => g.recon == [] && r.all fun m => (g.lane m).pc == (g.lane l).pc

/-- The address at which a converged group stands. -/
def Group.pcOf (g : Group) : Nat := ((g.all.find? fun L => L.st == .live).map (·.pc)).getD 0

/-- A group that need not issue before the save: absent, parked or stopped (R67, R68). -/
def Group.rests (g : Group) : Bool := !g.live || g.parked || g.stopped

/-- GROUP_PARK's condition: a marked converged group whose stall count has run (R185), none of it trapped, at a header flagged
PREEMPT. -/
def State.canPark (s : State) (t g : Nat) : Option Nat :=
  let G := (s.tile t).group g
  if G.live && G.marked && !G.parked && !G.stopped && G.converged && decide (G.nextCyc ≤ s.cycle t) &&
      G.all.all (fun L => L.st != .live || (L.entry && !L.trapped && !L.hskip && L.wait == .none)) then
    match s.fetch t g G.pcOf with
    | .word w => if isHeader w && tbit w.toNat 0 then some (bits w.toNat 41 7) else none
    | _ => none
  else none

/-- GROUP_PARK (R67): the group parks without issuing the block. -/
def execGroupPark (tile slot : Nat) (s : State) : Res :=
  match s.canPark tile slot with
  | some live => .next (s.modGroup tile slot fun g => { g with parked := true, parkLive := live })
  | none => .next s

/-! ## Saving control state (R43, R47, R68, R173, R280) -/

/-- A lane as the save records it: an unrecorded private register reads zero after the resume. -/
def Lane.save (L : Lane) (live : Nat) : Lane :=
  { L with v := if live < 127 then L.v.filter fun x => decide (x.1 < live) else L.v
           wait := match L.wait with
             | .walk => .none
             | w => w }

/-- A group as the save records it: issued instructions are complete, but for captured waits, and its walks begin
again. -/
def Group.save (g : Group) : Group :=
  let g := g.mapLanes fun _ L => L.save (if g.parked then g.parkLive else 127)
  { g with walkAns := [], haz := [], lost := [], nextCyc := 0, decCyc := 0, marked := false, parked := false, stopped := false
           out := g.out.map fun (o : OutInst) => { o with tag := 0, ready := 0 } }

/-- A team as the save records it: TCLK and residence stand still; accumulator regions without INUSE are not kept, and
DIRTY is clear (R280, R281). -/
def State.saveTeam (s : State) (t : Nat) (x : Team) : Team :=
  let still (m : AMap UnitSt) : AMap UnitSt := m.map fun u => (u.1, { u.2 with backAt := 0 })
  { x with slabSt := still x.slabSt, accSt := still x.accSt, resBase := s.resident t x, resSince := 0, acc := x.acc.filter fun c => x.accUse.contains (c.1 / 64 / 16), accDirty := [] }

/-- Templates in the tile's store that belong to a context slot. -/
def Tile.templatesOf (T : Tile) (cslot : Nat) : AMap Template := T.store.filter fun x => x.2.cslot == cslot

/-- Virtual address of the saved image of a tile: its save area (R324). -/
def imageVa (c : Option Ctx) (place : Nat) : Nat := (c.map (·.sarea)).getD 0 + 2 ^ 22 * place

/-- PAREA: the pool save area of the tile's place. -/
def pareaOf (c : Option Ctx) (place : Nat) : Nat := imageVa c place + 2 ^ 19

/-- The control state of the active slot as the save records it, with the pool, the templates, the array and the copies
of the context. -/
def State.saveCtl (s : State) (t : Nat) : CtxCtl :=
  let T := s.tile t
  let c := T.ctl
  { c with
    groups := c.groups.map fun g => (g.1, g.2.save)
    teams := c.teams.map fun x => (x.1, s.saveTeam t x.2)
    noClaim := false, timersOff := some ((c.timersOff).getD (s.tileTime t))
    bins := c.bins.map fun b => (b.1, { b.2 with items := b.2.items.map fun i => { i with cyc := 0 }, readyCyc := 0 })
    held := c.held.map fun (h : HeldItem) => { h with item := { h.item with cyc := 0 } }
    pmcSet := [], pmsOld := []
    store := T.templatesOf T.act
    arr := some T.arr
    copies := T.copies.map fun (x : CopyCmd) => { x with ran := false, held := [] }
    saved := false, parea := pareaOf (s.ctx T.tag c.ctx) T.place }

/-- Every issued memory operation of the context on the tile is complete; waits that are captured as state do not
count (R68). -/
def State.opsDone (s : State) (t : Nat) : Bool :=
  let T := s.tile t
  !(s.reqs.any fun q => q.2.tile == t && q.2.ctx == T.ctl.ctx && q.2.tag == T.tag && decide (q.2.slot < 32) &&
      !(q.2.arr && !q.2.perf) && !(q.2.perf && (match q.2.kind with
        | .hostStore _ => true
        | _ => false))) &&
  T.ctl.groups.all (fun g => g.2.out.all fun (o : OutInst) => o.rem != 0) && T.arr.q == []

/-- No lane waits behind a fence whose condition holds: such a fence completes before the save (R127). -/
def State.fencesHold (s : State) (t g : Nat) (G : Group) : Bool :=
  G.all.all fun L => match L.wait with
    | .fence k sc upto _ =>
      !s.fenceOk t g k sc (maskOf ((List.range 32).filter fun l => (G.lane l).wait == L.wait)) upto
    | _ => true

/-- The tile's active context can be saved: every group rests, its stall count has run (R185), no fence's wait has ended in it
(R127), and its operations are complete. -/
def State.quiet (s : State) (t : Nat) : Bool :=
  ((s.tile t).ctl.groups.all fun g => g.2.rests && (!g.2.live || (decide (g.2.nextCyc ≤ s.cycle t) && s.fencesHold t g.1 g.2))) &&
    s.opsDone t

/-- Mark every group of the active context for preemption, stop claims and bin timers (R67). -/
def State.markTile (s : State) (t : Nat) : State :=
  s.modTile t fun T => T.setCtl { T.ctl with
    noClaim := true, timersOff := some (T.ctl.timersOff.getD (s.tileTime t))
    groups := T.ctl.groups.map fun g => (g.1, { g.2 with marked := true }) }

/-- Stop every group that has not parked (R68); one that stands at a preemptible header parks (R74). -/
def State.stopTile (s : State) (t : Nat) : State :=
  s.modTile t fun T => T.setCtl { T.ctl with
    groups := T.ctl.groups.map fun (g : Nat × Group) => match s.canPark t g.1 with
      | some live => (g.1, { g.2 with parked := true, parkLive := live })
      | none => (g.1, { g.2 with stopped := g.2.stopped || !g.2.parked }) }

/-! ## Saved images (R205) -/

/-- The control state that an X1 tile restores from the bytes of an image. Beyond the header its layout is known only to X1 tiles
(R205): a free value, for an image that another module has saved (log 108). -/
opaque Config.imageCtl : List Byte → CtxCtl

/-- Length of the image of a control state: its layout beyond the header is the tile's own. -/
def CtxCtl.imageLen (c : CtxCtl) : Nat := 64 + 64 * (Config.imageUnits c.groups.length c.store.length % 8191)

/-- A saved image: header, body and CHK. -/
def State.imageBytes (s : State) (t : Nat) (c : CtxCtl) (full : Bool) : List Byte :=
  let T := s.tile t
  let len := c.imageLen
  let body := (List.range (len - 64)).map fun i => Config.freeByte (s.free * 2 ^ 20 + i)
  let head := leBytes 12 (len + 1 * 2 ^ 32 + (T.tag % 1024 + T.gen % 16 * 1024) * 2 ^ 48 + c.ctx % 16 * 2 ^ 64
    + (if full then 2 ^ 72 else 0) + c.pool.toNat * 2 ^ 80)
  head ++ leBytes 4 (crc32 (head ++ body)) ++ leBytes 8 (pareaOf (s.ctx T.tag c.ctx) T.place) ++ List.replicate 40 0 ++ body

/-- Write bytes of a context's virtual memory, page by page of 64 bytes; what does not translate is not written. -/
def State.virtPut (s : State) (tag ctx va : Nat) : List Byte → Nat → State
  | _, 0 => s
  | l, n + 1 =>
    let s := match s.xlate tag ctx va .write .agent with
      | some pa => if regionOf pa = Region.plinth then s.putBytes pa (l.take 64) else s
      | none => s
    s.virtPut tag ctx (va + 64) (l.drop 64) n

/-- Read bytes of a context's virtual memory; a unit that does not translate reads zero. -/
def State.virtGet (s : State) (tag ctx va : Nat) : Nat → List Byte
  | 0 => []
  | n + 1 =>
    (match s.xlate tag ctx va .read .agent with
      | some pa => Memory.bytes s.mem pa 64
      | none => List.replicate 64 0) ++ s.virtGet tag ctx (va + 64) n

/-- A plane's weight image padded to its 18 KiB of the save area. -/
def Plane.padded (p : Plane) : List Byte := p.image ++ List.replicate (18432 - p.image.length) 0

/-- The planes in use are written, encrypted, behind the pool image; the copy of one that is not dirty stands where the save
area is still the same (R280). -/
def State.savePlanes (s : State) (t : Nat) (c : CtxCtl) : State :=
  let T := s.tile t
  let key := ((s.part T.tag).map (·.saveKey.toNat)).getD 0
  let base := pareaOf (s.ctx T.tag c.ctx) T.place + 3 * 2 ^ 20
  let one (s : State) (i : Nat) (p : Plane) : State :=
    if p.st.inuse && (p.dirty || T.ctl.parea != c.parea) then
      s.virtPut T.tag c.ctx (base + 18432 * i) (xtsImage false key (fun o => base + 18432 * i + o) p.padded) 288
    else s
  one (one s 0 T.arr.p0) 1 T.arr.p1

/-- A plane as a restore brings it back: decrypted from the save area where it is in use, with DIRTY clear; its contents
are left open where it is not (R281). -/
def State.loadPlane (s : State) (t : Nat) (c : CtxCtl) (i free : Nat) (p : Plane) : Plane :=
  let T := s.tile t
  let ctx := c.ctx
  let key := ((s.part T.tag).map (·.saveKey.toNat)).getD 0
  let base := c.parea + 3 * 2 ^ 20 + 18432 * i
  if p.st.inuse then { p with image := xtsImage true key (fun o => base + o) (s.virtGet T.tag ctx base 288), dirty := false }
  else { p with image := (List.range 18432).map fun j => Config.freeByte (free + j), dirty := false }

/-- Save the active slot of a tile into an image at an address: the image, by the stores that `put` makes, and the planes are
written, and the control state is kept with it. The planes are zeroed (R280). -/
def State.saveImage (s : State) (t va : Nat) (full : Bool) (put : State → List Byte → State) : State :=
  let T := s.tile t
  let c := s.saveCtl t
  let bytes := s.imageBytes t c full
  let s1 := put (s.savePlanes t c).drawn bytes
  let s2 := s1.modPart T.tag fun P =>
    { P with images := { ctx := c.ctx, place := T.place, va := va, listed := false, bytes := bytes, ctl := c } ::
        P.images.filter fun x => !(x.ctx == c.ctx && x.va == va && !x.listed) }
  s2.modTile t fun T => { T.setCtl { T.ctl with parea := c.parea } with
    arr := { T.arr with p0 := { T.arr.p0 with image := [], dirty := false }, p1 := { T.arr.p1 with image := [], dirty := false } } }

/-! ## The pool exchange (R70) -/

/-- Segments that hold v registers of a control state's groups, the accumulator regions given for each team, and its teams'
scratchpads. -/
def CtxCtl.regsSegs (c : CtxCtl) : List Nat := ((c.groups.filter (·.2.live)).flatMap fun g => regSegs c.pool g.1).eraseDups
def CtxCtl.accSegs (c : CtxCtl) (f : Team → List Nat) : List Nat :=
  (c.teams.flatMap fun x => (f x.2).map (regionSeg c.pool x.2)).eraseDups
def CtxCtl.spSegs (c : CtxCtl) : List Nat :=
  (c.teams.flatMap fun x => (List.range x.2.slabs).map (slabSeg c.pool x.2)).eraseDups

/-- The pool image that a context leaves when it is switched out: of its accumulators, the segments in use that are not saved
yet (R70, R280). -/
def CtxCtl.leaving (c : CtxCtl) (parea : Nat) : PoolOut :=
  { ctx := c.ctx, parea := parea, regs := c.regsSegs, sp := c.spSegs
    acc := c.accSegs fun x => x.accUse.filter x.accDirty.contains }

/-- The order in which the segments of the outgoing and the incoming pool image are exchanged (R70): v registers of resident
groups, accumulators in use, scratchpad. -/
def exchangeOrder (o : Option PoolOut) (c : CtxCtl) : List Nat :=
  let get (f : PoolOut → List Nat) : List Nat := (o.map f).getD []
  (get (·.regs) ++ c.regsSegs ++ get (·.acc) ++ (c.accSegs (·.accUse)) ++ get (·.sp) ++ c.spSegs).eraseDups

/-- A segment of an outgoing pool image is written to its pool save area. How its 64 KiB lie there is open (R205, log 99). -/
def State.poolWrite (s : State) (t : Nat) (o : PoolOut) (i : Nat) : State :=
  if o.regs.contains i || o.acc.contains i || o.sp.contains i then
    s.drawn.virtPut (s.tile t).tag o.ctx (o.parea + 65536 * i) ((List.range 65536).map fun j => Config.freeByte (s.free * 2 ^ 20 + j)) 1024
  else s

/-- The stores of an image at an address of a context's memory, by the tables as they stand. -/
def State.imagePut (tag ctx va : Nat) (s : State) (bytes : List Byte) : State := s.virtPut tag ctx va bytes (bytes.length / 64)

/-- What is left of an outgoing pool image is written at once. -/
def State.poolFlush (s : State) (t : Nat) : State :=
  let T := s.tile t
  match T.poolOut with
  | none => s
  | some o =>
    let l := if T.segs = [] then (o.regs ++ o.acc ++ o.sp).eraseDups else T.segs
    (l.foldl (fun s i => s.poolWrite t o i) s).modTile t fun T => { T with poolOut := none, segs := [] }

/-! ## Restoring (R43, R47, R206, R281) -/

/-- Template store slots that a tile offers to a context. -/
def Tile.tmplRoom (T : Tile) : Nat := T.freeTmpl.length

/-- Why an image does not fit a tile: 4 POOLSZ, 5 template slots, 6 group slots, 0 where it fits (R206). -/
def Tile.fitImage (T : Tile) (c : CtxCtl) : Nat :=
  let slabs := c.teams.foldl (fun a x => a + x.2.slabs) 0
  if !T.admits c.pool.toNat slabs then 4
  else if T.tmplRoom < c.store.length then 5
  else if c.groups.any (fun g => g.2.live && T.slots.any fun x =>
      x.2.st != .empty && x.2.ctl.ctx == c.ctx && ((amGet x.2.ctl.groups g.1).getD {}).live) then 6
  else 0

/-- The new store slots of a context's templates: old slot, new slot. -/
def Tile.tmplMap (T : Tile) (c : CtxCtl) : List (Nat × Nat) := (c.store.map (·.1)).zip T.freeTmpl

/-- The image of a slot number. -/
def mapSlot (m : List (Nat × Nat)) (i : Nat) : Nat := ((m.find? fun x => x.1 == i).map (·.2)).getD i

/-- A control state with its template slots renumbered. -/
def CtxCtl.renumber (c : CtxCtl) (m : List (Nat × Nat)) : CtxCtl :=
  { c with
    store := c.store.foldl (fun st x => amSet st (mapSlot m x.1) { x.2 with parent := x.2.parent.map (mapSlot m) }) []
    groups := c.groups.map fun g => (g.1, g.2.mapLanes fun _ L => { L with tmpl := L.tmpl.map (mapSlot m) })
    bins := c.bins.map fun b => (b.1, { b.2 with tmpl := mapSlot m b.2.tmpl })
    held := c.held.map fun (h : HeldItem) => { h with tmpl := mapSlot m h.tmpl }
    teams := c.teams.map fun x => (x.1, { x.2 with pend := x.2.pend.map fun p => { p with tmpl := mapSlot m p.tmpl } }) }

/-- A control state streams into a slot, its templates into free slots of the store. -/
def State.stream (s : State) (t cslot : Nat) (c : CtxCtl) : State :=
  (s.modTile t fun T =>
    let c := c.renumber (T.tmplMap c)
    { T.setSlot cslot { st := .streaming, ctl := { c with store := [] } } with
      store := c.store.foldl (fun st x => amSet st x.1 { x.2 with cslot := cslot }) T.store }).push [.shadowLoaded t cslot]

/-- An empty slot of a tile. -/
def Tile.emptySlot (T : Tile) : Option Nat := (List.range 3).find? fun i => (T.slot i).st == .empty

/-- The slot that holds, or is taking in, a context's control state as a shadow (R69). -/
def Tile.shadowOf (T : Tile) (ctx : Nat) : Option Nat :=
  (List.range 3).find? fun i => i != T.act && (T.slot i).ctl.ctx == ctx && ((T.slot i).st == .loaded || (T.slot i).st == .streaming)

/-- Outstanding requests of a restored context follow it to the tile it resumes on: its queued full/empty requests, its stores
to host memory that no flush has confirmed, and those of other tiles that wait at its words. -/
def State.rehome (s : State) (t : Nat) (c : CtxCtl) : State :=
  let gids := c.groups.map (·.2.gid)
  let teams := c.teams.map (·.1)
  { s with reqs := s.reqs.map fun q => (q.1, { q.2 with
      tile := if gids.contains q.2.gid then t else q.2.tile
      rtile := if q.2.arr && teams.contains q.2.rteam then t else q.2.rtile }) }

/-- Tiles of a partition. -/
def State.tilesOf (s : State) (tag : Nat) : List Nat := (s.tiles.filter fun t => t.2.tag == tag && tag != 0).map (·.1)

/-- Steps that a resumed context has pending on a tile: launches, bins, barriers, full/empty words, fences, copies, trap
records (R47, R356), and the agent's claims (R55). -/
def State.resumeSteps (s : State) (t : Nat) : State :=
  let T := s.tile t
  let c := T.ctl
  let s := s.push (c.teams.flatMap fun x => (x.2.pend.map fun _ => .stampedGroupLaunch t x.1) ++ [.teamEnd t x.1])
  let s := s.push ([.binGroupLaunch t, .binItemAccept t, .agentClaim t, .clusterReservationGrant t] ++
    (T.anchoring.filter fun a => a.ctx == c.ctx).flatMap fun a =>
      (s.tilesOf T.tag).map (fun m => .clusterReservation m t a.seq a.c) ++ [.clusterBuild t a.seq a.c])
  let s := c.bins.foldl (fun s b => s.againAt t b.1 .binTimerExpire) s
  let s := s.push (T.copies.map fun _ => .copyEngineCommand t)
  let s := s.push (T.arr.latch.map fun e => .gangRendezvous t e.team e.seq)
  let s := if T.arr.latch = [] then s else s.againAt t 0 .gangTimeout
  let s := if T.arr.releasing then s.againAt t 0 .planeRelease else s
  let s := c.groups.foldl (fun s g =>
    let s := s.push ((List.range 32).filterMap fun l => match (g.2.lane l).wait with
      | .fence _ _ _ _ | .relBar _ _ _ | .units _ _ _ => some (.fenceWaitEnd t g.1 l)
      | _ => none)
    let s := if g.2.all.any fun L => (match L.wait with
      | .fe _ => true
      | _ => false) then s.againAt t g.1 .fewaitTimeout else s
    let s := if g.2.all.any fun L => (match L.wait with
      | .spawn _ => true
      | _ => false) then s.againAt t g.1 .spawnWaitTimeout else s
    if g.2.traps = [] then s else s.push [.trapDeliver t g.1]) s
  s.push (s.reqs.filterMap fun q => if q.2.arr && q.2.rtile == t && !q.2.perf then
    some (.feRequestServed t q.2.rteam (q.2.va / 4)) else none)

/-- The loaded slot becomes the active one: the L1 is invalid, fetch takes memory as it stands, the array and the copies
of the context come back, waits and timers run on from where they stood, and the pool exchange begins (R70, R207).
Accumulator cells of regions that were not in use are left open (R281). -/
def State.activate (s : State) (t cslot : Nat) : State :=
  let T := s.tile t
  let c : CtxCtl := (T.slot cslot).ctl
  let now := s.tileTime t
  let away := match c.timersOff with
    | some b => now - b
    | none => 0
  let open_ := 2 ^ 128 * (s.nextId + 1)
  let c : CtxCtl := { c with
    timersOff := none, accInit := open_, accLeft := []
    teams := c.teams.map fun (x : Nat × Team) => (x.1, { x.2 with resSince := s.cycle t, accInit := open_ })
    bins := c.bins.map fun (b : Nat × Bin) => (b.1, { b.2 with items := b.2.items.map fun i => { i with at_ := i.at_ + away } })
    held := c.held.map fun (h : HeldItem) => { h with item := { h.item with at_ := h.item.at_ + away } } }
  let arr : Arr := match c.arr with
    | some a => { a with p0 := s.loadPlane t c 0 (s.free * 2 ^ 20) a.p0, p1 := s.loadPlane t c 1 (s.free * 2 ^ 20 + 18432) a.p1
                         latch := a.latch.map fun e => { e with time := e.time + away }, spares := T.arr.spares }
    | none => { spares := T.arr.spares }
  let again : List Aevt := c.groups.flatMap fun (g : Nat × Group) => (g.2.traps.filter fun r => r.delivered).map fun r =>
    { kind := 1, gslot := g.1, slot := cslot, info := r.recAt }
  let T := { T.setSlot cslot { st := .active, ctl := { c with arr := none, copies := [] } } with
    act := cslot, arr := arr, copies := c.copies, l1 := [], icache := s.mem, codeFrom := s.writes.length
    segs := exchangeOrder T.poolOut c }
  let T := again.foldl Tile.aevtPush T
  let shift (q : Req) : Req := if q.tile == t && q.arr && q.ctx == c.ctx && !q.perf then { q with since := q.since + away } else q
  let s : State := { s.setTile t T with reqs := s.reqs.map fun (q : Nat × Req) => (q.1, shift q.2) }
  (s.drawn.fresh.pushAt t 0 .poolSegmentExchange).resumeSteps t

/-- The active slot is given up: its control state, templates, array and copies have been saved, and its pool image waits for
the exchange. The slot keeps the number of the outgoing context, which is charged until the next one runs (R65, R299). -/
def State.vacate (s : State) (t : Nat) : State :=
  let s := s.poolFlush t
  s.modTile t fun T =>
    let c := T.ctl
    let out := c.leaving (pareaOf (s.ctx T.tag c.ctx) T.place)
    let T := T.aevtDrop fun e => e.kind == 1 && e.slot == T.act && decide (e.gslot < 32)
    { T.setSlot T.act { ctl := { ctx := c.ctx } } with
      store := T.store.filter fun x => x.2.cslot != T.act
      arr := { spares := T.arr.spares }, copies := [], l1 := [], poolOut := some out }

/-- A shadow is given up: what it holds goes back to the saved images of its context; the image that it was loaded from still
stands in the save area. -/
def State.shelve (s : State) (t k : Nat) : State :=
  let T := s.tile t
  let S := T.slot k
  if k = T.act || S.st == .empty then s
  else
    let c := { S.ctl with store := T.templatesOf k }
    let va := imageVa (s.ctx T.tag c.ctx) T.place
    let img : SavedImage := {
      ctx := c.ctx, place := T.place, va := va, listed := false, ctl := c
      bytes := (s.virtGet T.tag c.ctx va ((c.imageLen + 63) / 64)).take c.imageLen }
    let s := if c.teams = [] then s else s.modPart T.tag fun P => { P with images := img :: P.images }
    s.modTile t fun T => { T with slots := amDel T.slots k, store := T.store.filter fun x => x.2.cslot != k }

/-- Counters that have wrapped are settled before their slot is given up (R202). -/
def State.dueOverflows (s : State) (t cslot : Nat) : List Nat :=
  let c := ((s.tile t).slot cslot).ctl
  (List.range 4).filter fun i => decide (2 ^ 48 ≤ c.pmc.getD i 0)

/-- PMSn as read: OVF is set once the count has wrapped. -/
def CtxCtl.pmsWord (c : CtxCtl) (i : Nat) : W32 :=
  if 2 ^ 48 ≤ c.pmc.getD i 0 then setBit (c.pms.getD i 0) 14 else c.pms.getD i 0

/-- COUNTER_OVERFLOW (R202): the count wraps, OVF is set, and under OVE a record is posted to the ring of the slot's
context and an AEVT of kind 5 queued. -/
def State.overflow (s : State) (t cslot i : Nat) : State :=
  let T := s.tile t
  let S := T.slot cslot
  let c := S.ctl
  let s1 := s.setTile t (T.setSlot cslot { S with ctl := { c with
    pmc := c.pmc.set i (c.pmc.getD i 0 % 2 ^ 48), pms := c.pms.set i (c.pmsWord i) } })
  if bit (c.pms.getD i 0) 15 then
    (s1.post T.tag c.ctx { kind := 2, place := T.place, n := i }).notify t 5 cslot
  else s1

/-- COUNTER_OVERFLOW waits for room in the AEVT queue. -/
def execCounterOverflow (tile cslot n : Nat) (s : State) : Res :=
  let c := ((s.tile tile).slot cslot).ctl
  if n < 4 && 2 ^ 48 ≤ c.pmc.getD n 0 then
    .next (if (s.tile tile).aevtFull && bit (c.pms.getD n 0) 15 then s.again (.counterOverflow tile cslot n)
      else s.overflow tile cslot n)
  else .next s

/-- A control state with nothing in it, under the context's root (R83). -/
def Part.freshCtl (P : Part) (ctx : Nat) : CtxCtl :=
  { ctx := ctx, s1root := ((amGet P.ctxs ctx).map (·.s1root)).getD 0 }

/-- The saved image that a context resumes from on a tile: one on the restore list waits there (R363). -/
def Part.imageAt (P : Part) (ctx place : Nat) : Option SavedImage :=
  P.images.find? fun x => x.ctx == ctx && x.place == place && !x.listed

/-- The control state that a context resumes with on a tile: its saved one, or a fresh one. -/
def Part.resumeCtl (P : Part) (ctx place : Nat) : CtxCtl := ((P.imageAt ctx place).map (·.ctl)).getD (P.freshCtl ctx)

/-- An image joins its context's restore list. Where no good tile of the partition can ever admit its pool word, the
launches in it fail with code 4 (R363). -/
def State.listImage (s : State) (tag : Nat) (x : SavedImage) : State :=
  let s := s.modPart tag fun P => { P with images := P.images.map fun y => if y = x then { y with listed := true } else y }
  let slabs := x.ctl.teams.foldl (fun a y => a + y.2.slabs) 0
  let admits := s.tiles.any fun t => t.2.tag == tag && !t.2.dead && t.2.admits x.ctl.pool.toNat slabs
  if admits then s
  else s.push ((x.ctl.teams.map fun y => y.2.seq).dedup.map fun q => .abortPortWrite tag x.ctx (q % 2 ^ 32 * 2 ^ 32 + 4 * 256))

/-- The context that a partition's schedule names now. -/
def Part.current (P : Part) : Option Nat := (P.sched[P.schedPos]?).map (·.1)

/-- A context is idle: no team on any tile, no entry in its active launch list (R66). -/
def State.idle (s : State) (tag ctx : Nat) : Bool :=
  let c := s.ctx tag ctx
  !((c.map fun c => c.launches.any (·.listed)).getD false) &&
  !((s.part tag).map fun P => P.images.any fun x => x.ctx == ctx && x.ctl.teams != []).getD false &&
  (s.tilesOf tag).all fun t => (s.tile t).slots.all fun x => x.2.st == .empty || x.2.ctl.ctx != ctx || x.2.ctl.teams == []

/-- The next schedule entry: the following one under fixed slices, else the first after it whose context has work. -/
def State.nextEntry (s : State) (tag : Nat) (P : Part) : Option Nat :=
  let n := P.sched.length
  let order := (List.range n).map fun i => (P.schedPos + 1 + i) % n
  if P.fixed then order.head?
  else order.find? fun i => match P.sched[i]? with
    | some e => !s.idle tag e.1
    | none => false

/-- A saved image stands in memory as it was saved; one in a save area that does not translate has no bytes there. -/
def State.imageGood (s : State) (tag : Nat) (x : SavedImage) : Bool :=
  match s.xlate tag x.ctx x.va .read .agent with
  | none => true
  | some _ => s.virtGet tag x.ctx x.va (x.bytes.length / 64) == x.bytes

/-- A damaged or foreign image is refused for reasons 1 to 3: it is discarded and the launches in it fail with code 4 (R363). -/
def State.refuseImage (s : State) (tag : Nat) (x : SavedImage) : State :=
  (s.modPart tag fun P => { P with images := P.images.filter (· != x) }).push
    ((x.ctl.teams.map fun y => y.2.seq).dedup.map fun q => .abortPortWrite tag x.ctx (q % 2 ^ 32 * 2 ^ 32 + 4 * 256))

/-- The control state of the context that comes next streams into an empty slot ahead of the switch, where it fits beside what
the tile holds (R69). -/
def State.streamAhead (s : State) (t : Nat) : State :=
  let T := s.tile t
  match s.part T.tag with
  | none => s
  | some P =>
    match (s.nextEntry T.tag P).bind fun i => (P.sched[i]?).map (·.1) with
    | none => s
    | some ctx =>
      match P.imageAt ctx T.place, T.emptySlot with
      | some x, some k =>
        if ctx = T.ctl.ctx || (T.shadowOf ctx).isSome || T.fitImage x.ctl ≠ 0 || !s.imageGood T.tag x then s
        else ((s.modPart T.tag fun P => { P with images := P.images.filter (· != x) }).rehome t x.ctl).stream t k x.ctl
      | _, _ => s

/-- A context comes in on a tile whose active slot is free. A loaded shadow of it becomes active at once, and one that still
streams once it is loaded (R69); else its saved control state streams into a slot. A control state that no longer fits stays
saved on the restore list, and the context starts with nothing on the tile (R363); so it does where the image is damaged. -/
def State.bringIn (s : State) (t ctx : Nat) : State :=
  let T := s.tile t
  let k := T.emptySlot.getD T.act
  match s.part T.tag with
  | none => s
  | some P =>
    match T.shadowOf ctx with
    | some i => if (T.slot i).st = .loaded then (s.activate t i).streamAhead t else s
    | none =>
      match P.imageAt ctx T.place with
      | none => s.stream t k (P.resumeCtl ctx T.place)
      | some x =>
        if !s.imageGood T.tag x then (s.refuseImage T.tag x).stream t k (P.freshCtl ctx)
        else if T.fitImage x.ctl = 0 then
          ((s.modPart T.tag fun P => { P with images := P.images.filter (· != x) }).rehome t x.ctl).stream t k x.ctl
        else (s.listImage T.tag x).stream t k (P.freshCtl ctx)

/-- A tile switches to a loaded shadow: its active slot is free, and the schedule names the shadow's context (R69). -/
def State.switchDue (s : State) (t ctx : Nat) : Bool :=
  let T := s.tile t
  (T.slot T.act).st == .empty && (match s.part T.tag with
    | some P => P.current == some ctx && P.boundary.isNone
    | none => false)

/-- SHADOW_LOADED (R69, R206, R207): the slot reads loaded, a CTXLOAD of it completes, and the tile switches to it where
its active slot is free and the schedule names its context. -/
def execShadowLoaded (tile cslot : Nat) (s : State) : Res :=
  let T := s.tile tile
  let S := T.slot cslot
  if S.st ≠ .streaming then .next s
  else
    let mine (o : OutInst) : Bool := o.kind / (128 * 2 ^ cslot) % 2 == 1 && o.rem != 0
    let ids := (T.agent.out.filter mine).map (·.iid)
    let agent := { T.agent with out := T.agent.out.map fun (o : OutInst) => if mine o then { o with rem := 0 } else o }
    let T := { T.setSlot cslot { S with st := .loaded } with agent := agent }
    let s := (s.setTile tile T).push (ids.map fun i => .instructionComplete tile 32 i)
    .next (if s.switchDue tile S.ctl.ctx then (s.activate tile cslot).streamAhead tile else s)

/-- POOL_SEGMENT_EXCHANGE (R70, R74): the next 64 KiB segment of the tile that State.cur names is exchanged; a clock halt
pauses it. -/
def execPoolSegmentExchange (s : State) : Res :=
  let t := s.cur.tile
  let T := s.tile t
  match T.segs with
  | [] => .next (s.poolFlush t)
  | i :: rest =>
    if s.haltedAt t then .next (s.againAt t 0 .poolSegmentExchange)
    else
      let s := match T.poolOut with
        | some o => s.poolWrite t o i
        | none => s
      let s := s.modTile t fun T => { T with segs := rest, poolOut := if rest = [] then none else T.poolOut }
      .next (if rest = [] then s else s.pushAt t 0 .poolSegmentExchange)

/-- The slice of a partition has reached its end, or its context gives it up (R65, R66). -/
def State.sliceOver (s : State) (tag : Nat) (P : Part) : Bool :=
  match P.sched[P.schedPos]? with
  | none => false
  | some e => decide (P.sliceAt + 1000 * e.2 ≤ s.wtime) || (!P.fixed && s.idle tag e.1)

/-- Every tile of a partition gives up its active context at one boundary and brings in the next one. -/
def State.switchAll (s : State) (tag ctx : Nat) : State :=
  ((s.tilesOf tag).filter fun t => (s.tile t).quiesce != .retag).foldl (fun s t =>
    let T := s.tile t
    let full := T.ctl.groups.any fun g => g.2.stopped
    let s := (s.dueOverflows t T.act).foldl (fun s i => s.overflow t T.act i) s
    let s := if (T.slot T.act).st = .active then
        let va := imageVa (s.ctx tag T.ctl.ctx) T.place
        s.saveImage t va full (State.imagePut tag T.ctl.ctx va)
      else s
    (s.vacate t).bringIn t ctx) s

/-! ## Settings that wait (R286) -/

/-- Nothing is named. -/
def noSettings (x : SettingsReq) : Bool :=
  x.schedule.isNone && x.fixed.isNone && x.preempt.isNone && x.strict.isNone && x.slots.isNone

/-- Settings that wait for a slice boundary (Table 12.8). -/
def Part.waitsBoundary (P : Part) : Bool :=
  P.pendSet.any fun x => x.left.schedule.isSome || x.left.fixed.isSome || x.left.preempt.isSome

/-- Some pending settings take effect, in the order of their requests, and nothing of them is left. -/
def Part.takeSets (P : Part) (put : Part → SettingsReq → Part) (rest : SettingsReq → SettingsReq) : Part :=
  { P.pendSet.foldl (fun P x => put P x.left) P with pendSet := P.pendSet.map fun x => { x with left := rest x.left } }

/-- At a slice boundary the fixed-slice mark and the preemption timeout take effect; at the end of the schedule period
the new schedule does. -/
def Part.atBoundary (P : Part) (period : Bool) : Part :=
  let P := P.takeSets (fun P x => { P with fixed := x.fixed.getD P.fixed, preempt := x.preempt.getD P.preempt })
    fun x => { x with fixed := none, preempt := none }
  if !period then P
  else P.takeSets (fun P x => match x.schedule with
    | some l => { P with sched := l, schedPos := l.length - 1 }
    | none => P) fun x => { x with schedule := none }

/-- A settings request is answered once all of it has taken effect. -/
def State.settled (s : State) (tag : Nat) : State :=
  match s.part tag with
  | none => s
  | some P =>
    let s := s.setPart tag { P with pendSet := P.pendSet.filter fun x => !noSettings x.left }
    (P.pendSet.filter fun x => noSettings x.left).foldl (fun s x => match x.req with
      | some r => s.result (.partitionSet tag r) 0
      | none => s) s

/-! ## Slice boundaries -/

/-- The moment at which a slice that is over has ended: its boundary plus its length, or now where its context or a resting
schedule gives it up (R65, R66). -/
def State.sliceEnd (s : State) (P : Part) : Nat :=
  match P.sched[P.schedPos]? with
  | some e => if P.resting then s.wtime else min (P.sliceAt + 1000 * e.2) s.wtime
  | none => s.wtime

/-- The entry on which a schedule rests: its own, or in a new schedule the first that names the context which keeps the tiles
(R66). -/
def Part.restAt (P old : Part) : Nat :=
  if P.sched = old.sched then old.schedPos
  else ((List.range P.sched.length).find? fun i => (P.sched[i]?).map (·.1) == old.current).getD P.schedPos

/-- SLICE_BOUNDARY (R65 to R68): for the partition that State.cur names, the outgoing context's claims and bin timers
stop and its groups are marked; once they all rest and its operations are complete, every tile switches. -/
def execSliceBoundary (s : State) : Res :=
  let tag := s.cur.tile
  let waits (s : State) : State := if ((s.part tag).map Part.waitsBoundary).getD false then s.againAt tag 0 .sliceBoundary else s
  match s.part tag with
  | none => .next s
  | some P =>
    match P.boundary with
    | none =>
      if P.paused.isSome || P.heldStop || P.op.isSome || !s.sliceOver tag P then .next (waits s)
      else
        let end_ := s.sliceEnd P
        let last := match s.nextEntry tag P with
          | some i => decide (i ≤ P.schedPos)
          | none => true
        let s := (s.setPart tag (P.atBoundary last)).settled tag
        match s.part tag with
        | none => .next s
        | some P1 =>
        if P1.ctxs.length ≤ 1 then
          .next (waits (s.setPart tag { P1 with schedPos := (P1.schedPos + 1) % P1.sched.length, sliceAt := end_ }))
        else match s.nextEntry tag P1 with
        | none => .next (s.setPart tag { P1 with resting := true, schedPos := P1.restAt P })
        | some i =>
          let ctx := ((P1.sched[i]?).map (·.1)).getD 0
          let P' : Part := { P1 with schedPos := i, sliceAt := end_, resting := false }
          if P.current = some ctx then .next ((s.setPart tag P').pushAt tag 0 .sliceBoundary)
          else
            let s := s.setPart tag { P' with boundary := some end_ }
            let s := (s.tilesOf tag).foldl (fun s t => (s.markTile t).notify t 2 (s.tile t).act) s
            .next ((s.pushAt tag 0 .sliceBoundary).pushAt tag 0 .preemptionTimeout)
    | some _ =>
      if (s.tilesOf tag).all fun t => s.quiet t || (s.tile t).quiesce == .retag then
        let s := s.modPart tag fun P => { P with boundary := none }
        .next ((s.switchAll tag (P.current.getD 0)).pushAt tag 0 .sliceBoundary)
      else .next (s.againAt tag 0 .sliceBoundary)

/-- PREEMPTION_TIMEOUT (R68): for the partition that State.cur names, every group that has neither parked nor ended by
the boundary plus the timeout stops at its next instruction boundary. -/
def execPreemptionTimeout (s : State) : Res :=
  let tag := s.cur.tile
  match s.part tag with
  | none => .next s
  | some P =>
    match P.boundary with
    | none => .next s
    | some b =>
      if b + P.preempt ≤ s.wtime then
        .next (((s.tilesOf tag).foldl State.stopTile s).push ((s.tilesOf tag).map fun t => .quiesceStepOverrun .recall tag t))
      else .next (s.againAt tag 0 .preemptionTimeout)

end Sys2Proof.Machine
end

