-- ==== Sys2Proof/Machine/System.lean ====
section
/-! DEFINITION. Special registers and events (R195 to R203), context slots (R204 to R207), TLBI and PLACEW (R208, R209),
error records and AEVTs (R354 to R356), launch aborts (R364) and the small register writes (R321). -/

namespace Sys2Proof.Machine

/-! ## Special registers (Tables 8.5 and 8.6) -/

/-- A slot as ACTX shows it: a loaded one that a CTXSAVE streams out reads as streaming (R210). -/
def Slot.state (S : Slot) : SlotSt := if S.saving then .streaming else S.st

/-- ACTX. -/
def Tile.actx (T : Tile) : Nat :=
  T.act % 4 + (List.range 3).foldl (fun a i => a + (T.slot i).state.ctorIdx * 2 ^ (4 + 2 * i)) 0

/-- POOLSZ (Table 4.5). -/
def Tile.poolsz (T : Tile) : Nat := T.usable % 64 + T.dis % 64 * 256

/-- The 64 bits of an AEVT. -/
def Aevt.word (e : Aevt) : Nat := e.info % 2 ^ 52 + e.slot % 4 * 2 ^ 52 + e.gslot % 64 * 2 ^ 54 + e.kind % 16 * 2 ^ 60

/-- The value of a special register in a lane. AEVT is popped by its own instruction. -/
def State.sreg (s : State) (l n : Nat) : Nat :=
  let T := s.T
  let c := T.ctl
  let x := s.curTeam
  if n = 0x000 then 32
  else if n = 0x001 then l % 128
  else if n = 0x002 then s.cur.slot % 64
  else if n = 0x003 then (x.map (·.num)).getD 0
  else if n = 0x004 then T.place % 8192
  else if n = 0x010 then (x.map (·.tclk)).getD 0
  else if n = 0x011 then s.tileTime s.cur.tile
  else if n = 0x012 then s.gtimeAt T.tag (s.tileTime s.cur.tile)
  else if n = 0x020 then s.G.fps.toNat
  else if n = 0x021 then s.G.istat.toNat
  else if n = 0x022 then c.bint
  else if n = 0x023 then s.G.gang.toNat
  else if n = 0x024 then T.poolsz
  else if n = 0x025 then c.leasecap
  else if 0x030 ≤ n && n ≤ 0x033 then c.pmc.getD (n - 0x030) 0 % 2 ^ 48
  else if 0x038 ≤ n && n ≤ 0x03B then (c.pmsWord (n - 0x038)).toNat
  else if n = 0x040 then s.G.xpc.toNat
  else if n = 0x041 then s.G.xstat.toNat
  else if n = 0x100 then T.actx
  else if n = 0x102 then c.pool.toNat
  else if n = 0x200 then T.tag % 1024 + T.gen % 16 * 1024
  else 0

/-- Level at which MFS of a register is allowed: 0 U, 1 A, 2 K. -/
def sregReadLevel (n : Nat) : Nat := if n = 0x200 then 2 else if 0x100 ≤ n then 1 else 0

/-- Level at which MTS to a register is allowed. -/
def sregWriteLevel (n : Nat) : Nat :=
  if n = 0x200 then 2
  else if n ∈ [0x22, 0x23, 0x25, 0x40, 0x102] then 1
  else 0

/-- The executing level. -/
def State.level (s : State) : Nat := s.priv.ctorIdx

/-- MFS (R195 to R197): a fixed latency of 2, and a token for FPS, ISTAT and XSTAT. -/
def execMfs (c : Ctl) (d : Reg) (n : BitVec 10) (s : State) : Res :=
  let r := n.toNat
  let w := if r ∈ [0x10, 0x11, 0x12, 0x23, 0x30, 0x31, 0x32, 0x33, 0x40] then 2 else 1
  if s.level < sregReadLevel r then .next (s.trapAll .priv 2 (sregReadLevel r) r)
  else if r = 0x20 || r = 0x21 then
    let lanes := (s.laneSet c d []).map fun l => if d.isK then 32 else l
    let o := { s.outInst c with
      dst := lanes.map fun l => (l, d.code), kind := if r = 0x20 then 8 else 16 }
    if lanes = [] then .next (s.retire c [] [] (some 0) false false)
    else .next ((s.issueOut o).push [.instructionComplete s.cur.tile s.cur.slot s.nextId]).next
  else .next (s.alu c d w [] (if r = 0x41 then none else some 2) false false fun l => { val := s.sreg l r })

/-- MFS of AEVT pops the event (Table 8.6). -/
def execMfsAevt (c : Ctl) (d : Reg) (s : State) : Res :=
  if s.level < 1 then .next (s.trapAll .priv 2 1 0x101)
  else if s.active c = [] then .next (s.retire c [] [] (some 0) false false)
  else
    let v := (s.T.aevt.head?.map (·.word)).getD 0
    let s1 := s.modTile s.cur.tile Tile.aevtPop
    .next (s1.alu c d 2 [] none false false fun _ => { val := v })

/-- The value that an MTS writes: that of the lowest active lane. -/
def State.mtsVal (s : State) (c : Ctl) (a : Reg) (n : Nat) : Option Nat := (s.active c).head?.map fun l => s.src l a n

/-- Change the control state of the issuing tile's active slot. -/
def State.modCtl (s : State) (f : CtxCtl → CtxCtl) : State := s.modTile s.cur.tile fun T => T.setCtl (f T.ctl)

/-- PMSn after a write: reserved bits stay 0, OVF clears where written as 1. -/
def pmsWrite (old w : W32) : W32 := (w &&& 0x00FFA0FF) ||| (old &&& ~~~w &&& 0x4000)

/-- A write of PMSn in a tile cycle: it counts from the next one on (R200). -/
def CtxCtl.pmsSet (c : CtxCtl) (cyc i : Nat) (w : W32) : CtxCtl :=
  { c with pms := c.pms.set i (pmsWrite (c.pmsWord i) w), pmc := c.pmc.set i (c.pmc.getD i 0 % 2 ^ 48)
           pmsOld := amSet c.pmsOld i (cyc + 1, c.pmsIn cyc i) }

/-- XSTAT after a write: SKIP alone at U, else CODE, SKIP, INH and CLASS. -/
def xstatWrite (user : Bool) (old w : W32) : W32 :=
  let m : W32 := if user then 0x100 else 0xFFFF018F
  (old &&& ~~~m) ||| (w &&& m)

/-- The effect of an MTS to a register other than a PMC or APOOL. -/
def State.mtsWrite (s : State) (r v : Nat) : State :=
  if r = 0x20 then s.modG fun g => { g with fps := BitVec.ofNat 32 v &&& fpsMask }
  else if r = 0x21 then s.modG fun g => { g with istat := BitVec.ofNat 32 v &&& istatMask }
  else if r = 0x22 then s.modCtl fun c => { c with bint := v % 2 ^ 20 }
  else if r = 0x23 then s.modG fun g => { g with gang := BitVec.ofNat 64 v &&& 0x73FFFFFFF }
  else if r = 0x25 then s.modCtl fun c => { c with leasecap := v % 2 ^ 19 }
  else if 0x38 ≤ r && r ≤ 0x3B then
    s.modCtl fun c => c.pmsSet (s.cycle s.cur.tile) (r - 0x38) (BitVec.ofNat 32 v)
  else if r = 0x40 then s.modG fun g => { g with xpc := BitVec.ofNat 64 (v % 2 ^ 56) }
  else if r = 0x41 then s.modG fun g => { g with xstat := xstatWrite (s.level == 0) g.xstat (BitVec.ofNat 32 v) }
  else if r = 0x200 then s.modTile s.cur.tile fun T => { T with tag := v % 1024, gen := v / 1024 % 16 }
  else s

/-- MTS (R195 to R198). A write of FPS or ISTAT comes after the flags of the earlier instructions, but for those of an
ATOM (R137). -/
def execMts (c : Ctl) (n : BitVec 10) (a : Reg) (s : State) : Res :=
  let r := n.toNat
  let w := if r = 0x23 || r = 0x40 then 2 else 1
  if s.level < sregWriteLevel r then .next (s.trapAll .priv 3 (sregWriteLevel r) r)
  else match s.mtsVal c a w with
  | none => .next (s.retire c [] [] (some 0) false false)
  | some v =>
    let busy := s.G.out.any fun o => (r == 0x20 && o.kind % 2 == 1) || (r == 0x21 && o.kind / 2 % 2 == 1)
    if busy then .next (s.hold .none)
    else
      let s1 := s.mtsWrite r v
      let held := r == 0x41 && s.G.inh && !s1.G.inh && s.G.traps.any (·.held)
      let s2 := if held then s1.clearInh else s1
      .next (s2.retire c [] [] (some 0) false false)

/-- MTS to APOOL (R199): refused while the active context holds a team on the tile, or where the word is not admitted. -/
def execMtsApool (c : Ctl) (a : Reg) (s : State) : Res :=
  if s.level < 1 then .next (s.trapAll .priv 3 1 0x102)
  else match s.mtsVal c a 1 with
  | none => .next (s.retire c [] [] (some 0) false false)
  | some v =>
    let T := s.T
    if T.ctl.teams ≠ [] || !T.admits (v % 65536) 0 then .next (s.trapAll .resource 4 v 0)
    else
      let s1 := (s.modTile s.cur.tile fun T => { T.setCtl (T.ctl.applyPool (BitVec.ofNat 16 v) s.nextId) with l1 := [] }).fresh
      .next (s1.retire c [] [] (some 0) false false)

/-- MTS to PMC0 to PMC3: the events of that tile cycle are not added (R200). -/
def execMtsPmc (c : Ctl) (i : Fin 4) (a : Reg) (s : State) : Res :=
  match s.mtsVal c a 2 with
  | none => .next (s.retire c [] [] (some 0) false false)
  | some v =>
    let s1 := s.modCtl fun x => { x with
      pms := x.pms.set i.val (x.pmsWord i.val), pmc := x.pmc.set i.val (v % 2 ^ 48)
      pmcSet := amSet x.pmcSet i.val (s.cycle s.cur.tile + 1) }
    .next (s1.retire c [] [] (some 0) false false)

/-! ## Events (R203) -/

/-- Count an EVT execution with its number. -/
def State.countEvt (s : State) (n : Nat) : State :=
  if s.priv = .user then
    s.countBy s.cur.tile s.T.act (fun w => w.toNat % 256 == 15 && w.toNat / 65536 % 256 == n) 1
  else s

/-- EVT (R203) -/
def execEvt (c : Ctl) (n : BitVec 8) (s : State) : Res :=
  let s1 := if s.active c = [] then s else s.countEvt n.toNat
  .next (s1.retire c [] [] (some 0) false false)

/-- EVT.H (R203): it holds while the context's ring is full (R322). -/
def execEvtH (c : Ctl) (n : BitVec 8) (a : Reg) (s : State) : Res :=
  match s.active c with
  | [] => .next (s.retire c [] [] (some 0) false false)
  | l :: _ =>
    let T := s.T
    let x := s.ctx T.tag T.ctl.ctx
    if (x.map fun x => x.evbase != 0 && x.ringFull).getD false then .next (s.hold .none)
    else
      let s1 := (s.countEvt n.toNat).post T.tag T.ctl.ctx
        { kind := 1, gslot := s.cur.slot, place := T.place, n := n.toNat, value := s.src l a 1 }
      .next (s1.retire c [] [] (some 0) false false)

/-! ## Context slots (R204 to R207) -/

/-- The translation of an image address: the module physical address, or the trap it raises; none while a walk is
awaited. An address whose leaf lacks AONLY raises XLATE cause 3. -/
def State.imageAddr (s : State) (va : Nat) (kind : AccKind) : Option (Except (TrapClass × Nat × Nat × Nat) Nat) :=
  if 2 ^ 56 ≤ va then some (.error (.xlate, 1, va, 0))
  else match s.translate s.cur.tile s.cur.slot va kind with
    | .miss => none
    | .fault two _ info => some (.error (.xlate, if two then 3 else 2, va, info))
    | .ok e => if e.aonly then some (.ok (e.phys va)) else some (.error (.xlate, 3, va, e.ppa + (va - e.va)))

/-- A context-slot instruction at privilege A with at least one active lane, which it is given; an address has the alignment
that it asks for. -/
def State.slotOp (s : State) (c : Ctl) (va : Option (Nat × Nat)) (f : Nat → State → State) : State :=
  s.needPriv false fun s =>
    match s.active c with
    | [] => s.retire c [] [] (some 0) false false
    | l :: _ =>
      match va with
      | some (a, al) => if a % al ≠ 0 then s.trapAll .align 1 a al else f l s
      | none => f l s

/-- The page translations of an image's addresses: each page's first image address with its physical one. -/
abbrev ImagePages := List (Nat × Nat)

/-- The pages of the image at an address, `len` bytes long, each under the check of its translation (R204, R206); none while a
walk is awaited, which then is that of the address given. -/
def State.imagePages (s : State) (va len : Nat) (kind : AccKind) :
    Except (Nat ⊕ (TrapClass × Nat × Nat × Nat)) ImagePages :=
  (List.range ((va + len - 1) / 65536 + 1 - va / 65536)).mapM fun i =>
    let a := max va (65536 * (va / 65536 + i))
    match s.imageAddr a kind with
    | none => .error (.inl a)
    | some (.error x) => .error (.inr x)
    | some (.ok pa) => .ok (a, pa)

/-- The answers of a group's walks are used up. -/
def State.dropAns (s : State) : State := s.modG fun g => { g with walkAns := [] }

/-- An instruction goes on under the translations of an image's pages, or waits for a walk, or traps. -/
def State.withImage (s : State) (va len : Nat) (kind : AccKind) (f : ImagePages → State → State) : State :=
  match s.imagePages va len kind with
  | .error (.inl a) => (s.startWalk s.cur.tile s.cur.slot a kind).hold .walk
  | .error (.inr (k, cause, i, j)) => (if cause = 3 then s.logFault s.T.tag j else s).trapAll k cause i j
  | .ok ps => f ps s

/-- The stores of an image through its pages. -/
def State.pagesPut (va : Nat) (ps : ImagePages) (s : State) (bytes : List Byte) : State :=
  ps.foldl (fun s p =>
    let l := (bytes.drop (p.1 - va)).take (65536 - p.1 % 65536)
    if regionOf p.2 = Region.plinth then s.putBytes p.2 l else s) s

/-- The bytes of an image through its pages. -/
def State.pagesGet (s : State) (ps : ImagePages) (len va : Nat) : List Byte :=
  ps.flatMap fun p => Memory.bytes s.mem p.2 (min (65536 - p.1 % 65536) (va + len - p.1))

/-- The completion horizon of an image's stores at their homes, line by line (R112, R204). -/
def State.pagesHorizon (s : State) (va len : Nat) (ps : ImagePages) : Nat :=
  ps.foldl (fun h p => (List.range ((min (65536 - p.1 % 65536) (va + len - p.1) + 63) / 64)).foldl
    (fun h i => max h (s.complTime (p.2 + 64 * i))) h) 0

/-- CTXSAVE (R204, R210): the slot to save is that of a loaded shadow, which streams out until the save completes, or the active
one, which is saved once its groups rest and its operations are complete. -/
def State.ctxSave (s : State) (c : Ctl) (d sl a : Reg) (full : Bool) : State :=
  s.slotOp c (s.active c |>.head?.map fun l => (s.src l a 2, 64)) fun l s =>
    let va := s.src l a 2
    let n := s.src l sl 1
    let T := s.T
    let t := s.cur.tile
    let done (s : State) (len hor kind : Nat) : State :=
      ((s.issueOut { s.outInst c with res := spread 32 d 1 len, dst := [(32, d.code)], hor := hor, kind := kind }).push
        [.instructionComplete s.cur.tile s.cur.slot s.nextId]).next
    if 2 < n then s.trapAll .ill 7 n 0
    else
      let S := T.slot n
      if S.state = .streaming then s.trapAll .ill 7 n 0
      else if S.st = .empty then s.withImage va 64 .write fun _ s => done s.dropAns 0 0 0
      else if S.st = .loaded then
        let x := { S.ctl with store := T.templatesOf n }
        s.withImage va x.imageLen .write fun ps s =>
          let s := s.dropAns
          let bytes := s.imageBytes t x full
          let s1 := (State.pagesPut va ps s.drawn bytes).modPart T.tag fun P =>
            { P with images := { ctx := x.ctx, place := T.place, va := va, listed := false, bytes := bytes, ctl := x } :: P.images }
          done (s1.modTile t fun T => T.setSlot n { S with saving := true }) bytes.length
            (s1.pagesHorizon va bytes.length ps) (1024 * 2 ^ n)
      else
        let s := s.markTile t
        let s := if full then s.stopTile t else s
        if !s.quiet t then s.hold .none
        else
          let len := (s.saveCtl t).imageLen
          s.withImage va len .write fun ps s =>
            let s := s.dropAns
            let s1 := (s.saveImage t va full (State.pagesPut va ps)).modCtl fun x => { x with saved := true }
            done s1 len (s1.pagesHorizon va len ps) 0

/-- CTXSAVE (R204) -/
def execCtxsave (c : Ctl) (d sl a : Reg) (s : State) : Res := .next (s.ctxSave c d sl a false)

/-- CTXSAVE.FULL (R204) -/
def execCtxsaveFull (c : Ctl) (d sl a : Reg) (s : State) : Res := .next (s.ctxSave c d sl a true)

/-- Reason 1 or 2 of a refused image: VER, TAGGEN; 0 where its header holds (Table 8.8). -/
def headerFault (T : Tile) (b : List Byte) : Nat :=
  if sliceNum b 4 2 ≠ 1 then 1
  else if sliceNum b 6 2 ≠ T.tag % 1024 + T.gen % 16 * 1024 then 2
  else 0

/-- CHK holds (Table 8.8). -/
def chkHolds (b : List Byte) : Bool := sliceNum b 12 4 == crc32 (b.take 12 ++ b.drop 64)

/-- The control state that an image's bytes hold: that of the save that wrote them. -/
def Part.imageOf (P : Part) (b : List Byte) : Option CtxCtl := (P.images.find? fun x => x.bytes == b).map (·.ctl)

/-- CTXLOAD (R206): the header is checked first, then the pages of the image and its CHK, then its needs. Bytes that no save
wrote are taken as a failed CHK. A refusal leaves the slot empty. -/
def execCtxload (c : Ctl) (sl a : Reg) (s : State) : Res :=
  .next (s.slotOp c none fun l s =>
    let va := s.src l a 2
    let n := s.src l sl 1
    let t := s.cur.tile
    if 2 < n || (s.T.slot n).state = .active || (s.T.slot n).state = .streaming then s.trapAll .ill 7 n 0
    else
      let empty (s : State) : State := s.modTile t fun T =>
        { T.setSlot n {} with store := T.store.filter fun x => x.2.cslot != n }
      s.withImage va 64 .read fun p0 s =>
        let head := s.pagesGet p0 64 va
        if headerFault s.T head ≠ 0 then (empty s.dropAns).trapAll .resource 3 (headerFault s.T head) va
        else
          let len := sliceNum head 0 4
          s.withImage va (max 64 len) .read fun ps s =>
            let b := s.pagesGet ps len va
            let img := if chkHolds b then (s.part s.T.tag).bind fun P => P.imageOf b else none
            let s0 := empty s.dropAns
            match img with
            | none => s0.trapAll .resource 3 3 va
            | some x =>
              if s0.T.fitImage x ≠ 0 then s0.trapAll .resource 3 (s0.T.fitImage x) va
              else
                let s1 := s0.rehome t x
                ((s1.issueOut { s1.outInst c with rem := 1, kind := 128 * 2 ^ n }).stream t n x).next)

/-- CTXSW (R207): the loaded slot becomes the active one; it waits for a slot that still streams. -/
def execCtxsw (c : Ctl) (sl : Reg) (s : State) : Res :=
  .next (s.slotOp c none fun l s =>
    let n := s.src l sl 1
    let T := s.T
    let S := T.slot n
    if 2 < n || S.st = .empty || S.st = .active then s.trapAll .ill 7 n 0
    else if S.state = .streaming then s.hold .none
    else if T.ctl.groups.any (fun g => g.2.live) && !T.ctl.saved then s.trapAll .resource 5 n 0
    else
      let t := s.cur.tile
      let s := (s.dueOverflows t T.act).foldl (fun s i => s.overflow t T.act i) s
      let s := (s.vacate t).activate t n
      s.retire c [] [] (some 0) false false)

/-! ## Translations and places (R208, R209) -/

/-- Drop the entries of a tile's TLBs that a predicate names. -/
def Tile.tlbDrop (T : Tile) (f : TlbEnt → Bool) : Tile :=
  { T with tlb1 := T.tlb1.filter fun e => !f e, tlb2 := T.tlb2.filter fun e => !f e }

/-- Translations that an array command holds for its life (R269). -/
def ArrCmd.held (c : ArrCmd) : List TlbEnt := match c.op with
  | .ldsG _ held _ _ _ _ _ => held
  | _ => []

/-- Engine commands of a tile that hold a translation which a predicate names (R255). -/
def Tile.holders (T : Tile) (f : TlbEnt → Bool) : List Nat :=
  ((T.copies.filter fun c => c.held.any f).map (·.id)) ++ ((T.arr.q.filter fun c => c.held.any f).map (·.id)) ++
  ((T.arr.latch.filter fun e => e.cmd.held.any f).map (·.cmd.id))

/-- A TLBI: after a release at partition scope, the targeted TLBs drop their entries and the walks in flight install
nothing (R106, R208). Its token waits for the engine commands that hold a dropped translation (R255). -/
def State.tlbi (s : State) (c : Ctl) (k bcast : Bool) (tag : State → Nat → Nat) (f : State → Nat → TlbEnt → Bool)
    (w : State → Nat → Walk → Bool) : State :=
  s.needPriv k fun s =>
    match s.active c with
    | [] => s.retire c [] [] (some 0) false false
    | l :: _ => s.withRelease (some .part) fun s =>
      let hit := f s l
      let p := tag s l
      let s1 : State := { s with
        tiles := s.tiles.map fun x =>
          if x.1 = s.cur.tile || (bcast && x.2.tag = p) then (x.1, x.2.tlbDrop hit) else x
        walks := s.walks.map fun x =>
          if w s l x.2 && (bcast || x.2.req.any fun q => q.tile == s.cur.tile) then (x.1, { x.2 with noInstall := true }) else x }
      let cmds := s.tiles.flatMap fun x => if x.1 = s.cur.tile || (bcast && x.2.tag = p) then x.2.holders hit else []
      if c.set.val = 0 || cmds = [] then s1.retire c [] [] (some 0) false false
      else ((s1.issueOut { s.outInst c with cmds := cmds }).push
        [.instructionComplete s.cur.tile s.cur.slot s1.nextId]).next

/-- TLBI.CTX -/
def execTlbiCtx (c : Ctl) (bcast : Bool) (s : State) : Res :=
  .next (s.tlbi c false bcast (fun s _ => s.T.tag) (fun s _ e => e.tag == s.T.tag && e.ctx == s.T.ctl.ctx)
    fun s _ w => w.tag == s.T.tag && w.ctx == s.T.ctl.ctx)

/-- TLBI.PART -/
def execTlbiPart (c : Ctl) (bcast : Bool) (s : State) : Res :=
  .next (s.tlbi c false bcast (fun s _ => s.T.tag) (fun s _ e => e.tag == s.T.tag) fun s _ w => w.tag == s.T.tag)

/-- TLBI.PAGE: a walk of the context may reach the page through a leaf of any size, so none of them installs. -/
def execTlbiPage (c : Ctl) (a : Reg) (bcast : Bool) (s : State) : Res :=
  .next (s.tlbi c false bcast (fun s _ => s.T.tag) (fun s l e => e.covers s.T.tag s.T.ctl.ctx (s.src l a 2))
    fun s _ w => w.tag == s.T.tag && w.ctx == s.T.ctl.ctx)

/-- TLBI.GRAIN: stage-two translations of the partition that the register names which lie in the 256 MiB grain. -/
def execTlbiGrain (c : Ctl) (a t : Reg) (bcast : Bool) (s : State) : Res :=
  .next (s.tlbi c true bcast (fun s l => s.src l t 1)
    (fun s l e =>
      let g := s.src l a 2 / 2 ^ 28
      e.tag == s.src l t 1 && decide (e.ppa / 2 ^ 28 ≤ g) && decide (g ≤ (e.ppa + 2 ^ e.lg - 1) / 2 ^ 28))
    fun s l w => w.tag == s.src l t 1)

/-- A context is active on the tile: one that Keystone has paused is not (R310). -/
def Tile.runsCtx (T : Tile) : Bool :=
  (T.quiesce == .none || T.quiesce == .preempting) && T.slots.any fun x => x.2.st == .active

/-- PLACEW (R209, R310): values out of range raise ILL, and the write is refused while a context of the partition is active on
the target tile. -/
def execPlacew (c : Ctl) (d a b : Reg) (s : State) : Res :=
  .next (s.needPriv true fun s =>
    match s.active c with
    | [] => s.retire c [] [] (some 0) false false
    | l :: _ =>
      let e := s.src l d 1
      let t := s.src l a 1
      let p := s.src l b 1
      if 8400 ≤ t then s.trapAll .ill 7 t 0
      else if 8192 ≤ p then s.trapAll .ill 7 p 0
      else if 65536 ≤ e || tbit e 14 || 8400 ≤ e % 2 ^ 14 then s.trapAll .ill 7 e 0
      else if (s.tile t).runsCtx then s.trapAll .resource 6 e t
      else (s.modTile t fun T => { T with places := amPut 0 T.places p e }).retire c [] [] (some 0) false false)

/-! ## Error records (R354 to R356, R365, R366) -/

/-- Partition physical address of a partition's device window: where Keystone maps it is its own choice. -/
def devPpa : Nat := 2 ^ 43 - 2 ^ 30

/-- A trap is routed to the user entry (R365). -/
def Trap.isRouted (t : Trap) (x : Option Team) : Bool :=
  match x with
  | none => false
  | some x => x.utrap != 0 && ((t.cls == .arith && tbit x.flags 1) || (t.cls == .sw && tbit x.flags 2)) && !t.nested

/-- The 64 bytes of an error record (Table 16.2). -/
def State.record (s : State) (t g : Nat) (r : Trap) (routed : Bool) : BitVec 512 :=
  let T := s.tile t
  let G := T.group g
  let x := T.team G.team
  let flags := (if r.nested then 1 else 0) + (if routed then 2 else 0) + (if g = 32 then 4 else 0)
  let head := r.cls.num % 256 + r.cause % 256 * 2 ^ 8 + g % 256 * 2 ^ 16 + r.lane % 256 * 2 ^ 24
    + (T.tag % 1024 + T.gen % 16 * 1024) * 2 ^ 32 + T.ctl.ctx % 256 * 2 ^ 48 + flags * 2 ^ 56
  let num := if g = 32 then 0 else (x.map (·.num)).getD 0
  let seq := if g = 32 then 0 else (x.map (·.seq)).getD 0
  BitVec.ofNat 512 (head + r.pc % 2 ^ 56 * 2 ^ 64 + r.word.toNat * 2 ^ 128 + r.info1 % 2 ^ 64 * 2 ^ 192
    + r.info2 % 2 ^ 64 * 2 ^ 256 + num % 2 ^ 32 * 2 ^ 320 + T.place % 2 ^ 32 * 2 ^ 352 + r.time % 2 ^ 64 * 2 ^ 384
    + seq % 2 ^ 32 * 2 ^ 448)

/-- The error store of a context is full. -/
def Ctx.storeFull (c : Ctx) : Bool := (c.eprod + 2 ^ 32 - c.econs) % 2 ^ 32 == 255

/-- Write a record to a context's error store and advance PROD; answers the slot. -/
def State.putRecord (s : State) (tag ctx : Nat) (rec : BitVec 512) : State × Nat :=
  match s.ctx tag ctx with
  | none => (s, 0)
  | some c =>
    let n := 1 + c.eprod % 255
    (s.modCtx tag ctx fun c => { c with eprod := (c.eprod + 1) % 2 ^ 32, erecs := amSet c.erecs n rec }, n)

/-- Replace the first trap that a predicate names, or remove it. -/
def modTrap (f : Trap → Bool) (y : Option (Trap → Trap)) : List Trap → List Trap
  | [] => []
  | t :: l => if f t then (match y with
      | some h => h t :: l
      | none => l) else t :: modTrap f y l

/-- The agent firmware supplied with the module runs on a tile: no program of privilege A stands in slot 32 (log 38). -/
def Tile.firmware (T : Tile) : Bool := !T.agent.live && !T.agentStop

/-- The agent's default for a record (Table 16.4): a routed trap is redirected to UTRAP; otherwise the agent fails the launch
through its abort port, with CODE 4 for RESOURCE cause 1 that is not nested and CODE 1 else. A record of its own slot fails
nothing. -/
def State.agentActs (s : State) (t slot n : Nat) (rec : BitVec 512) : State :=
  let T := s.tile t
  let b (i k : Nat) : Nat := bits rec.toNat (8 * i) (8 * k)
  let G := T.group slot
  if slot = 32 then s
  else if tbit (b 7 1) 1 then
    match G.eretRedir (((T.team G.team).map (·.utrap)).getD 0) with
    | some g => s.setTile t (T.setGroup slot g)
    | none => s
  else
    let code := if b 0 1 = TrapClass.resource.num && b 1 1 = 1 && !tbit (b 7 1) 0 then 4 else 1
    s.push [.abortPortWrite T.tag T.ctl.ctx (b 56 4 * 2 ^ 32 + code * 256 + n % 256)]

/-- The supplied firmware takes the oldest event of kind 1 of its active slot: it reads the record, counts it as consumed, and
acts (R364, R365). Events of the other kinds need no more than the steps that claims and switches have of their own. -/
def State.agentTakes (s : State) (t : Nat) : State :=
  let T := s.tile t
  if !T.firmware then s
  else
    let T := T.aevtDrop fun e => e.kind != 1 || e.slot != T.act
    let s := s.setTile t T
    let ctx := T.ctl.ctx
    match T.aevt.head?, s.ctx T.tag ctx with
    | some e, some c =>
      let n := e.info - (devPpa + 0x40000 + 0x4000 * ctx) / 64
      let s := (s.modTile t Tile.aevtPop).modCtx T.tag ctx fun c => { c with econs := (c.econs + 1) % 2 ^ 32 }
      let s := s.agentActs t e.gslot n ((amGet c.erecs n).getD 0)
      if T.aevt.length = 1 then s else s.push [.trapDeliver t e.gslot]
    | _, _ => s

/-- TRAP_DELIVER (R356): the first undelivered trap of a group is written to the error store and its AEVT queued. A full
store or queue makes it wait, but a refusal of the agent's own slot is then dropped and counted (R366). A record that
stops no group is forgotten once it is delivered. With none left to deliver, the supplied agent firmware takes its next event
(R364). -/
def execTrapDeliver (tile slot : Nat) (s : State) : Res :=
  let T := s.tile tile
  let G := T.group slot
  let todo (r : Trap) : Bool := !r.delivered && !r.held
  match G.traps.find? todo with
  | none => .next (s.agentTakes tile)
  | some r =>
    let ctx := T.ctl.ctx
    let refusal := slot = 32 && r.lanes = 0
    let again (s : State) : State :=
      if (((s.tile tile).group slot).traps.any todo) || (s.tile tile).firmware then s.again (.trapDeliver tile slot) else s
    let drop (s : State) : State := s.modGroup tile slot fun g => { g with traps := modTrap todo none g.traps }
    match s.ctx T.tag ctx with
    | none => .next (again (if r.lanes = 0 then drop s else
        s.modGroup tile slot fun g => { g with traps := modTrap todo (some fun t => { t with delivered := true }) g.traps }))
    | some c =>
      if refusal && c.storeFull then
        .next (again (drop (s.modCtx T.tag ctx fun c => { c with adrop := min (c.adrop + 1) (2 ^ 32 - 1) })))
      else if c.storeFull || T.aevtFull then .next (s.again (.trapDeliver tile slot))
      else
        let routed := r.isRouted (T.team G.team) && slot != 32
        let x := s.putRecord T.tag ctx (s.record tile slot r routed)
        let info := (devPpa + 0x40000 + 0x4000 * ctx + 64 * x.2) / 64
        let s1 := x.1.modTile tile fun T => T.aevtPush { kind := 1, gslot := slot, slot := T.act, info := info }
        .next (again (if r.lanes = 0 then drop s1 else
          s1.modGroup tile slot fun g => { g with
            traps := modTrap todo (some fun t => { t with delivered := true, routed := routed, recAt := info }) g.traps }))

/-! ## Aborts of launches (R364) -/

/-- Change a launch of a context. -/
def State.modLaunch (s : State) (tag ctx seq : Nat) (f : Launch → Launch) : State :=
  s.modCtx tag ctx fun c => { c with launches := c.launches.map fun l => if l.seq = seq then f l else l }

/-- Steps 1 and 2 of an abort (R364): the launch leaves the active launch list and every tile of the partition gets an
abort notice. A launch that has completed or been aborted is left as it is (R368). -/
def State.abortLaunch (s : State) (tag ctx : Nat) (l : Launch) (code slot : Nat) : State :=
  if l.complete || l.aborted.isSome then s
  else
    let ts := s.tilesOf tag
    let s := s.modLaunch tag ctx l.seq fun l =>
      { l with listed := false, aborted := some (code, slot), awaiting := ts }
    (s.push ((ts.map fun t => .abortNotice t tag ctx l.seq) ++ [.abortComplete tag ctx l.seq])).wake tag

/-- ABORT_PORT_WRITE (R364): the word names a launch by SEQ[31:0], the CODE and the record slot. -/
def execAbortPortWrite (tag ctx value : Nat) (s : State) : Res :=
  match (s.ctx tag ctx).bind fun c => c.launches.find? fun l => l.seq % 2 ^ 32 == value / 2 ^ 32 with
  | none => .next s
  | some l => .next (s.abortLaunch tag ctx l (bits value 8 8) (bits value 0 8))

/-- Teams of a launch in a control state. -/
def CtxCtl.teamsOf (c : CtxCtl) (seq : Nat) : List Nat := (c.teams.filter fun x => x.2.seq == seq).map (·.1)

/-- A control state without the teams of a launch: their groups, bins and waiting items go with them. -/
def CtxCtl.dropLaunch (c : CtxCtl) (seq : Nat) : CtxCtl :=
  let ts := c.teamsOf seq
  { c with
    groups := c.groups.filter fun g => !(g.2.live && ts.contains g.2.team)
    teams := c.teams.filter fun x => x.2.seq != seq
    bins := c.bins.filter fun b => !ts.contains b.2.team
    held := c.held.filter fun h => !ts.contains h.team
    copies := c.copies.filter fun x => !ts.contains x.team }

/-- Templates of a launch are released. -/
def dropTemplates (st : AMap Template) (ctx seq : Nat) : AMap Template :=
  st.filter fun x => !(x.2.ctx == ctx && x.2.seq == seq)

/-- Issued operations and engine commands of the launch's teams on a tile are still in flight; those that wait under
WaitUntil are given up with their group. -/
def State.launchBusy (s : State) (t seq : Nat) : Bool :=
  let T := s.tile t
  let ts := T.ctl.teamsOf seq
  (s.reqs.any fun q => q.2.tile == t && q.2.ctx == T.ctl.ctx && ts.contains q.2.team && !q.2.arr && !q.2.perf) ||
  (T.arr.q.any fun c => ts.contains c.team) || T.copies.any fun c => ts.contains c.team

/-- Stop the groups of a launch on a tile and release their slots, templates and bins. -/
def State.stopLaunch (s : State) (t seq : Nat) : State :=
  let T := s.tile t
  let c := T.ctl
  let ts := c.teamsOf seq
  let gone := (c.groups.filter fun g => g.2.live && ts.contains g.2.team).map (·.1)
  let T := T.setCtl (c.dropLaunch seq)
  let T := ({ T with
    store := dropTemplates T.store c.ctx seq
    arr := { T.arr with latch := T.arr.latch.filter fun e => !ts.contains e.team }
    } : Tile).aevtDrop fun e => e.kind == 1 && e.slot == T.act && gone.contains e.gslot
  let s := { s with reqs := s.reqs.filter fun q =>
    !(q.2.tile == t && q.2.ctx == c.ctx && q.2.tag == T.tag && ts.contains q.2.team) }
  let s := s.setTile t T
  if T.arr.holder.any ts.contains then
    (s.setTile t { T with arr := { T.arr with releasing := true } }).pushAt t 0 .planeRelease
  else s

/-- ABORT_NOTICE (R364): the tile stops the launch's groups once their issued operations and engine commands have
completed, and acknowledges; saved work of the launch is discarded. -/
def execAbortNotice (tile tag ctx seq : Nat) (s : State) : Res :=
  let T := s.tile tile
  let l := (s.ctx tag ctx).bind fun c => c.launch seq
  if T.tag ≠ tag || !((l.map fun l => l.aborted.isSome && l.awaiting.contains tile).getD false) then .next s
  else
    let mine := decide (T.ctl.ctx = ctx) && (T.slot T.act).st == .active
    let s := if mine then s.modTile tile fun T =>
        T.setCtl { T.ctl with groups := T.ctl.groups.map fun (g : Nat × Group) =>
          (g.1, { g.2 with stopped := g.2.stopped || (T.ctl.teamsOf seq).contains g.2.team }) }
      else s
    if mine && s.launchBusy tile seq then .next (s.again (.abortNotice tile tag ctx seq))
    else
      let s := if mine then s.stopLaunch tile seq else s
      let s := s.modTile tile fun T => { T with
        slots := T.slots.map fun (x : Nat × Slot) =>
          if x.2.ctl.ctx = ctx && x.2.st != .active then (x.1, { x.2 with ctl := x.2.ctl.dropLaunch seq }) else x
        resv := T.resv.filter fun r => !(r.ctx == ctx && r.seq == seq)
        anchoring := T.anchoring.filter fun a => !(a.ctx == ctx && a.seq == seq) }
      let s := s.modPart tag fun P => { P with images := P.images.map fun (x : SavedImage) =>
        if x.ctx = ctx && x.place = T.place then { x with ctl := x.ctl.dropLaunch seq } else x }
      let s := s.modLaunch tag ctx seq fun l => { l with awaiting := l.awaiting.filter (· != tile) }
      .next (s.push [.abortComplete tag ctx seq, .agentClaim tile])

/-- ABORT_COMPLETE (R364): once every tile has acknowledged, a kind-4 record is posted, and the context's vector raised
under IRQEN. -/
def execAbortComplete (tag ctx seq : Nat) (s : State) : Res :=
  match (s.ctx tag ctx).bind fun c => c.launch seq with
  | none => .next s
  | some l =>
    match l.aborted with
    | none => .next s
    | some (code, slot) =>
      if l.complete then .next s
      else if l.awaiting.any fun t => (s.tile t).tag == tag then .next s
      else
        let s := s.modLaunch tag ctx seq fun l => { l with complete := true }
        .next (((s.post tag ctx { kind := 4, n := l.ifn, value := code + 256 * slot, info := l.cookie }).pushAt tag 0
          .sliceBoundary).wake tag)

/-! ## The restore list (R363) -/

/-- A saved bin returns to the bins of a context (R47): it joins the bin of its key with its items first, up to 64, or
takes an empty bin; the items without room, which wait, are answered too. -/
def CtxCtl.returnBin (c : CtxCtl) (b : Bin) : CtxCtl × List HeldItem :=
  let wait (l : List Item) : List HeldItem := l.map fun i =>
    { tmpl := b.tmpl, team := b.team, item := i, slot := 99, lane := 0, word := 0, req := 0 }
  match c.bins.find? fun x => x.2.tmpl == b.tmpl && x.2.team == b.team with
  | some (n, x) =>
    let all := b.items ++ x.items
    ({ c with bins := amSet c.bins n { x with items := all.take 64, ready := x.ready || b.ready || decide (32 ≤ all.length) } },
      wait (all.drop 64))
  | none =>
    match (List.range 16).find? fun n => (amGet c.bins n).isNone with
    | some n => ({ c with bins := amSet c.bins n b }, [])
    | none => (c, wait b.items)

/-- Saved bins return to the bins of a context; their items without room wait ahead of what waits already, in the order in
which they were saved (R47). -/
def CtxCtl.returnBins (c : CtxCtl) (l : List Bin) : CtxCtl :=
  let r := l.foldl (fun (a : CtxCtl × List HeldItem) b => let y := a.1.returnBin b; (y.1, a.2 ++ y.2)) (c, [])
  { r.1 with held := r.2 ++ r.1.held }

/-- Saved work joins the control state that its context has on a tile. Where the context holds no team there, the tile
takes the saved pool word, bin timer, lease cap, mode, root and counters too. -/
def CtxCtl.merge (c x : CtxCtl) : CtxCtl :=
  let base : CtxCtl := if c.teams = [] then { x with groups := c.groups, teams := c.teams, bins := c.bins, held := c.held, noClaim := c.noClaim }
    else c
  let base : CtxCtl := { base with
    groups := x.groups.foldl (fun m g => if g.2.live then amSet m g.1 g.2 else m) base.groups
    teams := x.teams.foldl (fun m y => amSet m y.1 y.2) base.teams
    held := x.held ++ base.held, timersOff := none, store := [], arr := none, copies := [] }
  base.returnBins (x.bins.map (·.2))

/-- A saved image fits beside what its context already has on the tile (R363). -/
def Tile.canTake (T : Tile) (x : CtxCtl) : Bool :=
  let c := T.ctl
  (T.slot T.act).st == .active && c.ctx == x.ctx && T.fitImage x == 0 && x.teams != [] &&
  (c.teams == [] || (c.pool == x.pool && c.bint == x.bint && c.leasecap == x.leasecap && c.check == x.check &&
    decide (x.teams.foldl (fun a y => a + y.2.slabs) 0 ≤ T.freeSlabs c.pool) &&
    decide (x.teams.foldl (fun a y => a + y.2.accRows) 0 ≤ T.freeRows c.pool))) &&
  (x.groups.all fun g => !g.2.live || c.teams.all fun y => !y.2.resv.contains g.1) &&
  (T.arr.holder.isNone || ((x.arr.map fun a => a.holder.isNone)).getD true)

/-- Two images hold teams of one cluster. -/
def SavedImage.joined (x y : SavedImage) : Bool :=
  x.ctx == y.ctx && x.ctl.teams.any fun a => a.2.cw * a.2.ch != 1 && y.ctl.teams.any fun b => a.2.mate b.2

/-- The images that move together with those of a list (R363). -/
def imagesWith (l : List SavedImage) : Nat → List SavedImage → List SavedImage
  | 0, m => m
  | n + 1, m =>
    match l.filter fun y => !m.contains y && m.any fun x => x.joined y with
    | [] => m
    | more => imagesWith l n (m ++ more)

/-- The place that stands to `q` as `x` stands to `p`, inside the box. -/
def Part.shift (P : Part) (p q x : Nat) : Option Nat :=
  let nx : Int := (x % P.lw : Nat) - (p % P.lw : Nat) + (q % P.lw : Nat)
  let ny : Int := (x / P.lw : Nat) - (p / P.lw : Nat) + (q / P.lw : Nat)
  if 0 ≤ nx && decide (nx < P.lw) && decide (0 ≤ ny) && decide (ny < P.lh) then some (ny.toNat * P.lw + nx.toNat) else none

/-- The tiles that take an image and the images of its clusters, where tile `t` takes the image: each at the place that
keeps the clusters' rectangles, each listed and fitting its tile (R363). -/
def State.placements (s : State) (t : Nat) (x : SavedImage) : Option (List (Nat × SavedImage)) :=
  (s.part (s.tile t).tag).bind fun P =>
    (imagesWith P.images P.images.length [x]).mapM fun y =>
      (P.shift x.place (s.tile t).place y.place).bind fun q => (amGet P.places q).bind fun u =>
        if y.listed && (s.tile u).canTake y.ctl then some (u, y) else none

/-- Restored teams take free slabs and units beside those that the context's teams hold on the tile. -/
def CtxCtl.rePlace (c : CtxCtl) (l : AMap Team) : AMap Team :=
  if c.teams = [] then l
  else (l.foldl (fun (a : CtxCtl × AMap Team) x =>
    let y := { x.2 with spAt := lowestFree x.2.slabs a.1.slabsHeld, accAt := lowestFree (x.2.accRows / 16) a.1.unitsHeld }
    ({ a.1 with teams := amSet a.1.teams x.1 y }, a.2 ++ [(x.1, y)])) (c, [])).2

/-- A tile takes an image beside what its context has there. -/
def State.takeImage (s : State) (t : Nat) (x : SavedImage) : State :=
  let T := s.tile t
  let now := s.tileTime t
  let away := match x.ctl.timersOff with
    | some b => now - b
    | none => 0
  let y := x.ctl.renumber (T.tmplMap x.ctl)
  let anchor (a : Nat) : Nat := ((s.part T.tag).bind fun P => P.shift x.place T.place a).getD a
  let open_ := 2 ^ 128 * (s.nextId + 1)
  let y : CtxCtl := { y with
    store := y.store.map fun (z : Nat × Template) => (z.1, { z.2 with cslot := T.act })
    teams := T.ctl.rePlace (y.teams.map fun (z : Nat × Team) =>
      (z.1, { z.2 with resSince := s.cycle t, anchor := anchor z.2.anchor, accInit := open_ }))
    bins := y.bins.map fun (b : Nat × Bin) => (b.1, { b.2 with items := b.2.items.map fun i => { i with at_ := i.at_ + away } })
    held := y.held.map fun (h : HeldItem) => { h with item := { h.item with at_ := h.item.at_ + away } } }
  let s2 := (s.modPart T.tag fun P => { P with images := P.images.filter (· != x) }).rehome t x.ctl
  let arr : Arr := match x.ctl.arr with
    | some a => if a.holder.isNone && a.latch == [] then T.arr else
      { a with p0 := s.loadPlane t x.ctl 0 (s.free * 2 ^ 20) a.p0, p1 := s.loadPlane t x.ctl 1 (s.free * 2 ^ 20 + 18432) a.p1
               latch := a.latch.map fun e => { e with time := e.time + away }
               spares := T.arr.spares }
    | none => T.arr
  let again : List Aevt := y.groups.flatMap fun (g : Nat × Group) => (g.2.traps.filter fun r => r.delivered).map fun r =>
    { kind := 1, gslot := g.1, slot := T.act, info := r.recAt }
  let T1 := { T.setCtl (T.ctl.merge y) with
    store := y.store.foldl (fun st z => amSet st z.1 z.2) T.store
    arr := arr, copies := T.copies ++ y.copies }
  (s2.setTile t (again.foldl Tile.aevtPush T1)).drawn.fresh.resumeSteps t

/-- RESTORE_LIST_LOAD (R363): the agent of the tile that State.cur names loads the first image on its context's restore
list that fits, together with the other images of its clusters; a damaged one is refused. -/
def execRestoreListLoad (s : State) : Res :=
  let t := s.cur.tile
  let T := s.tile t
  let listed := ((s.part T.tag).map fun P => P.images.filter fun x => x.ctx == T.ctl.ctx && x.listed).getD []
  match listed.find? fun x => !s.imageGood T.tag x with
  | some x => .next ((s.refuseImage T.tag x).pushAt t 0 .restoreListLoad)
  | none => match listed.findSome? (s.placements t) with
    | none => .next s
    | some l => .next (l.foldl (fun s y => s.takeImage y.1 y.2) s)

/-! ## Writes to registers and tables -/

/-- CONTEXT_BLOCK_WRITE (R321): a write of `size` bytes at an offset of a context's block, by a program of the given
privilege or by the host with or without the T bit. -/
def execContextBlockWrite (tag ctx off value size : Nat) (user tbit : Bool) (s : State) : Res :=
  let free := tbit && decide (off = 0x10) && decide (size ≤ 4)
  match s.locksOn tag ctx with
  | q :: _ =>
    if free then .next (s.modCtx tag ctx fun c => c.writeBlock off size value (!user))
    else .next (s.push [.lockedItemWrite q.1 (0x20000 + 64 * ctx + off) 0])
  | [] => .next (s.modCtx tag ctx fun c => c.writeBlock off size value (!user))

/-- REGISTER_WRITE (R2): a write of a tile's special register that has no row of its own keeps its reserved and read-only
fields; it acts on the tile's active context, and on group slot State.cur.slot for a group's registers. -/
def execRegisterWrite (tile reg value : Nat) (s : State) : Res :=
  if 8400 ≤ tile then .next s
  else
    let c := s.cur
    let s1 := { s with cur := { c with tile := tile } }.mtsWrite reg value
    .next { s1 with cur := c }

end Sys2Proof.Machine
end

