-- ==== Sys2Proof/Machine/Agent.lean ====
section
/-! DEFINITION. The agents' part in launches (R34 to R39, R53 to R60, R320): context images, claims, clusters, the build
of a team and its end. -/

namespace Sys2Proof.Machine

/-! ## Context images (Table 13.5) -/

/-- A context image from its 64 bytes. -/
def parseImage (v : Nat) : CtxImage :=
  { entry := bits v 0 64, timage := bits v 64 64, s1root := bits v 128 64, utrap := bits v 192 64
    pool := bits v 256 16, slabs := bits v 272 16, accRows := bits v 288 16, flags := bits v 304 8
    bint := bits v 320 32, leasecap := bits v 352 32, items := bits v 384 32
    rsvd := bits v 307 5 != 0 || bits v 312 8 != 0 || bits v 416 96 != 0 }

/-- The image breaks no rule of R320. R77 gives 1 as the least number of slabs, and no rule makes an image with SLABS = 0 invalid:
it is accepted, and its teams have no scratchpad (log 101). -/
def CtxImage.ok (i : CtxImage) : Bool :=
  (i.entry != 0) != (i.timage != 0) &&
  (if i.entry != 0 then i.items == 0 else decide (1 ≤ i.items) && decide (i.items ≤ 1024)) &&
  i.accRows % 16 == 0 && !i.rsvd && poolValid i.pool && decide (1024 ≤ i.leasecap) && decide (i.leasecap ≤ 262144) &&
  decide (i.bint < 2 ^ 20)

/-- Read the context image of a launch as an agent does; none where it cannot be read. -/
def State.readImage (s : State) (tag ctx image : Nat) : Option CtxImage :=
  (s.virtRead tag ctx image 64 .agent).map parseImage

/-! ## Fits (R55) -/

/-- The tile settings of a control state agree with an image's. -/
def CtxCtl.agrees (c : CtxCtl) (i : CtxImage) : Bool :=
  c.pool.toNat == i.pool && c.bint == i.bint && c.leasecap == i.leasecap && c.check == tbit i.flags 0

/-- Two images ask for the same tile settings. -/
def CtxImage.agrees (i j : CtxImage) : Bool :=
  i.pool == j.pool && i.bint == j.bint && i.leasecap == j.leasecap && tbit i.flags 0 == tbit j.flags 0

/-- The tile holds, or a granted reservation is to fill, the template slot of a launch's host image (R37, R55). -/
def Tile.hostTmpl (T : Tile) (seq : Nat) : Option Nat :=
  ((T.store.find? fun x => x.2.host && x.2.cslot == T.act && x.2.seq == seq).map (·.1)).or
    ((T.granted.find? fun r => r.seq == seq && r.tslot.isSome).bind (·.tslot))

/-- Fits: the five conditions of R55, with granted reservations counted as held. -/
def Tile.fits (T : Tile) (i : CtxImage) (g seq : Nat) : Bool :=
  let c := T.ctl
  let gr := T.granted
  let p := BitVec.ofNat 16 i.pool
  (c.teams == [] || c.agrees i) && (gr.all fun r => r.img.agrees i) &&
  T.admits i.pool i.slabs &&
  decide (g ≤ T.freeSlots.length) &&
  decide (i.slabs + gr.foldl (fun a r => a + r.img.slabs) 0 ≤ T.freeSlabs p) &&
  decide (i.accRows + gr.foldl (fun a r => a + r.img.accRows) 0 ≤ T.freeRows p) &&
  (i.timage == 0 || T.freeTmpl != [] || (T.hostTmpl seq).isSome)

/-- A ready bin would take a free slot: it goes before a claim and a reservation (R46, R59). Pending stamped groups take
reserved slots alone, which no claim sees as free (R34). -/
def Tile.binFirst (T : Tile) : Bool := (oldestReady T.ctl.bins).isSome && T.freeSlots != [] && !T.ctl.noClaim

/-- A tile of a partition that can hold a launch at all (R53): its POOLSZ admits the word and the scratchpad of the
image. -/
def Tile.couldHold (T : Tile) (i : CtxImage) : Bool :=
  T.admits i.pool i.slabs

/-! ## Building a team (R57, R58) -/

/-- The agent's choice of `n` slots among the free ones, which the spec leaves open (R34). -/
def pickSlots : Nat → Nat → List Nat → List Nat
  | 0, _, _ => []
  | n + 1, k, l =>
    if l.length ≤ n + 1 then l
    else
      let x := l.getD (Config.pick k l.length % l.length) 0
      x :: pickSlots n (k + 1) (l.filter (· != x))

/-- Numbers in rising order. -/
def insertUp (x : Nat) : List Nat → List Nat
  | [] => [x]
  | y :: l => if x ≤ y then x :: y :: l else y :: insertUp x l

/-- The agent fails a launch through its abort port (R364, R367). -/
def State.failLaunch (s : State) (tag ctx seq code : Nat) : State :=
  s.push [.abortPortWrite tag ctx (seq % 2 ^ 32 * 2 ^ 32 + code * 256)]

/-- The registers that a template image's VMASK selects, without its index register. -/
def maskRegs (m idx : Nat) : List Nat := (List.range 128).filter fun i => tbit m i && i != idx

/-- A host-prepared template image as the agent checks it (R38); none where it is invalid. -/
def State.readTemplate (s : State) (tag ctx cslot seq team root image nv : Nat) : Option Template :=
  let rd (o n : Nat) : Option Nat := (s.xlateAt tag ctx root (image + o) .read .agent).map fun pa => s.devMemRead (s.ctx tag ctx) pa n
  match rd 0 8, rd 8 8, rd 16 8, rd 24 8 with
  | some e, some h, some m0, some m1 =>
    let mask := m0 + 2 ^ 64 * m1
    let idx := h % 128
    let regs := maskRegs mask idx
    let rsv := (List.range 4).any fun i => rd (32 + 8 * i) 8 != some 0
    let ks := (List.range 32).map fun i => rd (64 + 4 * i) 4
    let vs := (List.range regs.length).map fun j => rd (192 + 4 * j) 4
    let entry := e % 2 ^ 56
    let hdr := (s.xlateAt tag ctx root entry .execute .agent).map fun pa => BitVec.ofNat 64 (s.physRead pa 8)
    let landing := match hdr with
      | some w => entry % 8 == 0 && isHeader w && tbit w.toNat 2
      | none => false
    if image % 64 != 0 || 2 ^ 56 ≤ e || 2 ^ 15 ≤ h || tbit h 7 || rsv || !landing || regs.any (fun i => decide (nv ≤ i)) ||
        ks.any Option.isNone || vs.any Option.isNone then none
    else some {
      ctx := ctx, cslot := cslot, teams := [team], seq := seq, num := 0, entry := entry, idx := idx, parent := none, depth := 1
      k := (List.range 32).foldl (fun m i => amPut 0 m i (BitVec.ofNat 32 (((ks.getD i none)).getD 0))) []
      pred := BitVec.ofNat 8 (bits h 8 7 * 2)
      mask := regs.foldl setBit 0
      v := (regs.zip vs).foldl (fun m x => amPut 0 m x.1 (BitVec.ofNat 32 (x.2.getD 0))) []
      link := 0, live := true, host := true, bad := false }
  | _, _, _, _ => none

/-- The tile's settings for a context: the pool word (with the whole L1 invalid, R91), BINT, LEASECAP, the
checking-scoreboard mode and the root, applied when the context holds no team on the tile (R57, R58). -/
def Tile.applyImage (T : Tile) (i : CtxImage) (n : Nat) : Tile :=
  let c := T.ctl
  if c.teams = [] then
    { T.setCtl { c.applyPool (BitVec.ofNat 16 i.pool) n with
        bint := i.bint, leasecap := i.leasecap, check := tbit i.flags 0, s1root := i.s1root } with l1 := [] }
  else T.setCtl { c with s1root := i.s1root }

/-- What earlier teams have left in a team's slabs and units, by its own offsets (R58). -/
def Team.inherit (x : Team) (c : CtxCtl) : Team :=
  { x with
    sp := x.spAt.zipIdx.foldl (fun m p => c.spLeft.foldl (fun m b =>
      if b.1 / 4096 = p.1 then amSet m (p.2 * 4096 + b.1 % 4096) b.2 else m) m) x.sp
    acc := x.accAt.zipIdx.foldl (fun m p => c.accLeft.foldl (fun m b =>
      if b.1 / 1024 = p.1 then amSet m (p.2 * 1024 + b.1 % 1024) b.2 else m) m) x.acc }

/-- A team that ends leaves its values in its slabs and units (R58). -/
def CtxCtl.leave (c : CtxCtl) (x : Team) : CtxCtl :=
  { c with
    spLeft := x.sp.foldl (fun m b => amSet m (x.spPlace b.1) b.2) c.spLeft
    accLeft := x.acc.foldl (fun m b => amSet m (x.accPlace (b.1 / 64) * 64 + b.1 % 64) b.2) c.accLeft
    teams := amDel c.teams x.id }

/-- The team that a ticket stands for, before its work starts. Which free slabs and units it gets is not visible: the lowest. -/
def newTeam (s : State) (t num : Nat) (l : Launch) (i : CtxImage) (resv : List Nat) (anchor : Nat) : Team :=
  let c := (s.tile t).ctl
  let x : Team := {
    id := s.nextId, num := num, seq := l.seq, resv := resv, pend := [], slabs := i.slabs, init := c.poolInit, accInit := c.accInit
    spAt := lowestFree i.slabs c.slabsHeld, accAt := lowestFree (i.accRows / 16) c.unitsHeld
    sp := [], full := [], slabSt := [], accRows := i.accRows, acc := [], accSt := [], accUse := [], accDirty := []
    tclk := 0, ticks := [], resSince := s.cycle t, resBase := 0, anchor := anchor, cw := l.cw, ch := l.ch
    plain := decide (l.cw * l.ch ≤ 1), root := i.s1root, utrap := i.utrap, flags := i.flags, started := true
    barT := 0, barC := 0, lostC := false, rh := 0, ended := false }
  x.inherit c

/-- The leader's group: lane 0 at the prologue entry with every register zero (R25, R39). -/
def leaderGroup (s : State) (t team entry : Nat) : Group :=
  { live := true, team := team, gid := s.nextId, leader := true
    lanes := { st := .live, pc := entry } :: List.replicate 31 {}, nextCyc := s.cycle t + 8, decCyc := s.cycle t + 8 }

/-- Group slots for a team or a reservation, in rising order. -/
def State.chooseSlots (s : State) (T : Tile) (g : Nat) : List Nat :=
  (pickSlots g (s.free * 64) T.freeSlots).foldl (fun a x => insertUp x a) []

/-- Build one team on a tile (R57, R39) in the group slots given, with the template slot that its reservation holds: settings,
slots and space, then the template image with its stamped items or the prologue leader. An invalid template image fails the
launch with CODE 3 and writes no record (R367; R38 speaks of a TMPL record, log 96). A template slot that was free or held
and that a repair has disabled meanwhile leaves none to load: this fails the launch with CODE 3 too (log 96). -/
def State.buildTeam (s : State) (t num : Nat) (l : Launch) (i : CtxImage) (anchor : Nat) (resv : List Nat) (tslot : Option Nat) :
    State :=
  let T := (s.tile t).applyImage i s.nextId
  let ctx := T.ctl.ctx
  let x := newTeam (s.setTile t T) t num l i resv anchor
  let T := { T with icache := s.mem, codeFrom := s.writes.length }
  let s := ((s.setTile t T).drawn).fresh
  if i.timage = 0 then
    let T := T.setTeam x
    let g := resv.headD 0
    (s.setTile t (T.setGroup g (leaderGroup s t x.id i.entry))).fresh
  else
    let stamp (T : Tile) (slot : Nat) : State :=
      let gs := stampGroups slot 0 i.items
      (s.setTile t (T.setTeam { x with pend := gs })).push (gs.map fun _ => .stampedGroupLaunch t x.id)
    match T.store.find? fun z => z.2.host && z.2.cslot == T.act && z.2.seq == l.seq with
    | some (slot, z) => stamp { T with store := amSet T.store slot { z with teams := x.id :: z.teams } } slot
    | none =>
      match (tslot.filter fun i => !T.storeBad.contains i).or T.freeTmpl.head?,
          s.readTemplate T.tag ctx T.act l.seq x.id i.s1root i.timage (poolNv T.ctl.pool) with
      | some slot, some z => stamp { T with store := amSet T.store slot z } slot
      | _, _ => s.failLaunch T.tag ctx l.seq 3

/-! ## Records (R54) and claims (R55) -/

/-- Virtual address of a launch's record: slot SEQ mod 64 of the launch area. -/
def recordVa (c : Ctx) (seq : Nat) : Nat := c.larea + 64 * (seq % 64)

/-- Add 1 to a little-endian counter of `n` bytes at its home, as an agent's ATOM does; answers the old value. -/
def State.agentAdd (s : State) (tag ctx va n : Nat) : Option (State × Nat) :=
  (s.xlate tag ctx va .readWrite .agent).map fun pa =>
    let own := ((s.ctx tag ctx).map (·.owner)).getD 0
    let old := s.devMemRead (s.ctx tag ctx) pa n
    let s := if regionOf pa = Region.plinth then (s.l2Touch tag own pa 14 s.wtime true true).1 else s
    (s.devMemWrite (s.ctx tag ctx) pa n ((old + 1) % 2 ^ (8 * n)), old)

/-- Member tiles of a cluster with its south-west corner at a place, with the offset's team number; none where the
rectangle does not lie wholly in the partition (R56, R57). -/
def Part.rectangle (P : Part) (place cw ch : Nat) : Option (List (Nat × Nat)) :=
  let px := place % P.lw
  let py := place / P.lw
  if P.lw < px + cw || P.lh < py + ch then none
  else
    let cells := (List.range ch).flatMap fun j => (List.range cw).map fun i => ((py + j) * P.lw + px + i, j * cw + i)
    let tiles := cells.filterMap fun x => (amGet P.places x.1).map fun t => (t, x.2)
    if tiles.length = cells.length then some tiles else none

/-- The agent may claim: its context is active and nothing holds claims (R67, R305, R394). -/
def State.mayClaim (s : State) (t : Nat) : Bool :=
  let T := s.tile t
  (T.slot T.act).st == .active && !T.ctl.noClaim && T.quiesce == .none && !T.agentStop &&
  match s.part T.tag with
  | some P => !P.heldStop && P.paused.isNone
  | none => false

/-- The loop of R55 over the listed launches. A launch whose context image the agent cannot read is passed over, as one that
does not fit: the spec does not say what an agent does whose read does not translate (log 97). -/
def State.claimFrom (s : State) (t : Nat) : List Launch → State
  | [] => s
  | l :: r =>
    let T := s.tile t
    let ctx := T.ctl.ctx
    match s.part T.tag, s.ctx T.tag ctx, s.readImage T.tag ctx l.image with
    | some P, some c, some i =>
      if !i.ok then (s.failLaunch T.tag ctx l.seq 2).claimFrom t r
      else
        let members := P.rectangle T.place l.cw l.ch
        if !T.fits i l.g l.seq || members.isNone then s.claimFrom t r
        else match s.agentAdd T.tag ctx (recordVa c l.seq) 4 with
          | none => s.claimFrom t r
          | some (s, k) =>
            let s := if k + 1 = l.units then s.modLaunch T.tag ctx l.seq (fun l => { l with listed := false }) |>.wake T.tag else s
            if l.units ≤ k then s.claimFrom t r
            else if l.cw * l.ch ≤ 1 then (s.buildTeam t k l i T.place (s.chooseSlots T l.g) none).push [.agentClaim t]
            else
              let s := s.modTile t fun T => { T with anchoring := T.anchoring ++ [{ ctx := ctx, seq := l.seq, c := k }] }
              s.push ((members.getD []).map fun m => .clusterReservation m.1 t l.seq k)
    | _, _, _ => s.claimFrom t r

/-- Launches on the active list in ascending SEQ. -/
def Ctx.active (c : Ctx) : List Launch := c.launches.filter fun l => l.listed && !l.complete && l.aborted.isNone

/-- The supplied firmware takes the launch notices and the other events that stand for no trap. -/
def State.agentHears (s : State) (t : Nat) : State :=
  if (s.tile t).firmware then s.modTile t fun T => T.aevtDrop fun e => e.kind != 1 else s

/-- AGENT_CLAIM (R55): images on the restore list come first (R363), then a queued reservation (R56), then the listed
launches. -/
def execAgentClaim (tile : Nat) (s : State) : Res :=
  let s := s.agentHears tile
  let T := s.tile tile
  let ctx := T.ctl.ctx
  if !s.mayClaim tile then .next s
  else if T.binFirst then .next ((s.again (.binGroupLaunch tile)).again (.agentClaim tile))
  else match s.part T.tag, s.ctx T.tag ctx with
  | some P, some c =>
    if P.images.any fun x => x.ctx == ctx && x.listed && (s.placements tile x).isSome then
      .next ((s.pushAt tile 0 .restoreListLoad).push [.agentClaim tile])
    else if T.resv.any fun r => r.ctx == ctx && !r.granted then .next (s.push [.clusterReservationGrant tile])
    else .next (s.claimFrom tile c.active)
  | _, _ => .next s

/-! ## Clusters (R56, R57) -/

/-- A reservation comes before another: lower (SEQ, c). -/
def Resv.before (a b : Resv) : Bool := decide (a.seq < b.seq) || (a.seq == b.seq && decide (a.c < b.c))

/-- The reservation with the lowest (SEQ, c). -/
def firstResv : List Resv → Option Resv
  | [] => none
  | r :: l => match firstResv l with
    | none => some r
    | some q => if q.before r then some q else some r

/-- Every member of a cluster has granted its reservation. -/
def State.allGranted (s : State) (tag anchor ctx seq c : Nat) : Bool :=
  match s.part tag, (s.ctx tag ctx).bind fun x => x.launch seq with
  | some P, some l =>
    (match P.rectangle (s.tile anchor).place l.cw l.ch with
    | some ms => ms.all fun m => (s.tile m.1).resv.any fun r =>
        r.granted && r.anchor == anchor && r.ctx == ctx && r.seq == seq && r.c == c
    | none => false)
  | _, _ => false

/-- A grant holds group slots, and a template slot where the launch names an image that the tile has not loaded (R55, R56). -/
def State.granting (s : State) (T : Tile) (r : Resv) : Resv :=
  { r with granted := true, slots := s.chooseSlots T r.g
           tslot := if r.img.timage = 0 then none else (T.hostTmpl r.seq).or T.freeTmpl.head? }

/-- A reservation loses its grant. -/
def Resv.revoked (q : Resv) : Resv := { q with granted := false, slots := [], tslot := none }

/-- The arrival of a reservation revokes the grants of higher ones whose clusters are not wholly granted (R56). -/
def State.revokeFor (s : State) (T : Tile) (r : Resv) : List Resv :=
  T.resv.map fun (q : Resv) =>
    if q.ctx = r.ctx && q.granted && r.before q && !s.allGranted T.tag q.anchor q.ctx q.seq q.c then q.revoked else q

/-- Serve the lowest queued reservation: granted where Fits holds; a ready bin goes before it (R46, R74). -/
def State.serveResv (s : State) (t : Nat) : State :=
  let T := s.tile t
  let ctx := T.ctl.ctx
  if T.binFirst then (s.again (.binGroupLaunch t)).again (.clusterReservationGrant t)
  else match firstResv (T.resv.filter fun r => r.ctx == ctx && !r.granted) with
  | none => s
  | some r =>
    if T.fits r.img r.g r.seq then
      (s.setTile t { T with resv := T.resv.map fun q => if q = r then s.granting T r else q }).drawn.push
        [.clusterBuild r.anchor r.seq r.c, .clusterReservationGrant t]
    else s

/-- CLUSTER_RESERVATION (R56): a member receives an anchor's reservation and grants or queues it. A router can drop the
reservation on its way: it is lost, and the build goes on waiting for the member (R390). -/
def execClusterReservation (tile anchor seq c : Nat) (s : State) : Res :=
  let A := s.tile anchor
  let T := s.tile tile
  match A.anchoring.find? fun a => a.seq == seq && a.c == c && a.ctx == A.ctl.ctx with
  | none => .next s
  | some a =>
    match s.part A.tag, (s.ctx A.tag a.ctx).bind fun x => x.launch seq with
    | some P, some l =>
      if a.lost.contains tile || T.resv.any (fun r => r.anchor == anchor && r.ctx == a.ctx && r.seq == seq && r.c == c) then .next s
      else match (P.rectangle A.place l.cw l.ch).bind fun ms => ms.find? fun m => m.1 == tile, s.readImage A.tag a.ctx l.image with
        | some m, some i =>
          let r : Resv := { anchor := anchor, ctx := a.ctx, seq := seq, c := c, num := c * l.cw * l.ch + m.2, g := l.g, img := i,
                            granted := false, slots := [], tslot := none }
          let p := s.meshPacket anchor tile 6 l.owner T.place 0
          match if tile = anchor then none else s.dropOnWay 8400 anchor p with
          | some d =>
            .next (((s.dropOther a.ctx p d).noteTrap anchor 32 0 0 .xlate 5 T.place 0).modTile anchor fun A =>
              { A with anchoring := A.anchoring.map fun b => if b = a then { b with lost := tile :: b.lost } else b })
          | none =>
            let s := s.setTile tile { T with resv := s.revokeFor T r ++ [r] }
            .next (if s.mayClaim tile then s.serveResv tile else s)
        | _, _ => .next s
    | _, _ => .next s

/-- CLUSTER_RESERVATION_GRANT (R56) -/
def execClusterReservationGrant (tile : Nat) (s : State) : Res :=
  .next (if s.mayClaim tile then s.serveResv tile else s)

/-- CLUSTER_BUILD (R57): when every member has granted, the cluster's teams are built and start together. -/
def execClusterBuild (anchor seq c : Nat) (s : State) : Res :=
  let A := s.tile anchor
  let ctx := A.ctl.ctx
  match s.part A.tag, (s.ctx A.tag ctx).bind fun x => x.launch seq with
  | some P, some l =>
    if !(A.anchoring.any fun a => a.ctx == ctx && a.seq == seq && a.c == c) || !s.allGranted A.tag anchor ctx seq c then .next s
    else match P.rectangle A.place l.cw l.ch with
    | none => .next s
    | some ms =>
      if !(ms.all fun m => s.mayClaim m.1 && decide ((s.tile m.1).ctl.ctx = ctx)) then .next s
      else
        let mine (r : Resv) : Bool := r.anchor == anchor && r.ctx == ctx && r.seq == seq && r.c == c
        let s := s.modTile anchor fun T =>
          { T with anchoring := T.anchoring.filter fun a => !(a.ctx == ctx && a.seq == seq && a.c == c) }
        .next (ms.foldl (fun s m =>
          match (s.tile m.1).resv.find? mine with
          | none => s
          | some r =>
            let s := s.modTile m.1 fun T => { T with resv := T.resv.filter fun q => !mine q }
            (s.buildTeam m.1 r.num l r.img A.place r.slots r.tslot).push [.agentClaim m.1]) s)
  | _, _ => .next s

/-! ## The end of a team (R35, R37, R60) -/

/-- A team's work is over: no group, no pending stamp, no bin of it, and no item that a restore holds for its bins (R35, R47).
An item that a remote SPAWN has brought and no bin has accepted does not keep it. -/
def Tile.teamDone (T : Tile) (x : Team) : Bool :=
  !(T.ctl.groups.any fun g => g.2.live && g.2.team == x.id) && x.pend == [] &&
  !(T.ctl.bins.any fun b => b.2.team == x.id) && !T.ctl.held.any fun h => h.team == x.id && h.req == 0

/-- Full/empty requests of other tiles that wait at a word of a team that has ended are answered with XLATE (R242). -/
def State.feOrphans (s : State) (t team : Nat) : State :=
  (s.reqs.filter fun q => q.2.isFe && q.2.arr && !q.2.perf && q.2.rtile == t && q.2.rteam == team && q.2.tile != t).foldl
    (fun s q => s.respond q.1 { q.2 with ecc := errNoTeam }) s

/-- Items of remote SPAWNs that wait for a bin of a team that has ended find its templates stale (R48). -/
def State.staleHeld (s : State) (t team : Nat) : State :=
  let T := s.tile t
  let gone := T.ctl.held.filter fun h => h.team == team
  let s := s.setTile t (T.setCtl { T.ctl with held := T.ctl.held.filter fun h => h.team != team })
  gone.foldl (fun s h => match s.req h.req with
    | some r => s.respond h.req { r with ecc := errStale }
    | none => s) s

/-- Every store of a team is acknowledged and its horizon has passed at system scope; its engine commands are done. -/
def State.teamSettled (s : State) (t : Nat) (x : Team) : Bool :=
  let T := s.tile t
  !(s.reqs.any fun q => q.2.tile == t && q.2.ctx == T.ctl.ctx && q.2.tag == T.tag && q.2.team == x.id) &&
  !(T.copies.any fun c => c.team == x.id) && !(T.arr.q.any fun c => c.team == x.id) && s.passed t x.rh

/-- A team's templates are released; a slot shared by the teams of a launch goes with the last of them (R37). -/
def Tile.releaseTemplates (T : Tile) (team : Nat) : Tile :=
  { T with store := T.store.filterMap fun z =>
      let ts := z.2.teams.filter (· != team)
      if z.2.teams.contains team then (if ts = [] then none else some (z.1, { z.2 with teams := ts })) else some z }

/-- A launch's team count. -/
def Launch.teams (l : Launch) : Nat := l.units * (l.cw * l.ch)

/-- TEAM_END (R35, R60): the team's templates are released; once its stores are visible at system scope DONE goes up by 1,
and the add that completes the launch adds 1 to its completion signal. -/
def execTeamEnd (tile team : Nat) (s : State) : Res :=
  let T := s.tile tile
  match T.team team with
  | none => .next s
  | some x =>
    if !T.teamDone x then .next s
    else
      let T := T.releaseTemplates team
      let rel := T.arr.holder == some team
      let T := T.setTeam { x with ended := true }
      let T := if rel then { T with arr := { T.arr with releasing := true } } else T
      let s := ((s.setTile tile T).staleHeld tile team).feOrphans tile team
      let s := if rel then s.againAt tile 0 .planeRelease else s
      if !s.teamSettled tile x then .next ((s.flushFor tile .sys).again (.teamEnd tile team))
      else
        let ctx := T.ctl.ctx
        let s := s.modTile tile fun T => T.setCtl (T.ctl.leave ((T.team team).getD x))
        let s := match s.ctx T.tag ctx, (s.ctx T.tag ctx).bind fun c => c.launch x.seq with
          | some c, some l =>
            if l.complete || l.aborted.isSome then s
            else match s.agentAdd T.tag ctx (recordVa c l.seq + 4) 4 with
              | none => s
              | some (s, k) =>
                if k + 1 = l.teams then
                  let s := s.modLaunch T.tag ctx l.seq fun l => { l with complete := true, listed := false }
                  let s := if l.irq then s.queueVector l.ifn l.vec else s
                  let s := s.wake T.tag
                  if l.signal = 0 then s
                  else match s.agentAdd T.tag ctx l.signal 8 with
                  | some (s, _) => s
                  | none => s
                else s
          | _, _ => s
        .next ((s.push [.binGroupLaunch tile, .clusterReservationGrant tile, .agentClaim tile]).pushAt T.tag 0 .sliceBoundary)

end Sys2Proof.Machine
end

