-- ==== Sys2Proof/Machine/Queue.lean ====
section
/-! DEFINITION. Queues (R314 to R316), their errors (R411 to R413), packets (R317, R318), the arbiter (R49 to R54), what
each admitted packet does (R319), write-backs (R415), interrupt moderation (R323) and ATS (R419). -/

namespace Sys2Proof.Machine

/-! ## Addresses as the arbiter reads them -/

/-- A partition virtual address of a context, at privilege A: its module physical address, or the XLATE cause. A packet
never reaches a leaf with AONLY (R324), and no atomic goes to a device page or through a peer window (R334). -/
def State.arbAddr (s : State) (tag ctx va : Nat) (kind : AccKind) (shut : Bool) : Except Nat Nat :=
  match s.ctx tag ctx with
  | none => .error 2
  | some c =>
    if 2 ^ 56 ≤ va then .error 1
    else match (s.walk tag ctx c.s1root va).check va kind .agent with
    | .ok e =>
      if shut && e.aonly then .error 3
      else (match regionOf (e.phys va) with
        | .plinth | .host _ _ => .ok (e.phys va)
        | .device _ _ | .peer _ _ _ => if kind = .readWrite then .error 8 else .ok (e.phys va)
        | .reserved => .error 8)
    | .fault two _ _ => .error (if two then 3 else 2)
    | .miss => .error 2

/-- Poison in `n` bytes at a module physical address of the plinth. -/
def State.arbPoison (s : State) (pa n : Nat) : Bool := regionOf pa == .plinth && s.poisoned pa n

/-- Key of a host I/O virtual address of the function under a queue's PASID (R314). -/
def queueHostKey (c : QueueCfg) (a : Nat) : Nat := a + 2 ^ 64 * (1 + c.pasid) + 2 ^ 96 * c.tag

/-- `n` bytes of a queue's ring or QCB, in the ring's space; the code 8 details where they cannot be read. -/
def State.ringRead (s : State) (c : QueueCfg) (a n : Nat) : Except (Nat × Nat) (List Byte) :=
  if c.ringsp then .ok (Memory.bytes s.host (queueHostKey c a) n)
  else match s.arbAddr c.tag c.ctx a .read false with
    | .error k => .error (a, k)
    | .ok pa => if s.arbPoison pa n then .error (a, 0x100) else .ok (leBytes n (s.devMemRead (s.ctx c.tag c.ctx) pa n))

/-- Write bytes in the ring's space; nothing where they do not translate. -/
def State.ringWrite (s : State) (c : QueueCfg) (a : Nat) (l : List Byte) : State :=
  if c.ringsp then s.setHost (Memory.putBytes s.host (queueHostKey c a) l)
  else match s.arbAddr c.tag c.ctx a .write false with
    | .error _ => s
    | .ok pa => s.devMemWrite (s.ctx c.tag c.ctx) pa l.length (leNum l)

/-- Address of the packet at an index (R314). -/
def slotAddr (c : QueueCfg) (i : Nat) : Nat := c.base + 64 * (i % 2 ^ c.logsz)

/-! ## Write-back (R316, R415) -/

/-- The QCB bytes that the device writes: 0 to 7, 16 and 64 to 127 (Table 13.2). -/
def Queue.image (q : Queue) (ifn : Nat) : List Byte :=
  leBytes 4 q.widx ++ leBytes 4 q.ridx ++ leBytes 1 q.state.ctorIdx ++
  leBytes 64 (q.cfg.base % 2 ^ 64 + q.cfg.logsz % 256 * 2 ^ 64 + q.cfg.prio % 256 * 2 ^ 72 + q.cfg.owner % 256 * 2 ^ 80
    + q.cfg.ctx % 256 * 2 ^ 88 + q.cfg.pasid % 2 ^ 20 * 2 ^ 96 + ifn % 2 ^ 16 * 2 ^ 128
    + (if q.cfg.ringsp then 1 else 0) * 2 ^ 144)

/-- A change of state is written back at once. -/
def State.backNow (s : State) (ifn : Nat) : State :=
  (s.modQueue ifn fun q => { q with wbDue := true, wbAt := none }).again (.qcbWriteback ifn)

/-- An admission is written back, at most once per microsecond. -/
def State.backSoon (s : State) (ifn : Nat) : State :=
  (s.modQueue ifn fun q => { q with wbDue := true }).again (.qcbWriteback ifn)

/-- Words of 8 bytes of the QCB in which compared bytes differ: 0, 2 and 8 to 15. -/
def diffWords (mem img : List Byte) : List Nat :=
  (if mem.take 8 == img.take 8 then [] else [0]) ++
  (if (mem.drop 16).take 1 == (img.drop 8).take 1 then [] else [2]) ++
  ((List.range 8).filter fun i => (mem.drop (64 + 8 * i)).take 8 != (img.drop (9 + 8 * i)).take 8).map (· + 8)

/-- QCB_WRITEBACK (R316, R415): the in-memory QCB is compared with what the device last wrote there; a difference is
counted and reported, and the write-back overwrites it. -/
def execQcbWriteback (ifn : Nat) (s : State) : Res :=
  match s.queue ifn with
  | none => .next s
  | some q =>
    let early := match q.wbAt with
      | some t => decide (s.wtime < t + 1000)
      | none => false
    if !q.wbDue then .next s
    else if early then .next (s.again (.qcbWriteback ifn))
    else
      let img := q.image ifn
      let found := match s.ringRead q.cfg q.cfg.qcb 128 with
        | .ok l => l
        | .error _ => []
      let diff := if found = [] || q.shadow = [] then [] else diffWords found q.shadow
      let s := s.setQueue ifn { q with
        wbDue := false, wbAt := some s.wtime, shadow := if found = [] then q.shadow else img
        tamper := if diff = [] then q.tamper else min (q.tamper + 1) 65535 }
      let s := if found = [] then s else
        ((s.ringWrite q.cfg q.cfg.qcb (img.take 8)).ringWrite q.cfg (q.cfg.qcb + 16) ((img.drop 8).take 1)).ringWrite q.cfg
          (q.cfg.qcb + 64) (img.drop 9)
      .next (match diff with
        | [] => s
        | i :: _ => s.post q.cfg.tag q.cfg.ctx
            { kind := 6, n := ifn, value := diff.foldl (fun a j => a + 2 ^ j) 0, info := sliceNum found (8 * i) 8 })

/-! ## Errors (R411 to R413) -/

/-- Post an event record; the context's vector is raised under IRQEN even where the record is lost (R411). -/
def State.postOrRaise (s : State) (tag ctx : Nat) (e : EvRec) : State :=
  let s1 := s.post tag ctx e
  match s.ctx tag ctx, s1.ctx tag ctx with
  | some a, some b => if a.irqen && b.evprod = a.evprod then s1.raiseVector tag a.vec else s1
  | _, _ => s1

/-- A queue enters ERROR at its first condition: its indices freeze, the record is written, STATE is written back, the
physical function raises vector 0 and the context receives a kind-4 record. Codes 10 to 15 abort its launches. -/
def State.queueErr (s : State) (ifn code d1 d2 : Nat) : State :=
  match s.queue ifn with
  | none => s
  | some q =>
    if q.state == .error then s
    else
      let c := q.cfg
      let ridx := match q.copy with
        | some j => if code = 9 then j.at_ else q.ridx
        | none => q.ridx
      let hdr := if ridx = q.widx then 0
        else match q.head with
        | some h => if ridx = q.ridx then sliceNum h 0 8 else 0
        | none => match s.ringRead c (slotAddr c ridx) 64 with
          | .ok l => sliceNum l 0 8
          | .error _ => 0
      let e : QErr := { code := code, pstate := q.state, hdr := hdr, detail1 := d1, detail2 := d2, wtime := s.wtime,
                        gtime := s.gtime c.tag }
      let s := s.setQueue ifn { q with
        state := .error, err := some e, ridx := ridx, head := none, satisfied := false, waits := [], copy := none
        drain := [], vecPend := none }
      let s := s.backNow ifn
      let link := ((s.part c.tag).map (·.link)).getD 0
      let L := s.link link
      let s := s.setLink link { L with msix := L.msix ++ [(0, 0)] }
      let s := s.postOrRaise c.tag c.ctx { kind := 4, n := ifn, value := 2 ^ 31 + code, info := hdr / 2 ^ 32 }
      let s := q.drain.foldl (fun s d => s.invalDone c.tag c.pasid d.1) s
      if 10 ≤ code && code ≤ 15 then
        (((s.ctx c.tag c.ctx).map (·.launches)).getD []).foldl
          (fun s l => if l.ifn = ifn then s.abortLaunch c.tag c.ctx l 5 0 else s) s
      else s

/-! ## Doorbells (R315) -/

/-- The queue of a partition by its number in the function. -/
def State.queueNo (s : State) (tag q : Nat) : Option (Nat × Queue) :=
  s.queues.find? fun x => x.2.cfg.tag == tag && x.2.cfg.q == q

/-- DOORBELL (R315): the store's value is the new WIDX, or is malformed. The guest fields of the QCB are read again. A
queue in ERROR ignores it, and a locked one takes it only with the T bit (R416). -/
def execDoorbell (tag q value : Nat) (tbit : Bool) (s : State) : Res :=
  match s.queueNo tag q with
  | none => .next s
  | some (ifn, Q) =>
    let n := value % 2 ^ 32
    if Q.state == .error then .next s
    else if (Q.state == .locked || Q.state == .run) && !tbit then .next (s.push [.lockedItemWrite ifn (8 * q) 0])
    else
      let Q := match s.ringRead Q.cfg (Q.cfg.qcb + 8) 8 with
        | .ok l => { Q with imod := sliceNum l 0 4, irqen := sliceNum l 4 1 % 2 == 1 }
        | .error _ => Q
      let s := s.setQueue ifn Q
      if n = Q.widx then .next s
      else if (n + 2 ^ 32 - Q.ridx) % 2 ^ 32 ≤ 2 ^ Q.cfg.logsz then
        .next ((s.setQueue ifn { Q with widx := n }).push [.packetAtHead ifn])
      else .next (s.queueErr ifn 6 n Q.widx)

/-! ## Packets (R317, R318) -/

/-- Byte ranges of a packet's body that Table 13.4 does not list, by TYPE. -/
def reservedBytes (ty : Nat) : List (Nat × Nat) :=
  if ty = 0 then [(8, 64)] else if ty = 1 then [(39, 64)] else if ty = 2 then [(41, 64)] else if ty = 3 then [(25, 64)]
  else if ty = 4 then [(8, 24), (32, 64)] else [(16, 64)]

/-- Byte offset of the first nonzero reserved field of a packet. -/
def reservedAt (p : List Byte) (ty : Nat) : Option Nat :=
  if bits (sliceNum p 1 1) 4 4 ≠ 0 then some 1
  else if bits (sliceNum p 3 1) 3 5 ≠ 0 then some 3
  else if ty = 2 && 4 ≤ sliceNum p 40 1 then some 40
  else if ty = 1 && bits (sliceNum p 1 1) 0 3 = 0 && sliceNum p 24 8 ≠ 0 then some 24
  else (List.range 64).find? fun i => ((reservedBytes ty).any fun r => r.1 ≤ i && i < r.2) && sliceNum p i 1 != 0

/-- Addresses that a packet names, with their alignment. -/
def packetAligns (p : List Byte) (ty : Nat) : List (Nat × Nat) :=
  if ty = 1 then [(sliceNum p 8 8, 64), (sliceNum p 16 8, 8), (sliceNum p 24 8, 64)]
  else if ty = 2 then [(sliceNum p 8 8, 4), (sliceNum p 16 8, 4), (sliceNum p 32 8, 8)]
  else if ty = 3 then [(sliceNum p 8 8, 8)]
  else if ty = 4 then [(sliceNum p 24 8, 64)]
  else if ty = 5 then [(sliceNum p 8 8, 8)]
  else []

/-- The field of a LAUNCH or COPY that is beyond its limit (Tables 3.3 and 13.4): byte offset and value. -/
def packetLimit (p : List Byte) (ty : Nat) : Option (Nat × Nat) :=
  let u := sliceNum p 32 4
  let g := sliceNum p 36 1
  let cw := sliceNum p 37 1
  let ch := sliceNum p 38 1
  let len := sliceNum p 24 8
  if ty = 1 then
    if u = 0 || 16777216 < u then some (32, u)
    else if g = 0 || 32 < g then some (36, g)
    else if cw = 0 || 12 < cw then some (37, cw)
    else if ch = 0 || 12 < cw * ch then some (38, ch)
    else none
  else if ty = 2 && (len < 4 || 2 ^ 32 < len || len % 4 ≠ 0) then some (24, len)
  else none

/-- The error of a packet (R317, R318, Table 19.1): code and details. -/
def packetError (p : List Byte) (msix : Nat) : Option (Nat × Nat × Nat) :=
  let h := sliceNum p 0 8
  let ty := h % 256
  let nw := bits h 8 3
  let vec := bits h 16 11
  if 6 ≤ ty then some (1, ty, 0)
  else match reservedAt p ty with
  | some o => some (2, o, 0)
  | none =>
    if 4 < nw || (nw ≠ 0 && ty ≠ 1 && ty ≠ 4) then some (3, nw, 0)
    else if msix ≤ vec then some (4, vec, msix)
    else match (packetAligns p ty).find? fun a => a.1 % a.2 != 0 with
    | some a => some (5, a.1, a.2)
    | none =>
      if ty = 3 && 2 ≤ sliceNum p 24 1 then some (7, sliceNum p 24 1, 0)
      else (packetLimit p ty).map fun l => (16, l.1, l.2)

/-- Details of code 8 for an address that a packet may not use. -/
def State.waitAddr (s : State) (c : QueueCfg) (va n : Nat) (kind : AccKind) : Except (Nat × Nat × Nat) Nat :=
  match s.arbAddr c.tag c.ctx va kind true with
  | .error k => .error (8, va, k)
  | .ok pa => if s.arbPoison pa n then .error (8, va, 0x100) else .ok pa

/-- The entries of a wait block (R318). -/
def State.waitBlock (s : State) (c : QueueCfg) (va : Nat) : Nat → Except (Nat × Nat × Nat) (List (Nat × Nat))
  | 0 => .ok []
  | n + 1 =>
    match s.waitAddr c va 16 .read with
    | .error e => .error e
    | .ok pa =>
      let v := s.devMemRead (s.ctx c.tag c.ctx) pa 16
      if bits v 0 3 ≠ 0 then .error (5, bits v 0 64, 8)
      else match s.waitBlock c (va + 16) n with
      | .error e => .error e
      | .ok l => .ok ((bits v 0 64, bits v 64 64) :: l)

/-- Every wait signal is satisfied: its counter is at least its threshold, unsigned (R50). -/
def State.waitsMet (s : State) (c : QueueCfg) : List (Nat × Nat) → Except (Nat × Nat × Nat) Bool
  | [] => .ok true
  | (va, th) :: l =>
    match s.waitAddr c va 8 .read, s.waitsMet c l with
    | .error e, _ => .error e
    | _, .error e => .error e
    | .ok pa, .ok b => .ok (b && decide (th ≤ s.devMemRead (s.ctx c.tag c.ctx) pa 8))

/-! ## The arbiter (R49 to R52) -/

/-- Cost of a head packet: the team count of a LAUNCH, else 1 (R51). -/
def headCost (h : List Byte) : Nat :=
  if sliceNum h 0 1 = 1 then sliceNum h 32 4 * (sliceNum h 37 1 * sliceNum h 38 1) else 1

/-- The context can take a launch: fewer than 8 listed, and the record slot of the next SEQ free (R50, R54). -/
def Ctx.roomFor (c : Ctx) : Bool :=
  decide ((c.launches.filter fun l => l.listed).length < 8) &&
  !c.launches.any fun l => l.seq % 64 == c.nextSeq % 64 && !l.complete && l.aborted.isNone

/-- A queue is ready (R50): it admits packets in its state, and its head packet's conditions hold. -/
def State.ready (s : State) (q : Queue) : Bool :=
  (q.state == .unlocked || q.state == .run) && !q.stopping && q.satisfied && q.copy.isNone &&
  (match q.head, s.ctx q.cfg.tag q.cfg.ctx with
  | some h, some c => sliceNum h 0 1 != 1 || c.roomFor
  | _, _ => false) &&
  match s.part q.cfg.tag with
  | some P => !P.heldStop && P.paused.isNone
  | none => false

/-- The ready queues of a partition, by interface number. -/
def State.readyQueues (s : State) (tag : Nat) : List (Nat × Queue) :=
  s.queues.filter fun x => x.2.cfg.tag == tag && s.ready x.2

/-- A list that starts after an element and goes round. -/
def cycleAfter (last : Option Nat) (l : List Nat) : List Nat :=
  match last with
  | none => l
  | some x => (l.filter fun y => decide (x < y)) ++ l.filter fun y => decide (y ≤ x)

/-- The arbiter has still to read the queue's head packet, which decides whether the queue is ready. -/
def Queue.unread (q : Queue) : Bool :=
  (q.state == .unlocked || q.state == .run) && !q.stopping && q.head.isNone && q.copy.isNone && q.ridx != q.widx

/-- The queues of a partition whose head packet is still to be read. -/
def State.unreadQueues (s : State) (tag : Nat) : List (Nat × Queue) :=
  s.queues.filter fun x => x.2.cfg.tag == tag && x.2.unread

/-- An owner that is served at a level and has no ready queue there left falls idle (Table 3.1): its deficit is cleared and the
turn passes. `rs` holds the ready queues with those whose head packet is still to be read. -/
def Part.idleOwners (P : Part) (rs : List (Nat × Queue)) : Part :=
  let has (k : Nat) : Bool := rs.any fun r => r.2.cfg.prio * 64 + r.2.cfg.owner == k
  P.serving.foldl (fun (P : Part) v =>
    let k := v.1 * 64 + v.2
    if has k then P
    else { P with serving := amDel P.serving v.1, lastOwner := amSet P.lastOwner v.1 v.2, deficit := amDel P.deficit k }) P

/-- The owner's queue that is served next at a level (R51). -/
def Part.nextQueue (P : Part) (rs : List (Nat × Queue)) (lvl o : Nat) : Option (Nat × Queue) :=
  let mine := rs.filter fun r => r.2.cfg.prio == lvl && r.2.cfg.owner == o
  match cycleAfter (amGet P.lastQueue (lvl * 64 + o)) (mine.map (·.1)) with
  | [] => none
  | n :: _ => mine.find? fun r => r.1 == n

/-- Credit that an owner receives when the turn reaches it. -/
def State.credit (s : State) (o : Nat) : Nat := 32 * ((amGet s.ks.owners o).getD {}).weight

/-- The turn goes through owners (Table 3.1): each is credited unless it is being served, and the first whose next
packet it can pay for is served; the others keep their deficit. One that has waited and has no ready queue by its turn falls
idle. -/
def State.turns (s : State) (rs : List (Nat × Queue)) (lvl : Nat) : List (Nat × Bool) → Part → Part × Option (Nat × Queue)
  | [], P => (P, none)
  | (o, cred) :: rest, P =>
    let k := lvl * 64 + o
    let d := (amGet P.deficit k).getD 0 + if cred then s.credit o else 0
    match P.nextQueue rs lvl o with
    | none => s.turns rs lvl rest { P with
        deficit := amDel P.deficit k, serving := amDel P.serving lvl, lastOwner := amSet P.lastOwner lvl o }
    | some q =>
      let c := headCost (q.2.head.getD [])
      if c ≤ d then
        ({ P with deficit := amSet P.deficit k (d - c), serving := amSet P.serving lvl o
                  lastQueue := amSet P.lastQueue k q.1 }, some q)
      else s.turns rs lvl rest { P with
        deficit := amSet P.deficit k d, serving := amDel P.serving lvl, lastOwner := amSet P.lastOwner lvl o }

/-- The queue that the arbiter serves next, with the rotation's new state: the highest level, deficit round robin over
the owners that are ready or wait there. Whole rounds in which no owner can pay are taken at once. While the head packet of a
queue of this level or above is still to be read, the arbiter reads it first. -/
def State.select (s : State) (tag : Nat) : Option (Part × Nat × Queue) :=
  match s.part tag with
  | none => none
  | some P =>
    let rs := s.readyQueues tag
    let un := s.unreadQueues tag
    let lvl := rs.foldl (fun a r => max a r.2.cfg.prio) 0
    if rs = [] || un.any fun r => decide (lvl ≤ r.2.cfg.prio) then none
    else
      let P := P.idleOwners (rs ++ un)
      let owners := (List.range 64).filter fun o =>
        (rs.any fun r => r.2.cfg.prio == lvl && r.2.cfg.owner == o) || (amGet P.deficit (lvl * 64 + o)).isSome
      let order := match amGet P.serving lvl with
        | some o => (o, false) :: ((cycleAfter (some o) owners).filter (· != o)).map fun x => (x, true)
        | none => (cycleAfter (amGet P.lastOwner lvl) owners).map fun x => (x, true)
      match s.turns rs lvl order P with
      | (Q, some q) => some (Q, q.1, q.2)
      | (Q, none) =>
        let owners := owners.filter fun o => (Q.nextQueue rs lvl o).isSome
        let order := order.filter fun x => owners.contains x.1
        let need (o : Nat) : Nat :=
          let c := ((Q.nextQueue rs lvl o).map fun q => headCost (q.2.head.getD [])).getD 0
          let d := (amGet Q.deficit (lvl * 64 + o)).getD 0
          (c - d + s.credit o - 1) / max 1 (s.credit o)
        let k := owners.foldl (fun a o => min a (need o)) (2 ^ 40)
        let Q := owners.foldl (fun (Q : Part) o => { Q with
          deficit := amSet Q.deficit (lvl * 64 + o) ((amGet Q.deficit (lvl * 64 + o)).getD 0 + (k - 1) * s.credit o) }) Q
        match s.turns rs lvl (order.map fun x => (x.1, true)) Q with
        | (R, some q) => some (R, q.1, q.2)
        | (_, none) => none

/-- The admission step of a packet's type. -/
def admitEv (tag ty : Nat) : Instr :=
  if ty = 1 then .admitLaunch tag else if ty = 2 then .admitCopy tag else if ty = 3 then .admitSignal tag
  else if ty = 4 then .admitWait tag else if ty = 5 then .admitTimestamp tag else .admitNop tag

/-- The arbiter of a partition looks for a packet to admit. -/
def State.kick (s : State) (tag : Nat) : State :=
  let s := s.modPart tag fun P => P.idleOwners (s.readyQueues tag ++ s.unreadQueues tag)
  match s.select tag with
  | some (_, _, q) => s.again (admitEv tag (sliceNum (q.head.getD []) 0 1))
  | none => s

/-- PACKET_AT_HEAD (R50, R314, R317): the arbiter reads the packet once, checks it, and reads its wait signals. -/
def execPacketAtHead (ifn : Nat) (s : State) : Res :=
  match s.queue ifn with
  | none => .next s
  | some q =>
    if !(q.state == .unlocked || q.state == .run) || q.stopping || q.head.isSome || q.copy.isSome || q.ridx = q.widx then .next s
    else match s.ringRead q.cfg (slotAddr q.cfg q.ridx) 64 with
    | .error (a, k) => .next (s.queueErr ifn 8 a k)
    | .ok p =>
      match packetError p (((s.part q.cfg.tag).map (·.msix)).getD 0) with
      | some (c, x, y) => .next ((s.setQueue ifn { q with head := some p }).queueErr ifn c x y)
      | none =>
        let s := s.setQueue ifn { q with head := some p }
        match s.waitBlock q.cfg (sliceNum p 24 8) (if sliceNum p 0 1 = 1 || sliceNum p 0 1 = 4 then bits (sliceNum p 1 1) 0 3 else 0) with
        | .error (c, x, y) => .next (s.queueErr ifn c x y)
        | .ok ws =>
          match s.waitsMet q.cfg ws with
          | .error (c, x, y) => .next (s.queueErr ifn c x y)
          | .ok b => .next ((s.setQueue ifn { q with head := some p, waits := ws, satisfied := b }).kick q.cfg.tag)

/-- WAIT_SIGNAL_REREAD (R50): the signals of the head packet are read again. -/
def execWaitSignalReread (ifn : Nat) (s : State) : Res :=
  match s.queue ifn with
  | none => .next s
  | some q =>
    if q.head.isNone || q.state == .error then .next s
    else match s.waitsMet q.cfg q.waits with
      | .error (c, x, y) => .next (s.queueErr ifn c x y)
      | .ok b => .next ((s.setQueue ifn { q with satisfied := b }).kick q.cfg.tag)

/-! ## Admission (R53, R319) -/

/-- A packet leaves the head: the read index advances, the write-back is due and the next packet comes up. -/
def State.consume (s : State) (ifn : Nat) : State :=
  ((s.modQueue ifn fun q => { q with
    ridx := (q.ridx + 1) % 2 ^ 32, head := none, satisfied := false, waits := [] }).backSoon ifn).push [.packetAtHead ifn]

/-- Raise a completed packet's vector where its IRQ bit asks for it (R317). -/
def State.packetIrq (s : State) (ifn : Nat) (h : List Byte) : State :=
  if tbit (sliceNum h 0 8) 11 then s.queueVector ifn (bits (sliceNum h 0 8) 16 11) else s

/-- Admit the packet that the arbiter selects, where it has the given type: `f` carries it out, or answers the queue
error that keeps it from being admitted. Its cost leaves the owner's deficit, and its queue counts as served, for a LAUNCH that
R53 refuses too: the spec does not say whether a refused packet is charged (log 102). -/
def State.takePacket (s : State) (tag ty : Nat)
    (f : State → Nat → Queue → List Byte → Except (Nat × Nat × Nat) State) : State :=
  match s.select tag with
  | none => s
  | some (P, ifn, q) =>
    let h := q.head.getD []
    if sliceNum h 0 1 ≠ ty then s.kick tag
    else match f (s.setPart tag P) ifn q h with
    | .ok s => s.kick tag
    | .error (c, x, y) => (s.queueErr ifn c x y).kick tag

/-- The packet is consumed, and its vector raised. -/
def State.finish (s : State) (ifn : Nat) (h : List Byte) : State := (s.consume ifn).packetIrq ifn h

/-- A write of the arbiter at home: the sector is touched, its poison cleared where whole granules are covered. One through a
peer window that the other module refuses is reported (R334). -/
def State.arbWrite (s : State) (c : QueueCfg) (pa n v : Nat) : State :=
  match regionOf pa with
  | .plinth =>
    (((s.l2Touch c.tag c.owner pa 14 s.wtime false true).1).clearPoison pa n).devMemWrite (s.ctx c.tag c.ctx) pa n v
  | .peer _ _ _ =>
    let s1 := s.chargeJar c.owner n
    let v := s.peerVerdict pa
    if v = 0 then s1
    else s1.post c.tag c.ctx { kind := 3, value := v, info := if v = 2 then s.peerBytes pa 8 else 0 }
  | _ => s.devMemWrite (s.ctx c.tag c.ctx) pa n v

/-- ADMIT_NOP (R319) -/
def execAdmitNop (tag : Nat) (s : State) : Res :=
  .next (s.takePacket tag 0 fun s ifn _ h => .ok (s.finish ifn h))

/-- ADMIT_WAIT (R319): nothing beyond its wait. -/
def execAdmitWait (tag : Nat) (s : State) : Res :=
  .next (s.takePacket tag 4 fun s ifn _ h => .ok (s.finish ifn h))

/-- ADMIT_TIMESTAMP (R319): GTIME at admission is stored to ADDR. -/
def execAdmitTimestamp (tag : Nat) (s : State) : Res :=
  .next (s.takePacket tag 5 fun s ifn q h =>
    match s.arbAddr tag q.cfg.ctx (sliceNum h 8 8) .write true with
    | .error k => .error (8, sliceNum h 8 8, k)
    | .ok pa => .ok ((s.arbWrite q.cfg pa 8 (s.gtime tag)).finish ifn h))

/-- Add to or set the 8 bytes at an address, as the arbiter's atomics do. -/
def State.arbAtomic (s : State) (c : QueueCfg) (va v : Nat) (set : Bool) : Except (Nat × Nat × Nat) State :=
  match s.waitAddr c va 8 .readWrite with
  | .error e => .error e
  | .ok pa =>
    let old := s.devMemRead (s.ctx c.tag c.ctx) pa 8
    .ok (s.arbWrite c pa 8 (if set then v else (old + v) % 2 ^ 64))

/-- ADMIT_SIGNAL (R319): an atomic add or exchange of VALUE at ADDR. -/
def execAdmitSignal (tag : Nat) (s : State) : Res :=
  .next (s.takePacket tag 3 fun s ifn q h =>
    match s.arbAtomic q.cfg (sliceNum h 8 8) (sliceNum h 16 8) (sliceNum h 24 1 == 1) with
    | .error e => .error e
    | .ok s => .ok (s.finish ifn h))

/-- Some placement of the partition can hold a launch (R53): a tile, or every tile of a cluster rectangle. -/
def State.placeable (s : State) (P : Part) (i : CtxImage) (cw ch : Nat) : Bool :=
  P.places.any fun p => match P.rectangle p.1 cw ch with
    | some ms => ms.all fun m => (s.tile m.1).couldHold i
    | none => false

/-- The launch area is in the agent region (R324). -/
def State.larea (s : State) (tag ctx : Nat) : Bool :=
  match s.ctx tag ctx with
  | none => false
  | some c =>
    c.larea != 0 && c.larea % 4096 == 0 && decide (c.larea < 2 ^ 56) &&
    match (s.walk tag ctx c.s1root c.larea).check c.larea .write .agent with
    | .ok e => e.aonly
    | _ => false

/-- The launch record of Table 3.3 at admission. -/
def Launch.record (l : Launch) : Nat :=
  l.units % 2 ^ 32 * 2 ^ 64 + l.g % 256 * 2 ^ 96 + l.cw % 256 * 2 ^ 104 + l.ch % 256 * 2 ^ 112 + l.image % 2 ^ 64 * 2 ^ 128
    + l.signal % 2 ^ 64 * 2 ^ 192 + l.seq % 2 ^ 64 * 2 ^ 256

/-- ADMIT_LAUNCH (R53, R54): the image is read, placement and launch area are checked, the record is written, the launch
enters the list and every tile gets a notice. A launch that fails the checks is consumed and reported. -/
def execAdmitLaunch (tag : Nat) (s : State) : Res :=
  .next (s.takePacket tag 1 fun s ifn q h =>
    let ctx := q.cfg.ctx
    let va := sliceNum h 8 8
    match s.arbAddr tag ctx va .read false with
    | .error k => .error (8, va, k)
    | .ok pa =>
      if s.arbPoison pa 64 then .error (8, va, 0x100)
      else
        let i := parseImage (s.devMemRead (s.ctx tag ctx) pa 64)
        let cw := sliceNum h 37 1
        let ch := sliceNum h 38 1
        match s.part tag, s.ctx tag ctx with
        | some P, some c =>
          if !s.larea tag ctx || !s.placeable P i cw ch then
            .ok ((s.consume ifn).post tag ctx { kind := 4, n := ifn, value := 4, info := sliceNum h 4 4 })
          else
            let l : Launch := {
              seq := c.nextSeq, ifn := ifn, cookie := sliceNum h 4 4, vec := bits (sliceNum h 0 8) 16 11
              irq := tbit (sliceNum h 0 8) 11, owner := q.cfg.owner, units := sliceNum h 32 4, g := sliceNum h 36 1
              cw := cw, ch := ch, image := va, signal := sliceNum h 16 8, listed := true, complete := false, aborted := none
              awaiting := [] }
            let s := s.virtWrite tag ctx (recordVa c l.seq) 64 l.record .agent
            let s := s.modCtx tag ctx fun c => { c with
              nextSeq := c.nextSeq + 1, s1root := i.s1root
              launches := c.launches.filter (fun x => x.seq % 64 != l.seq % 64) ++ [l] }
            let s := (s.tilesOf tag).foldl (fun s t => s.notify t 3 (s.tile t).act) s
            .ok (((s.consume ifn).push ((s.tilesOf tag).map fun t => .agentClaim t)).pushAt tag 0 .sliceBoundary)
        | _, _ => .error (8, va, 2))

/-! ## COPY (R319) -/

/-- ADMIT_COPY (R319): the packet is admitted and its bytes begin to move. -/
def execAdmitCopy (tag : Nat) (s : State) : Res :=
  .next (s.takePacket tag 2 fun s ifn q h =>
    let j : CopyJob := {
      src := sliceNum h 8 8, dst := sliceNum h 16 8, len := sliceNum h 24 8, signal := sliceNum h 32 8
      spaces := sliceNum h 40 1, done := 0, hor := 0, flush := false, pri := false, moved := false, at_ := q.ridx
      irq := tbit (sliceNum h 0 8) 11, vec := bits (sliceNum h 0 8) 16 11, ats := [] }
    .ok (((s.consume ifn).modQueue ifn fun q => { q with copy := some j }).push [.copyPacketComplete ifn]))

/-- The host page of 4 KiB that the copy needs next and holds no translation of. -/
def CopyJob.needs (j : CopyJob) : Option Nat :=
  let a := (j.src + j.done) / 4096
  let b := (j.dst + j.done) / 4096
  if tbit j.spaces 0 && !j.ats.contains a then some a
  else if tbit j.spaces 1 && !j.ats.contains b then some b
  else none

/-- Move the copy's next bytes, which cross no granule of 64 bytes at either end. -/
def State.copyChunk (s : State) (ifn : Nat) (q : Queue) (j : CopyJob) : State :=
  let c := q.cfg
  let n := min (j.len - j.done) (min (64 - (j.src + j.done) % 64) (64 - (j.dst + j.done) % 64))
  let sa := j.src + j.done
  let da := j.dst + j.done
  let src : Except Nat Nat := if tbit j.spaces 0 then .ok (Memory.read s.host (queueHostKey c sa) n)
    else match s.arbAddr c.tag c.ctx sa .read true with
    | .error _ => .error sa
    | .ok pa =>
      let refused := match regionOf pa with
        | .peer _ _ _ => s.peerRefuses pa
        | _ => false
      if refused then .error sa
      else if s.arbPoison pa n then .error (sa - sa % 64) else .ok (s.devMemRead (s.ctx c.tag c.ctx) pa n)
  match src with
  | .error a => s.queueErr ifn 9 a j.done
  | .ok v =>
    let j2 := { j with done := j.done + n, moved := decide (j.len ≤ j.done + n) }
    let put (s : State) (j : CopyJob) : State := (s.setQueue ifn { q with copy := some j }).again (.copyPacketComplete ifn)
    let s := if tbit j.spaces 0 then s.chargeHost c.owner n else s
    let link := ((s.part c.tag).map (·.link)).getD 0
    if tbit j.spaces 1 then
      (put ((s.setHost (Memory.write s.host (queueHostKey c da) n v)).chargeHost c.owner n) { j2 with flush := true }).againAt link 0
        .hostFlushCompletion
    else match s.arbAddr c.tag c.ctx da .write true with
    | .error _ => s.queueErr ifn 9 da j.done
    | .ok pa =>
      let s1 := s.arbWrite c pa n v
      match regionOf pa with
      | .host _ _ => (put (s1.chargeHost c.owner n) { j2 with flush := true }).againAt link 0 .hostFlushCompletion
      | .peer _ _ _ => put s1 { j2 with hor := max j.hor (if s.peerRefuses pa then 0 else s.peerBytes pa 8 + 8) }
      | .device _ _ => put s1 j2
      | _ => put s1 { j2 with hor := max j.hor (s1.complTime pa) }

/-- COPY_PACKET_COMPLETE (R319): the copy moves on; once all its bytes are moved, WTIME has passed its horizon and its
host writes are flushed, it adds 1 to its signal and the next packet comes up. -/
def execCopyPacketComplete (ifn : Nat) (s : State) : Res :=
  match s.queue ifn with
  | none => .next s
  | some q =>
    match q.copy with
    | none => .next s
    | some j =>
      if j.pri then .next s
      else if !j.moved then
        match j.needs with
        | none => .next (s.copyChunk ifn q j)
        | some page =>
          if Config.pick s.free 2 % 2 = 0 then
            .next (((s.setQueue ifn { q with copy := some { j with ats := page :: j.ats } }).drawn).again (.copyPacketComplete ifn))
          else .next (((s.setQueue ifn { q with copy := some { j with pri := true } }).drawn).push
            [.atsPriResponse ifn (Config.pick (s.free + 1) 2 % 2 == 0) page])
      else if j.flush || !s.passedF j.hor then .next (s.again (.copyPacketComplete ifn))
      else
        let fin (s : State) : State :=
          let s := s.modQueue ifn fun q => { q with copy := none }
          let s := if j.irq then s.queueVector ifn j.vec else s
          (s.push [.packetAtHead ifn]).kick q.cfg.tag
        if j.signal = 0 then .next (fin s)
        else match s.arbAtomic q.cfg j.signal 1 false with
        | .ok s => .next (fin s)
        | .error (c, x, y) => .next ((s.setQueue ifn { q with copy := none, ridx := j.at_ }).queueErr ifn c x y)

/-- ATS_PRI_RESPONSE (R319): the host's answer for a page of a COPY. -/
def execAtsPriResponse (ifn : Nat) (ok : Bool) (page : Nat) (s : State) : Res :=
  match s.queue ifn with
  | none => .next s
  | some q =>
    match q.copy with
    | none => .next s
    | some j =>
      if !j.pri || j.needs ≠ some page then .next s
      else if ok then
        .next ((s.setQueue ifn { q with copy := some { j with pri := false, ats := page :: j.ats } }).again
          (.copyPacketComplete ifn))
      else .next (s.queueErr ifn 9 (page * 4096) j.done)

/-- HOST_ERROR_COMPLETION (R412): the host answers an access of a COPY with an error. -/
def execHostErrorCompletion (ifn addr : Nat) (s : State) : Res :=
  match s.queue ifn with
  | none => .next s
  | some q =>
    match q.copy with
    | none => .next s
    | some j => if j.spaces % 4 = 0 then .next s else .next (s.queueErr ifn 9 addr j.done)

/-! ## ATS invalidation (R419) and moderation (R323) -/

/-- ATS_INVALIDATION (R419): copies of the PASID that hold the page drop its translation; with host writes under it not
yet flushed, the completion waits for them. -/
def execAtsInvalidation (tag pasid page : Nat) (s : State) : Res :=
  let p := page / 4096
  .next ((s.queues.foldl (fun s x =>
    match x.2.copy with
    | none => s
    | some j =>
      if x.2.cfg.tag = tag && x.2.cfg.pasid = pasid && x.2.state != .error && j.ats.contains p then
        let q := { x.2 with copy := some { j with ats := j.ats.filter (· != p) } }
        if j.flush then (s.setQueue x.1 { q with drain := q.drain ++ [(page, s.wtime)] }).againAt x.1 0 .atsDrainTimeout
        else s.setQueue x.1 q
      else s) s).invalDone tag pasid page)

/-- ATS_DRAIN_TIMEOUT (R419): a drain of the interface that State.cur names has taken 2 ms. Where the last request completes at
the limit, the completion is sent and there is no error (R426). -/
def execAtsDrainTimeout (s : State) : Res :=
  let ifn := s.cur.tile
  match s.queue ifn with
  | none => .next s
  | some q =>
    match q.drain with
    | [] => .next s
    | l => match l.find? fun d => decide (d.2 + 2000000 < s.wtime) with
      | none => .next (s.againAt ifn 0 .atsDrainTimeout)
      | some (page, _) => .next (s.queueErr ifn 14 page q.cfg.pasid)

/-- INTERRUPT_MODERATION_EXPIRE (R323): for the queue that State.cur names, the events collected since its last vector
raise the next one. -/
def execInterruptModerationExpire (s : State) : Res :=
  let ifn := s.cur.tile
  match s.queue ifn with
  | none => .next s
  | some q =>
    match q.vecPend, q.vecAt with
    | some v, some t =>
      if q.state == .error then .next (s.setQueue ifn { q with vecPend := none })
      else if s.wtime < t + q.imodNs then .next (s.againAt ifn 0 .interruptModerationExpire)
      else .next ((s.setQueue ifn { q with vecPend := none, vecAt := some s.wtime }).raiseVector q.cfg.tag v)
    | _, _ => .next s

/-! ## Locked items (R416) -/

/-- LOCKED_ITEM_WRITE (R416): a write to a locked item of an interface in CONFIG_LOCKED or RUN is discarded, with code
10. -/
def execLockedItemWrite (ifn off requester : Nat) (s : State) : Res :=
  match s.queue ifn with
  | none => .next s
  | some q => if q.state == .locked || q.state == .run then .next (s.queueErr ifn 10 off requester) else .next s

/-- LOCKED_RANGE_READ (R416): a read without the T bit of a locked range in RUN gets no data, and code 11. -/
def execLockedRangeRead (ifn off requester : Nat) (s : State) : Res :=
  match s.queue ifn with
  | none => .next s
  | some q => if q.state == .run then .next (s.queueErr ifn 11 off requester) else .next s

/-- FUNCTION_LEVEL_RESET (R416): every interface of the function goes to ERROR with code 13. -/
def execFunctionLevelReset (tag : Nat) (s : State) : Res :=
  .next (s.queues.foldl (fun s x => if x.2.cfg.tag = tag then s.queueErr x.1 13 0 0 else s) s)

end Sys2Proof.Machine
end

