-- ==== Sys2Proof/Machine/Engine.lean ====
section
/-! DEFINITION. Engine commands (R122, R123) and the copy engine (R253 to R256): descriptors, checks, acceptance, rows,
and the return of the named units. -/

namespace Sys2Proof.Machine

/-! ## Named units (R121 to R123) -/

/-- A unit is handed to an engine. -/
def UnitSt.flip (u : UnitSt) : UnitSt := { u with own := true, pend := u.pend + 1 }

/-- A unit comes back from an engine in a tile cycle; its phase is toggled where the command has finished (R123, R273). A WAITO
sees it in the next one (R127). -/
def UnitSt.back (toggle : Bool) (cyc : Nat) (u : UnitSt) : UnitSt :=
  if u.pend ≤ 1 then { own := false, phase := u.phase != toggle, pend := 0, backAt := cyc + 1 } else { u with pend := u.pend - 1 }

/-- Change the state of slabs and regions of a team. -/
def Tile.modUnits (T : Tile) (team : Nat) (slabs regions : List Nat) (f : UnitSt → UnitSt) : Tile :=
  T.modTeam team fun x => { x with
    slabSt := slabs.foldl (fun m j => amSet m j (f (x.slab j))) x.slabSt
    accSt := regions.foldl (fun m j => amSet m j (f (x.region j))) x.accSt }

/-- Return the units of a command on a tile, in a tile cycle. -/
def Tile.giveBack (T : Tile) (toggle : Bool) (cyc : Nat) (us : List Units) : Tile :=
  us.foldl (fun T u => T.modUnits u.team u.slabs u.regions (UnitSt.back toggle cyc)) T

/-- The slabs and regions that a command names are back in the pool (R70). -/
def Tile.unitsHere (T : Tile) (us : List Units) : Bool :=
  us.all fun u => T.slabsHere u.team u.slabs && T.regionsHere u.team u.regions

/-- Step 2 of R122: the issuing subset's stores are acknowledged and its accesses to other tiles performed. -/
def State.engineWait (s : State) : Bool :=
  (s.reqsOf s.cur.tile s.cur.slot).any fun q => (q.2.lane == 32 || bit s.cur.sub q.2.lane) &&
    (q.2.kind.isStore || q.2.kind.isRemote || (match q.2.kind with
      | .hostStore _ => !q.2.perf
      | _ => false))

/-! ## Descriptors (R254) -/

/-- A copy descriptor: local offset, rows, bytes per row, far and local strides, d. -/
structure CopyDesc where
  loff : Nat
  rows : Nat
  rowb : Nat
  fstride : Int
  lstride : Nat
  d : Nat
  deriving DecidableEq, Repr

/-- A descriptor quad, or the index of the word that makes it malformed. -/
def parseDesc (v : Nat) (two : Bool) : Except Nat CopyDesc :=
  let w1 := bits v 32 32
  let w3 := bits v 96 32
  if (if two then w1 / 65536 = 0 || w1 % 65536 = 0 else w1 = 0) then .error 1
  else if bits w3 20 12 ≠ 0 then .error 3
  else .ok {
    loff := bits v 0 32, rows := if two then w1 / 65536 else 1, rowb := if two then w1 % 65536 else w1
    fstride := if two then sext 32 (bits v 64 32) else 0, lstride := if two then bits w3 0 16 else 0, d := bits w3 16 4 }

/-- Local offset of a row. -/
def CopyDesc.loc (x : CopyDesc) (r : Nat) : Nat := x.loff + r * x.lstride

/-- Far offset of a row from a base. -/
def CopyDesc.farRow (x : CopyDesc) (base r : Nat) : Int := (base : Int) + r * x.fstride

/-- The slabs below a count that hold a byte of a row set. -/
def slabsOf (n rows rowb : Nat) (at_ : Nat → Nat) : List Nat :=
  (List.range n).filter fun j => (List.range rows).any fun r => decide (at_ r < 4096 * (j + 1)) && decide (4096 * j < at_ r + rowb)

/-- The first value of a list that is not a multiple of 4. -/
def firstOdd4 (l : List Nat) : Option Nat := l.find? fun v => v % 4 != 0

/-! ## Checks (R255) -/

/-- What the checks of a command end in: a trap, a missing translation, a wait, or the command's parts. -/
inductive EngRes (α : Type) where
  | trap (cls : TrapClass) (cause info1 info2 : Nat)
  | walk (vas : List Nat)
  | wait
  | ok (x : α)
  deriving DecidableEq, Repr

/-- Pages of 64 KiB that rows touch, in the order of first touch: an address inside the row for each. -/
def pagesOf (rows rowb : Nat) (base : Nat → Nat) : List Nat :=
  (List.range rows).foldl (fun (l : List Nat) r =>
    let a := base r
    (List.range ((a + rowb - 1) / 65536 - a / 65536 + 1)).foldl (fun (l : List Nat) i =>
      let va := if i = 0 then a else (a / 65536 + i) * 65536
      if l.any fun v => v / 65536 == va / 65536 then l else l ++ [va]) l) []

/-- The bytes of rows that lie in the page of an address, row by row: address and count. -/
def inPage (rows rowb : Nat) (base : Nat → Nat) (va : Nat) : List (Nat × Nat) :=
  (List.range rows).filterMap fun r =>
    let lo := max (base r) (va - va % 65536)
    let hi := min (base r + rowb) (va - va % 65536 + 65536)
    if lo < hi then some (lo, hi - lo) else none

/-- The first byte of an extent in a page that the device window keeps from the privilege level (R312). -/
def State.engShut (s : State) (e : TlbEnt) (l : List (Nat × Nat)) : Option Nat :=
  l.findSome? fun x => match regionOf (e.phys x.1) with
    | .device _ off => (devBar off x.2 s.priv).map fun o => x.1 + (o - off)
    | _ => none

/-- Translate the pages of an engine's global extent (R236, R255): all of them, or the first fault, or the walks that
are awaited. The device window checks every byte of the extent (R312). -/
def State.engPages (s : State) (kind : AccKind) (rows rowb : Nat) (base : Nat → Nat) : List Nat → EngRes (List TlbEnt)
  | [] => .ok []
  | va :: l =>
    match s.eaGlobal kind false 1 va with
    | .bad c k i j => .trap c k i j
    | .miss v => (match s.engPages kind rows rowb base l with
      | .walk vs => .walk (v :: vs)
      | _ => .walk [v])
    | .mem _ e =>
      (match s.engShut e (inPage rows rowb base va) with
      | some v => .trap .xlate 3 v (e.ppa + (v - e.va))
      | none => match s.engPages kind rows rowb base l with
        | .ok es => .ok (e :: es)
        | r => r)
    | _ => .wait

/-- The remote tile and team of a far side: the own tile and team for a copy within it (R78). -/
def State.engPlace (s : State) (lp : Nat) : EngRes (Nat × Nat) :=
  if s.T.tableBad then .wait
  else match s.T.placeOf lp, s.curTeam with
  | .error c, _ => .trap .place c lp 0
  | _, none => .trap .xlate 5 lp 0
  | .ok t, some x =>
    if t = s.cur.tile then .ok (t, x.id)
    else match s.mateOn s.cur.tile x t with
      | none => .trap .xlate 5 lp 0
      | some y => .ok (t, y.id)

/-- The parts of a checked copy command: held translations, remote tile and team, local and remote slabs. -/
structure CopyParts where
  held : List TlbEnt
  rtile : Nat
  rteam : Nat
  lunits : List Nat
  runits : List Nat
  deriving DecidableEq, Repr

/-- The checks of R255 in their order: remote place, local extent, remote extent, global side. -/
def State.copyCheck (s : State) (kind : Nat) (x : CopyDesc) (far place : Nat) : EngRes CopyParts :=
  match s.curTeam with
  | none => .trap .xlate 4 x.loff 0
  | some tm =>
    let remote := kind = 2 || kind = 3
    match if remote then s.engPlace place else .ok (s.cur.tile, tm.id) with
    | .trap c k i j => .trap c k i j
    | .walk v => .walk v
    | .wait => .wait
    | .ok (rt, rm) =>
      let lrows := if kind = 5 then 1 else x.rows
      let lb := if kind = 5 then 1 else x.rowb
      match (List.range lrows).find? fun r => decide (tm.spSize < x.loc r + lb) with
      | some r => .trap .xlate 4 (x.loc r) tm.spSize
      | none =>
        match firstOdd4 [x.loff, x.rowb, x.lstride] with
        | some v => .trap .align 3 v 0
        | none =>
          let lunits := slabsOf tm.slabs lrows lb x.loc
          if remote then
            match (s.tile rt).team rm with
            | none => .trap .xlate 5 place 0
            | some y =>
              match (List.range x.rows).find? fun r => x.farRow far r < 0 || decide ((y.spSize : Int) < x.farRow far r + x.rowb) with
              | some r => .trap .xlate 4 (wrap 64 (x.farRow far r)) y.spSize
              | none =>
                match firstOdd4 [far, wrap 32 x.fstride] with
                | some v => .trap .align 3 v 0
                | none =>
                  let ru := slabsOf y.slabs x.rows x.rowb fun r => (x.farRow far r).toNat
                  if rt = s.cur.tile then
                    .ok { held := [], rtile := rt, rteam := rm, lunits := lunits ++ ru.filter fun j => !lunits.contains j, runits := [] }
                  else .ok { held := [], rtile := rt, rteam := rm, lunits := lunits, runits := ru }
          else if kind = 4 then .ok { held := [], rtile := rt, rteam := rm, lunits := lunits, runits := [] }
          else if 2 ^ 56 ≤ far then .trap .xlate 1 far 0
          else
            match firstOdd4 [far, wrap 32 x.fstride] with
            | some v => .trap .align 3 v 0
            | none =>
              let base (r : Nat) : Nat := wrap 64 (x.farRow far r)
              match s.engPages (if kind = 0 then .engRead else .engWrite) x.rows x.rowb base (pagesOf x.rows x.rowb base) with
              | .ok es => .ok { held := es, rtile := rt, rteam := rm, lunits := lunits, runits := [] }
              | .trap c k i j => .trap c k i j
              | .walk v => .walk v
              | .wait => .wait

/-- A named unit that is engine-owned already: local slabs first. -/
def State.copyOwned (s : State) (p : CopyParts) : Option Nat :=
  match p.lunits.find? fun j => (s.unitOf false j).own with
  | some j => some j
  | none => match (s.tile p.rtile).team p.rteam with
    | some y => p.runits.find? fun j => (y.slab j).own
    | none => none

/-- A copy or fill: the descriptor is checked, the extents, room in the queue, then the three steps of R122 (R254,
R255). -/
def State.copyIssue (s : State) (c : Ctl) (kind : Nat) (two : Bool) (pat : Nat) (a b : Reg) : State :=
  match s.active c with
  | [] => s.tick.retire c [] [] (some 0) false false
  | l :: _ =>
    match parseDesc (s.src l b 4) two with
    | .error i => s.trapAll .ill 8 i 0
    | .ok x =>
      let far := if kind = 2 || kind = 3 then s.src l a 2 % 2 ^ 32 else s.src l a 2
      let place := s.src l a 2 / 2 ^ 32
      match s.copyCheck kind x far place with
      | .trap cl k i j =>
        let s := if cl = .xlate && k = 3 then s.logFault s.T.tag j else s
        (s.modG fun g => { g with walkAns := [] }).trapAll cl k i j
      | .walk vas => (vas.foldl (fun s va =>
          s.startWalk s.cur.tile s.cur.slot va (if kind = 0 then .engRead else .engWrite)) s).hold .walk
      | .wait => s.hold .none
      | .ok p =>
        if 16 ≤ s.T.copies.length then s.hold .none
        else match s.copyOwned p with
        | some j => s.trapAll .owner 2 j 0
        | none =>
          if s.engineWait then s.hold .none
          else
            let t := s.cur.tile
            let cmd : CopyCmd := {
              id := s.nextId, kind := kind, team := s.G.team, slot := s.cur.slot, pc := s.cur.pc, word := s.cur.word
              loff := x.loff, rows := x.rows, rowb := x.rowb, fstride := x.fstride, lstride := x.lstride, d := x.d
              far := far, rtile := p.rtile, rteam := p.rteam, place := place, pat := BitVec.ofNat 32 pat
              due := s.dueTime t s.curTeam s.T.cap x.d, held := p.held, lunits := p.lunits, runits := p.runits
              ran := false, hor := 0 }
            let s := (s.modG fun g => { g with walkAns := [] }).fresh
            let s := s.modTile t fun T =>
              { T.modUnits cmd.team p.lunits [] UnitSt.flip with copies := T.copies ++ [cmd] }
            let s := if p.runits = [] then s else s.modTile p.rtile fun T => T.modUnits p.rteam p.runits [] UnitSt.flip
            (s.push [.copyEngineCommand t]).tick.retire c [] [] (some 0) false false

/-- CPY.G2S (R253) -/
def execCpyG2s (x : CpyR) (s : State) : Res := .next (s.copyIssue x.c 0 x.two 0 x.a x.b)
/-- CPY.S2G (R253) -/
def execCpyS2g (x : CpyR) (s : State) : Res := .next (s.copyIssue x.c 1 x.two 0 x.a x.b)
/-- CPY.S2R (R253) -/
def execCpyS2r (x : CpyR) (s : State) : Res := .next (s.copyIssue x.c 2 x.two 0 x.a x.b)
/-- CPY.R2S (R253) -/
def execCpyR2s (x : CpyR) (s : State) : Res := .next (s.copyIssue x.c 3 x.two 0 x.a x.b)
/-- The pattern of a FILL (R253). -/
def State.fillPat (s : State) (x : FillR) : Nat :=
  match s.active x.c with
  | [] => 0
  | l :: _ => s.src l x.pat 1
/-- FILL.S (R253) -/
def execFillS (x : FillR) (s : State) : Res := .next (s.copyIssue x.c 4 x.two (s.fillPat x) x.a x.b)
/-- FILL.G (R253) -/
def execFillG (x : FillR) (s : State) : Res := .next (s.copyIssue x.c 5 x.two (s.fillPat x) x.a x.b)

/-! ## Global memory as the engines use it -/

/-- The module physical address of a virtual address under a command's held translations; a command reissued after a
restore translates again. -/
def State.engPhys (s : State) (t team : Nat) (held : List TlbEnt) (kind : AccKind) (priv : Priv) (va : Nat) : Option (Nat × Bool) :=
  match held.find? fun e => decide (e.va ≤ va) && decide (va < e.va + 2 ^ e.lg) with
  | some e => some (e.phys va, e.dev)
  | none =>
    let T := s.tile t
    let root := ((T.team team).map (·.root)).getD T.ctl.s1root
    match (s.walk T.tag T.ctl.ctx root va).check va kind priv with
    | .ok e => some (e.phys va, e.dev)
    | _ => none

/-- Pieces of an extent that cross no sector of 128 bytes: address, bytes. -/
def sectorsOf (va n : Nat) : List (Nat × Nat) :=
  if n = 0 then []
  else (List.range ((va + n - 1) / 128 - va / 128 + 1)).map fun i =>
    let a := max va ((va / 128 + i) * 128)
    (a, min (va + n) ((va / 128 + i + 1) * 128) - a)

/-- What an engine's read ends in: bytes, or the source code and information of an error (R376), or no translation. -/
inductive EngRead where
  | ok (s : State) (l : List Byte)
  | ecc (src info : Nat)
  | fault (va : Nat)

/-- Read an extent at home, sector by sector (R107, R122); each line is redeclared. -/
def State.engRead (s : State) (t team owner : Nat) (held : List TlbEnt) (priv : Priv) (d due : Nat) :
    List (Nat × Nat) → EngRead
  | [] => .ok s []
  | (va, n) :: rest =>
    match s.engPhys t team held .engRead priv va with
    | none => .fault va
    | some (pa, dev) =>
      let T := s.tile t
      match regionOf pa with
      | .plinth =>
        if s.poisoned pa n then
          .ecc (s.eccSource pa) (if s.poisoned pa 1 then va - va % 64 else va - va % 64 + 64)
        else
          let x := s.l2Touch T.tag owner pa d due (!dev) false
          (match x.1.engRead t team owner held priv d due rest with
          | .ok s l => .ok s (Memory.bytes x.1.mem pa n ++ l)
          | r => r)
      | .host w off =>
        (match (s.chargeHost owner n).engRead t team owner held priv d due rest with
        | .ok s2 l => .ok s2 (Memory.bytes s.host (hostKey w (s.ctx T.tag T.ctl.ctx) off) n ++ l)
        | r => r)
      | .device _ off =>
        (match s.engRead t team owner held priv d due rest with
        | .ok s2 l => .ok s2 (leBytes n (s.devRead T.tag off n) ++ l)
        | r => r)
      | _ =>
        (match s.drawn.engRead t team owner held priv d due rest with
        | .ok s2 l => .ok s2 (leBytes n (Config.freeNat s.free) ++ l)
        | r => r)

/-- Write an extent at home, sector by sector, each returning its completion time; the largest is answered. -/
def State.engWrite (s : State) (t team owner : Nat) (held : List TlbEnt) (priv : Priv) (d due hor : Nat) :
    List (Nat × Nat) → List Byte → Option (State × Nat)
  | [], _ => some (s, hor)
  | (va, n) :: rest, l =>
    match s.engPhys t team held .engWrite priv va with
    | none => none
    | some (pa, dev) =>
      let T := s.tile t
      match regionOf pa with
      | .plinth =>
        let s := ((s.l2Touch T.tag owner pa d due (!dev) true).1.clearPoison pa n).putBytes pa (l.take n)
        s.engWrite t team owner held priv d due (max hor (s.complTime pa)) rest (l.drop n)
      | .host w off =>
        let s := (s.setHost (Memory.putBytes s.host (hostKey w (s.ctx T.tag T.ctl.ctx) off) (l.take n))).chargeHost owner n
        s.engWrite t team owner held priv d due hor rest (l.drop n)
      | .device _ off =>
        (s.devWrite T.tag off n (leNum (l.take n)) priv).engWrite t team owner held priv d due hor rest (l.drop n)
      | _ =>
        (s.drawn.chargeJar owner n).engWrite t team owner held priv d due (max hor (Config.freeNat s.free + 8)) rest (l.drop n)

/-! ## The copy engine (R256) -/

/-- A team's scratchpad bytes. -/
def Team.spBytes (x : Team) (o n : Nat) : List Byte := (List.range n).map fun i => x.spGet (o + i)

/-- Store bytes into a team's scratchpad. -/
def Team.spPut (x : Team) (o : Nat) : List Byte → Team
  | [] => x
  | b :: l => ({ x with sp := amSet x.sp o b }).spPut (o + 1) l

/-- `n` bytes of a pattern of four. -/
def fillBytes (p : W32) (n : Nat) : List Byte := (List.range n).map fun i => BitVec.ofNat 8 (p.toNat / 256 ^ (i % 4))

/-- What a row ends in: the next state with the horizon, or an error or a missing translation, or a wait for a remote
tile that does not run the context. -/
inductive RowRes where
  | ok (s : State) (hor : Nat)
  | ecc (src info : Nat)
  | fault (va : Nat)
  deriving DecidableEq, Repr

/-- The scratchpad error of an engine read: its offset (R374). -/
def Tile.spBad (T : Tile) (team off n : Nat) : Option Nat :=
  (List.range n).find? fun i => T.badSp team (off + i) 1

/-- One row of a command (R256). -/
def State.copyRow (s : State) (t : Nat) (x : CopyCmd) (hor r : Nat) : RowRes :=
  let T := s.tile t
  let own := s.ownerOf t (T.team x.team)
  let priv := (T.group x.slot).priv
  let fa : Int := (x.far : Int) + r * x.fstride
  let lo := x.loff + r * x.lstride
  let fva := wrap 64 fa
  let putL (s : State) (l : List Byte) : State := s.modTile t fun T => T.modTeam x.team fun y => y.spPut lo l
  let getL : List Byte := ((T.team x.team).map fun y => y.spBytes lo x.rowb).getD []
  let U := s.tile x.rtile
  if x.kind = 0 then
    match s.engRead t x.team own x.held priv x.d x.due (sectorsOf fva x.rowb) with
    | .ok s l => .ok (putL s l) hor
    | .ecc a b => .ecc a b
    | .fault va => .fault va
  else if x.kind = 1 || x.kind = 5 then
    match if x.kind = 1 then T.spBad x.team lo x.rowb else none with
    | some i => .ecc 4 (lo + i)
    | none =>
      match s.engWrite t x.team own x.held priv x.d x.due hor (sectorsOf fva x.rowb)
          (if x.kind = 1 then getL else fillBytes x.pat x.rowb) with
      | some (s, h) => .ok s h
      | none => .fault fva
  else if x.kind = 2 then
    match T.spBad x.team lo x.rowb with
    | some i => .ecc 4 (lo + i)
    | none => .ok (s.modTile x.rtile fun U => U.modTeam x.rteam fun y => y.spPut fa.toNat getL) hor
  else if x.kind = 3 then
    match U.spBad x.rteam fa.toNat x.rowb with
    | some i => .ecc 4 (fa.toNat + i)
    | none => .ok (putL s (((U.team x.rteam).map fun y => y.spBytes fa.toNat x.rowb).getD [])) hor
  else .ok (putL s (fillBytes x.pat x.rowb)) hor

/-- Rows from `r` in increasing order, `n` of them. -/
def State.copyRows (s : State) (t : Nat) (x : CopyCmd) (hor r : Nat) : Nat → State × RowRes
  | 0 => (s, .ok s hor)
  | n + 1 =>
    match s.copyRow t x hor r with
    | .ok s h => s.copyRows t x h (r + 1) n
    | e => (s, e)

/-- Change a command of the copy engine's queue. -/
def Tile.modCopy (T : Tile) (id : Nat) (f : CopyCmd → CopyCmd) : Tile :=
  { T with copies := T.copies.map fun x => if x.id = id then f x else x }

/-- The tile holds a team, in whichever of its slots. -/
def Tile.holdsTeam (T : Tile) (team : Nat) : Bool := T.slots.any fun k => (amGet k.2.ctl.teams team).isSome

/-- The tile of a command's remote team: a context that resumes on other tiles takes it along (R68, R123). -/
def State.homeOf (s : State) (x : CopyCmd) : Nat :=
  if (s.tile x.rtile).holdsTeam x.rteam then x.rtile
  else ((s.tiles.find? fun t => t.2.holdsTeam x.rteam).map (·.1)).getD x.rtile

/-- The command's remote tile belongs to the partition and does not run the context: the command waits. -/
def State.remoteAway (s : State) (tile : Nat) (x : CopyCmd) : Bool :=
  let T := s.tile tile
  let U := s.tile x.rtile
  (x.kind = 2 || x.kind = 3) && U.tag == T.tag && !(U.ctl.ctx == T.ctl.ctx && (U.slot U.act).st == .active)

/-- The command leaves the engine, which keeps its units, and its error stops no group (R377). -/
def State.copyStops (s : State) (tile : Nat) (x : CopyCmd) : State :=
  (s.modTile tile fun T => { T with copies := T.copies.filter fun y => y.id != x.id }).push [.copyEngineCommand tile]

/-- Where the traffic of a command for another tile is dropped by a router (R289, R390). -/
def State.copyDrop (s : State) (tile : Nat) (x : CopyCmd) : Option (Packet × Nat × Nat) :=
  if (x.kind = 2 || x.kind = 3) && x.rtile ≠ tile then
    let p := s.meshPacket tile x.rtile 4 (s.ownerOf tile ((s.tile tile).team x.team)) x.place x.far
    (s.dropOnWay 8400 tile p).map fun d => (p, d)
  else none

/-- COPY_ENGINE_COMMAND (R256): the engine takes its next command and moves its rows. It waits for the slabs that it names to
be back in the pool and for a remote tile that runs the same context. An uncorrectable error stops it (R377), and so does a
router that drops its traffic (R390). -/
def execCopyEngineCommand (tile : Nat) (s : State) : Res :=
  let T := s.tile tile
  match T.copies.find? fun x => !x.ran with
  | none => .next s
  | some x0 =>
    let x := { x0 with rtile := s.homeOf x0 }
    if s.remoteAway tile x || !T.slabsHere x.team x.lunits || !(s.tile x.rtile).slabsHere x.rteam x.runits then
      .next (s.again (.copyEngineCommand tile))
    else match s.copyDrop tile x with
    | some (p, d) =>
      .next (((s.dropOther T.ctl.ctx p d).copyStops tile x).noteTrap tile x.slot x.pc x.word .xlate 5 x.place 0)
    | none =>
      let r := s.copyRows tile x 0 0 x.rows
      match r.2 with
      | .ok s h =>
        .next ((s.modTile tile fun T => T.modCopy x.id fun y => { y with ran := true, hor := h, rtile := x.rtile }).push
          [.engineFlipBack tile false, .copyEngineCommand tile])
      | .ecc a b => .next (r.1.push [.engineEccError tile false a b])
      | .fault va => .next ((r.1.copyStops tile x).noteTrap tile x.slot x.pc x.word .xlate 2 va 0)

/-- A copy command returns its units, on the remote tile too (R123). -/
def State.copyBack (s : State) (tile : Nat) (x : CopyCmd) : State :=
  let r := s.homeOf x
  let s := s.modTile tile fun T => T.modUnits x.team x.lunits [] (UnitSt.back true (s.cycle tile))
  if x.runits = [] then s else s.modTile r fun T => T.modUnits x.rteam x.runits [] (UnitSt.back true (s.cycle r))

end Sys2Proof.Machine
end

