-- ==== Sys2Proof/Machine/MatNum.lean ====
section
/-! DEFINITION. Numbers of the matrix array: formats and images (R138, R139, R259 to R261), exact products and sums
(R144 to R148), and the converting stores of the accumulators (R142, R143, R278). -/

namespace Sys2Proof.Machine

/-! ## Formats (Table 11.1) -/

/-- Stored elements per column, columns, element width. -/
def mfK : MFmt → Nat
  | .bf16 | .f16 => 64 | .f32 => 32 | .f64 => 16 | .i8 | .e4m3 | .e5m2 | .mxf8 => 128 | .mxf6 | .mxf4 | .lg6 => 256
/-- Columns. -/
def mfN : MFmt → Nat
  | .f32 => 32 | .f64 => 8 | _ => 64
/-- Element width in bits. -/
def mfW : MFmt → Nat
  | .bf16 | .f16 => 16 | .f32 => 32 | .f64 => 64 | .i8 | .e4m3 | .e5m2 | .mxf8 => 8 | .mxf6 | .lg6 => 6 | .mxf4 => 4
/-- The format has block scales. -/
def mfBlock : MFmt → Bool
  | .mxf8 | .mxf6 | .mxf4 | .lg6 => true | _ => false
/-- The format admits a 2:4 sparse plane. -/
def mfSparse : MFmt → Bool
  | .f32 | .f64 => false | _ => true

/-- Logical depth of a plane (R259). -/
def mfDepth (f : MFmt) (sp : Bool) : Nat := if sp then 2 * mfK f else mfK f

/-- Bytes of the elements of an image. -/
def imgElems (f : MFmt) : Nat := mfN f * mfK f * mfW f / 8

/-- Bytes of an image's scale array (R260). -/
def imgScales (f : MFmt) (sp : Bool) : Nat := if mfBlock f then mfN f * (mfDepth f sp / 32) else 0

/-- Size of a weight image (R260, Table 11.2): elements, scales and metadata, padded to 256 bytes. -/
def imgSize (f : MFmt) (sp : Bool) : Nat :=
  (imgElems f + imgScales f sp + (if sp then mfN f * mfK f / 4 else 0) + 255) / 256 * 256

/-- Bytes of an activation row (R271). -/
def rowImage (f : MFmt) (sp : Bool) : Nat := mfDepth f sp * mfW f / 8 + if mfBlock f then mfDepth f sp / 32 else 0

/-- Plane and activation formats are paired (Table 11.3). -/
def mfPair : MFmt → MFmt → Bool
  | .e4m3, .e4m3 | .e4m3, .e5m2 | .e5m2, .e4m3 | .e5m2, .e5m2 => true
  | .mxf6, .mxf6 | .mxf6, .mxf4 | .mxf4, .mxf6 | .mxf4, .mxf4 => true
  | a, b => a == b

/-- The element format of a floating matrix format. -/
def mfFmt : MFmt → Fmt
  | .bf16 => Fmt.bf16 | .f16 => Fmt.f16 | .f32 => Fmt.f32 | .f64 => Fmt.f64 | .e4m3 | .mxf8 => Fmt.e4m3
  | .e5m2 => Fmt.e5m2 | .mxf6 => Fmt.e2m3 | .mxf4 => Fmt.e2m1 | .i8 | .lg6 => Fmt.f32

/-! ## Operands -/

/-- A list of bytes as a little-endian number. -/
def bytesNum (l : List Byte) : Nat := l.foldr (fun b a => b.toNat + 256 * a) 0

/-- Element `i` of packed elements of `w` bits (R138). -/
def elemAt (v w i : Nat) : Nat := v / 2 ^ (w * i) % 2 ^ w

/-- A value times 2^x. -/
def FVal.scale (x : Int) : FVal → FVal
  | .fin s m e => .fin s m (e + x)
  | v => v

/-- An element under its block's scale byte (R138): 0xFF reads as NaN. -/
def mxElem (f : MFmt) (sc : Option Nat) (b : Nat) : FVal :=
  match sc with
  | none => unpack (mfFmt f) b
  | some 255 => .nan false
  | some e => (unpack (mfFmt f) b).scale ((e : Int) - 127)

/-- A column of a plane: stored elements with their logical rows, and the scale bytes by block. -/
structure Column where
  elems : List (Nat × Nat)
  scales : List Nat
  deriving DecidableEq, Repr

/-- Column `n` of a weight image (R260, R261). -/
def column (f : MFmt) (sp : Bool) (img : List Byte) (n : Nat) : Column :=
  let k := mfK f
  let eb := k * mfW f / 8
  let v := bytesNum ((img.drop (n * eb)).take eb)
  let nb := mfDepth f sp / 32
  let sc := if mfBlock f then ((img.drop (imgElems f + n * nb)).take nb).map (·.toNat) else []
  let mb := k / 4
  let md := if sp then bytesNum ((img.drop (imgElems f + imgScales f sp + n * mb)).take mb) else 0
  { elems := (List.range k).map fun j => (if sp then 4 * (j / 2) + elemAt md 2 j else j, elemAt v (mfW f) j), scales := sc }

/-- An activation row: its elements in order of k, and its scale bytes (R271). -/
structure ActRow where
  elems : List Nat
  scales : List Nat
  deriving DecidableEq, Repr

/-- An activation row from its bytes. -/
def actRow (f : MFmt) (sp : Bool) (l : List Byte) : ActRow :=
  let d := mfDepth f sp
  let v := bytesNum (l.take (d * mfW f / 8))
  { elems := (List.range d).map fun j => elemAt v (mfW f) j, scales := (l.drop (d * mfW f / 8)).map (·.toNat) }

/-- The scale of logical row `k`, none for a format without scales. -/
def scaleOf (f : MFmt) (l : List Nat) (k : Nat) : Option Nat := if mfBlock f then some (l.getD (k / 32) 0) else none

/-! ## Sums (R145) -/

/-- A group's sum of exact products, rounded to the accumulator format: the window keeps `w` bits below the largest
product, none keeps every bit. -/
def groupSum (acc : Fmt) (w : Option Nat) (ps : List FVal) : Nat :=
  let inf (s : Bool) : Bool := ps.any fun p => p == .inf s
  if ps.any FVal.isNan || (inf true && inf false) then acc.cnan
  else if inf true then acc.sgn true + acc.infBits
  else if inf false then acc.infBits
  else
    let fin := ps.filterMap fun p => match p with
      | .fin s m e => some (s, m, e)
      | _ => none
    match fin with
    | [] => if ps.all fun p => p == .zero true then acc.sgn true else 0
    | x :: r =>
      let top (y : Bool × Nat × Int) : Int := (Nat.log2 y.2.1 : Int) + y.2.2
      let q := match w with
        | some w => r.foldl (fun a y => max a (top y)) (top x) - w
        | none => r.foldl (fun a y => min a y.2.2) x.2.2
      let s := fin.foldl (fun a y => a + signed y.1 (shiftRem y.2.1 (y.2.2 - q)).1) (0 : Int)
      (roundTo acc .rne false (ofSum .rne s q)).1

/-- A sign and the quarter-log of a LOG6 element; none for zero (R139). -/
def lg6Elem (b : Nat) : Bool × Option Nat := (b / 32 % 2 == 1, if b % 32 = 0 then none else some (b % 32))

/-- T[f] of R146. -/
def lg6T (f : Nat) : Nat := [32768, 38968, 46341, 55109].getD f 0

/-- A product of two LOG6 elements: its sign, and its contribution to the integer sum, none where an element is zero
(R146). -/
def lg6Prod (a b : Nat) : Bool × Option Nat :=
  let x := lg6Elem a
  let y := lg6Elem b
  (x.1 != y.1, match x.2, y.2 with
    | some la, some lb =>
      let t := la + lb
      -- (la − 16) + (lb − 16) + 32 = t, so the exponent i + 8 is t / 4
      some (lg6T (t % 4) * 2 ^ (t / 4))
    | _, _ => none)

/-- A LOG6 group's sum under its two scale bytes (R145, R146). -/
def lg6Sum (xa xb : Nat) (ps : List (Bool × Option Nat)) : Nat :=
  if xa = 255 || xb = 255 then Fmt.f32.cnan
  else
    let nz := ps.filterMap fun p => p.2.map fun v => signed p.1 v
    match nz with
    | [] => if ps.all fun p => p.1 then Fmt.f32.sgn true else 0
    | l => (roundTo Fmt.f32 .rne false (ofSum .rne (l.foldl (· + ·) (0 : Int)) ((xa : Int) + xb - 254 - 23))).1

/-! ## MatrixSum (R145 to R148) -/

/-- Elements of a group of consecutive k (Table 6.8). -/
def groupLen : MFmt → Nat
  | .mxf6 | .mxf4 | .lg6 => 32 | _ => 16

/-- Window width (Table 6.8). -/
def groupWin : MFmt → Option Nat
  | .f64 => some 112 | .mxf6 | .mxf4 | .lg6 => none | _ => some 48

/-- The accumulator format. -/
def accFmt : MFmt → Fmt
  | .f64 => Fmt.f64 | _ => Fmt.f32

/-- Products of the logical rows `lo` to `lo + n − 1`. A position that sparsity omits acts as a weight of +0 where its
activation is finite, and else contributes nothing (R148). -/
def groupProds (pf af : MFmt) (c : Column) (a : ActRow) (lo n : Nat) : List FVal :=
  (List.range n).flatMap fun i =>
    let k := lo + i
    let x := mxElem af (scaleOf af a.scales k) (a.elems.getD k 0)
    match c.elems.filter fun e => e.1 == k with
    | [] => (match x with
      | .zero s | .fin s _ _ => [.zero s]
      | _ => [])
    | es => es.map fun e => (fprod x (mxElem pf (scaleOf pf c.scales k) e.2)).1

/-- LOG6 products of a block. -/
def lg6Prods (c : Column) (a : ActRow) (lo n : Nat) : List (Bool × Option Nat) :=
  (List.range n).flatMap fun i =>
    let k := lo + i
    match c.elems.filter fun e => e.1 == k with
    | [] => [((lg6Elem (a.elems.getD k 0)).1, none)]
    | es => es.map fun e => lg6Prod (a.elems.getD k 0) e.2

/-- The value of a signed byte. -/
def i8Val (b : Nat) : Int := if b < 128 then (b : Int) else (b : Int) - 256

/-- One accumulator element after a row (R145 to R147). -/
def matrixSum (pf af : MFmt) (sp : Bool) (acc : Nat) (a : ActRow) (c : Column) : Nat :=
  if pf = .i8 then
    ((acc : Int) + c.elems.foldl (fun (s : Int) (e : Nat × Nat) => s + i8Val (a.elems.getD e.1 0) * i8Val e.2) 0) % 2 ^ 32 |>.toNat
  else
    let n := groupLen pf
    (List.range (mfDepth pf sp / n)).foldl (fun v g =>
      let s := if pf = .lg6 then lg6Sum (a.scales.getD g 0) (c.scales.getD g 0) (lg6Prods c a (g * n) n)
        else groupSum (accFmt pf) (groupWin pf) (groupProds pf af c a (g * n) n)
      (fpAdd (accFmt pf) .rne v s).1) acc

/-! ## Converting stores (R143, R278) -/

/-- The element format of a block output, with emax; LOG6 stands apart. -/
def blockFmt : OFmt → Option (Fmt × Int × Nat)
  | .mxf8 => some (Fmt.e4m3, 8, 8) | .mxf6 => some (Fmt.e2m3, 2, 6) | .mxf4 => some (Fmt.e2m1, 2, 4) | .lg6 => some (Fmt.f32, 3, 6)
  | _ => none

/-- Floor of log2 of a magnitude. -/
def FVal.top : FVal → Option Int
  | .fin _ m e => some ((Nat.log2 m : Int) + e)
  | _ => none

/-- The sign of a value. -/
def FVal.sign : FVal → Bool
  | .inf s | .zero s | .fin s _ _ => s
  | .nan _ => false

/-- A LOG6 element of a value divided by 2^x (R143). -/
def lg6Of (rm : RM) (x : Int) : FVal → Nat
  | .fin s m e =>
    let q : Int := if rm = .rtz then (Nat.log2 (m ^ 4) : Int) + 4 * (e - x) else ((Nat.log2 (m ^ 8) : Int) + 8 * (e - x) + 1) / 2
    let L := q + 16
    (if s then 32 else 0) + if L < 1 then 0 else if 31 < L then 31 else L.toNat
  | v => if v.sign then 32 else 0

/-- A block of 32 values quantised: its scale byte and element codes (R143). -/
def quantise (o : OFmt) (rm : RM) (vs : List FVal) : Nat × List Nat :=
  match blockFmt o with
  | none => (0, [])
  | some (f, emax, w) =>
    if vs.any fun v => v.isNan || v == .inf true || v == .inf false then (255, vs.map fun _ => 0)
    else match vs.filterMap FVal.top with
    | [] => (0, vs.map fun v => if v.sign then 2 ^ (w - 1) else 0)
    | t :: ts =>
      let x := max (-127) (min 127 (ts.foldl max t - emax))
      ((x + 127).toNat, vs.map fun v => if o = .lg6 then lg6Of rm x v else (roundTo f rm true (v.scale (-x))).1)

/-- Codes of `w` bits packed into a number (R138). -/
def packCodes (w : Nat) (l : List Nat) : Nat := l.foldr (fun c a => c % 2 ^ w + 2 ^ w * a) 0

/-- Bytes of an output row (Table 11.6). -/
def outRow : OFmt → Nat
  | .bf16 | .f16 => 128 | .raw => 256 | .i8 | .e4m3 | .e5m2 => 64 | .mxf8 => 66 | .mxf6 | .lg6 => 50 | .mxf4 => 34

/-- The floating format of a plain output. -/
def outFmt : OFmt → Fmt
  | .f16 => Fmt.f16 | .e4m3 => Fmt.e4m3 | .e5m2 => Fmt.e5m2 | _ => Fmt.bf16

/-- A row of 64 cells converted for ACCST, as a number of `outRow` bytes (R278). -/
def accstRow (o : OFmt) (sat : Bool) (rm : RM) (cells : List Nat) : Nat :=
  match o with
  | .raw => packCodes 32 cells
  | .i8 => packCodes 8 (cells.map fun c =>
      let v : Int := if c < 2 ^ 31 then (c : Int) else (c : Int) - 2 ^ 32
      ((if sat then max (-128) (min 127 v) else v) % 256).toNat)
  | .bf16 | .f16 => packCodes 16 (cells.map fun c => (roundTo (outFmt o) rm sat (unpack Fmt.f32 c)).1)
  | .e4m3 | .e5m2 => packCodes 8 (cells.map fun c => (roundTo (outFmt o) rm sat (unpack Fmt.f32 c)).1)
  | o =>
    let w := ((blockFmt o).map fun x => x.2.2).getD 8
    let vs := cells.map (unpack Fmt.f32)
    let a := quantise o rm (vs.take 32)
    let b := quantise o rm (vs.drop 32)
    packCodes w (a.2 ++ b.2) + 2 ^ (64 * w) * (a.1 + 256 * b.1)

end Sys2Proof.Machine
end

