-- ==== Sys2Proof/Machine/Matrix.lean ====
section
/-! DEFINITION. The matrix array: gangs (R268, R272, R273), array commands and their queue (R264 to R266), LDS, SWP and
MMA (R269 to R271), the accumulators (R274 to R279), and the engines' errors (R377). -/

namespace Sys2Proof.Machine

/-! ## Queued state (R266) -/

/-- Queued state of a plane. -/
def Arr.qs (a : Arr) (i : Nat) : PlaneSt := if i = 0 then a.qs0 else a.qs1

/-- Replace the queued state of a plane. -/
def Arr.setQs (a : Arr) (i : Nat) (p : PlaneSt) : Arr := if i = 0 then { a with qs0 := p } else { a with qs1 := p }

/-- A plane by number. -/
def Arr.plane (a : Arr) (i : Nat) : Plane := if i = 0 then a.p0 else a.p1

/-- Replace a plane. -/
def Arr.setPlane (a : Arr) (i : Nat) (p : Plane) : Arr := if i = 0 then { a with p0 := p } else { a with p1 := p }

/-- The queued state after a command has been accepted. -/
def Arr.queued (a : Arr) : ArrOp → Arr
  | .ldsG _ _ _ f sp _ _ | .ldsS _ _ _ f sp => a.setQs (1 - a.qact) { fmt := f, sparse := sp, inuse := true }
  | .swp => { a with qact := 1 - a.qact }
  | .free => { a with qfree := true }
  | .mma _ _ _ _ _ _ _ => a

/-- The queued state when no command is left to run. -/
def Arr.resync (a : Arr) : Arr := { a with qs0 := a.p0.st, qs1 := a.p1.st, qact := a.act, qfree := false }

/-- The next command to run, in order of acceptance (R265). -/
def Arr.head (a : Arr) : Option ArrCmd := a.q.find? fun c => !c.ran

/-- Change the array of a tile. -/
def Tile.modArr (T : Tile) (f : Arr → Arr) : Tile := { T with arr := f T.arr }

/-- The array takes its next command; SWP.FREE and a holder's end go to the release of the planes. -/
def State.arrKick (s : State) (t : Nat) : State :=
  match (s.tile t).arr.head with
  | none => s
  | some c => match c.op with
    | .ldsG _ _ _ _ _ _ _ | .ldsS _ _ _ _ _ => s.again (.arrayLdsRun t)
    | .swp => s.again (.arraySwpRun t)
    | .mma _ _ _ _ _ _ _ => s.again (.arrayMmaRun t)
    | .free => s.againAt t 0 .planeRelease

/-- Accept commands: they join the queue and the queued state. -/
def State.arrAccept (s : State) (t : Nat) (cs : List ArrCmd) : State :=
  (s.modTile t fun T => T.modArr fun a => cs.foldl (fun a c => { a.queued c.op with q := a.q ++ [c] }) a).arrKick t

/-! ## Holding the planes (R264) -/

/-- A group of another team at a lower slot waits for the planes too (R283); one that reaches free planes in the same tile cycle
on the other pipeline goes first as well (`State.planesFirst`). -/
def State.planesRival (s : State) (team : Nat) : Bool :=
  s.T.ctl.groups.any fun g => decide (g.1 < s.cur.slot) && g.2.team != team && !g.2.rests && g.2.all.any fun L => L.wait == .planes

/-- The issuing team holds the planes, or takes them when they are free; none where it waits. -/
def State.holdPlanes (s : State) (team : Nat) : Option State :=
  match s.T.arr.holder with
  | some h => if h = team && !s.T.arr.qfree && !s.T.arr.releasing then some s else none
  | none => if s.planesRival team then none
    else some (s.modTile s.cur.tile fun T => T.modArr fun a => { a.resync with holder := some team })

/-! ## Issue of an array command (R122, R265, R272) -/

/-- A checked array command: its operation, key state, and the units it names. -/
structure ArrParts where
  op : ArrOp
  key : Option (Nat × Nat)
  slabs : List Nat
  regions : List Nat

/-- GANG.COUNT and GANG.MEMBERS (Table 8.6). -/
def gangCount (g : W64) : Nat := bits g.toNat 32 3
/-- Member slots in gang order. -/
def gangMembers (g : W64) : List Nat := (List.range (gangCount g)).map fun i => bits g.toNat (5 * i) 5

/-- Latch entries that meet an entry: members listed by either GANG value at the same sequence number (R273). -/
def LatchEntry.meets (e f : LatchEntry) : Bool :=
  e.team == f.team && e.seq == f.seq && ((gangMembers e.gang).contains f.slot || (gangMembers f.gang).contains e.slot)

/-- The failing entries of a mismatch: entries that meet with a different opcode, FREE bit or GANG value, and every
member present beside them. -/
def Arr.mismatched (a : Arr) : List LatchEntry :=
  let bad := a.latch.filter fun e => a.latch.any fun f => e.meets f && (e.kind != f.kind || e.gang != f.gang)
  a.latch.filter fun e => bad.any fun f => e.meets f

/-- Mask of the members that have arrived, in gang order (Table 16.3). -/
def Arr.arrived (a : Arr) (e : LatchEntry) : Nat :=
  (maskOf ((List.range (gangCount e.gang)).filter fun i =>
    a.latch.any fun f => f.team == e.team && f.seq == e.seq && (gangMembers e.gang)[i]? == some f.slot)).toNat

/-- Latch entries fail: they are dropped, their units come back with PHASE as it was, and each member raises GANG
(R273). -/
def State.gangFail (s : State) (t cause : Nat) (es : List LatchEntry) : State :=
  let masks := es.map fun e => (e, (s.tile t).arr.arrived e)
  masks.foldl (fun s x =>
    let e := x.1
    let s := s.modTile t fun T =>
      (T.giveBack false (s.cycle t) e.cmd.units).modArr fun a => { a with latch := a.latch.filter fun f => f != e }
    let s := s.modGroup t e.slot fun G => G.outDel e.iid
    s.raiseAt t e.slot e.cmd.pc e.cmd.word e.lanes 0xFF .gang cause e.seq x.2) s

/-- 100 µs of wafer time (R273). -/
def gangLimit : Nat := 100000

/-- A member waits in the latch: its instruction stays issued until the rendezvous. -/
def State.latchIn (s : State) (c : Ctl) (kind : Nat) (cmd : ArrCmd) : State :=
  let t := s.cur.tile
  let g := s.G
  let o : OutInst := { s.outInst c with rem := 1 }
  let first := (s.T.arr.latch.filter fun e => e.team == cmd.team && e.seq == g.gseq).map (·.time)
  let e : LatchEntry := {
    team := cmd.team, slot := s.cur.slot, seq := g.gseq, gang := g.gang, kind := kind
    time := first.foldl min (s.tileTime t), iid := o.iid, cmd := cmd, lanes := s.cur.sub }
  let s := (s.issueOut o).modTile t fun T => T.modArr fun a => { a with latch := a.latch ++ [e] }
  let s := s.hold .latch
  match (s.tile t).arr.mismatched with
  | [] => (s.push [.gangRendezvous t cmd.team g.gseq]).againAt t 0 .gangTimeout
  | es => s.gangFail t 2 es

/-- An array command: its team holds the planes, it passes its own checks, the queue has room, its units flip, and it is
accepted, or waits for its gang (R122, R264, R265, R272). -/
def State.arrayIssue (s : State) (c : Ctl) (gang tick : Bool) (kind : Nat)
    (build : State → Team → Nat → EngRes ArrParts) : State :=
  let fin (s : State) : State := (if tick then s.tick else s).retire c [] [] (some 0) false false
  match s.active c, s.curTeam with
  | [], _ => fin s
  | _ :: _, none => s.trapAll .xlate 4 0 0
  | l :: _, some x =>
    match s.holdPlanes x.id with
    | none => s.hold .planes
    | some s =>
      if gang && gangCount s.G.gang = 0 then s.trapAll .ill 7 0 0
      else match build s x l with
      | .trap cl k i j =>
        let s := if cl = .xlate && k = 3 then s.logFault s.T.tag j else s
        (s.modG fun g => { g with walkAns := [] }).trapAll cl k i j
      | .walk vas => (vas.foldl (fun s va => s.startWalk s.cur.tile s.cur.slot va .engRead) s).hold .walk
      | .wait => s.hold .none
      | .ok p =>
        match p.slabs.find? fun j => (x.slab j).own, p.regions.find? fun j => (x.region j).own with
        | some j, _ => s.trapAll .owner 2 j 0
        | none, some j => s.trapAll .owner 2 j 1
        | none, none =>
          if 8 ≤ s.T.arr.q.length || s.engineWait then s.hold .none
          else
            let cmd : ArrCmd := {
              id := s.nextId, op := p.op, team := x.id, slot := s.cur.slot, pc := s.cur.pc, word := s.cur.word
              units := if p.slabs = [] && p.regions = [] then [] else [{ team := x.id, slabs := p.slabs, regions := p.regions }]
              key := p.key, ran := false }
            let s := (s.modG fun g => { g with walkAns := [] }).fresh
            let s := s.modTile s.cur.tile fun T => T.modUnits x.id p.slabs p.regions UnitSt.flip
            let s := if kind = 0x126 then s.countU 8 1 else s
            if gang then (if tick then s.tick else s).latchIn c kind cmd
            else fin (s.arrAccept s.cur.tile [cmd])

/-! ## LDS, SWP, MMA (R269 to R271) -/

/-- The state of a weight key slot of the tile's partition (R263). -/
def State.keyState (s : State) (i : Nat) : KeySlot :=
  (((s.part s.T.tag).bind fun P => amGet P.keys i)).getD .empty

/-- The last check of LDS: the key slot is not empty; the key stands as it is at acceptance. -/
def State.ldsKey (s : State) (i : Nat) (op : ArrOp) (slabs : List Nat) : EngRes ArrParts :=
  match s.keyState i with
  | .empty => .trap .xlate 7 i 0
  | .clear => .ok { op := op, key := none, slabs := slabs, regions := [] }
  | .keyed k w => .ok { op := op, key := some (k.toNat, w.toNat), slabs := slabs, regions := [] }

/-- LDS (R269): an image in global memory. -/
def execLds (x : LdsR) (s : State) : Res :=
  .next (s.arrayIssue x.c x.g true 0x122 fun s tm l =>
    let va := s.src l x.a 2
    let n := imgSize x.fmt x.sparse
    if x.sparse && !mfSparse x.fmt then .trap .ill 7 0 0
    else if va % 256 ≠ 0 then .trap .align 3 va 0
    else match s.engPages .engRead 1 n (fun _ => va) (pagesOf 1 n fun _ => va) with
    | .trap cl k i j => .trap cl k i j
    | .walk v => .walk v
    | .wait => .wait
    | .ok held => s.ldsKey x.key.val (.ldsG va held x.key.val x.fmt x.sparse x.reuse.val
        (s.dueTime s.cur.tile (some tm) s.T.cap x.reuse.val)) [])

/-- LDS_SLAB (R269): an image in the scratchpad. -/
def execLdsSlab (x : LdsR) (s : State) : Res :=
  .next (s.arrayIssue x.c x.g true 0x122 fun s tm l =>
    let off := s.src l x.off 1
    let n := imgSize x.fmt x.sparse
    let slabs := slabsOf tm.slabs 1 n fun _ => off
    if x.sparse && !mfSparse x.fmt then .trap .ill 7 0 0
    else if off % 256 ≠ 0 then .trap .align 3 off 0
    else if tm.spSize < off + n then .trap .xlate 4 off tm.spSize
    else match slabs.find? fun j => (tm.slab j).own with
    | some j => .trap .owner 2 j 0
    | none => s.ldsKey x.key.val (.ldsS off (s.src l x.a 2) x.key.val x.fmt x.sparse) slabs)

/-- SWP (R270) -/
def execSwp (c : Ctl) (g : Bool) (s : State) : Res :=
  .next (s.arrayIssue c g false 0x124 fun _ _ _ => .ok { op := .swp, key := none, slabs := [], regions := [] })
/-- SWP.FREE (R264, R270) -/
def execSwpFree (c : Ctl) (g : Bool) (s : State) : Res :=
  .next (s.arrayIssue c g false 0x125 fun _ _ _ => .ok { op := .free, key := none, slabs := [], regions := [] })

/-- The regions that hold rows from `row`. -/
def regionsOf (row n : Nat) : List Nat :=
  if n = 0 then [] else (List.range ((row + n - 1) / 16 - row / 16 + 1)).map fun i => row / 16 + i

/-- The first of the rows that lies at or beyond a count. -/
def rowPast (row n count : Nat) : Option Nat := if row + n ≤ count then none else some (max row count)

/-- MMA (R271) -/
def execMma (x : MmaR) (s : State) : Res :=
  .next (s.arrayIssue x.c x.g true 0x126 fun s tm l =>
    let row := s.src l x.row 1
    let off := s.src l x.off 1
    let b := s.src l x.b 1
    let stride := bits b 0 16
    let m := bits b 16 7
    let a := s.T.arr
    let p := a.qs a.qact
    let rb := rowImage x.fmt x.sparse
    if m = 0 || 64 < m || bits b 23 9 ≠ 0 || stride < rb then .trap .ill 7 b 0
    else if !p.inuse || p.sparse != x.sparse || !mfPair p.fmt x.fmt then .trap .ill 7 0 0
    else if off % 2 ≠ 0 then .trap .align 3 off 0
    else if stride % 2 ≠ 0 then .trap .align 3 stride 0
    else match (List.range m).find? fun r => decide (tm.spSize < off + r * stride + rb) with
    | some r => .trap .xlate 4 (off + r * stride) tm.spSize
    | none => match rowPast row m tm.accRows with
      | some r => .trap .xlate 4 r tm.accRows
      | none => .ok {
          op := .mma row off stride m x.fmt x.sparse x.z, key := none
          slabs := slabsOf tm.slabs m rb fun r => off + r * stride, regions := regionsOf row m })

/-! ## GANGSET (R268) -/

/-- GANGSET -/
def execGangset (c : Ctl) (m : Reg) (n : Fin 8) (s : State) : Res :=
  let cnt := n.val
  if cnt = 1 || cnt = 7 then .next (s.trapAll .ill 2 0 0)
  else match s.active c with
  | [] => .next (s.retire c [] [] (some 0) false false)
  | l :: _ =>
    let v := if cnt = 0 then 0 else s.src l m 1
    let mem := (List.range cnt).map fun i => bits v (5 * i) 5
    let resv := (s.curTeam.map (·.resv)).getD []
    if cnt ≠ 0 && (v / 2 ^ (5 * cnt) ≠ 0 || !decide mem.Nodup || !mem.contains s.cur.slot || !mem.all resv.contains) then
      .next (s.trapAll .ill 7 v 0)
    else if s.T.arr.latch.any fun e => e.slot == s.cur.slot then .next (s.hold .none)
    else .next ((s.modG fun g => { g with gang := BitVec.ofNat 64 (cnt * 2 ^ 32 + v), gseq := 0 }).retire c [] [] (some 0)
      false false)

/-! ## The rendezvous (R272, R273) -/

/-- Every member of a GANG value, in gang order, waits at a sequence number with the same GANG value. -/
def Arr.gathered (a : Arr) (team seq : Nat) (e : LatchEntry) : Option (List LatchEntry) :=
  (gangMembers e.gang).mapM fun sl =>
    a.latch.find? fun f => f.team == team && f.seq == seq && f.slot == sl && f.gang == e.gang && f.kind == e.kind

/-- The commands of a complete gang: one for LDS and SWP, with every member's units, and one for each member of MMA. -/
def gangCmds (es : List LatchEntry) : List ArrCmd :=
  match es with
  | [] => []
  | e :: _ => match e.cmd.op with
    | .mma _ _ _ _ _ _ _ => es.map (·.cmd)
    | _ => [{ e.cmd with units := es.flatMap fun f => f.cmd.units }]

/-- The gang is accepted as one unit: every member's sequence number advances and its subset continues. -/
def State.gangAccept (s : State) (t : Nat) (es : List LatchEntry) : State :=
  let s := s.modTile t fun T => T.modArr fun a => { a with latch := a.latch.filter fun f => !es.contains f }
  let s := s.arrAccept t (gangCmds es)
  es.foldl (fun s e => s.modGroup t e.slot fun G => ({ G.outLose (s.cycle t) e.iid with
    gseq := G.gseq + 1 }).advance e.lanes) s

/-- GANG_RENDEZVOUS (R272): it waits for the context, for every member and for room in the queue. -/
def execGangRendezvous (tile team seq : Nat) (s : State) : Res :=
  let a := (s.tile tile).arr
  match (a.latch.filter fun e => e.team == team && e.seq == seq).findSome? fun e => a.gathered team seq e with
  | none => .next s
  | some es =>
    if 8 < a.q.length + (gangCmds es).length then .next (s.again (.gangRendezvous tile team seq))
    else .next (s.gangAccept tile es)

/-- GANG_TIMEOUT (R273): members that have waited 100 µs of wafer time since the first of their sequence number, with
their gang incomplete, fail, once the tile cycle of the expiry is over: a member that arrives in it completes the gang. The
timer stands still from the slice boundary on (R283). A complete gang is accepted. -/
def execGangTimeout (s : State) : Res :=
  let t := s.cur.tile
  let a := s.T.arr
  if s.T.ctl.timersOff.isSome then .next (s.againAt t 0 .gangTimeout) else
  let now := s.tileTime t - (stepUnits (s.field (fieldOf t)).step / 2100 + 1)
  let full (e : LatchEntry) : Bool := (a.gathered e.team e.seq e).isSome
  let late := a.latch.filter fun e => decide (e.time + gangLimit ≤ now) && !full e
  let s := s.push ((a.latch.filter full).map fun e => .gangRendezvous t e.team e.seq)
  let s := s.gangFail t 1 late
  .next (if (s.tile t).arr.latch = [] then s else s.againAt t 0 .gangTimeout)

/-! ## The array runs its queue -/

/-- A command has run and waits for the return of its units. -/
def State.arrRan (s : State) (t id : Nat) : State :=
  let s := s.modTile t fun T => T.modArr fun a => { a with q := a.q.map fun c => if c.id = id then { c with ran := true } else c }
  (s.push [.engineFlipBack t true]).arrKick t

/-- The array may run a command: the context is active, and the units that the command names are back in the pool. -/
def Tile.arrReady (T : Tile) (c : ArrCmd) : Bool := (T.slot T.act).st == .active && T.unitsHere c.units

/-- The tweak of a data unit (R263): WDID, key index, image address. -/
def ldsTweak (wdid key a : Nat) : Nat := wdid * 2 ^ 96 + key * 2 ^ 92 + a % 2 ^ 56

/-- Place an image, decrypted at the load port, in the shadow plane (R263, R269). -/
def State.placeImage (s : State) (t : Nat) (c : ArrCmd) (key base : Nat) (fmt : MFmt) (sp : Bool) (img : List Byte) : State :=
  let pt := match c.key with
    | none => img
    | some (k, w) => xtsImage true k (fun o => ldsTweak w key (base + o)) img
  let p : Plane := { image := pt, st := { fmt := fmt, sparse := sp, inuse := true }, dirty := true }
  let s := s.modTile t fun T =>
    { T.modArr fun a => a.setPlane (1 - a.act) p with badWords := T.badWords.filter fun w =>
        !(w.1 == 4 && w.2 / 2 ^ 32 == 1 - T.arr.act) }
  s.arrRan t c.id

/-- ARRAY_LDS_RUN (R269) -/
def execArrayLdsRun (tile : Nat) (s : State) : Res :=
  let T := s.tile tile
  match T.arr.head with
  | none => .next s
  | some c =>
    if !T.arrReady c then .next (s.again (.arrayLdsRun tile))
    else match c.op with
    | .ldsG va held key fmt sp d due =>
      (match s.engRead tile c.team (s.ownerOf tile (T.team c.team)) held (T.group c.slot).priv d due
          (sectorsOf va (imgSize fmt sp)) with
      | .ok s l => .next (s.placeImage tile c key va fmt sp l)
      | .ecc src info => .next (s.push [.engineEccError tile true src info])
      | .fault a => .next (((s.modTile tile fun T => (T.giveBack false (s.cycle tile) c.units).modArr fun x =>
          { x with q := x.q.filter fun y => y.id != c.id }).noteTrap tile c.slot c.pc c.word .xlate 2 a 0).arrKick tile))
    | .ldsS off tweak key fmt sp =>
      (match T.spBad c.team off (imgSize fmt sp) with
      | some i => .next (s.push [.engineEccError tile true 4 (off + i)])
      | none => .next (s.placeImage tile c key tweak fmt sp (((T.team c.team).map fun x => x.spBytes off (imgSize fmt sp)).getD [])))
    | _ => .next s

/-- ARRAY_SWP_RUN (R270): the planes exchange their roles. -/
def execArraySwpRun (tile : Nat) (s : State) : Res :=
  let T := s.tile tile
  match T.arr.head with
  | none => .next s
  | some c =>
    if !T.arrReady c then .next (s.again (.arraySwpRun tile))
    else match c.op with
    | .swp => .next ((s.modTile tile fun T => T.modArr fun a => { a with act := 1 - a.act }).arrRan tile c.id)
    | _ => .next s

/-- An accumulator cell, or the pair of an .f64 cell (R262). -/
def Team.cell (x : Team) (f : MFmt) (row n : Nat) : Nat :=
  if f = .f64 then (x.accGet row (2 * n)).toNat + 2 ^ 32 * (x.accGet row (2 * n + 1)).toNat else (x.accGet row n).toNat

/-- Write an accumulator cell, or the pair of an .f64 cell. -/
def Team.setCell (x : Team) (f : MFmt) (row n v : Nat) : Team :=
  if f = .f64 then (x.accSet row (2 * n) (BitVec.ofNat 32 v)).accSet row (2 * n + 1) (BitVec.ofNat 32 (v / 2 ^ 32))
  else x.accSet row n (BitVec.ofNat 32 v)

/-- Mark the regions of rows INUSE and DIRTY (R274). -/
def Team.mark (x : Team) (rs : List Nat) : Team :=
  { x with accUse := x.accUse ++ rs.filter (!x.accUse.contains ·), accDirty := x.accDirty ++ rs.filter (!x.accDirty.contains ·) }

/-- One activation row through the active plane (R271). -/
def Team.mmaRow (x : Team) (st : PlaneSt) (cols : List Column) (af : MFmt) (z : Bool) (row : Nat) (a : ActRow) : Team :=
  ((List.range (mfN st.fmt)).foldl (fun (y : Team) n =>
    y.setCell st.fmt row n (matrixSum st.fmt af st.sparse (if z then 0 else x.cell st.fmt row n) a (cols.getD n ⟨[], []⟩))) x).mark
      [row / 16]

/-- An uncorrectable word of the accumulators lies in these bytes of a row (R374): its offset. -/
def Tile.accBad (T : Tile) (team row lo n : Nat) : Option Nat :=
  (List.range n).find? fun i => T.badWords.any fun w => w.1 == 3 && w.2 == team * 2 ^ 32 + row * 256 + lo + i

/-- The uncorrectable words among accumulator bytes that a write replaces are gone. -/
def Tile.accClean (T : Tile) (team off n : Nat) : Tile :=
  { T with badWords := T.badWords.filter fun w => !(w.1 == 3 && team * 2 ^ 32 + off ≤ w.2 && w.2 < team * 2 ^ 32 + off + n) }

/-- An uncorrectable word of a plane lies in the image it reads (R374): its offset. -/
def Tile.planeBad (T : Tile) (p : Nat) : Option Nat :=
  (T.badWords.find? fun w => w.1 == 4 && w.2 / 2 ^ 32 == p && decide (w.2 % 2 ^ 32 < (T.arr.plane p).image.length)).map (·.2 % 2 ^ 32)

/-- Activation rows in increasing order, `n` of them from row `r`; an uncorrectable error ends the command with its
source and information. -/
def State.mmaRows (s : State) (t team row off stride : Nat) (af : MFmt) (sp z : Bool) (cols : List Column) (r : Nat) :
    Nat → State × Option (Nat × Nat)
  | 0 => (s, none)
  | n + 1 =>
    let T := s.tile t
    let rb := rowImage af sp
    let o := off + r * stride
    match T.spBad team o rb, if z then none else T.accBad team (row + r) 0 256, T.planeBad T.arr.act with
    | some i, _, _ => (s, some (4, o + i))
    | _, some i, _ => (s, some (5, (row + r) * 256 + i))
    | _, _, some i => (s, some (6, i))
    | none, none, none =>
      let s := s.modTile t fun T => (T.accClean team ((row + r) * 256) 256).modTeam team fun x =>
        x.mmaRow (T.arr.plane T.arr.act).st cols af z (row + r) (actRow af sp (x.spBytes o rb))
      s.mmaRows t team row off stride af sp z cols (r + 1) n

/-- ARRAY_MMA_RUN (R271) -/
def execArrayMmaRun (tile : Nat) (s : State) : Res :=
  let T := s.tile tile
  match T.arr.head with
  | none => .next s
  | some c =>
    if !T.arrReady c then .next (s.again (.arrayMmaRun tile))
    else match c.op with
    | .mma row off stride m af sp z =>
      let p := T.arr.plane T.arr.act
      let cols := (List.range (mfN p.st.fmt)).map (column p.st.fmt p.st.sparse p.image)
      (match s.mmaRows tile c.team row off stride af sp z cols 0 m with
      | (s, none) => .next (s.arrRan tile c.id)
      | (s, some e) => .next (s.push [.engineEccError tile true e.1 e.2]))
    | _ => .next s

/-- PLANE_RELEASE (R264): once the holder's commands have completed, both planes are zeroed and free. -/
def execPlaneRelease (s : State) : Res :=
  let t := s.cur.tile
  let a := s.T.arr
  let mine : List ArrCmd := a.q.filter fun c => some c.team == a.holder
  let due := match mine with
    | [] => a.releasing
    | [c] => c.op == ArrOp.free && (a.q.head?.map fun (y : ArrCmd) => y.id) == some c.id
    | _ => false
  if due then
    .next ((s.modTile t fun T => T.modArr fun a => ({ a with
      p0 := {}, p1 := {}, holder := none, releasing := false
      q := a.q.filter fun c => some c.team != a.holder } : Arr).resync).arrKick t)
  else if a.releasing || mine.any (fun (c : ArrCmd) => c.op == ArrOp.free) then .next (s.againAt t 0 .planeRelease)
  else .next s

/-! ## The return of units, and errors -/

/-- ENGINE_FLIP_BACK (R123): the stores of the command have passed their horizon, and its units come back in one tile
cycle with their phase toggled. -/
def execEngineFlipBack (tile : Nat) (array : Bool) (s : State) : Res :=
  let T := s.tile tile
  if array then
    match T.arr.q.find? (·.ran) with
    | none => .next s
    | some c => .next ((s.modTile tile fun T => (T.giveBack true (s.cycle tile) c.units).modArr fun a =>
        { a with q := a.q.filter fun y => y.id != c.id }).arrKick tile)
  else
    match T.copies.filter (·.ran) with
    | [] => .next s
    | l =>
      match l.find? fun x => s.passed tile x.hor && !s.remoteAway tile { x with rtile := s.homeOf x } with
      | none => .next (s.again (.engineFlipBack tile false))
      | some x =>
        let s := (s.copyBack tile x).modTile tile fun T => { T with copies := T.copies.filter fun y => y.id != x.id }
        .next (if 1 < l.length then s.again (.engineFlipBack tile false) else s)

/-- The information of an engine's error record (Table 17.2): source codes 0 to 3 are returned data, 4 the scratchpad, 5
the accumulators, 6 a plane. -/
def eccInfo (src : Nat) : Nat × Nat := if src < 4 then (4, src + 4) else (3, [4, 5, 6].getD (src - 4) 4)

/-- ENGINE_ECC_ERROR (R377): the engine stops the command and keeps its units; a load leaves its shadow plane zeroed, and
the array discards the holder's later commands with their phase as it was. The record stops no group. -/
def execEngineEccError (tile : Nat) (array : Bool) (src info : Nat) (s : State) : Res :=
  let T := s.tile tile
  let e := eccInfo src
  if array then
    match T.arr.head with
    | none => .next s
    | some c =>
      let shadow (a : Arr) : Arr := match c.op with
        | .ldsG _ _ _ _ _ _ _ | .ldsS _ _ _ _ _ => a.setPlane (1 - a.act) {}
        | _ => a
      let later := T.arr.q.filter fun y => !y.ran && y.id != c.id
      let s := s.modTile tile fun T => (T.giveBack false (s.cycle tile) (later.flatMap fun y => y.units)).modArr fun a =>
        ({ shadow a with q := a.q.filter (·.ran) } : Arr).resync
      .next (s.noteTrap tile c.slot c.pc c.word .ecc e.1 info e.2)
  else
    match T.copies.find? fun x => !x.ran with
    | none => .next s
    | some x => .next ((s.copyStops tile x).noteTrap tile x.slot x.pc x.word .ecc e.1 info e.2)

/-! ## Thread accesses to the accumulators (R275 to R279) -/

/-- The checks of a thread access to `n` rows from a row: the first row at or beyond the team's count, then the first
engine-owned region. -/
def State.accCheck (s : State) (row n : Nat) : Option (TrapClass × Nat × Nat × Nat) :=
  match s.curTeam with
  | none => some (.xlate, 4, row, 0)
  | some x => match rowPast row n x.accRows with
    | some r => some (.xlate, 4, r, x.accRows)
    | none => match (regionsOf row n).find? fun j => (x.region j).own with
      | some j => some (.owner, 1, j, 1)
      | none => none

/-- Regions that hold the rows of a thread access are not back in the pool: the access waits (R70). -/
def State.accAway (s : State) (row n : Nat) : Bool := !s.T.regionsHere s.G.team (regionsOf row n)

/-- The first uncorrectable byte of rows that a thread reads: row × 256 + byte. -/
def State.accRowsBad (s : State) (row n : Nat) : Option Nat :=
  (List.range n).findSome? fun i => (s.T.accBad s.G.team (row + i) 0 256).map fun b => (row + i) * 256 + b

/-- Change the issuing team. -/
def State.modCurTeam (s : State) (f : Team → Team) : State :=
  s.modTile s.cur.tile fun T => T.modTeam s.G.team f

/-- Every cell of rows from a function of row and cell. -/
def Team.setRows (x : Team) (row n : Nat) (f : Nat → Nat → W32) : Team :=
  (List.range n).foldl (fun (y : Team) r =>
    (List.range 64).foldl (fun (y : Team) i => y.accSet (row + r) i (f (row + r) i)) y) x


/-- ACCZ and ACCZ.FREE (R276). -/
def State.accz (s : State) (c : Ctl) (rr nr : Reg) (free : Bool) : State :=
  match s.active c with
  | [] => s.tick.retire c [] [] (some 0) false false
  | l :: _ =>
    let row := s.src l rr 1
    let n := s.src l nr 1
    if free && row % 16 ≠ 0 then s.trapAll .ill 7 row 0
    else if free && n % 16 ≠ 0 then s.trapAll .ill 7 n 0
    else if n = 0 then s.tick.retire c [] [] (some 0) false false
    else match s.accCheck row n with
    | some (cl, k, i, j) => s.trapAll cl k i j
    | none =>
      if s.accAway row n then s.hold .none else
      let rs := regionsOf row n
      let s := s.modCurTeam fun x =>
        let y := (x.setRows row n fun _ _ => 0).mark rs
        if free then { y with accUse := y.accUse.filter (!rs.contains ·) } else y
      (s.modTile s.cur.tile fun T => T.accClean s.G.team (row * 256) (n * 256)).tick.retire c [] [] (some 0) false false

/-- ACCZ (R276) -/
def execAccz (c : Ctl) (row n : Reg) (s : State) : Res := .next (s.accz c row n false)
/-- ACCZ.FREE (R276) -/
def execAcczFree (c : Ctl) (row n : Reg) (s : State) : Res := .next (s.accz c row n true)

/-- The first lane of a list whose row fails its checks. -/
def State.accLanes (s : State) (row : Nat → Nat) (ls : List Nat) : Option (Nat × TrapClass × Nat × Nat × Nat) :=
  ls.findSome? fun l => (s.accCheck (row l) 1).map fun e => (l, e)

/-- ACCRD (R277) -/
def execAccrd (c : Ctl) (d x : Reg) (s : State) : Res :=
  let ls := s.active c
  let row (l : Nat) : Nat := s.src l x 1
  match s.accLanes row ls with
  | some (l, cl, k, i, j) => .next (s.trapLane l cl k i j)
  | none =>
    if ls.any fun l => s.accAway (row l) 1 then .next (s.hold .none) else
    match ls.findSome? fun l => (s.T.accBad s.G.team (row l) (8 * l) 8).map fun b => (l, row l * 256 + 8 * l + b) with
    | some (l, i) => .next (s.trapLane l .ecc 3 i 1)
    | none =>
      let cell (l i : Nat) : Nat := (s.curTeam.map fun x => (x.accGet (row l) i).toNat).getD 0
      .next (s.tick.retire c (ls.flatMap fun l => spread l d 2 (cell l (2 * l) + 2 ^ 32 * cell l (2 * l + 1))) [] none false false)

/-- ACCWR (R277): lanes in ascending order. -/
def execAccwr (c : Ctl) (x b : Reg) (s : State) : Res :=
  let ls := s.active c
  let row (l : Nat) : Nat := s.src l x 1
  match s.accLanes row ls with
  | some (l, cl, k, i, j) => .next (s.trapLane l cl k i j)
  | none =>
    if ls.any fun l => s.accAway (row l) 1 then .next (s.hold .none) else
    let s2 := s.modCurTeam fun t => ls.foldl (fun (y : Team) l =>
      ((y.accSet (row l) (2 * l) (s.reg l b.code)).accSet (row l) (2 * l + 1) (s.reg l (b.code + 1))).mark [row l / 16]) t
    let s2 := s2.modTile s.cur.tile fun T => ls.foldl (fun (T : Tile) l => T.accClean s.G.team (row l * 256 + 8 * l) 8) T
    .next (s2.tick.retire c [] [] (some 0) false false)

/-- ACCST (R278) -/
def execAccst (x : AccstR) (s : State) : Res :=
  match s.active x.c with
  | [] => .next (s.tick.retire x.c [] [] (some 0) false false)
  | l :: _ =>
    let off := s.src l x.off 1
    let row := s.src l x.row 1
    let b := s.src l x.b 1
    let n := bits b 0 16
    let stride := bits b 16 16
    let rb := outRow x.fmt
    let size := (s.curTeam.map (·.spSize)).getD 0
    if n = 0 || 4096 < n || stride < rb then .next (s.trapAll .ill 7 b 0)
    else if off % 2 ≠ 0 then .next (s.trapAll .align 3 off 0)
    else if stride % 2 ≠ 0 then .next (s.trapAll .align 3 stride 0)
    else match (List.range n).find? fun m => decide (size < off + m * stride + rb) with
    | some m => .next (s.trapAll .xlate 4 (off + m * stride) size)
    | none =>
      let slabs := slabsOf (s.unitCount false) n rb fun m => off + m * stride
      match slabs.find? fun j => (s.unitOf false j).own with
      | some j => .next (s.trapAll .owner 1 j 0)
      | none => match s.accCheck row n with
        | some (cl, k, i, j) => .next (s.trapAll cl k i j)
        | none =>
          if s.accAway row n || !s.T.slabsHere s.G.team slabs then .next (s.hold .none) else
          match s.accRowsBad row n with
          | some i => .next (s.trapAll .ecc 3 i 1)
          | none =>
            let s := s.modCurTeam fun t => (List.range n).foldl (fun (y : Team) m =>
              y.spWrite (off + m * stride) rb (accstRow x.fmt x.sat (if x.rtz then .rtz else .rne)
                ((List.range 64).map fun i => (y.accGet (row + m) i).toNat))) t
            .next (s.tick.retire x.c [] [] (some 0) false false)

/-- ACCSCL (R279) -/
def execAccscl (x : AccsclR) (s : State) : Res :=
  match s.active x.c with
  | [] => .next (s.tick.retire x.c [] [] (some 0) false false)
  | l :: _ =>
    let row := s.src l x.row 1
    let n := s.src l x.n 1
    if n = 0 then .next (s.tick.retire x.c [] [] (some 0) false false)
    else match s.accCheck row n with
    | some (cl, k, i, j) => .next (s.trapAll cl k i j)
    | none =>
      if s.accAway row n then .next (s.hold .none) else
      match s.accRowsBad row n with
      | some i => .next (s.trapAll .ecc 3 i 1)
      | none =>
        let act := s.active x.c
        let scale (i : Nat) : Option Nat :=
          if x.s.isV then (if act.contains (i / 2) then some (s.reg (i / 2) (x.s.code + i % 2)).toNat else none)
          else some (s.srcF l x.s Fmt.f32)
        let s := s.modCurTeam fun t => (t.setRows row n fun r i => match scale i with
          | some v => BitVec.ofNat 32 (fpMul Fmt.f32 x.rm (t.accGet r i).toNat v).1
          | none => t.accGet r i).mark (regionsOf row n)
        .next (s.tick.retire x.c [] [] (some 0) false false)

end Sys2Proof.Machine
end

