-- ==== Sys2Proof/Machine/Routes.lean ====
section
/-! DEFINITION. The shape of a partition: connected tiles, routes (R289 to R291), place tables (R287), grains and
stage-two tables (R293 to R295), and the checks of a cut (R284, R286). -/

namespace Sys2Proof.Machine

/-! ## Tiles (R6, R8) -/

/-- A tile is good. -/
def State.goodTile (s : State) (t : Nat) : Bool := decide (t < 8400) && !s.ks.bad.contains t && !(s.tile t).dead

/-- Bits set at the numbers of a list. -/
def bitmapOf (l : List Nat) : Nat := l.dedup.foldl (fun a i => a + 2 ^ i) 0

/-- The good-tile map (R7). -/
def State.goodMap (s : State) : Nat := 2 ^ 8400 - 1 - bitmapOf (s.ks.bad.filter fun t => decide (t < 8400))

/-- The good count (R7). -/
def State.goodCount (s : State) : Nat := 8400 - (s.ks.bad.filter fun t => decide (t < 8400)).dedup.length

/-- The host receives the good count and the good-tile map through the management interface (R7, R430): answer kind 33. -/
def State.reportGood (s : State) : State :=
  s.modKs fun k => { k with answers := { kind := 33, data := [s.goodCount, s.goodMap], sig := 0 } :: k.answers }

/-- A good tile of no partition, which no partition has lent either. -/
def State.freeTile (s : State) (t : Nat) : Bool := s.goodTile t && (s.tile t).tag == 0 && (s.tile t).lender.isNone

/-- Ports in the order of ties: east, north, west, south (R290). -/
def portOrder : List Nat := [2, 1, 4, 3]

/-- The neighbour of a tile behind a port, inside the mesh of 120 × 70. -/
def meshNext (t port : Nat) : Option Nat :=
  if port = 1 then (if t / 120 < 69 then some (t + 120) else none)
  else if port = 2 then (if t % 120 < 119 then some (t + 1) else none)
  else if port = 3 then (if 0 < t / 120 then some (t - 120) else none)
  else if 0 < t % 120 then some (t - 1) else none

/-- The port back along a link. -/
def backPort (port : Nat) : Nat := if port ≤ 2 then port + 2 else port - 2

/-- A link is in service: neither of its directions is out (R429). -/
def linkOk (bad : List (Nat × Nat)) (t port : Nat) : Bool :=
  match meshNext t port with
  | none => false
  | some n => !bad.contains (t, port) && !bad.contains (n, backPort port)

/-- Tiles that a link in service joins to a tile. -/
def meshNear (bad : List (Nat × Nat)) (t : Nat) : List Nat :=
  (portOrder.filter (linkOk bad t)).filterMap (meshNext t)

/-- Layers of members by distance from the first one. -/
def layers (bad : List (Nat × Nat)) (mem : List Nat) : Nat → List Nat → List Nat → List (List Nat)
  | 0, _, _ => []
  | n + 1, seen, front =>
    let next := mem.filter fun t => !seen.contains t && (meshNear bad t).any front.contains
    front :: (if next = [] then [] else layers bad mem n (seen ++ next) next)

/-- Members by distance from `d`. -/
def layersFrom (bad : List (Nat × Nat)) (mem : List Nat) (d : Nat) : List (List Nat) := layers bad mem (mem.length + 1) [d] [d]

/-- The members are 4-connected (R284). -/
def connected (bad : List (Nat × Nat)) (mem : List Nat) : Bool :=
  match mem with
  | [] => false
  | t :: _ => (layersFrom bad mem t).flatten.length == mem.length

/-! ## Routes (R290, R291) -/

/-- What is known of a tile on the way to a destination: the first ports of its shortest paths, each with the fewest
turns that follow. -/
abbrev Ways := List (Nat × List (Nat × Nat))

/-- The fewest turns from a tile that is entered by a port. -/
def turnsAfter (near : Ways) (n port : Nat) : Option Nat :=
  match near.find? fun x => x.1 == n with
  | none => none
  | some (_, []) => some 0
  | some (_, w :: ws) => some (ws.foldl (fun a x => min a (x.2 + if x.1 = port then 0 else 1)) (w.2 + if w.1 = port then 0 else 1))

/-- The ways of a layer from those of the layer before it. -/
def layerWays (bad : List (Nat × Nat)) (near : Ways) (layer : List Nat) : Ways :=
  layer.map fun t => (t, portOrder.filterMap fun p =>
    if linkOk bad t p then (meshNext t p).bind fun n => (turnsAfter near n p).map fun k => (p, k) else none)

/-- Ways to a destination, layer by layer. -/
def allWays (bad : List (Nat × Nat)) (near : Ways) : List (List Nat) → Ways
  | [] => []
  | l :: ls => let w := layerWays bad near l; w ++ allWays bad w ls

/-- The first port with the fewest turns, in the order of ties. -/
def bestPort (ws : List (Nat × Nat)) : Nat :=
  match ws with
  | [] => 0
  | w :: r => (r.foldl (fun a x => if x.2 < a.2 then x else a) w).1

/-- Route entries for one destination: tile, port; 5 at the destination itself. -/
def routesTo (bad : List (Nat × Nat)) (mem : List Nat) (d : Nat) : List (Nat × Nat) :=
  match layersFrom bad mem d with
  | [] => []
  | _ :: ls => (d, 5) :: (allWays bad [(d, [])] ls).map fun x => (x.1, bestPort x.2)

/-- Turns of the path that route entries give from a tile. -/
def pathTurns (rs : List (Nat × Nat)) : Nat → Nat → Nat → Nat
  | 0, _, _ => 0
  | n + 1, t, port =>
    match rs.find? fun x => x.1 == t with
    | none => 0
    | some (_, p) =>
      if p = 5 || p = 0 then 0
      else (if port = 0 || port = p then 0 else 1) + pathTurns rs n ((meshNext t p).getD t) p

/-- Every pair of members has a route of at most 7 turns (R291). -/
def routable (bad : List (Nat × Nat)) (mem : List Nat) : Bool :=
  mem.all fun d =>
    let rs := routesTo bad mem d
    mem.all fun t => (rs.any fun x => x.1 == t && x.2 != 0) && decide (pathTurns rs 8400 t 0 ≤ 7)

/-- The route table of every member: tile, table. -/
def routeTables (bad : List (Nat × Nat)) (mem : List Nat) : List (Nat × AMap Nat) :=
  let all := mem.map fun d => (d, routesTo bad mem d)
  mem.map fun t => (t, all.foldl (fun m x => match x.2.find? fun y => y.1 == t with
    | some y => if y.2 = 0 then m else amSet m x.1 y.2
    | none => m) [])

/-- Write every member's route table (R290). -/
def State.writeRoutes (s : State) (mem : List Nat) : State :=
  (routeTables s.ks.badLinks mem).foldl (fun s x => s.modTile x.1 fun T => { T with routes := x.2, tableBad := false }) s

/-- Write routes to and from new members; those between old ones stay (R307). -/
def State.addRoutes (s : State) (mem new : List Nat) : State :=
  (routeTables s.ks.badLinks mem).foldl (fun s x => s.modTile x.1 fun T =>
    if new.contains x.1 then { T with routes := x.2 }
    else { T with routes := new.foldl (fun m d => match amGet x.2 d with
      | some p => amSet m d p
      | none => amDel m d) T.routes }) s

/-! ## Places (R287) -/

/-- A place table of 8,192 entries from the valid places (Table 8.6). -/
def placeTable (places : AMap Nat) : AMap Nat := places.foldl (fun m x => amSet m x.1 (0x8000 + x.2)) []

/-- Write the place table of a partition, and each tile's own place, on every member. -/
def State.writePlaces (s : State) (tag : Nat) : State :=
  match s.part tag with
  | none => s
  | some P => P.places.foldl (fun s x => s.modTile x.2 fun T =>
      { T with places := placeTable P.places, place := x.1 }) s

/-! ## Grains and stage two (R87, R293 to R295) -/

/-- A grain belongs to no partition and may be given to one: it exists, Keystone does not keep its tables there, and it
is not withdrawn (R431). -/
def State.freeGrain (s : State) (x : Nat × Nat) : Bool :=
  decide (x.1 < 84) && decide (x.2 < 256) && !(x.1 == 0 && decide (x.2 < 2)) &&
  !(s.field x.1).retired && !(s.field x.1).stopped && !(s.field x.1).withdrawn.contains x.2 &&
  !s.parts.any fun p => p.2.grains.contains x

/-- Zeros over a grain, and the old lines of its slices are evicted (R295). -/
def State.zeroGrain (s : State) (x : Nat × Nat) : State :=
  let lo := grainBase x.1 x.2
  { s with
    mem := s.mem.filter fun c => !(lo ≤ c.1 && c.1 < lo + 2 ^ 28)
    poison := s.poison.filter fun g => !(lo / 64 ≤ g && g < (lo + 2 ^ 28) / 64)
    slices := s.slices.map fun y => (y.1, if y.1 / 64 = x.1 then
      { y.2 with lines := y.2.lines.filter fun l => !(lo / 256 ≤ l.line && l.line < (lo + 2 ^ 28) / 256) } else y.2) }

/-- A partition physical range touches the agent region. -/
def touchesAgent (agent : List (Nat × Nat)) (lo n : Nat) : Bool := agent.any fun r => decide (lo < r.1 + r.2) && decide (r.1 < lo + n)

/-- A stage-two entry (Table 12.3). -/
def s2Entry (pa : Nat) (w x leaf aonly : Bool) : Nat :=
  pa + 1 + (if leaf then 2 else 0) + (if w then 4 else 0) + (if x then 8 else 0) + (if leaf then 16 else 0) + (if aonly then 32 else 0)

/-- Four grains form a 1 GiB leaf: they follow one another in one field, aligned, and their AONLY is one. -/
def gibLeaf (gs : List (Nat × Nat)) (agent : List (Nat × Nat)) (i : Nat) : Bool :=
  match gs with
  | [a, b, c, d] => a.2 % 4 == 0 && b == (a.1, a.2 + 1) && c == (a.1, a.2 + 2) && d == (a.1, a.2 + 3) && !touchesAgent agent (i * 2 ^ 30) (2 ^ 30)
  | _ => false

/-- Level-two entries of the grains of one 1 GiB range. -/
def grainLeaves (agent : List (Nat × Nat)) (i : Nat) (gs : List (Nat × Nat)) : List (Nat × Nat) :=
  let base := match gs with
    | g :: _ => levelTwoAt g.1 g.2
    | [] => 0
  (List.range gs.length).flatMap fun j =>
    let g := gs.getD j (0, 0)
    (List.range 128).map fun k =>
      (base + 8 * (128 * j + k), s2Entry (grainBase g.1 g.2 + k * 2 ^ 21) true true true
        (touchesAgent agent (i * 2 ^ 30 + j * 2 ^ 28 + k * 2 ^ 21) (2 ^ 21)))

/-- The words of a partition's stage-two table for its grains: address, value (R294). -/
def grainTable (tag : Nat) (grains agent : List (Nat × Nat)) : List (Nat × Nat) :=
  (List.range ((grains.length + 3) / 4)).flatMap fun i =>
    let gs := (grains.drop (4 * i)).take 4
    let g := gs.headD (0, 0)
    if gibLeaf gs agent i then [(levelOneAt tag + 8 * i, s2Entry (grainBase g.1 g.2) true true true false)]
    else (levelOneAt tag + 8 * i, s2Entry (levelTwoAt g.1 g.2) false false false false) :: grainLeaves agent i gs

/-- Partition physical address of the device window. -/
def devWindowAt : Nat := 2 ^ 43 - 2 ^ 30
/-- Partition physical address of the host window. -/
def hostWindowAt : Nat := 2 ^ 43 - 2 ^ 37
/-- Partition physical address of a peer window. -/
def peerWindowAt (w : Nat) : Nat := 2 ^ 43 - 2 ^ 38 + w * 2 ^ 31

/-- The words that map the device window and the host window (R294, R312). -/
def windowTable (tag : Nat) : List (Nat × Nat) :=
  let l1 (ppa : Nat) : Nat := levelOneAt tag + 8 * bits ppa 30 13
  [(l1 devWindowAt, s2Entry (windowTableAt tag 0) false false false false),
   (windowTableAt tag 0, s2Entry (0x800000000000 + tag * 2 ^ 21) true false true false)] ++
  (List.range 64).map fun i =>
    (l1 (hostWindowAt + i * 2 ^ 30), s2Entry (0x400000000000 + tag * 2 ^ 36 + i * 2 ^ 30) true false true false)

/-- The words that map a peer window of a size in 2 MiB steps (R334). -/
def peerTable (tag : Nat) (x : PeerWin) : List (Nat × Nat) :=
  (List.range ((x.size + 2 ^ 30 - 1) / 2 ^ 30)).flatMap fun i =>
    let tab := windowTableAt tag (1 + 2 * x.w + i)
    (levelOneAt tag + 8 * bits (peerWindowAt x.w + i * 2 ^ 30) 30 13, s2Entry tab false false false false) ::
    (List.range 512).filterMap fun k =>
      if i * 2 ^ 30 + k * 2 ^ 21 < x.size then
        some (tab + 8 * k, s2Entry (0xA00000000000 + (16 * tag + x.w) * 2 ^ 31 + i * 2 ^ 30 + k * 2 ^ 21) x.write false true false)
      else none

/-- Write words of Keystone's tables. -/
def State.putWords (s : State) (l : List (Nat × Nat)) : State :=
  s.setMem (l.foldl (fun m x => Memory.write m x.1 8 x.2) s.mem)

/-- Clear a partition's stage-two tables. -/
def State.clearTables (s : State) (tag : Nat) (grains : List (Nat × Nat)) : State :=
  let tabs := (List.range 16).map (fun i => levelOneAt tag + 4096 * i) ++ (List.range 33).map (windowTableAt tag) ++
    grains.map fun g => levelTwoAt g.1 g.2
  s.setMem (s.mem.filter fun c => !tabs.any fun t => decide (t ≤ c.1) && decide (c.1 < t + 4096))

/-- Every translation of a partition that a predicate selects leaves its tiles' TLBs (tlbi.grain.p, R208). -/
def State.dropTlbs (s : State) (tag : Nat) (f : TlbEnt → Bool) : State :=
  { s with tiles := s.tiles.map fun x => (x.1, if x.2.tag = tag then
      { x.2 with tlb1 := x.2.tlb1.filter fun e => !f e, tlb2 := x.2.tlb2.filter fun e => !f e } else x.2) }

/-! ## Settings (Table 12.8) -/

/-- Every setting named lies in its range, for a partition of `n` contexts with a tag. A slot counts as held by the tag whose
entry is pending for it too (R286). -/
def State.settingsOk (s : State) (tag n : Nat) (x : SettingsReq) : Bool :=
  (match x.schedule with
    | none => true
    | some l => decide (1 ≤ l.length) && decide (l.length ≤ 16) &&
        l.all fun e => decide (e.1 < n) && decide (10 ≤ e.2) && decide (e.2 ≤ 100000)) &&
  (match x.preempt with
    | none => true
    | some v => decide (1000 ≤ v) && decide (v ≤ 500000)) &&
  (match x.slots with
    | none => true
    | some l => l.all fun i => decide (i < 64) && decide ((amGet s.ks.slots i).getD 0 = 0 ∨ (amGet s.ks.slots i).getD 0 = tag) &&
        !s.parts.any fun p => p.1 != tag && p.2.pendSet.any fun y => (y.left.slots.getD []).contains i)

/-- The schedule of a partition by default: each context 10 ms. -/
def defaultSched (n : Nat) : List (Nat × Nat) := (List.range n).map fun i => (i, 10000)

/-! ## The checks of a cut (R284) -/

/-- A range of the agent region: whole 2 MiB leaves inside the grains (R324). -/
def agentRangeOk (grains : Nat) (r : Nat × Nat) : Bool :=
  r.1 % 2 ^ 21 == 0 && r.2 % 2 ^ 21 == 0 && r.2 != 0 && decide (r.1 + r.2 ≤ grains * 2 ^ 28)

/-- Where the host names no places, the box is the physical bounding box and each tile's place its offset from the
south-west corner (R287). -/
def fillPlaces (x : CutReq) : CutReq :=
  if x.places ≠ [] then x
  else
    let xs := x.tiles.map (· % 120)
    let ys := x.tiles.map (· / 120)
    let x0 := xs.foldl min (xs.headD 0)
    let y0 := ys.foldl min (ys.headD 0)
    let lw := xs.foldl max 0 - x0 + 1
    { x with lw := lw, lh := ys.foldl max 0 - y0 + 1, places := x.tiles.map fun t => (t / 120 - y0) * lw + (t % 120 - x0) }

/-- Why a cut is refused; 0 where it is accepted. -/
def State.cutFault (s : State) (x : CutReq) : Nat :=
  if x.tiles.any (fun t => !s.freeTile t) || !decide x.tiles.Nodup then 1
  else if x.tiles.length = 0 || 8192 < x.tiles.length then 3
  else if !connected s.ks.badLinks x.tiles then 2
  else if 8192 < x.lw * x.lh then 4
  else if x.places.length ≠ x.tiles.length || x.places.any (fun p => decide (x.lw * x.lh ≤ p)) || !decide x.places.Nodup then 5
  else if x.grains.any (fun g => !s.freeGrain g) || !decide x.grains.Nodup then 6
  else if x.agent = [] || !x.agent.all (agentRangeOk x.grains.length) then 7
  else if !s.settingsOk x.tag x.contexts.length x.settings then 8
  else if x.msix = 0 || 2048 < x.msix then 9
  else if 512 ≤ s.parts.length then 10
  else if !routable s.ks.badLinks x.tiles then 11
  else if x.contexts.length = 0 || 16 < x.contexts.length || x.owners.any (fun o => decide (64 ≤ o)) ||
      x.contexts.any (fun o => !x.owners.contains o) || decide (4 ≤ x.link) then 12
  else 0

/-- Keystone may choose a tag: 1 to 1,023, free for at least 10 ms (R285). -/
def State.tagFree (s : State) (tag : Nat) : Bool :=
  decide (1 ≤ tag) && decide (tag ≤ 1023) && (s.part tag).isNone &&
  match amGet s.ks.freed tag with
  | none => true
  | some t => decide (t + 10000000 ≤ s.wtime)

end Sys2Proof.Machine
end

