-- ==== Sys2Proof/Machine/Keystone.lean ====
section
/-! DEFINITION. Keystone's management of partitions: cuts (R284 to R287, R293 to R295), settings (R286), resets (R309),
guest pauses (R335), peer windows (R334), owners (R297, R300), queue creation (R313, R316) and slot tables (R301 to R304,
R401). -/

namespace Sys2Proof.Machine

/-! ## Tiles in and out of partitions (R305, R306) -/

/-- Re-tagging (R306): L1 and TLBs are invalid, the pool, the template store and the planes are zero, the bins empty, and
KTAG is new; packets held at the router are checked against it in order of arrival (R391). -/
def State.retag (s : State) (t tag gen : Nat) : State :=
  let T := s.tile t
  (s.setTile t {
    tag := tag, gen := gen, dis := T.dis, storeBad := T.storeBad, arr := { spares := T.arr.spares }, drops := T.drops
    lender := T.lender, recallAt := T.recallAt, dead := T.dead, agent := { priv := .agent } }).push
      (T.heldPkts.map fun p => .routerPacketReceive t p)

/-- A tile of a partition takes up the context that the schedule names. -/
def State.startTile (s : State) (t : Nat) : State :=
  match (s.part (s.tile t).tag).bind (·.current) with
  | some c => s.bringIn t c
  | none => s

/-- The tile's claims and timers are stopped and its groups marked (steps 1 and 2 of R305). A switch in progress
completes first. -/
def State.restStart (s : State) (t : Nat) : State :=
  let T := s.tile t
  if T.segs ≠ [] || T.slots.any (fun x => x.2.st == .streaming) then s
  else (s.markTile t).modTile t fun T => { T with quiesce := .preempting, qAt := s.wtime }

/-- One step of a tile towards rest: it ends paused (steps 1 and 2), or drained too (steps 1 to 3). -/
def State.restTile (s : State) (t limit : Nat) (pause : Bool) : State :=
  let T := s.tile t
  match T.quiesce with
  | .none => s.restStart t
  | .preempting =>
    if T.ctl.groups.all fun g => g.2.rests then
      s.modTile t fun T => { T with quiesce := if pause then .paused else .draining }
    else if T.qAt + limit ≤ s.wtime then s.stopTile t
    else s
  | .paused => if pause then s else s.modTile t fun T => { T with quiesce := .draining }
  | _ => s

/-- A tile runs on after a pause: claims, timers and groups go on where they stood (R305). -/
def State.resumeTile (s : State) (t : Nat) : State :=
  let T := s.tile t
  if T.quiesce = .none then s
  else
    let away := match T.ctl.timersOff with
      | some b => s.tileTime t - b
      | none => 0
    let c := T.ctl
    let c : CtxCtl := { c with
      noClaim := false, timersOff := none
      groups := c.groups.map fun g => (g.1, { g.2 with marked := false, parked := false, stopped := false })
      bins := c.bins.map fun (b : Nat × Bin) => (b.1, { b.2 with items := b.2.items.map fun i => { i with at_ := i.at_ + away } })
      held := c.held.map fun (h : HeldItem) => { h with item := { h.item with at_ := h.item.at_ + away } } }
    let T := (T.setCtl c).modArr fun a => { a with latch := a.latch.map fun e => { e with time := e.time + away } }
    let T := { T with quiesce := .none, qAt := 0, qHor := 0 }
    let s := s.setTile t T
    if (T.slot T.act).st = .active then s.resumeSteps t else s.startTile t

/-- Everything on a tile at rest is performed (step 3 of R305). -/
def State.drained (s : State) (t : Nat) : Bool := (s.tile t).quiesce == .draining && s.opsDone t

/-- Steps 2 to 4 of a tile have passed their bound (R400). -/
def State.overdue (s : State) (t limit : Nat) : Bool :=
  let T := s.tile t
  (T.quiesce == .preempting || T.quiesce == .draining) && !s.drained t && decide (T.qAt + limit + 11000 ≤ s.wtime)

/-- The largest horizon that a tile must wait out (step 5): of every group, team and copy in its context slots, and of its L1's
leases. -/
def Tile.horizon (T : Tile) : Nat :=
  let slot (a : Nat) (x : Nat × Slot) : Nat :=
    let g := x.2.ctl.groups.foldl (fun a y => max a y.2.rh) a
    let u := x.2.ctl.teams.foldl (fun a y => max a y.2.rh) g
    x.2.ctl.copies.foldl (fun a y => max a y.hor) u
  let x := T.slots.foldl slot 0
  T.l1.foldl (fun a y => max a y.lease) (T.copies.foldl (fun a y => max a y.hor) x)

/-- The contexts of a tile that hold teams are saved and their slots given up (step 4 of R305). With `list`, what the
place holds is put on the restore lists: it resumes elsewhere. -/
def State.saveOut (s : State) (t : Nat) (list : Bool) : State :=
  let T := s.tile t
  let s := s.modTile t fun T => { T with qHor := T.horizon }
  let s := (s.dueOverflows t T.act).foldl (fun s i => s.overflow t T.act i) s
  let s := if (T.slot T.act).st = .active then
      let va := imageVa (s.ctx T.tag T.ctl.ctx) T.place
      s.saveImage t va (T.ctl.groups.any fun g => g.2.stopped) (State.imagePut T.tag T.ctl.ctx va)
    else s
  let s := (List.range 3).foldl (fun s k => s.shelve t k) ((s.vacate t).poolFlush t)
  let s := s.modTile t fun T => { T with slots := [], store := [], quiesce := .leases }
  if !list then s
  else match s.part T.tag with
  | none => s
  | some P => (P.images.filter fun x => x.place == T.place && x.ctl.teams != [] && !x.listed).foldl
      (fun s x => s.listImage T.tag x) s

/-- What a tile holds is discarded without a save (R309, R397). -/
def State.dropOut (s : State) (t : Nat) : State :=
  { s.modTile t fun T => { T with
      slots := [], act := 0, segs := [], poolOut := none, store := [], arr := { spares := T.arr.spares }, copies := [], l1 := []
      aevt := [], aevtWait := [], resv := [], anchoring := [], quiesce := .leases, qHor := 0, agent := { priv := .agent } } with
    reqs := s.reqs.filter fun q => !(q.2.tile == t && q.2.arr) }

/-! ## Cuts (R284) -/

/-- The partition that a cut makes. -/
def newPart (s : State) (x : CutReq) : Part := {
  gen := 0, lw := x.lw, lh := x.lh
  places := (x.places.zip x.tiles).foldl (fun m p => amSet m p.1 p.2) []
  grains := x.grains, s2root := levelOneAt x.tag
  ctxs := (List.range x.contexts.length).map fun i => (i, { owner := x.contexts.getD i 0, s1root := x.roots.getD i 0 })
  owners := x.owners, agent := x.agent, link := x.link, msix := x.msix, msixTab := [], msixPend := []
  sched := x.settings.schedule.getD (defaultSched x.contexts.length), schedPos := 0, sliceAt := s.wtime, resting := false
  fixed := x.settings.fixed.getD false, preempt := x.settings.preempt.getD 40000, strict := false
  pendSet := if x.settings.strict.isNone && x.settings.slots.isNone then []
    else [{ req := none, left := { x.settings with schedule := none, fixed := none, preempt := none } }]
  boundary := none, keys := [], keyHeld := []
  saveKey := BitVec.ofNat 512 (Config.derive 1 [s.free, x.tag]), escrow := none, goff := x.goff, paused := none, peers := []
  deficit := [], lastOwner := [], lastQueue := [], serving := [], lastReset := none, resetDue := false, heldStop := false
  mig := none, images := [], covers := [], op := none }

/-- The next boundary of the slot table (R304). -/
def State.nextBoundary (s : State) : Nat := (s.wtime / 4096 + 1) * 4096

/-- The slot entries and the strict mark that a partition's requests have asked for take effect. -/
def State.takeSlots (s : State) (tag : Nat) : State :=
  match s.part tag with
  | none => s
  | some P =>
    let s := P.pendSet.foldl (fun s x => match x.left.slots with
      | none => s
      | some l => s.modKs fun k => { k with
          slots := l.foldl (fun m i => amSet m i tag) (k.slots.filter fun e => e.2 != tag) }) s
    (s.setPart tag (P.takeSets (fun P x => { P with strict := x.strict.getD P.strict })
      fun x => { x with strict := none, slots := none })).settled tag

/-- Slot entries and strict marks that wait for the table boundary take effect once it has passed, and the entries of freed
tags open (R304). -/
def State.slotBoundary (s : State) : State :=
  match s.ks.slotAt with
  | none => s
  | some b =>
    if s.wtime < b then s
    else
      let s := s.modKs fun k => { k with
        slotAt := none, slotDrop := [], slots := k.slots.filter fun e => !k.slotDrop.contains e.2 }
      s.parts.foldl (fun s p => s.takeSlots p.1) s

/-- SLOT_TABLE_BOUNDARY (R304): it stays due until the boundary that is awaited has passed. -/
def execSlotTableBoundary (s : State) : Res :=
  let s := s.slotBoundary
  .next (if s.ks.slotAt.isSome then s.again .slotTableBoundary else s)

/-- A change of slot entries or strict marks waits for the next boundary. -/
def State.awaitSlots (s : State) : State :=
  (s.modKs fun k => { k with slotAt := some (k.slotAt.getD s.nextBoundary) }).again .slotTableBoundary

/-- PARTITION_CUT (R284): Keystone refuses the request and changes nothing, or carries it out and answers with the tag and the
generation (answer kind 30). -/
def execPartitionCut (x0 : CutReq) (s : State) : Res :=
  let x := fillPlaces x0
  if !s.tagFree x.tag then .next s
  else
    let f := s.slotBoundary.cutFault x
    if f ≠ 0 then .next (s.result (.partitionCut x0) f)
    else
      let P := newPart s x
      let s := (if P.pendSet = [] then s else s.slotBoundary).setPart x.tag P |>.drawn
      let s := x.tiles.foldl (fun s t => s.retag t x.tag 0) s
      let s := (s.writePlaces x.tag).writeRoutes x.tiles
      let s := x.grains.foldl State.zeroGrain s
      let s := (s.clearTables x.tag x.grains).putWords (grainTable x.tag x.grains x.agent ++ windowTable x.tag)
      let s := if P.pendSet = [] then s else s.awaitSlots
      let s := s.modKs fun k => { k with answers := { kind := 30, data := [x.tag, P.gen], sig := 0 } :: k.answers }
      .next ((x.tiles.foldl State.startTile s).result (.partitionCut x0) 0)

/-- PARTITION_SET (R286): every value is checked, each change waits for its moment, and the request is answered once all of them
have taken effect. -/
def execPartitionSet (tag : Nat) (x : SettingsReq) (s : State) : Res :=
  match s.part tag with
  | none => .next (s.result (.partitionSet tag x) 1)
  | some P =>
    if !s.slotBoundary.settingsOk tag P.ctxs.length x then .next (s.result (.partitionSet tag x) 8)
    else if noSettings x then .next (s.result (.partitionSet tag x) 0)
    else
      let s := if x.strict.isSome || x.slots.isSome then s.slotBoundary else s
      let s := s.modPart tag fun P => { P with pendSet := P.pendSet ++ [{ req := some x, left := x }] }
      let s := if x.strict.isSome || x.slots.isSome then s.awaitSlots else s
      .next (if x.schedule.isSome || x.fixed.isSome || x.preempt.isSome then s.againAt tag 0 .sliceBoundary else s)

/-! ## Freeing a partition -/

/-- A partition's queues leave the interface table. -/
def State.dropQueues (s : State) (tag : Nat) : State := { s with queues := s.queues.filter fun q => q.2.cfg.tag != tag }

/-- Everything of a partition is given back: its tiles get tag 0 and its grains zeros, and its slots open at the next table
boundary (R295, R304, R306, R423). -/
def State.freePart (s : State) (tag : Nat) : State :=
  match s.part tag with
  | none => s
  | some P =>
    let s := (s.tilesOf tag).foldl (fun s t => s.retag t 0 0) s
    let s := { s with tiles := s.tiles.map fun (x : Nat × Tile) => (x.1, if x.2.lender.any (fun (y : Nat × Nat) => y.1 == tag) then ({ x.2 with lender := none } : Tile) else x.2) }
    let s := P.grains.foldl State.zeroGrain (s.clearTables tag P.grains)
    let s := s.dropQueues tag
    let s := { s with parts := amDel s.parts tag }.modKs fun k => { k with freed := amSet k.freed tag s.wtime }
    if s.ks.slots.any fun e => e.2 == tag then
      (s.slotBoundary.modKs fun k => { k with slotDrop := k.slotDrop ++ [tag] }).awaitSlots
    else s

/-! ## Resets (R309) -/

/-- A record of kind 4 with CODE 1 that names no interface reaches every context of a partition (R366, R379, R394). -/
def State.postStop (s : State) (tag info : Nat) : State := s.postAll tag { kind := 4, n := 0xFFFFFFFF, value := 1, info := info }

/-- What a reset leaves of a partition: its contexts keep their owner, block and error store; launches, images and
records in progress are gone, and the schedule starts afresh. -/
def Part.reset (P : Part) (now : Nat) : Part := { P with
  gen := (P.gen + 1) % 16
  ctxs := P.ctxs.map fun c => (c.1, { c.2 with launches := [], nextSeq := 0 })
  schedPos := 0, sliceAt := now, resting := false, boundary := none, images := [], covers := [], lastReset := some now
  resetDue := false, heldStop := false, op := none, deficit := [], lastOwner := [], lastQueue := [], serving := [] }

/-- Held key changes of a partition take effect: no accepted LDS is left (R380). -/
def Part.keysNow (P : Part) : Part :=
  { P with keys := P.keyHeld.foldl (fun m x => amSet m x.2.1 x.2.2) P.keys, keyHeld := [] }

/-- PARTITION_RESET (R309): the tiles quiesce through steps 1 to 3, everything is discarded, and they are re-tagged with
the next generation. Inside 1 ms of the last reset the partition is held stopped. -/
def execPartitionReset (tag : Nat) (s : State) : Res :=
  match s.part tag with
  | none => .next s
  | some P =>
    let me : Instr := .partitionReset tag
    let early := match P.lastReset with
      | some t => decide (s.wtime < t + 1000000)
      | none => false
    if early then .next ((s.modPart tag fun P => { P with heldStop := true, resetDue := true }).again me)
    else if P.op.isSome && P.op != some me then .next ((s.modPart tag fun P => { P with heldStop := true, resetDue := true }).again me)
    else
      let ts := s.tilesOf tag
      let s := s.modPart tag fun P => { P with op := some me, heldStop := true, resetDue := true }
      if !ts.all (fun t => s.drained t || (s.tile t).quiesce == .leases) then
        let s := ts.foldl (fun s t => if (s.tile t).quiesce = .leases then s else s.restTile t P.preempt false) s
        .next ((s.push ((ts.filter fun t => s.overdue t P.preempt).map fun t => .quiesceStepOverrun .reset tag t)).again me)
      else
        let stop := ts.any fun t => (s.tile t).agentStop
        let s := if stop then s.postStop tag 0 else s
        let s := ts.foldl (fun (s : State) t =>
          let T := s.tile t
          (s.dropOut t).retag t tag ((T.gen + 1) % 16)) s
        let s := (s.dropQueues tag).modPart tag fun P => (P.reset s.wtime).keysNow
        let s := ts.foldl (fun (s : State) t => match s.part tag with
          | some P => s.modTile t fun T => { T with places := placeTable P.places, place := ((P.places.find? fun x => x.2 == t).map (·.1)).getD 0 }
          | none => s) s
        let s := s.writeRoutes ((s.tilesOf tag))
        .next ((ts.foldl State.startTile s).result me 0)

/-! ## Guest pauses (R335) -/

/-- PARTITION_PAUSE (R335): guest time stops at w0 with g0, and the tiles are paused. -/
def execPartitionPause (tag : Nat) (s : State) : Res :=
  match s.part tag with
  | none => .next s
  | some P =>
    let s := match P.paused with
      | some _ => s
      | none => s.modPart tag fun P => { P with paused := some (s.wtime, (s.wtime : Int) + P.goff) }
    let ts := s.tilesOf tag
    if ts.all fun t => (s.tile t).quiesce != .none && (s.tile t).quiesce != .preempting then .next s
    else .next ((ts.foldl (fun s t => s.restTile t P.preempt true) s).again (.partitionPause tag))

/-- A saved image of another module is re-tagged before it is loaded (R206, R308): its header takes this partition's tag and
generation, with a new CHK, and the image belongs to the place in whose save area it stands. An image whose header, TAGGEN or CHK
is wrong stays as it is. -/
def State.retagImage (s : State) (tag ctx place src : Nat) (P : Part) : State :=
  let va := imageVa (s.ctx tag ctx) place
  let len := sliceNum (s.virtGet tag ctx va 1) 0 4
  if len < 64 || 2 ^ 22 < len then s
  else
    let b := (s.virtGet tag ctx va ((len + 63) / 64)).take len
    if sliceNum b 4 2 ≠ 1 || sliceNum b 6 2 ≠ src || sliceNum b 8 1 ≠ ctx || sliceNum b 12 4 ≠ crc32 (b.take 12 ++ b.drop 64) then s
    else
      let head := b.take 6 ++ leBytes 2 (tag + P.gen * 1024) ++ (b.drop 8).take 4
      let b := head ++ leBytes 4 (crc32 (head ++ b.drop 64)) ++ b.drop 16
      let ctl : CtxCtl := { Config.imageCtl b with
        ctx := ctx, pool := BitVec.ofNat 16 (sliceNum b 10 2), parea := sliceNum b 16 8 }
      let img : SavedImage := { ctx := ctx, place := place, va := va, listed := false, bytes := b, ctl := ctl }
      (s.imagePut tag ctx va b).modPart tag fun P => { P with images := P.images ++ [img] }

/-- A launch as its record in the launch area tells it (Table 3.3), where it is not complete yet. Its queue, COOKIE, VEC and IRQ
do not stand there (log 109). -/
def recordLaunch (b : List Byte) (owner : Nat) : Option Launch :=
  let l : Launch := {
    seq := sliceNum b 32 8, ifn := 0, cookie := 0, vec := 0, irq := false, owner := owner, units := sliceNum b 8 4
    g := sliceNum b 12 1, cw := sliceNum b 13 1, ch := sliceNum b 14 1, image := sliceNum b 16 8, signal := sliceNum b 24 8
    listed := decide (sliceNum b 0 4 < sliceNum b 8 4), complete := false, aborted := none, awaiting := [] }
  if sliceNum b 4 4 < l.teams then some l else none

/-- The launches of a context that has migrated here, in ascending SEQ, as the copied launch area holds them (R54, log 109). -/
def State.relist (s : State) (tag ctx : Nat) : State :=
  match s.ctx tag ctx with
  | none => s
  | some c =>
    let recs := (List.range 64).map fun i => s.virtGet tag ctx (recordVa c i) 1
    let used := recs.filter fun b => sliceNum b 8 4 != 0
    let top := used.foldl (fun a b => max a (sliceNum b 32 8)) 0
    if c.launches ≠ [] || used = [] then s
    else s.modCtx tag ctx fun c => { c with
      nextSeq := top + 1
      launches := (List.range 64).filterMap fun k =>
        (used.find? fun b => sliceNum b 32 8 + 63 == top + k).bind fun b => recordLaunch b c.owner }

/-- The contexts of a partition that has migrated here resume from their images (R308). -/
def State.resumeHere (s : State) (tag src : Nat) : State :=
  match s.part tag with
  | none => s
  | some P =>
    let s := P.ctxs.foldl (fun s c => (P.places.foldl (fun s x => s.retagImage tag c.1 x.1 src P) s).relist tag c.1) s
    (s.tilesOf tag).foldl (fun s t => ((s.dropOut t).modTile t fun T => { T with quiesce := .none, qAt := 0 }).startTile t) s

/-- PARTITION_RESUME (R335): GOFF is set in frozen or wall mode. D is the time paused, or what the host gives for a
partition that has migrated here. A migration's source whose keys are erased never resumes; an earlier phase ends (R423). -/
def execPartitionResume (tag : Nat) (wall : Bool) (d : Nat) (s : State) : Res :=
  match s.part tag with
  | none => .next s
  | some P =>
    match P.paused with
    | none => .next s
    | some (w0, g0) =>
      let D : Nat := if P.mig.any (fun m => m.phase == 5) || s.wtime < w0 then d else s.wtime - w0
      let g : Int := g0 + (if wall then (D : Int) else 0) - s.wtime
      if P.mig.any fun m => m.phase == 4 then .next s
      else
      let s := s.modPart tag fun P => { P with goff := g, paused := none, mig := none }
      let s := { s with due := s.due.filter fun x => x.ev != Instr.partitionPause tag }
      match P.mig with
      | some { phase := 5, src := src, .. } => .next ((s.resumeHere tag src).wake tag)
      | _ => .next (((s.tilesOf tag).foldl State.resumeTile s).wake tag)

/-! ## Peer windows (R334) -/

/-- PEER_WINDOW_MAP (R334): the window's size is 2 MiB to 2 GiB in steps of 2 MiB. -/
def execPeerWindowMap (tag w module rtag rbase size : Nat) (write : Bool) (s : State) : Res :=
  let me : Instr := .peerWindowMap tag w module rtag rbase size write
  match s.part tag with
  | none => .next (s.result me 1)
  | some _ =>
    if 16 ≤ w || size = 0 || 2 ^ 31 < size || size % 2 ^ 21 ≠ 0 || rbase % 2 ^ 21 ≠ 0 then .next (s.result me 8)
    else
      let x : PeerWin := { w := w, module := module, tag := rtag, base := rbase, size := size, write := write }
      let lo := windowTableAt tag (1 + 2 * w)
      let l1 := levelOneAt tag + 8 * bits (peerWindowAt w) 30 13
      let s := s.setMem (s.mem.filter fun c => !(lo ≤ c.1 && c.1 < lo + 8192) && !(l1 ≤ c.1 && c.1 < l1 + 16))
      let s := s.putWords (peerTable tag x)
      let s := s.dropTlbs tag fun e => decide (peerWindowAt w ≤ e.ppa) && decide (e.ppa < peerWindowAt w + 2 ^ 31)
      .next ((s.modPart tag fun P => { P with peers := P.peers.filter (·.w != w) ++ [x] }).result me 0)

/-- The answer to a peer access: kind 20 accepted, with the data of a load or the completion time of a store, 21 refused,
22 forwarded, 23 target moved. -/
def State.peerAnswer (s : State) (kind : Nat) (x : PeerAccess) (data : List Nat) : State :=
  s.modKs fun k => { k with answers := { kind := kind, data := x.module :: x.tag :: x.offset :: data, sig := 0 } :: k.answers }

/-- PEER_ACCESS_REMOTE (R334, R425): the tag and the range are checked, and the access is performed at its home for the owner
that it carries (R297), refused, forwarded within 10 ms of a migration, or answered as target moved. The payload of an answer
goes out on a Jarlet port (R299). -/
def execPeerAccessRemote (x : PeerAccess) (s : State) : Res :=
  match s.ks.forwards.find? fun f => f.1 == x.tag with
  | some f => .next (if s.wtime < f.2.1 then s.peerAnswer 22 x [f.2.2] else s.peerAnswer 23 x [2, f.2.2])
  | none =>
    match s.part x.tag with
    | none => .next (s.peerAnswer 21 x [1])
    | some P =>
      let n := x.data.length
      let ok := decide (x.offset + n ≤ x.size) && decide (x.base + x.size ≤ P.grains.length * 2 ^ 28) && (n != 0)
      match if ok then s.stage2 x.tag (x.base + x.offset) else none with
      | none => .next (s.peerAnswer 21 x [1])
      | some e =>
        if regionOf e.pa ≠ .plinth || e.aonly then .next (s.peerAnswer 21 x [1])
        else if x.write then
          let s := ((s.l2Touch x.tag x.owner e.pa 0 s.wtime false true).1.clearPoison e.pa n).putBytes e.pa x.data
          .next (s.peerAnswer 20 x [s.complTime e.pa])
        else if s.poisoned e.pa n then .next (s.peerAnswer 21 x [1])
        else
          let s := (s.l2Touch x.tag x.owner e.pa 0 s.wtime false false).1.chargeJar x.owner n
          .next (s.peerAnswer 20 x ((Memory.bytes s.mem e.pa n).map (·.toNat)))

/-- PEER_FORWARD_EXPIRE (R425): 10 ms after cut-over the forwarding of the partition that State.cur names ends; its entry
answers target moved from then on. -/
def execPeerForwardExpire (s : State) : Res :=
  .next (s.modKs fun k => { k with forwards := k.forwards.map fun f =>
    if f.1 = s.cur.tile && f.2.1 ≤ s.wtime then (f.1, 0, f.2.2) else f })

/-! ## Owners (R297, R300) -/

/-- OWNER_WEIGHT_SET (R296, R297): the weight acts at the owner's next credit, and the quotas follow it. -/
def execOwnerWeightSet (owner weight : Nat) (s : State) : Res :=
  if 64 ≤ owner || weight = 0 || 255 < weight then .next (s.result (.ownerWeightSet owner weight) 8)
  else .next ((s.charge owner fun o => { o with weight := weight }).result (.ownerWeightSet owner weight) 0)

/-- OWNER_RELEASE (R300): the epoch advances and the counters carry on. -/
def execOwnerRelease (owner : Nat) (s : State) : Res :=
  if 64 ≤ owner then .next (s.result (.ownerRelease owner) 8)
  else .next ((s.charge owner fun o => { o with epoch := (o.epoch + 1) % 2 ^ 32 }).result (.ownerRelease owner) 0)

/-! ## Queues (R313, R316) -/

/-- Keystone's check of a privileged part (Table 13.2, R297, R313, R314). -/
def State.queueCfgOk (s : State) (ifn : Nat) (x : QueueCfg) : Bool :=
  match s.part x.tag with
  | none => false
  | some P =>
    decide (ifn < 8192) && decide (x.q < 64) && x.base % 64 == 0 && x.qcb % 64 == 0 && decide (6 ≤ x.logsz) && decide (x.logsz ≤ 16) &&
    decide (x.prio < 8) && P.owners.contains x.owner && (amGet P.ctxs x.ctx).isSome && decide (x.pasid < 2 ^ 20) &&
    !s.queues.any fun q => q.1 != ifn && q.2.cfg.tag == x.tag && q.2.cfg.q == x.q

/-- QUEUE_PRIVILEGED_WRITE (R316, R416): in CONFIG_UNLOCKED a part that passes the check is set; in CONFIG_LOCKED or RUN
the write is one to a locked item. -/
def execQueuePrivilegedWrite (ifn : Nat) (x : QueueCfg) (s : State) : Res :=
  let me : Instr := .queuePrivilegedWrite ifn x
  match s.queue ifn with
  | some q =>
    if q.state == .locked || q.state == .run then .next (s.push [.lockedItemWrite ifn 0xFFFFFFFF 0])
    else if q.state == .error || !s.queueCfgOk ifn x then .next (s.result me 8)
    else .next ((s.setQueue ifn { q with cfg := x }).result me 0)
  | none =>
    if !s.queueCfgOk ifn x then .next (s.result me 8)
    else .next ((s.setQueue ifn {
      cfg := x, widx := 0, ridx := 0, imod := 0, irqen := false, state := .unlocked, head := none, satisfied := false, waits := []
      copy := none, err := none, tamper := 0, sess := none, ide := none, stopping := false, vecAt := none, vecPend := none
      shadow := [], wbDue := false, wbAt := none, drain := [] }).result me 0)

/-! ## Slot tables on the links (R301, R302, R401) -/

/-- Field to whose memory-network stop a Jarlet port is attached (R14, Table 1.2). -/
def jarletField (p : Nat) : Nat :=
  if p < 24 then p / 2
  else if p < 48 then 72 + (p - 24) / 2
  else if p < 56 then (if p = 55 then 83 else 12 * (p - 48) + 11)
  else if p = 63 then 72
  else 12 * (p - 56)

/-- Field to whose memory-network stop a shared link is attached: host links 0 to 3, Jarlet ports 4 to 67, and the links of the
memory network from 68 on, by field (R14, R301). -/
def linkField (link : Nat) : Nat :=
  if link < 4 then 24 * link else if link < 68 then jarletField (link - 4) else link - 68

/-- A partition sends in the rest of a slot: it is not strict. -/
def State.shares (s : State) (tag : Nat) : Bool := ((s.part tag).map fun P => !P.strict).getD false

/-- A link is a Jarlet port. -/
def isJarlet (link : Nat) : Bool := decide (4 ≤ link) && decide (link < 68)

/-- The time by which a link numbers its slots: on a Jarlet port WTIME plus the port's offset (R301, R303). -/
def State.linkTime (s : State) (link : Nat) : Nat :=
  if isJarlet link then (((s.wtime : Int) + (s.jarlet (link - 4)).off) % 4096).toNat else s.wtime % 4096

/-- The tag that owns a link's current slot. -/
def State.slotTag (s : State) (link : Nat) : Nat := (amGet s.ks.slots (s.linkTime link / 64)).getD 0

/-- The tag whose flit a link sends in the current slot: Keystone's, then the slot's own, then round robin among the
non-strict partitions after the one served last (R302). -/
def State.flitTag (s : State) (link : Nat) (l : List LinkFlit) : Option Nat :=
  let own := s.slotTag link
  let has (t : Nat) : Bool := l.any fun f => f.tag == t
  if has 0 then some 0
  else if own ≠ 0 && has own then some own
  else if (s.part own).any (·.strict) then none
  else
    let last := (amGet s.ks.rr link).getD 0
    let w := (List.range 1024).filter fun t => has t && s.shares t
    (w.find? fun t => decide (last < t)).or w.head?

/-- The flits that wait at a link. -/
def State.flitsAt (s : State) (link : Nat) : List LinkFlit := (amGet s.ks.flits link).getD []

/-- A flit of a tag leaves: of those that wait at the link, the one that arrived first (R302). -/
def State.flitGoes (s : State) (link tag : Nat) : State :=
  let own := s.slotTag link
  let s := s.modKs fun k => { k with
    flits := amPut [] k.flits link (((amGet k.flits link).getD []).eraseP fun f => f.tag == tag)
    sent := amSet k.sent link tag, rr := if tag = 0 || tag = own then k.rr else amSet k.rr link tag }
  if isJarlet link then
    let J := s.jarlet (link - 4)
    s.setJarlet (link - 4) { J with ctr0 := J.ctr0 + 1 }
  else s

/-- How far a flit that starts on a link runs past its slot's end: on a memory-network link of a field in skew hold, whose slots
are taken from beacon-corrected time, at most the skew (R401). -/
def State.overrun (s : State) (link rest flitNs : Nat) : Nat :=
  let f := link - 68
  let k := (s.skewOf f).natAbs
  if 68 ≤ link && (s.field f).hold && decide (rest < flitNs + k) then Config.pick s.free (k + 1) % (k + 1) else 0

/-- An overrun is counted against the flit's tag (R401). -/
def State.countOver (s : State) (link tag n : Nat) : State :=
  if n = 0 then s
  else s.modKs fun k => { k with
    overruns := amSet k.overruns (link * 1024 + tag) ((amGet k.overruns (link * 1024 + tag)).getD 0 + n) }

/-- LINK_FLIT_SEND (R302, R401): flits of the link's other traffic arrive, by their tags, behind those that wait; then a flit
starts only if it ends before its slot does, and on a Jarlet port not in the slot's last 8 ns. While flits wait, the step stays
due. -/
def execLinkFlitSend (link : Nat) (waiting : List Nat) (flitNs : Nat) (s : State) : Res :=
  let s := s.slotBoundary
  let jar := isJarlet link
  let J := s.jarlet (link - 4)
  let more (s : State) : State := if s.flitsAt link = [] then s else s.again (.linkFlitSend link [] flitNs)
  if jar && !J.up then .next s
  else
    let l := s.flitsAt link ++ waiting.map fun t => { tag := t, owner := 0, req := 0 }
    let s := s.modKs fun k => { k with flits := amPut [] k.flits link l }
    let rest := 64 - s.linkTime link % 64
    if rest < flitNs || (jar && decide (rest ≤ 8)) then .next (more s)
    else match s.flitTag link l with
    | none => .next (more s)
    | some t =>
      if jar && 2 ^ 40 ≤ J.ctr0 + 1 then .next ((more s).pushAt (link - 4) 0 .jarletPortDown)
      else .next (more ((s.flitGoes link t).countOver link t (s.overrun link rest flitNs)))

end Sys2Proof.Machine
end

