-- ==== Sys2Proof/Machine/Reshape.lean ====
section
/-! DEFINITION. Reshaping (R305 to R308, R310): grow, shrink, compact, lend and recall (R72, R73), forced recalls (R396 to
R399), steps that overrun (R400, R362), retirement and repair (R429 to R431, R374) and migration (R308, R331, R423 to
R425). -/

namespace Sys2Proof.Machine

/-! ## The steps of an operation (R305) -/

/-- Teams that a tile holds in any context slot, with their contexts. -/
def Tile.allTeams (T : Tile) : List (Nat × Team) := T.slots.flatMap fun x => x.2.ctl.teams.map fun y => (x.2.ctl.ctx, y.2)

/-- Tiles that hold a team of a cluster which has a team on a tile of the list: clusters are saved whole (R73, R307). -/
def State.mateTiles (s : State) (tag : Nat) (ts : List Nat) : List Nat :=
  let mine := (ts.flatMap fun t => (s.tile t).allTeams).filter fun x => x.2.cw * x.2.ch != 1
  if mine = [] then []
  else (s.tilesOf tag).filter fun t => !ts.contains t && (s.tile t).allTeams.any fun y => mine.any fun x => x.1 == y.1 && x.2.mate y.2

/-- Images of clusters that have an image on a restore list join it. -/
def State.listJoined (s : State) (tag : Nat) : State :=
  match s.part tag with
  | none => s
  | some P => ((imagesWith P.images P.images.length (P.images.filter (·.listed))).filter fun x => !x.listed).foldl
      (fun s x => s.listImage tag x) s

/-- The saved work of a place goes to the restore lists: it resumes on other tiles where a placement fits (R307, R363). -/
def State.listPlace (s : State) (tag place : Nat) : State :=
  match s.part tag with
  | none => s
  | some P => ((P.images.filter fun x => x.place == place && x.ctl.teams != [] && !x.listed).foldl
      (fun s x => s.listImage tag x) s).listJoined tag

/-- One turn of steps 1 to 5: tiles `out` rest, drain, are saved and wait out their leases, tiles `rest` pause. The answer
is true once all have. -/
def State.restTurn (s : State) (out rest : List Nat) (limit : Nat) (list : Bool) : State × Bool :=
  let saved (t : Nat) : Bool := (s.tile t).quiesce == .leases
  let paused (t : Nat) : Bool := (s.tile t).quiesce == .paused || (s.tile t).quiesce == .draining
  if !(out.all (fun t => saved t || s.drained t) && rest.all fun t => saved t || paused t) then
    let s := out.foldl (fun s t => if saved t then s else s.restTile t limit false) s
    (rest.foldl (fun s t => if saved t then s else s.restTile t limit true) s, false)
  else if !out.all saved then (out.foldl (fun s t => if saved t then s else s.saveOut t list) s, false)
  else (s, out.all fun t => s.passed t (s.tile t).qHor)

/-- A tile runs on after an operation, but for one of a partition that the host has paused. -/
def State.letRun (s : State) (t : Nat) : State :=
  let T := s.tile t
  match s.part T.tag with
  | none => s
  | some P =>
    if P.paused.isSome then s.modTile t fun T => { T with quiesce := .paused, qHor := 0 }
    else if T.quiesce = .none then s.startTile t
    else s.resumeTile t

/-- Every tile of a partition runs on. -/
def State.letRunAll (s : State) (tag : Nat) : State := (s.tilesOf tag).foldl State.letRun s

/-- A recall of a tile of the partition, or of one that it lent, waits: it goes ahead of operations that have not begun. -/
def State.recallWaits (s : State) (tag : Nat) (me : Instr) : Bool :=
  s.tiles.any fun x => x.2.recallAt.isSome && (x.2.tag == tag || x.2.lender.any (·.1 == tag)) &&
    me != Instr.recallTile x.1 false && me != Instr.recallTile x.1 true

/-- A partition is free to begin an operation: none is in progress, no switch is, and the host has not paused it. -/
def State.mayReshape (s : State) (tag : Nat) (me : Instr) : Bool :=
  match s.part tag with
  | none => true
  | some P =>
    let pauseOk := P.paused.isNone || (match me with
      | .recallTile _ _ | .migrate _ _ _ | .tileRetire _ _ => true
      | _ => false)
    P.op.isNone && P.boundary.isNone && pauseOk && !s.recallWaits tag me

/-- The operation has begun in every partition of the list. -/
def State.begun (s : State) (tags : List Nat) (me : Instr) : Bool := tags.all fun g => (s.part g).any fun P => P.op == some me

/-- Lock or free the partitions of an operation. -/
def State.setOp (s : State) (tags : List Nat) (op : Option Instr) : State :=
  tags.foldl (fun s g => s.modPart g fun P => { P with op := op }) s

/-- A request to recall a tile. -/
def isRecall : Instr → Bool
  | .recallTile _ _ => true
  | _ => false

/-- A request that arrives takes its place behind those that wait for the same partitions; a recall takes none (R307). -/
def State.queueOp (s : State) (tags : List Nat) (me : Instr) : State :=
  if isRecall me then s
  else tags.foldl (fun s g => s.modPart g fun P =>
    { P with waitOps := if P.waitOps.contains me then P.waitOps else P.waitOps ++ [me] }) s

/-- A request waits no more. -/
def State.unqueueOp (s : State) (me : Instr) : State :=
  { s with parts := s.parts.map fun (p : Nat × Part) => (p.1, { p.2 with waitOps := p.2.waitOps.filter (· != me) }) }

/-- It is a request's turn: it arrived first in each of its partitions, or is a recall, which goes ahead (R307). -/
def State.opFirst (s : State) (tags : List Nat) (me : Instr) : Bool :=
  isRecall me || tags.all fun g => ((s.part g).map fun P => P.waitOps.head? == some me).getD true

/-- One turn of an operation (R305, R307): it waits for its turn in its partitions, is refused where `fault` says so, begins, and
is finished once its tiles are at rest. `lost` says that the places of `out` do not survive. -/
def State.opTurn (s : State) (me : Instr) (kind : ReshapeOp) (tags out : List Nat) (rest : State → List Nat) (limit fault : Nat)
    (lost : Bool) (finish : State → State) : State :=
  if !s.begun tags me then
    let s := s.queueOp tags me
    if !(s.opFirst tags me && tags.all fun g => s.mayReshape g me) then s.again me
    else
      let s := s.unqueueOp me
      if fault ≠ 0 then s.result me fault
      else (s.setOp tags (some me)).again me
  else
    let mates := if lost then (tags.take 1).flatMap fun g => s.mateTiles g out else []
    let all := out ++ mates
    let r := s.restTurn all ((rest s).filter fun t => !all.contains t) limit lost
    if r.2 then (finish (r.1.setOp tags none)).result me 0
    else
      let late := out.filter fun t => r.1.overdue t limit
      (r.1.push (late.map fun t => .quiesceStepOverrun kind (tags.headD 0) t)).again me

/-! ## Cluster tickets of tiles that leave (R56) -/

/-- The tickets of a partition whose rectangle is gone, and those of `lost`, pass to a tile where the rectangle fits; where
none does, the launch fails. Their reservations are withdrawn. -/
def State.reanchor (s : State) (tag : Nat) (lost : List Anchored) : State :=
  match s.part tag with
  | none => s
  | some P =>
    let fits (t : Nat) (a : Anchored) : Bool := match (s.ctx tag a.ctx).bind fun c => c.launch a.seq with
      | some l => (P.rectangle (s.tile t).place l.cw l.ch).isSome
      | none => true
    let ts := s.tilesOf tag
    let gone := lost ++ ts.flatMap fun t => (s.tile t).anchoring.filter fun a => !fits t a
    let s := ts.foldl (fun (s : State) t => s.modTile t fun T => { T with
      anchoring := T.anchoring.filter fun a => !gone.contains a
      resv := T.resv.filter fun r => !gone.any fun a => a.ctx == r.ctx && a.seq == r.seq && a.c == r.c }) s
    gone.foldl (fun s a => match ts.find? fun t => fits t a with
      | some t => s.modTile t fun T => { T with anchoring := T.anchoring ++ [a] }
      | none => s.failLaunch tag a.ctx a.seq 4) s

/-! ## Tiles change hands -/

/-- Tiles become members with the given places. -/
def State.joinPart (s : State) (tag : Nat) (tiles places : List Nat) : State :=
  match s.part tag with
  | none => s
  | some P =>
    let s := tiles.foldl (fun s t => s.retag t tag P.gen) s
    let s := s.modPart tag fun P => { P with places := (places.zip tiles).foldl (fun m p => amSet m p.1 p.2) P.places }
    (s.writePlaces tag).addRoutes (s.tilesOf tag) tiles

/-- The place of a tile in a partition. -/
def Part.placeOf (P : Part) (t : Nat) : Nat := ((P.places.find? fun x => x.2 == t).map (·.1)).getD 0

/-- Tiles leave a partition for the given tag: their places become invalid, their work goes to the restore lists. -/
def State.leavePart (s : State) (tag : Nat) (tiles : List Nat) (dest : Nat) : State :=
  match s.part tag with
  | none => s
  | some P =>
    let lost := tiles.flatMap fun t => (s.tile t).anchoring
    let gen := ((s.part dest).map (·.gen)).getD 0
    let s := tiles.foldl (fun s t => s.listPlace tag (P.placeOf t)) s
    let s := s.modPart tag fun P => { P with places := P.places.filter fun x => !tiles.contains x.2 }
    let s := tiles.foldl (fun s t => s.retag t dest gen) s
    let s := (s.writePlaces tag).writeRoutes ((s.tilesOf tag).filter fun t => !tiles.contains t)
    s.reanchor tag lost

/-- Places move to new tiles, and all routes are recomputed (R290, R307). -/
def State.movePlaces (s : State) (tag : Nat) (moves : List (Nat × Nat)) : State :=
  match s.part tag with
  | none => s
  | some P =>
    let new (t : Nat) : Nat := ((moves.find? fun m => m.1 == t).map (·.2)).getD t
    let kept := moves.map fun m => (m.2, (s.tile m.1).anchoring, (s.tile m.1).resv)
    let s := moves.foldl (fun s m => (s.retag m.1 0 0).retag m.2 tag P.gen) s
    let s := kept.foldl (fun (s : State) k => s.modTile k.1 fun T => { T with anchoring := k.2.1, resv := k.2.2 }) s
    let s := s.modPart tag fun P => { P with places := P.places.map fun x => (x.1, new x.2) }
    let s := (s.tilesOf tag).foldl (fun (s : State) t => s.modTile t fun T => { T with
      resv := T.resv.map fun r => { r with anchor := new r.anchor } }) s
    (s.writePlaces tag).writeRoutes (s.tilesOf tag)

/-! ## Grow, shrink, compact (R307) -/

/-- A set of tiles can be a partition by its number and its connections (R284). -/
def State.meshFault (s : State) (mem : List Nat) : Nat :=
  if mem.length = 0 || 8192 < mem.length then 3
  else if !connected s.ks.badLinks mem then 2
  else 0

/-- A set of tiles can be a partition: connected, with routes (R284, R291). -/
def State.shapeFault (s : State) (mem : List Nat) : Nat :=
  if s.meshFault mem ≠ 0 then s.meshFault mem
  else if !routable s.ks.badLinks mem then 11
  else 0

/-- The paths that the route tables give after a grow have at most 7 turns: routes between old tiles stay as they stand
(R291, R307). -/
def State.grownRoutable (s : State) (old new : List Nat) : Bool :=
  let mem := old ++ new
  mem.all fun d =>
    let fresh := routesTo s.ks.badLinks mem d
    let rs := if new.contains d then fresh
      else fresh.map fun x => if new.contains x.1 then x else (x.1, (amGet (s.tile x.1).routes d).getD 0)
    mem.all fun t => (rs.any fun x => x.1 == t && x.2 != 0) && decide (pathTurns rs 8400 t 0 ≤ 7)

/-- Why tiles cannot join a partition's tiles. -/
def State.growFault (s : State) (old new : List Nat) : Nat :=
  if s.meshFault (old ++ new) ≠ 0 then s.meshFault (old ++ new)
  else if !s.grownRoutable old new then 11
  else 0

/-- The first reason of a list. -/
def firstFault (l : List Nat) : Nat := (l.find? (· != 0)).getD 0

/-- PARTITION_GROW (R307): the members pause, the new tiles are re-tagged from tag 0, their places become valid, and routes
to them are added. -/
def execPartitionGrow (tag : Nat) (tiles places : List Nat) (s : State) : Res :=
  let me : Instr := .partitionGrow tag tiles places
  match s.part tag with
  | none => .next (s.result me 1)
  | some P =>
    let fault := firstFault [
      if tiles.any (fun t => !s.freeTile t) || !decide tiles.Nodup || tiles = [] then 1 else 0,
      if places.length ≠ tiles.length || places.any (fun p => decide (P.lw * P.lh ≤ p) || (amGet P.places p).isSome) ||
        !decide places.Nodup then 5 else 0,
      s.growFault (s.tilesOf tag) tiles]
    .next (s.opTurn me .grow [tag] [] (fun s => s.tilesOf tag) P.preempt fault false fun s =>
      let l := (tiles.zip places).filter fun x => s.goodTile x.1
      (s.joinPart tag (l.map (·.1)) (l.map (·.2))).letRunAll tag)

/-- The launches of a partition that have a team on a tile, in a context slot or in a place's saved images. -/
def State.launchesOn (s : State) (t : Nat) : List (Nat × Nat) := ((s.tile t).allTeams.map fun x => (x.1, x.2.seq)).dedup

/-- Abort launches with CODE 1 and VALUE 0x0001; the work that a place has saved for them goes too (R397). -/
def State.abortOn (s : State) (tag place : Nat) (l : List (Nat × Nat)) : State :=
  l.foldl (fun (s : State) x =>
    let s := s.modPart tag fun P => { P with images := P.images.map fun (y : SavedImage) =>
      if y.ctx = x.1 && y.place = place then { y with ctl := y.ctl.dropLaunch x.2 } else y }
    match (s.ctx tag x.1).bind fun c => c.launch x.2 with
    | some y => s.abortLaunch tag x.1 y 1 0
    | none => s) s

/-- Steps 1 and 2 of a forced recall (R396, R397): the tile stops, its outgoing queue is dropped for reason 5, everything on
it is discarded, and its router holds packets for it. Its teams stay named until the aborts. -/
def State.haltTile (s : State) (t : Nat) : State :=
  let outgoing (d : Due) : Option Packet := match d.ev with
    | .routerPacketReceive u p => if u = t && p.stile = t && p.port = 0 then some p else none
    | _ => none
  let ps := s.due.filterMap outgoing
  let s := { s with due := s.due.filter fun d => (outgoing d).isNone }
  let s := ps.foldl (fun (s : State) p => (s.logDrop t p 5).delReq p.req) s
  let s := { s with reqs := s.reqs.filter fun q => !(q.2.tile == t && q.2.arr && q.2.rtile == t) }
  s.modTile t fun T => { T with
    slots := T.slots.map fun x => (x.1, { x.2 with ctl := { x.2.ctl with groups := [], bins := [], held := [], copies := [], arr := none } })
    segs := [], poolOut := none, store := [], arr := { spares := T.arr.spares }, copies := [], l1 := [], aevt := [], aevtWait := []
    resv := [], anchoring := []
    agent := { priv := .agent }, quiesce := .retag, qAt := s.wtime, qHor := 0 }

/-- A tile leaves a partition without a save: its launches are aborted once it carries the new tag (R396, R397). -/
def State.forceOut (s : State) (tag t dest : Nat) : State :=
  match s.part tag with
  | none => s
  | some P =>
    let place := P.placeOf t
    let l := s.launchesOn t
    let lost := (s.tile t).anchoring
    let s := (s.haltTile t).retag t dest (((s.part dest).map (·.gen)).getD 0)
    let s := s.modPart tag fun P => { P with places := P.places.filter fun x => x.2 != t }
    let s := (s.abortOn tag place l).listPlace tag place
    s.reanchor tag lost

/-- With FORCE the tiles of an operation that has begun stop at once. -/
def State.haltNow (s : State) (force : Bool) (tags : List Nat) (me : Instr) (ts : List Nat) : State :=
  if force && s.begun tags me then ts.foldl (fun s t => if (s.tile t).quiesce = .retag then s else s.haltTile t) s else s

/-- PARTITION_SHRINK (R307, R400): the removed tiles pass through the steps of R305 and become free; with FORCE they are
stopped and their launches aborted as in R396 and R397. -/
def execPartitionShrink (tag : Nat) (tiles : List Nat) (force : Bool) (s : State) : Res :=
  let me : Instr := .partitionShrink tag tiles force
  match s.part tag with
  | none => .next (s.result me 1)
  | some P =>
    let fault := firstFault [
      if tiles = [] || tiles.any (fun t => (s.tile t).tag != tag || (s.tile t).lender.isSome) || !decide tiles.Nodup then 1 else 0,
      s.shapeFault ((s.tilesOf tag).filter fun t => !tiles.contains t)]
    let s := s.haltNow force [tag] me tiles
    .next (s.opTurn me .shrink [tag] (if force then [] else tiles)
      (fun s => (s.tilesOf tag).filter fun t => !tiles.contains t) P.preempt fault true fun s =>
        let s := if force then
            let s := tiles.foldl (fun s t => s.forceOut tag t 0) s
            (s.writePlaces tag).writeRoutes (s.tilesOf tag)
          else s.leavePart tag tiles 0
        s.letRunAll tag)

/-- PARTITION_COMPACT (R307): places move to new tiles, or with no move every tile passes through the steps; all routes are
recomputed, and the contexts resume at their places. -/
def execPartitionCompact (tag : Nat) (moves : List (Nat × Nat)) (s : State) : Res :=
  let me : Instr := .partitionCompact tag moves
  match s.part tag with
  | none => .next (s.result me 1)
  | some P =>
    let old := moves.map (·.1)
    let new := moves.map (·.2)
    let ts := s.tilesOf tag
    let fault := firstFault [
      if old.any (fun t => (s.tile t).tag != tag || (s.tile t).lender.isSome) || new.any (fun t => !s.freeTile t) ||
        !decide old.Nodup || !decide new.Nodup then 1 else 0,
      s.shapeFault (ts.filter (fun t => !old.contains t) ++ new)]
    .next (s.opTurn me .compact [tag] (if moves = [] then ts else old) (fun s => s.tilesOf tag) P.preempt fault false fun s =>
      let s := if moves = [] then ts.foldl (fun (s : State) t =>
            let T := s.tile t
            (s.retag t tag P.gen).modTile t fun U => { U with anchoring := T.anchoring, resv := T.resv }) s
        else s
      (s.movePlaces tag moves).letRunAll tag)

/-! ## Lend and recall (R72, R73) -/

/-- LEND_TILE (R72, R307, R400): the tile passes through the steps for the lender, is re-tagged to the borrower and enters
its place table; the lender's place becomes invalid. -/
def execLendTile (tile borrower place : Nat) (force : Bool) (s : State) : Res :=
  let me : Instr := .lendTile tile borrower place force
  let tag := (s.tile tile).tag
  match s.part tag, s.part borrower with
  | some P, some B =>
    let theirs := s.tilesOf borrower
    let fault := firstFault [
      if tag = 0 || tag = borrower || (s.tile tile).lender.isSome then 1 else 0,
      if B.lw * B.lh ≤ place || (amGet B.places place).isSome then 5 else 0,
      if (meshNear s.ks.badLinks tile).any theirs.contains then 0 else 2,
      s.shapeFault ((s.tilesOf tag).filter (· != tile)), s.growFault theirs [tile]]
    let s := s.haltNow force [tag, borrower] me [tile]
    .next (s.opTurn me .lend [tag, borrower] (if force then [] else [tile])
      (fun s => (s.tilesOf tag).filter (· != tile) ++ s.tilesOf borrower) P.preempt fault true fun s =>
        let at_ := P.placeOf tile
        let s := if force then
            let s := s.forceOut tag tile 0
            (s.writePlaces tag).writeRoutes (s.tilesOf tag)
          else s.leavePart tag [tile] 0
        let s := (s.joinPart borrower [tile] [place]).modTile tile fun T => { T with lender := some (tag, at_) }
        (s.letRunAll tag).letRunAll borrower)
  | _, _ => .next ((s.unqueueOp me).result me 1)

/-- The tile goes back to its lender's place, or to tag 0 where the lender is gone or the tile is not good any more
(R307, R399). -/
def State.giveBack (s : State) (t : Nat) : State :=
  let T := s.tile t
  let s := s.modTile t fun T => { T with lender := none, recallAt := none }
  match T.lender with
  | none => s
  | some (l, place) =>
    if (s.part l).isSome && s.goodTile t then s.joinPart l [t] [place] else s

/-- A preemption timeout that waits takes effect at a recall (Table 12.8). -/
def Part.atRecall (P : Part) : Part :=
  P.takeSets (fun P x => { P with preempt := x.preempt.getD P.preempt }) fun x => { x with preempt := none }

/-- RECALL_TILE (R73, R307): both partitions keep their shape, or it is refused; the tile's agent is told (Table 8.6), the
borrower's part on the lent tile passes through the steps, and the tile returns to its lender. With FORCE, or where a step
passes its bound, the recall is forced (R396). -/
def execRecallTile (tile : Nat) (force : Bool) (s : State) : Res :=
  let me : Instr := .recallTile tile force
  let T := s.tile tile
  match T.lender with
  | none => .next (if T.recallAt.isSome then s else s.result me 1)
  | some (l, _) =>
    let b := T.tag
    let tags := [b, l].filter fun g => (s.part g).isSome
    let fault := firstFault [
      if b = 0 then 0 else s.shapeFault ((s.tilesOf b).filter (· != tile)),
      if (s.part l).isSome && s.goodTile tile then s.growFault (s.tilesOf l) [tile] else 0]
    if fault ≠ 0 && T.recallAt.isNone then .next (s.result me fault)
    else if T.quiesce = .retag || b = l then .next s
    else
      let s := if T.recallAt.isSome then s
        else (s.modTile tile fun T => { T with recallAt := some s.wtime }).notify tile 4 T.act
      if b = 0 then .next (((s.giveBack tile).letRunAll l).result me 0)
      else if force then .next (s.pushAt tile 0 .forcedRecall)
      else
        let s := if s.begun tags me then s else ((s.againAt tile 0 .recallStepOverrun).modPart b Part.atRecall).settled b
        let own := ((s.part b).map (·.preempt)).getD 40000
        .next (s.opTurn me .recall tags [tile] (fun s => (s.tilesOf b).filter (· != tile) ++ s.tilesOf l) (min 40000 own) 0 true fun s =>
          let U := s.tile tile
          let s := (s.leavePart b [tile] 0).modTile tile fun T => { T with lender := U.lender }
          ((s.giveBack tile).letRunAll b).letRunAll l)

/-- RECALL_STEP_OVERRUN (R396): counted from the request, preemption has 41 µs, issued operations 51 µs and the save 70 µs;
the recall of the tile that State.cur names is forced at the first bound that passes. -/
def execRecallStepOverrun (s : State) : Res :=
  let t := s.cur.tile
  let T := s.tile t
  match T.recallAt with
  | none => .next s
  | some at_ =>
    let late := match T.quiesce with
      | .none | .preempting | .paused => decide (at_ + 41000 ≤ s.wtime)
      | .draining => if s.opsDone t then decide (at_ + 70000 ≤ s.wtime) else decide (at_ + 51000 ≤ s.wtime)
      | .saving => decide (at_ + 70000 ≤ s.wtime)
      | .leases | .retag => false
    if late then .next (s.pushAt t 0 .forcedRecall)
    else if T.quiesce = .leases || T.quiesce = .retag then .next s
    else .next (s.againAt t 0 .recallStepOverrun)

/-- The borrower of a tile that is being recalled: the partition whose places still name it and that is not its lender. -/
def State.borrowerOf (s : State) (t : Nat) : Option (Nat × Part) :=
  s.parts.find? fun p => p.2.places.any fun x => x.2 == t

/-- FORCED_RECALL (R396 to R399): for the tile that State.cur names, the tile stops and is discarded; it is re-tagged and
the borrower's launches are aborted; then the lender's tables, and the borrower's, are written as their tiles pause. -/
def execForcedRecall (s : State) : Res :=
  let t := s.cur.tile
  let T := s.tile t
  match T.lender, T.recallAt with
  | some (l, _), some _ =>
    let me : Instr := .recallTile t false
    if T.quiesce ≠ .retag && T.tag ≠ l && T.tag ≠ 0 then
      let busy := [T.tag, l].any fun g => (s.part g).any fun P => P.op.isSome && P.op != some me
      if busy then .next (s.againAt t 0 .forcedRecall)
      else .next (((s.setOp [T.tag, l] (some me)).haltTile t).againAt t 0 .forcedRecall)
    else if T.quiesce = .retag then
      let b := T.tag
      let place := ((s.part b).map fun B => B.placeOf t).getD 0
      let done := s.launchesOn t
      let dest := if (s.part l).isSome && s.goodTile t then l else 0
      let s := (s.retag t dest (((s.part dest).map (·.gen)).getD 0)).modTile t fun T => { T with quiesce := .paused }
      let s := (s.tilesOf b).foldl (fun (s : State) u => s.modTile u fun U => { U with routes := amDel U.routes t }) s
      .next (((s.abortOn b place done).listPlace b place).againAt t 0 .forcedRecall)
    else
      let lend := (s.tilesOf l).filter (· != t)
      let s := lend.foldl (fun s u => s.restTile u 40000 true) s
      let paused (s : State) (u : Nat) : Bool := (s.tile u).quiesce != .none && (s.tile u).quiesce != .preempting
      let s := match s.borrowerOf t with
        | none => s
        | some (b, _) =>
          let theirs := s.tilesOf b
          let s := theirs.foldl (fun s u => s.restTile u 40000 true) s
          if theirs.all (paused s) then
            let s := s.modPart b fun P => { P with places := P.places.filter fun x => x.2 != t, op := none }
            ((s.writePlaces b).reanchor b []).letRunAll b
          else s
      if !lend.all (paused s) || (s.borrowerOf t).isSome then .next (s.againAt t 0 .forcedRecall)
      else
        let s := s.modTile t fun T => { T with quiesce := .none }
        .next ((((s.giveBack t).setOp [l] none).letRunAll l).result me 0)
  | _, _ => .next s

/-! ## Steps that overrun (R362, R400) -/

/-- Groups of a tile's active context with operations in flight: their teams' launches. -/
def State.lateLaunches (s : State) (t : Nat) : List Nat :=
  let T := s.tile t
  ((T.ctl.groups.filter fun g => g.2.live && (g.2.out.any (fun (o : OutInst) => o.rem = 0) ||
      s.reqs.any fun q => q.2.tile == t && q.2.gid == g.2.gid && !q.2.arr && !q.2.perf)).filterMap fun g =>
    (T.team g.2.team).map (·.seq)).dedup

/-- A request to move a partition. -/
def isMigrate : Instr → Bool
  | .migrate _ _ _ => true
  | _ => false

/-- The source gives a migration up: it resumes as after a pause (R335, R423). -/
def Part.endMig (P : Part) : Part := { P with mig := none, op := P.op.filter fun i => !isMigrate i }

/-- A migration fails before the receipt is acknowledged (Table 19.4): the source gives it up, and a destination that takes in
the copy frees its partition. -/
def State.migFails (s : State) (tag : Nat) : State :=
  match (s.part tag).bind (·.mig) with
  | none => s
  | some m =>
    if m.phase = 4 || m.phase = 5 then s
    else if m.phase = 6 then s.freePart tag
    else
      let mine : Instr → Bool
        | .migrate g _ _ => g == tag
        | _ => false
      State.modPart { s with due := s.due.filter fun d => !mine d.ev } tag Part.endMig

/-- A Jarlet port goes down: the migrations that use it fail (R422, R423). -/
def State.portDown (s : State) (p : Nat) (inService : Bool) : State :=
  (s.parts.filter fun x => x.2.mig.any fun m => portTo m.dst == p).foldl (fun s x => s.migFails x.1) (s.portOff p inService)

/-- An operation is given up before step 5: its tiles resume with places unchanged. -/
def State.cancelOp (s : State) (tags : List Nat) (me : Instr) : State :=
  let s := { s with due := s.due.filter fun d => d.ev != me }
  ((tags.foldl State.letRunAll (s.setOp tags none))).result me 20

/-- A tile does not answer: it leaves the good-tile map and enters the repairs. -/
def State.markBad (s : State) (t new : Nat) : State :=
  (s.modTile t fun T => { T with dead := true }).modKs fun k => { k with
    bad := if k.bad.contains t then k.bad else insertUp t k.bad
    repairs := ((k.lifeSeq, s.wtime, 4, t, new) :: k.repairs).take 4096, lifeSeq := k.lifeSeq + 1 }

/-- QUIESCE_STEP_OVERRUN (R362, R400): the outcome of Table 18.6 for the operation; at a slice boundary, groups whose
operations stay incomplete 10 µs after the timeout lose their launches. -/
def execQuiesceStepOverrun (op : ReshapeOp) (tag tile : Nat) (s : State) : Res :=
  let T := s.tile tile
  match s.part tag with
  | none => .next s
  | some P =>
    match op, P.op with
    | .grow, some (.partitionGrow _ ts _) =>
      .next (if ts.contains tile && !s.ks.bad.contains tile then s.markBad tile 0xFFFFFFFF else s)
    | .shrink, some (.partitionShrink g ts false) =>
      .next (if ts.contains tile && s.overdue tile P.preempt then s.cancelOp [tag] (.partitionShrink g ts false) else s)
    | .lend, some (.lendTile t b p false) =>
      .next (if t = tile && s.overdue tile P.preempt then s.cancelOp [tag, b] (.lendTile t b p false) else s)
    | .compact, some _ =>
      if s.overdue tile P.preempt then
        let l := s.launchesOn tile
        .next ((s.dropOut tile).abortOn tag (P.placeOf tile) l)
      else .next s
    | .reset, some _ =>
      .next (if s.overdue tile P.preempt then (s.haltTile tile).modTile tile fun T => { T with quiesce := .leases } else s)
    | .migrate, some me =>
      if s.overdue tile P.preempt then
        let s := { s with due := s.due.filter fun d => d.ev != me }
        .next (((s.setOp [tag] none).modPart tag Part.endMig).result me 20)
      else .next s
    | .recall, _ =>
      if T.recallAt.isSome then .next (s.againAt tile 0 .recallStepOverrun)
      else match P.boundary with
      | none => .next s
      | some b =>
        if s.wtime < b + P.preempt + 10000 then .next (s.again (.quiesceStepOverrun .recall tag tile))
        else
          let l := s.lateLaunches tile
          let s := l.foldl (fun s q => s.stopLaunch tile q) s
          .next (s.abortOn tag T.place (l.map fun q => (T.ctl.ctx, q)))
    | _, _ => .next s

/-! ## Retirement and repair (R429 to R431) -/

/-- Distance of two tiles on the mesh. -/
def hops (a b : Nat) : Nat := (a % 120 - b % 120) + (b % 120 - a % 120) + (a / 120 - b / 120) + (b / 120 - a / 120)

/-- The free good tile that takes a retired tile's place: one that keeps the partition connected and routable with the
fewest hops; `new` where it is one of them. -/
def State.standIn (s : State) (tag t new : Nat) : Option Nat :=
  let rest := (s.tilesOf tag).filter (· != t)
  let fits (n : Nat) : Bool := s.freeTile n && (rest = [] || (meshNear s.ks.badLinks n).any rest.contains) && s.shapeFault (rest ++ [n]) == 0
  let l := (List.range 8400).filter fits
  match l with
  | [] => none
  | a :: r =>
    let best := r.foldl (fun m x => min m (hops t x)) (hops t a)
    if l.contains new && hops t new = best then some new else l.find? fun x => hops t x == best

/-- TILE_RETIRE (R430, R310, R399): the tile leaves the good-tile map and its partition; its place moves or becomes invalid,
and every context of the partition, and of the lender of a lent tile, gets a record of kind 7. -/
def execTileRetire (tile new : Nat) (s : State) : Res :=
  let me : Instr := .tileRetire tile new
  if 8400 ≤ tile then .next s
  else
    let T := s.tile tile
    let s := if s.ks.bad.contains tile then s else (s.modKs fun k => { k with bad := insertUp tile k.bad }).reportGood
    if T.recallAt.isSome then .next (s.again me)
    else match s.part T.tag with
    | none =>
      if T.dead then .next s
      else .next ((s.markBad tile 0xFFFFFFFF).modTile tile fun T => { T with lender := none })
    | some P =>
      let tag := T.tag
      let place := P.placeOf tile
      let dest := s.standIn tag tile new
      .next (s.opTurn me .compact [tag] [tile] (fun s => s.tilesOf tag) P.preempt 0 dest.isNone fun s =>
        let seq := s.ks.lifeSeq
        let s := match dest with
          | some n => s.movePlaces tag [(tile, n)]
          | none => s.leavePart tag [tile] 0
        let s := ((s.markBad tile (dest.getD 0xFFFFFFFF)).modTile tile fun T => { T with lender := none }).letRunAll tag
        let s := s.postAll tag { kind := 7, place := place, n := tile, value := dest.getD 0xFFFFFFFF, info := seq }
        let s := match T.lender with
          | some (l, p) => s.postAll l { kind := 7, place := p, n := tile, value := 0xFFFFFFFF, info := seq }
          | none => s
        if dest.isNone && !connected s.ks.badLinks (s.tilesOf tag) then s.push [.partitionReset tag] else s)

/-- Tiles of a field (R8). -/
def fieldTiles (f : Nat) : List Nat := (List.range 100).map fun i => (f / 12 * 10 + i / 10) * 120 + f % 12 * 10 + i % 10

/-- Partitions with a tile or a grain in a field. -/
def State.fieldParts (s : State) (f : Nat) : List Nat :=
  (s.parts.filter fun p => p.2.grains.any (·.1 == f) || (s.tilesOf p.1).any fun t => fieldOf t == f).map (·.1)

/-- Partitions stop at once, are told so, and are reset as soon as their interval allows (R378, R394, R431). -/
def State.stopParts (s : State) (tags : List Nat) (info : Nat) : State :=
  tags.foldl (fun s g => ((s.modPart g fun P => { P with heldStop := true, resetDue := true }).postStop g info).again (.partitionReset g)) s

/-- A field is retired: its tiles are retired at once (R431). -/
def State.retireField (s : State) (f : Nat) : State :=
  (s.setField f { s.field f with retired := true }).push
    (((fieldTiles f).filter s.goodTile).map fun t => .tileRetire t 8400)

/-- A tile is idle: paused, saved, or between contexts (R429). -/
def State.atRest (s : State) (t : Nat) : Bool :=
  let T := s.tile t
  T.segs == [] && (T.tag == 0 || T.quiesce == .paused || T.quiesce == .leases || s.drained t ||
    ((T.slot T.act).st != .active && T.quiesce == .none))

/-- The tile that a repair needs idle. -/
def repairTile : RepairUnit → Option Nat
  | .arrayLine t _ | .poolSegment t | .storeSlot t => some t
  | _ => none

/-- A repair enters the lifetime records (R434). -/
def State.noteRepair (s : State) (unit old new : Nat) : State := s.modKs fun k => { k with
  repairs := ((k.lifeSeq, s.wtime, unit, old, new) :: k.repairs).take 4096, lifeSeq := k.lifeSeq + 1 }

/-- A pool segment is disabled: what the active context holds is saved first, and comes back where it still fits (R429). -/
def State.dropSegment (s : State) (t : Nat) : State :=
  let T := s.tile t
  let live := (T.slot T.act).st == .active
  let s := if live then
      let va := imageVa (s.ctx T.tag T.ctl.ctx) T.place
      ((s.saveImage t va true (State.imagePut T.tag T.ctl.ctx va)).vacate t).poolFlush t
    else s
  let s := s.modTile t fun T => { T with dis := T.dis + 1 }
  if live then s.modTile t fun T => { T with quiesce := .leases, qHor := 0 } else s

/-- The effect of a repair (Table 20.2). -/
def State.repairNow (s : State) : RepairUnit → State
  | .arrayLine t col =>
    let x := (s.tile t).arr.spares
    let y := if col then (x.1, x.2 + 1) else (x.1 + 1, x.2)
    if 2 < y.1 || 2 < y.2 then s.push [.tileRetire t 8400]
    else (s.modTile t fun T => { T with arr := { T.arr with spares := y } }).noteRepair 0 t (if col then y.2 else y.1)
  | .poolSegment t =>
    let T := s.tile t
    if T.usable ≤ 16 then s.push [.tileRetire t 8400]
    else (s.dropSegment t).noteRepair 1 t (T.dis + 1)
  | .storeSlot t =>
    let T := s.tile t
    match T.storeBad, (List.range 16).filter fun i => (amGet T.store i).isNone with
    | [], i :: _ => (s.modTile t fun T => { T with storeBad := [i] }).noteRepair 2 t i
    | _, _ => s.push [.tileRetire t 8400]
  | .meshLink t p =>
    let s := (s.modKs fun k => { k with badLinks := if k.badLinks.contains (t, p) then k.badLinks else k.badLinks ++ [(t, p)] }).noteRepair 3 t p
    match meshNext t p with
    | none => s
    | some n =>
      let tag := (s.tile t).tag
      let ts := s.tilesOf tag
      if tag = 0 || (s.tile n).tag ≠ tag then s
      else if s.shapeFault ts = 0 then s.push [.partitionCompact tag []]
      else s.push [.tileRetire (if (layersFrom s.ks.badLinks ts n).flatten.length < (layersFrom s.ks.badLinks ts t).flatten.length
        then n else t) 8400]
  | .tile t => s.push [.tileRetire t 8400]
  | .rowBucket f g =>
    let F := s.field f
    if F.rowsUsed < Config.spareRows f then (s.setField f { F with rowsUsed := F.rowsUsed + 1 }).noteRepair 5 f g
    else (s.setField f { F with withdrawn := if F.withdrawn.contains g then F.withdrawn else F.withdrawn ++ [g] }).noteRepair 5 f g
  | .slice f | .spine f =>
    let F := s.field f
    if F.spSlice = 0 then s.retireField f else (s.setField f { F with spSlice := F.spSlice - 1 }).noteRepair 6 f (F.spSlice - 1)
  | .walker f =>
    let F := s.field f
    if F.spWalk ≠ 0 then (s.setField f { F with spWalk := F.spWalk - 1 }).noteRepair 7 f (F.spWalk - 1)
    else
      let s := (s.setField f { F with walkers := F.walkers - 1 }).noteRepair 7 f (F.walkers - 1)
      if F.walkers ≤ 8 then s.retireField f else s
  | .memStop f => ((s.stopParts (s.fieldParts f) 0).retireField f).noteRepair 9 f 0
  | .jarlet p =>
    (s.portDown p false).noteRepair 10 p 0

/-- REPAIR (R429): a repair that needs a tile idle waits for the tile's next quiesce, and after 1 s pauses the tile. -/
def execRepair (u : RepairUnit) (s : State) : Res :=
  let me : Instr := .repair u
  match repairTile u with
  | none => .next (s.repairNow u)
  | some t =>
    if 8400 ≤ t || (s.tile t).dead then .next s
    else
      let req := s.ks.repairReq.find? fun x => x.1 == me
      let at_ := (req.map (·.2)).getD s.wtime
      let seg := match u with
        | .poolSegment _ => true
        | _ => false
      let op := (s.part (s.tile t).tag).any fun P => P.op.isSome || P.paused.isSome
      let ready := s.atRest t && !(seg && (s.tile t).quiesce == .paused && ((s.tile t).slot (s.tile t).act).st == .active)
      if ready then
        let s := (s.repairNow u).modKs fun k => { k with repairReq := k.repairReq.filter fun x => x.1 != me }
        .next (if op then s else s.letRun t)
      else
        let s := if req.isSome then s else s.modKs fun k => { k with repairReq := k.repairReq ++ [(me, at_)] }
        let s := if at_ + 1000000000 ≤ s.wtime && !op then s.restTile t (((s.part (s.tile t).tag).map (·.preempt)).getD 40000) (!seg) else s
        .next (s.again me)

/-- TABLE_REWRITE (R374): Keystone writes the place or route table of the tile that State.cur names from its own copy. -/
def execTableRewrite (s : State) : Res := .next (s.modTile s.cur.tile fun T => { T with tableBad := false })

/-! ## Migration (R308, R331, R423 to R425) -/

/-- Regions of 2 MiB of a partition's grains that have been written since a point of the record of stores. -/
def State.dirtySince (s : State) (P : Part) (mark : Nat) : List Nat :=
  let w := s.writes.take (s.writes.length - mark)
  ((w.map fun x => x.1 * 8 / 2 ^ 21).filter fun r => P.grains.any fun g =>
    decide (grainBase g.1 g.2 ≤ r * 2 ^ 21) && decide (r * 2 ^ 21 < grainBase g.1 g.2 + 2 ^ 28)).dedup

/-- Partition physical address of a module physical one. -/
def Part.ppaOf (P : Part) (pa : Nat) : Option Nat :=
  (P.grains.findIdx? fun g => decide (grainBase g.1 g.2 ≤ pa) && decide (pa < grainBase g.1 g.2 + 2 ^ 28)).map fun i =>
    i * 2 ^ 28 + pa % 2 ^ 28

/-- Module physical address of a partition physical one. -/
def Part.paOf (P : Part) (ppa : Nat) : Option Nat := (P.grains[ppa / 2 ^ 28]?).map fun g => grainBase g.1 g.2 + ppa % 2 ^ 28

/-- The bytes of a partition's grains that lie in some regions, all where none is named, by partition physical address; one that
is not listed is zero. -/
def State.regionBytes (s : State) (P : Part) (rs : Option (List Nat)) : List Host.Cell :=
  s.mem.filterMap fun c =>
    if (rs.map fun l => l.contains (c.1 / 2 ^ 21)).getD true then (P.ppaOf c.1).map fun a => (a, c.2) else none

/-- What has been copied, with some regions copied again. -/
def State.copyAgain (s : State) (P : Part) (old : List Host.Cell) (rs : List Nat) : List Host.Cell :=
  (old.filter fun c => !((P.paOf c.1).map fun a => rs.contains (a / 2 ^ 21)).getD false) ++ s.regionBytes P (some rs)

/-- What a copy sends over the Jarlet link (answer kind 34), and the number of regions written since (kind 31). -/
def State.sendCopy (s : State) (tag : Nat) (l : List Host.Cell) (left : Nat) : State :=
  s.modKs fun k => { k with answers := { kind := 31, data := [tag, left], sig := 0 } ::
    { kind := 34, data := tag :: l.flatMap fun c => [c.1, c.2.toNat], sig := 0 } :: k.answers }

/-- One round: the regions written since their copy began are copied again (R308). -/
def State.copyRound (s : State) (tag : Nat) (P : Part) (m : Migration) (phase : Nat) : State :=
  let d := s.dirtySince P m.mark
  (s.modPart tag fun P => { P with mig := some { m with
    phase := phase, mark := s.writes.length, dirty := d, copy := s.copyAgain P m.copy d } }).sendCopy tag (s.regionBytes P (some d)) d.length

/-- MIGRATE (R308, R423). At the source phase 1 copies the grains, and again the regions written since, in rounds; phase 2, once
fewer regions remain than the host has named, quiesces every tile and copies what is left, the context images among it. At the
destination phase 6 takes in what the source has copied. Phase 0 gives the migration up before the source's keys are erased; a
destination then frees its partition. -/
def execMigrate (tag phase : Nat) (x : MigReq) (s : State) : Res :=
  let me : Instr := .migrate tag phase x
  match s.part tag with
  | none => .next (s.result me 1)
  | some P =>
    if phase = 0 then
      match P.mig with
      | some m =>
        if m.phase = 4 then .next (s.result me 21)
        else if m.phase = 5 then .next ((s.freePart tag).result me 0)
        else .next ((s.migFails tag).result me 0)
      | none => .next (s.result me 21)
    else if phase = 6 then
      match P.mig with
      | none | some { phase := 5, .. } | some { phase := 6, .. } =>
        let m : Migration := P.mig.getD {
          phase := 6, dst := x.dst, approved := true, sent := none, mark := 0, dirty := [], limit := 0, copy := [], heldSource := false }
        let s := x.cells.foldl (fun (s : State) c => match P.paOf c.1 with
          | some a => (s.clearPoison a 1).putBytes a [c.2]
          | none => s) s
        .next ((s.modPart tag fun P => { P with mig := some m }).result me 0)
      | some _ => .next (s.result me 21)
    else if P.escrow.isNone then .next (s.result me 22)
    else if phase = 1 then
      match P.mig with
      | none =>
        let all := s.regionBytes P none
        let m : Migration := {
          phase := 1, dst := x.dst, approved := false, sent := none, mark := s.writes.length, dirty := [], limit := x.limit, copy := all
          heldSource := false }
        .next (((s.modPart tag fun P => { P with mig := some m }).sendCopy tag all 0).result me 0)
      | some m =>
        if m.phase ≠ 1 then .next (s.result me 21)
        else .next ((s.copyRound tag P m 1).result me 0)
    else match P.mig with
    | none => .next (s.result me 21)
    | some m =>
      if phase ≠ 2 || m.phase ≠ 1 then .next (s.result me 21)
      else if !s.begun [tag] me && m.limit ≤ (s.dirtySince P m.mark).length then .next ((s.copyRound tag P m 1).again me)
      else
        let w0 := P.paused.getD (s.wtime, (s.wtime : Int) + P.goff)
        let s := if s.begun [tag] me then s.modPart tag fun P => { P with paused := some w0 } else s
        .next (s.opTurn me .migrate [tag] (s.tilesOf tag) (fun _ => []) P.preempt 0 false fun s => match s.part tag with
          | some P => s.copyRound tag P m 2
          | none => s)

/-- Change the migration of a partition. -/
def State.modMig (s : State) (tag : Nat) (f : Migration → Migration) : State :=
  s.modPart tag fun P => { P with mig := P.mig.map f }

/-- MIGRATION_APPROVAL (R331): the tenant's verifier approves the destination. -/
def execMigrationApproval (tag : Nat) (s : State) : Res := .next (s.modMig tag fun m => { m with approved := true })

/-- What a key slot holds, as numbers: state, key, WDID. -/
def KeySlot.words : KeySlot → List Nat
  | .empty => [0, 0, 0]
  | .clear => [1, 0, 0]
  | .keyed k w => [2, k.toNat, w.toNat]

/-- The shape that a key blob is bound to: box, valid places, contexts (R424). -/
def Part.shape (P : Part) : List Nat := [P.lw, P.lh, P.ctxs.length, P.places.length] ++ P.places.map (·.1)

/-- What a key blob holds (R424): with its fields, GTIME at the pause (R335) and a digest of the shape, which the import compares
(log 109). -/
def Part.blobWords (P : Part) (tag free : Nat) : List Nat :=
  ((List.range 16).flatMap fun i => ((amGet P.keys i).getD .empty).words) ++
  [P.saveKey.toNat, wrap 64 P.goff, tag, P.gen, P.lw, P.lh, Config.derive 2 [free],
   wrap 64 ((P.paused.map (·.2)).getD 0), Config.digest 8 P.shape]

/-- A key blob sealed under KB: what it holds, and its check value, which only the holder of KB can make. -/
def sealBlob (kb : Nat) (words : List Nat) : List Nat := words ++ [Config.digest 1 (kb :: words)]

/-- A sealed blob passes its check under KB (R424). -/
def blobOk (kb : Nat) (blob : List Nat) : Bool := decide (blob.length = 58) && blob == sealBlob kb (blob.take 57)

/-- MIGRATION_KEY_TRANSFER (R331, R424): in phase 2, with the destination approved, the source draws KB and sends the blob and
KB wrapped under the session and under the escrow key. -/
def execMigrationKeyTransfer (tag : Nat) (s : State) : Res :=
  match s.part tag with
  | none => .next s
  | some P =>
    match P.mig with
    | none => .next s
    | some m =>
      if m.phase ≠ 2 || !m.approved then .next s
      else
        let kb := Config.derive 3 [s.free]
        let blob := sealBlob kb (P.blobWords tag s.free)
        let s1 := s.modMig tag fun m => { m with phase := 3, sent := some s.free }
        .next (s1.drawn.modKs fun k => { k with answers :=
          { kind := 32, data := tag :: m.dst :: Config.digest 2 [kb, m.dst] :: Config.digest 3 [kb, P.escrow.getD 0] :: blob, sig := 0 } ::
            k.answers })

/-- MIGRATION_RECEIPT_ACK (R331, R423, R425): the source erases its keys; peer accesses are forwarded for 10 ms. -/
def execMigrationReceiptAck (tag : Nat) (s : State) : Res :=
  match (s.part tag).bind (·.mig) with
  | none => .next s
  | some m =>
    if m.phase ≠ 3 then .next s
    else
      let s := s.modPart tag fun P => { P with keys := [], keyHeld := [], saveKey := 0, mig := some { m with phase := 4 } }
      .next ((s.modKs fun k => { k with forwards := k.forwards.filter (fun f => f.1 != tag) ++ [(tag, s.wtime + 10000000, m.dst)] }).pushAt
        tag 0 .peerForwardExpire)

/-- MIGRATION_RUN_CONFIRM (R423, R424): the destination runs; the source resets, zeroes and frees everything. -/
def execMigrationRunConfirm (tag : Nat) (s : State) : Res :=
  match (s.part tag).bind (·.mig) with
  | none => .next s
  | some m => .next (if m.phase = 4 then s.freePart tag else s)

/-- MIGRATION_CONFIRM_TIMEOUT (R423): the partition that State.cur names is held as a copy source only. -/
def execMigrationConfirmTimeout (s : State) : Res :=
  .next (s.modMig s.cur.tile fun m => if m.phase = 4 then { m with heldSource := true } else m)

end Sys2Proof.Machine
end

