-- ==== Sys2Proof/Machine/Clock.lean ====
section
/-! DEFINITION. Time and the module as a whole: usage charges (R298, R299), clock steps and sensors (R18 to R20, R432), the
time beacon (R378, R379), accuracy ticks (R105), errors in shared structures (R393 to R395), lifetime records and scrub
passes (R427, R434), and the events that end all work (R22, R433). -/

namespace Sys2Proof.Machine

/-! ## Lifetime counts (Table 20.3) -/


/-- The working counts fold into flash; every counter saturates (R434). -/
def Keystone.fold (k : Keystone) (now : Nat) : Keystone := { k with
  flash := k.counts.foldl (fun m x => amSet m x.1 (min (2 ^ 32 - 1) ((amGet m x.1).getD 0 + x.2))) k.flash
  counts := [], foldAt := now }

/-- Whole seconds at the present clock step of a field enter the counts (class 3). -/
def State.foldStep (s : State) (f : Nat) : State :=
  let F := s.field f
  let n := (s.wtime - F.resAt) / 1000000000
  if n = 0 then s
  else (s.tally 3 f F.step n).setField f { F with resAt := F.resAt + n * 1000000000 }

/-- What a field's temperature and margin monitors have read since the last fold enters the counts (classes 7 and 8): in each bin
at most the seconds that have passed, an amount that no step of the machine fixes. -/
def State.foldMonitors (s : State) (f : Nat) : State :=
  let n := (s.wtime - s.ks.foldAt) / 1000000000
  let put (cls k : Nat) (s : State) : State :=
    (List.range k).foldl (fun s i => s.tally cls f i (Config.pick (s.free + (cls * 128 + f) * 16 + i) (n + 1) % (n + 1))) s
  put 8 8 (put 7 16 s)

/-- LIFETIME_FOLD (R434): every hour of wafer time. -/
def execLifetimeFold (s : State) : Res :=
  if s.ks.foldAt + 3600000000000 ≤ s.wtime then
    .next (((List.range 84).foldl (fun (s : State) f => (s.foldStep f).foldMonitors f) s).drawn.modKs fun k => k.fold s.wtime)
  else .next s

/-- SCRUB_PASS (R427, R375): every 8 h. It changes no value that a program can see; poison that it finds is counted in its
field (class 1). -/
def execScrubPass (s : State) : Res :=
  if s.ks.scrubAt + 28800000000000 ≤ s.wtime then
    .next ((s.poison.foldl (fun s g => s.tally 1 (homeField (64 * g)) 10 1) s).modKs fun k => { k with scrubAt := s.wtime })
  else .next s

/-! ## Usage counters (R298, R299) -/

/-- Shares in one tile·ns: the least common multiple of 1 to 32. -/
def tileShares : Nat := 144403552893600

/-- Of the last `dt` ns, those in which a tile ran below step 0 or was halted by a step change (R19). -/
def State.throttledNs (s : State) (t dt : Nat) : Nat :=
  let F := s.field (fieldOf t)
  if F.step ≠ 0 then dt else if F.halted then min dt (F.haltAt + 1000 + dt - s.wtime) else 0

/-- Tile time of one tile: shared by the resident teams by the group slots they hold, else the context owner's. -/
def State.chargeTile (s : State) (t dt : Nat) : State :=
  let T := s.tile t
  match s.ctx T.tag T.ctl.ctx with
  | none => s
  | some c =>
    let thr := s.throttledNs t dt
    let give (s : State) (o per : Nat) : State := s.charge o fun w => { w with
      tiletime := w.tiletime + dt * per, throttle := w.throttle + thr * per }
    let teams := T.ctl.teams.map (·.2)
    let all := teams.foldl (fun a x => a + x.resv.length) 0
    if teams = [] then give s c.owner tileShares
    else if all = 0 then give s (s.ownerOf t teams.head?) tileShares
    else teams.foldl (fun s x => give s (s.ownerOf t (some x)) (tileShares * x.resv.length / all)) s

/-- Tile cycles of one tile's active context over the last `dt` ns are counted from one on: resident and throttled ones
(R201). -/
def State.countCycles (s : State) (t dt cyc n : Nat) : State :=
  if (s.tile t).slots = [] || ((s.tile t).slot (s.tile t).act).st ≠ .active then s
  else
    let s := s.countFrom t 1 cyc n
    let thr := s.throttledNs t dt
    if thr = 0 then s else s.countFrom t 11 cyc (if thr = dt then n else n * thr / dt)

/-- Time passes: tile time is charged and tile cycles are counted. -/
def State.elapse (s : State) (units : Nat) : State :=
  let s1 := { s with now := s.now + units }
  let dt := s1.wtime - s.wtime
  s.tiles.foldl (fun (r : State) x => if x.2.tag = 0 then r
    else (r.chargeTile x.1 dt).countCycles x.1 dt (s.cycle x.1) (s1.cycle x.1 - s.cycle x.1)) s1

/-- ENERGY_ATTRIBUTION (R299): the measured energy of 1 ms is divided in proportion to the weighted activity counts; the
rest is unattributed. -/
def execEnergyAttribution (activity : List (Nat × Nat)) (measured : Nat) (s : State) : Res :=
  let l := activity.filter fun x => decide (x.1 < 64)
  let all := activity.foldl (fun a x => a + x.2) 0
  let share (x : Nat × Nat) : Nat := if all = 0 then 0 else measured * x.2 / all
  let s1 := l.foldl (fun (s : State) x => s.charge x.1 fun w => { w with energy := w.energy + share x }) s
  .next (s1.modKs fun k => { k with unattrib := k.unattrib + (measured - l.foldl (fun a x => a + share x) 0) })

/-! ## The module stops (R433) -/

/-- The status word with which the I3C port answers every request after a module-fatal event (R433). -/
def State.fatalStatus (s : State) : Option Nat := match s.mode with
  | .running => none
  | .fatal cause f => some (cause % 16 + f % 128 * 16)

/-- Every tile stops; every link reports through AER; the cause and WTIME go to flash, and the fold completes (R433, R435). -/
def State.fatal (s : State) (cause f : Nat) : State :=
  let s := s.tally 6 f cause 1
  let s := s.modKs fun k => { k with fatalRec := some (cause, f, s.wtime) }.fold s.wtime
  let s := (List.range 4).foldl (fun (s : State) h => s.setLink h { s.link h with aer := true }) s
  { s with mode := .fatal cause f }

/-- MODULE_FATAL (R433): cause 1 a lock-step mismatch, 2 a thermal stop, 3 an uncontained time fault. -/
def execModuleFatal (cause field : Nat) (s : State) : Res :=
  if 1 ≤ cause && cause ≤ 3 && s.mode == .running then .next (s.fatal cause field) else .next s

/-! ## Clock steps (R18 to R20) and sensors (R432) -/

/-- Readings of the sensors in use. -/
def Field.readings (F : Field) (temps : List Int) : List Int :=
  ((List.range 4).filter fun i => !F.badSensors.contains i).filterMap fun i => temps[i]?

/-- The step that a field with fewer than two sensors in use takes is 2, whatever is asked (R432). -/
def Field.stepFor (F : Field) (step : Nat) : Nat := if 2 < F.badSensors.length then 2 else step

/-- A step change: issue halts for at most 1 µs, tile cycles go on at the new clock, and the change is counted (class 5). -/
def State.changeStep (s : State) (f step : Nat) : State :=
  let s := s.foldStep f
  let F := s.field f
  let step := F.stepFor step
  let s1 := s.setField f { F with
    cycBase := s.fcycle f, cycAt := s.now, step := step, lastStep := some s.wtime, pendStep := none, halted := true, haltAt := s.wtime
    coolSince := none, resAt := s.wtime }
  (s1.tally 5 f step 1).pushAt f 0 .clockHaltResume

/-- At most one change in 1 ms: a later one takes effect at the interval's end, but not one demanded at 110 °C. -/
def State.askStep (s : State) (f step : Nat) (now : Bool) : State :=
  let F := s.field f
  let early := match F.lastStep with
    | some t => decide (s.wtime < t + 1000000)
    | none => false
  if early && !now then (s.setField f { F with pendStep := some step }).againAt f 0 .clockStepDeferred
  else s.changeStep f step

/-- CLOCK_STEP_DOWN (R18, R19): a sensor reads 100 °C or more. -/
def execClockStepDown (field : Nat) (temps : List Int) (s : State) : Res :=
  let F := s.field field
  let l := F.readings temps
  let s1 := if l.any fun t => decide (90 ≤ t) then s.setField field { F with coolSince := none } else s
  if 84 ≤ field then .next s
  else if F.step < 2 && l.any fun t => decide (100 ≤ t) then
    .next (s1.askStep field (F.step + 1) (l.any fun t => decide (110 ≤ t)))
  else .next s1

/-- CLOCK_STEP_UP (R18, R19, R432): the sensors have stayed below 90 °C for 50 ms. -/
def execClockStepUp (field : Nat) (temps : List Int) (s : State) : Res :=
  let F := s.field field
  let l := F.readings temps
  if 84 ≤ field then .next s
  else if l.any fun t => decide (90 ≤ t) then .next (s.setField field { F with coolSince := none })
  else match F.coolSince with
    | none => .next (s.setField field { F with coolSince := some s.wtime })
    | some t =>
      if t + 50000000 ≤ s.wtime && F.step ≠ 0 && 2 ≤ 4 - F.badSensors.length then .next (s.askStep field (F.step - 1) false)
      else .next s

/-- CLOCK_STEP_DEFERRED (R19): for the field that State.cur names. -/
def execClockStepDeferred (s : State) : Res :=
  let f := s.cur.tile
  let F := s.field f
  match F.pendStep with
  | none => .next s
  | some n =>
    if F.lastStep.any fun t => decide (s.wtime < t + 1000000) then .next (s.againAt f 0 .clockStepDeferred)
    else .next (s.changeStep f n)

/-- CLOCK_HALT_RESUME (R19): issue resumes in the field that State.cur names; after 1 µs it resumes of itself. -/
def execClockHaltResume (s : State) : Res :=
  let f := s.cur.tile
  .next (if (s.field f).halted then s.setField f { s.field f with halted := false } else s)

/-- THERMAL_STOP (R20): a sensor reads 115 °C or more in a field at step 2. -/
def execThermalStop (field : Nat) (temps : List Int) (s : State) : Res :=
  let F := s.field field
  if F.step = 2 && (F.readings temps).any (fun t => decide (115 ≤ t)) && s.mode == .running then .next (s.fatal 2 field)
  else .next s

/-- The median of three readings. -/
def median : List Int → Int
  | [a, b, c] => max (min a b) (min (max a b) c)
  | _ => 0

/-- SENSOR_DISAGREE (R432): a sensor that differs from the median of the other three by more than 15 °C for 10 ms is
ignored; with fewer than two in use the field runs at step 2. -/
def execSensorDisagree (field sensor : Nat) (temps : List Int) (s : State) : Res :=
  let F := s.field field
  let others := ((List.range 4).filter (· != sensor)).filterMap fun i => temps[i]?
  match temps[sensor]? with
  | none => .next s
  | some t =>
    if 84 ≤ field || 4 ≤ sensor || others.length ≠ 3 || F.badSensors.contains sensor then .next s
    else if (t - median others).natAbs ≤ 15 then .next (s.setField field { F with offSince := amDel F.offSince sensor })
    else match amGet F.offSince sensor with
    | none => .next (s.setField field { F with offSince := amSet F.offSince sensor s.wtime })
    | some a =>
      if s.wtime < a + 10000000 then .next s
      else
        let s := (s.setField field { F with badSensors := F.badSensors ++ [sensor], offSince := amDel F.offSince sensor }).tally 5 field 3 1
        .next (if 2 < F.badSensors.length + 1 && F.step ≠ 2 then s.askStep field 2 false else s)

/-! ## Wafer time (R378, R379) -/

/-- A field stops as a lasting fault: every partition with a tile or a grain there is reset, and repair maps it out. -/
def State.stopField (s : State) (f : Nat) : State :=
  if (s.field f).stopped then s
  else ((((s.setField f { s.field f with stopped := true }).tally 6 f 8 1).stopParts (s.fieldParts f) 0).retireField f)

/-- TIME_BEACON (R378, R379): the field's skew is classed as normal, skew hold or a stop. -/
def execTimeBeacon (field : Nat) (skew : Int) (s : State) : Res :=
  if 84 ≤ field then .next s
  else
    let F := s.field field
    let n := skew.natAbs
    let hold := if F.hold then decide (1 < n) else decide (2 < n)
    let s1 := s.setField field { F with skew := skew, hold := hold && decide (n ≤ 64), beacon := s.wtime, wtHalt := false }
    if 64 < n then .next (s1.stopField field)
    else if hold && !F.hold then
      .next ({ s1 with tiles := s1.tiles.map fun (x : Nat × Tile) =>
        (x.1, if fieldOf x.1 = field then { x.2 with l1 := [] } else x.2) }.tally 6 field 7 1)
    else .next s1

/-- TIME_BEACON_MISSING (R378): the field that State.cur names has had no beacon for 100 µs. -/
def execTimeBeaconMissing (s : State) : Res :=
  let f := s.cur.tile
  if f < 84 && (s.field f).beacon + 100000 ≤ s.wtime then .next (s.stopField f) else .next s

/-- WTIME_COUNTER_MISMATCH (R378, Table 20.1): issue in the field that State.cur names halts until the next beacon; a second
mismatch within 1 s is lasting. -/
def execWtimeCounterMismatch (s : State) : Res :=
  let f := s.cur.tile
  if 84 ≤ f then .next s
  else
    let F := s.field f
    let s1 := (s.setField f { F with wtHalt := true, lastMis := some s.wtime }).tally 1 f 15 1
    .next (if F.lastMis.any fun t => decide (s.wtime ≤ t + 1000000000) then s1.push [.repair (.spine f)] else s1)

/-! ## Accuracy (R105) -/

/-- One tick of 4,096 ns in a slice at a time: lines that have become stale count first, then A is compared with its thresholds
for every partition. -/
def Slice.tick (S : Slice) (now : Nat) : Slice :=
  let S := S.settleStale now
  let tags := ((S.acc.map (·.1)) ++ S.disc.map (·.1)).dedup
  { S with disc := tags.foldl (fun m t =>
      let a := S.accOf t
      let k := (amGet S.disc t).getD 0
      amPut 0 m t (if a < 128 then min 7 (k + 1) else if 192 ≤ a then k - 1 else k)) S.disc }

/-- ACCURACY_TICK (R105): at each wafer time that is a multiple of 4,096; ticks that have passed are taken one by one. -/
def execAccuracyTick (s : State) : Res :=
  if s.wtime / 4096 ≤ s.ks.accAt then .next s
  else
    let slices := s.slices.map fun (x : Nat × Slice) => (x.1, x.2.tick (4096 * (s.ks.accAt + 1)))
    let s1 := State.modKs { s with slices := slices } fun k => { k with accAt := k.accAt + 1 }
    .next (if s.wtime / 4096 ≤ s.ks.accAt + 1 then s1 else s1.again .accuracyTick)

/-! ## Shared structures (R393 to R395) -/

/-- Tags with a sector in a slice or an operation in flight there. -/
def State.sliceTags (s : State) (f u : Nat) : List Nat :=
  ((s.slice f u).lines.filter fun l => l.sec0 || l.sec1).map (·.tag) ++
  (s.reqs.filter fun q => !q.2.perf && q.2.kind != .peerLoad && regionOf q.2.pa == .plinth && homeField q.2.pa == f &&
    homeSlice q.2.pa == u).map (·.2.tag)

/-- Tags with a walk in flight in a field. -/
def State.walkTags (s : State) (f : Nat) : List Nat := (s.walks.filter fun w => w.2.field == f && w.2.started).map (·.2.tag)

/-- Tags with a request on its way to or from a field's stop, or a flit that waits at a link attached to it. -/
def State.stopTags (s : State) (f : Nat) : List Nat :=
  (s.reqs.filter fun q => regionOf q.2.pa == .plinth && !q.2.kind.isRemote &&
    (homeField q.2.pa == f || fieldOf q.2.tile == f)).map (·.2.tag) ++
  (s.ks.flits.filter fun l => linkField l.1 == f).flatMap fun l => l.2.map (·.tag)

/-- The ownership bitmap of a structure as a list of tags (Table 18.3). -/
def State.blastSet (s : State) (st : SharedStruct) (f u : Nat) : List Nat :=
  let l := match st with
    | .sliceTags | .sliceAlu => s.sliceTags f u
    | .walker => s.walkTags f
    | .memRouter => s.stopTags f
    | .spine => (List.range 64).flatMap (s.sliceTags f) ++ s.walkTags f
    | .bitmap => s.fieldParts f
  (List.range 1024).filter fun t => l.contains t && (s.part t).isSome

/-- SHARED_STRUCTURE_ERROR (R394, R395): a lasting error stops and resets every partition of its blast set, is logged, and
the structure is mapped out. -/
def execSharedStructureError (st : SharedStruct) (field unit : Nat) (s : State) : Res :=
  if 84 ≤ field then .next s
  else
    let set := s.blastSet st field unit
    let seq := s.ks.blastSeq
    let s := s.stopParts set seq
    let s := s.modKs fun k => { k with
      blasts := { seq := seq, wtime := s.wtime, st := st, field := field, unit := unit, blast := set } :: k.blasts, blastSeq := seq + 1 }
    let s := match st with
      | .sliceTags | .sliceAlu => s.setSlice field unit { s.slice field unit with lines := [] }
      | _ => s
    let u : RepairUnit := match st with
      | .sliceTags | .sliceAlu => .slice field
      | .walker => .walker field
      | .memRouter => .memStop field
      | .spine | .bitmap => .spine field
    .next ((s.tally 6 field 9 1).push [.repair u])

/-! ## Module reset and loss of power (R21, R22) -/

/-- What repair has mapped out in a tile outlives a reset. -/
def Tile.mapped (T : Tile) : Tile := { dis := T.dis, storeBad := T.storeBad, arr := { spares := T.arr.spares }, dead := T.dead }

/-- What repair has mapped out in a field outlives a reset. -/
def Field.mapped (F : Field) : Field := {
  walkers := F.walkers, spSlice := F.spSlice, spWalk := F.spWalk, retired := F.retired, rowsUsed := F.rowsUsed, withdrawn := F.withdrawn }

/-- The module after a loss of power or a reset: partitions, keys, queues, images and WTIME are gone; the good-tile map, the
records in flash and what repair has mapped out stay. Host memory and the environment's schedule are not the module's. -/
def State.erased (s : State) : State := { State.reset with
  host := s.host, inputs := s.inputs, free := s.free, nextId := s.nextId
  tiles := (s.tiles.map fun (x : Nat × Tile) => (x.1, x.2.mapped)).filter fun x => x.2 != {}
  fields := (s.fields.map fun (x : Nat × Field) => (x.1, x.2.mapped)).filter fun x => x.2 != {}
  jarlets := (s.jarlets.filter fun x => !x.2.inService).map fun (x : Nat × Jarlet) => (x.1, { inService := false })
  ks := { bad := s.ks.bad, flash := s.ks.flash, repairs := s.ks.repairs, lifeSeq := s.ks.lifeSeq, fatalRec := s.ks.fatalRec
          leaf := s.ks.leaf, alias_ := none, badLinks := s.ks.badLinks } }

/-- POWER_LOSS (R22, R434): counts since the last fold are lost. -/
def execPowerLoss (s : State) : Res := .next s.erased

/-- MODULE_RESET (R22, R328, R434): the counts fold first; the identity key signs one alias certificate with the next LMS
leaf while leaves are left. -/
def execModuleReset (s : State) : Res :=
  let s := s.modKs fun k => k.fold s.wtime
  let leaf := s.ks.leaf
  .next (s.erased.modKs fun k => if leaf < 1048576 then { k with leaf := leaf + 1, alias_ := some leaf } else k)

end Sys2Proof.Machine
end

