-- ==== Sys2Proof/Machine/FloatInst.lean ====
section
/-! DEFINITION. Floating-point, conversion, special-function and packed instructions (R222 to R228) over the
arithmetic of Float and Sfn. -/

namespace Sys2Proof.Machine

/-- A result and its flags as a lane's output. -/
def flagged (r : Nat × Nat) : LaneOut := { val := r.1, fps := r.2 }

/-- The fixed latency of a floating instruction (Table 9.1). -/
def latFp (t : FTy) : Option Nat := some (latF (t.regs == 2))

/-- D, A, B of one format under RM. -/
def State.fpR (s : State) (x : FpR) (lat : Option Nat) (f : Fmt → RM → Nat → Nat → Nat × Nat) : Res :=
  .next (s.alu x.c x.d x.ty.regs [x.a, x.b] lat true false fun l =>
    flagged (f (fmtOf x.ty) x.rm (s.srcF l x.a (fmtOf x.ty)) (s.srcF l x.b (fmtOf x.ty))))

/-- FADD (R222) -/
def execFadd (x : FpR) (s : State) : Res := s.fpR x (latFp x.ty) fpAdd
/-- FSUB (R222) -/
def execFsub (x : FpR) (s : State) : Res := s.fpR x (latFp x.ty) fpSub
/-- FMUL (R222) -/
def execFmul (x : FpR) (s : State) : Res := s.fpR x (latFp x.ty) fpMul
/-- FDIV (R226): a token on the divide path. -/
def execFdiv (x : FpR) (s : State) : Res := s.fpR x none fpDiv

/-- FFMA (R222): rounded once. -/
def execFfma (x : FpRC) (s : State) : Res :=
  .next (s.alu x.c x.d x.ty.regs [x.a, x.b, x.e] (latFp x.ty) true false fun l =>
    let f := fmtOf x.ty
    flagged (fpFma f x.rm (s.srcF l x.a f) (s.srcF l x.b f) (s.srcF l x.e f)))

/-- FMIN (R222) -/
def execFmin (x : FpM) (s : State) : Res :=
  .next (s.alu x.c x.d x.ty.regs [x.a, x.b] (latFp x.ty) true false fun l =>
    flagged (fpMinMax (fmtOf x.ty) false (s.srcF l x.a (fmtOf x.ty)) (s.srcF l x.b (fmtOf x.ty))))

/-- FMAX (R222) -/
def execFmax (x : FpM) (s : State) : Res :=
  .next (s.alu x.c x.d x.ty.regs [x.a, x.b] (latFp x.ty) true false fun l =>
    flagged (fpMinMax (fmtOf x.ty) true (s.srcF l x.a (fmtOf x.ty)) (s.srcF l x.b (fmtOf x.ty))))

/-- FCMP (R223) -/
def execFcmp (x : FCmpR) (s : State) : Res :=
  .next (s.aluP x.c x.pd (latF (x.ty.regs == 2)) fun l =>
    fpCmp (fmtOf x.ty) x.cond (s.srcF l x.a (fmtOf x.ty)) (s.srcF l x.b (fmtOf x.ty)))

/-- Clamp an integer to a type's range. -/
def tyClamp (t : ITy) (i : Int) : Int :=
  if tySigned t then max (-2 ^ (tyBits t - 1)) (min (2 ^ (tyBits t - 1) - 1) i) else max 0 (min (2 ^ tyBits t - 1) i)

/-- The conversion of R224 of one lane: the value read in the source type, written in the destination type. -/
def convert (td ts : CTy) (sat : Bool) (rm : RM) (intVal : ITy → Int) (fltVal : FFmt → Nat) : LaneOut :=
  match ts, td with
  | .flt a, .flt b => flagged (roundTo (fmtOfF b) rm sat (unpack (fmtOfF a) (fltVal a)))
  | .flt a, .int t =>
    let r := fpToInt (tyBits t) (tySigned t) sat rm (unpack (fmtOfF a) (fltVal a))
    { val := tyWrite t r.1, fps := r.2 }
  | .int t, .flt b => flagged (roundTo (fmtOfF b) rm sat (ofInt (intVal t)))
  | .int t, .int u => { val := tyWrite u (if sat then tyClamp u (intVal t) else intVal t) }

/-- FCVT (R224) -/
def execFcvt (x : FCvtR) (s : State) : Res :=
  .next (s.alu x.c x.d x.td.regs [x.a] (some (latF (x.td.regs == 2 || x.ts.regs == 2))) true false fun l =>
    convert x.td x.ts x.sat x.rm (fun t => s.srcI l x.a t) (fun f => s.srcF l x.a (fmtOfF f)))

/-- FCLASS (R225) -/
def execFclass (x : FClassR) (s : State) : Res :=
  .next (s.alu x.c x.d 1 [x.a] (some (latF (x.ty.regs == 2))) false false fun l =>
    { val := fpClass (fmtOfF x.ty) (s.srcF l x.a (fmtOfF x.ty)) })

/-- FSQRT (R226) -/
def execFsqrt (x : FpU) (s : State) : Res :=
  .next (s.alu x.c x.d x.ty.regs [x.a] none true false fun l =>
    flagged (fpSqrt (fmtOf x.ty) x.rm (s.srcF l x.a (fmtOf x.ty))))

/-- SFN (R227) -/
def execSfn (x : SfnR) (s : State) : Res :=
  .next (s.alu x.c x.d 1 [x.a] none true false fun l => flagged (fpSfn x.fn (s.srcF l x.a .f32)))

/-- Two halves of a packed operation, with their flags ORed (R228). -/
def packed (f : Nat → Nat × Nat) : LaneOut :=
  let lo := f 0
  let hi := f 1
  { val := hi.1 * 65536 + lo.1, fps := lo.2 ||| hi.2 }

/-- Half `h` of a packed register. -/
def half (v h : Nat) : Nat := v / 65536 ^ h % 65536

/-- PADD2 (R228) -/
def execPadd2 (x : FpR) (s : State) : Res :=
  .next (s.alu x.c x.d 1 [x.a, x.b] (some 6) true false fun l =>
    let f := fmtOf x.ty
    packed fun h => fpAdd f x.rm (half (s.srcP l x.a f) h) (half (s.srcP l x.b f) h))

/-- PMUL2 (R228) -/
def execPmul2 (x : FpR) (s : State) : Res :=
  .next (s.alu x.c x.d 1 [x.a, x.b] (some 6) true false fun l =>
    let f := fmtOf x.ty
    packed fun h => fpMul f x.rm (half (s.srcP l x.a f) h) (half (s.srcP l x.b f) h))

/-- PFMA2 (R228): each half rounded once. -/
def execPfma2 (x : FpRC) (s : State) : Res :=
  .next (s.alu x.c x.d 1 [x.a, x.b, x.e] (some 6) true false fun l =>
    let f := fmtOf x.ty
    packed fun h => fpFma f x.rm (half (s.srcP l x.a f) h) (half (s.srcP l x.b f) h) (half (s.srcP l x.e f) h))

end Sys2Proof.Machine
end

