-- ==== Sys2Proof/Machine/LaneInst.lean ====
section
/-! DEFINITION. SHFL, REDL, SCANL and VOTE (R229 to R234). -/

namespace Sys2Proof.Machine

/-! ## SHFL -/

/-- The source lane of SHFL (Table 9.7, R230). -/
def shflSrc (mode : ShMode) (own : Bool) (ls l b : Nat) : Nat :=
  let S := 2 ^ ls
  let j := l % S
  let jp : Int := match mode with
    | .idx => b
    | .up => (j : Int) - b
    | .down => (j : Int) + b
    | .xor => ((j ^^^ b : Nat) : Int)
  if 0 ≤ jp && jp < S then l - j + jp.toNat else if own then l else l - j + (jp % S).toNat

/-- A register pair or single of another lane as it stands: zero in an empty lane (R230). -/
def State.crossLane (s : State) (l code n : Nat) : Nat :=
  if (s.G.lane l).st = .empty then 0
  else (List.range n).foldr (fun j a => (s.T.regNow s.G l (code + j)).toNat + 2 ^ 32 * a) 0

/-- SHFL (R230) -/
def execShfl (x : ShflR) (s : State) : Res :=
  let n := if x.wide then 2 else 1
  .next (s.alu x.c x.d n [x.a, x.b] (some 6) false false fun l =>
    { val := s.crossLane (shflSrc x.mode x.own x.ls.val l (s.src l x.b 1)) x.a.code n })

/-! ## REDL and SCANL -/

/-- Bits of a lane operation's values. -/
def laneBits (op : LaneOp) : Nat := 32 * op.regs

/-- The operation of Table 9.9 on raw values, with its flags. -/
def laneApply (op : LaneOp) (x y : Nat) : Nat × Nat :=
  match op with
  | .add t => (wrap (tyBits t) (x + y : Nat), 0)
  | .min t => (if tyRead t x ≤ tyRead t y then x else y, 0)
  | .max t => (if tyRead t x ≥ tyRead t y then x else y, 0)
  | .and _ => (x &&& y, 0)
  | .or _ => (x ||| y, 0)
  | .xor _ => (x ^^^ y, 0)
  | .fadd t rm => fpAdd (fmtOf t) rm x y

/-- The identity of Table 9.9. -/
def laneIdent (op : LaneOp) : Nat :=
  match op with
  | .add _ | .or _ | .xor _ => 0
  | .min t => if tySigned t then 2 ^ (tyBits t - 1) - 1 else 2 ^ tyBits t - 1
  | .max t => if tySigned t then 2 ^ (tyBits t - 1) else 0
  | .and t => 2 ^ (32 * t.regs) - 1
  | .fadd t _ => 2 ^ ((fmtOf t).width - 1)

/-- The operation gives FPS flags. -/
def laneFloat : LaneOp → Bool
  | .fadd _ _ => true
  | _ => false

/-- One round of the pairwise tree of R232: neighbours at distance `d`. -/
def redRound (op : LaneOp) (d : Nat) (x : List (Nat × Nat)) : List (Nat × Nat) :=
  (List.range x.length).map fun j =>
    let a := x.getD j (0, 0)
    if j % (2 * d) = 0 then
      let b := x.getD (j + d) (0, 0)
      let r := laneApply op a.1 b.1
      (r.1, a.2 ||| b.2 ||| r.2)
    else a

/-- One step of the prefix of R233: position j combines with j − d. -/
def scanRound (op : LaneOp) (d : Nat) (x : List (Nat × Nat)) : List (Nat × Nat) :=
  (List.range x.length).map fun j =>
    let b := x.getD j (0, 0)
    if d ≤ j then
      let r := laneApply op (x.getD (j - d) (0, 0)).1 b.1
      (r.1, b.2 ||| r.2)
    else b

/-- `n` rounds at distances 1, 2, 4, ... -/
def rounds (f : Nat → List (Nat × Nat) → List (Nat × Nat)) : Nat → Nat → List (Nat × Nat) → List (Nat × Nat)
  | 0, _, x => x
  | n + 1, d, x => rounds f n (2 * d) (f d x)

/-- The values of a sub-group: A in active lanes, the identity elsewhere. -/
def State.subVals (s : State) (act : List Nat) (op : LaneOp) (a : Reg) (b S : Nat) : List (Nat × Nat) :=
  (List.range S).map fun j => (if act.contains (b + j) then s.src (b + j) a op.regs else laneIdent op, 0)

/-- REDL (R232): one k destination for the group with S = 32. -/
def execRedl (x : RedlR) (s : State) : Res :=
  let act := s.active x.c
  let S := 2 ^ x.ls.val
  let n := x.op.regs
  let red (b : Nat) := (rounds (redRound x.op) x.ls.val 1 (s.subVals act x.op x.a b S)).getD 0 (0, 0)
  let outs := act.map fun l => (l, red (l - l % S))
  let ws := if x.d.isK then (outs.take 1).flatMap fun o => spread 32 x.d n o.2.1
    else outs.flatMap fun o => spread o.1 x.d n o.2.1
  .next (s.retire x.c ws (outs.map fun o => (o.1, o.2.2, 0)) none (laneFloat x.op) false)

/-- SCANL (R233): the flags of every combination of a sub-group are ORed. -/
def execScanl (x : ScanR) (s : State) : Res :=
  let act := s.active x.c
  let S := 2 ^ x.ls.val
  let n := x.op.regs
  let scan (b : Nat) := rounds (scanRound x.op) x.ls.val 1 (s.subVals act x.op x.a b S)
  let out (l : Nat) : Nat × Nat :=
    let y := scan (l - l % S)
    let j := l % S
    let fl := y.foldl (fun a v => a ||| v.2) 0
    if !x.excl then ((y.getD j (0, 0)).1, fl)
    else if j = 0 then (if (laneFloat x.op) then 0 else laneIdent x.op, fl)
    else ((y.getD (j - 1) (0, 0)).1, fl)
  let outs := act.map fun l => (l, out l)
  .next (s.retire x.c (outs.flatMap fun o => spread o.1 x.d n o.2.1) (outs.map fun o => (o.1, o.2.2, 0)) none (laneFloat x.op)
    false)

/-! ## VOTE -/

/-- VOTE (R234) -/
def execVote (x : VoteR) (s : State) : Res :=
  let act := s.active x.c
  let yes := act.filter fun l => s.reg l (160 + x.pa.val) = 1
  let v := match x.mode with
    | .any => if yes = [] then 0 else 1
    | .all => if yes.length = act.length then 1 else 0
    | .ballot => (maskOf yes).toNat
  let ws := if x.d.isK then (act.take 1).flatMap fun _ => spread 32 x.d 1 v else act.flatMap fun l => spread l x.d 1 v
  .next (s.retire x.c ws [] (some 4) false false)

end Sys2Proof.Machine
end

