-- ==== Sys2Proof/Machine/Trust.lean ====
section
/-! DEFINITION. Trust: SPDM requests and sessions (R328, R329, R420), TDISP interfaces (R325 to R327, R414), weight keys
(R330, R380), escrow and import of migration keys (R423, R424), and IDE streams of the host links (R332, R421). -/

namespace Sys2Proof.Machine

/-! ## Answers (R328) -/

/-- Keystone answers an SPDM request; without an alias certificate it answers nothing. Kinds: 1 CHALLENGE_AUTH,
2 MEASUREMENTS, 3 KEY_EXCHANGE_RSP, 40 ERROR, 41 a vendor response of success, 42 the interface report, 43 KEY_QUERY. -/
def State.reply (s : State) (kind : Nat) (data : List Nat) (signed : Bool) : State :=
  match s.ks.alias_ with
  | none => s
  | some leaf => s.modKs fun k => { k with
      answers := { kind := kind, data := data, sig := if signed then Config.digest 6 (leaf :: kind :: data) else 0 } :: k.answers }

/-- An SPDM ERROR response: it changes no state (R420). -/
def State.refuse (s : State) (code : Nat) : State := s.reply 40 [code] false

/-- The interface that a session is bound to, or the one that its first request for an interface binds it to. -/
def State.bindSession (s : State) (sess ifn : Nat) : Option State :=
  match amGet s.ks.sess sess with
  | none => none
  | some x =>
    match x.ifn with
    | some i => if i = ifn then some s else none
    | none => some (s.modKs fun k => { k with sess := amSet k.sess sess { x with ifn := some ifn } })

/-- The queue interface that a session is bound to. -/
def State.boundQueue (s : State) (sess : Nat) : Option (Nat × Queue) :=
  ((amGet s.ks.sess sess).bind (·.ifn)).bind fun i => (s.queue i).map fun q => (i, q)

/-- CHALLENGE (R328) -/
def execChallenge (nonce : Nat) (s : State) : Res := .next (s.reply 1 [nonce] true)

/-- KEY_EXCHANGE (R328): a session is opened under ECDHE. -/
def execKeyExchange (sess : Nat) (s : State) : Res :=
  if s.ks.alias_.isNone then .next s
  else if (amGet s.ks.sess sess).isSome then .next (s.refuse 1)
  else
    let x : Session := { ifn := none, secret := Config.derive 8 [s.free, sess] }
    .next ((s.modKs fun k => { k with sess := amSet k.sess sess x }).drawn.reply 3 [sess] true)

/-- A session ends: the interfaces bound to it that are locked or running go to ERROR with code 15 (R420). -/
def State.closeSession (s : State) (sess : Nat) : State :=
  if (amGet s.ks.sess sess).isNone then s
  else
    let s := s.modKs fun k => { k with sess := amDel k.sess sess }
    s.queues.foldl (fun (s : State) q =>
      if q.2.sess = some sess && (q.2.state == .locked || q.2.state == .run) then s.queueErr q.1 15 sess 0 else s) s

/-- SECURED_MESSAGE_FAIL (R420): a failed GCM check ends the session at once. -/
def execSecuredMessageFail (sess : Nat) (s : State) : Res := .next (s.closeSession sess)

/-- END_SESSION (R420) -/
def execEndSession (sess : Nat) (s : State) : Res := .next (s.closeSession sess)

/-! ## Shape and measurements (R326, R327, R329) -/

/-- Fields in which a partition holds a tile or a grain. -/
def State.fieldsOf (s : State) (tag : Nat) (P : Part) : List Nat :=
  (List.range 84).filter fun f => P.grains.any (·.1 == f) || (s.tilesOf tag).any fun t => fieldOf t == f

/-- The shape report: 1,060 bytes, then 4 for each grain and each quota (R327, Table 13.9). -/
def State.shapeReport (s : State) (tag : Nat) (P : Part) : List Nat :=
  let fs := s.fieldsOf tag P
  let qs := fs.filter fun f => P.grains.any (·.1 == f)
  let l := leBytes 4 (s.tilesOf tag).length ++ leBytes 2 P.lw ++ leBytes 2 P.lh ++ leBytes 16 (bitmapOf fs) ++ leBytes 8 devWindowAt ++
    leBytes 2 P.grains.length ++ leBytes 2 qs.length ++ leBytes 1024 (bitmapOf (P.places.map (·.1))) ++
    (P.grains.flatMap fun g => leBytes 4 (g.2 + g.1 * 2 ^ 20)) ++ qs.flatMap fun f => leBytes 4 (f + s.quota f tag / 128 * 2 ^ 8)
  l.map (·.toNat)

/-- A lifetime record as the host reads it: what is in flash and what the next fold adds (R434). -/
def Keystone.lifeRecord (k : Keystone) (key : Nat) : Nat :=
  min (2 ^ 32 - 1) ((amGet k.flash key).getD 0 + (amGet k.counts key).getD 0)

/-- Sums of the lifetime records by class and structure (R434): row buckets in one sum, the other classes by their sixteen
places. -/
def Keystone.lifeSums (k : Keystone) : List Nat :=
  let sum (f : Nat → Bool) : Nat := ((k.counts ++ k.flash).filter fun x => f x.1).foldl (fun a x => a + x.2) 0
  (List.range 9).flatMap fun c =>
    if c = 2 then [sum fun x => x / 2 ^ 20 == 2]
    else (List.range 16).map fun i => sum fun x => x / 2 ^ 20 == c && x % 256 == i

/-- The settings of a partition as numbers (Table 12.8). -/
def State.settingWords (s : State) (tag : Nat) (P : Part) : List Nat :=
  P.sched.flatMap (fun e => [e.1, e.2]) ++ [if P.fixed then 1 else 0, P.preempt, if P.strict then 1 else 0] ++
  (s.ks.slots.filter fun e => e.2 == tag).map (·.1)

/-- The counters of an owner (Table 12.4), with its epoch. -/
def Owner.words (o : Owner) : List Nat :=
  [o.epoch, o.tiletime / tileShares, o.throttle / tileShares, o.dramb, o.hostb, o.jarb, o.energy]

/-- A reading of an owner's counters, with its epoch (R300). -/
def State.ownerReading (s : State) (o : Nat) : List Nat := o :: ((amGet s.ks.owners o).getD {}).words

/-- What the management interface reads: the counters of all owners with their epochs, and the unattributed energy beside them
(R299, R300). -/
def State.usageReading (s : State) : List Nat := (List.range 64).flatMap s.ownerReading ++ [s.ks.unattrib]

/-- A measurement block (Table 13.10). Indices 5 to 7 need a session bound to an interface of a partition. -/
def State.measure (s : State) (part : Option (Nat × Part)) (index : Nat) : Option (List Nat) :=
  if index = 1 then some [Config.derive 20 []]
  else if index = 2 then some [Config.derive 21 []]
  else if index = 3 then some ([s.goodMap, 700, 525, 350] ++ (List.range 64).map fun i => (amGet s.ks.slots i).getD 0)
  else if index = 4 then some (s.ks.lifeSums ++ [s.ks.repairs.length, s.ks.blasts.length, if s.goodCount < 8192 then 1 else 0])
  else match part with
  | none => none
  | some (tag, P) =>
    if index = 5 then some (Config.digest 5 (s.shapeReport tag P) :: P.owners ++ s.settingWords tag P)
    else if index = 6 then some (P.owners.flatMap s.ownerReading ++ [s.ks.unattrib])
    else if index = 7 then some ((List.range 16).flatMap fun i => match (amGet P.keys i).getD .empty with
      | .empty => [0, 0]
      | .clear => [1, 0]
      | .keyed _ w => [2, w.toNat])
    else none

/-- The partition of the interface that a session is bound to. -/
def State.sessionPart (s : State) (sess : Nat) : Option (Nat × Part) :=
  (s.boundQueue sess).bind fun q => (s.part q.2.cfg.tag).map fun P => (q.2.cfg.tag, P)

/-- MEASUREMENTS (R329) -/
def execMeasurements (sess index : Nat) (s : State) : Res :=
  match s.measure (s.sessionPart sess) index with
  | some l => .next (s.reply 2 (index :: l) true)
  | none => .next (s.refuse 2)

/-! ## Interfaces (R325, R414) -/

/-- LOCK_INTERFACE (R325): with RIDX = WIDX, PASID set and a selective IDE stream keyed for the function. -/
def execLockInterface (ifn sess : Nat) (s : State) : Res :=
  match s.queue ifn, s.bindSession sess ifn with
  | some q, some s1 =>
    let link := ((s.part q.cfg.tag).map (·.link)).getD 4
    match (s.link link).streams.find? fun x => x.num != 0 && x.tag == q.cfg.tag && x.secure with
    | none => .next (s1.refuse 3)
    | some x =>
      if q.state != .unlocked || q.ridx ≠ q.widx || q.cfg.pasid = 0 || q.stopping then .next (s1.refuse 3)
      else .next (((s1.setQueue ifn { q with state := .locked, sess := some sess, ide := some x.num }).backNow ifn).reply 41 [ifn] false)
  | _, _ => .next (s.refuse 3)

/-- START_INTERFACE (R325), in a session bound to the interface: a locked interface runs, and its pending packets are read. -/
def execStartInterface (ifn sess : Nat) (s : State) : Res :=
  match s.queue ifn, s.bindSession sess ifn with
  | some q, some s =>
    if q.state != .locked then .next (s.refuse 3)
    else .next ((((s.setQueue ifn { q with state := .run }).backNow ifn).push [.packetAtHead ifn]).reply 41 [ifn] false)
  | _, _ => .next (s.refuse 3)

/-- The launches that a queue admitted have completed or been aborted, and no COPY moves. -/
def State.queueDone (s : State) (ifn : Nat) (q : Queue) : Bool :=
  q.copy.isNone && ((s.ctx q.cfg.tag q.cfg.ctx).map fun c => c.launches.all fun l => l.ifn != ifn || l.complete).getD true

/-- STOP_INTERFACE (R325, R414), in a session bound to the interface, or without a session where it was not locked: it waits for
the queue's launches, discards the pending packets, clears the error record and unlocks. -/
def execStopInterface (ifn sess : Nat) (s : State) : Res :=
  match s.queue ifn with
  | none => .next (s.refuse 3)
  | some q =>
    let s := (s.bindSession sess ifn).getD s
    let bare := q.sess.isNone && (amGet s.ks.sess sess).isNone
    if !q.stopping && !bare && (s.bindSession sess ifn).isNone then .next (s.refuse 3)
    else if !s.queueDone ifn q then .next ((s.setQueue ifn { q with stopping := true }).again (.stopInterface ifn sess))
    else .next (((s.setQueue ifn { q with
      state := .unlocked, ridx := q.widx, head := none, satisfied := false, waits := [], err := none, sess := none, ide := none
      stopping := false }).backNow ifn).reply 41 [ifn] false)

/-- A queue error record: 64 bytes (R413, Table 19.2). -/
def Queue.errBytes (q : Queue) (ifn : Nat) : List Byte :=
  match q.err with
  | none => []
  | some e =>
    leBytes 8 (e.code % 256 + e.pstate.ctorIdx % 256 * 2 ^ 8 + ifn % 2 ^ 16 * 2 ^ 16 + q.cfg.ctx % 256 * 2 ^ 32 + q.cfg.q % 256 * 2 ^ 40) ++
    leBytes 4 q.ridx ++ leBytes 4 q.widx ++ leBytes 8 e.hdr ++ leBytes 8 e.detail1 ++ leBytes 8 e.detail2 ++ leBytes 8 e.wtime ++
    leBytes 8 e.gtime ++ List.replicate 8 0

/-- What the host reads through the management mailbox: the error record of an interface by IFNUM (R413). -/
def State.mailboxError (s : State) (ifn : Nat) : List Byte := ((s.queue ifn).map fun q => q.errBytes ifn).getD []

/-- GET_DEVICE_INTERFACE_REPORT (R326, R413): answered in CONFIG_LOCKED, RUN and ERROR. -/
def execGetDeviceInterfaceReport (ifn sess : Nat) (s : State) : Res :=
  match s.queue ifn, s.bindSession sess ifn with
  | some q, some s1 =>
    match s.part q.cfg.tag with
    | none => .next (s1.refuse 4)
    | some P =>
      if q.state == .unlocked then .next (s1.refuse 4)
      else
        let ms := (List.range 7).map fun i => (s.measure (some (q.cfg.tag, P)) (i + 1)).getD []
        let data := [ifn, q.cfg.ctx, q.cfg.pasid, q.cfg.prio, q.cfg.owner, 8 * q.cfg.q, 0x20000 + 64 * q.cfg.ctx] ++
          (s.lockedVecs q).map (0x30000 + 16 * ·) ++ s.shapeReport q.cfg.tag P ++
          [s.goodCount, s.goodMap, P.ctxs.length, 64, P.preempt, 262144, Config.digest 7 ms.flatten, q.tamper] ++ (q.errBytes ifn).map (·.toNat)
        .next (s1.reply 42 data false)
  | _, _ => .next (s.refuse 4)

/-! ## Weight keys (R263, R330, R380) -/

/-- The weight key slot that an array command names. -/
def ArrCmd.keySlot (c : ArrCmd) : Option Nat := match c.op with
  | .ldsG _ _ k _ _ _ _ => some k
  | .ldsS _ _ k _ _ => some k
  | _ => none

/-- An array holds an accepted LDS of a slot, or one in its latch. -/
def Arr.names (a : Arr) (slot : Nat) : Bool :=
  (a.q.any fun c => c.keySlot == some slot) || a.latch.any fun e => e.cmd.keySlot == some slot

/-- Some LDS of a partition names a slot, on a tile or in a saved context (R380). -/
def State.slotBusy (s : State) (tag slot : Nat) (P : Part) : Bool :=
  ((s.tilesOf tag).any fun t => (s.tile t).arr.names slot || (s.tile t).slots.any fun x => x.2.ctl.arr.any fun a => a.names slot) ||
  P.images.any fun x => x.ctl.arr.any fun a => a.names slot

/-- The partition whose keys a session may change: its interface is locked or running (R330). -/
def State.keyPart (s : State) (sess : Nat) : Option (Nat × Part) :=
  (s.boundQueue sess).bind fun q =>
    if q.2.state == .locked || q.2.state == .run then (s.part q.2.cfg.tag).map fun P => (q.2.cfg.tag, P) else none

/-- A key slot changes once no accepted LDS names it, after the changes asked for before; the answer follows the change. -/
def State.changeKey (s : State) (me : Instr) (sess slot : Nat) (new : KeySlot) : State :=
  match s.keyPart sess with
  | none => s.refuse 5
  | some (tag, P) =>
    if 16 ≤ slot then s.refuse 5
    else
      let x := (sess, slot, new)
      let first := (P.keyHeld.find? fun y => y.2.1 == slot).all (· == x)
      if first && !s.slotBusy tag slot P then
        (s.modPart tag fun P => { P with keys := amPut .empty P.keys slot new, keyHeld := P.keyHeld.erase x }).reply 41 [slot] false
      else (s.modPart tag fun P => { P with keyHeld := if P.keyHeld.contains x then P.keyHeld else P.keyHeld ++ [x] }).again me

/-- KEY_SET (R330, R380) -/
def execKeySet (sess slot : Nat) (clear : Bool) (key wdid : Nat) (s : State) : Res :=
  .next (s.changeKey (.keySet sess slot clear key wdid) sess slot
    (if clear then .clear else .keyed (BitVec.ofNat 512 key) (BitVec.ofNat 32 wdid)))

/-- KEY_ERASE (R330, R380) -/
def execKeyErase (sess slot : Nat) (s : State) : Res := .next (s.changeKey (.keyErase sess slot) sess slot .empty)

/-- The check value of a key: the first 8 bytes of the encryption of zero under key 1. -/
def keyCheck (key : Nat) : Nat :=
  ((aesEnc (numBytes 32 key) (List.replicate 16 0)).take 8).foldr (fun b a => b + 256 * a) 0

/-- KEY_QUERY (R330) -/
def execKeyQuery (sess : Nat) (s : State) : Res :=
  match s.keyPart sess with
  | none => .next (s.refuse 5)
  | some (_, P) =>
    .next (s.reply 43 ((List.range 16).flatMap fun i => match (amGet P.keys i).getD .empty with
      | .empty => [0, 0, 0]
      | .clear => [1, 0, 0]
      | .keyed k w => [2, w.toNat, keyCheck k.toNat]) false)

/-- KEY_ESCROW (R423): the tenant's escrow key, in a bound session. -/
def execKeyEscrow (sess key : Nat) (s : State) : Res :=
  match s.keyPart sess with
  | none => .next (s.refuse 5)
  | some (tag, _) => .next ((s.modPart tag fun P => { P with escrow := some key }).reply 41 [] false)

/-- A key slot of a blob: state, key and WDID as its three words. -/
def blobSlot (w : Nat → Nat) (i : Nat) : KeySlot :=
  let st := w (3 * i) % 3
  if st = 0 then .empty else if st = 1 then .clear else .keyed (BitVec.ofNat 512 (w (3 * i + 1))) (BitVec.ofNat 32 (w (3 * i + 2)))

/-- KEY_IMPORT (R424): a blob that passes its GCM check under KB and fits the partition's shape installs the weight keys, the
context-save key and the guest time; the partition waits for its resume (R335). -/
def execKeyImport (sess : Nat) (blob : List Nat) (kb : Nat) (s : State) : Res :=
  match s.keyPart sess with
  | none => .next (s.refuse 6)
  | some (tag, P) =>
    let w (i : Nat) : Nat := blob.getD i 0
    if !blobOk kb blob || w 56 ≠ Config.digest 8 P.shape then .next (s.refuse 6)
    else
      let m : Migration := {
        phase := 5, dst := 0, approved := true, sent := none, mark := s.writes.length, dirty := [], limit := 0, copy := []
        src := w 50 % 1024 + w 51 % 16 * 1024, heldSource := false }
      let g0 : Int := sext 64 (w 55)
      .next ((s.modPart tag fun P => { P with
        keys := (List.range 16).foldl (fun k i => amPut .empty k i (blobSlot w i)) [], saveKey := BitVec.ofNat 512 (w 48)
        goff := g0 - s.wtime, paused := some (s.wtime, g0), mig := some m }).reply 41 [] false)

/-! ## IDE (R332, R421) -/

/-- IDE_KM (R332, R421): in a session, a stream of a link is keyed, or keyed again. -/
def execIdeKm (sess link stream tag key : Nat) (s : State) : Res :=
  if (amGet s.ks.sess sess).isNone || 4 ≤ link || 16 < stream then .next (s.refuse 7)
  else
    let L := s.link link
    let x : IdeStream := { num := stream, tag := tag, key := key, secure := true }
    .next ((s.setLink link { L with streams := L.streams.filter (fun y => y.num != stream) ++ [x] }).reply 41 [stream] false)

/-- IDE_INTEGRITY_FAIL (R421): the stream is insecure; interfaces bound to it, or for the link stream every interface of
every function on the link, go to ERROR with code 12. -/
def execIdeIntegrityFail (link stream : Nat) (s : State) : Res :=
  let L := s.link link
  let s := if 4 ≤ link then s else s.setLink link { L with streams := L.streams.map fun (y : IdeStream) =>
    if y.num = stream then { y with secure := false } else y }
  .next (s.queues.foldl (fun (s : State) q =>
    let here := ((s.part q.2.cfg.tag).map (·.link)) == some link
    if here && (stream = 0 || q.2.ide == some stream) then s.queueErr q.1 12 stream 0 else s) s)

end Sys2Proof.Machine
end

