-- ==== Sys2Proof/Machine/Links.lean ====
section
/-! DEFINITION. Jarlet ports: training (R303), authentication and keys (R333, R422), and slot conflicts (R402). -/

namespace Sys2Proof.Machine

/-- JARLET_LINK_TRAIN (R303): the port measures its neighbour's WTIME and keeps the offset; the Keystones agree its keys. -/
def execJarletLinkTrain (port : Nat) (off : Int) (s : State) : Res :=
  if 64 ≤ port || !(s.jarlet port).inService then .next s
  else .next ((s.setJarlet port { s.jarlet port with
    up := true, off := off, key0 := Config.derive 9 [port, s.free], key1 := Config.derive 10 [port, s.free], ctr0 := 0, ctr1 := 0
    ph0 := false, ph1 := false, failRow := 0, failMs := 0, failAt := s.wtime, conf := 0, confAt := s.wtime, agreeFail := 0 }).drawn)

/-- A flit that fails authentication is dropped for the link's retry; 8 in a row or 64 in 1 ms take the port down (R422). -/
def State.flitFails (s : State) (port : Nat) : State :=
  let J := s.jarlet port
  let J := if J.failAt + 1000000 ≤ s.wtime then { J with failMs := 0, failAt := s.wtime } else J
  let s := s.setJarlet port { J with failRow := J.failRow + 1, failMs := J.failMs + 1 }
  if 8 ≤ J.failRow + 1 || 64 ≤ J.failMs + 1 then s.pushAt port 0 .jarletPortDown else s

/-- A slot conflict: after 16 in 1 ms the port measures its offset again, and after two such measurements it leaves service
(R402). -/
def State.slotConflict (s : State) (port : Nat) : State :=
  let J := s.jarlet port
  let J := if J.confAt + 1000000 ≤ s.wtime then { J with conf := 0, confAt := s.wtime } else J
  if J.conf + 1 < 16 then s.setJarlet port { J with conf := J.conf + 1 }
  else if J.remeas < 2 then s.setJarlet port { J with conf := 0, remeas := J.remeas + 1 }
  else (s.setJarlet port { J with conf := 0 }).push [.repair (.jarlet port)]

/-- A flit arrives in another tag's slot, later than the guard (R402). -/
def State.outOfSlot (s : State) (port tag : Nat) : Bool :=
  let t := (((s.wtime : Int) + (s.jarlet port).off) % 4096).toNat
  let own := (amGet s.ks.slots (t / 64)).getD 0
  tag != 0 && own != 0 && own != tag && decide (8 < t % 64)

/-- JARLET_FLIT_RECEIVE (R333, R402, R422): an authentic flit is delivered and the counter of its key advances; a retried one
keeps its earlier key and counter. -/
def execJarletFlitReceive (port : Nat) (x : JFlit) (s : State) : Res :=
  let J := s.jarlet port
  if 64 ≤ port || !J.inService || !J.up then .next s
  else if !x.auth then .next (s.flitFails port)
  else
    let now := x.phase == J.ph1 && x.ctr == J.ctr1
    let s := s.setJarlet port { J with failRow := 0, delivered := J.delivered + 1, ctr1 := if now then J.ctr1 + 1 else J.ctr1 }
    let s := if s.outOfSlot port x.tag then s.slotConflict port else s
    .next (if 2 ^ 40 ≤ (s.jarlet port).ctr1 then s.pushAt port 0 .jarletPortDown else s)

/-- JARLET_KEY_UPDATE (R333): one direction's key is replaced, its counter restarts and its phase changes. -/
def execJarletKeyUpdate (port : Nat) (dir : Bool) (s : State) : Res :=
  let J := s.jarlet port
  if 64 ≤ port || !J.up then .next s
  else
    let key := Config.derive 11 [port, s.free]
    .next ((s.setJarlet port (if dir then { J with key1 := key, ctr1 := 0, ph1 := !J.ph1 }
      else { J with key0 := key, ctr0 := 0, ph0 := !J.ph0 })).drawn)

/-- JARLET_PORT_DOWN (R422): the port that State.cur names takes itself down and erases both keys; its flits are lost. Whether
one that has left was acknowledged on the link is open, as the peer's answer is. -/
def execJarletPortDown (s : State) : Res :=
  let p := s.cur.tile
  let J := s.jarlet p
  if J.up && (8 ≤ J.failRow || 64 ≤ J.failMs || 2 ^ 40 ≤ J.ctr0 + 1 || 2 ^ 40 ≤ J.ctr1) then
    .next (s.portDown p J.inService)
  else .next s

/-- JARLET_KEY_AGREEMENT (R422): after a take-down new keys start at counter 0; a third failure takes the port out of
service. -/
def execJarletKeyAgreement (port : Nat) (ok : Bool) (s : State) : Res :=
  let J := s.jarlet port
  if 64 ≤ port || J.up || !J.inService then .next s
  else if ok then
    .next ((s.setJarlet port { J with
      up := true, key0 := Config.derive 9 [port, s.free], key1 := Config.derive 10 [port, s.free], ctr0 := 0, ctr1 := 0
      failRow := 0, failMs := 0, failAt := s.wtime, agreeFail := 0 }).drawn)
  else if 3 ≤ J.agreeFail + 1 then .next ((s.setJarlet port { J with agreeFail := J.agreeFail + 1 }).push [.repair (.jarlet port)])
  else .next (s.setJarlet port { J with agreeFail := J.agreeFail + 1 })

end Sys2Proof.Machine
end

