-- ==== Sys2Proof/Machine/Uses.lean ====
section
/-! DEFINITION. What an instruction reads and writes, for the interlocks and the checking scoreboard (R137, R169, R170,
R230): its source and destination registers, the flags it can set, the level it needs (R177, R197) and the units it
occupies (R212, R227, R238). -/

namespace Sys2Proof.Machine

/-- Address registers of format M, with the k register of a remote place (R165). -/
def mspUse (a : Reg) : MSp → List (Reg × Nat)
  | .gl _ => [(a, 2)]
  | .sp _ => [(a, 1)]
  | .rem k _ => [(a, 1), (.k k, 1)]

/-- Source registers with their counts, as the instruction names them. -/
def srcsOf : Instr → List (Reg × Nat)
  | .brx _ t | .ret _ t => [(t, 2)]
  | .eretRetry _ r | .eretSkip _ r | .ctxsw _ r => [(r, 1)]
  | .eretRedir _ r t => [(r, 1), (t, 2)]
  | .mts _ n a => [(a, (sregRegs n.toNat).getD 1)]
  | .mtsApool _ a => [(a, 1)]
  | .mtsPmc _ _ a => [(a, 2)]
  | .evtH _ _ a => [(a, 1)]
  | .frz _ _ m _ _ => [(m, 4)]
  | .stamp _ _ b n => [(b, 1), (n, 1)]
  | .spawn _ _ i => [(i, 1)]
  | .spawnRem _ _ i p => [(i, 1), (p, 1)]
  | .ctxsave _ _ r a | .ctxsaveFull _ _ r a | .ctxload _ r a => [(r, 1), (a, 2)]
  | .tlbiPage _ a _ => [(a, 2)]
  | .tlbiGrain _ a t _ => [(a, 2), (t, 1)]
  | .placew _ d a b => [(d, 1), (a, 1), (b, 1)]
  | .add x | .sub x | .mul x | .mulh x | .div x | .rem x | .min x | .max x => [(x.a, x.ty.regs), (x.b, x.ty.regs)]
  | .bfx x => [(x.a, x.ty.regs), (x.b, 1)]
  | .addI x | .subI x | .mulI x | .minI x | .maxI x => [(x.a, x.ty.regs)]
  | .mad x => [(x.a, x.ty.regs), (x.b, x.ty.regs), (x.e, x.ty.regs)]
  | .abs x | .neg x => [(x.a, x.ty.regs)]
  | .and x | .or x | .xor x => [(x.a, x.ty.regs), (x.b, x.ty.regs)]
  | .shl x | .shr x | .sar x | .rot x => [(x.a, x.ty.regs), (x.b, 1)]
  | .andI x | .orI x | .xorI x => [(x.a, x.ty.regs)]
  | .shlI x | .shrI x | .sarI x | .rotI x => [(x.a, x.ty.regs)]
  | .not x | .brev x | .mov x | .popc x | .clz x => [(x.a, x.ty.regs)]
  | .bfi x => [(x.a, x.ty.regs), (x.b, 1), (x.e, x.ty.regs)]
  | .lea x => [(x.a, 2), (x.b, x.ty.regs)]
  | .leaI x => [(x.a, 2)]
  | .sel x => [(x.a, x.ty.regs), (x.b, x.ty.regs), (.p x.q, 1)]
  | .cmp x => [(x.a, x.ty.regs), (x.b, x.ty.regs)]
  | .cmpI x => [(x.a, x.ty.regs)]
  | .pand x | .por x | .pxor x => [(.p x.pa, 1), (.p x.pb, 1)]
  | .pnot x => [(.p x.pa, 1)]
  | .fadd x | .fsub x | .fmul x | .fdiv x => [(x.a, x.ty.regs), (x.b, x.ty.regs)]
  | .padd2 x | .pmul2 x => [(x.a, 1), (x.b, 1)]
  | .ffma x => [(x.a, x.ty.regs), (x.b, x.ty.regs), (x.e, x.ty.regs)]
  | .pfma2 x => [(x.a, 1), (x.b, 1), (x.e, 1)]
  | .fmin x | .fmax x => [(x.a, x.ty.regs), (x.b, x.ty.regs)]
  | .fcmp x => [(x.a, x.ty.regs), (x.b, x.ty.regs)]
  | .fcvt x => [(x.a, x.ts.regs)]
  | .fclass x => [(x.a, x.ty.regs)]
  | .fsqrt x => [(x.a, x.ty.regs)]
  | .sfn x => [(x.a, 1)]
  | .shfl x => [(x.a, if x.wide then 2 else 1), (x.b, 1)]
  | .redl x => [(x.a, x.op.regs)]
  | .scanl x => [(x.a, x.op.regs)]
  | .vote x => [(.p x.pa, 1)]
  | .ld x => mspUse x.a x.m
  | .st x => (x.d, x.w.regs) :: mspUse x.a x.m
  | .pref x => [(x.a, 2)]
  | .ldf x => mspUse x.a x.m
  | .ste x | .stf x => (x.d, 1) :: mspUse x.a x.m
  | .setfe x => mspUse x.a x.m
  | .atom x =>
    [(x.a, x.sp.aregs), (x.b, x.op.regs)] ++ (match x.op with
      | .cas _ => [(x.d, x.op.regs)]
      | _ => [])
  | .red x => [(x.a, x.sp.aregs), (x.b, x.op.regs)]
  | .gth x => [(x.a, 2), (x.b, if x.lk.val ≤ 1 then 1 else if x.lk.val = 2 then 2 else 4)]
  | .own x => [(x.u, 1)]
  | .waito x => [(x.u, 1)]
  | .cpyG2s x | .cpyS2g x | .cpyS2r x | .cpyR2s x => [(x.a, 2), (x.b, 4)]
  | .fillS x => [(x.pat, 1), (x.b, 4)]
  | .fillG x => [(x.pat, 1), (x.a, 2), (x.b, 4)]
  | .gangset _ m _ => [(m, 1)]
  | .lds x => [(x.a, 2)]
  | .ldsSlab x => [(x.off, 1), (x.a, 2)]
  | .mma x => [(x.row, 1), (x.off, 1), (x.b, 1)]
  | .accz _ r n | .acczFree _ r n => [(r, 1), (n, 1)]
  | .accrd _ _ x => [(x, 1)]
  | .accwr _ x b => [(x, 1), (b, 2)]
  | .accst x => [(x.off, 1), (x.row, 1), (x.b, 1)]
  | .accscl x => [(x.s, if x.s.isV then 2 else 1), (x.row, 1), (x.n, 1)]
  | _ => []

/-- Destination registers with their counts. -/
def dstsOf : Instr → List (Reg × Nat)
  | .call _ l _ => [(l, 2)]
  | .mfs _ d n => [(d, (sregRegs n.toNat).getD 1)]
  | .mfsAevt _ d => [(d, 2)]
  | .ctxsave _ d _ _ | .ctxsaveFull _ d _ _ => [(d, 1)]
  | .add x | .sub x | .mul x | .mulh x | .div x | .rem x | .min x | .max x | .bfx x => [(x.d, x.ty.regs)]
  | .addI x | .subI x | .mulI x | .minI x | .maxI x => [(x.d, x.ty.regs)]
  | .mad x => [(x.d, x.ty.regs)]
  | .abs x | .neg x => [(x.d, x.ty.regs)]
  | .and x | .or x | .xor x | .shl x | .shr x | .sar x | .rot x => [(x.d, x.ty.regs)]
  | .andI x | .orI x | .xorI x => [(x.d, x.ty.regs)]
  | .shlI x | .shrI x | .sarI x | .rotI x => [(x.d, x.ty.regs)]
  | .not x | .brev x | .mov x => [(x.d, x.ty.regs)]
  | .popc x | .clz x => [(x.d, 1)]
  | .bfi x => [(x.d, x.ty.regs)]
  | .lea x => [(x.d, 2)]
  | .leaI x => [(x.d, 2)]
  | .movi x => [(x.d, 1)]
  | .sel x => [(x.d, x.ty.regs)]
  | .cmp x => [(.p x.pd, 1)]
  | .cmpI x => [(.p x.pd, 1)]
  | .pand x | .por x | .pxor x => [(.p x.pd, 1)]
  | .pnot x => [(.p x.pd, 1)]
  | .fadd x | .fsub x | .fmul x | .fdiv x => [(x.d, x.ty.regs)]
  | .padd2 x | .pmul2 x => [(x.d, 1)]
  | .ffma x => [(x.d, x.ty.regs)]
  | .pfma2 x => [(x.d, 1)]
  | .fmin x | .fmax x => [(x.d, x.ty.regs)]
  | .fcmp x => [(.p x.pd, 1)]
  | .fcvt x => [(x.d, x.td.regs)]
  | .fclass x => [(x.d, 1)]
  | .fsqrt x => [(x.d, x.ty.regs)]
  | .sfn x => [(x.d, 1)]
  | .shfl x => [(x.d, if x.wide then 2 else 1)]
  | .redl x => [(x.d, x.op.regs)]
  | .scanl x => [(x.d, x.op.regs)]
  | .vote x => [(x.d, 1)]
  | .ld x => [(x.d, x.w.regs)]
  | .ldf x => [(x.d, 1)]
  | .atom x => [(x.d, x.op.regs)]
  | .gth x => [(x.d, 2 ^ x.lk.val)]
  | .own x => [(x.d, 1)]
  | .accrd _ d _ => [(d, 2)]
  | _ => []

/-- The register codes of a list of operands; a short constant has none, and p0 is never written. -/
def codesOf (l : List (Reg × Nat)) : List Nat :=
  (l.flatMap fun x => match x.1 with
    | .c _ => []
    | r => (List.range x.2).map fun j => r.code + j).filter (· != 160)

/-- The instruction reads or writes v registers; FRZ freezes those that its mask names (R40, R70). -/
def usesV (i : Instr) : Bool :=
  (srcsOf i ++ dstsOf i).any (fun x => x.1.isV) || (match i with
    | .frz _ _ _ _ _ => true
    | _ => false)

/-- The instruction can set a flag in FPS (R137). -/
def setsFps : Instr → Bool
  | .fadd _ | .fsub _ | .fmul _ | .ffma _ | .fmin _ | .fmax _ | .fcmp _ | .fcvt _ | .fdiv _ | .fsqrt _ | .sfn _
  | .padd2 _ | .pmul2 _ | .pfma2 _ => true
  | .redl x => laneFloat x.op
  | .scanl x => laneFloat x.op
  | .atom x => match x.op with
    | .fadd _ => true
    | _ => false
  | _ => false

/-- The instruction can set a flag in ISTAT (R130, R215). -/
def setsIstat : Instr → Bool
  | .div _ | .rem _ => true
  | _ => false

/-- The instruction is an MTS of the register with this number. -/
def mtsOf (r : Nat) : Instr → Bool
  | .mts _ n _ => n.toNat == r
  | _ => false

/-- Level that the instruction needs, 0 U, 1 A, 2 K, where its privilege check fails first (R177, R197). -/
def levelOf : Instr → Nat
  | .eretRetry _ _ | .eretSkip _ _ | .eretRedir _ _ _ | .ctxsave _ _ _ _ | .ctxsaveFull _ _ _ _ | .ctxload _ _ _
  | .ctxsw _ _ | .tlbiCtx _ _ | .tlbiPart _ _ | .tlbiPage _ _ _ | .tlbiGrain _ _ _ _ => 1
  | .placew _ _ _ _ => 2
  | .mfs _ _ n => if n = 0x200 then 2 else if 0x100 ≤ n.toNat then 1 else 0
  | .mfsAevt _ _ | .mtsApool _ _ => 1
  | .mts _ n _ => if n = 0x200 then 2 else if n.toNat ∈ [0x22, 0x23, 0x25, 0x40] then 1 else 0
  | _ => 0

/-- BRA, BRX, CALL, RET, EXIT and ERET stand only as the last word of a block (R172). -/
def endsBlock : Instr → Bool
  | .bra _ _ | .brx _ _ | .call _ _ _ | .ret _ _ | .exit _ | .eretRetry _ _ | .eretSkip _ _ | .eretRedir _ _ _ => true
  | _ => false

/-- A 64-bit operand makes the instruction hold its pipeline for two tile cycles (Table 9.1, Table 10.1). -/
def wideOcc : Instr → Bool
  | .mul x | .mulh x => x.ty.regs == 2
  | .mulI x => x.ty.regs == 2
  | .mad x => x.ty.regs == 2
  | .fadd x | .fsub x | .fmul x => x.ty.regs == 2
  | .ffma x => x.ty.regs == 2
  | .fmin x | .fmax x => x.ty.regs == 2
  | .fcmp x => x.ty.regs == 2
  | .fcvt x => x.td.regs == 2 || x.ts.regs == 2
  | .fclass x => x.ty.regs == 2
  | .ld x => x.w == .b128
  | .st x => x.w == .b128
  | .atom x => x.op.regs == 4
  | _ => false

/-- The unit besides its pipeline that the instruction holds, 2 the divide path, 4 the special function unit, and for how
many tile cycles (R212, R227). -/
def execUnit : Instr → Option (Nat × Nat)
  | .div x | .rem x => some (2, if x.ty.regs = 2 then 16 else 8)
  | .fdiv x => some (2, if x.ty.regs = 2 then 16 else 8)
  | .fsqrt x => some (2, if x.ty.regs = 2 then 16 else 8)
  | .sfn x => some (4, if scalarPath x.d [x.a] then 1 else 4)
  | _ => none

end Sys2Proof.Machine
end

