-- ==== Sys2Proof/Machine/Dispatch.lean ====
section
/-! DEFINITION. One arm for each instruction and event: the call of its meaning. -/

namespace Sys2Proof.Machine

def exec (i : Instr) (s : State) : Host.Outcome State Fault Refusal :=
  match i with
  | .nop c => Sys2Proof.Machine.execNop c s
  | .bra c off => Sys2Proof.Machine.execBra c off s
  | .brx c tgt => Sys2Proof.Machine.execBrx c tgt s
  | .call c link off => Sys2Proof.Machine.execCall c link off s
  | .ret c tgt => Sys2Proof.Machine.execRet c tgt s
  | .exit c => Sys2Proof.Machine.execExit c s
  | .yield c => Sys2Proof.Machine.execYield c s
  | .trap c code => Sys2Proof.Machine.execTrap c code s
  | .trapRet c => Sys2Proof.Machine.execTrapRet c s
  | .eretRetry c sel => Sys2Proof.Machine.execEretRetry c sel s
  | .eretSkip c sel => Sys2Proof.Machine.execEretSkip c sel s
  | .eretRedir c sel t => Sys2Proof.Machine.execEretRedir c sel t s
  | .mfs c d n => Sys2Proof.Machine.execMfs c d n s
  | .mfsAevt c d => Sys2Proof.Machine.execMfsAevt c d s
  | .mts c n a => Sys2Proof.Machine.execMts c n a s
  | .mtsApool c a => Sys2Proof.Machine.execMtsApool c a s
  | .mtsPmc c j a => Sys2Proof.Machine.execMtsPmc c j a s
  | .evt c n => Sys2Proof.Machine.execEvt c n s
  | .evtH c n a => Sys2Proof.Machine.execEvtH c n a s
  | .frz c idx mask t off => Sys2Proof.Machine.execFrz c idx mask t off s
  | .stamp c t base n => Sys2Proof.Machine.execStamp c t base n s
  | .spawn c t idx => Sys2Proof.Machine.execSpawn c t idx s
  | .spawnRem c t idx place => Sys2Proof.Machine.execSpawnRem c t idx place s
  | .ctxsave c d sel a => Sys2Proof.Machine.execCtxsave c d sel a s
  | .ctxsaveFull c d sel a => Sys2Proof.Machine.execCtxsaveFull c d sel a s
  | .ctxload c sel a => Sys2Proof.Machine.execCtxload c sel a s
  | .ctxsw c sel => Sys2Proof.Machine.execCtxsw c sel s
  | .tlbiCtx c bcast => Sys2Proof.Machine.execTlbiCtx c bcast s
  | .tlbiPart c bcast => Sys2Proof.Machine.execTlbiPart c bcast s
  | .tlbiPage c a bcast => Sys2Proof.Machine.execTlbiPage c a bcast s
  | .tlbiGrain c a t bcast => Sys2Proof.Machine.execTlbiGrain c a t bcast s
  | .placew c d a b => Sys2Proof.Machine.execPlacew c d a b s
  | .add x => Sys2Proof.Machine.execAdd x s
  | .addI x => Sys2Proof.Machine.execAddI x s
  | .sub x => Sys2Proof.Machine.execSub x s
  | .subI x => Sys2Proof.Machine.execSubI x s
  | .mul x => Sys2Proof.Machine.execMul x s
  | .mulI x => Sys2Proof.Machine.execMulI x s
  | .mulh x => Sys2Proof.Machine.execMulh x s
  | .mad x => Sys2Proof.Machine.execMad x s
  | .div x => Sys2Proof.Machine.execDiv x s
  | .rem x => Sys2Proof.Machine.execRem x s
  | .min x => Sys2Proof.Machine.execMin x s
  | .minI x => Sys2Proof.Machine.execMinI x s
  | .max x => Sys2Proof.Machine.execMax x s
  | .maxI x => Sys2Proof.Machine.execMaxI x s
  | .abs x => Sys2Proof.Machine.execAbs x s
  | .neg x => Sys2Proof.Machine.execNeg x s
  | .and x => Sys2Proof.Machine.execAnd x s
  | .andI x => Sys2Proof.Machine.execAndI x s
  | .or x => Sys2Proof.Machine.execOr x s
  | .orI x => Sys2Proof.Machine.execOrI x s
  | .xor x => Sys2Proof.Machine.execXor x s
  | .xorI x => Sys2Proof.Machine.execXorI x s
  | .not x => Sys2Proof.Machine.execNot x s
  | .shl x => Sys2Proof.Machine.execShl x s
  | .shlI x => Sys2Proof.Machine.execShlI x s
  | .shr x => Sys2Proof.Machine.execShr x s
  | .shrI x => Sys2Proof.Machine.execShrI x s
  | .sar x => Sys2Proof.Machine.execSar x s
  | .sarI x => Sys2Proof.Machine.execSarI x s
  | .rot x => Sys2Proof.Machine.execRot x s
  | .rotI x => Sys2Proof.Machine.execRotI x s
  | .popc x => Sys2Proof.Machine.execPopc x s
  | .clz x => Sys2Proof.Machine.execClz x s
  | .brev x => Sys2Proof.Machine.execBrev x s
  | .bfx x => Sys2Proof.Machine.execBfx x s
  | .bfi x => Sys2Proof.Machine.execBfi x s
  | .lea x => Sys2Proof.Machine.execLea x s
  | .leaI x => Sys2Proof.Machine.execLeaI x s
  | .mov x => Sys2Proof.Machine.execMov x s
  | .movi x => Sys2Proof.Machine.execMovi x s
  | .sel x => Sys2Proof.Machine.execSel x s
  | .cmp x => Sys2Proof.Machine.execCmp x s
  | .cmpI x => Sys2Proof.Machine.execCmpI x s
  | .pand x => Sys2Proof.Machine.execPand x s
  | .por x => Sys2Proof.Machine.execPor x s
  | .pxor x => Sys2Proof.Machine.execPxor x s
  | .pnot x => Sys2Proof.Machine.execPnot x s
  | .fadd x => Sys2Proof.Machine.execFadd x s
  | .fsub x => Sys2Proof.Machine.execFsub x s
  | .fmul x => Sys2Proof.Machine.execFmul x s
  | .ffma x => Sys2Proof.Machine.execFfma x s
  | .fmin x => Sys2Proof.Machine.execFmin x s
  | .fmax x => Sys2Proof.Machine.execFmax x s
  | .fcmp x => Sys2Proof.Machine.execFcmp x s
  | .fcvt x => Sys2Proof.Machine.execFcvt x s
  | .fclass x => Sys2Proof.Machine.execFclass x s
  | .fdiv x => Sys2Proof.Machine.execFdiv x s
  | .fsqrt x => Sys2Proof.Machine.execFsqrt x s
  | .sfn x => Sys2Proof.Machine.execSfn x s
  | .padd2 x => Sys2Proof.Machine.execPadd2 x s
  | .pmul2 x => Sys2Proof.Machine.execPmul2 x s
  | .pfma2 x => Sys2Proof.Machine.execPfma2 x s
  | .shfl x => Sys2Proof.Machine.execShfl x s
  | .redl x => Sys2Proof.Machine.execRedl x s
  | .scanl x => Sys2Proof.Machine.execScanl x s
  | .vote x => Sys2Proof.Machine.execVote x s
  | .ld x => Sys2Proof.Machine.execLd x s
  | .st x => Sys2Proof.Machine.execSt x s
  | .pref x => Sys2Proof.Machine.execPref x s
  | .ldf x => Sys2Proof.Machine.execLdf x s
  | .ste x => Sys2Proof.Machine.execSte x s
  | .stf x => Sys2Proof.Machine.execStf x s
  | .setfe x => Sys2Proof.Machine.execSetfe x s
  | .atom x => Sys2Proof.Machine.execAtom x s
  | .red x => Sys2Proof.Machine.execRed x s
  | .gth x => Sys2Proof.Machine.execGth x s
  | .fenceR c sel => Sys2Proof.Machine.execFenceR c sel s
  | .fenceA c sel => Sys2Proof.Machine.execFenceA c sel s
  | .fenceAr c sel => Sys2Proof.Machine.execFenceAr c sel s
  | .barT c => Sys2Proof.Machine.execBarT c s
  | .barC c => Sys2Proof.Machine.execBarC c s
  | .own x => Sys2Proof.Machine.execOwn x s
  | .waito x => Sys2Proof.Machine.execWaito x s
  | .cpyG2s x => Sys2Proof.Machine.execCpyG2s x s
  | .cpyS2g x => Sys2Proof.Machine.execCpyS2g x s
  | .cpyS2r x => Sys2Proof.Machine.execCpyS2r x s
  | .cpyR2s x => Sys2Proof.Machine.execCpyR2s x s
  | .fillS x => Sys2Proof.Machine.execFillS x s
  | .fillG x => Sys2Proof.Machine.execFillG x s
  | .gangset c m n => Sys2Proof.Machine.execGangset c m n s
  | .lds x => Sys2Proof.Machine.execLds x s
  | .ldsSlab x => Sys2Proof.Machine.execLdsSlab x s
  | .swp c g => Sys2Proof.Machine.execSwp c g s
  | .swpFree c g => Sys2Proof.Machine.execSwpFree c g s
  | .mma x => Sys2Proof.Machine.execMma x s
  | .accz c row n => Sys2Proof.Machine.execAccz c row n s
  | .acczFree c row n => Sys2Proof.Machine.execAcczFree c row n s
  | .accrd c d x => Sys2Proof.Machine.execAccrd c d x s
  | .accwr c x b => Sys2Proof.Machine.execAccwr c x b s
  | .accst x => Sys2Proof.Machine.execAccst x s
  | .accscl x => Sys2Proof.Machine.execAccscl x s
  | .doorbell tag q value tbit => Sys2Proof.Machine.execDoorbell tag q value tbit s
  | .packetAtHead ifn => Sys2Proof.Machine.execPacketAtHead ifn s
  | .waitSignalReread ifn => Sys2Proof.Machine.execWaitSignalReread ifn s
  | .admitLaunch tag => Sys2Proof.Machine.execAdmitLaunch tag s
  | .admitCopy tag => Sys2Proof.Machine.execAdmitCopy tag s
  | .copyPacketComplete ifn => Sys2Proof.Machine.execCopyPacketComplete ifn s
  | .admitSignal tag => Sys2Proof.Machine.execAdmitSignal tag s
  | .admitWait tag => Sys2Proof.Machine.execAdmitWait tag s
  | .admitTimestamp tag => Sys2Proof.Machine.execAdmitTimestamp tag s
  | .admitNop tag => Sys2Proof.Machine.execAdmitNop tag s
  | .qcbWriteback ifn => Sys2Proof.Machine.execQcbWriteback ifn s
  | .agentClaim tile => Sys2Proof.Machine.execAgentClaim tile s
  | .clusterReservation tile anchor seq c => Sys2Proof.Machine.execClusterReservation tile anchor seq c s
  | .clusterReservationGrant tile => Sys2Proof.Machine.execClusterReservationGrant tile s
  | .clusterBuild anchor seq c => Sys2Proof.Machine.execClusterBuild anchor seq c s
  | .stampedGroupLaunch tile team => Sys2Proof.Machine.execStampedGroupLaunch tile team s
  | .binItemAccept tile => Sys2Proof.Machine.execBinItemAccept tile s
  | .binGroupLaunch tile => Sys2Proof.Machine.execBinGroupLaunch tile s
  | .teamEnd tile team => Sys2Proof.Machine.execTeamEnd tile team s
  | .groupPark tile slot => Sys2Proof.Machine.execGroupPark tile slot s
  | .shadowLoaded tile cslot => Sys2Proof.Machine.execShadowLoaded tile cslot s
  | .lendTile tile borrower place force => Sys2Proof.Machine.execLendTile tile borrower place force s
  | .recallTile tile force => Sys2Proof.Machine.execRecallTile tile force s
  | .l1Fill req => Sys2Proof.Machine.execL1Fill req s
  | .loadResponse req => Sys2Proof.Machine.execLoadResponse req s
  | .sliceRead req => Sys2Proof.Machine.execSliceRead req s
  | .sliceStoreApply req => Sys2Proof.Machine.execSliceStoreApply req s
  | .sliceAtomicApply req => Sys2Proof.Machine.execSliceAtomicApply req s
  | .sliceGather req => Sys2Proof.Machine.execSliceGather req s
  | .storeAck req => Sys2Proof.Machine.execStoreAck req s
  | .atomResponse req => Sys2Proof.Machine.execAtomResponse req s
  | .pageWalk walk => Sys2Proof.Machine.execPageWalk walk s
  | .walkComplete walk => Sys2Proof.Machine.execWalkComplete walk s
  | .fenceWaitEnd tile slot lane => Sys2Proof.Machine.execFenceWaitEnd tile slot lane s
  | .remoteScratchpadRequest req => Sys2Proof.Machine.execRemoteScratchpadRequest req s
  | .feRequestServed tile team word => Sys2Proof.Machine.execFeRequestServed tile team word s
  | .barrierComplete tile team cluster => Sys2Proof.Machine.execBarrierComplete tile team cluster s
  | .copyEngineCommand tile => Sys2Proof.Machine.execCopyEngineCommand tile s
  | .engineFlipBack tile array => Sys2Proof.Machine.execEngineFlipBack tile array s
  | .arrayLdsRun tile => Sys2Proof.Machine.execArrayLdsRun tile s
  | .arraySwpRun tile => Sys2Proof.Machine.execArraySwpRun tile s
  | .arrayMmaRun tile => Sys2Proof.Machine.execArrayMmaRun tile s
  | .gangRendezvous tile team seq => Sys2Proof.Machine.execGangRendezvous tile team seq s
  | .engineEccError tile array src info => Sys2Proof.Machine.execEngineEccError tile array src info s
  | .trapDeliver tile slot => Sys2Proof.Machine.execTrapDeliver tile slot s
  | .abortPortWrite tag ctx value => Sys2Proof.Machine.execAbortPortWrite tag ctx value s
  | .abortNotice tile tag ctx seq => Sys2Proof.Machine.execAbortNotice tile tag ctx seq s
  | .abortComplete tag ctx seq => Sys2Proof.Machine.execAbortComplete tag ctx seq s
  | .counterOverflow tile cslot n => Sys2Proof.Machine.execCounterOverflow tile cslot n s
  | .contextBlockWrite tag ctx off value size user tbit => Sys2Proof.Machine.execContextBlockWrite tag ctx off value size user tbit s
  | .clockStepDown field temps => Sys2Proof.Machine.execClockStepDown field temps s
  | .clockStepUp field temps => Sys2Proof.Machine.execClockStepUp field temps s
  | .thermalStop field temps => Sys2Proof.Machine.execThermalStop field temps s
  | .sensorDisagree field sensor temps => Sys2Proof.Machine.execSensorDisagree field sensor temps s
  | .moduleFatal cause field => Sys2Proof.Machine.execModuleFatal cause field s
  | .partitionCut x => Sys2Proof.Machine.execPartitionCut x s
  | .partitionSet tag x => Sys2Proof.Machine.execPartitionSet tag x s
  | .partitionGrow tag tiles places => Sys2Proof.Machine.execPartitionGrow tag tiles places s
  | .partitionShrink tag tiles force => Sys2Proof.Machine.execPartitionShrink tag tiles force s
  | .partitionCompact tag moves => Sys2Proof.Machine.execPartitionCompact tag moves s
  | .partitionReset tag => Sys2Proof.Machine.execPartitionReset tag s
  | .migrate tag phase x => Sys2Proof.Machine.execMigrate tag phase x s
  | .migrationKeyTransfer tag => Sys2Proof.Machine.execMigrationKeyTransfer tag s
  | .migrationRunConfirm tag => Sys2Proof.Machine.execMigrationRunConfirm tag s
  | .peerAccessRemote x => Sys2Proof.Machine.execPeerAccessRemote x s
  | .tileRetire tile new => Sys2Proof.Machine.execTileRetire tile new s
  | .repair u => Sys2Proof.Machine.execRepair u s
  | .ownerWeightSet owner weight => Sys2Proof.Machine.execOwnerWeightSet owner weight s
  | .ownerRelease owner => Sys2Proof.Machine.execOwnerRelease owner s
  | .queuePrivilegedWrite ifn x => Sys2Proof.Machine.execQueuePrivilegedWrite ifn x s
  | .linkFlitSend link waiting flitNs => Sys2Proof.Machine.execLinkFlitSend link waiting flitNs s
  | .jarletLinkTrain port off => Sys2Proof.Machine.execJarletLinkTrain port off s
  | .jarletFlitReceive port x => Sys2Proof.Machine.execJarletFlitReceive port x s
  | .jarletKeyUpdate port dir => Sys2Proof.Machine.execJarletKeyUpdate port dir s
  | .routerPacketReceive tile x => Sys2Proof.Machine.execRouterPacketReceive tile x s
  | .dropResponse req => Sys2Proof.Machine.execDropResponse req s
  | .dropRecordPost tile tag ctx => Sys2Proof.Machine.execDropRecordPost tile tag ctx s
  | .sharedStructureError st field unit => Sys2Proof.Machine.execSharedStructureError st field unit s
  | .timeBeacon field skew => Sys2Proof.Machine.execTimeBeacon field skew s
  | .energyAttribution activity measured => Sys2Proof.Machine.execEnergyAttribution activity measured s
  | .challenge nonce => Sys2Proof.Machine.execChallenge nonce s
  | .measurements sess index => Sys2Proof.Machine.execMeasurements sess index s
  | .keyExchange sess => Sys2Proof.Machine.execKeyExchange sess s
  | .securedMessageFail sess => Sys2Proof.Machine.execSecuredMessageFail sess s
  | .lockInterface ifn sess => Sys2Proof.Machine.execLockInterface ifn sess s
  | .startInterface ifn sess => Sys2Proof.Machine.execStartInterface ifn sess s
  | .stopInterface ifn sess => Sys2Proof.Machine.execStopInterface ifn sess s
  | .getDeviceInterfaceReport ifn sess => Sys2Proof.Machine.execGetDeviceInterfaceReport ifn sess s
  | .keySet sess slot clear key wdid => Sys2Proof.Machine.execKeySet sess slot clear key wdid s
  | .keyErase sess slot => Sys2Proof.Machine.execKeyErase sess slot s
  | .keyQuery sess => Sys2Proof.Machine.execKeyQuery sess s
  | .keyEscrow sess key => Sys2Proof.Machine.execKeyEscrow sess key s
  | .keyImport sess blob kb => Sys2Proof.Machine.execKeyImport sess blob kb s
  | .ideKm sess link stream tag key => Sys2Proof.Machine.execIdeKm sess link stream tag key s
  | .ideIntegrityFail link stream => Sys2Proof.Machine.execIdeIntegrityFail link stream s
  | .lockedItemWrite ifn off requester => Sys2Proof.Machine.execLockedItemWrite ifn off requester s
  | .lockedRangeRead ifn off requester => Sys2Proof.Machine.execLockedRangeRead ifn off requester s
  | .functionLevelReset tag => Sys2Proof.Machine.execFunctionLevelReset tag s
  | .atsInvalidation tag pasid page => Sys2Proof.Machine.execAtsInvalidation tag pasid page s
  | .registerWrite tile reg value => Sys2Proof.Machine.execRegisterWrite tile reg value s
  | .instructionComplete tile slot iid => Sys2Proof.Machine.execInstructionComplete tile slot iid s
  | .partitionPause tag => Sys2Proof.Machine.execPartitionPause tag s
  | .partitionResume tag wall d => Sys2Proof.Machine.execPartitionResume tag wall d s
  | .peerWindowMap tag w module rtag rbase size write => Sys2Proof.Machine.execPeerWindowMap tag w module rtag rbase size write s
  | .quiesceStepOverrun op tag tile => Sys2Proof.Machine.execQuiesceStepOverrun op tag tile s
  | .atsPriResponse ifn ok page => Sys2Proof.Machine.execAtsPriResponse ifn ok page s
  | .hostErrorCompletion ifn addr => Sys2Proof.Machine.execHostErrorCompletion ifn addr s
  | .endSession sess => Sys2Proof.Machine.execEndSession sess s
  | .jarletKeyAgreement port ok => Sys2Proof.Machine.execJarletKeyAgreement port ok s
  | .migrationReceiptAck tag => Sys2Proof.Machine.execMigrationReceiptAck tag s
  | .migrationApproval tag => Sys2Proof.Machine.execMigrationApproval tag s
  | .interruptModerationExpire => Sys2Proof.Machine.execInterruptModerationExpire s
  | .binTimerExpire => Sys2Proof.Machine.execBinTimerExpire s
  | .preemptionTimeout => Sys2Proof.Machine.execPreemptionTimeout s
  | .recallStepOverrun => Sys2Proof.Machine.execRecallStepOverrun s
  | .fewaitTimeout => Sys2Proof.Machine.execFewaitTimeout s
  | .gangTimeout => Sys2Proof.Machine.execGangTimeout s
  | .spawnWaitTimeout => Sys2Proof.Machine.execSpawnWaitTimeout s
  | .clockStepDeferred => Sys2Proof.Machine.execClockStepDeferred s
  | .clockHaltResume => Sys2Proof.Machine.execClockHaltResume s
  | .migrationConfirmTimeout => Sys2Proof.Machine.execMigrationConfirmTimeout s
  | .peerForwardExpire => Sys2Proof.Machine.execPeerForwardExpire s
  | .timeBeaconMissing => Sys2Proof.Machine.execTimeBeaconMissing s
  | .atsDrainTimeout => Sys2Proof.Machine.execAtsDrainTimeout s
  | .wtimeCounterMismatch => Sys2Proof.Machine.execWtimeCounterMismatch s
  | .hostFlushCompletion => Sys2Proof.Machine.execHostFlushCompletion s
  | .jarletPortDown => Sys2Proof.Machine.execJarletPortDown s
  | .forcedRecall => Sys2Proof.Machine.execForcedRecall s
  | .planeRelease => Sys2Proof.Machine.execPlaneRelease s
  | .tableRewrite => Sys2Proof.Machine.execTableRewrite s
  | .restoreListLoad => Sys2Proof.Machine.execRestoreListLoad s
  | .sliceBoundary => Sys2Proof.Machine.execSliceBoundary s
  | .backwardBranchHandoff => Sys2Proof.Machine.execBackwardBranchHandoff s
  | .poolSegmentExchange => Sys2Proof.Machine.execPoolSegmentExchange s
  | .accuracyTick => Sys2Proof.Machine.execAccuracyTick s
  | .moduleReset => Sys2Proof.Machine.execModuleReset s
  | .powerLoss => Sys2Proof.Machine.execPowerLoss s
  | .slotTableBoundary => Sys2Proof.Machine.execSlotTableBoundary s
  | .scrubPass => Sys2Proof.Machine.execScrubPass s
  | .lifetimeFold => Sys2Proof.Machine.execLifetimeFold s

end Sys2Proof.Machine
end

