-- ==== Sys2Proof/Machine/Issue.lean ====
section
/-! DEFINITION. Issue: the subset of a group (R27, R32), the landing at a header (R171, R172), the fetch of a word (R178),
the interlocks (R137, R155, R156, R169, R191, R230), the checking scoreboard (R170, R358), register errors (R374), and the
turns of the module. -/

namespace Sys2Proof.Machine

/-! ## Which group may issue (R19, R61, R62, R67, R155, R156) -/

/-- The tile cycle is past the time from which a unit of the tile is free (R212). -/
def Tile.unitFree (T : Tile) (u cyc : Nat) : Bool := decide ((amGet T.pipes u).getD 0 ≤ cyc)

/-- Nothing outside the group keeps it from issuing: its field runs, its tile is not quiesced, its context is active, its
team's cluster is built, and it is neither parked nor stopped. -/
def State.mayRun (s : State) (t g : Nat) : Bool :=
  let T := s.tile t
  let F := s.field (fieldOf t)
  let G := T.group g
  G.live && !G.parked && !G.stopped && !T.dead && !s.haltedAt t && !F.stopped && !F.wtHalt &&
    (if g = 32 then !T.agentStop
     else (T.quiesce == .none || T.quiesce == .preempting) && (T.slot T.act).st == .active &&
       ((T.team G.team).map (·.started)).getD false)

/-- The group's next instruction may issue in this tile cycle: its stall count has run out, no drain is outstanding and
its pipeline is free (R61, R155, R156). -/
def State.groupReady (s : State) (t g : Nat) : Bool :=
  let T := s.tile t
  let G := T.group g
  let cyc := s.cycle t
  s.mayRun t g && decide (G.nextCyc ≤ cyc) && !(G.out.any fun o => o.tag == 7) && T.unitFree (g % 2) cyc

/-! ## The subset (R27, R32) -/

/-- The lane that R27 starts from: the hand-off lane, or the lowest eligible one. -/
def Group.leadLane (g : Group) : Option Nat :=
  match g.hand with
  | some l => if g.eligible l then some l else (List.range 32).find? g.eligible
  | none => (List.range 32).find? g.eligible

/-- Selection: a hand-off ends with its lane, and the count of backward branches with the selection (R32). -/
def Group.select (g : Group) : Group :=
  let lead := g.leadLane
  { g with
    hand := g.hand.bind fun l => if g.eligible l then some l else none
    sel := lead, bcount := if g.sel = lead then g.bcount else 0 }

/-- A lane that issue can take: eligible, and not inside an instruction that waits (R5). -/
def Group.free (g : Group) (l : Nat) : Bool := g.eligible l && (g.lane l).wait == .none

/-- Two lanes stand at one address, both at its landing or both inside the open block. -/
def Group.together (g : Group) (l m : Nat) : Bool := (g.lane l).pc == (g.lane m).pc && (g.lane l).entry == (g.lane m).entry

/-- The subset of a lane (R27). -/
def Group.subsetOf (g : Group) (l : Nat) : BitVec 32 := maskOf ((List.range 32).filter fun m => g.free m && g.together l m)

/-- The subsets in the order in which they are tried: the selected one, then by lowest lane (R27). -/
def Group.subsets (g : Group) : List (BitVec 32) :=
  let heads := (List.range 32).filter fun l => g.free l && !(List.range l).any fun m => g.free m && g.together l m
  let first (l : Nat) : Bool := match g.sel with
    | some k => g.together k l
    | none => false
  ((heads.filter first) ++ (heads.filter fun l => !first l)).map g.subsetOf

/-! ## Landing (R156, R171, R172) -/

/-- What an attempt to issue gives: the turn is used, or the subset cannot issue now. -/
inductive Try where
  | used (r : Res)
  | pass (s : State)

/-- A tag records nothing, and lost its last entry in an earlier tile cycle (R156). -/
def Group.tagClear (g : Group) (cyc i : Nat) : Bool :=
  !(g.out.any fun o => o.tag == i) && !g.lost.any fun x => x.2.1 == i && decide (cyc ≤ x.1)

/-- A fetch fault (R178, Table 16.3): every cause is 6, and a stage-two one is logged (R370). -/
def State.fetchTrap (s : State) (two : Bool) (lvl ppa : Nat) : State :=
  let s := s.modG fun g => { g with walkAns := [] }
  (if two then s.logFault s.T.tag ppa else s).trapAll .xlate 6 s.cur.pc (lvl + if two then 8 else 0)

/-- The lanes of the subset enter the block of a header. -/
def Lane.enterBlock (L : Lane) (h : Header) : Lane :=
  { L with hdr := L.pc, roff := h.recon, nochk := h.nochk, pc := (L.pc + 8) % 2 ^ 56, left := h.len, entry := false,
           via := .fall, src := 0 }

/-- The fetch of the subset's next word starts a walk, for which it waits; what it then decodes counts from there (R61). -/
def State.fetchMiss (s : State) (pc : Nat) : State :=
  let s := s.modG fun g => { g with decCyc := s.cycle s.cur.tile }
  (s.startWalk s.cur.tile s.cur.slot pc .execute).hold .walk

/-- The subset stands at a landing: the word there must be a well-formed header that admits it (R171, R172); its ENTRY
bits wait for their tags (R156); a marked group parks at a preemptible one (R67). Of a header that a skip passes only LEN
takes effect (R192). An address above 2^56 faults as an address (R76). -/
def State.land (s : State) : Try :=
  let t := s.cur.tile
  let g := s.cur.slot
  let pc := s.cur.pc
  if 2 ^ 56 ≤ pc then .used (.next (s.trapAll .xlate 1 pc 0))
  else match s.fetch t g pc with
  | .miss => .pass (s.fetchMiss pc)
  | .fault two lvl ppa => .used (.next (s.fetchTrap two lvl ppa))
  | .word w =>
    let s := { s with cur := { s.cur with word := w } }
    let G := s.G
    let lanes := lanesOf s.cur.sub
    if !isHeader w then .used (.next (s.trapAll .ill 5 (G.lane (lanes.headD 0)).src 0))
    else if (G.lane (lanes.headD 0)).hskip then
      .pass (s.modG fun G => (G.modMask s.cur.sub fun L => L.passHeader (fld w.toNat 48 8)).settle 17)
    else match decodeHeader w with
    | none => .used (.next (s.trapAll .ill 4 0 0))
    | some h =>
      if lanes.any fun l => ((G.lane l).via == .call && !h.calle) || ((G.lane l).via == .template && !h.tentry) then
        .used (.next (s.trapAll .ill 6 pc 0))
      else if (List.range 6).any fun i => tbit h.entry i && !G.tagClear (s.cycle t) (i + 1) then .pass s
      else if (s.canPark t g).isSome then .used (execGroupPark t g s)
      else .pass (s.modG fun G => G.modMask s.cur.sub fun L => L.enterBlock h)

/-! ## Interlocks (R137, R156, R169, R230) -/

/-- The writer's address of a write to a register of a lane that is still pending (R169). -/
def Group.pendingAt (g : Group) (cyc l code : Nat) : Option Nat :=
  let key := (hazLane l code, code)
  match g.haz.find? fun h => decide (cyc < h.ready) && h.old.any fun x => (x.1, x.2.1) == key with
  | some h => some h.pc
  | none => (g.out.find? fun o => o.dst.contains key).map (·.pc)

/-- Entries of a tag, as the instructions issued after each: those it records, and those it has lost in this tile cycle, whose
waiters go on in the next one (R156). -/
def Group.entries (g : Group) (cyc i : Nat) : List Nat :=
  ((g.out.filter fun o => o.tag == i).map (·.younger)) ++
    (g.lost.filter fun x => x.2.1 == i && decide (cyc ≤ x.1)).map (·.2.2)

/-- The tags let an instruction issue: fewer than 7 records under its own, and its wait is over (R156). -/
def Group.tagsAllow (g : Group) (cyc : Nat) (c : Ctl) : Bool :=
  let own := c.set.val = 0 || c.set.val = 7 || decide ((g.entries cyc c.set.val).length < 7)
  let wait :=
    if c.wtag.val = 0 then true
    else if c.wtag.val = 7 then (List.range 6).all fun i => g.tagClear cyc (i + 1)
    else if c.wleft.val = 0 then g.tagClear cyc c.wtag.val
    else (g.entries cyc c.wtag.val).all fun n => decide (n < c.wleft.val)
  own && wait

/-- No destination of the instruction has a write pending in the subset (R169), and no source register of a SHFL in any
lane (R230). -/
def Group.writesDone (g : Group) (cyc : Nat) (lanes : List Nat) (i : Instr) : Bool :=
  (codesOf (dstsOf i)).all (fun r => lanes.all fun l => (g.pendingAt cyc l r).isNone) &&
    (match i with
      | .shfl x => (codesOf [(x.a, if x.wide then 2 else 1)]).all fun r =>
          (List.range 32).all fun l => (g.pendingAt cyc l r).isNone
      | _ => true)

/-- No FRZ of the group that has not completed stands before its STAMP or SPAWN (R191). -/
def Group.frzDone (g : Group) (i : Instr) : Bool :=
  !((match i with
    | .stamp _ _ _ _ | .spawn _ _ _ | .spawnRem _ _ _ _ => true
    | _ => false) && g.out.any fun o => o.kind / 32 % 2 == 1)

/-- No MFS of FPS or ISTAT that has not read stands before an instruction that sets a flag of it, or an MTS to it (R137). -/
def Group.flagsFree (g : Group) (i : Instr) : Bool :=
  !((setsFps i || mtsOf 0x20 i) && g.out.any fun o => o.kind / 8 % 2 == 1) &&
    !((setsIstat i || mtsOf 0x21 i) && g.out.any fun o => o.kind / 16 % 2 == 1)

/-- Every interlock lets the issuing subset's instruction issue in this tile cycle, and the v registers that it names are back
in the pool (R70). -/
def State.allows (s : State) (c : Ctl) (i : Instr) : Bool :=
  let G := s.G
  let cyc := s.cycle s.cur.tile
  G.tagsAllow cyc c && G.writesDone cyc (lanesOf s.cur.sub) i && G.flagsFree i && G.frzDone i &&
    (!usesV i || s.T.regsHere s.cur.slot) &&
    (match execUnit i with
      | some u => s.T.unitFree (u.1 + s.cur.slot % 2) cyc
      | none => true)

/-! ## The checking scoreboard (R170, R358) -/

/-- The registers that the instruction reads in an active lane: its sources, and for the lane of a FRZ the private v registers
of its mask, k0 to k31 and p1 to p7 too (R40). -/
def State.readsOf (s : State) (c : Ctl) (i : Instr) (l : Nat) : List Nat :=
  codesOf (srcsOf i) ++ (match i with
    | .frz _ idx m _ _ =>
      if (s.active c).head? = some l then
        ((List.range 128).filter fun r => tbit (s.src l m 4) r && r != idx.val && !bit (s.G.lane l).back r) ++
          (List.range 32).map (128 + ·) ++ (List.range 7).map (161 + ·)
      else []
    | _ => [])

/-- The first lane and register that the instruction reads unguarded, with the writer's address: the guard predicate in the
lanes of the subset, then what it reads in the active lanes. -/
def State.unguarded (s : State) (c : Ctl) (i : Instr) : Option (Nat × Nat × Nat) :=
  let G := s.G
  let cyc := s.cycle s.cur.tile
  let at_ (l : Nat) (rs : List Nat) : Option (Nat × Nat × Nat) :=
    rs.findSome? fun r => (G.pendingAt cyc l r).map fun w => (l, r, w)
  let shfl := match i with
    | .shfl _ => true
    | _ => false
  match (lanesOf s.cur.sub).findSome? fun l => at_ l (if c.pred.val = 0 then [] else [160 + c.pred.val]) with
  | some x => some x
  | none => if shfl then none else (s.active c).findSome? fun l => at_ l (s.readsOf c i l)

/-- The tile checks the instruction: the context runs in checking mode, the block is not marked NOCHK, and no privilege
check comes before (R170, Table 16.1). -/
def State.checks (s : State) (i : Instr) : Bool :=
  s.cur.slot != 32 && s.T.ctl.check && decide (levelOf i ≤ s.priv.ctorIdx) &&
    !(s.G.lane ((lanesOf s.cur.sub).headD 0)).nochk

/-! ## Register errors (R374, R376) -/

/-- Where an uncorrectable register word is entered in Tile.badWords. -/
def regKey (slot l r : Nat) : Nat := slot * 4096 + l * 128 + r

/-- The bad template that a read of a backed register reaches. -/
def Tile.badTmpl (T : Tile) : Nat → Option Nat → Nat → Option Template
  | 0, _, _ => none
  | _, none, _ => none
  | fuel + 1, some sl, i =>
    match amGet T.store sl with
    | none => none
    | some t => if bit t.link i then T.badTmpl fuel t.parent i else if t.bad then some t else none

/-- The first uncorrectable word that the sources read: lane, ECC cause, INFO1, INFO2. The offset of a bad template's word
is left open. -/
def State.badSource (s : State) (c : Ctl) (i : Instr) : Option (Nat × Nat × Nat × Nat) :=
  let T := s.T
  let act := s.active c
  let badReg (l r : Nat) : Bool :=
    decide (r < 128) && !bit (s.G.lane l).back r && T.badWords.contains (1, regKey s.cur.slot l r)
  act.findSome? fun l => (s.readsOf c i l).findSome? fun r =>
    if badReg l r then some (l, 1, r, (maskOf (act.filter fun m => badReg m r)).toNat)
    else if r < 128 && bit (s.G.lane l).back r then
      (T.badTmpl 5 (s.G.lane l).tmpl r).map fun t => (l, 2, t.num, Config.freeNat (s.free * 256 + 3))
    else none

/-! ## Execution -/

/-- The lane's instruction has issued: it has gone on, or waits for what it began. -/
def Lane.issuedTo (a b : Lane) : Bool :=
  match b.wait with
  | .none => b != a
  | .bar _ | .inst _ | .latch | .fe _ | .relBar _ _ _ | .units _ _ _ => true
  | .fence _ _ _ again => !again
  | _ => false

/-- From the state before an instruction to the state after it, the issuing subset's instruction has issued and not
trapped. -/
def State.issued (s r : State) : Bool :=
  let a := s.G
  let b := r.G
  if !b.live || b.gid != a.gid then true
  else b.traps.length == a.traps.length &&
    (decide (a.out.length < b.out.length) || (lanesOf s.cur.sub).any fun l => (a.lane l).issuedTo (b.lane l))

/-- Registers of the subset that were template-backed and have become private (R42). -/
def Group.madePrivate (a b : Group) (m : BitVec 32) : Nat :=
  ((lanesOf m).map fun l => (List.range 128).countP fun r => bit (a.lane l).back r && !bit (b.lane l).back r).foldl (· + ·) 0

/-- What issue itself changes: the group's next tile cycle (R155), the units held (R42, R212), the issue and register-copy
counts (R201), and the bad words that a full write replaces. -/
def State.afterIssue (r s : State) (c : Ctl) (i : Instr) : State :=
  let t := s.cur.tile
  let g := s.cur.slot
  let cyc := s.cycle t
  let same := r.G.live && r.G.gid == s.G.gid
  let n := if same then s.G.madePrivate r.G s.cur.sub else 0
  let occ := (if wideOcc i then 2 else 1) + (if n = 0 then 0 else 1)
  let r := r.modTile t fun T =>
    let T := { T with
      pipes := amPut 0 T.pipes (g % 2) (cyc + occ), issAt := amPut 0 T.issAt (g % 2) (cyc + 1), agentCyc := if g = 32 then some cyc else T.agentCyc
      badWords := T.badWords.filter fun w =>
        !(w.1 == 1 && (s.active c).any fun l => (codesOf (dstsOf i)).any fun k => decide (k < 128) && w.2 == regKey g l k) }
    match execUnit i with
    | some u => { T with pipes := amPut 0 T.pipes (u.1 + g % 2) (cyc + u.2) }
    | none => T
  let r := if same then r.modGroup t g fun G => { G with nextCyc := cyc + max 1 c.stall.val, decCyc := cyc + 1 } else r
  if s.priv = .user then (r.count t 2 1).count t 3 n else r

/-- The instruction is executed; an uncorrectable source word traps it last (Table 16.1). One that its condition holds under
WaitUntil leaves the turn to the next subset (R5, R27). -/
def State.perform (s : State) (c : Ctl) (i : Instr) : Try :=
  match exec i s with
  | .next r =>
    if s.issued r then
      match s.badSource c i with
      | some (l, cause, i1, i2) => .used (.next (s.trapLane l .ecc cause i1 i2))
      | none => .used (.next (r.afterIssue s c i))
    else if r.G.traps.length = s.G.traps.length then .pass r
    else .used (.next r)
  | r => .used r

/-- The decoder refuses the word: ILL with its cause and INFO1 (R176). -/
def State.illegal (s : State) (e : Ill) : State := s.trapAll .ill e.cause e.info 0

/-- The subset's word is decoded and, where nothing holds it, executed. -/
def State.runWord (s : State) (w : W64) : Try :=
  let s := { s with cur := { s.cur with word := w } }
  let L := s.G.lane ((lanesOf s.cur.sub).headD 0)
  if isHeader w then .used (.next (s.trapAll .ill 5 (s.cur.pc - 8) 0))
  else match decode (poolNv s.T.ctl.pool) w with
  | .error e => .used (.next (s.illegal e))
  | .ok i =>
    match i.ctl with
    | none => .pass s
    | some c =>
      if endsBlock i && L.left != 1 then .used (.next (s.trapAll .ill 5 s.cur.pc 0))
      else if !s.allows c i then .pass s
      else if s.checks i then
        match s.unguarded c i with
        | some (l, r, w) => .used (.next (s.raise s.cur.sub (if 128 ≤ r && r < 160 then 0xFF else l) .stall 1 r w))
        | none => s.perform c i
      else s.perform c i

/-- The next word of the subset that `State.cur` names. -/
def State.runAt (s : State) : Try :=
  match s.fetch s.cur.tile s.cur.slot s.cur.pc with
  | .miss => .pass (s.fetchMiss s.cur.pc)
  | .fault two lvl ppa => .used (.next (s.fetchTrap two lvl ppa))
  | .word w => s.runWord w

/-- One subset: it lands where it stands at a landing, and its next word is tried. -/
def State.trySubset (s : State) (t g : Nat) (sub : BitVec 32) : Try :=
  let l := (lanesOf sub).headD 0
  let L := ((s.tile t).group g).lane l
  let s := { s with cur := { tile := t, slot := g, sub := sub, pc := L.pc, word := 0 } }
  if !L.entry then s.runAt
  else match s.land with
  | .used r => .used r
  | .pass r =>
    let L := r.G.lane l
    if L.entry then .pass r
    else State.runAt { r with cur := { r.cur with pc := L.pc, word := 0 } }

/-- The subsets of a group in turn, until one uses the issue slot (R27). -/
def State.trySubsets (t g : Nat) : List (BitVec 32) → State → Try
  | [], s => .pass s
  | m :: rest, s =>
    match s.trySubset t g m with
    | .used r => .used r
    | .pass r => State.trySubsets t g rest r

/-- Lanes that wait for the planes go on where the planes are free (R264). -/
def Group.wakePlanes (G : Group) (free : Bool) : Group :=
  if free then G.mapLanes fun _ L => if L.wait = .planes then { L with wait := .none } else L else G

/-- A group's turn: its hand-off where 64 backward branches are counted (R32), then its subsets. Writes that have passed
their latency are forgotten. -/
def State.tryGroup (s : State) (t g : Nat) : Try :=
  let cyc := s.cycle t
  let free := (s.tile t).arr.holder.isNone
  let s := s.modGroup t g fun G =>
    { (G.wakePlanes free).handOffDue.select with haz := G.haz.filter fun h => decide (cyc < h.ready) }
  State.trySubsets t g ((s.tile t).group g).subsets s

/-- The group offers a candidate in this tile cycle: an instruction of a subset whose stall count, tags and unit let it issue
(R61). -/
def State.candidate (s : State) (t g : Nat) : Bool :=
  s.groupReady t g && (match s.tryGroup t g with
    | .used _ => true
    | .pass _ => false)

/-- The agent gives way: a user candidate waits on pipeline 0 and the agent has issued in the last 3 tile cycles (R62). -/
def State.agentYields (s : State) (t : Nat) : Bool :=
  match (s.tile t).agentCyc with
  | none => false
  | some c => decide (s.cycle t < c + 4) && (List.range 16).any fun i => s.candidate t (2 * i)

/-- The groups offered issue, in order, until one uses the turn. -/
def State.tryGroups : List (Nat × Nat) → State → Res
  | [], s => .next s
  | (t, g) :: rest, s =>
    if s.groupReady t g && !(g == 32 && s.agentYields t) then
      match s.tryGroup t g with
      | .used r => r
      | .pass r => State.tryGroups rest r
    else State.tryGroups rest s

/-- Which team holds the planes of the tile that the state names after a turn, if the turn has given it them. -/
def State.tookPlanes (s : State) : Res → Option (Nat × Nat × Nat)
  | .next r =>
    if (s.tile r.cur.tile).arr.holder.isNone then (r.T.arr.holder).map fun h => (r.cur.tile, r.cur.slot, h) else none
  | _ => none

/-- Put a group into an order by age: the tile cycle in which its candidate was decoded, then its slot (R61). -/
def ageInsert (x : Nat × Nat × Nat) : List (Nat × Nat × Nat) → List (Nat × Nat × Nat)
  | [] => [x]
  | y :: r => if x.2.2 < y.2.2 || (x.2.2 == y.2.2 && decide (x.2.1 ≤ y.2.1)) then x :: y :: r else y :: ageInsert x r

/-- The groups of a tile, the agent's first and then by age (R61, R62). -/
def Tile.byAge (T : Tile) (t : Nat) : List (Nat × Nat) :=
  let l := T.ctl.groups.foldl (fun (a : List (Nat × Nat × Nat)) g => if g.2.live then ageInsert (t, g.1, g.2.decCyc) a else a) []
  (if T.agent.live then [(t, 32)] else []) ++ l.map fun x => (x.1, x.2.1)

/-- The groups of the module where the schedule names none: tile by tile from one that moves on with every turn. -/
def State.allGroups (s : State) : List (Nat × Nat) :=
  let k := s.free % (s.tiles.length + 1)
  (s.tiles.drop k ++ s.tiles.take k).flatMap fun x => x.2.byAge x.1

/-- The groups of a group slot's pipeline, in the order in which their candidates issue (R61, R62). -/
def State.pipeline (s : State) (t g : Nat) : List (Nat × Nat) := ((s.tile t).byAge t).filter fun x => x.2 % 2 == g % 2

/-- A turn whose instruction takes free planes: where the other pipeline of the tile would take them for another team in this
tile cycle, from a lower group slot, that instruction issues first (R264, R283). -/
def State.planesFirst (s : State) (r : Res) : Res :=
  match s.tookPlanes r with
  | none => r
  | some (t, g, h) =>
    let q := State.tryGroups (s.pipeline t (g + 1)) s
    match s.tookPlanes q with
    | some (u, k, i) => if u = t && k < g && i ≠ h then q else r
    | none => r

/-- An issue turn: on the pipeline of the group slot that the schedule names the oldest candidate issues; where it names
none, the first in the module that can. -/
def State.issueTurn (s : State) (at_ : Option (Nat × Nat)) : Res :=
  s.planesFirst (State.tryGroups (match at_ with
    | some x => s.pipeline x.1 x.2
    | none => s.allGroups) s)

/-- Pipelines of a tile on which a candidate of the active context stands in the present tile cycle and none has issued
(event 0x0E, R201). -/
def State.idlePipes (s : State) (t : Nat) : Nat :=
  ((List.range 2).filter fun p =>
    (amGet (s.tile t).issAt p).getD 0 != s.cycle t + 1 && (List.range 16).any fun i => s.candidate t (2 * i + p)).length

/-- The tile cycles that a time spans count for event 0x0E, each for itself: the candidates of a cycle are those that its
time makes ready. -/
def State.countIdle (s : State) (units : Nat) : State :=
  s.tiles.foldl (fun (r : State) x =>
    let t := x.1
    let T := x.2
    if !(T.ctl.pms.any (pmsIs 14)) || (T.slot T.act).st ≠ .active then r
    else
      let n := State.cycle { s with now := s.now + units } t - s.cycle t
      let step := stepUnits (s.field (fieldOf t)).step
      (List.range n).foldl (fun r k =>
        r.countIn t T.act (s.cycle t + k) (pmsIs 14) (State.idlePipes { s with now := s.now + k * step } t)) r) s

/-! ## Turns -/

/-- An event happens at a place. An Epris instruction is no event: it happens by issue alone. -/
def State.event (s : State) (tile slot : Nat) (i : Instr) : Res :=
  if i.ctl.isSome then .next s else exec i { s with cur := { tile := tile, slot := slot } }

/-- Storage takes an uncorrectable error (R374, R375). Bad tables are rewritten by Keystone. -/
def State.upset (s : State) (u : Nat × Nat × Nat) : State :=
  let t := u.1
  if u.2.1 = 6 then (if s.poison.contains u.2.2 then s else { s with poison := u.2.2 :: s.poison })
  else if u.2.1 = 7 then (s.modTile t fun T => { T with tableBad := true }).pushAt t 0 .tableRewrite
  else if u.2.1 = 5 then s.modTile t fun T => match amGet T.store u.2.2 with
    | some x => { T with store := amSet T.store u.2.2 { x with bad := true } }
    | none => T
  else if 1 ≤ u.2.1 && u.2.1 ≤ 4 then
    s.modTile t fun T => if T.badWords.contains u.2 then T else { T with badWords := u.2 :: T.badWords }
  else s

/-- A fault that has failed its retry is lasting: it is counted (class 1) and goes to repair (R428). -/
def State.lasting (s : State) (f cls : Nat) (u : RepairUnit) : State := (s.tally 1 f cls 1).push [.repair u]

/-- A detected fault is classed by its retry (R428, Table 20.1): a transient one is counted (class 0) and has no other effect. A
word that is corrected again within 8 h, and a row bucket with 16 corrections in 24 h, are lasting. -/
def State.classFault (s : State) : Finding → State
  | .corrected f cls w bad u =>
    let key := cls + 16 * (f + 128 * w)
    let soon := ((amGet s.ks.corrAt key).map fun t => decide (s.wtime ≤ t + 28800000000000)).getD false
    let s1 := (s.tally 0 f cls 1).modKs fun k => { k with corrAt := amSet k.corrAt key s.wtime }
    if bad || soon then s1.lasting f cls u else s1
  | .granule g die =>
    let f := homeField (64 * g)
    let b := f * 1024 + Config.bucketOf g % 1024
    let l := s.wtime :: ((amGet s.ks.rowAt b).getD []).filter fun t => decide (s.wtime < t + 86400000000000)
    let s1 := ((s.tally 0 f 10 1).tally 2 0 b 1).modKs fun k => { k with rowAt := amSet k.rowAt b l }
    if die || decide (16 ≤ l.length) then s1.lasting f 10 (.rowBucket f (64 * g % 2 ^ 36 / 2 ^ 28)) else s1
  | .retried f cls failed u => if failed then s.lasting f cls u else s.tally 0 f cls 1

/-- What the environment does before a turn: time passes, the host writes its memory, storage takes errors and faults are
classed. -/
def State.environment (s : State) (x : Input) : State :=
  let s := ((s.countIdle x.units).elapse x.units).drawn
  let s := { s with host := x.host.foldl (fun m b => Memory.set m b.1 b.2) s.host }
  x.found.foldl State.classFault (x.upsets.foldl State.upset s)

/-- A module stopped by a module-fatal event takes a module reset or a loss of power, and nothing else (R433). -/
def State.stillTaken (s : State) (i : Instr) : Bool := s.mode == .running || i == .moduleReset || i == .powerLoss

/-- A turn that the schedule gives: the event it names, which leaves the internal steps due where it stands among them, or
an issue turn. -/
def State.turnOf (s : State) (x : Input) : Res :=
  let s := s.environment x
  match x.ev with
  | some i =>
    let p := x.at_.getD (0, 0)
    if s.stillTaken i then
      State.event { s with due := s.due.erase { tile := p.1, slot := p.2, ev := i } } p.1 p.2 i
    else .next s
  | none => if s.mode == .running then s.issueTurn x.at_ else .next s

/-- A turn where the schedule is exhausted: internal steps and issue alternate, and a tile cycle passes with each issue
turn. -/
def State.ownTurn (s : State) : Res :=
  match s.due with
  | d :: rest =>
    if s.turn = false && s.mode == .running then State.event { s.drawn with due := rest, turn := true } d.tile d.slot d.ev
    else State.turnOf { s with turn := false } { units := 3000, at_ := none, ev := none }
  | [] => State.turnOf { s with turn := false } { units := 3000, at_ := none, ev := none }

end Sys2Proof.Machine
end

