-- ==== Sys2Proof/Machine/Step.lean ====
section
/-! DEFINITION. One step of the module: the next turn of its schedule, or its own turn where the schedule is exhausted.
And how a word is placed where the next step fetches it. -/

namespace Sys2Proof.Machine

/-- One step of the module. -/
def step (s : State) : Host.Outcome State Fault Refusal :=
  match s.inputs with
  | x :: rest => State.turnOf { s with inputs := rest } x
  | [] => s.ownTurn

/-- The launch of `State.withFetchWord`. -/
def fetchLaunch : Launch :=
  { seq := 0, ifn := 0, cookie := 0, vec := 0, irq := false, owner := 0, units := 1, g := 1, cw := 1, ch := 1, image := 0
    signal := 0, listed := true, complete := false, aborted := none, awaiting := [] }

/-- The partition of `State.withFetchWord`: one context, one launch listed. -/
def fetchPart : Part :=
  { gen := 0, lw := 1, lh := 1, places := [(0, 0)], grains := [(0, 2)], s2root := levelOneAt 1
    ctxs := [(0, { owner := 0, launches := [fetchLaunch] })], owners := [0], agent := [], link := 0, msix := 1, msixTab := []
    msixPend := [], sched := [(0, 1000)], schedPos := 0, sliceAt := 0, resting := false, fixed := false, preempt := 40000
    strict := false, pendSet := [], boundary := none, keys := [], keyHeld := [], saveKey := 0, escrow := none, goff := 0
    paused := none, peers := [], deficit := [], lastOwner := [], lastQueue := [], serving := [], lastReset := none
    resetDue := false, heldStop := false, mig := none, images := [], covers := [], op := none }

/-- The team of `State.withFetchWord`: one group of one thread. -/
def fetchTeam : Team :=
  { id := 0, num := 0, seq := 0, resv := [0], pend := [], slabs := 1, init := 0, spAt := [0], accAt := [0], accInit := 0, sp := [], full := [], slabSt := []
    accRows := 16, acc := [], accSt := [], accUse := [], accDirty := [], tclk := 0, ticks := [], resSince := 0, resBase := 0
    anchor := 0, cw := 1, ch := 1, plain := true, root := 0, utrap := 0, flags := 0, started := true, barT := 0, barC := 0
    lostC := false, rh := 0, ended := false }

/-- The translation of the first 2 MiB of its addresses, to the start of the grain that the partition holds. -/
def fetchEntry : TlbEnt :=
  { tag := 1, ctx := 0, va := 0, lg := 21, ppa := 0, pa := 2 ^ 29, w := true, x := true, user := true, dev := false, lvl := 3
    r2 := true, w2 := true, x2 := true, aonly := false }

/-- Where `State.withFetchWord` stores the word: the second word of its first page. -/
def fetchAt : Nat := 2 ^ 29 + 8

/-- The group of `State.withFetchWord`: lane 0 stands at the last word of a block whose header is at address 0. -/
def fetchGroup : Group :=
  { live := true, lanes := [{ st := .live, pc := 8, entry := false, left := 1, hdr := 0 }] }

/-- The machine with a team of one thread on tile 0, in the slot it issues from, and the word where that thread fetches
next; the schedule offers it the next turn. A program comes to run by a launch: this stands for the claim that builds its
team. -/
def State.withFetchWord (s : State) (_nbits w : Nat) : State :=
  let T := s.tile 0
  let ctl : CtxCtl := { groups := [(0, fetchGroup)], teams := [(0, fetchTeam)], pool := 0x14 }
  let T : Tile := { T with
    tag := 1, gen := 0, act := 0, segs := [], slots := amSet T.slots 0 { st := .active, ctl := ctl }, dead := false, quiesce := .none
    places := [(0, 2 ^ 15)], tlb1 := [fetchEntry], tlb2 := [], icache := Memory.write [] fetchAt 8 w, codeFrom := s.writes.length
    pipes := [] }
  { s with
    mode := .running, tiles := amSet s.tiles 0 T, parts := amSet s.parts 1 fetchPart, mem := Memory.write s.mem fetchAt 8 w
    fields := amSet s.fields 0 {}, inputs := { units := 0, at_ := some (0, 0), ev := none } :: s.inputs }

end Sys2Proof.Machine
end

