-- ==== Sys2Proof/Safety.lean ====
section
/-! DEFINITION. Runs and safe runs, and the words in which the claims speak of what an instruction leaves: the registers of a
lane as values, the lanes that pass to the next word, and what stays as it was. -/

namespace Sys2Proof.Machine

/-! ## Runs -/

/-- The state after `n` steps, none where a step faults or is refused. -/
def State.after : Nat → State → Option State
  | 0, s => some s
  | n + 1, s => match step s with
    | .next t => t.after n
    | .fault _ => none
    | .refused _ => none

/-- No step of the run from a state faults or is refused. -/
def State.Safe (s : State) : Prop := ∀ n, (s.after n).isSome

/-- A state that some run from reset reaches under some schedule of the environment. -/
def State.Reached (s : State) : Prop := ∃ sched n, ({ State.reset with inputs := sched } : State).after n = some s

/-! ## What an instruction leaves -/

/-- A register of the issuing group by code, with every write already made (Table 7.2): v, k, predicate. -/
def State.val (s : State) (l r : Nat) : W32 := s.T.regNow s.G l r

/-- `n` registers of a destination hold a number, the low word first (R1). -/
def Holds (s : State) (l : Nat) (d : Reg) (n v : Nat) : Prop :=
  ∀ j < n, s.val l (d.code + j) = BitVec.ofNat 32 (v / 2 ^ (32 * j))

/-- Every register outside `n` registers of a destination, in the lanes that write it, reads as before; the k registers are
those of the whole group. -/
def OtherRegs (s t : State) (lanes : List Nat) (d : Reg) (n : Nat) : Prop :=
  ∀ l < 32, ∀ r < 168, ¬ (d.code ≤ r ∧ r < d.code + n ∧ (l ∈ lanes ∨ (d.isK = true ∧ lanes ≠ []))) →
    t.val l r = s.val l r

/-- Every register of every lane reads as before. -/
def SameRegs (s t : State) : Prop := ∀ l < 32, ∀ r < 168, t.val l r = s.val l r

/-- A lane that has passed to the next word of its block, or stands before the next header (R172). -/
def Lane.stepped (L : Lane) : Lane :=
  { L with pc := (L.pc + 8) % 2 ^ 56, left := L.left - 1, entry := decide (L.left ≤ 1), via := .fall, src := 0
           relDone := false, done := false, wait := .none }

/-- Nothing but the issuing group differs, besides the steps due and the identifiers given out: memory, every other group,
every other tile, partitions, queues and Keystone are as before. -/
def OnlyGroup (s t : State) : Prop := t = { s.setG t.G with due := t.due, nextId := t.nextId }

/-- In a group nothing but lanes, k registers, flags, reconvergence entries with their count, issued instructions and
pending fixed-latency writes differs: GANG, XPC, XSTAT, the release horizon, the traps and the rest are as before. -/
def GroupFrame (g h : Group) : Prop :=
  h = { g with lanes := h.lanes, k := h.k, fps := h.fps, istat := h.istat, recon := h.recon, bcount := h.bcount
               out := h.out, haz := h.haz }

/-- The lanes of the issuing subset have passed to the next word and every other lane stands where it stood; registers and
predicates are left to other clauses. -/
def LanesStepped (s t : State) : Prop :=
  ∀ l < 32, t.G.lane l =
    { (if bit s.cur.sub l then (s.G.lane l).stepped else s.G.lane l) with
      v := (t.G.lane l).v, back := (t.G.lane l).back, p := (t.G.lane l).p }

/-- The issuing subset has passed its instruction: lanes, group and module apart from registers and flags. -/
def Passed (s t : State) : Prop := OnlyGroup s t ∧ GroupFrame s.G t.G ∧ LanesStepped s t

/-- FPS and ISTAT hold their former bits and the given flags beside them (R136, R137). -/
def FlagsOr (s t : State) (fps ist : Nat) : Prop :=
  t.G.fps = s.G.fps ||| BitVec.ofNat 32 (fps % 32) ∧ t.G.istat = s.G.istat ||| BitVec.ofNat 32 (ist % 4)

/-- FPS and ISTAT are as before. -/
def FlagsKept (s t : State) : Prop := t.G.fps = s.G.fps ∧ t.G.istat = s.G.istat

/-- Scratchpad bytes, full words and accumulator cells of the issuing group's team. -/
def State.teamData (s : State) : Option (AMap Byte × List Nat × AMap W32) := s.curTeam.map fun y => (y.sp, y.full, y.acc)

/-- What a program can read besides its registers and flags is as before: plinth and host memory, GANG, XPC and XSTAT of the
group, scratchpad, full states and accumulators of its team. -/
def Kept (s t : State) : Prop :=
  t.mem = s.mem ∧ t.host = s.host ∧ t.G.gang = s.G.gang ∧ t.G.xpc = s.G.xpc ∧ t.G.xstat = s.G.xstat ∧ t.teamData = s.teamData

/-- The same with the flags. -/
def Steady (s t : State) : Prop := Kept s t ∧ FlagsKept s t

/-- A register instruction has passed: `n` registers of its destination hold `f` of each computing lane, every other register
reads as before. -/
def Result (s t : State) (c : Ctl) (d : Reg) (n : Nat) (srcs : List Reg) (f : Nat → Nat) : Prop :=
  Passed s t ∧ (∀ l ∈ s.laneSet c d srcs, Holds t l d n (f l)) ∧ OtherRegs s t (s.laneSet c d srcs) d n

/-- A register instruction without a fixed latency has passed: its registers are not yet written, and the record of it that
completes later holds `f` of each computing lane and the flags `fl` (R156). -/
def Pending (s t : State) (c : Ctl) (d : Reg) (n : Nat) (srcs : List Reg) (f : Nat → Nat) (fl : Nat → Nat × Nat) : Prop :=
  Passed s t ∧ FlagsKept s t ∧ SameRegs s t ∧ ∃ o ∈ t.G.out, o.iid = s.nextId ∧ o.tag = c.set.val ∧ o.pc = s.cur.pc ∧
    o.res = (s.laneSet c d srcs).flatMap (fun l => spread (if scalarPath d srcs then 32 else l) d n (f l)) ∧
    o.fps = (s.laneSet c d srcs).foldl (fun a l => a ||| (fl l).1) 0 ∧
    o.ist = (s.laneSet c d srcs).foldl (fun a l => a ||| (fl l).2) 0

/-- The record of the trap that a group raised last (R352, R354). -/
def Group.lastTrap (g : Group) : Option Trap := g.traps.getLast?

/-- The issuing subset has trapped: the trap stands last with its class, cause and information, its lanes are stopped at the
instruction, no register has changed and nothing else that the program can read but the flags, and the record is due for
delivery. -/
def Trapped (s t : State) (lane : Nat) (cls : TrapClass) (cause info1 info2 : Nat) : Prop :=
  SameRegs s t ∧ Kept s t ∧
  (∀ l < 32, bit s.cur.sub l = true → (t.G.lane l).trapped = true ∧ (t.G.lane l).pc = (s.G.lane l).pc) ∧
  { tile := 0, slot := 0, ev := .trapDeliver s.cur.tile s.cur.slot : Due } ∈ t.due ∧
  ∃ r, t.G.lastTrap = some r ∧ r.cls = cls ∧ r.cause = cause ∧ r.lane = lane ∧ r.pc = s.cur.pc ∧ r.word = s.cur.word ∧
    r.info1 = info1 ∧ r.info2 = info2 ∧ r.lanes = s.cur.sub ∧ r.time = s.wtime

end Sys2Proof.Machine
end

