-- ==== Sys2Proof/Certificates/Slice0/Obligations.lean ====
section
/-! DEFINITION. The statements for the provers: one `def Obligations.<Name> : Prop` each, in terms of `Machine.exec` and
`Machine.step`. The words they share with one another stand in `Sys2Proof.Claims`; those about what an instruction leaves
stand in Safety. -/

/-! ## Register instructions -/

namespace Sys2Proof.Claims
open Sys2Proof Sys2Proof.Machine

/-- The two-source integer instructions of Table 9.2 with their exact result; `true` marks a multiply, which has no fixed
latency on 64 bits. -/
def intOps : List ((IntR → Instr) × Bool × (ITy → Int → Int → Int)) :=
  [(.add, false, fun _ a b => a + b), (.sub, false, fun _ a b => a - b), (.mul, true, fun _ a b => a * b),
   (.mulh, true, fun t a b => a * b / 2 ^ tyBits t), (.min, false, fun _ a b => if a ≤ b then a else b),
   (.max, false, fun _ a b => if a ≤ b then b else a)]

/-- Their forms with an immediate. -/
def intImmOps : List ((IntI → Instr) × Bool × (Int → Int → Int)) :=
  [(.addI, false, fun a b => a + b), (.subI, false, fun a b => a - b), (.mulI, true, fun a b => a * b),
   (.minI, false, fun a b => if a ≤ b then a else b), (.maxI, false, fun a b => if a ≤ b then b else a)]

/-- A number as a 32-bit or 64-bit result of an integer type: reduced modulo 2^n, read in the type, extended (R129). -/
def ofType (t : ITy) (x : Int) : Nat := wrap (32 * t.regs) (tyRead t (wrap (tyBits t) x))

/-- IMM20 as the second operand: sign-extended for the signed types, else zero-extended, in the reading of the type (R164). -/
def imm (t : ITy) (i : BitVec 20) : Int := tyRead t (wrap 64 (if tySigned t then i.toInt else (i.toNat : Int)))

/-- Two-source logic on raw bits (Table 9.4). -/
def logicOps : List ((BitR → Instr) × (Nat → Nat → Nat)) :=
  [(.and, fun a b => a &&& b), (.or, fun a b => a ||| b), (.xor, fun a b => a ^^^ b)]

/-- Logic with an immediate. -/
def logicImmOps : List ((BitI → Instr) × (Nat → Nat → Nat)) :=
  [(.andI, fun a b => a &&& b), (.orI, fun a b => a ||| b), (.xorI, fun a b => a ^^^ b)]

/-- `a` shifted left by `n` in `w` bits (Table 9.4). -/
def shlOf (w a n : Nat) : Nat := if w ≤ n then 0 else a * 2 ^ n % 2 ^ w
/-- `a` shifted right, filling with zeros. -/
def shrOf (w a n : Nat) : Nat := if w ≤ n then 0 else a / 2 ^ n
/-- `a` shifted right, filling with its top bit. -/
def sarOf (w a n : Nat) : Nat := wrap w (sext w a / 2 ^ n)
/-- `a` rotated left by `n` mod `w`. -/
def rotOf (w a n : Nat) : Nat := a * 2 ^ (n % w) % 2 ^ w + a / 2 ^ (w - n % w)

/-- Shifts and rotates by a register. -/
def shiftOps : List ((BitR → Instr) × (Nat → Nat → Nat → Nat)) :=
  [(.shl, shlOf), (.shr, shrOf), (.sar, sarOf), (.rot, rotOf)]

/-- Shifts and rotates by an immediate. -/
def shiftImmOps : List ((ShI → Instr) × (Nat → Nat → Nat → Nat)) :=
  [(.shlI, shlOf), (.shrI, shrOf), (.sarI, sarOf), (.rotI, rotOf)]

/-- The truth of a CMP condition (R220). -/
def condOf (c : Cond) (a b : Int) : Prop :=
  match c with
  | .eq => a = b
  | .ne => a ≠ b
  | .lt => a < b
  | .le => a ≤ b
  | .gt => b < a
  | .ge => b ≤ a

/-- A predicate as an instruction reads it. -/
def predOf (s : State) (l : Nat) (p : Fin 8) : Bool := s.reg l (160 + p.val) == 1

/-- Each active lane's `f` stands in `pd`, or 1 where `pd` is p0, and every other register is as before. -/
def PredResult (s t : State) (c : Ctl) (pd : Fin 8) (f : Nat → Prop) : Prop :=
  Passed s t ∧ FlagsKept s t ∧ OtherRegs s t (s.active c) (.p pd) 1 ∧
    ∀ l ∈ s.active c, (t.val l (160 + pd.val) = 1 ↔ pd.val = 0 ∨ f l) ∧ (t.val l (160 + pd.val) = 0 ∨ t.val l (160 + pd.val) = 1)

/-- Floating arithmetic with two sources and a rounding mode (Table 9.5). -/
def fpOps : List ((FpR → Instr) × (Fmt → RM → Nat → Nat → Nat × Nat)) := [(.fadd, fpAdd), (.fsub, fpSub), (.fmul, fpMul)]

/-- FMIN and FMAX. -/
def fpMinMaxOps : List ((FpM → Instr) × Bool) := [(.fmin, false), (.fmax, true)]

/-- Packed arithmetic with two sources (R228). -/
def packedOps : List ((FpR → Instr) × (Fmt → RM → Nat → Nat → Nat × Nat)) := [(.padd2, fpAdd), (.pmul2, fpMul)]

/-- FPS flags of the computing lanes, ORed. -/
def fpsOf (s : State) (c : Ctl) (d : Reg) (srcs : List Reg) (f : Nat → Nat) : Nat :=
  (s.laneSet c d srcs).foldl (fun a l => a ||| f l) 0

/-- A floating instruction with a fixed latency that gives `f` of each computing lane: where no raised flag has its enable bit
set, the result stands and the flags are sticky; where one has, ARITH is raised and no destination is written (R137). -/
def FpResult (s t : State) (c : Ctl) (d : Reg) (n : Nat) (srcs : List Reg) (f : Nat → Nat × Nat) : Prop :=
  let fl := fpsOf s c d srcs fun l => (f l).2
  (fl % 32 &&& s.G.fps.toNat / 256 % 32 = 0 →
    Result s t c d n srcs (fun l => (f l).1) ∧ FlagsOr s t fl 0) ∧
  (fl % 32 &&& s.G.fps.toNat / 256 % 32 ≠ 0 →
    FlagsOr s t fl 0 ∧ ∃ lane, Trapped s t lane .arith 1 fl 0 ∧
      (lane = 0xFF ∨ (lane ∈ s.laneSet c d srcs ∧ (f lane).2 % 32 &&& s.G.fps.toNat / 256 % 32 ≠ 0)))

/-- Half `h` of a packed register. -/
def halfOf (v h : Nat) : Nat := v / 2 ^ (16 * h) % 2 ^ 16

end Sys2Proof.Claims

open Sys2Proof Sys2Proof.Machine Sys2Proof.Claims

/-- R213, R214 with R129 and R161: ADD, SUB, MIN, MAX, and MUL and MULH on 8, 16 and 32 bits, leave the exact result of Table 9.2
reduced to the type in every computing lane, set no flag, and leave everything else. -/
def Sys2Proof.Claims.IntegerResult : Prop :=
  ∀ op ∈ intOps, ∀ (nv : Nat) (x : IntR) (s : State), nv ≤ 128 → (op.1 x).wf nv = true → ¬ (op.2.1 = true ∧ x.ty.regs = 2) →
    ∃ t, exec (op.1 x) s = .next t ∧ FlagsKept s t ∧ Result s t x.c x.d x.ty.regs [x.a, x.b] fun l =>
      ofType x.ty (op.2.2 x.ty (s.srcI l x.a x.ty) (s.srcI l x.b x.ty))

/-- R213, R214, R164: the forms with IMM20. -/
def Sys2Proof.Claims.IntegerImmediateResult : Prop :=
  ∀ op ∈ intImmOps, ∀ (nv : Nat) (x : IntI) (s : State), nv ≤ 128 → (op.1 x).wf nv = true →
    ¬ (op.2.1 = true ∧ x.ty.regs = 2) →
    ∃ t, exec (op.1 x) s = .next t ∧ FlagsKept s t ∧ Result s t x.c x.d x.ty.regs [x.a] fun l =>
      ofType x.ty (op.2.2 (s.srcI l x.a x.ty) (imm x.ty x.imm))

/-- R213, R214: MAD on 8, 16 and 32 bits, ABS, which returns the most negative value unchanged, and NEG. -/
def Sys2Proof.Claims.MadAbsNegResult : Prop :=
  (∀ (nv : Nat) (x : IntRC) (s : State), nv ≤ 128 → (Instr.mad x).wf nv = true → x.ty.regs = 1 →
    ∃ t, exec (.mad x) s = .next t ∧ FlagsKept s t ∧ Result s t x.c x.d 1 [x.a, x.b, x.e] fun l =>
      ofType x.ty (s.srcI l x.a x.ty * s.srcI l x.b x.ty + s.srcI l x.e x.ty)) ∧
  (∀ (nv : Nat) (x : IntU) (s : State), nv ≤ 128 → (Instr.abs x).wf nv = true →
    ∃ t, exec (.abs x) s = .next t ∧ FlagsKept s t ∧ Result s t x.c x.d x.ty.regs [x.a] fun l =>
      ofType x.ty (if s.srcI l x.a x.ty < 0 then -s.srcI l x.a x.ty else s.srcI l x.a x.ty)) ∧
  (∀ (nv : Nat) (x : IntU) (s : State), nv ≤ 128 → (Instr.neg x).wf nv = true →
    ∃ t, exec (.neg x) s = .next t ∧ FlagsKept s t ∧ Result s t x.c x.d x.ty.regs [x.a] fun l =>
      ofType x.ty (-s.srcI l x.a x.ty))

/-- R212, R156: the 64-bit multiplies pass and leave a record that will write the exact result of Table 9.2 when it completes. -/
def Sys2Proof.Claims.WideMultiplyPending : Prop :=
  (∀ op ∈ intOps, op.2.1 = true → ∀ (nv : Nat) (x : IntR) (s : State), nv ≤ 128 → (op.1 x).wf nv = true → x.ty.regs = 2 →
    ∃ t, exec (op.1 x) s = .next t ∧ Pending s t x.c x.d 2 [x.a, x.b]
      (fun l => ofType x.ty (op.2.2 x.ty (s.srcI l x.a x.ty) (s.srcI l x.b x.ty))) fun _ => (0, 0)) ∧
  (∀ (nv : Nat) (x : IntI) (s : State), nv ≤ 128 → (Instr.mulI x).wf nv = true → x.ty.regs = 2 →
    ∃ t, exec (.mulI x) s = .next t ∧ Pending s t x.c x.d 2 [x.a]
      (fun l => ofType x.ty (s.srcI l x.a x.ty * imm x.ty x.imm)) fun _ => (0, 0)) ∧
  (∀ (nv : Nat) (x : IntRC) (s : State), nv ≤ 128 → (Instr.mad x).wf nv = true → x.ty.regs = 2 →
    ∃ t, exec (.mad x) s = .next t ∧ Pending s t x.c x.d 2 [x.a, x.b, x.e]
      (fun l => ofType x.ty (s.srcI l x.a x.ty * s.srcI l x.b x.ty + s.srcI l x.e x.ty)) fun _ => (0, 0))

namespace Sys2Proof.Claims

/-- Quotient, remainder and ISTAT flags of R215 (IDZ is 1, IOV 2). -/
def quotient (t : ITy) (a b : Int) : Int × Int × Nat :=
  if b = 0 then (if tySigned t then -1 else 2 ^ tyBits t - 1, a, 1)
  else if tySigned t = true ∧ a = -2 ^ (tyBits t - 1) ∧ b = -1 then (a, 0, 2)
  else (Int.tdiv a b, a - Int.tdiv a b * b, 0)

end Sys2Proof.Claims

/-- R215: DIV and REM with their enables clear pass, and the record that completes later holds quotient or remainder and the
flags. -/
def Obligations.DivisionPending : Prop :=
  ∀ (nv : Nat) (x : IntR) (s : State), nv ≤ 128 → s.G.istat.toNat / 256 % 4 = 0 →
    ((Instr.div x).wf nv = true →
      ∃ t, exec (.div x) s = .next t ∧ Pending s t x.c x.d x.ty.regs [x.a, x.b]
        (fun l => ofType x.ty (quotient x.ty (s.srcI l x.a x.ty) (s.srcI l x.b x.ty)).1)
        fun l => (0, (quotient x.ty (s.srcI l x.a x.ty) (s.srcI l x.b x.ty)).2.2)) ∧
    ((Instr.rem x).wf nv = true →
      ∃ t, exec (.rem x) s = .next t ∧ Pending s t x.c x.d x.ty.regs [x.a, x.b]
        (fun l => ofType x.ty (quotient x.ty (s.srcI l x.a x.ty) (s.srcI l x.b x.ty)).2.1)
        fun l => (0, (quotient x.ty (s.srcI l x.a x.ty) (s.srcI l x.b x.ty)).2.2))

/-- R216: logic, shifts and rotates. -/
def Obligations.LogicShiftResult : Prop :=
  (∀ op ∈ logicOps, ∀ (nv : Nat) (x : BitR) (s : State), nv ≤ 128 → (op.1 x).wf nv = true →
    ∃ t, exec (op.1 x) s = .next t ∧ FlagsKept s t ∧ Result s t x.c x.d x.ty.regs [x.a, x.b] fun l =>
      op.2 (s.src l x.a x.ty.regs) (s.src l x.b x.ty.regs)) ∧
  (∀ op ∈ logicImmOps, ∀ (nv : Nat) (x : BitI) (s : State), nv ≤ 128 → (op.1 x).wf nv = true →
    ∃ t, exec (op.1 x) s = .next t ∧ FlagsKept s t ∧ Result s t x.c x.d x.ty.regs [x.a] fun l =>
      op.2 (s.src l x.a x.ty.regs) x.imm.toNat) ∧
  (∀ op ∈ shiftOps, ∀ (nv : Nat) (x : BitR) (s : State), nv ≤ 128 → (op.1 x).wf nv = true →
    ∃ t, exec (op.1 x) s = .next t ∧ FlagsKept s t ∧ Result s t x.c x.d x.ty.regs [x.a, x.b] fun l =>
      op.2 (32 * x.ty.regs) (s.src l x.a x.ty.regs) (s.src l x.b 1 % 256)) ∧
  (∀ op ∈ shiftImmOps, ∀ (nv : Nat) (x : ShI) (s : State), nv ≤ 128 → (op.1 x).wf nv = true →
    ∃ t, exec (op.1 x) s = .next t ∧ FlagsKept s t ∧ Result s t x.c x.d x.ty.regs [x.a] fun l =>
      op.2 (32 * x.ty.regs) (s.src l x.a x.ty.regs) x.cnt.val)

/-- R216: NOT, POPC, CLZ and BREV, each by what its result says of the bits of A. -/
def Obligations.BitCountResult : Prop :=
  (∀ (nv : Nat) (x : BitU) (s : State), nv ≤ 128 → (Instr.not x).wf nv = true →
    ∃ t f, exec (.not x) s = .next t ∧ FlagsKept s t ∧ Result s t x.c x.d x.ty.regs [x.a] f ∧
      ∀ l, f l < 2 ^ (32 * x.ty.regs) ∧ ∀ i < 32 * x.ty.regs, tbit (f l) i = !tbit (s.src l x.a x.ty.regs) i) ∧
  (∀ (nv : Nat) (x : BitU) (s : State), nv ≤ 128 → (Instr.popc x).wf nv = true →
    ∃ t, exec (.popc x) s = .next t ∧ FlagsKept s t ∧ Result s t x.c x.d 1 [x.a] fun l =>
      ((List.range (32 * x.ty.regs)).filter fun i => tbit (s.src l x.a x.ty.regs) i).length) ∧
  (∀ (nv : Nat) (x : BitU) (s : State), nv ≤ 128 → (Instr.clz x).wf nv = true →
    ∃ t f, exec (.clz x) s = .next t ∧ FlagsKept s t ∧ Result s t x.c x.d 1 [x.a] f ∧
      ∀ l, if s.src l x.a x.ty.regs = 0 then f l = 32 * x.ty.regs
        else f l < 32 * x.ty.regs ∧ s.src l x.a x.ty.regs / 2 ^ (32 * x.ty.regs - 1 - f l) = 1) ∧
  (∀ (nv : Nat) (x : BitU) (s : State), nv ≤ 128 → (Instr.brev x).wf nv = true →
    ∃ t f, exec (.brev x) s = .next t ∧ FlagsKept s t ∧ Result s t x.c x.d x.ty.regs [x.a] f ∧
      ∀ l, f l < 2 ^ (32 * x.ty.regs) ∧
        ∀ i < 32 * x.ty.regs, tbit (f l) i = tbit (s.src l x.a x.ty.regs) (32 * x.ty.regs - 1 - i))

/-- R217: BFX gives the field of A that B names, read in the type; BFI puts the low bits of A at that place in C. -/
def Sys2Proof.Claims.BitFieldResult : Prop :=
  (∀ (nv : Nat) (x : IntR) (s : State), nv ≤ 128 → (Instr.bfx x).wf nv = true →
    ∃ t, exec (.bfx x) s = .next t ∧ FlagsKept s t ∧ Result s t x.c x.d x.ty.regs [x.a, x.b] fun l =>
      let w := tyBits x.ty
      let pos := min (s.src l x.b 1 % 256) w
      let len := min (s.src l x.b 1 / 256 % 256) (w - pos)
      let f := s.src l x.a x.ty.regs / 2 ^ pos % 2 ^ len
      if len = 0 then 0 else if tySigned x.ty then wrap w (sext len f) else f) ∧
  (∀ (nv : Nat) (x : BitRC) (s : State), nv ≤ 128 → (Instr.bfi x).wf nv = true →
    ∃ t f, exec (.bfi x) s = .next t ∧ FlagsKept s t ∧ Result s t x.c x.d x.ty.regs [x.a, x.b, x.e] f ∧
      ∀ l, let w := 32 * x.ty.regs
        let pos := min (s.src l x.b 1 % 256) w
        let len := min (s.src l x.b 1 / 256 % 256) (w - pos)
        f l < 2 ^ w ∧ ∀ i < w, tbit (f l) i =
          if pos ≤ i ∧ i < pos + len then tbit (s.src l x.a x.ty.regs) (i - pos) else tbit (s.src l x.e x.ty.regs) i)

/-- R218, R219: LEA adds modulo 2^64, MOV and MOVI copy, SEL takes A where its predicate holds and B elsewhere. -/
def Obligations.AddressMoveSelect : Prop :=
  (∀ (nv : Nat) (x : LeaR) (s : State), nv ≤ 128 → (Instr.lea x).wf nv = true →
    ∃ t, exec (.lea x) s = .next t ∧ FlagsKept s t ∧ Result s t x.c x.d 2 [x.a, x.b] fun l =>
      wrap 64 ((s.src l x.a 2 : Int) + s.srcI l x.b x.ty * 2 ^ x.sh.val)) ∧
  (∀ (nv : Nat) (x : LeaI) (s : State), nv ≤ 128 → (Instr.leaI x).wf nv = true →
    ∃ t, exec (.leaI x) s = .next t ∧ FlagsKept s t ∧ Result s t x.c x.d 2 [x.a] fun l =>
      wrap 64 ((s.src l x.a 2 : Int) + x.imm.toInt)) ∧
  (∀ (nv : Nat) (x : BitU) (s : State), nv ≤ 128 → (Instr.mov x).wf nv = true →
    ∃ t, exec (.mov x) s = .next t ∧ FlagsKept s t ∧ Result s t x.c x.d x.ty.regs [x.a] fun l => s.src l x.a x.ty.regs) ∧
  (∀ (nv : Nat) (x : MoviR) (s : State), nv ≤ 128 → (Instr.movi x).wf nv = true →
    ∃ t, exec (.movi x) s = .next t ∧ FlagsKept s t ∧ Result s t x.c x.d 1 [] fun _ => x.imm.toNat) ∧
  (∀ (nv : Nat) (x : SelR) (s : State), nv ≤ 128 → (Instr.sel x).wf nv = true →
    ∃ t, exec (.sel x) s = .next t ∧ FlagsKept s t ∧ Result s t x.c x.d x.ty.regs [x.a, x.b] fun l =>
      if predOf s l x.q then s.src l x.a x.ty.regs else s.src l x.b x.ty.regs)

/-- R220, R160: CMP writes each active lane's truth value; a write to p0 is discarded. -/
def Obligations.CompareResult : Prop :=
  (∀ (x : CmpR) (s : State), ∃ t, exec (.cmp x) s = .next t ∧ PredResult s t x.c x.pd fun l =>
    condOf x.cond (s.srcI l x.a x.ty) (s.srcI l x.b x.ty)) ∧
  (∀ (x : CmpI) (s : State), ∃ t, exec (.cmpI x) s = .next t ∧ PredResult s t x.c x.pd fun l =>
    condOf x.cond (s.srcI l x.a x.ty) (tyRead x.ty (wrap 64 (if tySigned x.ty then x.imm.toInt else (x.imm.toNat : Int)))))

/-- R222, R228, R137: floating and packed arithmetic, rounded once, with sticky flags, or ARITH where a raised flag has its
enable set. -/
def Sys2Proof.Claims.FloatResult : Prop :=
  (∀ op ∈ fpOps, ∀ (nv : Nat) (x : FpR) (s : State), nv ≤ 128 → (op.1 x).wf nv = true →
    ∃ t, exec (op.1 x) s = .next t ∧ FpResult s t x.c x.d x.ty.regs [x.a, x.b] fun l =>
      op.2 (fmtOf x.ty) x.rm (s.srcF l x.a (fmtOf x.ty)) (s.srcF l x.b (fmtOf x.ty))) ∧
  (∀ (nv : Nat) (x : FpRC) (s : State), nv ≤ 128 → (Instr.ffma x).wf nv = true →
    ∃ t, exec (.ffma x) s = .next t ∧ FpResult s t x.c x.d x.ty.regs [x.a, x.b, x.e] fun l =>
      fpFma (fmtOf x.ty) x.rm (s.srcF l x.a (fmtOf x.ty)) (s.srcF l x.b (fmtOf x.ty)) (s.srcF l x.e (fmtOf x.ty))) ∧
  (∀ op ∈ fpMinMaxOps, ∀ (nv : Nat) (x : FpM) (s : State), nv ≤ 128 → (op.1 x).wf nv = true →
    ∃ t, exec (op.1 x) s = .next t ∧ FpResult s t x.c x.d x.ty.regs [x.a, x.b] fun l =>
      fpMinMax (fmtOf x.ty) op.2 (s.srcF l x.a (fmtOf x.ty)) (s.srcF l x.b (fmtOf x.ty)))

/-- R228: each half of a packed instruction is the scalar result of its half format, and the flags of both are ORed. -/
def Sys2Proof.Claims.PackedResult : Prop :=
  (∀ op ∈ packedOps, ∀ (nv : Nat) (x : FpR) (s : State), nv ≤ 128 → (op.1 x).wf nv = true →
    ∃ t, exec (op.1 x) s = .next t ∧ FpResult s t x.c x.d 1 [x.a, x.b] fun l =>
      let r := fun h => op.2 (fmtOf x.ty) x.rm (halfOf (s.srcP l x.a (fmtOf x.ty)) h) (halfOf (s.srcP l x.b (fmtOf x.ty)) h)
      ((r 1).1 * 65536 + (r 0).1, (r 0).2 ||| (r 1).2)) ∧
  (∀ (nv : Nat) (x : FpRC) (s : State), nv ≤ 128 → (Instr.pfma2 x).wf nv = true →
    ∃ t, exec (.pfma2 x) s = .next t ∧ FpResult s t x.c x.d 1 [x.a, x.b, x.e] fun l =>
      let r := fun h => fpFma (fmtOf x.ty) x.rm (halfOf (s.srcP l x.a (fmtOf x.ty)) h)
        (halfOf (s.srcP l x.b (fmtOf x.ty)) h) (halfOf (s.srcP l x.e (fmtOf x.ty)) h)
      ((r 1).1 * 65536 + (r 0).1, (r 0).2 ||| (r 1).2))

namespace Sys2Proof.Claims

/-- The value and flags of FCVT by the kinds of its types (R224). -/
def converted (x : FCvtR) (s : State) (l : Nat) : Nat × Nat :=
  match x.ts, x.td with
  | .flt a, .flt b => roundTo (fmtOfF b) x.rm x.sat (unpack (fmtOfF a) (s.srcF l x.a (fmtOfF a)))
  | .flt a, .int t =>
    let r := fpToInt (tyBits t) (tySigned t) x.sat x.rm (unpack (fmtOfF a) (s.srcF l x.a (fmtOfF a)))
    (ofType t r.1, r.2)
  | .int t, .flt b => roundTo (fmtOfF b) x.rm x.sat (ofInt (s.srcI l x.a t))
  | .int t, .int u =>
    let v := s.srcI l x.a t
    let lo : Int := if tySigned u then -2 ^ (tyBits u - 1) else 0
    let hi : Int := if tySigned u then 2 ^ (tyBits u - 1) - 1 else 2 ^ tyBits u - 1
    (ofType u (if x.sat then (if v < lo then lo else if hi < v then hi else v) else v), 0)

/-- The truth of an FCMP condition (Table 9.6); `un` says that an operand is a NaN, `o` is the sign of the comparison. -/
def fcondOf (c : FCond) (un : Bool) (o : Int) : Prop :=
  match c with
  | .eq => un = false ∧ o = 0
  | .ne => un = true ∨ o ≠ 0
  | .lt => un = false ∧ o < 0
  | .le => un = false ∧ o ≤ 0
  | .gt => un = false ∧ 0 < o
  | .ge => un = false ∧ 0 ≤ o
  | .un => un = true
  | .ord => un = false

/-- The FPS flag of an FCMP: NV, 16, for any NaN under the ordered conditions and for a signalling NaN under every one. -/
def fcmpFlag (c : FCond) (x y : FVal) : Nat :=
  let loud := match c with
    | .lt | .le | .gt | .ge => true
    | _ => false
  if (x.isSig || y.isSig) || (loud && (x.isNan || y.isNan)) then 16 else 0

end Sys2Proof.Claims

/-- R224: FCVT by the kinds of its types, with its flags. -/
def Obligations.ConvertTypes : Prop :=
  ∀ (nv : Nat) (x : FCvtR) (s : State), nv ≤ 128 → (Instr.fcvt x).wf nv = true →
    ∃ t, exec (.fcvt x) s = .next t ∧ FpResult s t x.c x.d x.td.regs [x.a] (converted x s)

/-- R226, R227, R137: FDIV, FSQRT and SFN with every FPS enable clear pass, and the record that completes later holds result
and flags. -/
def Sys2Proof.Claims.FloatPending : Prop :=
  ∀ (nv : Nat) (s : State), nv ≤ 128 → s.G.fps.toNat / 256 % 32 = 0 →
    (∀ x : FpR, (Instr.fdiv x).wf nv = true → ∃ t, exec (.fdiv x) s = .next t ∧
      let r := fun l => fpDiv (fmtOf x.ty) x.rm (s.srcF l x.a (fmtOf x.ty)) (s.srcF l x.b (fmtOf x.ty))
      Pending s t x.c x.d x.ty.regs [x.a, x.b] (fun l => (r l).1) fun l => ((r l).2, 0)) ∧
    (∀ x : FpU, (Instr.fsqrt x).wf nv = true → ∃ t, exec (.fsqrt x) s = .next t ∧
      let r := fun l => fpSqrt (fmtOf x.ty) x.rm (s.srcF l x.a (fmtOf x.ty))
      Pending s t x.c x.d x.ty.regs [x.a] (fun l => (r l).1) fun l => ((r l).2, 0)) ∧
    (∀ x : SfnR, (Instr.sfn x).wf nv = true → ∃ t, exec (.sfn x) s = .next t ∧
      let r := fun l => fpSfn x.fn (s.srcF l x.a .f32)
      Pending s t x.c x.d 1 [x.a] (fun l => (r l).1) fun l => ((r l).2, 0))

/-- R223, R137: FCMP writes the truth of its condition with its flag, or raises ARITH with no predicate written. -/
def Sys2Proof.Claims.FloatCompare : Prop :=
  ∀ (x : FCmpR) (s : State), ∃ t, exec (.fcmp x) s = .next t ∧
    let a := fun l => unpack (fmtOf x.ty) (s.srcF l x.a (fmtOf x.ty))
    let b := fun l => unpack (fmtOf x.ty) (s.srcF l x.b (fmtOf x.ty))
    let fl := (s.active x.c).foldl (fun v l => v ||| fcmpFlag x.cond (a l) (b l)) 0
    (fl &&& s.G.fps.toNat / 256 % 32 = 0 →
      Passed s t ∧ FlagsOr s t fl 0 ∧ OtherRegs s t (s.active x.c) (.p x.pd) 1 ∧
      ∀ l ∈ s.active x.c, (t.val l (160 + x.pd.val) = 1 ↔
        x.pd.val = 0 ∨ fcondOf x.cond ((a l).isNan || (b l).isNan) (fcompare (a l) (b l)))) ∧
    (fl &&& s.G.fps.toNat / 256 % 32 ≠ 0 → FlagsOr s t fl 0 ∧ ∃ lane ∈ s.active x.c, Trapped s t lane .arith 1 fl 0)

/-- R222, R228: floating and packed arithmetic. -/
def Obligations.FloatPackedResult : Prop := FloatResult ∧ PackedResult

/-- R223, R226, R227: FCMP, and the floating instructions that complete later. -/
def Obligations.FloatComparePending : Prop := FloatPending ∧ FloatCompare

namespace Sys2Proof.Claims

/-- A register operand of `n` registers starts at a multiple of `n` (R160); a constant is no register. -/
def Aligned (n : Nat) (r : Reg) : Prop := (r.isV = true ∨ r.isK = true) → r.code % n = 0

/-- A 64-bit type needs pairs for the destination and every register source. -/
def IntegerPairs : Prop :=
  (∀ op ∈ intOps, ∀ (nv : Nat) (x : IntR), (op.1 x).wf nv = true → x.ty.regs = 2 →
    Aligned 2 x.d ∧ Aligned 2 x.a ∧ Aligned 2 x.b) ∧
  (∀ op ∈ intImmOps, ∀ (nv : Nat) (x : IntI), (op.1 x).wf nv = true → x.ty.regs = 2 → Aligned 2 x.d ∧ Aligned 2 x.a) ∧
  (∀ (nv : Nat) (x : IntRC), (Instr.mad x).wf nv = true → x.ty.regs = 2 →
    Aligned 2 x.d ∧ Aligned 2 x.a ∧ Aligned 2 x.b ∧ Aligned 2 x.e) ∧
  (∀ (nv : Nat) (x : IntU), ((Instr.abs x).wf nv = true ∨ (Instr.neg x).wf nv = true) → x.ty.regs = 2 →
    Aligned 2 x.d ∧ Aligned 2 x.a)

/-- A word with the operation code `opc` is decoded to an instruction of the given kind or refused. -/
def OnlyAs (opc : Nat) (p : Instr → Prop) : Prop :=
  ∀ (nv : Nat) (w : W64) (i : Instr), w.toNat / 2 ^ 56 = opc → decode nv w = .ok i → p i

/-- The forms of BFX and BFI (R217): operation codes and types. -/
def BitFieldForms : Prop :=
  OnlyAs 0x37 (fun i => ∃ x, i = .bfx x) ∧ OnlyAs 0x38 (fun i => ∃ x, i = .bfi x) ∧
  (∀ (nv : Nat) (x : IntR) (w : W64), (Instr.bfx x).wf nv = true → encode (.bfx x) = some w →
    w.toNat / 2 ^ 56 = 0x37 ∧ x.ty ∈ [ITy.i32, .n32, .i64, .n64]) ∧
  (∀ (nv : Nat) (x : BitRC) (w : W64), (Instr.bfi x).wf nv = true → encode (.bfi x) = some w →
    w.toNat / 2 ^ 56 = 0x38 ∧ x.ty ∈ [BTy.b32, .b64])

/-- The predicate instructions with two sources, their operation codes and the operation of a lane (R221). -/
def predForms : List ((PredR → Instr) × Nat × (Bool → Bool → Bool)) :=
  [(.pand, 0x3D, fun a b => a && b), (.por, 0x3E, fun a b => a || b), (.pxor, 0x3F, fun a b => a != b)]

/-- The class of an encoding by its sign, exponent and fraction, as a bit of FCLASS (R225, Table 6.3). -/
def classBit (t : FFmt) (a : Nat) : Nat :=
  let f := fmtOfF t
  let neg := a / 2 ^ (f.eb + f.fb) % 2 = 1
  let e := a / 2 ^ f.fb % 2 ^ f.eb
  let m := a % 2 ^ f.fb
  if e = 0 then (if m = 0 then (if neg then 3 else 4) else (if neg then 2 else 5))
  else if e < 2 ^ f.eb - 1 then (if neg then 1 else 6)
  else match t with
    | .e4m3 => if m = 7 then 9 else if neg then 1 else 6
    | .e5m2 => if m = 0 then (if neg then 0 else 7) else 9
    | .std _ => if m = 0 then (if neg then 0 else 7) else if m / 2 ^ (f.fb - 1) = 1 then 9 else 8

end Sys2Proof.Claims

/-- R214: the integer arithmetic instructions leave the exact result of Table 9.2 reduced to their type, extended, in every
computing lane, and set no flag; those on 64 bits without a fixed latency leave a record that will. A 64-bit type needs pairs. -/
def Obligations.IntegerArithmetic : Prop :=
  IntegerResult ∧ IntegerImmediateResult ∧ MadAbsNegResult ∧ WideMultiplyPending ∧ IntegerPairs

/-- R217: BFX and BFI, their forms and results. -/
def Obligations.BitFields : Prop := BitFieldResult ∧ BitFieldForms

/-- R221: the predicate instructions: their words in format R with every operand a predicate number, and their operation in each
active lane; a write to p0 is discarded, so that PNOT of p0 to p0 changes nothing. -/
def Obligations.PredicateLogic : Prop :=
  (∀ op ∈ predForms, OnlyAs op.2.1 (fun i => ∃ x, i = op.1 x) ∧
    (∀ (x : PredR) (w : W64), encode (op.1 x) = some w → w.toNat / 2 ^ 56 = op.2.1 ∧
      w.toNat / 2 ^ 32 % 256 = 0xA0 + x.pd.val ∧ w.toNat / 2 ^ 24 % 256 = 0xA0 + x.pa.val ∧
      w.toNat / 2 ^ 16 % 256 = 0xA0 + x.pb.val ∧ w.toNat % 2 ^ 16 = 0) ∧
    ∀ (x : PredR) (s : State), ∃ t, exec (op.1 x) s = .next t ∧ PredResult s t x.c x.pd fun l =>
      op.2.2 (predOf s l x.pa) (predOf s l x.pb) = true) ∧
  OnlyAs 0x2F (fun i => ∃ x, i = .pnot x) ∧
  (∀ (x : PredU) (w : W64), encode (.pnot x) = some w → w.toNat / 2 ^ 56 = 0x2F ∧
    w.toNat / 2 ^ 32 % 256 = 0xA0 + x.pd.val ∧ w.toNat / 2 ^ 24 % 256 = 0xA0 + x.pa.val ∧ w.toNat % 2 ^ 24 = 0) ∧
  (∀ (x : PredU) (s : State), ∃ t, exec (.pnot x) s = .next t ∧ PredResult s t x.c x.pd fun l => predOf s l x.pa = false) ∧
  ∀ (c : Ctl) (s : State), ∃ t, exec (.pnot ⟨c, 0, 0⟩) s = .next t ∧ Passed s t ∧ FlagsKept s t ∧ SameRegs s t

/-- R225: FCLASS sets the bit of its operand's class and no other, below bit 10, and no flag; the eight-bit formats never give
the classes they lack. -/
def Obligations.ClassifyMask : Prop :=
  OnlyAs 0x58 (fun i => ∃ x, i = .fclass x) ∧
  (∀ (nv : Nat) (x : FClassR) (s : State), nv ≤ 128 → (Instr.fclass x).wf nv = true →
    (∀ w, encode (.fclass x) = some w → w.toNat / 2 ^ 56 = 0x58 ∧ 8 ≤ w.toNat / 16 % 16 ∧ w.toNat / 16 % 16 ≤ 13 ∧
      w.toNat % 16 = 0 ∧ w.toNat / 2 ^ 8 % 2 ^ 16 = 0) ∧
    ∃ t, exec (.fclass x) s = .next t ∧ FlagsKept s t ∧
      Result s t x.c x.d 1 [x.a] fun l => 2 ^ classBit x.ty (s.srcF l x.a (fmtOfF x.ty))) ∧
  (∀ (t : FFmt) (a : Nat), classBit t a < 10) ∧
  (∀ a, classBit .e4m3 a ∉ [0, 7, 8]) ∧ ∀ a, classBit .e5m2 a ≠ 8
/-! ## Lane instructions -/

namespace Sys2Proof.Claims

/-- The lane whose value SHFL gives lane `l` (R230): `j` is its position, `b` the first lane of its sub-group. -/
def shflFrom (mode : ShMode) (own : Bool) (S l v : Nat) : Nat :=
  let j := l % S
  let b := l - j
  let jp : Int := match mode with
    | .idx => v
    | .up => (j : Int) - v
    | .down => (j : Int) + v
    | .xor => ((Nat.xor j v : Nat) : Int)
  if 0 ≤ jp ∧ jp < S then b + jp.toNat else if own then l else b + (jp % (S : Int)).toNat

/-- `n` registers of a lane as one number, as they stand. -/
def laneVal (s : State) (l code : Nat) : Nat → Nat
  | 0 => 0
  | n + 1 => (s.val l code).toNat + 2 ^ 32 * laneVal s l (code + 1) n

/-- The identity of a REDL or SCANL operation on its width (Table 9.9). -/
def identityOf (op : LaneOp) : Nat :=
  match op with
  | .add _ => 0
  | .min t => if tySigned t then 2 ^ (tyBits t - 1) - 1 else 2 ^ tyBits t - 1
  | .max t => if tySigned t then 2 ^ (tyBits t - 1) else 0
  | .and t => 2 ^ (32 * t.regs) - 1
  | .or _ => 0
  | .xor _ => 0
  | .fadd t _ => 2 ^ ((fmtOf t).width - 1)

/-- One combination of REDL or SCANL: value and FPS flags (Table 9.9). -/
def combine (op : LaneOp) (x y : Nat) : Nat × Nat :=
  match op with
  | .add t => ((x + y) % 2 ^ tyBits t, 0)
  | .min t => (if tyRead t x ≤ tyRead t y then x else y, 0)
  | .max t => (if tyRead t x < tyRead t y then y else x, 0)
  | .and _ => (x &&& y, 0)
  | .or _ => (x ||| y, 0)
  | .xor _ => (x ^^^ y, 0)
  | .fadd t rm => fpAdd (fmtOf t) rm x y

/-- The value of `x[j]` after the rounds with distance below 2^k of the tree of R232, with the flags of its combinations: each
round combines neighbours at twice the distance. -/
def treeVal (op : LaneOp) (x : Nat → Nat) : Nat → Nat → Nat × Nat
  | 0, j => (x j, 0)
  | k + 1, j =>
    let a := treeVal op x k j
    let b := treeVal op x k (j + 2 ^ k)
    let r := combine op a.1 b.1
    (r.1, a.2 ||| b.2 ||| r.2)

/-- The value of `y[j]` after `k` steps of the prefix of R233. -/
def prefVal (op : LaneOp) (x : Nat → Nat) : Nat → Nat → Nat
  | 0, j => x j
  | k + 1, j => if j < 2 ^ k then prefVal op x k j else (combine op (prefVal op x k (j - 2 ^ k)) (prefVal op x k j)).1

/-- The value of a sub-group's lane at position `j`: A where the lane is active, else the identity. -/
def subVal (s : State) (c : Ctl) (op : LaneOp) (a : Reg) (b j : Nat) : Nat :=
  if b + j ∈ s.active c then s.src (b + j) a op.regs else identityOf op

end Sys2Proof.Claims

/-- R230: SHFL gives each active lane the value of A in its source lane as it stands, zero from an empty lane. -/
def Sys2Proof.Claims.ShuffleResult : Prop :=
  ∀ (nv : Nat) (x : ShflR) (s : State), nv ≤ 128 → (Instr.shfl x).wf nv = true →
    ∃ t, exec (.shfl x) s = .next t ∧ FlagsKept s t ∧
      Result s t x.c x.d (if x.wide then 2 else 1) [x.a, x.b] fun l =>
        let m := shflFrom x.mode x.own (2 ^ x.ls.val) l (s.src l x.b 1)
        if (s.G.lane m).st = .empty then 0 else laneVal s m x.a.code (if x.wide then 2 else 1)

/-- R231 to R233: REDL reduces in the fixed tree and SCANL in the log-step prefix; with the FPS enables clear each passes and
its record holds what it will write. -/
def Sys2Proof.Claims.ReduceScanPending : Prop :=
  ∀ (nv : Nat) (s : State), nv ≤ 128 → s.G.fps.toNat / 256 % 32 = 0 →
    (∀ x : RedlR, (Instr.redl x).wf nv = true → ∃ t, exec (.redl x) s = .next t ∧ Passed s t ∧ SameRegs s t ∧
      let out := fun l => treeVal x.op (subVal s x.c x.op x.a (l - l % 2 ^ x.ls.val)) x.ls.val 0
      ∃ o ∈ t.G.out, o.iid = s.nextId ∧
        o.res = (if x.d.isK then (s.active x.c).take 1 else s.active x.c).flatMap
          (fun l => spread (if x.d.isK then 32 else l) x.d x.op.regs (out l).1) ∧
        o.fps = (s.active x.c).foldl (fun a l => a ||| (out l).2) 0) ∧
    (∀ x : ScanR, (Instr.scanl x).wf nv = true → ∃ t, exec (.scanl x) s = .next t ∧ Passed s t ∧ SameRegs s t ∧
      let y := fun l j => prefVal x.op (subVal s x.c x.op x.a (l - l % 2 ^ x.ls.val)) x.ls.val j
      ∃ o ∈ t.G.out, o.iid = s.nextId ∧
        o.res = (s.active x.c).flatMap fun l => spread l x.d x.op.regs
          (if x.excl = false then y l (l % 2 ^ x.ls.val)
           else if l % 2 ^ x.ls.val = 0 then (match x.op with
             | .fadd _ _ => 0
             | op => identityOf op)
           else y l (l % 2 ^ x.ls.val - 1)))

/-- R234: VOTE reduces its predicate over the active lanes: any and all into a predicate, the mask into a v or k register. -/
def Sys2Proof.Claims.VoteResult : Prop :=
  ∀ (nv : Nat) (x : VoteR) (s : State), nv ≤ 128 → (Instr.vote x).wf nv = true →
    ∃ t, exec (.vote x) s = .next t ∧ FlagsKept s t ∧ Passed s t ∧ OtherRegs s t (s.active x.c) x.d 1 ∧
      ∀ l ∈ s.active x.c, match x.mode with
        | .any => t.val l x.d.code = 1 ↔ x.d.code = 160 ∨ ∃ m ∈ s.active x.c, predOf s m x.pa = true
        | .all => t.val l x.d.code = 1 ↔ x.d.code = 160 ∨ ∀ m ∈ s.active x.c, predOf s m x.pa = true
        | .ballot => ∀ i < 32, bit (t.val l x.d.code) i = (decide (i ∈ s.active x.c) && predOf s i x.pa)

/-! ## Control -/

namespace Sys2Proof.Claims

/-- A branch of the issuing subset: the lanes of `act` stand before their targets, the other lanes of the subset before the
next word; a lane outside it stands where it stood. -/
def Branched (s t : State) (act : List Nat) (via : Via) (dest : Nat → Int) : Prop :=
  OnlyGroup s t ∧ GroupFrame s.G t.G ∧ FlagsKept s t ∧ ∀ l < 32, t.G.lane l =
    { (if bit s.cur.sub l then
        { s.G.lane l with
          pc := if l ∈ act then (dest l).toNat else s.cur.pc + 8, entry := true, left := 0, relDone := false, done := false
          wait := .none, via := if l ∈ act then via else .fall, src := if l ∈ act then s.cur.pc else 0 }
       else s.G.lane l) with
      v := (t.G.lane l).v, back := (t.G.lane l).back, p := (t.G.lane l).p }

/-- No lane leaves the address space, and the branch needs no reconvergence entry: its block names none, or the whole subset
goes one way. -/
abbrev Uniform (s : State) (act : List Nat) (dest : Nat → Int) : Prop :=
  (∀ l ∈ act, 0 ≤ dest l ∧ dest l < 2 ^ 56) ∧
  ((s.G.lane ((lanesOf s.cur.sub).headD 0)).roff = 0 ∨ lanesOf s.cur.sub = act ∧ (∀ l ∈ act, ∀ m ∈ act, dest l = dest m) ∨ act = [])

/-- The target of BRA and CALL: a word offset from the branch (R188). -/
def relTarget (s : State) (off : BitVec 24) : Int := (s.cur.pc : Int) + 8 * off.toInt

end Sys2Proof.Claims

/-- R188: BRA, BRX and RET send the active lanes to their targets; CALL writes the return address to its pair besides. -/
def Sys2Proof.Claims.BranchTaken : Prop :=
  (∀ (c : Ctl) (off : BitVec 24) (s : State), Uniform s (s.active c) (fun _ => relTarget s off) →
    ∃ t, exec (.bra c off) s = .next t ∧ Branched s t (s.active c) .branch (fun _ => relTarget s off) ∧ SameRegs s t) ∧
  (∀ (c : Ctl) (r : Reg) (s : State), Uniform s (s.active c) (fun l => (s.src l r 2 : Nat)) →
    (∀ l ∈ s.active c, s.src l r 2 % 8 = 0) →
    (∃ t, exec (.brx c r) s = .next t ∧ Branched s t (s.active c) .branch (fun l => (s.src l r 2 : Nat)) ∧ SameRegs s t) ∧
    (∃ t, exec (.ret c r) s = .next t ∧ Branched s t (s.active c) .branch (fun l => (s.src l r 2 : Nat)) ∧ SameRegs s t)) ∧
  (∀ (nv : Nat) (c : Ctl) (link : Reg) (off : BitVec 24) (s : State), nv ≤ 128 → (Instr.call c link off).wf nv = true →
    Uniform s (s.active c) (fun _ => relTarget s off) →
    ∃ t, exec (.call c link off) s = .next t ∧ Branched s t (s.active c) .call (fun _ => relTarget s off) ∧
      (∀ l ∈ s.active c, Holds t l link 2 (s.cur.pc + 8)) ∧ OtherRegs s t (s.active c) link 2)

/-- R28: where a divergent branch stands in a block with a reconvergence header and no entry is in the table, the table gets
one entry with the whole subset as members and nobody waiting, as long as no lane stands there yet. -/
def Sys2Proof.Claims.DivergenceEntry : Prop :=
  ∀ (c : Ctl) (off : BitVec 24) (w : W64) (s : State),
    let head := s.G.lane ((lanesOf s.cur.sub).headD 0)
    let ra := wrap 56 ((head.hdr : Int) + 8 * head.roff)
    0 ≤ relTarget s off → relTarget s off < 2 ^ 56 → head.roff ≠ 0 → s.G.recon = [] →
    s.fetch s.cur.tile s.cur.slot ra = .word w → isHeader w = true →
    (∀ l < 32, bit s.cur.sub l = true → (s.G.lane l).st = .live) →
    (∃ l ∈ s.active c, ∃ m < 32, bit s.cur.sub m = true ∧ m ∉ s.active c) →
    relTarget s off ≠ (ra : Int) → s.cur.pc + 8 ≠ ra → relTarget s off ≠ (s.cur.pc : Int) + 8 →
    ∃ t, exec (.bra c off) s = .next t ∧ OnlyGroup s t ∧ GroupFrame s.G t.G ∧ FlagsKept s t ∧ SameRegs s t ∧
      t.G.recon = [{ addr := ra, mem := s.cur.sub, wait := 0 }] ∧
      ∀ l < 32, bit s.cur.sub l = true →
        (t.G.lane l).pc = if l ∈ s.active c then (relTarget s off).toNat else s.cur.pc + 8

/-- R188: a target outside the 56-bit space raises XLATE cause 1, and a register target that is not a multiple of 8 raises ALIGN
cause 2: the rule checks lane by lane, so that the lowest faulting lane decides. -/
def Sys2Proof.Claims.BranchTraps : Prop :=
  (∀ (c : Ctl) (off : BitVec 24) (s : State), s.active c ≠ [] → (relTarget s off < 0 ∨ 2 ^ 56 ≤ relTarget s off) →
    ∃ t, exec (.bra c off) s = .next t ∧ Trapped s t 0xFF .xlate 1 (wrap 64 (relTarget s off)) 0) ∧
  (∀ (c : Ctl) (i : Fin 128) (s : State) (l : Nat), (s.active c).head? = some l → s.src l (.v i) 2 < 2 ^ 56 →
    s.src l (.v i) 2 % 8 ≠ 0 →
    ∃ t, exec (.brx c (.v i)) s = .next t ∧ Trapped s t l .align 2 (s.src l (.v i) 2) 0) ∧
  (∀ (c : Ctl) (i : Fin 128) (s : State) (l : Nat), (s.active c).head? = some l → 2 ^ 56 ≤ s.src l (.v i) 2 →
    s.src l (.v i) 2 < 2 ^ 64 →
    ∃ t, exec (.brx c (.v i)) s = .next t ∧ Trapped s t l .xlate 1 (s.src l (.v i) 2) 0)

/-- R189, R32: NOP and YIELD change no register and no flag; a YIELD of the selected subset hands issue to another subset where
one is eligible, and one of a subset that issues only because the selected one waits (R27) hands nothing off. -/
def Sys2Proof.Claims.NopYield : Prop :=
  (∀ (c : Ctl) (s : State), ∃ t, exec (.nop c) s = .next t ∧ Passed s t ∧ FlagsKept s t ∧ SameRegs s t) ∧
  (∀ (c : Ctl) (s : State), ∃ t, exec (.yield c) s = .next t ∧ OnlyGroup s t ∧ LanesStepped s t ∧ Steady s t ∧ SameRegs s t ∧
    (s.active c = [] ∨ s.selected = false → Passed s t) ∧
    (s.active c ≠ [] → s.selected = true → s.G.hand = none →
      (∃ l < 32, t.G.eligible l = true ∧ (t.G.lane l).pc ≠ (t.G.lane ((lanesOf s.cur.sub).headD 0)).pc) →
      ∃ l < 32, t.G.hand = some l ∧ t.G.eligible l = true ∧
        (t.G.lane l).pc ≠ (t.G.lane ((lanesOf s.cur.sub).headD 0)).pc))

/-- R189, R34: EXIT ends the active lanes and the others go on; a group with no live lane left frees its slot. -/
def Sys2Proof.Claims.ExitThreads : Prop :=
  ∀ (c : Ctl) (s : State),
    ((∃ l < 32, (s.G.lane l).st = .live ∧ l ∉ s.active c) →
      ∃ t, exec (.exit c) s = .next t ∧ Steady s t ∧ SameRegs s t ∧ ∀ l < 32,
        (t.G.lane l).st = (if l ∈ s.active c then .exited else (s.G.lane l).st) ∧
        (t.G.lane l).pc = (if bit s.cur.sub l then (s.G.lane l).stepped.pc else (s.G.lane l).pc)) ∧
    (s.G.live = true → s.cur.slot ≠ 32 → (∀ l < 32, (s.G.lane l).st = .live → l ∈ s.active c) →
      ∃ t, exec (.exit c) s = .next t ∧ t.G.live = false ∧ t.mem = s.mem ∧ t.host = s.host)

/-- R352, R193: TRAP raises SW cause 1 with its code in every active subset, and passes where no lane is active. -/
def Sys2Proof.Claims.TrapRaises : Prop :=
  ∀ (c : Ctl) (code : BitVec 15) (s : State),
    (s.active c ≠ [] → ∃ t, exec (.trap c code) s = .next t ∧ Trapped s t 0xFF .sw 1 code.toNat 0) ∧
    (s.active c = [] → ∃ t, exec (.trap c code) s = .next t ∧ Passed s t ∧ SameRegs s t)

namespace Sys2Proof.Claims

/-- The redirect that set XPC was made at a header that no fetch had reached: what a skip resumes at is not known until the
header is read (R192). -/
def AtUnread (s : State) : Prop := ∃ r, s.G.sv = some r ∧ r.skip = .unread ∧ r.entry = true

end Sys2Proof.Claims

/-- R192, R194: trap.ret with INH set sends the active lanes back to XPC, or past it where SKIP is set, and clears INH; outside
a user handler it raises ILL cause 9. Past a header that has not been read yet, the lanes go on once it is read. That the lanes
whose predicate fails go to the next word is the model's choice (log 88). -/
def Sys2Proof.Claims.TrapReturn : Prop :=
  ∀ (c : Ctl) (s : State), s.active c ≠ [] →
    (bit s.G.xstat 7 = true → ∃ t, exec (.trapRet c) s = .next t ∧
      t = { s.setG t.G with due := t.due, nextId := t.nextId, free := t.free } ∧ SameRegs s t ∧ FlagsKept s t ∧
      t.G.xpc = s.G.xpc ∧ t.G.gang = s.G.gang ∧
      (∀ i < 32, bit t.G.xstat i = (bit s.G.xstat i && i != 7)) ∧
      (∀ l ∈ s.active c, (t.G.lane l).inh = false ∧
        (¬ (bit s.G.xstat 8 = true ∧ AtUnread s) →
          (t.G.lane l).pc = s.G.xpc.toNat % 2 ^ 56 + (if bit s.G.xstat 8 then 8 else 0)) ∧
        (bit s.G.xstat 8 = true → AtUnread s → (t.G.lane l).pc = s.G.xpc.toNat % 2 ^ 56 ∧ (t.G.lane l).hskip = true)) ∧
      ∀ l < 32, bit s.cur.sub l = true → l ∉ s.active c → (t.G.lane l).pc = (s.G.lane l).stepped.pc) ∧
    (bit s.G.xstat 7 = false → ∃ t, exec (.trapRet c) s = .next t ∧ Trapped s t 0xFF .ill 9 0 0)

namespace Sys2Proof.Claims

/-- ERET has passed in the agent's group: its subset stands at the next word, no register, no flag and no memory has changed, and
every other group but the one answered is as before. -/
def EretPassed (s t : State) (v : Nat) : Prop :=
  SameRegs s t ∧ LanesStepped s t ∧ Steady s t ∧ ∀ u < 32, u ≠ v → t.T.group u = s.T.group u

/-- The trap `y` of group `v` is answered: it is gone and its lanes are no longer trapped. -/
def TrapGone (s t : State) (v : Nat) (y : Trap) : Prop :=
  (t.T.group v).traps.length + 1 = (s.T.group v).traps.length ∧
    ∀ m < 32, bit y.lanes m = true → ((t.T.group v).lane m).trapped = false

end Sys2Proof.Claims

/-- R193, Table 8.4: at privilege A each ERET answers the first answerable trap of the group that its register names: retry
resumes the trapped lanes at the instruction, skip at the next word (behind a header that no fetch has reached, once that header
is read), redir in the handler, whose 64-bit address is not truncated, with XPC and XSTAT written. With no active lane it passes
without effect; a group number above 31, and a group without an answerable trap, raise ILL cause 9. -/
def Obligations.EretAnswers : Prop :=
  (∀ (c : Ctl) (r : Reg) (s : State) (l v : Nat) (y : Trap), s.cur.slot = 32 → s.G.priv ≠ .user →
    (s.active c).head? = some l → s.src l r 1 = v → v < 32 → (s.T.group v).answerable = some y →
    (∃ t, exec (.eretRetry c r) s = .next t ∧ EretPassed s t v ∧ TrapGone s t v y ∧
      ∀ m < 32, bit y.lanes m = true → ((t.T.group v).lane m).pc = ((s.T.group v).lane m).pc) ∧
    (∃ t, exec (.eretSkip c r) s = .next t ∧ EretPassed s t v ∧ TrapGone s t v y ∧
      ∀ m < 32, bit y.lanes m = true →
        if y.skipTo = .unread ∧ ((s.T.group v).lane m).entry = true
        then ((t.T.group v).lane m).pc = ((s.T.group v).lane m).pc ∧ ((t.T.group v).lane m).hskip = true
        else ((t.T.group v).lane m).pc = ((s.T.group v).lane m).pc + 8) ∧
    (∀ h : Reg, ∃ t, exec (.eretRedir c r h) s = .next t ∧ EretPassed s t v ∧ TrapGone s t v y ∧
      (t.T.group v).xpc = BitVec.ofNat 64 y.pc ∧
      bit (t.T.group v).xstat 7 = true ∧ bit (t.T.group v).xstat 8 = false ∧
      ∀ m < 32, bit y.lanes m = true → ((t.T.group v).lane m).inh = true ∧ ((t.T.group v).lane m).entry = true ∧
        ((t.T.group v).lane m).pc = s.src l h 2)) ∧
  ∀ i ∈ [fun (c : Ctl) (r _ : Reg) => Instr.eretRetry c r, fun c r _ => .eretSkip c r, fun c r h => .eretRedir c r h],
    ∀ (c : Ctl) (r h : Reg) (s : State), s.G.priv ≠ .user →
    (s.active c = [] → ∃ t, exec (i c r h) s = .next t ∧ Passed s t ∧ SameRegs s t) ∧
    (∀ l v, (s.active c).head? = some l → s.src l r 1 = v → (31 < v ∨ (s.T.group v).answerable = none) →
      ∃ t, exec (i c r h) s = .next t ∧ Trapped s t 0xFF .ill 9 v 0)

/-! ## Special registers and privilege -/

namespace Sys2Proof.Claims

/-- Special registers that MFS reads with a fixed latency: number, registers written, level, value (Tables 8.5 and 8.6). -/
def readableRegs : List (Nat × Nat × Nat × (State → Nat → Nat)) :=
  [(0x000, 1, 0, fun _ _ => 32), (0x001, 1, 0, fun _ l => l % 128), (0x002, 1, 0, fun s _ => s.cur.slot % 64),
   (0x003, 1, 0, fun s _ => (s.curTeam.map (·.num)).getD 0), (0x004, 1, 0, fun s _ => s.T.place % 8192),
   (0x010, 2, 0, fun s _ => (s.curTeam.map (·.tclk)).getD 0), (0x011, 2, 0, fun s _ => s.tileTime s.cur.tile),
   (0x012, 2, 0, fun s _ => s.gtimeAt s.T.tag (s.tileTime s.cur.tile)), (0x022, 1, 0, fun s _ => s.T.ctl.bint),
   (0x023, 2, 0, fun s _ => s.G.gang.toNat), (0x024, 1, 0, fun s _ => (48 - s.T.dis) % 64 + s.T.dis % 64 * 256),
   (0x025, 1, 0, fun s _ => s.T.ctl.leasecap), (0x030, 2, 0, fun s _ => s.T.ctl.pmc.getD 0 0 % 2 ^ 48),
   (0x031, 2, 0, fun s _ => s.T.ctl.pmc.getD 1 0 % 2 ^ 48), (0x032, 2, 0, fun s _ => s.T.ctl.pmc.getD 2 0 % 2 ^ 48),
   (0x033, 2, 0, fun s _ => s.T.ctl.pmc.getD 3 0 % 2 ^ 48), (0x038, 1, 0, fun s _ => (s.T.ctl.pmsWord 0).toNat),
   (0x039, 1, 0, fun s _ => (s.T.ctl.pmsWord 1).toNat), (0x03A, 1, 0, fun s _ => (s.T.ctl.pmsWord 2).toNat),
   (0x03B, 1, 0, fun s _ => (s.T.ctl.pmsWord 3).toNat), (0x040, 2, 0, fun s _ => s.G.xpc.toNat),
   (0x100, 1, 1, fun s _ => s.T.act % 4 + (s.T.slot 0).state.ctorIdx * 16 + (s.T.slot 1).state.ctorIdx * 64 +
     (s.T.slot 2).state.ctorIdx * 256),
   (0x102, 1, 1, fun s _ => s.T.ctl.pool.toNat), (0x200, 1, 2, fun s _ => s.T.tag % 1024 + s.T.gen % 16 * 1024)]

/-- Special registers that MTS writes: number, registers read, level, what the register then holds for a written value. -/
def writableRegs : List (Nat × Nat × Nat × (State → Nat) × (Nat → Nat)) :=
  [(0x20, 1, 0, fun t => t.G.fps.toNat, fun v => v &&& 0x1F1F), (0x21, 1, 0, fun t => t.G.istat.toNat, fun v => v &&& 0x303),
   (0x22, 1, 1, fun t => t.T.ctl.bint, fun v => v % 2 ^ 20), (0x23, 2, 1, fun t => t.G.gang.toNat, fun v => v &&& 0x73FFFFFFF),
   (0x25, 1, 1, fun t => t.T.ctl.leasecap, fun v => v % 2 ^ 19), (0x40, 2, 1, fun t => t.G.xpc.toNat, fun v => v % 2 ^ 56),
   (0x200, 1, 2, fun t => t.T.tag, fun v => v % 1024), (0x200, 1, 2, fun t => t.T.gen, fun v => v / 1024 % 16)]

end Sys2Proof.Claims

/-- R195 to R197: MFS at a sufficient level gives each computing lane the register's value; of FPS, ISTAT and XSTAT it leaves a
record that completes later, as does that of AEVT, which takes the first event; one that waits for room then enters the queue
(log 95). -/
def Sys2Proof.Claims.ReadSpecial : Prop :=
  (∀ e ∈ readableRegs, ∀ (nv : Nat) (c : Ctl) (d : Reg) (s : State), nv ≤ 128 →
    (Instr.mfs c d (BitVec.ofNat 10 e.1)).wf nv = true → e.2.2.1 ≤ s.G.priv.ctorIdx →
    ∃ t, exec (.mfs c d (BitVec.ofNat 10 e.1)) s = .next t ∧ FlagsKept s t ∧ Result s t c d e.2.1 [] fun l => e.2.2.2 s l) ∧
  (∀ (c : Ctl) (d : Reg) (s : State), s.active c ≠ [] →
    (∃ t, exec (.mfs c d 0x41) s = .next t ∧ Pending s t c d 1 [] (fun _ => s.G.xstat.toNat) fun _ => (0, 0)) ∧
    (∃ t, exec (.mfs c d 0x20) s = .next t ∧ Passed s t ∧ FlagsKept s t ∧ SameRegs s t ∧ ∃ o ∈ t.G.out, o.iid = s.nextId ∧ o.kind = 8) ∧
    (∃ t, exec (.mfs c d 0x21) s = .next t ∧ Passed s t ∧ FlagsKept s t ∧ SameRegs s t ∧ ∃ o ∈ t.G.out, o.iid = s.nextId ∧ o.kind = 16)) ∧
  (∀ (c : Ctl) (d : Reg) (s : State), s.active c ≠ [] → s.G.priv ≠ .user →
    ∃ t, exec (.mfsAevt c d) s = .next t ∧ t.T.aevt = s.T.aevt.drop 1 ++ s.T.aevtWait.take 1 ∧ Steady s t ∧ SameRegs s t ∧ LanesStepped s t ∧
      ∃ o ∈ t.G.out, o.iid = s.nextId ∧ o.tag = c.set.val)

/-- R195 to R200: MTS at a sufficient level writes the value of its lowest active lane, with reserved bits kept 0; a PMS keeps OVF
where it is not written as 1, XSTAT takes SKIP alone at U, APOOL is written while the context holds no team on the tile and the
word is admitted. -/
def Sys2Proof.Claims.WriteSpecial : Prop :=
  (∀ e ∈ writableRegs, ∀ (c : Ctl) (a : Reg) (s : State) (l : Nat), e.2.2.1 ≤ s.G.priv.ctorIdx →
    (s.active c).head? = some l → (∀ o ∈ s.G.out, o.kind % 4 = 0) →
    ∃ t, exec (.mts c (BitVec.ofNat 10 e.1) a) s = .next t ∧ e.2.2.2.1 t = e.2.2.2.2 (s.src l a e.2.1) ∧ SameRegs s t ∧
      LanesStepped s t ∧ t.mem = s.mem ∧ t.host = s.host ∧ t.teamData = s.teamData ∧ t.G.xstat = s.G.xstat ∧
      ∀ f ∈ writableRegs, f.1 ≠ e.1 → f.2.2.2.1 t = f.2.2.2.1 s) ∧
  (∀ (c : Ctl) (a : Reg) (s : State) (l : Nat), s.G.priv ≠ .user → (s.active c).head? = some l → s.T.ctl.teams = [] →
    s.T.admits (s.src l a 1 % 65536) 0 = true →
    ∃ t, exec (.mtsApool c a) s = .next t ∧ t.T.ctl.pool.toNat = s.src l a 1 % 65536 ∧ t.T.l1 = [] ∧ Steady s t ∧ SameRegs s t ∧
      LanesStepped s t) ∧
  (∀ (c : Ctl) (i : Fin 4) (a : Reg) (s : State) (l : Nat), (s.active c).head? = some l → s.T.ctl.pmc.length = 4 →
    ∃ t, exec (.mtsPmc c i a) s = .next t ∧ t.T.ctl.pmc.getD i.val 0 = s.src l a 2 % 2 ^ 48 ∧
      (∀ j < 4, j ≠ i.val → t.T.ctl.pmc.getD j 0 = s.T.ctl.pmc.getD j 0) ∧ Steady s t ∧ SameRegs s t ∧ LanesStepped s t) ∧
  (∀ (c : Ctl) (i : Fin 4) (a : Reg) (s : State) (l : Nat), (s.active c).head? = some l → s.T.ctl.pms.length = 4 →
    let v := BitVec.ofNat 32 (s.src l a 1)
    ∃ t, exec (.mts c (BitVec.ofNat 10 (0x38 + i.val)) a) s = .next t ∧
      t.T.ctl.pms.getD i.val 0 = (v &&& 0x00FFA0FF) ||| (s.T.ctl.pmsWord i.val &&& ~~~v &&& 0x4000) ∧
      (∀ j < 4, j ≠ i.val → t.T.ctl.pms.getD j 0 = s.T.ctl.pms.getD j 0) ∧ Steady s t ∧ SameRegs s t ∧ LanesStepped s t) ∧
  (∀ (c : Ctl) (a : Reg) (s : State) (l : Nat), s.G.priv = .user → (s.active c).head? = some l →
    ∃ t, exec (.mts c 0x41 a) s = .next t ∧ FlagsKept s t ∧ SameRegs s t ∧ LanesStepped s t ∧ t.mem = s.mem ∧ t.host = s.host ∧
      ∀ j < 32, bit t.G.xstat j = if j = 8 then tbit (s.src l a 1) 8 else bit s.G.xstat j)

namespace Sys2Proof.Claims

/-- The instructions refused below a level, with the level they need (1 A, 2 K), from their operands. -/
def privileged : List (Nat × (Ctl → Reg → Reg → Reg → Bool → Instr)) :=
  [(1, fun c r _ _ _ => .eretRetry c r), (1, fun c r _ _ _ => .eretSkip c r), (1, fun c r h _ _ => .eretRedir c r h),
   (1, fun c d sl a _ => .ctxsave c d sl a), (1, fun c d sl a _ => .ctxsaveFull c d sl a), (1, fun c sl a _ _ => .ctxload c sl a),
   (1, fun c sl _ _ _ => .ctxsw c sl), (1, fun c _ _ _ b => .tlbiCtx c b), (1, fun c _ _ _ b => .tlbiPart c b),
   (1, fun c a _ _ b => .tlbiPage c a b), (2, fun c a q _ b => .tlbiGrain c a q b), (2, fun c d a p _ => .placew c d a p)]

end Sys2Proof.Claims

/-- R177, Table 16.3: below its level an instruction raises PRIV: cause 1 with the level needed for an instruction, cause 2 for
a special register read, cause 3 for one written, with the register's number. -/
def Obligations.PrivilegeTraps : Prop :=
  (∀ e ∈ privileged, ∀ (c : Ctl) (x y z : Reg) (b : Bool) (s : State), s.priv.ctorIdx < e.1 →
    ∃ t, exec (e.2 c x y z b) s = .next t ∧ Trapped s t 0xFF .priv 1 e.1 0) ∧
  (∀ (c : Ctl) (d : Reg) (s : State), s.G.priv = .user →
    (∃ t, exec (.mfs c d 0x102) s = .next t ∧ Trapped s t 0xFF .priv 2 1 0x102) ∧
    (∃ t, exec (.mfs c d 0x200) s = .next t ∧ Trapped s t 0xFF .priv 2 2 0x200) ∧
    (∃ t, exec (.mfsAevt c d) s = .next t ∧ Trapped s t 0xFF .priv 2 1 0x101)) ∧
  (∀ (c : Ctl) (a : Reg) (s : State), s.G.priv = .user →
    (∃ t, exec (.mts c 0x22 a) s = .next t ∧ Trapped s t 0xFF .priv 3 1 0x22) ∧
    (∃ t, exec (.mts c 0x200 a) s = .next t ∧ Trapped s t 0xFF .priv 3 2 0x200) ∧
    (∃ t, exec (.mtsApool c a) s = .next t ∧ Trapped s t 0xFF .priv 3 1 0x102))

/-! ## Events, templates and stamps -/

namespace Sys2Proof.Claims

/-- The subset waits with `w` where it stands, and its instruction is issued again (R5): no register, no flag and nothing else that
the program can read has changed. -/
def HeldBack (s t : State) (w : Wait) : Prop :=
  SameRegs s t ∧ Steady s t ∧ ∀ l < 32, (t.G.lane l).pc = (s.G.lane l).pc ∧
    (bit s.cur.sub l = true → (t.G.lane l).wait = w)

/-- The context's event ring has no room (R322). -/
def RingFull (s : State) : Prop := ∃ x, s.ctx s.T.tag s.T.ctl.ctx = some x ∧ x.evbase ≠ 0 ∧ x.ringFull = true

/-- PMCi, which has not been written in this tile cycle, is enabled and counts EVT executions with number `n` at privilege U
(R200, R203, Table 8.6). -/
abbrev Counts (s : State) (n : BitVec 8) (i : Nat) : Prop :=
  let w := s.T.ctl.pmsIn (s.cycle s.cur.tile) i
  s.G.priv = .user ∧ bit w 13 = true ∧ w.toNat % 256 = 0x0F ∧ w.toNat / 65536 % 256 = n.toNat ∧
    s.T.ctl.pmcOpen (s.cycle s.cur.tile) i = true

end Sys2Proof.Claims

/-- R203, R322: EVT passes with nothing changed that a program can read but counters: with an active lane each counter that selects
its number advances by 1, and no other does. EVT.H posts its record where the ring has room, writes no byte outside it and passes; it holds while the ring is
full. -/
def Sys2Proof.Claims.EventInstructions : Prop :=
  (∀ (c : Ctl) (n : BitVec 8) (s : State), ∃ t, exec (.evt c n) s = .next t ∧ LanesStepped s t ∧ SameRegs s t ∧ Steady s t ∧
    (s.active c = [] → Passed s t) ∧
    ∀ i < 4, t.T.ctl.pmc.getD i 0 = s.T.ctl.pmc.getD i 0 + if s.active c ≠ [] ∧ Counts s n i then 1 else 0) ∧
  (∀ (c : Ctl) (n : BitVec 8) (a : Reg) (s : State),
    (s.active c = [] → ∃ t, exec (.evtH c n a) s = .next t ∧ Passed s t ∧ SameRegs s t ∧ FlagsKept s t) ∧
    (s.active c ≠ [] → RingFull s → ∃ t, exec (.evtH c n a) s = .next t ∧ HeldBack s t .none) ∧
    (¬ RingFull s → ∃ t, exec (.evtH c n a) s = .next t ∧ LanesStepped s t ∧ SameRegs s t ∧ FlagsKept s t ∧
      t.teamData = s.teamData ∧ t.G.xpc = s.G.xpc ∧ t.G.xstat = s.G.xstat ∧ t.G.gang = s.G.gang ∧
      ∀ x, s.active c ≠ [] → s.ctx s.T.tag s.T.ctl.ctx = some x →
        (x.evbase = 0 → Steady s t ∧ t.ctx s.T.tag s.T.ctl.ctx = some x) ∧
        (x.evbase ≠ 0 → ∀ pa, s.xlate s.T.tag s.T.ctl.ctx (x.evbase + 32 * (x.evprod % 2 ^ x.logsz)) .write .agent = some pa →
          (∀ b, b < pa ∨ pa + 32 ≤ b → Memory.get t.mem b = Memory.get s.mem b) ∧
          (regionOf pa = .plinth →
            (t.ctx s.T.tag s.T.ctl.ctx).map (·.evprod) = some ((x.evprod + 1) % 2 ^ 32)))) ∧
    (∀ x, s.active c ≠ [] → s.ctx s.T.tag s.T.ctl.ctx = some x → x.evbase ≠ 0 → x.ringFull = false →
      s.xlate s.T.tag s.T.ctl.ctx (x.evbase + 32 * (x.evprod % 2 ^ x.logsz)) .write .agent = none →
      ∃ t, exec (.evtH c n a) s = .next t ∧ LanesStepped s t ∧ SameRegs s t ∧ Steady s t ∧
        (t.ctx s.T.tag s.T.ctl.ctx).map (·.evlost) = some ((x.evlost + 1) % 2 ^ 32)))

/-- R40, R190, R191: FRZ with a number and a store slot free, a mask below the register count, a depth below 5 and an undamaged
parent enters a template that holds the lowest active lane's selected registers, linked where a template backs them, the k
registers and the entry address, which is not truncated (R76); the number is bound when the instruction completes. -/
def Sys2Proof.Claims.FreezeTemplate : Prop :=
  ∀ (c : Ctl) (idx : Fin 128) (mask : Reg) (n : Fin 16) (off : BitVec 16) (s : State),
    (s.active c = [] → ∃ t, exec (.frz c idx mask n off) s = .next t ∧ Passed s t ∧ SameRegs s t ∧ FlagsKept s t) ∧
    ∀ (l slot d : Nat) (rest : List Nat) (x : Team),
      let parent := (s.G.lane l).tmpl.bind fun sl => amGet s.T.store sl
      (s.active c).head? = some l → s.curTeam = some x → s.T.tmplNamed x n.val = none → s.T.freeTmpl = slot :: rest →
      (∀ i < 128, tbit (s.src l mask 4) i = true → i < poolNv s.T.ctl.pool) →
      (parent.map (·.depth)).getD 0 = d → d ≤ 3 → (∀ p, parent = some p → p.bad = false) →
      ∃ t tm, exec (.frz c idx mask n off) s = .next t ∧ LanesStepped s t ∧ Steady s t ∧
        ((∀ m < 32, (s.G.lane m).tmpl ≠ some slot) → (∀ e ∈ s.T.store, e.2.parent ≠ some slot) → SameRegs s t) ∧
        amGet t.T.store slot = some tm ∧ tm.num = n.val ∧ tm.teams = [x.id] ∧ tm.idx = idx.val ∧ tm.depth = d + 1 ∧
        tm.live = false ∧ tm.parent = (s.G.lane l).tmpl ∧ (∃ o ∈ t.G.out, o.iid = s.nextId ∧ o.frz = some slot ∧ o.tag = c.set.val) ∧
        tm.entry = wrap 64 ((s.cur.pc : Int) + 8 * off.toInt) ∧
        (∀ i < 128, bit tm.mask i = (tbit (s.src l mask 4) i && i != idx.val)) ∧
        (∀ i < 128, bit tm.link i = (bit tm.mask i && bit (s.G.lane l).back i)) ∧
        (∀ i < 128, bit tm.mask i = true → bit (s.G.lane l).back i = false → (amGet tm.v i).getD 0 = s.reg l i) ∧
        (∀ i < 32, (amGet tm.k i).getD 0 = s.reg l (128 + i)) ∧
        ∀ u, u ≠ slot → amGet t.T.store u = amGet s.T.store u

/-- R41, R190: STAMP queues one group for each 32 items, the last one shorter, while its team's queue has room, and holds while it
has none; 1,025 items or more raise TMPL cause 6. -/
def Sys2Proof.Claims.StampQueues : Prop :=
  ∀ (c : Ctl) (n : Fin 16) (base cnt : Reg) (s : State),
    (s.active c = [] → ∃ t, exec (.stamp c n base cnt) s = .next t ∧ Passed s t ∧ SameRegs s t ∧ FlagsKept s t) ∧
    ∀ (l slot : Nat) (x : Team) (tm : Template),
    (s.active c).head? = some l → s.curTeam = some x → s.T.team x.id = some x → s.T.tmplOf x n.val = some (slot, tm) →
    (s.src l cnt 1 ≤ 1024 → tm.bad = false → x.pend.length + (s.src l cnt 1 + 31) / 32 ≤ 32 →
      ∃ t y, exec (.stamp c n base cnt) s = .next t ∧ SameRegs s t ∧ LanesStepped s t ∧ Steady s t ∧ t.T.team x.id = some y ∧
        y.pend.take x.pend.length = x.pend ∧ y.pend.length = x.pend.length + (s.src l cnt 1 + 31) / 32 ∧
        ∀ i g, (y.pend.drop x.pend.length)[i]? = some g → g.tmpl = slot ∧ g.base = (s.src l base 1 + 32 * i) % 2 ^ 32 ∧
          g.n = min 32 (s.src l cnt 1 - 32 * i)) ∧
    (s.src l cnt 1 ≤ 1024 → tm.bad = false → 32 < x.pend.length + (s.src l cnt 1 + 31) / 32 →
      ∃ t, exec (.stamp c n base cnt) s = .next t ∧ HeldBack s t .none) ∧
    (1024 < s.src l cnt 1 →
      ∃ t, exec (.stamp c n base cnt) s = .next t ∧ Trapped s t 0xFF .tmpl 6 (s.src l cnt 1) 0)

namespace Sys2Proof.Claims

/-- The active lanes whose item has not been accepted yet. -/
abbrev spawning (s : State) (c : Ctl) : List Nat := (s.active c).filter fun l => !(s.G.lane l).done

/-- The bin that takes the items of a template and a team: the one that collects them, or the lowest empty one (R45). -/
def TakesItems (s : State) (slot team b : Nat) (old : List Item) : Prop :=
  (∃ y, s.T.ctl.bins.find? (fun e => e.2.tmpl == slot && e.2.team == team) = some (b, y) ∧ y.items = old) ∨
  (s.T.ctl.bins.find? (fun e => e.2.tmpl == slot && e.2.team == team) = none ∧
    (List.range 16).find? (fun k => (amGet s.T.ctl.bins k).isNone) = some b ∧ old = [])

/-- The bin holds its former items and one of each spawning lane, which has come in this tile cycle. -/
def ItemsIn (s t : State) (c : Ctl) (idx : Reg) (slot team b : Nat) (old : List Item) : Prop :=
  ∃ z, amGet t.T.ctl.bins b = some z ∧ z.tmpl = slot ∧ z.team = team ∧
    z.items.Perm (old ++ (spawning s c).map fun l =>
      { idx := s.src l idx 1, at_ := s.tileTime s.cur.tile, cyc := s.cycle s.cur.tile, src := s.cur.slot })

end Sys2Proof.Claims

/-- R44, R45, R190: SPAWN with its release performed and room in the bin of its template and team puts the items of all its
lanes there and passes, and SPAWN.REM of lanes that all name their own place does the same; with every item accepted before, both
pass. SPAWN.REM of a lane that names another tile with a team of the cluster sends the item there and holds the subset until the
answer. -/
def Sys2Proof.Claims.SpawnItem : Prop :=
  ∀ (c : Ctl) (n : Fin 16) (idx place : Reg) (s : State),
    (spawning s c = [] →
      (∃ t, exec (.spawn c n idx) s = .next t ∧ Passed s t ∧ SameRegs s t ∧ FlagsKept s t) ∧
      (s.T.tableBad = false → ∃ t, exec (.spawnRem c n idx place) s = .next t ∧ Passed s t ∧ SameRegs s t ∧ FlagsKept s t)) ∧
    (∀ (slot b : Nat) (x : Team) (tm : Template) (old : List Item),
      spawning s c ≠ [] → s.curTeam = some x → s.T.tmplOf x n.val = some (slot, tm) → tm.bad = false →
      s.T.ctl.held = [] → TakesItems s slot x.id b old → old.length + (spawning s c).length ≤ 64 →
      (s.relOk s.cur.tile s.cur.slot .team s.nextId = true →
        ∃ t, exec (.spawn c n idx) s = .next t ∧ SameRegs s t ∧ LanesStepped s t ∧ Steady s t ∧ ItemsIn s t c idx slot x.id b old) ∧
      (s.T.tableBad = false → (∀ l ∈ spawning s c, s.T.placeOf (s.src l place 1) = .ok s.cur.tile) →
        s.relOk s.cur.tile s.cur.slot .cluster s.nextId = true →
        ∃ t, exec (.spawnRem c n idx place) s = .next t ∧ SameRegs s t ∧ LanesStepped s t ∧ Steady s t ∧
          ItemsIn s t c idx slot x.id b old)) ∧
    ∀ (l u : Nat) (x y : Team), (spawning s c).head? = some l → s.T.tableBad = false → s.curTeam = some x →
      s.T.placeOf (s.src l place 1) = .ok u → u ≠ s.cur.tile → s.mateOn s.cur.tile x u = some y →
      s.relOk s.cur.tile s.cur.slot .cluster s.nextId = true →
      ∃ t, exec (.spawnRem c n idx place) s = .next t ∧ HeldBack s t (.spawn l) ∧
        ∃ q, amGet t.reqs s.nextId = some q ∧ q.kind = .spawn n.val (s.src l idx 1) ∧ q.lane = l ∧ q.rtile = u ∧ q.rteam = y.id ∧
          ({ ev := .routerPacketReceive s.cur.tile (q.packet s.nextId) } : Due) ∈ t.due

/-! ## Context slots and translations -/

/-- R204 to R207: at privilege A a save of an empty slot passes with length 0, a load of an image whose header, pages and CHK hold
and whose work fits streams into an empty or loaded slot, a switch to a loaded slot makes it the active one once the old context is
idle, and a context slot above 2 raises ILL cause 7. The agent's own lanes are threads of no template (R25). -/
def Obligations.ContextSlots : Prop :=
  ∀ (c : Ctl) (d sl a : Reg) (s : State) (l : Nat), s.cur.slot = 32 → s.G.priv ≠ .user → (s.active c).head? = some l →
    let n := s.src l sl 1
    let va := s.src l a 2
    (∀ ps, va % 64 = 0 → s.imagePages va 64 .write = .ok ps → n ≤ 2 → (s.T.slot n).state = .empty →
      (∃ t, exec (.ctxsave c d sl a) s = .next t ∧ LanesStepped s t ∧ SameRegs s t ∧ Steady s t ∧
        ∃ o ∈ t.G.out, o.iid = s.nextId ∧ o.res = spread 32 d 1 0) ∧
      (∃ t, exec (.ctxsaveFull c d sl a) s = .next t ∧ LanesStepped s t ∧ SameRegs s t ∧ Steady s t ∧
        ∃ o ∈ t.G.out, o.iid = s.nextId ∧ o.res = spread 32 d 1 0)) ∧
    (n ≤ 2 → (s.T.slot n).state = .loaded → s.T.act ≠ n → (s.T.ctl.groups.any fun g => g.2.live) = false →
      (∀ m < 32, (s.G.lane m).back = 0) → (∀ i < 4, s.T.ctl.pmc.getD i 0 < 2 ^ 48) → s.T.poolOut = none →
      ∃ t, exec (.ctxsw c sl) s = .next t ∧ SameRegs s t ∧ FlagsKept s t ∧ LanesStepped s t ∧ t.mem = s.mem ∧ t.host = s.host ∧
        t.T.act = n ∧ (t.T.slot n).st = .active ∧ t.T.ctl.ctx = (s.T.slot n).ctl.ctx) ∧
    (∀ (p0 ps : ImagePages) (x : CtxCtl), n ≤ 2 → ((s.T.slot n).state = .empty ∨ (s.T.slot n).state = .loaded) →
      (∀ m < 32, (s.G.lane m).back = 0) → s.imagePages va 64 .read = .ok p0 →
      headerFault s.T (s.pagesGet p0 64 va) = 0 →
      let len := sliceNum (s.pagesGet p0 64 va) 0 4
      s.imagePages va (max 64 len) .read = .ok ps → chkHolds (s.pagesGet ps len va) = true →
      (s.part s.T.tag).bind (fun P => P.imageOf (s.pagesGet ps len va)) = some x →
      ({ s.dropAns.T.setSlot n {} with store := s.T.store.filter fun e => e.2.cslot != n } : Tile).fitImage x = 0 →
      ∃ t, exec (.ctxload c sl a) s = .next t ∧ LanesStepped s t ∧ SameRegs s t ∧ FlagsKept s t ∧ t.mem = s.mem ∧
        t.host = s.host ∧ (t.T.slot n).st = .streaming ∧ (t.T.slot n).ctl.ctx = x.ctx ∧
        ({ ev := .shadowLoaded s.cur.tile n } : Due) ∈ t.due) ∧
    (2 < n → ∃ t, exec (.ctxsw c sl) s = .next t ∧ Trapped s t 0xFF .ill 7 n 0)

/-- R208: a TLBI at its level, with the stores before it performed at partition scope, leaves no entry in the tile's own TLBs that
it names, and walks in flight of that scope install nothing. -/
def Sys2Proof.Claims.InvalidateTranslations : Prop :=
  ∀ (c : Ctl) (b : Bool) (a q : Reg) (s : State) (l : Nat), (s.active c).head? = some l → s.G.priv = .keystone →
    s.relOk s.cur.tile s.cur.slot .part s.nextId = true → amGet s.tiles s.cur.tile = some s.T →
    (∃ t, exec (.tlbiCtx c b) s = .next t ∧ SameRegs s t ∧ LanesStepped s t ∧ Steady s t ∧
      ∀ e ∈ t.T.tlb1 ++ t.T.tlb2, (e ∈ s.T.tlb1 ++ s.T.tlb2) ∧ ¬ (e.tag = s.T.tag ∧ e.ctx = s.T.ctl.ctx)) ∧
    (∃ t, exec (.tlbiPart c b) s = .next t ∧ SameRegs s t ∧ LanesStepped s t ∧ Steady s t ∧
      ∀ e ∈ t.T.tlb1 ++ t.T.tlb2, (e ∈ s.T.tlb1 ++ s.T.tlb2) ∧ e.tag ≠ s.T.tag) ∧
    (∃ t, exec (.tlbiPage c a b) s = .next t ∧ SameRegs s t ∧ LanesStepped s t ∧ Steady s t ∧
      ∀ e ∈ t.T.tlb1 ++ t.T.tlb2, (e ∈ s.T.tlb1 ++ s.T.tlb2) ∧
        ¬ (e.tag = s.T.tag ∧ e.ctx = s.T.ctl.ctx ∧ e.va ≤ s.src l a 2 ∧ s.src l a 2 < e.va + 2 ^ e.lg)) ∧
    (∃ t, exec (.tlbiGrain c a q b) s = .next t ∧ SameRegs s t ∧ LanesStepped s t ∧ Steady s t ∧
      ∀ e ∈ t.T.tlb1 ++ t.T.tlb2, (e ∈ s.T.tlb1 ++ s.T.tlb2) ∧
        ¬ (e.tag = s.src l q 1 ∧ e.ppa / 2 ^ 28 ≤ s.src l a 2 / 2 ^ 28 ∧
          s.src l a 2 / 2 ^ 28 ≤ (e.ppa + 2 ^ e.lg - 1) / 2 ^ 28))

/-- R209, R310: PLACEW at privilege K writes one entry of a tile's place table while no context is active there or Keystone has
paused it, and refuses with RESOURCE cause 6 while one is. -/
def Sys2Proof.Claims.WritePlace : Prop :=
  ∀ (c : Ctl) (d a b : Reg) (s : State) (l : Nat), (s.active c).head? = some l → s.G.priv = .keystone →
    let e := s.src l d 1
    let u := s.src l a 1
    let p := s.src l b 1
    u < 8400 → p < 8192 → e < 65536 → tbit e 14 = false → e % 2 ^ 14 < 8400 →
    ((s.tile u).runsCtx = true → ∃ t, exec (.placew c d a b) s = .next t ∧
      ∃ r, t.G.lastTrap = some r ∧ r.cls = .resource ∧ r.cause = 6 ∧ r.info1 = e ∧ r.info2 = u) ∧
    ((s.tile u).runsCtx = false →
      ∃ t, exec (.placew c d a b) s = .next t ∧ SameRegs s t ∧ LanesStepped s t ∧ Steady s t ∧ (amGet (t.tile u).places p).getD 0 = e ∧
        ∀ q, q ≠ p → (amGet (t.tile u).places q).getD 0 = (amGet (s.tile u).places q).getD 0)

/-- A group whose subset has taken 64 backward branches hands issue to the next lane above the rotation pointer that stands
elsewhere; a hand-off that is in force ends. -/
def Sys2Proof.Claims.BackwardHandOff : Prop :=
  ∀ s : State, let G := s.G
    64 ≤ G.bcount →
    ∃ t, exec .backwardBranchHandoff s = .next t ∧ t = { s with tiles := t.tiles } ∧ t.G.bcount = 0 ∧ t.G.lanes = G.lanes ∧
      (G.hand ≠ none → t.G.hand = none) ∧ ∀ k l, G.hand = none → G.sel = some k →
        ((List.range 32).map fun i => (G.rot + 1 + i) % 32).find? (fun l => G.eligible l && (G.lane l).pc != (G.lane k).pc) =
          some l → t.G.hand = some l ∧ t.G.rot = l

/-- R188, R28, R30: branches, the reconvergence entry of a divergent one, and the hand-off after 64 backward ones. -/
def Obligations.BranchesDiverge : Prop := BranchTaken ∧ DivergenceEntry ∧ BackwardHandOff

/-- R189, R34: NOP, YIELD and EXIT. -/
def Obligations.NopYieldExit : Prop := NopYield ∧ ExitThreads

/-- R352, R193, R192, R194: TRAP, and TRAP.RET in a user handler. -/
def Obligations.TrapAndReturn : Prop := TrapRaises ∧ TrapReturn

/-- R203, R40, R41, R44, R45, R190: events, templates, stamps and spawned items. -/
def Obligations.EventsTemplates : Prop := EventInstructions ∧ FreezeTemplate ∧ StampQueues ∧ SpawnItem

/-- R208, R209: TLBI and PLACEW. -/
def Obligations.TranslationsPlaces : Prop := InvalidateTranslations ∧ WritePlace

/-- R230 to R234: the lane instructions. -/
def Obligations.LaneInstructions : Prop := ShuffleResult ∧ ReduceScanPending ∧ VoteResult

/-- R195 to R200: special registers read and written. -/
def Obligations.SpecialRegisters : Prop := ReadSpecial ∧ WriteSpecial
/-! ## Memory instructions -/

namespace Sys2Proof.Claims

/-- A memory instruction has passed: its subset stands at the next word, and no register, no flag and no byte of plinth or host
memory has changed, nor XPC or XSTAT; of the team's data and of GANG other clauses speak. -/
def Issued (s t : State) : Prop :=
  LanesStepped s t ∧ SameRegs s t ∧ FlagsKept s t ∧ t.mem = s.mem ∧ t.host = s.host ∧ t.G.xpc = s.G.xpc ∧ t.G.xstat = s.G.xstat

/-- It has changed nothing of its team's data either, nor GANG. -/
def IssuedOnly (s t : State) : Prop := Issued s t ∧ Steady s t

/-- Bytes of the data of an access width (R165). -/
def widthBytes : Wd → Nat
  | .b8 => 1
  | .b16 => 2
  | .b32 => 4
  | .b64 => 8
  | .b128 => 16

/-- The group has no memory operation in flight. -/
abbrev Quiet (s : State) : Prop := s.reqsOf s.cur.tile s.cur.slot = []

/-- A request in flight: its lane, instruction, addresses, size and work. -/
def InFlight (t : State) (lane iid va pa size : Nat) (k : ReqKind) : Prop :=
  ∃ id q, amGet t.reqs id = some q ∧ q.lane = lane ∧ q.iid = iid ∧ q.va = va ∧ q.pa = pa ∧ q.size = size ∧ q.kind = k ∧
    q.perf = false

/-- R239, R240, R77, R70: LD from the own scratchpad, with the pool exchange done, leaves a record that writes each lane's bytes,
zero-extended, when it completes. -/
def LoadLocal : Prop :=
  ∀ (nv : Nat) (x : LdR) (s : State) (y : Team) (off : Nat → Nat), nv ≤ 128 → (Instr.ld x).wf nv = true →
    s.curTeam = some y →
    (∀ l ∈ s.memLanes x.c [x.d, x.a], s.eaOf x.m .read (widthBytes x.w) x.a l = .loc (off l) ∧
      s.T.badSp s.G.team (off l) (widthBytes x.w) = false) →
    s.T.segs = [] → (x.ord ≠ .plain → Quiet s) →
    ∃ t, exec (.ld x) s = .next t ∧ IssuedOnly s t ∧ ∃ o ∈ t.G.out, o.iid = s.nextId ∧ o.rem = 0 ∧
      o.res = (s.memLanes x.c [x.d, x.a]).flatMap fun l =>
        spread (accLane [x.d, x.a] l) x.d x.w.regs (y.spRead (off l) (widthBytes x.w))

/-- R239, R107: LD from plinth memory sends one load for each lane that accesses it. -/
def LoadGlobal : Prop :=
  ∀ (x : LdR) (s : State) (va : Nat → Nat) (e : Nat → TlbEnt), Quiet s → s.T.l1 = [] → (∀ sc, x.ord ≠ .acq sc) →
    (s.field (fieldOf s.cur.tile)).hold = false →
    (∀ l ∈ s.memLanes x.c [x.d, x.a], s.eaOf x.m .read (widthBytes x.w) x.a l = .mem (va l) (e l) ∧
      regionOf ((e l).phys (va l)) = .plinth ∧ s.poisoned ((e l).phys (va l)) (widthBytes x.w) = false) →
    ∃ t, exec (.ld x) s = .next t ∧ IssuedOnly s t ∧
      (∃ o ∈ t.G.out, o.iid = s.nextId ∧ o.rem = (s.memLanes x.c [x.d, x.a]).length) ∧
      ∀ l ∈ s.memLanes x.c [x.d, x.a], InFlight t (accLane [x.d, x.a] l) s.nextId (va l) ((e l).phys (va l))
        (widthBytes x.w) (.load (decide (x.reuse.val ≠ 0) && !(x.ord == .vol) && !(e l).dev))

/-- R239, R240: ST to the own scratchpad stores each lane's bytes at once: no byte outside them changes, and where the lanes'
bytes are apart each reads back. -/
def StoreLocal : Prop :=
  ∀ (x : StR) (s : State) (y : Team) (off : Nat → Nat), s.curTeam = some y → y.id = s.G.team → s.T.segs = [] →
    (x.ord = .vol → Quiet s) →
    (∀ l ∈ s.memLanes x.c [x.d, x.a], s.eaOf x.m .write (widthBytes x.w) x.a l = .loc (off l)) →
    (∀ sc, x.ord = .rel sc → s.relOk s.cur.tile s.cur.slot sc s.nextId = true) →
    ∃ t z, exec (.st x) s = .next t ∧ Issued s t ∧ t.curTeam = some z ∧ z.full = y.full ∧ z.acc = y.acc ∧ t.G.gang = s.G.gang ∧
      (∀ a, (∀ l ∈ s.memLanes x.c [x.d, x.a], a < off l ∨ off l + widthBytes x.w ≤ a) → z.spGet a = y.spGet a) ∧
      ((s.memLanes x.c [x.d, x.a]).Pairwise (fun l m => off l + widthBytes x.w ≤ off m ∨ off m + widthBytes x.w ≤ off l) →
        ∀ l ∈ s.memLanes x.c [x.d, x.a],
          z.spRead (off l) (widthBytes x.w) = s.src l x.d x.w.regs % 256 ^ widthBytes x.w)

/-- R239, R107: ST to plinth memory sends one store for each lane that accesses it; memory changes only where the store is
applied. -/
def StoreGlobal : Prop :=
  ∀ (x : StR) (s : State) (va : Nat → Nat) (e : Nat → TlbEnt), Quiet s →
    (∀ sc, x.ord = .rel sc → s.relOk s.cur.tile s.cur.slot sc s.nextId = true) →
    (∀ l ∈ s.memLanes x.c [x.d, x.a], s.eaOf x.m .write (widthBytes x.w) x.a l = .mem (va l) (e l) ∧
      regionOf ((e l).phys (va l)) = .plinth) →
    ∃ t, exec (.st x) s = .next t ∧ IssuedOnly s t ∧
      (∃ o ∈ t.G.out, o.iid = s.nextId ∧ o.rem = (s.memLanes x.c [x.d, x.a]).length) ∧
      ∀ l ∈ s.memLanes x.c [x.d, x.a], InFlight t (accLane [x.d, x.a] l) s.nextId (va l) ((e l).phys (va l))
        (widthBytes x.w) (.store (s.src l x.d x.w.regs % 256 ^ widthBytes x.w))

/-- R241: PREF sends one prefetch for each lane whose address is good; it never traps. -/
def Prefetch : Prop :=
  ∀ (x : PrefR) (s : State) (va : Nat → Nat) (e : Nat → TlbEnt), (s.field (fieldOf s.cur.tile)).hold = false →
    (∀ l ∈ s.memLanes x.c [x.a],
      s.eaGlobal .read false 1 (wrap 64 ((s.src l x.a 2 : Int) + x.off.toInt * widthBytes x.w)) = .mem (va l) (e l) ∧
      regionOf ((e l).phys (va l)) = .plinth ∧ (e l).dev = false) →
    ∃ t, exec (.pref x) s = .next t ∧ IssuedOnly s t ∧
      ∀ l ∈ s.memLanes x.c [x.a], InFlight t (accLane [x.a] l) 0 (va l) ((e l).phys (va l)) 1 .pref

/-- R236, Table 16.3: an unaligned address in the lowest accessing lane raises ALIGN cause 1 there, with the address and the
alignment, and stores nothing. -/
def Misaligned : Prop :=
  (∀ (x : LdR) (s : State) (l ea : Nat) (off : BitVec 10), x.m = .gl off → s.T.tableBad = false →
    s.memLanes x.c [x.d, x.a] = [l] → wrap 64 ((s.src l x.a 2 : Int) + off.toInt * widthBytes x.w) = ea → ea < 2 ^ 56 →
    ea % widthBytes x.w ≠ 0 →
    ∃ t, exec (.ld x) s = .next t ∧
      Trapped s t (if [x.d, x.a].any Reg.isV then l else 0xFF) .align 1 ea (widthBytes x.w)) ∧
  (∀ (x : StR) (s : State) (l ea : Nat) (off : BitVec 10), x.m = .gl off → s.T.tableBad = false →
    s.memLanes x.c [x.d, x.a] = [l] → wrap 64 ((s.src l x.a 2 : Int) + off.toInt * widthBytes x.w) = ea → ea < 2 ^ 56 →
    ea % widthBytes x.w ≠ 0 →
    ∃ t, exec (.st x) s = .next t ∧
      Trapped s t (if [x.d, x.a].any Reg.isV then l else 0xFF) .align 1 ea (widthBytes x.w))

/-- The subset waits for the requests of instruction `iid`, where it stood. -/
def Waits (s t : State) (w : Wait) : Prop :=
  SameRegs s t ∧ Steady s t ∧ ∀ l < 32, bit s.cur.sub l = true → (t.G.lane l).wait = w ∧ (t.G.lane l).pc = (s.G.lane l).pc

/-- The scope of a full/empty access to local words: the team, or the cluster with .c (R124). -/
def localFe (wide : Bool) : Scope := if wide then .cluster else .team

/-- R124, R242: LDF and STE of a local word queue one request for each lane that is not done and hold the subset until they are
served; STF and SETFE write the word's state at once. -/
def FullEmpty : Prop :=
  (∀ (x : FeR) (s : State) (off : Nat → Nat),
    let ls := (s.memLanes x.c [x.d, x.a]).filter fun l => !(s.G.lane l).done
    ls ≠ [] → s.T.segs = [] →
    ((∀ l ∈ ls, s.eaOf x.m .read 4 x.a l = .loc (off l) ∧ s.T.badSp s.G.team (off l) 4 = false) →
      ∃ t, exec (.ldf x) s = .next t ∧ Waits s t (.fe s.nextId) ∧
        ∀ l ∈ ls, InFlight t (accLane [x.d, x.a] l) s.nextId (off l) 0 4 (.spLdf x.take)) ∧
    ((∀ l ∈ ls, s.eaOf x.m .write 4 x.a l = .loc (off l)) → s.relOk s.cur.tile s.cur.slot (localFe x.wide) s.nextId = true →
      ∃ t, exec (.ste x) s = .next t ∧ Waits s t (.fe s.nextId) ∧
        ∀ l ∈ ls, InFlight t (accLane [x.d, x.a] l) s.nextId (off l) 0 4 (.spSte (s.src l x.d 1)))) ∧
  (∀ (x : FeR) (s : State) (y : Team) (l off : Nat), s.curTeam = some y → y.id = s.G.team → s.T.segs = [] →
    s.memLanes x.c [x.d, x.a] = [l] → s.eaOf x.m .write 4 x.a l = .loc off → off % 4 = 0 → s.src l x.d 1 < 2 ^ 32 →
    s.relOk s.cur.tile s.cur.slot (localFe x.wide) s.nextId = true →
    ∃ t z, exec (.stf x) s = .next t ∧ Issued s t ∧ t.curTeam = some z ∧ z.acc = y.acc ∧ t.G.gang = s.G.gang ∧ off / 4 ∈ z.full ∧
      z.spRead off 4 = s.src l x.d 1 ∧ (∀ w, w ≠ off / 4 → (w ∈ z.full ↔ w ∈ y.full)) ∧
      ∀ a, a < off ∨ off + 4 ≤ a → z.spGet a = y.spGet a) ∧
  (∀ (x : SetfeR) (s : State) (y : Team) (off : Nat → Nat), s.curTeam = some y → y.id = s.G.team → s.T.segs = [] →
    (∀ l ∈ s.memLanes x.c [x.a], s.eaOf x.m .write 4 x.a l = .loc (off l)) →
    ∃ t z, exec (.setfe x) s = .next t ∧ Issued s t ∧ t.curTeam = some z ∧ z.acc = y.acc ∧ t.G.gang = s.G.gang ∧
      (∀ l ∈ s.memLanes x.c [x.a], off l / 4 ∈ z.full ↔ x.full = true) ∧
      (∀ w, (∀ l ∈ s.memLanes x.c [x.a], w ≠ off l / 4) → (w ∈ z.full ↔ w ∈ y.full)) ∧ ∀ a, z.spGet a = y.spGet a)

/-- The new value of an atomic from old, b and d, and whether it is written (Table 10.4). -/
def atomNew (op : AtOp) (old b d : Nat) : Nat :=
  match op with
  | .add t => (old + b) % 2 ^ tyBits t
  | .min t => if tyRead t b < tyRead t old then b else old
  | .max t => if tyRead t old < tyRead t b then b else old
  | .and _ => old &&& b
  | .or _ => old ||| b
  | .xor _ => old ^^^ b
  | .xchg _ => b
  | .cas _ => if old = b then d else old
  | .fadd .bf16 =>
    (fpAdd Fmt.bf16 .rne (old % 65536) (b % 65536)).1 + 65536 * (fpAdd Fmt.bf16 .rne (old / 65536) (b / 65536)).1
  | .fadd t => (fpAdd (fmtOf t) .rne old b).1

/-- The release and the acquire of an ATOM (Table 7.9). -/
def relOf : AtOrd → Option Scope
  | .rel sc | .acqRel sc => some sc
  | _ => none
def acqOf : AtOrd → Option Scope
  | .acq sc | .acqRel sc => some sc
  | _ => none

/-- A release before the instruction, where it has one, has been performed (R116). -/
abbrev Released (s : State) (rel : Option Scope) : Prop :=
  ∀ sc, rel = some sc → s.relOk s.cur.tile s.cur.slot sc s.nextId = true

/-- The lanes of the issuing subset have passed to the next word, where they may wait for an acquire (R116); every other lane
stands where it stood. -/
def WentOn (s t : State) (acq : Option Scope) : Prop :=
  ∀ l < 32, let L := if bit s.cur.sub l then (s.G.lane l).stepped else s.G.lane l
    t.G.lane l = { L with v := (t.G.lane l).v, back := (t.G.lane l).back, p := (t.G.lane l).p, wait := (t.G.lane l).wait } ∧
    ((t.G.lane l).wait = L.wait ∨
      (bit s.cur.sub l = true ∧ ∃ sc k, acq = some sc ∧ (t.G.lane l).wait = .fence .acq sc k false))

/-- A memory instruction with an acquire has passed: as `Issued`, but for that wait. -/
def IssuedAcq (s t : State) (acq : Option Scope) : Prop :=
  WentOn s t acq ∧ SameRegs s t ∧ FlagsKept s t ∧ t.mem = s.mem ∧ t.host = s.host ∧ t.G.xpc = s.G.xpc ∧ t.G.xstat = s.G.xstat ∧
    t.G.gang = s.G.gang

/-- Lanes whose `n` bytes do not overlap. -/
abbrev Apart (ls : List Nat) (off : Nat → Nat) (n : Nat) : Prop := ls.Pairwise fun l m => off l + n ≤ off m ∨ off m + n ≤ off l

/-- R244, R245, R116: ATOM and RED on the own scratchpad, with their release performed, act at once: no byte outside the lanes'
words changes, and where the words are apart each holds the new value of Table 10.4 and ATOM's record holds the old ones. -/
def AtomicLocal : Prop :=
  (∀ (x : AtomR) (s : State) (y : Team) (off : Nat → Nat), s.curTeam = some y → y.id = s.G.team → s.T.segs = [] →
    let n := 4 * x.op.regs
    let ls := s.memLanes x.c [x.d, x.a, x.b]
    (∀ l ∈ ls, s.eaAt x.sp n x.a l = .loc (off l) ∧ s.T.badSp s.G.team (off l) n = false) → Released s (relOf x.ord) →
    ∃ t z, exec (.atom x) s = .next t ∧ IssuedAcq s t (acqOf x.ord) ∧ t.curTeam = some z ∧ z.full = y.full ∧ z.acc = y.acc ∧
      (∀ a, (∀ l ∈ ls, a < off l ∨ off l + n ≤ a) → z.spGet a = y.spGet a) ∧
      (Apart ls off n →
        (∀ l ∈ ls, z.spRead (off l) n = atomNew x.op (y.spRead (off l) n) (s.srcAt l x.op x.b) (s.src l x.d x.op.regs) % 256 ^ n) ∧
        ∃ o ∈ t.G.out, o.iid = s.nextId ∧ o.rem = 0 ∧
          o.res = ls.flatMap fun l => spread (accLane [x.d, x.a, x.b] l) x.d x.op.regs (y.spRead (off l) n))) ∧
  (∀ (x : RedR) (s : State) (y : Team) (off : Nat → Nat), s.curTeam = some y → y.id = s.G.team → s.T.segs = [] →
    let n := 4 * x.op.regs
    let ls := s.memLanes x.c [x.a, x.b]
    (∀ l ∈ ls, s.eaAt x.sp n x.a l = .loc (off l)) → Released s x.rel →
    ∃ t z, exec (.red x) s = .next t ∧ Issued s t ∧ t.curTeam = some z ∧ z.full = y.full ∧ z.acc = y.acc ∧ t.G.gang = s.G.gang ∧
      (∀ a, (∀ l ∈ ls, a < off l ∨ off l + n ≤ a) → z.spGet a = y.spGet a) ∧
      (Apart ls off n →
        ∀ l ∈ ls, z.spRead (off l) n = atomNew x.op (y.spRead (off l) n) (s.srcAt l x.op x.b) 0 % 256 ^ n))

/-- R244, R245, R248, R116: ATOM, RED and GTH on global memory, with their release performed, send one request for each lane that
accesses it, and their subset goes on, where an acquire may hold it. -/
def AtomicGlobal : Prop :=
  (∀ (x : AtomR) (s : State) (va : Nat → Nat) (e : Nat → TlbEnt), Released s (relOf x.ord) →
    (∀ l ∈ s.memLanes x.c [x.d, x.a, x.b], s.eaAt x.sp (4 * x.op.regs) x.a l = .mem (va l) (e l) ∧
      regionOf ((e l).phys (va l)) = .plinth ∧ s.poisoned ((e l).phys (va l)) (4 * x.op.regs) = false) →
    ∃ t, exec (.atom x) s = .next t ∧ IssuedAcq s t (acqOf x.ord) ∧ t.teamData = s.teamData ∧
      (∃ o ∈ t.G.out, o.iid = s.nextId ∧ o.rem = (s.memLanes x.c [x.d, x.a, x.b]).length) ∧
      ∀ l ∈ s.memLanes x.c [x.d, x.a, x.b],
        InFlight t (accLane [x.d, x.a, x.b] l) s.nextId (va l) ((e l).phys (va l)) (4 * x.op.regs)
          (.atom x.op (s.srcAt l x.op x.b) (s.src l x.d x.op.regs))) ∧
  (∀ (x : RedR) (s : State) (va : Nat → Nat) (e : Nat → TlbEnt), Released s x.rel →
    (∀ l ∈ s.memLanes x.c [x.a, x.b], s.eaAt x.sp (4 * x.op.regs) x.a l = .mem (va l) (e l) ∧
      regionOf ((e l).phys (va l)) = .plinth) →
    ∃ t, exec (.red x) s = .next t ∧ IssuedOnly s t ∧
      (∃ o ∈ t.G.out, o.iid = s.nextId ∧ o.rem = (s.memLanes x.c [x.a, x.b]).length) ∧
      ∀ l ∈ s.memLanes x.c [x.a, x.b],
        InFlight t (accLane [x.a, x.b] l) s.nextId (va l) ((e l).phys (va l)) (4 * x.op.regs)
          (.red x.op (s.srcAt l x.op x.b))) ∧
  (∀ (x : GthR) (s : State) (va : Nat → Nat) (e : Nat → TlbEnt),
    let k := 2 ^ x.lk.val
    (∀ l ∈ s.memLanes x.c [x.d, x.a, x.b], s.eaGth x l = .mem (va l) (e l) ∧
      regionOf ((e l).phys (va l)) = .plinth ∧ s.poisoned ((e l).phys (va l)) 4096 = false) →
    ∃ t, exec (.gth x) s = .next t ∧ IssuedAcq s t x.acq ∧ t.teamData = s.teamData ∧
      (∃ o ∈ t.G.out, o.iid = s.nextId ∧ o.rem = (s.memLanes x.c [x.d, x.a, x.b]).length) ∧
      ∀ l ∈ s.memLanes x.c [x.d, x.a, x.b], ∃ idx : List Nat,
        idx = (List.range k).map (fun i => s.src l x.b (if k ≤ 2 then 1 else k / 2) / 2 ^ (16 * i) % 2 ^ 16) ∧
        (∀ i ∈ idx, i < 1024) ∧
        InFlight t (accLane [x.d, x.a, x.b] l) s.nextId (va l) ((e l).phys (va l)) (4 * k) (.gather idx))

/-- The subset stands before the next word and waits there with `w`. -/
def WaitsAfter (s t : State) (w : Wait) : Prop :=
  SameRegs s t ∧ Steady s t ∧ ∀ l < 32, bit s.cur.sub l = true → (t.G.lane l).wait = w ∧ (t.G.lane l).pc = (s.G.lane l).stepped.pc

/-- The fences with their kind. -/
def fences : List ((Ctl → Scope → Instr) × FenceKind) := [(.fenceR, .rel), (.fenceA, .acq), (.fenceAr, .acqRel)]

/-- R115, R249: a fence passes once the accesses before it are performed at its scope, and holds its subset before the next word
until then; with no active lane it has no effect. -/
def Fences : Prop :=
  ∀ f ∈ fences, ∀ (c : Ctl) (sc : Scope) (s : State),
    (s.fenceOk s.cur.tile s.cur.slot f.2 sc s.cur.sub s.nextId = true ∨ s.active c = [] →
      ∃ t, exec (f.1 c sc) s = .next t ∧ Passed s t ∧ SameRegs s t ∧ FlagsKept s t) ∧
    (s.fenceOk s.cur.tile s.cur.slot f.2 sc s.cur.sub s.nextId = false → s.active c ≠ [] →
      ∃ t, exec (f.1 c sc) s = .next t ∧ WaitsAfter s t (.fence f.2 sc s.nextId false))

/-- The barriers: cluster scope or team scope. -/
def barriers : List ((Ctl → Instr) × Bool) := [(.barT, false), (.barC, true)]

/-- R250: a barrier whose release is performed holds its subset until it completes, and one whose release is not waits for that
first; in a group that a bin launched it is a fence of both kinds. BAR.C in a plain launch is BAR.T but for its release (log
36). -/
def Barriers : Prop :=
  ∀ f ∈ barriers, ∀ (c : Ctl) (s : State) (y : Team), s.curTeam = some y →
    let sc : Scope := if f.2 then .cluster else .team
    let cl := f.2 && !y.plain
    (s.G.fromBin = false → s.relOk s.cur.tile s.cur.slot sc s.nextId = true →
      ∃ t, exec (f.1 c) s = .next t ∧ Waits s t (.bar cl) ∧ ({ ev := .barrierComplete s.cur.tile s.G.team cl } : Due) ∈ t.due) ∧
    (s.G.fromBin = false → s.relOk s.cur.tile s.cur.slot sc s.nextId = false →
      ∃ t, exec (f.1 c) s = .next t ∧ Waits s t (.relBar cl sc s.nextId)) ∧
    (s.G.fromBin = true →
      (s.fenceOk s.cur.tile s.cur.slot .acqRel sc s.cur.sub s.nextId = true →
        ∃ t, exec (f.1 c) s = .next t ∧ Passed s t ∧ SameRegs s t ∧ FlagsKept s t) ∧
      (s.fenceOk s.cur.tile s.cur.slot .acqRel sc s.cur.sub s.nextId = false → s.active c ≠ [] →
        ∃ t, exec (f.1 c) s = .next t ∧ WaitsAfter s t (.fence .acqRel sc s.nextId false)))

/-- The state of a unit of a team: a slab, or an accumulator region. -/
def unitState (y : Team) (acc : Bool) (j : Nat) : UnitSt := if acc then y.region j else y.slab j

/-- R251, R252, R127: OWN gives OWNER, PHASE and PEND of each lane's unit; WAITO passes once every lane's unit is free with the
phase asked for, a flip back being seen from the next tile cycle on, and waits for its units until then. -/
def OwnerBits : Prop :=
  (∀ (nv : Nat) (x : OwnR) (s : State) (y : Team), nv ≤ 128 → (Instr.own x).wf nv = true → s.curTeam = some y → Quiet s →
    (∀ l ∈ s.laneSet x.c x.d [x.u], s.src l x.u 1 < if x.acc then y.accRows / 16 else y.slabs) →
    ∃ t, exec (.own x) s = .next t ∧ FlagsKept s t ∧ Result s t x.c x.d 1 [x.u] fun l =>
      let u := unitState y x.acc (s.src l x.u 1)
      (if u.own then 1 else 0) + (if u.phase then 2 else 0) + u.pend % 8 * 4) ∧
  (∀ (x : WaitoR) (s : State) (y : Team), s.curTeam = some y → Quiet s →
    (∀ l ∈ s.active x.c, s.src l x.u 1 < if x.acc then y.accRows / 16 else y.slabs) →
    ((∀ l ∈ s.active x.c, (unitState y x.acc (s.src l x.u 1)).own = false ∧
        (unitState y x.acc (s.src l x.u 1)).phase = x.ph ∧
        (unitState y x.acc (s.src l x.u 1)).backAt ≤ s.cycle s.cur.tile) →
      ∃ t, exec (.waito x) s = .next t ∧ Passed s t ∧ SameRegs s t) ∧
    ((∀ l ∈ s.active x.c, (unitState y x.acc (s.src l x.u 1)).own = true) → s.active x.c ≠ [] →
      ∃ t us, exec (.waito x) s = .next t ∧ Waits s t (.units x.acc x.ph us) ∧
        (∀ u ∈ us, ∃ l ∈ s.active x.c, u = s.src l x.u 1) ∧ us ≠ []))

/-! ## Engine commands -/

/-- The copies with the kind of their command (R253). -/
def copyOps : List ((CpyR → Instr) × Nat) := [(.cpyG2s, 0), (.cpyS2g, 1), (.cpyS2r, 2), (.cpyR2s, 3)]
/-- The fills. -/
def fillOps : List ((FillR → Instr) × Nat) := [(.fillS, 4), (.fillG, 5)]

/-- A command of kind `k` with descriptor `d` stands last in the copy engine's queue, and its local slabs are engine-owned. -/
def Accepted (s t : State) (k : Nat) (d : CopyDesc) (far : Nat) (p : CopyParts) : Prop :=
  IssuedOnly s t ∧ ({ ev := .copyEngineCommand s.cur.tile } : Due) ∈ t.due ∧ ∃ cmd, t.T.copies = s.T.copies ++ [cmd] ∧
    cmd.kind = k ∧ cmd.id = s.nextId ∧ cmd.loff = d.loff ∧ cmd.rows = d.rows ∧ cmd.rowb = d.rowb ∧ cmd.far = far ∧
    cmd.lunits = p.lunits ∧ cmd.team = s.G.team ∧ cmd.ran = false ∧
    (p.runits = [] → ∀ z, t.curTeam = some z → ∀ j ∈ p.lunits, (z.slab j).own = true)

/-- R122, R253 to R255: a copy or fill whose checks hold is accepted by the engine. -/
def CopyAccept : Prop :=
  (∀ k ∈ copyOps, ∀ (x : CpyR) (s : State) (l : Nat) (d : CopyDesc) (p : CopyParts) (y : Team),
    let far := if k.2 = 2 ∨ k.2 = 3 then s.src l x.a 2 % 2 ^ 32 else s.src l x.a 2
    (s.active x.c).head? = some l → s.curTeam = some y → y.id = s.G.team → parseDesc (s.src l x.b 4) x.two = .ok d →
    s.copyCheck k.2 d far (s.src l x.a 2 / 2 ^ 32) = .ok p → s.T.copies.length < 16 → s.copyOwned p = none →
    s.engineWait = false →
    ∃ t, exec (k.1 x) s = .next t ∧ Accepted s t k.2 d far p) ∧
  (∀ k ∈ fillOps, ∀ (x : FillR) (s : State) (l : Nat) (d : CopyDesc) (p : CopyParts) (y : Team),
    (s.active x.c).head? = some l → s.curTeam = some y → y.id = s.G.team → parseDesc (s.src l x.b 4) x.two = .ok d →
    s.copyCheck k.2 d (s.src l x.a 2) (s.src l x.a 2 / 2 ^ 32) = .ok p → s.T.copies.length < 16 → s.copyOwned p = none →
    s.engineWait = false →
    ∃ t, exec (k.1 x) s = .next t ∧ Accepted s t k.2 d (s.src l x.a 2) p)

/-! ## The matrix array -/

/-- R268: GANGSET of no member or of 2 to 6 distinct reserved slots with its own among them writes GANG and clears the sequence
number; a count of 1 or 7 raises ILL cause 2. -/
def GangSet : Prop :=
  (∀ (c : Ctl) (m : Reg) (s : State) (l : Nat), (s.active c).head? = some l →
    (∀ e ∈ s.T.arr.latch, e.slot ≠ s.cur.slot) →
    ∃ t, exec (.gangset c m 0) s = .next t ∧ t.G.gang = 0 ∧ t.G.gseq = 0 ∧ Issued s t ∧ t.teamData = s.teamData) ∧
  (∀ (c : Ctl) (m : Reg) (n : Fin 8) (s : State) (l : Nat) (y : Team), 2 ≤ n.val → n.val ≤ 6 → (s.active c).head? = some l →
    s.curTeam = some y → (∀ e ∈ s.T.arr.latch, e.slot ≠ s.cur.slot) →
    let v := s.src l m 1
    let mem := (List.range n.val).map fun i => v / 32 ^ i % 32
    v < 32 ^ n.val → mem.Nodup → s.cur.slot ∈ mem → (∀ i ∈ mem, i ∈ y.resv) →
    ∃ t, exec (.gangset c m n) s = .next t ∧ t.G.gang.toNat = n.val * 2 ^ 32 + v ∧ t.G.gseq = 0 ∧ Issued s t ∧ t.teamData = s.teamData) ∧
  (∀ (c : Ctl) (m : Reg) (s : State), ∃ t, exec (.gangset c m 1) s = .next t ∧ Trapped s t 0xFF .ill 2 0 0)

/-- The issuing team holds the planes of the tile's array with room in its queue, and none of the units it names is
engine-owned. -/
abbrev HoldsPlanes (s : State) (y : Team) : Prop :=
  s.curTeam = some y ∧ y.id = s.G.team ∧ s.T.arr.holder = some y.id ∧ s.T.arr.qfree = false ∧ s.T.arr.releasing = false ∧ s.T.arr.q.length < 8 ∧
    s.engineWait = false

/-- An array command stands last in the queue. -/
def Queued (s t : State) (op : ArrOp) : Prop :=
  IssuedOnly s t ∧ ∃ cmd, t.T.arr.q = s.T.arr.q ++ [cmd] ∧ cmd.op = op ∧ cmd.id = s.nextId ∧ cmd.ran = false

/-- R264 to R266, R269 to R271: without a gang, an array command of the team that holds the planes is queued once its checks
hold; SWP and SWP.FREE have none. -/
def ArrayAccept : Prop :=
  (∀ (c : Ctl) (s : State) (y : Team), s.active c ≠ [] → HoldsPlanes s y →
    (∃ t, exec (.swp c false) s = .next t ∧ Queued s t .swp ∧ t.T.arr.qact = 1 - s.T.arr.qact) ∧
    (∃ t, exec (.swpFree c false) s = .next t ∧ Queued s t .free ∧ t.T.arr.qfree = true)) ∧
  (∀ (x : LdsR) (s : State) (y : Team) (l : Nat) (held : List TlbEnt), HoldsPlanes s y → x.g = false →
    (s.active x.c).head? = some l → (x.sparse = true → mfSparse x.fmt = true) → s.src l x.a 2 % 256 = 0 →
    s.engPages .engRead 1 (imgSize x.fmt x.sparse) (fun _ => s.src l x.a 2)
      (pagesOf 1 (imgSize x.fmt x.sparse) fun _ => s.src l x.a 2) = .ok held → s.keyState x.key.val ≠ .empty →
    ∃ t, exec (.lds x) s = .next t ∧ Queued s t (.ldsG (s.src l x.a 2) held x.key.val x.fmt x.sparse x.reuse.val
      (s.dueTime s.cur.tile (some y) s.T.cap x.reuse.val)) ∧ (t.T.arr.qs (1 - s.T.arr.qact)).fmt = x.fmt) ∧
  (∀ (x : LdsR) (s : State) (y : Team) (l : Nat), HoldsPlanes s y → x.g = false → (s.active x.c).head? = some l →
    (x.sparse = true → mfSparse x.fmt = true) → s.src l x.off 1 % 256 = 0 →
    s.src l x.off 1 + imgSize x.fmt x.sparse ≤ y.slabs * 4096 → (∀ j < y.slabs, (y.slab j).own = false) →
    s.keyState x.key.val ≠ .empty →
    ∃ t, exec (.ldsSlab x) s = .next t ∧
      Queued s t (.ldsS (s.src l x.off 1) (s.src l x.a 2) x.key.val x.fmt x.sparse)) ∧
  (∀ (x : MmaR) (s : State) (y : Team) (l : Nat), HoldsPlanes s y → x.g = false → (s.active x.c).head? = some l →
    let stride := s.src l x.b 1 % 2 ^ 16
    let m := s.src l x.b 1 / 2 ^ 16
    let row := s.src l x.row 1
    let off := s.src l x.off 1
    1 ≤ m → m ≤ 64 → rowImage x.fmt x.sparse ≤ stride → (s.T.arr.qs s.T.arr.qact).inuse = true →
    (s.T.arr.qs s.T.arr.qact).sparse = x.sparse → mfPair (s.T.arr.qs s.T.arr.qact).fmt x.fmt = true →
    off % 2 = 0 → stride % 2 = 0 → off + (m - 1) * stride + rowImage x.fmt x.sparse ≤ y.slabs * 4096 →
    row + m ≤ y.accRows → (∀ j < y.slabs, (y.slab j).own = false) → (∀ j ≤ (row + m - 1) / 16, (y.region j).own = false) →
    ∃ t, exec (.mma x) s = .next t ∧ Queued s t (.mma row off stride m x.fmt x.sparse x.z))

/-- A row of accumulators that a thread may touch: inside the team's rows, in regions that the engine does not own and that are
in the pool, without an uncorrectable word. -/
abbrev RowsFree (s : State) (y : Team) (row n : Nat) : Prop :=
  s.curTeam = some y ∧ y.id = s.G.team ∧ s.T.badWords = [] ∧ s.T.segs = [] ∧ row + n ≤ y.accRows ∧
    ∀ j ≤ (row + n - 1) / 16, row / 16 ≤ j → (y.region j).own = false

/-- Of the team's data nothing but accumulators differs, and GANG is as before. -/
def SameButAcc (s t : State) (y z : Team) : Prop := z.sp = y.sp ∧ z.full = y.full ∧ t.G.gang = s.G.gang

/-- R275 to R279: the thread accesses to the accumulators. -/
def AccumulatorAccess : Prop :=
  (∀ (c : Ctl) (r n : Reg) (s : State) (y : Team) (l : Nat), (s.active c).head? = some l → s.src l n 1 ≠ 0 →
    RowsFree s y (s.src l r 1) (s.src l n 1) →
    (∃ t z, exec (.accz c r n) s = .next t ∧ Issued s t ∧ t.curTeam = some z ∧ SameButAcc s t y z ∧ ∀ i j, j < 64 →
      z.accGet i j = if s.src l r 1 ≤ i ∧ i < s.src l r 1 + s.src l n 1 then 0 else y.accGet i j) ∧
    (s.src l r 1 % 16 = 0 → s.src l n 1 % 16 = 0 →
      ∃ t z, exec (.acczFree c r n) s = .next t ∧ Issued s t ∧ t.curTeam = some z ∧ SameButAcc s t y z ∧
        ∀ j, s.src l r 1 / 16 ≤ j → j ≤ (s.src l r 1 + s.src l n 1 - 1) / 16 → j ∉ z.accUse)) ∧
  (∀ (nv : Nat) (c : Ctl) (d r : Reg) (s : State) (y : Team), nv ≤ 128 → (Instr.accrd c d r).wf nv = true → s.curTeam = some y →
    (∀ l ∈ s.active c, RowsFree s y (s.src l r 1) 1) →
    ∃ t, exec (.accrd c d r) s = .next t ∧ IssuedOnly s t ∧ ∃ o ∈ t.G.out, o.iid = s.nextId ∧
      o.res = (s.active c).flatMap fun l => spread l d 2
        ((y.accGet (s.src l r 1) (2 * l)).toNat + 2 ^ 32 * (y.accGet (s.src l r 1) (2 * l + 1)).toNat)) ∧
  (∀ (nv : Nat) (c : Ctl) (r b : Reg) (s : State) (y : Team), nv ≤ 128 → (Instr.accwr c r b).wf nv = true → s.curTeam = some y →
    (∀ l ∈ s.active c, RowsFree s y (s.src l r 1) 1) → y.id = s.G.team →
    ∃ t z, exec (.accwr c r b) s = .next t ∧ Issued s t ∧ t.curTeam = some z ∧ SameButAcc s t y z ∧
      (∀ i j, j < 64 → (∀ l ∈ s.active c, s.src l r 1 ≠ i ∨ j / 2 ≠ l) → z.accGet i j = y.accGet i j) ∧
      ∀ l ∈ s.active c, z.accGet (s.src l r 1) (2 * l) = s.reg l b.code ∧ z.accGet (s.src l r 1) (2 * l + 1) = s.reg l (b.code + 1)) ∧
  (∀ (x : AccsclR) (s : State) (y : Team) (l : Nat), (s.active x.c).head? = some l → s.src l x.n 1 ≠ 0 →
    RowsFree s y (s.src l x.row 1) (s.src l x.n 1) → x.s.isV = false →
    ∃ t z, exec (.accscl x) s = .next t ∧ Issued s t ∧ t.curTeam = some z ∧ SameButAcc s t y z ∧ ∀ i j, j < 64 →
      z.accGet i j = if s.src l x.row 1 ≤ i ∧ i < s.src l x.row 1 + s.src l x.n 1
        then BitVec.ofNat 32 (fpMul Fmt.f32 x.rm (y.accGet i j).toNat (s.srcF l x.s Fmt.f32)).1 else y.accGet i j) ∧
  (∀ (x : AccstR) (s : State) (y : Team) (l : Nat),
    let n := s.src l x.b 1 % 2 ^ 16
    let stride := s.src l x.b 1 / 2 ^ 16 % 2 ^ 16
    let off := s.src l x.off 1
    (s.active x.c).head? = some l → RowsFree s y (s.src l x.row 1) n → 1 ≤ n → n ≤ 4096 → outRow x.fmt ≤ stride →
    off % 2 = 0 → stride % 2 = 0 → off + (n - 1) * stride + outRow x.fmt ≤ y.slabs * 4096 →
    (∀ j < y.slabs, (y.slab j).own = false) →
    ∃ t z, exec (.accst x) s = .next t ∧ Issued s t ∧ t.curTeam = some z ∧ z.full = y.full ∧ z.acc = y.acc ∧ t.G.gang = s.G.gang ∧
      (∀ m < n, z.spRead (off + m * stride) (outRow x.fmt) =
        accstRow x.fmt x.sat (if x.rtz then .rtz else .rne)
          ((List.range 64).map fun i => (y.accGet (s.src l x.row 1 + m) i).toNat) % 256 ^ outRow x.fmt) ∧
      ∀ a, (∀ m < n, a < off + m * stride ∨ off + m * stride + outRow x.fmt ≤ a) → z.spGet a = y.spGet a)

end Sys2Proof.Claims

/-- R239 to R241, R77, R107: loads and prefetch. -/
def Obligations.LoadsIssue : Prop := LoadLocal ∧ LoadGlobal ∧ Prefetch

/-- R239, R240, R77, R107: stores, with every byte of the scratchpad outside them unchanged. -/
def Obligations.StoresIssue : Prop := StoreLocal ∧ StoreGlobal

/-- R124, R242: full/empty accesses of the own scratchpad. -/
def Obligations.FullEmptyAccess : Prop := FullEmpty

/-- R244, R245, R248: atomics, reductions and gathers. -/
def Obligations.AtomicsIssue : Prop := AtomicLocal ∧ AtomicGlobal

/-- R115, R249, R250: fences and barriers. -/
def Obligations.FencesBarriers : Prop := Fences ∧ Barriers

/-- R251, R252, R122, R253 to R255: owner bits, and the copy engine's acceptance of a command. -/
def Obligations.OwnersAndCopies : Prop := OwnerBits ∧ CopyAccept

/-- R264 to R271: gangs and array commands. -/
def Obligations.ArrayCommands : Prop := GangSet ∧ ArrayAccept

/-- R275 to R279: accumulators by threads. -/
def Obligations.Accumulators : Prop := AccumulatorAccess

/-- R188, R236, Table 16.3: traps of branches whose target is not in the space or not aligned, and of unaligned accesses. -/
def Obligations.AlignmentTraps : Prop := BranchTraps ∧ Misaligned

/-! ## Queues and the arbiter -/

namespace Sys2Proof.Claims

/-- An internal step of this kind is due. -/
def DueEv (t : State) (i : Instr) : Prop := ∃ d ∈ t.due, d.ev = i

/-- A queue has gone to ERROR with a code and its details: its head and its copy are given up, its state is written back, and
every other queue is as before (R411, R412). -/
def QErrored (s t : State) (ifn code d1 d2 : Nat) : Prop :=
  (∃ q, t.queue ifn = some q ∧ q.state = .error ∧ q.head = none ∧ q.copy = none ∧
    q.err.map (fun e => (e.code, e.detail1, e.detail2)) = some (code, d1, d2)) ∧
  (∀ j, j ≠ ifn → t.queue j = s.queue j) ∧ DueEv t (.qcbWriteback ifn)

/-- The head packet of a queue has been consumed: the read index moves on, the next packet comes up, and the write-back is
due (R53, R316). -/
def Consumed (t : State) (ifn : Nat) (q : Queue) : Prop :=
  (∃ r, t.queue ifn = some r ∧ r.ridx = (q.ridx + 1) % 2 ^ 32 ∧ r.head = none ∧ r.waits = [] ∧ r.widx = q.widx) ∧
  DueEv t (.packetAtHead ifn) ∧ DueEv t (.qcbWriteback ifn)

/-- A doorbell with room for its index, and one without. -/
def Doorbells : Prop :=
  ∀ (tag q v : Nat) (tb : Bool) (s : State) (ifn : Nat) (Q : Queue), s.queueNo tag q = some (ifn, Q) → Q.state ≠ .error →
    (Q.state = .unlocked ∨ tb = true) → v % 2 ^ 32 ≠ Q.widx →
    ((v % 2 ^ 32 + 2 ^ 32 - Q.ridx) % 2 ^ 32 ≤ 2 ^ Q.cfg.logsz →
      ∃ t r, exec (.doorbell tag q v tb) s = .next t ∧ t.queue ifn = some r ∧ r.widx = v % 2 ^ 32 ∧ r.ridx = Q.ridx ∧
        r.head = Q.head ∧ t = { s with queues := t.queues, due := t.due } ∧ DueEv t (.packetAtHead ifn)) ∧
    (2 ^ Q.cfg.logsz < (v % 2 ^ 32 + 2 ^ 32 - Q.ridx) % 2 ^ 32 →
      ∃ t, exec (.doorbell tag q v tb) s = .next t ∧ QErrored s t ifn 6 (v % 2 ^ 32) Q.widx)

/-- A packet comes to the head: read once, checked, its wait signals read. -/
def PacketHead : Prop :=
  ∀ (ifn : Nat) (s : State) (q : Queue) (p : List Byte), s.queue ifn = some q → (q.state = .unlocked ∨ q.state = .run) →
    q.stopping = false → q.head = none → q.copy = none → q.ridx ≠ q.widx →
    s.ringRead q.cfg (slotAddr q.cfg q.ridx) 64 = .ok p →
    let msix := ((s.part q.cfg.tag).map (·.msix)).getD 0
    (∀ e, packetError p msix = some e → ∃ t, exec (.packetAtHead ifn) s = .next t ∧ QErrored s t ifn e.1 e.2.1 e.2.2) ∧
    (packetError p msix = none →
      let u := s.setQueue ifn { q with head := some p }
      let n := if sliceNum p 0 1 = 1 ∨ sliceNum p 0 1 = 4 then bits (sliceNum p 1 1) 0 3 else 0
      ∀ ws b, u.waitBlock q.cfg (sliceNum p 24 8) n = .ok ws → u.waitsMet q.cfg ws = .ok b →
        ∃ t, exec (.packetAtHead ifn) s = .next t ∧ t.mem = s.mem ∧
          t.queue ifn = some { q with head := some p, waits := ws, satisfied := b })

/-- The signals of a head packet are read again. -/
def SignalsRead : Prop :=
  ∀ (ifn : Nat) (s : State) (q : Queue), s.queue ifn = some q → q.head ≠ none → q.state ≠ .error →
    (∀ b, s.waitsMet q.cfg q.waits = .ok b →
      ∃ t, exec (.waitSignalReread ifn) s = .next t ∧ t.queue ifn = some { q with satisfied := b }) ∧
    (∀ e, s.waitsMet q.cfg q.waits = .error e →
      ∃ t, exec (.waitSignalReread ifn) s = .next t ∧ QErrored s t ifn e.1 e.2.1 e.2.2)

/-- The arbiter has chosen a queue whose head packet has this type. -/
abbrev Chosen (s : State) (tag ty : Nat) (P : Part) (ifn : Nat) (q : Queue) : Prop :=
  s.select tag = some (P, ifn, q) ∧ s.queue ifn = some q ∧ sliceNum (q.head.getD []) 0 1 = ty

/-- The `n` bytes at a module physical address hold `v` as the device reads them for a context, and every other byte of the
plinth is as before. -/
def DeviceStored (s t : State) (c : Option Ctx) (pa n v : Nat) : Prop :=
  t.devMemRead c pa n = v % 2 ^ (8 * n) ∧
  ∀ a, (regionOf pa = .plinth → a < pa ∨ pa + n ≤ a) → Memory.get t.mem a = Memory.get s.mem a

/-- NOP, WAIT, TIMESTAMP, SIGNAL and COPY packets are admitted. -/
def Admissions : Prop :=
  ∀ (tag : Nat) (s : State) (P : Part) (ifn : Nat) (q : Queue),
    let h := q.head.getD []
    let u := s.setPart tag P
    let c := u.ctx q.cfg.tag q.cfg.ctx
    (Chosen s tag 0 P ifn q → ∃ t, exec (.admitNop tag) s = .next t ∧ Consumed t ifn q ∧ t.mem = s.mem) ∧
    (Chosen s tag 4 P ifn q → ∃ t, exec (.admitWait tag) s = .next t ∧ Consumed t ifn q ∧ t.mem = s.mem) ∧
    (∀ pa, Chosen s tag 5 P ifn q → q.cfg.tag = tag → u.arbAddr tag q.cfg.ctx (sliceNum h 8 8) .write true = .ok pa →
      ∃ t, exec (.admitTimestamp tag) s = .next t ∧ Consumed t ifn q ∧
        ((regionOf pa = .plinth ∨ ∃ w off, regionOf pa = .host w off) → DeviceStored s t c pa 8 (u.gtime tag))) ∧
    (∀ pa, Chosen s tag 3 P ifn q → u.waitAddr q.cfg (sliceNum h 8 8) 8 .readWrite = .ok pa →
      ∃ t, exec (.admitSignal tag) s = .next t ∧ Consumed t ifn q ∧
        DeviceStored s t c pa 8 (if sliceNum h 24 1 = 1 then sliceNum h 16 8 else u.devMemRead c pa 8 + sliceNum h 16 8)) ∧
    (Chosen s tag 2 P ifn q → ∃ t r j, exec (.admitCopy tag) s = .next t ∧ Consumed t ifn q ∧ t.queue ifn = some r ∧
      r.copy = some j ∧ j.src = sliceNum h 8 8 ∧ j.dst = sliceNum h 16 8 ∧ j.len = sliceNum h 24 8 ∧
      j.signal = sliceNum h 32 8 ∧ j.spaces = sliceNum h 40 1 ∧ j.done = 0 ∧ DueEv t (.copyPacketComplete ifn))

/-- A LAUNCH packet: admitted, it is listed under the context's next sequence number and every tile is told, by an event where
its queue has room; without a launch area or a placement that can hold it, it is consumed and listed nowhere. -/
def LaunchAdmission : Prop :=
  ∀ (tag : Nat) (s : State) (P : Part) (ifn : Nat) (q : Queue) (pa : Nat) (c : Ctx), Chosen s tag 1 P ifn q →
    let h := q.head.getD []
    let u := s.setPart tag P
    u.arbAddr tag q.cfg.ctx (sliceNum h 8 8) .read false = .ok pa → u.arbPoison pa 64 = false → u.ctx tag q.cfg.ctx = some c →
    let i := parseImage (u.devMemRead (some c) pa 64)
    let fits := u.placeable P i (sliceNum h 37 1) (sliceNum h 38 1) = true
    (u.larea tag q.cfg.ctx = true → fits →
      ∃ t d l, exec (.admitLaunch tag) s = .next t ∧ Consumed t ifn q ∧ t.ctx tag q.cfg.ctx = some d ∧
        d.nextSeq = c.nextSeq + 1 ∧ d.s1root = i.s1root ∧ l ∈ d.launches ∧ l.seq = c.nextSeq ∧ l.units = sliceNum h 32 4 ∧
        l.g = sliceNum h 36 1 ∧ l.image = sliceNum h 8 8 ∧ l.signal = sliceNum h 16 8 ∧ l.listed = true ∧
        l.complete = false ∧ l.aborted = none ∧ ∀ x ∈ s.tilesOf tag, DueEv t (.agentClaim x) ∧
          ((s.tilesOf tag).Nodup → (s.tile x).aevtFull = false →
            ∃ e, (t.tile x).aevt = (s.tile x).aevt ++ [e] ∧ e.kind = 3 ∧ e.slot = (s.tile x).act)) ∧
    ((u.larea tag q.cfg.ctx = false ∨ ¬ fits) →
      ∃ t, exec (.admitLaunch tag) s = .next t ∧ Consumed t ifn q ∧
        (t.ctx tag q.cfg.ctx).map (fun d => (d.launches, d.nextSeq)) = some (c.launches, c.nextSeq))

/-- A COPY between two plinth addresses moves its next bytes; with all moved and performed it adds 1 to its signal and the
next packet comes up. -/
def CopyMoves : Prop :=
  ∀ (ifn : Nat) (s : State) (q : Queue) (j : CopyJob), s.queue ifn = some q → q.copy = some j → j.pri = false →
    (∀ pa pb, j.moved = false → j.spaces % 4 = 0 →
      let n := min (j.len - j.done) (min (64 - (j.src + j.done) % 64) (64 - (j.dst + j.done) % 64))
      s.arbAddr q.cfg.tag q.cfg.ctx (j.src + j.done) .read true = .ok pa → s.arbPoison pa n = false →
      s.arbAddr q.cfg.tag q.cfg.ctx (j.dst + j.done) .write true = .ok pb → regionOf pa = .plinth → regionOf pb = .plinth →
      ∃ t r k, exec (.copyPacketComplete ifn) s = .next t ∧ t.queue ifn = some r ∧ r.copy = some k ∧ k.done = j.done + n ∧
        (∀ i < n, Memory.get t.mem (pb + i) = Memory.get s.mem (pa + i)) ∧
        ∀ a, (a < pb ∨ pb + n ≤ a) → Memory.get t.mem a = Memory.get s.mem a) ∧
    (j.moved = true → j.flush = false → s.passedF j.hor = true →
      (j.signal = 0 → ∃ t r, exec (.copyPacketComplete ifn) s = .next t ∧ t.queue ifn = some r ∧ r.copy = none ∧
        DueEv t (.packetAtHead ifn) ∧ t.mem = s.mem) ∧
      (∀ pa, j.signal ≠ 0 → s.waitAddr q.cfg j.signal 8 .readWrite = .ok pa →
        let c := s.ctx q.cfg.tag q.cfg.ctx
        ∃ t r, exec (.copyPacketComplete ifn) s = .next t ∧ t.queue ifn = some r ∧ r.copy = none ∧
          DueEv t (.packetAtHead ifn) ∧ DeviceStored s t c pa 8 (s.devMemRead c pa 8 + 1)))

/-- What the host answers to a COPY. -/
def CopyAnswers : Prop :=
  ∀ (ifn page : Nat) (s : State) (q : Queue) (j : CopyJob), s.queue ifn = some q → q.state ≠ .error → q.copy = some j →
    (j.pri = true → j.needs = some page →
      (∃ t, exec (.atsPriResponse ifn true page) s = .next t ∧
        t.queue ifn = some { q with copy := some { j with pri := false, ats := page :: j.ats } }) ∧
      (∃ t, exec (.atsPriResponse ifn false page) s = .next t ∧ QErrored s t ifn 9 (page * 4096) j.done)) ∧
    (j.spaces % 4 ≠ 0 → ∃ t, exec (.hostErrorCompletion ifn page) s = .next t ∧ QErrored s t ifn 9 page j.done)

/-- Invalidations of host translations: the copies of the PASID that hold the page drop it, and an invalidation that has waited
longer than 2 ms for host writes stops its queue. -/
def AtsEvents : Prop :=
  (∀ (tag pasid page : Nat) (s : State), (s.queues.map (·.1)).Nodup →
    ∃ t, exec (.atsInvalidation tag pasid page) s = .next t ∧ ∀ x ∈ s.queues, ∃ r, t.queue x.1 = some r ∧
      ((x.2.cfg.tag = tag ∧ x.2.cfg.pasid = pasid ∧ x.2.state ≠ .error) → ∀ j, r.copy = some j → page / 4096 ∉ j.ats) ∧
      (¬ (x.2.cfg.tag = tag ∧ x.2.cfg.pasid = pasid) → r = x.2)) ∧
  (∀ (s : State) (q : Queue) (page tm : Nat), s.queue s.cur.tile = some q → q.state ≠ .error →
    q.drain.find? (fun d => decide (d.2 + 2000000 < s.wtime)) = some (page, tm) →
    ∃ t, exec .atsDrainTimeout s = .next t ∧ QErrored s t s.cur.tile 14 page q.cfg.pasid)

/-- A write-back of a QCB in host memory that holds what the device last wrote. -/
def WriteBack : Prop :=
  ∀ (ifn : Nat) (s : State) (q : Queue) (found : List Byte), s.queue ifn = some q → q.wbDue = true →
    (∀ tm, q.wbAt = some tm → tm + 1000 ≤ s.wtime) → s.ringRead q.cfg q.cfg.qcb 128 = .ok found → found ≠ [] →
    let diff := q.shadow ≠ [] ∧ diffWords found q.shadow ≠ []
    ∃ t r, exec (.qcbWriteback ifn) s = .next t ∧ t.queue ifn = some r ∧ r.wbDue = false ∧ r.wbAt = some s.wtime ∧
      r.shadow = q.image ifn ∧ (diff → r.tamper = min (q.tamper + 1) 65535) ∧ (¬ diff → r.tamper = q.tamper) ∧
      (¬ diff → q.cfg.ringsp = true → let k := queueHostKey q.cfg q.cfg.qcb
        Memory.bytes t.host k 8 = (q.image ifn).take 8 ∧ Memory.bytes t.host (k + 16) 1 = ((q.image ifn).drop 8).take 1 ∧
        Memory.bytes t.host (k + 64) 64 = (q.image ifn).drop 9)

/-- Locked items, function level reset and interrupt moderation. -/
def QueueStops : Prop :=
  (∀ (ifn off req : Nat) (s : State) (q : Queue), s.queue ifn = some q →
    ((q.state = .locked ∨ q.state = .run) →
      ∃ t, exec (.lockedItemWrite ifn off req) s = .next t ∧ QErrored s t ifn 10 off req) ∧
    (q.state = .run → ∃ t, exec (.lockedRangeRead ifn off req) s = .next t ∧ QErrored s t ifn 11 off req)) ∧
  (∀ (tag : Nat) (s : State), (s.queues.map (·.1)).Nodup → ∃ t, exec (.functionLevelReset tag) s = .next t ∧
    ∀ x ∈ s.queues, (x.2.cfg.tag = tag → x.2.state ≠ .error →
      ∃ r, t.queue x.1 = some r ∧ r.state = .error ∧ r.err.map (·.code) = some 13) ∧
      (x.2.cfg.tag ≠ tag → t.queue x.1 = some x.2)) ∧
  (∀ (s : State) (q : Queue) (P : Part) (v tm : Nat), s.queue s.cur.tile = some q → q.state ≠ .error → q.vecPend = some v →
    q.vecAt = some tm → tm + q.imodNs ≤ s.wtime → s.part q.cfg.tag = some P → v < P.msix → tbit (P.msixEntry v) 96 = false →
    ∃ t, exec .interruptModerationExpire s = .next t ∧
      t.queue s.cur.tile = some { q with vecPend := none, vecAt := some s.wtime } ∧
      (t.link P.link).msix = (s.link P.link).msix ++ [(q.cfg.tag, v)])

end Sys2Proof.Claims

/-- R53, R319: admission of every packet type. -/
def Obligations.PacketAdmission : Prop := Admissions ∧ LaunchAdmission

/-- R319, R412, R419: copies by the arbiter, the host's answers to them, and invalidations. -/
def Obligations.PacketCopies : Prop := CopyMoves ∧ CopyAnswers ∧ AtsEvents

/-! ## Agents, teams, bins -/

namespace Sys2Proof.Claims

/-- A group made from a template: lane `l` stands at the entry with its item for each item, every other lane is empty; it is
not to issue before 8 tile cycles. -/
def FromTemplate (s t : State) (tile g team : Nat) (tm : Template) (items : List Nat) (bin : Bool) : Prop :=
  let G := (t.tile tile).group g
  G.live = true ∧ G.team = team ∧ G.fromBin = bin ∧ G.k = tm.k ∧ G.nextCyc = s.cycle tile + 8 ∧
  ∀ l < 32, (∀ i, items[l]? = some i → (G.lane l).st = .live ∧ (G.lane l).pc = tm.entry ∧ (G.lane l).item = i ∧
      (G.lane l).p = tm.pred ∧ bit (G.lane l).back tm.idx = false) ∧ (items[l]? = none → (G.lane l).st = .empty)

/-- A claim of a plain launch with a prologue: the team has the number that the record gave, and its leader's first lane stands
at the entry. A ready bin goes before every claim. -/
def PlainClaim : Prop :=
  (∀ (tile : Nat) (s : State), s.mayClaim tile = true → (s.tile tile).binFirst = true →
    ∃ t, exec (.agentClaim tile) s = .next t ∧ DueEv t (.binGroupLaunch tile) ∧ DueEv t (.agentClaim tile) ∧
      (t.tile tile).slots = (s.tile tile).slots ∧ t.mem = s.mem) ∧
  ∀ (tile : Nat) (s u : State) (P : Part) (c : Ctx) (l : Launch) (r : List Launch) (i : CtxImage) (k : Nat),
    let T := s.tile tile
    s.mayClaim tile = true → T.binFirst = false → s.part T.tag = some P → s.ctx T.tag T.ctl.ctx = some c → P.images = [] →
    T.resv = [] → c.active = l :: r → s.readImage T.tag T.ctl.ctx l.image = some i → i.ok = true → i.timage = 0 → l.cw = 1 → l.ch = 1 →
    T.fits i l.g l.seq = true → 0 < l.g → (P.rectangle T.place 1 1).isSome = true →
    s.agentAdd T.tag T.ctl.ctx (recordVa c l.seq) 4 = some (u, k) → k < l.units →
    ∃ t j x g, exec (.agentClaim tile) s = .next t ∧ t.mem = u.mem ∧ (t.tile tile).team j = some x ∧ x.id = j ∧ x.num = k ∧
      x.seq = l.seq ∧ x.slabs = i.slabs ∧ x.accRows = i.accRows ∧ x.resv.length = l.g ∧ g ∈ x.resv ∧
      (∀ n ∈ x.resv, n ∈ T.freeSlots) ∧
      ((t.tile tile).group g).live = true ∧ ((t.tile tile).group g).leader = true ∧ ((t.tile tile).group g).team = x.id ∧
      (((t.tile tile).group g).lane 0).st = .live ∧ (((t.tile tile).group g).lane 0).pc = i.entry ∧
      (∀ m < 32, m ≠ 0 → (((t.tile tile).group g).lane m).st = .empty) ∧ DueEv t (.agentClaim tile)

/-- A reservation has been granted: it holds as many free group slots as its launch asks for, and without a template image no
template slot. -/
def Grants (T : Tile) (r q : Resv) : Prop :=
  q = { r with granted := true, slots := q.slots, tslot := q.tslot } ∧ q.slots.length = r.g ∧
    (∀ x ∈ q.slots, x ∈ T.freeSlots) ∧ (r.img.timage = 0 → q.tslot = none)

/-- Reservations of a cluster: received, and queued or granted, or lost where a router on their way drops them; a new one takes
the grants of higher ones whose clusters are not all granted; they are served, the lowest first, behind a ready bin; and the
build once all are granted. -/
def Clusters : Prop :=
  (∀ (tile anchor seq c : Nat) (s : State) (a : Anchored) (P : Part) (l : Launch) (ms : List (Nat × Nat)) (m : Nat × Nat)
    (i : CtxImage), let A := s.tile anchor
    let T := s.tile tile
    A.anchoring.find? (fun a => a.seq == seq && a.c == c && a.ctx == A.ctl.ctx) = some a → s.part A.tag = some P →
    (s.ctx A.tag a.ctx).bind (fun x => x.launch seq) = some l → T.tag = A.tag → tile ∉ a.lost →
    (∀ q ∈ T.resv, ¬ (q.anchor = anchor ∧ q.ctx = a.ctx ∧ q.seq = seq ∧ q.c = c)) →
    P.rectangle A.place l.cw l.ch = some ms → ms.find? (fun m => m.1 == tile) = some m →
    s.readImage A.tag a.ctx l.image = some i →
    let r : Resv := { anchor := anchor, ctx := a.ctx, seq := seq, c := c, num := c * l.cw * l.ch + m.2, g := l.g, img := i,
                      granted := false, slots := [], tslot := none }
    let way := if tile = anchor then none else s.dropOnWay 8400 anchor (s.meshPacket anchor tile 6 l.owner T.place 0)
    let kept := T.resv.map fun (q : Resv) =>
      if q.ctx = a.ctx ∧ q.granted = true ∧ r.before q = true ∧ s.allGranted T.tag q.anchor q.ctx q.seq q.c = false
      then { q with granted := false, slots := [], tslot := none } else q
    (way = none → s.mayClaim tile = false →
      ∃ t, exec (.clusterReservation tile anchor seq c) s = .next t ∧ (t.tile tile).resv = kept ++ [r]) ∧
    (way = none → s.mayClaim tile = true → T.resv = [] → T.ctl.ctx = a.ctx → T.binFirst = false →
      Tile.fits { T with resv := [r] } i l.g seq = true →
      ∃ t q, exec (.clusterReservation tile anchor seq c) s = .next t ∧ (t.tile tile).resv = [q] ∧ Grants T r q ∧
        DueEv t (.clusterBuild anchor seq c)) ∧
    (∀ d, way = some d → ∃ t, exec (.clusterReservation tile anchor seq c) s = .next t ∧ (t.tile tile).resv = T.resv)) ∧
  (∀ (tile : Nat) (s : State) (r : Resv), let T := s.tile tile
    s.mayClaim tile = true → firstResv (T.resv.filter fun r => r.ctx == T.ctl.ctx && !r.granted) = some r →
    (T.binFirst = true → ∃ t, exec (.clusterReservationGrant tile) s = .next t ∧ t.tiles = s.tiles ∧
      DueEv t (.binGroupLaunch tile) ∧ DueEv t (.clusterReservationGrant tile)) ∧
    (T.binFirst = false → T.fits r.img r.g r.seq = true →
      ∃ t q, exec (.clusterReservationGrant tile) s = .next t ∧ q ∈ (t.tile tile).resv ∧ Grants T r q ∧
        r ∉ (t.tile tile).resv ∧ DueEv t (.clusterBuild r.anchor r.seq r.c))) ∧
  (∀ (anchor seq c : Nat) (s : State) (P : Part) (l : Launch) (ms : List (Nat × Nat)), let A := s.tile anchor
    let mine (r : Resv) : Bool := r.anchor == anchor && r.ctx == A.ctl.ctx && r.seq == seq && r.c == c
    s.part A.tag = some P → (s.ctx A.tag A.ctl.ctx).bind (fun x => x.launch seq) = some l →
    A.anchoring.any (fun a => a.ctx == A.ctl.ctx && a.seq == seq && a.c == c) = true →
    s.allGranted A.tag anchor A.ctl.ctx seq c = true → P.rectangle A.place l.cw l.ch = some ms →
    (∀ m ∈ ms, s.mayClaim m.1 = true ∧ (s.tile m.1).ctl.ctx = A.ctl.ctx) →
    ∃ t, exec (.clusterBuild anchor seq c) s = .next t ∧
      (∀ a ∈ (t.tile anchor).anchoring, ¬ (a.ctx = A.ctl.ctx ∧ a.seq = seq ∧ a.c = c)) ∧
      ∀ m ∈ ms, (∀ r ∈ (t.tile m.1).resv, mine r = false) ∧ DueEv t (.agentClaim m.1) ∧
        ((∀ r ∈ (s.tile m.1).resv, r.img.timage = 0) → ∃ x ∈ (t.tile m.1).ctl.teams, x.2.seq = seq ∧ x.2.anchor = A.place))

/-- Groups of stamps and of bins. A bin launches in a tile cycle after that in which it became ready, with the items that came
before. -/
def TemplateGroups : Prop :=
  (∀ (tile team : Nat) (s : State) (x : Team) (p : Stamped) (rest : List Stamped) (g : Nat) (tm : Template),
    let T := s.tile tile
    T.team team = some x → x.id = team → x.pend = p :: rest → T.ctl.noClaim = false → amGet T.store p.tmpl = some tm →
    (List.range 32).find? (fun g => (x.resv.filter fun g => !(T.group g).live).contains g) = some g →
    ∃ t, exec (.stampedGroupLaunch tile team) s = .next t ∧ ((t.tile tile).team team).map (·.pend) = some rest ∧
      FromTemplate s t tile g team tm ((List.range p.n).map fun i => (p.base + i) % 2 ^ 32) false ∧ t.mem = s.mem) ∧
  (∀ (tile : Nat) (s : State) (n : Nat) (b : Bin) (g : Nat) (gs : List Nat) (tm : Template), let T := s.tile tile
    oldestReady T.ctl.bins = some (n, b) → T.freeSlots = g :: gs → T.ctl.noClaim = false → amGet T.store b.tmpl = some tm →
    (b.readyCyc < s.cycle tile ∨ b.readyCyc = 0 →
      let k := min 32 (b.items.filter fun i => i.cyc == 0 || decide (i.cyc < s.cycle tile)).length
      ∃ t, exec (.binGroupLaunch tile) s = .next t ∧ FromTemplate s t tile g b.team tm ((b.items.take k).map (·.idx)) true ∧
        (amGet (t.tile tile).ctl.bins n).map (·.items) = (if b.items.drop k = [] then none else some (b.items.drop k)) ∧
        t.mem = s.mem) ∧
    (s.cycle tile ≤ b.readyCyc → b.readyCyc ≠ 0 →
      ∃ t, exec (.binGroupLaunch tile) s = .next t ∧ t = { s with due := t.due } ∧ DueEv t (.binGroupLaunch tile)))

/-- Bins: a waiting item finds room, a timer runs out, and a spawner that has waited 1 ms for a bin traps. -/
def Bins : Prop :=
  (∀ (tile : Nat) (s : State) (T : Tile) (h : HeldItem) (rest : List HeldItem),
    (s.tile tile).acceptHeld (s.tile tile).ctl.held = some (T, h, rest) → h.req = 0 → h.slot ≠ 99 → h.lane < 32 →
    ∃ t, exec (.binItemAccept tile) s = .next t ∧ (t.tile tile).ctl.held = rest ∧ (t.tile tile).ctl.bins = T.ctl.bins ∧
      (((t.tile tile).group h.slot).lane h.lane).done = true ∧ DueEv t (.binGroupLaunch tile) ∧
      ∀ m < 32, (((t.tile tile).group h.slot).lane m).wait =
        (if m = h.lane ∨ (((s.tile tile).group h.slot).lane m).wait = .spawn h.lane then .none
         else (((s.tile tile).group h.slot).lane m).wait)) ∧
  (∀ (s : State) (b : Bin) (it : Item) (r : List Item), let T := s.tile s.cur.tile
    amGet T.ctl.bins s.cur.slot = some b → b.items = it :: r → T.ctl.timersOff = none →
    it.at_ + T.ctl.bint ≤ s.tileTime s.cur.tile →
    ∃ t c, exec .binTimerExpire s = .next t ∧
      amGet (t.tile s.cur.tile).ctl.bins s.cur.slot = some { b with ready := true, readyCyc := c } ∧
      c = (if b.ready then b.readyCyc else s.cycle s.cur.tile) ∧ DueEv t (.binGroupLaunch s.cur.tile)) ∧
  (∀ (s : State) (h : HeldItem), let T := s.tile s.cur.tile
    T.ctl.held.find? (fun h => h.slot == s.cur.slot && h.req == 0 && decide (h.item.at_ + 1000000 ≤ s.tileTime s.cur.tile)) =
      some h → s.cur.slot < 32 →
    ∃ t r, exec .spawnWaitTimeout s = .next t ∧ h ∉ (t.tile s.cur.tile).ctl.held ∧
      ((t.tile s.cur.tile).group s.cur.slot).lastTrap = some r ∧ r.cls = .resource ∧ r.cause = 1 ∧ r.lane = h.lane ∧
      DueEv t (.trapDeliver s.cur.tile s.cur.slot))

/-- The end of a team: its templates and its slot among the teams go, DONE goes up by one, and the add that reaches the launch's
team count completes the launch. -/
def TeamEnds : Prop :=
  ∀ (tile team : Nat) (s : State) (x : Team), let T := s.tile tile
    T.team team = some x → x.id = team → T.teamDone x = true →
    let u := ((s.setTile tile ((T.releaseTemplates team).setTeam { x with ended := true })).staleHeld tile team).feOrphans tile team
    u.teamSettled tile x = true →
    let w := u.modTile tile fun T => T.setCtl (T.ctl.leave { x with ended := true })
    (∃ t, exec (.teamEnd tile team) s = .next t ∧ (t.tile tile).team team = none ∧
      (∀ z ∈ (t.tile tile).store, team ∉ z.2.teams) ∧ DueEv t (.agentClaim tile) ∧
      (T.arr.holder = some team → DueEv t .planeRelease)) ∧
    (∀ c l v k, s.ctx T.tag T.ctl.ctx = some c → c.launch x.seq = some l → l.complete = false → l.aborted = none →
      w.agentAdd T.tag T.ctl.ctx (recordVa c l.seq + 4) 4 = some (v, k) →
      (k + 1 ≠ l.teams → ∃ t, exec (.teamEnd tile team) s = .next t ∧ t.mem = v.mem ∧
        t.ctx T.tag T.ctl.ctx = v.ctx T.tag T.ctl.ctx) ∧
      (k + 1 = l.teams → l.signal = 0 → ∃ t d m, exec (.teamEnd tile team) s = .next t ∧ t.mem = v.mem ∧
        t.ctx T.tag T.ctl.ctx = some d ∧ d.launch x.seq = some m ∧ m.complete = true ∧ m.listed = false))

end Sys2Proof.Claims

/-- R315, R314, R317, R50, R316, R415, R416, R323: doorbells, packets at the head and their wait signals, write-backs, locked items,
function level reset and moderated vectors. -/
def Obligations.QueueHeadsUpkeep : Prop := Doorbells ∧ PacketHead ∧ SignalsRead ∧ WriteBack ∧ QueueStops

/-- R55 to R58, R39, R25, R41, R45, R46, R35, R60, R360: claims, cluster reservations and builds, groups made from templates,
bins, and the end of a team. -/
def Obligations.TeamsBuildWork : Prop := PlainClaim ∧ Clusters ∧ TemplateGroups ∧ Bins ∧ TeamEnds
/-! ## Contexts on a tile, traps, aborts -/

namespace Sys2Proof.Claims

/-- A marked group parks at a preemptible header, with its LIVE count and nothing else of it changed. -/
def Parks : Prop :=
  ∀ (tile slot live : Nat) (s : State), s.canPark tile slot = some live →
    ∃ t, exec (.groupPark tile slot) s = .next t ∧ t.mem = s.mem ∧
      (t.tile tile).group slot = { (s.tile tile).group slot with parked := true, parkLive := live }

/-- A streamed slot reads loaded; where the active slot is free and the schedule names the slot's context, the tile switches to
it. The next pool segment is exchanged unless the field's issue is halted. -/
def SlotSteps : Prop :=
  (∀ (tile cslot : Nat) (s : State), ((s.tile tile).slot cslot).st = .streaming →
    (((s.tile tile).slot (s.tile tile).act).st ≠ .empty →
      ∃ t, exec (.shadowLoaded tile cslot) s = .next t ∧ ((t.tile tile).slot cslot).st = .loaded ∧
        (t.tile tile).act = (s.tile tile).act ∧ ((t.tile tile).slot cslot).ctl = ((s.tile tile).slot cslot).ctl) ∧
    (∀ P, ((s.tile tile).slot (s.tile tile).act).st = .empty → s.part (s.tile tile).tag = some P → P.boundary = none →
      P.current = some ((s.tile tile).slot cslot).ctl.ctx →
      ∃ t, exec (.shadowLoaded tile cslot) s = .next t ∧ (t.tile tile).act = cslot ∧
        ((t.tile tile).slot cslot).st = .active ∧ (t.tile tile).l1 = [] ∧
        (t.tile tile).segs = exchangeOrder (s.tile tile).poolOut ((s.tile tile).slot cslot).ctl ∧
        (t.tile tile).ctl.ctx = ((s.tile tile).slot cslot).ctl.ctx)) ∧
  (∀ (s : State) (i : Nat) (l : List Nat), (s.tile s.cur.tile).segs = i :: l →
    (s.haltedAt s.cur.tile = false → ∃ t, exec .poolSegmentExchange s = .next t ∧ (t.tile s.cur.tile).segs = l ∧
      ((s.tile s.cur.tile).poolOut = none → t = { s with tiles := t.tiles, due := t.due })) ∧
    (s.haltedAt s.cur.tile = true → ∃ t, exec .poolSegmentExchange s = .next t ∧ t = { s with due := t.due }))

/-- A slice that is over marks every tile of the partition for the next context; once all is quiet the boundary ends; past the
preemption timeout every group that has not parked is stopped. -/
def Slices : Prop :=
  (∀ (s : State) (P : Part) (i : Nat) (e : Nat × Nat), s.part s.cur.tile = some P → P.boundary = none → P.paused = none →
    P.heldStop = false → P.op = none → P.pendSet = [] → s.sliceOver s.cur.tile P = true → 1 < P.ctxs.length →
    s.nextEntry s.cur.tile P = some i → P.sched[i]? = some e → P.current ≠ some e.1 →
    ∃ t Q o, exec .sliceBoundary s = .next t ∧ t.part s.cur.tile = some Q ∧ P.sched[P.schedPos]? = some o ∧
      Q.sliceAt = (if P.resting then s.wtime else min (P.sliceAt + 1000 * o.2) s.wtime) ∧ Q.boundary = some Q.sliceAt ∧
      Q.schedPos = i ∧ DueEv t .preemptionTimeout ∧ t.mem = s.mem ∧ ∀ u ∈ s.tilesOf s.cur.tile,
        (t.tile u).ctl.noClaim = true ∧ ∀ g ∈ (t.tile u).ctl.groups, g.2.marked = true) ∧
  (∀ (s : State) (P : Part) (b : Nat), s.part s.cur.tile = some P → P.boundary = some b →
    (∀ u ∈ s.tilesOf s.cur.tile, s.quiet u = true) →
    ∃ t Q, exec .sliceBoundary s = .next t ∧ t.part s.cur.tile = some Q ∧ Q.boundary = none ∧ Q.schedPos = P.schedPos) ∧
  (∀ (s : State) (P : Part) (b : Nat), s.part s.cur.tile = some P → P.boundary = some b → b + P.preempt ≤ s.wtime →
    ∃ t, exec .preemptionTimeout s = .next t ∧ t.mem = s.mem ∧
      ∀ u ∈ s.tilesOf s.cur.tile, ∀ g ∈ (t.tile u).ctl.groups, g.2.parked = true ∨ g.2.stopped = true)

/-- Images that a tile's agent takes from the restore list leave it; one that does not stand in memory as it was saved is
refused. -/
def Restores : Prop :=
  ∀ (s : State) (P : Part) (l : List (Nat × SavedImage)), let T := s.tile s.cur.tile
    s.part T.tag = some P →
    (P.images.filter fun x => x.ctx == T.ctl.ctx && x.listed).findSome? (s.placements s.cur.tile) = some l →
    (∀ x ∈ P.images, x.ctx = T.ctl.ctx → x.listed = true → s.imageGood T.tag x = true) →
    (∀ z ∈ l, (s.tile z.1).tag = T.tag) →
    ∃ t Q, exec .restoreListLoad s = .next t ∧ t.part T.tag = some Q ∧ (∀ z ∈ l, z.2 ∉ Q.images) ∧
      (∀ x ∈ P.images, (∀ z ∈ l, z.2 ≠ x) → x ∈ Q.images) ∧
      ∀ u x, l = [(u, x)] → ∀ y ∈ x.ctl.teams, ((t.tile u).team y.1).isSome = true

/-- The first undelivered trap of a group is written to its context's error store, and its AEVT queued. -/
def Delivers : Prop :=
  ∀ (tile slot : Nat) (s : State) (r : Trap) (c : Ctx), let T := s.tile tile
    (T.group slot).traps.find? (fun r => !r.delivered && !r.held) = some r → s.ctx T.tag T.ctl.ctx = some c →
    c.storeFull = false → T.aevtFull = false →
    let n := 1 + c.eprod % 255
    ∃ t d e, exec (.trapDeliver tile slot) s = .next t ∧ t.ctx T.tag T.ctl.ctx = some d ∧ d.eprod = (c.eprod + 1) % 2 ^ 32 ∧
      amGet d.erecs n = some (s.record tile slot r (r.isRouted (T.team (T.group slot).team) && slot != 32)) ∧
      (∀ m, m ≠ n → amGet d.erecs m = amGet c.erecs m) ∧ (t.tile tile).aevt = T.aevt ++ [e] ∧ e.kind = 1 ∧ e.gslot = slot ∧
      e.slot = T.act

/-- Launch aborts: the port, the notice of one tile, the completion. -/
def Aborts : Prop :=
  (∀ (tag ctx value : Nat) (s : State) (c : Ctx) (l : Launch), s.ctx tag ctx = some c →
    c.launches.find? (fun l => l.seq % 2 ^ 32 == value / 2 ^ 32) = some l → l.complete = false → l.aborted = none →
    ∃ t d m, exec (.abortPortWrite tag ctx value) s = .next t ∧ t.ctx tag ctx = some d ∧ d.launch l.seq = some m ∧
      m.listed = false ∧ m.aborted = some (bits value 8 8, bits value 0 8) ∧ m.awaiting = s.tilesOf tag ∧
      DueEv t (.abortComplete tag ctx l.seq) ∧ ∀ x ∈ s.tilesOf tag, DueEv t (.abortNotice x tag ctx l.seq)) ∧
  (∀ (tile tag ctx seq : Nat) (s : State) (c : Ctx) (l : Launch), s.ctx tag ctx = some c → c.launch seq = some l →
    l.aborted ≠ none → tile ∈ l.awaiting → (s.tile tile).tag = tag →
    ((s.tile tile).ctl.ctx ≠ ctx ∨ ((s.tile tile).slot (s.tile tile).act).st = .active ∧ s.launchBusy tile seq = false) →
    ∃ t d m, exec (.abortNotice tile tag ctx seq) s = .next t ∧ t.ctx tag ctx = some d ∧ d.launch seq = some m ∧
      m.awaiting = l.awaiting.filter (· != tile) ∧ DueEv t (.abortComplete tag ctx seq) ∧
      ((s.tile tile).ctl.ctx = ctx → (∀ x ∈ (t.tile tile).ctl.teams, x.2.seq ≠ seq) ∧
        (∀ x ∈ (t.tile tile).store, ¬ (x.2.ctx = ctx ∧ x.2.seq = seq)))) ∧
  (∀ (tag ctx seq : Nat) (s : State) (c : Ctx) (l : Launch) (a : Nat × Nat), s.ctx tag ctx = some c → c.launch seq = some l →
    l.aborted = some a → l.complete = false → (∀ x ∈ l.awaiting, (s.tile x).tag ≠ tag) →
    ∃ t d m, exec (.abortComplete tag ctx seq) s = .next t ∧ t.ctx tag ctx = some d ∧ d.launch seq = some m ∧
      m.complete = true ∧ m.aborted = some a)

/-- Counters that wrap, writes to context blocks and to registers without an event of their own. -/
def SmallWrites : Prop :=
  (∀ (tile cslot n : Nat) (s : State), let c := ((s.tile tile).slot cslot).ctl
    n < 4 → 2 ^ 48 ≤ c.pmc.getD n 0 → c.pms.length = 4 →
    ((s.tile tile).aevtFull = true → bit (c.pms.getD n 0) 15 = true →
      ∃ t, exec (.counterOverflow tile cslot n) s = .next t ∧ t = { s with due := t.due } ∧ DueEv t (.counterOverflow tile cslot n)) ∧
    (((s.tile tile).aevtFull = false ∨ bit (c.pms.getD n 0) 15 = false) →
    ∃ t, exec (.counterOverflow tile cslot n) s = .next t ∧
      ((t.tile tile).slot cslot).ctl.pmc.getD n 0 = c.pmc.getD n 0 % 2 ^ 48 ∧
      bit (((t.tile tile).slot cslot).ctl.pms.getD n 0) 14 = true ∧
      (bit (c.pms.getD n 0) 15 = true → ∃ e, (t.tile tile).aevt = (s.tile tile).aevt ++ [e] ∧ e.kind = 5 ∧ e.slot = cslot))) ∧
  (∀ (tag ctx off value size : Nat) (user tb : Bool) (s : State),
    (∀ q ∈ s.queues, q.2.cfg.tag = tag → q.2.cfg.ctx = ctx → q.2.state = .unlocked ∨ q.2.state = .error) →
    ∃ t, exec (.contextBlockWrite tag ctx off value size user tb) s = .next t ∧ t = { s with parts := t.parts } ∧
      t.ctx tag ctx = (s.ctx tag ctx).map fun c => c.writeBlock off size value (!user)) ∧
  (∀ (tile value : Nat) (s : State), tile < 8400 →
    (∃ t, exec (.registerWrite tile 0x22 value) s = .next t ∧ (t.tile tile).ctl.bint = value % 2 ^ 20 ∧
      t = { s with tiles := t.tiles }) ∧
    (∃ t, exec (.registerWrite tile 0x25 value) s = .next t ∧ (t.tile tile).ctl.leasecap = value % 2 ^ 19 ∧
      t = { s with tiles := t.tiles }) ∧
    (∃ t, exec (.registerWrite tile 0x200 value) s = .next t ∧ (t.tile tile).tag = value % 1024 ∧
      (t.tile tile).gen = value / 1024 % 16 ∧ t = { s with tiles := t.tiles }))

end Sys2Proof.Claims

/-- R67 to R70, R207, R363: parking, streamed slots, slices and the restore list. -/
def Obligations.ContextSteps : Prop := Parks ∧ SlotSteps ∧ Slices ∧ Restores

/-- R354 to R356, R364, R202, R321, R2: trap records, launch aborts, counters that wrap and small writes. -/
def Obligations.TrapsAborts : Prop := Delivers ∧ Aborts ∧ SmallWrites

/-! ## Memory operations in flight -/

namespace Sys2Proof.Claims

/-- The last write of a list to a register of a lane; a k register is written for every lane. -/
def lastWrite (ws : List (Nat × Nat × W32)) (l r : Nat) : Option W32 :=
  (ws.filter fun w => w.2.1 == r && ((decide (128 ≤ r) && decide (r < 160)) || w.1 == l)).getLast?.map (·.2.2)

/-- An issued instruction completes: its writes are made, its flags are ORed in, its record is gone, the lanes that waited for it
go on and no other lane moves; or, where it held its lanes for an enabled flag, ARITH is raised and nothing is written. -/
def Completions : Prop :=
  ∀ (tile g iid : Nat) (s : State) (o : OutInst), let T := s.tile tile
    let G := T.group g
    G.outOf iid = some o → o.rem = 0 → o.cmds = [] → o.ready ≤ s.cycle tile → G.flagsPending o = false →
    (o.hor = 0 ∨ s.passed tile o.hor = true) → s.haltedAt tile = false →
    ((G.waitersOf iid = 0 ∨ (o.kind % 2 = 1 → G.fpsTrap o.fps = 0) ∧ (o.kind / 2 % 2 = 1 → G.istTrap o.ist = 0)) →
      ∃ t, exec (.instructionComplete tile g iid) s = .next t ∧ t.mem = s.mem ∧
        let H := (t.tile tile).group g
        H.outOf iid = none ∧ H.fps = G.fps ||| BitVec.ofNat 32 (o.fps % 32) ∧
        H.istat = G.istat ||| BitVec.ofNat 32 (o.ist % 4) ∧ ∀ l < 32,
          (∀ r < 168, (t.tile tile).regNow H l r =
            match lastWrite (o.res ++ G.flagWrites o) l r with
            | none => T.regNow G l r
            | some v => if r < 160 then v else if r = 160 then 1 else if v = 0 then 0 else 1) ∧
          (H.lane l).pc = (if bit (G.waitersOf iid) l then ((G.lane l).pc + 8) % 2 ^ 56 else (G.lane l).pc)) ∧
    (G.waitersOf iid ≠ 0 → o.kind % 2 = 1 → G.fpsTrap o.fps ≠ 0 →
      ∃ t r, exec (.instructionComplete tile g iid) s = .next t ∧ ((t.tile tile).group g).lastTrap = some r ∧
        r.cls = .arith ∧ r.cause = 1 ∧ r.pc = o.pc ∧ r.info1 = o.fps ∧ r.lanes = G.waitersOf iid ∧
        ∀ l < 32, ∀ n < 168, (t.tile tile).regNow ((t.tile tile).group g) l n = T.regNow G l n) ∧
    (G.waitersOf iid ≠ 0 → (o.kind % 2 = 1 → G.fpsTrap o.fps = 0) → o.kind / 2 % 2 = 1 → G.istTrap o.ist ≠ 0 →
      ∃ t r, exec (.instructionComplete tile g iid) s = .next t ∧ ((t.tile tile).group g).lastTrap = some r ∧
        r.cls = .arith ∧ r.cause = 2 ∧ r.pc = o.pc ∧ r.info1 = o.ist ∧ r.lanes = G.waitersOf iid ∧
        ∀ l < 32, ∀ n < 168, (t.tile tile).regNow ((t.tile tile).group g) l n = T.regNow G l n)

/-- A request by its identifier, still to be performed, with no earlier request of its group to the line in the way. -/
abbrev Turn (s : State) (id : Nat) (r : Req) : Prop := s.req id = some r ∧ r.perf = false ∧ s.lineOrder id r = true

/-- A home slice serves a load: its value and its sector are those of memory, which does not change. -/
def SliceLoads : Prop :=
  ∀ (id : Nat) (s : State) (r : Req) (f : Bool), Turn s id r → s.teamOrder id r = true → r.kind = .load f →
    (s.poisoned r.pa r.size = false →
      let fill := f && !s.poisoned (r.pa / 128 * 128) 128
      ∃ t q, exec (.sliceRead id) s = .next t ∧ t.mem = s.mem ∧ t.req id = some q ∧ q.perf = true ∧
        q.val = Memory.read s.mem r.pa r.size ∧ q.sect = Memory.read s.mem (r.pa / 128 * 128) 128 ∧ q.kind = .load fill ∧
        q.ecc = r.ecc ∧ DueEv t (if fill then .l1Fill id else .loadResponse id)) ∧
    (s.poisoned r.pa r.size = true →
      ∃ t q, exec (.sliceRead id) s = .next t ∧ t.mem = s.mem ∧ t.req id = some q ∧ q.perf = true ∧
        q.ecc = 1 + s.eccSource r.pa ∧ q.kind = .load false ∧ DueEv t (.loadResponse id))

/-- A fill with nothing of its tile in flight for the sector puts the sector into the L1 under the lease of its request, after
the fills of the sector that were read earlier; in skew hold it puts nothing there. -/
def Fills : Prop :=
  ∀ (id : Nat) (s : State) (r : Req), s.req id = some r → r.perf = true → r.kind = .load true →
    ((∃ q ∈ s.reqs, q.1 ≠ id ∧ q.2.isFill r.tile (r.pa / 128) = true ∧ q.2.ord < r.ord) →
      ∃ t, exec (.l1Fill id) s = .next t ∧ t = { s with due := t.due } ∧ DueEv t (.l1Fill id)) ∧
    ((∀ q ∈ s.reqs, q.1 ≠ id → q.2.isFill r.tile (r.pa / 128) = true → r.ord ≤ q.2.ord) →
     ((s.tile r.tile).tag = r.tag → (s.tile r.tile).gen = r.gen → (s.tile r.tile).ctl.ctx = r.ctx →
      (s.field (fieldOf r.tile)).hold = false →
      (∀ q ∈ s.reqs, q.2.tile = r.tile → q.2.pa / 128 = r.pa / 128 → q.2.perf = true) →
      ∃ t x q, exec (.l1Fill id) s = .next t ∧ x ∈ (t.tile r.tile).l1 ∧ x.line = r.pa / 128 ∧ x.lease = r.lease ∧
        x.due = r.due ∧ x.data = leBytes 128 r.sect ∧ t.req id = some q ∧ q.kind = .load false ∧
        DueEv t (.loadResponse id)) ∧
     ((s.field (fieldOf r.tile)).hold = true →
      ∃ t, exec (.l1Fill id) s = .next t ∧ t.tiles = s.tiles ∧ DueEv t (.loadResponse id)))

/-- The record of an instruction has taken one answer: its writes are kept, one operation less is outstanding, and with none
left its completion is due. -/
def Answered (s t : State) (r : Req) (o : OutInst) (ws : List (Nat × Nat × W32)) (fl : Nat) : Prop :=
  (∃ p, ((t.tile r.tile).group r.slot).outOf r.iid = some p ∧ p.rem = o.rem - 1 ∧ p.res = o.res ++ ws ∧
    p.fps = o.fps ||| fl) ∧
  (o.rem ≤ 1 → DueEv t (.instructionComplete r.tile r.slot r.iid)) ∧ t.mem = s.mem

/-- A request of a tile that still belongs to its partition, with the record of its instruction. -/
abbrev Waiting (s : State) (id : Nat) (r : Req) (o : OutInst) : Prop :=
  s.req id = some r ∧ s.reqLive r = true ∧ ((s.tile r.tile).group r.slot).outOf r.iid = some o

/-- Values return to loads and gathers, through a shared link once their flit has left; one that met an uncorrectable error
traps; a stray response is dropped. -/
def Responses : Prop :=
  (∀ (id : Nat) (s : State) (r : Req) (o : OutInst), Waiting s id r o → s.flitWaits id = true →
    ∃ t, exec (.loadResponse id) s = .next t ∧ t = { s with due := t.due } ∧ DueEv t (.loadResponse id)) ∧
  (∀ (id : Nat) (s : State) (r : Req) (o : OutInst), Waiting s id r o → s.flitWaits id = false →
    (r.perf = true → r.ecc = 0 → regionOf r.pa = .plinth → (r.kind = .load false ∨ ∃ i, r.kind = .gather i) →
      ∃ t, exec (.loadResponse id) s = .next t ∧ t.req id = none ∧ Answered s t r o (r.writes r.val) 0) ∧
    (∀ w off, r.kind = .load false → regionOf r.pa = .host w off →
      ∃ t, exec (.loadResponse id) s = .next t ∧ t.req id = none ∧
        Answered s t r o (r.writes (Memory.read s.host (hostKey w (s.ctx r.tag r.ctx) off) r.size)) 0) ∧
    (r.kind = .peerLoad → ∃ t, exec (.loadResponse id) s = .next t ∧
      if r.ecc ≠ 0 ∨ Config.pick s.free 2 % 2 = 1 then ∃ y, ((t.tile r.tile).group r.slot).lastTrap = some y ∧ y.cls = .xlate ∧
        y.cause = 8 ∧ y.info1 = r.va ∧ ((t.tile r.tile).group r.slot).outOf r.iid = none
      else t.req id = none ∧ Answered s t r o (r.writes (Config.freeNat (s.free + 1))) 0) ∧
    (r.kind = .load false → r.perf = true → r.ecc ≠ 0 → regionOf r.pa = .plinth →
      ∃ t y, exec (.loadResponse id) s = .next t ∧ ((t.tile r.tile).group r.slot).lastTrap = some y ∧ y.cls = .ecc ∧
        y.cause = 4 ∧ y.info1 = r.va ∧ y.info2 = r.ecc - 1 ∧ ((t.tile r.tile).group r.slot).outOf r.iid = none)) ∧
  (∀ (id : Nat) (s : State) (r : Req), s.req id = some r → s.reqLive r = false →
    ∃ t, exec (.loadResponse id) s = .next t ∧ t.req id = none ∧ t.mem = s.mem ∧
      (t.tile r.tile).drops = min ((s.tile r.tile).drops + 1) (2 ^ 32 - 1))

/-- A store is applied at its home: its bytes read back, every other byte is as before, and it takes a completion time. -/
def StoreApplies : Prop :=
  ∀ (id v : Nat) (s : State) (r : Req), Turn s id r → r.kind = .store v → (s.field (homeField r.pa)).stopped = false →
    ∃ t q, exec (.sliceStoreApply id) s = .next t ∧ t.req id = some q ∧ q.perf = true ∧ s.wtime ≤ q.comp ∧
      Memory.read t.mem r.pa r.size = v % 256 ^ r.size ∧
      (∀ a, a < r.pa ∨ r.pa + r.size ≤ a → Memory.get t.mem a = Memory.get s.mem a) ∧ DueEv t (.storeAck id)

/-- Acknowledgements: the completion time enters the release horizon. A store through a host window writes host memory and waits
for its flush. -/
def StoreAcks : Prop :=
  ∀ (id : Nat) (s : State) (r : Req) (o : OutInst), Waiting s id r o →
    (∀ v, r.kind = .store v → r.perf = true → r.ecc = 0 →
      (∀ q ∈ s.reqs, q.1 ≠ id → q.2.isFill r.tile (r.pa / 128) = false) → ((s.tile r.tile).group r.slot).gid = r.gid →
      ∃ t, exec (.storeAck id) s = .next t ∧ t.req id = none ∧ Answered s t r o [] 0 ∧
        ((t.tile r.tile).group r.slot).rh = max ((s.tile r.tile).group r.slot).rh r.comp) ∧
    (∀ v w off, r.kind = .hostStore v → r.perf = false → regionOf r.pa = .host w off → s.flitWaits id = false →
      let k := hostKey w (s.ctx r.tag r.ctx) off
      ∃ t q, exec (.storeAck id) s = .next t ∧ t.req id = some q ∧ q.perf = true ∧ Answered s t r o [] 0 ∧
        Memory.read t.host k r.size = v % 256 ^ r.size ∧
        ∀ a, a < k ∨ k + r.size ≤ a → Memory.get t.host a = Memory.get s.host a) ∧
    (∀ v, r.kind = .peerStore v → ((s.tile r.tile).group r.slot).gid = r.gid → s.flitWaits id = false →
      ∃ t p, exec (.storeAck id) s = .next t ∧ t.req id = none ∧
        ((t.tile r.tile).group r.slot).outOf r.iid = some p ∧ p.rem = o.rem - 1 ∧ p.res = o.res ∧
        (r.ecc = 0 → Config.pick s.free 3 % 3 = 0 → Answered s t r o [] 0 ∧
          ((t.tile r.tile).group r.slot).rh = max ((s.tile r.tile).group r.slot).rh (Config.freeNat (s.free + 1) + 8)) ∧
        ((r.ecc ≠ 0 ∨ Config.pick s.free 3 % 3 ≠ 0) →
          ((t.tile r.tile).group r.slot).rh = ((s.tile r.tile).group r.slot).rh))

/-- Atomics at home: one read and write; a RED ORs its flags into its home's status entry. -/
def AtomicApplies : Prop :=
  ∀ (id : Nat) (s : State) (r : Req), Turn s id r → regionOf r.pa = .plinth → s.poisoned r.pa r.size = false →
    let old := Memory.read s.mem r.pa r.size
    (∀ op b d, r.kind = .atom op b d →
      ∃ t q, exec (.sliceAtomicApply id) s = .next t ∧ t.req id = some q ∧ q.perf = true ∧ q.val = old ∧
        Memory.read t.mem r.pa r.size = atomNew op old b d % 256 ^ r.size ∧
        (∀ a, a < r.pa ∨ r.pa + r.size ≤ a → Memory.get t.mem a = Memory.get s.mem a) ∧ DueEv t (.atomResponse id)) ∧
    (∀ op b, r.kind = .red op b →
      ∃ t q, exec (.sliceAtomicApply id) s = .next t ∧ t.req id = some q ∧ q.perf = true ∧
        Memory.read t.mem r.pa r.size = atomNew op old b 0 % 256 ^ r.size ∧
        (∀ a, a < r.pa ∨ r.pa + r.size ≤ a → Memory.get t.mem a = Memory.get s.mem a) ∧
        (amGet (t.field (homeField r.pa)).status r.tag).getD 0 =
          ((amGet (s.field (homeField r.pa)).status r.tag).getD 0 ||| q.flags) ∧ DueEv t (.atomResponse id))

/-- Answers of atomics, and gathers. -/
def AtomicAnswers : Prop :=
  (∀ (id : Nat) (s : State) (r : Req) (o : OutInst), Waiting s id r o → r.perf = true → r.ecc = 0 →
    (∀ op b d, r.kind = .atom op b d →
      ∃ t, exec (.atomResponse id) s = .next t ∧ t.req id = none ∧ Answered s t r o (r.writes r.val) r.flags) ∧
    (∀ op b, r.kind = .red op b → ∃ t, exec (.atomResponse id) s = .next t ∧ t.req id = none ∧ Answered s t r o [] 0)) ∧
  (∀ (id : Nat) (s : State) (r : Req) (idx : List Nat), s.req id = some r → r.perf = false → s.lineOrder id r = true →
    s.teamOrder id r = true → r.kind = .gather idx →
    (∀ i ∈ idx, s.poisoned (r.pa + 4 * i) 4 = false) →
    ∃ t q, exec (.sliceGather id) s = .next t ∧ t.mem = s.mem ∧ t.req id = some q ∧ q.perf = true ∧
      (∀ j < idx.length, q.val / 2 ^ (32 * j) % 2 ^ 32 = Memory.read s.mem (r.pa + 4 * idx.getD j 0) 4) ∧
      DueEv t (.loadResponse id))

/-- Fences end for every lane that waits alike, and so do the waits of a WAITO, whose lanes then pass on, and of a BAR for its
release; the flush of a host link confirms its stores and copies. -/
def FenceEnds : Prop :=
  (∀ (tile g lane upto : Nat) (k : FenceKind) (sc : Scope) (rpt : Bool) (s : State), let G := (s.tile tile).group g
    let w := Wait.fence k sc upto rpt
    let ls := (List.range 32).filter fun l => (G.lane l).wait == w
    (G.lane lane).wait = w → s.fenceOk tile g k sc (maskOf ls) upto = true →
    ∃ t, exec (.fenceWaitEnd tile g lane) s = .next t ∧ t.mem = s.mem ∧ ∀ l < 32, ((t.tile tile).group g).lane l =
      if l ∈ ls then { G.lane l with wait := .none, relDone := rpt } else G.lane l) ∧
  (∀ (tile g lane upto : Nat) (cl : Bool) (sc : Scope) (s : State), let G := (s.tile tile).group g
    (G.lane lane).wait = .relBar cl sc upto →
    (s.relOk tile g sc upto = true → ∃ t, exec (.fenceWaitEnd tile g lane) s = .next t ∧ t.mem = s.mem ∧
      DueEv t (.barrierComplete tile G.team cl) ∧ ∀ l < 32, ((t.tile tile).group g).lane l =
        if (G.lane l).wait = .relBar cl sc upto then { G.lane l with wait := .bar cl } else G.lane l) ∧
    (s.relOk tile g sc upto = false → ∃ t, exec (.fenceWaitEnd tile g lane) s = .next t ∧ t = { s with due := t.due } ∧
      DueEv t (.fenceWaitEnd tile g lane))) ∧
  (∀ (tile g lane : Nat) (acc ph : Bool) (us : List Nat) (s : State), let G := (s.tile tile).group g
    (G.lane lane).wait = .units acc ph us →
    (s.unitsReady tile G.team acc ph us = true → ∃ t, exec (.fenceWaitEnd tile g lane) s = .next t ∧ t.mem = s.mem ∧
      ∀ l < 32, (((t.tile tile).group g).lane l).pc =
        if (G.lane l).wait = .units acc ph us then ((G.lane l).pc + 8) % 2 ^ 56 else (G.lane l).pc) ∧
    (s.unitsReady tile G.team acc ph us = false → ∃ t, exec (.fenceWaitEnd tile g lane) s = .next t ∧
      t = { s with due := t.due } ∧ DueEv t (.fenceWaitEnd tile g lane))) ∧
  (∀ s : State, let mine (tag : Nat) : Prop := ((s.part tag).map (·.link)).getD 0 = s.cur.tile
    ∃ t, exec .hostFlushCompletion s = .next t ∧ t = { s with reqs := t.reqs, queues := t.queues, links := t.links } ∧
      (∀ q ∈ t.reqs, q ∈ s.reqs ∧ ∀ v, q.2.kind = .hostStore v → q.2.perf = true → ¬ mine q.2.tag) ∧
      (∀ q ∈ t.queues, mine q.2.cfg.tag → q.2.drain = [] ∧ ∀ j, q.2.copy = some j → j.flush = false))

/-- A walker takes a walk; its answer reaches every requester that still runs the context. -/
def Walks : Prop :=
  (∀ (w : Nat) (s : State) (W : Walk), amGet s.walks w = some W → W.started = false → (s.field W.field).stopped = false →
    (s.walks.filter fun x => x.2.field == W.field && x.2.started).length < (s.field W.field).walkers →
    ∃ t, exec (.pageWalk w) s = .next t ∧ amGet t.walks w = some { W with started := true } ∧ DueEv t (.walkComplete w) ∧
      t = { s with walks := t.walks, due := t.due }) ∧
  (∀ (w : Nat) (s : State) (W : Walk), amGet s.walks w = some W → W.started = true →
    ∃ t, exec (.walkComplete w) s = .next t ∧ amGet t.walks w = none ∧ t.mem = s.mem ∧ ∀ q ∈ W.req,
      (s.tile q.tile).tag = W.tag → (s.tile q.tile).gen = W.gen → (s.tile q.tile).ctl.ctx = W.ctx →
      ((t.tile q.tile).group q.slot).walkAns.find? (fun a => a.1 == W.page) =
        some (W.page, s.walk W.tag W.ctx W.root (W.page * 65536)) ∧
      ∀ l < 32, (((t.tile q.tile).group q.slot).lane l).wait ≠ .walk)

end Sys2Proof.Claims

/-- R107, R93, R111, R375: loads at their home, fills and responses. -/
def Obligations.LoadSteps : Prop := SliceLoads ∧ Fills ∧ Responses

/-- R156, R137, R115, R114, R86: an instruction completes, a fence lets go, a walk installs its entry. -/
def Obligations.CompletionWaitSteps : Prop := Completions ∧ FenceEnds ∧ Walks

/-- R107, R112, R114, R334, R119, R245 to R248: stores and atomics are applied at their slice and acknowledged. -/
def Obligations.StoreAtomicSteps : Prop := StoreApplies ∧ StoreAcks ∧ AtomicApplies ∧ AtomicAnswers

/-! ## The mesh, remote scratchpads, barriers -/

namespace Sys2Proof.Claims

/-- Routers: a packet passes on by the port of its route entry, behind the earlier ones of its channel, a request is accepted at
its destination, a loaded value reaches its requester, and a packet of another tag is dropped, counted and logged, with a
response to its sender. -/
def Routers : Prop :=
  (∀ (x : Nat) (p : Packet) (s : State), s.behind x p = true → ∃ t, exec (.routerPacketReceive x p) s = .next t ∧
    t = { s with due := t.due } ∧ DueEv t (.routerPacketReceive x p)) ∧
  ∀ (x : Nat) (p : Packet) (s : State), let T := s.tile x
    s.behind x p = false →
    (∀ port, p.tag = T.tag → x ≠ p.dest → T.tableBad = false → (amGet T.routes p.dest).getD 0 % 8 = port → 1 ≤ port →
      port ≤ 4 →
      ∃ t, exec (.routerPacketReceive x p) s = .next t ∧ t.mem = s.mem ∧ t.reqs = s.reqs ∧
        DueEv t (.routerPacketReceive (neighbour x port)
          { p with port := port, vc := (if p.port = 0 ∨ p.port = port then p.vc else min 7 (p.vc + 1)), seq := s.nextId })) ∧
    (p.tag = T.tag → p.gen = T.gen → x = p.dest → x ≠ p.stile → T.quiesce ≠ .retag →
      (p.resp = false → ∃ t, exec (.routerPacketReceive x p) s = .next t ∧ DueEv t (.remoteScratchpadRequest p.req) ∧
        t = { s with due := t.due }) ∧
      (∀ r o, p.resp = true → s.req p.req = some r → s.ctxHere r.tile r.ctx = true → r.kind = .spLoad → r.ecc = 0 →
        ((s.tile r.tile).group r.slot).outOf r.iid = some o →
        ∃ t, exec (.routerPacketReceive x p) s = .next t ∧ t.req p.req = none ∧ Answered s t r o (r.writes r.val) 0)) ∧
    (p.tag ≠ T.tag → p.resp = false → x ≠ p.stile → (x = p.dest → T.quiesce ≠ .retag) → (x ≠ p.dest → T.tableBad = false) →
      ∃ t e, exec (.routerPacketReceive x p) s = .next t ∧ t.mem = s.mem ∧
        (t.tile x).drops = min (T.drops + 1) (2 ^ 32 - 1) ∧ t.ks.dropLog.head? = some e ∧ e.reason = 1 ∧ e.dtile = x ∧
        e.stile = p.stile ∧ e.dest = p.dest ∧ ∀ r P, s.req p.req = some r → s.part p.tag = some P → P.gen = p.gen →
          DueEv t (.dropResponse p.req))

/-- A remote request that its target tile can perform. -/
abbrev Arrives (s : State) (id : Nat) (r : Req) (y : Team) : Prop :=
  s.req id = some r ∧ r.perf = false ∧ r.arr = false ∧ r.rtile ≠ r.tile ∧ s.remoteOrder id r = true ∧
  (s.tile r.rtile).held = false ∧ (s.tile r.rtile).tag = r.tag ∧ (s.tile r.rtile).gen = r.gen ∧
  s.ctxHere r.rtile r.ctx = true ∧ (s.tile r.rtile).team r.rteam = some y ∧ y.id = r.rteam ∧
  (r.kind.isRemote = true → (s.tile r.rtile).slabsHere r.rteam [r.va / 4096] = true)

/-- Accesses at the target tile: a load reads and a store writes the team's scratchpad there; full/empty requests queue at
their word; a spawned item joins a bin, and one whose template is not there is refused; without a team of the cluster the
answer is an error. -/
def Remotes : Prop :=
  ∀ (id : Nat) (s : State) (r : Req), (∀ y, Arrives s id r y →
    (r.kind = .spLoad → (s.tile r.rtile).badSp y.id r.va r.size = false →
      ∃ t q, exec (.remoteScratchpadRequest id) s = .next t ∧ t.tiles = s.tiles ∧ t.mem = s.mem ∧ t.req id = some q ∧
        q.perf = true ∧ q.val = y.spRead r.va r.size ∧ q.ecc = r.ecc) ∧
    (∀ v, r.kind = .spStore v →
      ∃ t q z, exec (.remoteScratchpadRequest id) s = .next t ∧ t.mem = s.mem ∧ t.req id = some q ∧ q.perf = true ∧
        (t.tile r.rtile).team r.rteam = some z ∧ z.spRead r.va r.size = v % 256 ^ r.size ∧
        ∀ a, a < r.va ∨ r.va + r.size ≤ a → z.spGet a = y.spGet a) ∧
    (∀ v, r.kind = .spStf v →
      ∃ t q z, exec (.remoteScratchpadRequest id) s = .next t ∧ t.req id = some q ∧ q.perf = true ∧
        (t.tile r.rtile).team r.rteam = some z ∧ z.spRead r.va 4 = v % 2 ^ 32 ∧ r.va / 4 ∈ z.full ∧
        DueEv t (.feRequestServed r.rtile y.id (r.va / 4))) ∧
    (∀ f, r.kind = .spSet f →
      ∃ t q z, exec (.remoteScratchpadRequest id) s = .next t ∧ t.req id = some q ∧ q.perf = true ∧
        (t.tile r.rtile).team r.rteam = some z ∧ z.full.contains (r.va / 4) = f ∧
        DueEv t (.feRequestServed r.rtile y.id (r.va / 4))) ∧
    ((∃ k, r.kind = .spLdf k) ∨ (∃ v, r.kind = .spSte v) →
      ∃ t q, exec (.remoteScratchpadRequest id) s = .next t ∧ t.tiles = s.tiles ∧ t.req id = some q ∧ q.perf = false ∧
        q.arr = true ∧ q.since = s.wtime ∧ DueEv t (.feRequestServed r.rtile y.id (r.va / 4))) ∧
    (∀ num i, r.kind = .spawn num i → (y.ended = true ∨ (s.tile r.rtile).tmplOf y num = none) →
      ∃ t q, exec (.remoteScratchpadRequest id) s = .next t ∧ t.tiles = s.tiles ∧ t.req id = some q ∧ q.perf = true ∧
        q.ecc = 300) ∧
    (∀ num i tm U, r.kind = .spawn num i → y.ended = false → (s.tile r.rtile).tmplOf y num = some tm →
      (s.tile r.rtile).ctl.held = [] → (s.tile r.rtile).binOffer tm.1 y.id
        { idx := i, at_ := s.tileTime r.rtile, cyc := s.cycle r.rtile, src := 64 + r.slot } = some U →
      ∃ t q, exec (.remoteScratchpadRequest id) s = .next t ∧ t.mem = s.mem ∧ t.req id = some q ∧ q.perf = true ∧
        q.ecc = r.ecc ∧ (t.tile r.rtile).ctl.bins = U.ctl.bins ∧ DueEv t (.binGroupLaunch r.rtile))) ∧
  (s.req id = some r → r.perf = false → r.arr = false → r.rtile ≠ r.tile → s.remoteOrder id r = true →
    (s.tile r.rtile).held = false → (s.tile r.rtile).tag = r.tag → (s.tile r.rtile).gen = r.gen →
    s.ctxHere r.rtile r.ctx = true → (s.tile r.rtile).team r.rteam = none →
    ∃ t q, exec (.remoteScratchpadRequest id) s = .next t ∧ t.tiles = s.tiles ∧ t.req id = some q ∧ q.perf = true ∧
      ((∃ num i, r.kind = .spawn num i) → q.ecc = 300) ∧ ((∀ num i, r.kind ≠ .spawn num i) → q.ecc = 200))

/-- A full/empty word serves its earliest request whose condition holds and is offered again. -/
def FeWords : Prop :=
  ∀ (tile team word : Nat) (s : State) (x : Team) (id : Nat) (r : Req), (s.tile tile).team team = some x → x.id = team →
    (s.tile tile).slabsHere team [word / 1024] = true →
    firstReady (x.full.contains word) (s.reqs.filter fun q => q.2.rtile == tile && q.2.rteam == team &&
      q.2.va / 4 == word && q.2.arr && !q.2.perf) = some (id, r) →
    ∃ t z, exec (.feRequestServed tile team word) s = .next t ∧ t.mem = s.mem ∧ (t.tile tile).team team = some z ∧
      (∀ k, r.kind = .spLdf k → z.full.contains word = !k ∧ z.sp = x.sp) ∧
      (∀ v, r.kind = .spSte v → z.full.contains word = true ∧ z.spRead (4 * word) 4 = v % 2 ^ 32) ∧
      DueEv t (.feRequestServed tile team word) ∧ (r.tile = tile → t.req id = none) ∧
      (r.tile ≠ tile → ∃ q, t.req id = some q ∧ q.perf = true ∧
        ∀ k, r.kind = .spLdf k → q.val = x.spRead (4 * word) 4)

/-- A lane that has waited longer than 1 ms at a full/empty word ends its instruction with FEWAIT; its requests are withdrawn. -/
def FeTimeout : Prop :=
  ∀ (s : State) (id : Nat) (r : Req),
    (s.reqsOf s.cur.tile s.cur.slot).find? (fun q => q.2.isFe && q.2.arr && !q.2.perf &&
      decide (q.2.since + 1000000 < s.wtime)) = some (id, r) →
    ∃ t y, exec .fewaitTimeout s = .next t ∧ t.mem = s.mem ∧
      ((t.tile s.cur.tile).group s.cur.slot).lastTrap = some y ∧ y.cls = .fewait ∧
      ((∃ k, r.kind = .spLdf k) → y.cause = 1) ∧ ((∃ v, r.kind = .spSte v) → y.cause = 2) ∧ y.info1 = r.va ∧
      y.info2 = r.place ∧ y.pc = r.pc ∧ y.lanes = ((s.tile s.cur.tile).group s.cur.slot).feWaiters r.iid ∧
      ∀ q ∈ t.reqs, ¬ (q.2.tile = s.cur.tile ∧ q.2.slot = s.cur.slot ∧ q.2.iid = r.iid)

/-- A barrier of a team that is a cluster of its own ends once every participant group has arrived: no lane waits at it any
more and the team's phase advances. -/
def TeamBarriers : Prop :=
  ∀ (tile team : Nat) (cluster : Bool) (s : State) (x : Team), let T := s.tile tile
    T.team team = some x → x.id = team → (cluster = true → x.cw * x.ch = 1 ∧ x.lostC = false) → T.allArrived team cluster = true →
    T.someArrived team cluster = true →
    (T.ctl.groups.map (·.1)).Nodup →
    ∃ t z, exec (.barrierComplete tile team cluster) s = .next t ∧ t.mem = s.mem ∧ (t.tile tile).team team = some z ∧
      z.barT = x.barT + (if cluster then 0 else 1) ∧ z.barC = x.barC + (if cluster then 1 else 0) ∧
      ∀ g < 32, (T.group g).participant team = true → ∀ l < 32, ((T.group g).lane l).wait = .bar cluster →
        (((t.tile tile).group g).lane l).wait ≠ .bar cluster ∧
        (((t.tile tile).group g).lane l).pc = (((T.group g).lane l).pc + 8) % 2 ^ 56

/-- A drop response: the access ends with a record of XLATE cause 5 that stops no lane; a SPAWN lane traps. A record covers
the drops of a tile's context once 10 µs have passed since the first. -/
def Drops : Prop :=
  (∀ (id : Nat) (s : State) (r : Req), s.req id = some r → s.reqLive r = true → s.ctxHere r.tile r.ctx = true →
    (∀ o, (r.kind = .spLoad ∨ ∃ v, r.kind = .spStore v) → ((s.tile r.tile).group r.slot).outOf r.iid = some o →
      ∃ t y, exec (.dropResponse id) s = .next t ∧ t.req id = none ∧ Answered s t r o [] 0 ∧
        ((t.tile r.tile).group r.slot).lastTrap = some y ∧ y.cls = .xlate ∧ y.cause = 5 ∧ y.info1 = r.place ∧
        y.lanes = 0 ∧ y.pc = r.pc) ∧
    (∀ num i, r.kind = .spawn num i →
      ∃ t y, exec (.dropResponse id) s = .next t ∧ t.req id = none ∧ t.mem = s.mem ∧
        ((t.tile r.tile).group r.slot).lastTrap = some y ∧ y.cls = .xlate ∧ y.cause = 5 ∧ y.lane = r.lane ∧
        y.lanes = ((s.tile r.tile).group r.slot).spawnWaiters r.lane)) ∧
  (∀ (tile tag ctx : Nat) (s : State) (P : Part) (c : Cover), s.part tag = some P →
    P.covers.find? (fun c => c.tile == tile && c.ctx == ctx) = some c → c.first + 10000 < s.wtime →
    ∃ t Q, exec (.dropRecordPost tile tag ctx) s = .next t ∧ t.part tag = some Q ∧ Q.covers = P.covers.erase c ∧
      ∀ C pa, amGet P.ctxs ctx = some C → C.evbase ≠ 0 → C.ringFull = false → regionOf pa = .plinth →
        (s.setPart tag { P with covers := P.covers.erase c }).xlate tag ctx (C.evbase + 32 * (C.evprod % 2 ^ C.logsz))
          .write .agent = some pa →
        (∃ D, t.ctx tag ctx = some D ∧ D.evprod = (C.evprod + 1) % 2 ^ 32) ∧ (Memory.get t.mem pa).toNat = 5)

end Sys2Proof.Claims

/-- R289 to R292, R388 to R392: routers, drop responses and drop records. -/
def Obligations.MeshSteps : Prop := Routers ∧ Drops

/-- R78, R120, R124, R242, R250, R372: remote scratchpad accesses, full/empty words and barriers. -/
def Obligations.RemoteSteps : Prop := Remotes ∧ FeWords ∧ FeTimeout ∧ TeamBarriers

/-! ## Engines -/

namespace Sys2Proof.Claims

/-- The copy engine takes its next command once its slabs are in the pool and a remote tile runs the context: its rows move in
increasing order and the return of its units is due; where a router drops its traffic it leaves the queue with its units kept,
and its record stops no lane. -/
def CopyEngine : Prop :=
  ∀ (tile : Nat) (s : State) (x0 : CopyCmd), let T := s.tile tile
    T.copies.find? (fun x => !x.ran) = some x0 →
    let x := { x0 with rtile := s.homeOf x0 }
    (s.remoteAway tile x = true ∨ T.slabsHere x.team x.lunits = false →
      ∃ t, exec (.copyEngineCommand tile) s = .next t ∧ t = { s with due := t.due } ∧ DueEv t (.copyEngineCommand tile)) ∧
    (s.remoteAway tile x = false → T.slabsHere x.team x.lunits = true → (s.tile x.rtile).slabsHere x.rteam x.runits = true →
    (∀ d, s.copyDrop tile x = some d → ∃ t y, exec (.copyEngineCommand tile) s = .next t ∧ t.mem = s.mem ∧
      (t.tile tile).copies = T.copies.filter (fun y => y.id != x.id) ∧ (t.tile tile).ctl.teams = T.ctl.teams ∧
      ((t.tile tile).group x.slot).lastTrap = some y ∧ y.cls = .xlate ∧ y.cause = 5 ∧ y.info1 = x.place ∧ y.lanes = 0) ∧
    (s.copyDrop tile x = none →
    (∀ r u h, s.copyRows tile x 0 0 x.rows = (r, .ok u h) →
      ∃ t, exec (.copyEngineCommand tile) s = .next t ∧ t.mem = u.mem ∧ t.host = u.host ∧
        DueEv t (.engineFlipBack tile false) ∧ ∀ y ∈ (t.tile tile).copies, y.id = x.id → y.ran = true ∧ y.hor = h) ∧
    (∀ y, T.team x.team = some y → y.id = x.team → x.rows = 1 → x.rowb ≠ 0 → x.kind = 4 →
      ∃ t z, exec (.copyEngineCommand tile) s = .next t ∧ t.mem = s.mem ∧ (t.tile tile).team x.team = some z ∧
        z.spBytes x.loff x.rowb = fillBytes x.pat x.rowb ∧
        ∀ a, a < x.loff ∨ x.loff + x.rowb ≤ a → z.spGet a = y.spGet a) ∧
    (∀ y pa dev, T.team x.team = some y → y.id = x.team → x.rows = 1 → x.rowb ≠ 0 → x.far % 128 + x.rowb ≤ 128 → x.far < 2 ^ 56 →
      regionOf pa = .plinth →
      (x.kind = 0 → s.engPhys tile x.team x.held .engRead (T.group x.slot).priv x.far = some (pa, dev) →
        s.poisoned pa x.rowb = false →
        ∃ t z, exec (.copyEngineCommand tile) s = .next t ∧ t.mem = s.mem ∧ (t.tile tile).team x.team = some z ∧
          z.spBytes x.loff x.rowb = Memory.bytes s.mem pa x.rowb) ∧
      (x.kind = 1 → s.engPhys tile x.team x.held .engWrite (T.group x.slot).priv x.far = some (pa, dev) →
        T.spBad x.team x.loff x.rowb = none →
        ∃ t, exec (.copyEngineCommand tile) s = .next t ∧ Memory.bytes t.mem pa x.rowb = y.spBytes x.loff x.rowb ∧
          ∀ a, a < pa ∨ pa + x.rowb ≤ a → Memory.get t.mem a = Memory.get s.mem a))))

/-- Units come back from the engines: one hand-over less, and with the last the unit is the threads' again with its phase
toggled, as a WAITO sees from the next tile cycle on. -/
def UnitsReturn : Prop :=
  (∀ (tile : Nat) (s : State) (x : CopyCmd) (y : Team), let T := s.tile tile
    T.copies.filter (·.ran) = [x] → s.passed tile x.hor = true → s.remoteAway tile { x with rtile := s.homeOf x } = false →
    T.team x.team = some y → y.id = x.team → x.runits = [] → x.lunits.Nodup →
    ∃ t z, exec (.engineFlipBack tile false) s = .next t ∧ t.mem = s.mem ∧ (t.tile tile).team x.team = some z ∧
      (t.tile tile).copies = T.copies.filter (fun c => c.id != x.id) ∧ z.sp = y.sp ∧ ∀ j ∈ x.lunits,
        ((y.slab j).pend ≤ 1 → (z.slab j).own = false ∧ (z.slab j).phase = !(y.slab j).phase ∧ (z.slab j).pend = 0 ∧
          (z.slab j).backAt = s.cycle tile + 1) ∧
        (1 < (y.slab j).pend → (z.slab j).own = (y.slab j).own ∧ (z.slab j).pend = (y.slab j).pend - 1)) ∧
  (∀ (tile : Nat) (s : State) (c : ArrCmd) (u : Units) (y : Team), let T := s.tile tile
    T.arr.q.find? (·.ran) = some c → c.units = [u] → T.team u.team = some y → y.id = u.team → u.slabs.Nodup →
    u.regions.Nodup →
    ∃ t z, exec (.engineFlipBack tile true) s = .next t ∧ t.mem = s.mem ∧ (t.tile tile).team u.team = some z ∧
      (t.tile tile).arr.q = T.arr.q.filter (fun d => d.id != c.id) ∧ (∀ j ∈ u.slabs, (y.slab j).pend ≤ 1 →
        (z.slab j).own = false ∧ (z.slab j).phase = (!(y.slab j).phase) ∧ (z.slab j).backAt = s.cycle tile + 1) ∧
      ∀ j ∈ u.regions, (y.region j).pend ≤ 1 → (z.region j).own = false ∧ (z.region j).phase = (!(y.region j).phase) ∧
        (z.region j).backAt = s.cycle tile + 1)

/-- The array runs its next command: an LDS from the scratchpad fills the shadow plane, SWP exchanges the planes, an MMA of
one row puts each sum into its accumulator cell. -/
def ArrayRuns : Prop :=
  ∀ (tile : Nat) (s : State) (c : ArrCmd), let T := s.tile tile
    T.arr.head = some c → T.arrReady c = true →
    (∀ off tweak key fmt sp x, c.op = .ldsS off tweak key fmt sp → c.key = none → T.team c.team = some x →
      T.spBad c.team off (imgSize fmt sp) = none →
      ∃ t, exec (.arrayLdsRun tile) s = .next t ∧ t.mem = s.mem ∧ (t.tile tile).arr.act = T.arr.act ∧
        (t.tile tile).arr.plane (1 - T.arr.act) =
          { image := x.spBytes off (imgSize fmt sp), st := { fmt := fmt, sparse := sp, inuse := true }, dirty := true } ∧
        DueEv t (.engineFlipBack tile true)) ∧
    (c.op = .swp →
      ∃ t, exec (.arraySwpRun tile) s = .next t ∧ t.mem = s.mem ∧ (t.tile tile).arr.act = 1 - T.arr.act ∧
        (t.tile tile).arr.p0 = T.arr.p0 ∧ (t.tile tile).arr.p1 = T.arr.p1 ∧ DueEv t (.engineFlipBack tile true) ∧
        ∀ d ∈ (t.tile tile).arr.q, d.id = c.id → d.ran = true) ∧
    (∀ row off stride af sp z x, let p := T.arr.plane T.arr.act
      c.op = .mma row off stride 1 af sp z → T.badWords = [] → T.team c.team = some x → x.id = c.team →
      ∃ t y, exec (.arrayMmaRun tile) s = .next t ∧ t.mem = s.mem ∧ (t.tile tile).team c.team = some y ∧
        DueEv t (.engineFlipBack tile true) ∧ (∀ n < mfN p.st.fmt, y.cell p.st.fmt row n =
          matrixSum p.st.fmt af p.st.sparse (if z then 0 else x.cell p.st.fmt row n)
            (actRow af sp (x.spBytes off (rowImage af sp))) (column p.st.fmt p.st.sparse p.image n) %
              2 ^ (if p.st.fmt = .f64 then 64 else 32)) ∧
        ∀ r n, r ≠ row → n < 64 → y.accGet r n = x.accGet r n)

/-- A complete gang enters the queue as one unit; one that is still incomplete when the tile cycle in which its 100 µs ran out is
over fails with GANG, but for the time after a slice boundary; planes whose holder has ended are zeroed. -/
def Gangs : Prop :=
  (∀ (tile team seq : Nat) (s : State) (es : List LatchEntry), let a := (s.tile tile).arr
    (a.latch.filter fun e => e.team == team && e.seq == seq).findSome? (fun e => a.gathered team seq e) = some es →
    a.q.length + (gangCmds es).length ≤ 8 →
    ∃ t, exec (.gangRendezvous tile team seq) s = .next t ∧ t.mem = s.mem ∧
      (t.tile tile).arr.q = a.q ++ gangCmds es ∧ (t.tile tile).arr.latch = a.latch.filter (fun f => !es.contains f) ∧
      ((es.map (·.slot)).Nodup → ∀ e ∈ es,
        ((t.tile tile).group e.slot).gseq = ((s.tile tile).group e.slot).gseq + 1)) ∧
  (∀ (s : State) (e : LatchEntry), let a := s.T.arr
    a.latch = [e] → a.gathered e.team e.seq e = none → s.T.ctl.timersOff = none →
    e.time + gangLimit + (stepUnits (s.field (fieldOf s.cur.tile)).step / 2100 + 1) ≤ s.tileTime s.cur.tile →
    ∃ t y, exec .gangTimeout s = .next t ∧ t.mem = s.mem ∧ (t.tile s.cur.tile).arr.latch = [] ∧
      ((t.tile s.cur.tile).group e.slot).lastTrap = some y ∧ y.cls = .gang ∧ y.cause = 1 ∧ y.info1 = e.seq ∧
      y.lanes = e.lanes) ∧
  (∀ s : State, let a := s.T.arr
    a.releasing = true → (∀ c ∈ a.q, some c.team ≠ a.holder) →
    ∃ t, exec .planeRelease s = .next t ∧ t.mem = s.mem ∧ let b := (t.tile s.cur.tile).arr
      b.p0 = {} ∧ b.p1 = {} ∧ b.holder = none ∧ b.releasing = false ∧ b.q = a.q)

/-- An uncorrectable error stops an engine's command: it leaves the queue with its units kept, and its record stops no
lane. -/
def EngineErrors : Prop :=
  ∀ (tile src info : Nat) (s : State), let T := s.tile tile
    (∀ x, T.copies.find? (fun x => !x.ran) = some x →
      ∃ t y, exec (.engineEccError tile false src info) s = .next t ∧ t.mem = s.mem ∧
        (t.tile tile).copies = T.copies.filter (fun y => y.id != x.id) ∧ (t.tile tile).ctl.teams = T.ctl.teams ∧
        ((t.tile tile).group x.slot).lastTrap = some y ∧ y.cls = .ecc ∧ y.cause = (if src < 4 then 4 else 3) ∧
        y.info1 = info ∧ y.pc = x.pc ∧ y.lanes = 0) ∧
    (∀ c, T.arr.head = some c →
      ∃ t y, exec (.engineEccError tile true src info) s = .next t ∧ t.mem = s.mem ∧
        (t.tile tile).arr.q = T.arr.q.filter (·.ran) ∧ ((t.tile tile).group c.slot).lastTrap = some y ∧ y.cls = .ecc ∧
        y.cause = (if src < 4 then 4 else 3) ∧ y.info1 = info ∧ y.pc = c.pc ∧ y.lanes = 0)

end Sys2Proof.Claims

/-- R256, R123, R264, R269 to R273, R377: the copy engine, the array, gangs and errors of the engines. -/
def Obligations.EngineSteps : Prop := CopyEngine ∧ UnitsReturn ∧ ArrayRuns ∧ Gangs ∧ EngineErrors

/-! ## Clocks, sensors, time -/

namespace Sys2Proof.Claims

/-- An internal step is due at a place. -/
def DueAt (t : State) (place : Nat) (i : Instr) : Prop := ({ tile := place, slot := 0, ev := i } : Due) ∈ t.due

/-- A field has changed its clock step: its issue is halted, its tile cycles go on from the count they had, and nothing but
the field and Keystone's counts differs. -/
def Stepped (s t : State) (f step : Nat) : Prop :=
  (t.field f).step = step ∧ (t.field f).halted = true ∧ (t.field f).haltAt = s.wtime ∧ (t.field f).pendStep = none ∧
  (t.field f).cycBase = s.fcycle f ∧ (t.field f).cycAt = s.now ∧ (t.field f).lastStep = some s.wtime ∧ DueAt t f .clockHaltResume ∧
  t = { s with fields := t.fields, ks := t.ks, due := t.due }

/-- A field has changed its step inside the last millisecond. -/
abbrev Early (s : State) (f : Nat) : Prop := ∃ a, (s.field f).lastStep = some a ∧ s.wtime < a + 1000000

/-- 100 °C lowers the clock by one step, 50 ms below 90 °C raise it by one, at most one change in a millisecond but for one
demanded at 110 °C; a change that waits is made later; a field with fewer than two sensors in use takes step 2, whatever is
asked; issue resumes after the change. -/
def ClockSteps : Prop :=
  (∀ (f : Nat) (temps : List Int) (s : State), let F := s.field f
    f < 84 → F.step < 2 → (∃ x ∈ F.readings temps, 100 ≤ x) →
    ((¬ Early s f ∨ ∃ x ∈ F.readings temps, 110 ≤ x) →
      ∃ t, exec (.clockStepDown f temps) s = .next t ∧ Stepped s t f (if 2 < F.badSensors.length then 2 else F.step + 1)) ∧
    (Early s f → (∀ x ∈ F.readings temps, x < 110) →
      ∃ t, exec (.clockStepDown f temps) s = .next t ∧ (t.field f).pendStep = some (F.step + 1) ∧
        (t.field f).step = F.step ∧ DueAt t f .clockStepDeferred ∧ t = { s with fields := t.fields, due := t.due })) ∧
  (∀ (f : Nat) (temps : List Int) (s : State), let F := s.field f
    f < 84 → (∀ x ∈ F.readings temps, x < 90) →
    (F.coolSince = none → ∃ t, exec (.clockStepUp f temps) s = .next t ∧ (t.field f).coolSince = some s.wtime ∧
      (t.field f).step = F.step) ∧
    (∀ a, F.coolSince = some a → a + 50000000 ≤ s.wtime → F.step ≠ 0 → F.badSensors.length ≤ 2 → ¬ Early s f →
      ∃ t, exec (.clockStepUp f temps) s = .next t ∧ Stepped s t f (F.step - 1))) ∧
  (∀ (s : State) (n : Nat), let f := s.cur.tile
    (s.field f).pendStep = some n → ¬ Early s f → ∃ t, exec .clockStepDeferred s = .next t ∧
      Stepped s t f (if 2 < (s.field f).badSensors.length then 2 else n)) ∧
  (∀ s : State, (s.field s.cur.tile).halted = true → ∃ t, exec .clockHaltResume s = .next t ∧
    t = { s with fields := t.fields } ∧ (t.field s.cur.tile) = { s.field s.cur.tile with halted := false })

/-- The module has stopped: the cause, the field and the time are in flash, every host link reports through AER, and memory,
tiles and partitions are as they were. -/
def Halted (s t : State) (cause f : Nat) : Prop :=
  t.mode = .fatal cause f ∧ t.ks.fatalRec = some (cause, f, s.wtime) ∧ t.ks.counts = [] ∧
  (∀ h < 4, (t.link h).aer = true) ∧ t = { s with mode := t.mode, ks := t.ks, links := t.links }

/-- 115 °C in a field at step 2, and the module's own fatal errors, stop the module. A sensor that differs from the median of
the others by more than 15 °C for 10 ms is ignored; with fewer than two left its field goes to step 2, as soon as a change is
allowed. -/
def Sensors : Prop :=
  (∀ (f : Nat) (temps : List Int) (s : State), (s.field f).step = 2 → (∃ x ∈ (s.field f).readings temps, 115 ≤ x) →
    s.mode = .running → ∃ t, exec (.thermalStop f temps) s = .next t ∧ Halted s t 2 f) ∧
  (∀ (c f : Nat) (s : State), 1 ≤ c → c ≤ 3 → s.mode = .running →
    ∃ t, exec (.moduleFatal c f) s = .next t ∧ Halted s t c f) ∧
  (∀ (f i : Nat) (a b c d : Int) (since : Nat) (s : State), let F := s.field f
    let temps := [a, b, c, d]
    let others := ((List.range 4).filter (· != i)).filterMap fun j => temps[j]?
    f < 84 → i < 4 → i ∉ F.badSensors →
    ((temps.getD i 0 - median others).natAbs ≤ 15 →
      ∃ t, exec (.sensorDisagree f i temps) s = .next t ∧ (t.field f).badSensors = F.badSensors ∧
        amGet (t.field f).offSince i = none) ∧
    (15 < (temps.getD i 0 - median others).natAbs → amGet F.offSince i = some since → since + 10000000 ≤ s.wtime →
      ∃ t, exec (.sensorDisagree f i temps) s = .next t ∧ (t.field f).badSensors = F.badSensors ++ [i] ∧
        (2 ≤ F.badSensors.length → (F.step = 2 ∨ ¬ Early s f) → (t.field f).step = 2) ∧
        (2 ≤ F.badSensors.length → F.step ≠ 2 → Early s f → (t.field f).step = F.step ∧ (t.field f).pendStep = some 2 ∧
          DueAt t f .clockStepDeferred) ∧
        (F.badSensors.length < 2 → (t.field f).step = F.step)))

/-- A beacon classes its field's skew: up to 2 ns normal, up to 64 ns skew hold with the L1s of its tiles empty, beyond it a
stop. A field without a beacon for 100 µs stops; one whose counters disagree halts until the next beacon. -/
def Beacons : Prop :=
  (∀ (f : Nat) (skew : Int) (s : State), let F := s.field f
    f < 84 →
    (skew.natAbs ≤ (if F.hold then 1 else 2) → ∃ t, exec (.timeBeacon f skew) s = .next t ∧
      t = { s with fields := t.fields } ∧
      t.field f = { F with skew := skew, hold := false, beacon := s.wtime, wtHalt := false }) ∧
    (2 < skew.natAbs → skew.natAbs ≤ 64 → F.hold = false → ∃ t, exec (.timeBeacon f skew) s = .next t ∧
      t.field f = { F with skew := skew, hold := true, beacon := s.wtime, wtHalt := false } ∧ t.mem = s.mem ∧
      ∀ x, fieldOf x = f → (t.tile x).l1 = []) ∧
    (64 < skew.natAbs → ∃ t, exec (.timeBeacon f skew) s = .next t ∧ (t.field f).stopped = true ∧
      (t.field f).skew = skew)) ∧
  (∀ s : State, let f := s.cur.tile
    f < 84 → (s.field f).beacon + 100000 ≤ s.wtime →
    ∃ t, exec .timeBeaconMissing s = .next t ∧ (t.field f).stopped = true ∧ ((s.field f).stopped = false →
      (t.field f).retired = true ∧ ∀ g ∈ s.fieldParts f, ∀ P, s.part g = some P → ∃ Q, t.part g = some Q ∧
        Q.heldStop = true ∧ Q.resetDue = true ∧ DueEv t (.partitionReset g))) ∧
  (∀ s : State, let f := s.cur.tile
    f < 84 → ∃ t, exec .wtimeCounterMismatch s = .next t ∧ (t.field f).wtHalt = true ∧
      (t.field f).lastMis = some s.wtime ∧ t = { s with fields := t.fields, ks := t.ks, due := t.due } ∧
      ∀ a, (s.field f).lastMis = some a → s.wtime ≤ a + 1000000000 → DueEv t (.repair (.spine f)))

/-- An accuracy tick charges the lines that have become stale, then compares A with its thresholds for every partition of every
slice. An error in a shared structure stops
and resets every partition of its blast set, is logged, and asks for a repair. -/
def Shared : Prop :=
  (∀ s : State, s.ks.accAt < s.wtime / 4096 →
    ∃ t, exec .accuracyTick s = .next t ∧ t.ks.accAt = s.ks.accAt + 1 ∧ t.mem = s.mem ∧ ∀ k S0, amGet s.slices k = some S0 →
      let S := S0.settleStale (4096 * (s.ks.accAt + 1))
      ∃ S', amGet t.slices k = some S' ∧ S'.lines = S.lines ∧ S'.acc = S.acc ∧ ∀ g ∈ S.acc.map (·.1) ++ S.disc.map (·.1),
        (amGet S'.disc g).getD 0 = (if S.accOf g < 128 then min 7 ((amGet S.disc g).getD 0 + 1)
          else if 192 ≤ S.accOf g then (amGet S.disc g).getD 0 - 1 else (amGet S.disc g).getD 0)) ∧
  (∀ (st : SharedStruct) (f u : Nat) (s : State), f < 84 →
    ∃ t, exec (.sharedStructureError st f u) s = .next t ∧
      t.ks.blasts.head? = some { seq := s.ks.blastSeq, wtime := s.wtime, st := st, field := f, unit := u, blast := s.blastSet st f u } ∧
      t.ks.blastSeq = s.ks.blastSeq + 1 ∧ (st = .sliceTags ∨ st = .sliceAlu → (t.slice f u).lines = []) ∧
      DueEv t (.repair (match st with
        | .sliceTags | .sliceAlu => .slice f
        | .walker => .walker f
        | .memRouter => .memStop f
        | .spine | .bitmap => .spine f)) ∧ ∀ g ∈ s.blastSet st f u, ∀ P, s.part g = some P → ∃ Q, t.part g = some Q ∧
        Q.heldStop = true ∧ Q.resetDue = true ∧ DueEv t (.partitionReset g))

/-- The energy of a millisecond is divided in proportion to the counts, the rest is unattributed; the working counts fold into
flash every hour (but for the monitors' classes 7 and 8, whose readings are free, and the residency of class 3, which this hour
adds to); a scrub pass changes nothing that a program can see. -/
def Records : Prop :=
  (∀ (l : List (Nat × Nat)) (e : Nat) (s : State), (l.map (·.1)).Nodup → (l.map (·.2)).sum ≠ 0 →
    ∃ t, exec (.energyAttribution l e) s = .next t ∧ t = { s with ks := t.ks } ∧ ∀ x ∈ l, x.1 < 64 →
      ((amGet t.ks.owners x.1).getD {}).energy =
        ((amGet s.ks.owners x.1).getD {}).energy + e * x.2 / (l.map (·.2)).sum) ∧
  (∀ s : State, s.ks.foldAt + 3600000000000 ≤ s.wtime → (s.ks.counts.map (·.1)).Nodup →
    (∀ x ∈ s.fields, x.1 < 84 ∧ x.2.step < 3) →
    ∃ t, exec .lifetimeFold s = .next t ∧ t.ks.counts = [] ∧ t.ks.foldAt = s.wtime ∧
      t = { s with ks := t.ks, fields := t.fields, free := t.free } ∧ ∀ k n, amGet s.ks.counts k = some n →
        k / 2 ^ 20 ≠ 3 → k / 2 ^ 20 ≠ 7 → k / 2 ^ 20 ≠ 8 →
        amGet t.ks.flash k = some (min (2 ^ 32 - 1) ((amGet s.ks.flash k).getD 0 + n))) ∧
  (∀ s : State, s.ks.scrubAt + 28800000000000 ≤ s.wtime →
    ∃ t, exec .scrubPass s = .next t ∧ t.ks.scrubAt = s.wtime ∧ t = { s with ks := t.ks })

/-- Reset and loss of power: nothing of partitions, queues, memory and time is left; the good-tile map, flash and what repair
has mapped out stay. A reset folds the counts first and takes the next signature leaf. -/
def Resets : Prop :=
  (∀ s : State, ∃ t, exec .powerLoss s = .next t ∧ t.mem = [] ∧ t.parts = [] ∧ t.queues = [] ∧ t.reqs = [] ∧ t.wtime = 0 ∧
    t.mode = .running ∧ t.host = s.host ∧ t.ks.bad = s.ks.bad ∧ t.ks.flash = s.ks.flash ∧ t.ks.repairs = s.ks.repairs ∧
    t.ks.leaf = s.ks.leaf ∧ t.ks.alias_ = none ∧ t.ks.counts = []) ∧
  (∀ s : State, ∃ t, exec .moduleReset s = .next t ∧ t.mem = [] ∧ t.parts = [] ∧ t.queues = [] ∧ t.reqs = [] ∧ t.wtime = 0 ∧
    t.mode = .running ∧ t.host = s.host ∧ t.ks.bad = s.ks.bad ∧ t.ks.flash = (s.ks.fold s.wtime).flash ∧
    t.ks.repairs = s.ks.repairs ∧ t.ks.counts = [] ∧
    (s.ks.leaf < 1048576 → t.ks.leaf = s.ks.leaf + 1 ∧ t.ks.alias_ = some s.ks.leaf) ∧
    (1048576 ≤ s.ks.leaf → t.ks.leaf = s.ks.leaf ∧ t.ks.alias_ = none))

end Sys2Proof.Claims

/-- R299, R427, R434, R21, R22: records, resets and loss of power. -/
def Obligations.RecordsAndReset : Prop := Records ∧ Resets

/-- R18 to R20, R432, R433, R378, R379, R105, R393 to R395: clock steps, sensors and the stop of the module, beacons, accuracy
ticks and errors in shared structures. -/
def Obligations.ClockTimeSensors : Prop := ClockSteps ∧ Sensors ∧ Beacons ∧ Shared

/-! ## Keystone: partitions, owners, queues, links -/

namespace Sys2Proof.Claims

/-- Keystone's answer to a management request stands first among the answers. -/
def Answers (t : State) (i : Instr) (r : Nat) : Prop := t.ks.results.head? = some (i, r)

/-- A request that Keystone refuses changes nothing but the answers. -/
def Refused (s t : State) (i : Instr) (r : Nat) : Prop := Answers t i r ∧ t = { s with ks := t.ks }

/-- A cut is refused with its reason and changes nothing, or makes the partition, tags its tiles in generation 0 and answers with
tag and generation; settings that pass their check wait for their moments, each request on its own. -/
def CutsSettings : Prop :=
  (∀ (x : CutReq) (s : State), let y := fillPlaces x
    s.tagFree y.tag = true →
    let fault := s.slotBoundary.cutFault y
    (fault ≠ 0 → ∃ t, exec (.partitionCut x) s = .next t ∧ Refused s t (.partitionCut x) fault) ∧
    (fault = 0 → ∃ t P, exec (.partitionCut x) s = .next t ∧ Answers t (.partitionCut x) 0 ∧
      t.ks.answers.head? = some { kind := 30, data := [y.tag, 0], sig := 0 } ∧
      t.part y.tag = some P ∧ P.gen = 0 ∧ P.lw = y.lw ∧ P.lh = y.lh ∧ P.grains = y.grains ∧ P.owners = y.owners ∧
      P.goff = y.goff ∧ P.ctxs.length = y.contexts.length ∧
      ∀ u ∈ y.tiles, (t.tile u).tag = y.tag ∧ (t.tile u).gen = 0 ∧ (t.tile u).l1 = [] ∧ (t.tile u).tlb1 = [])) ∧
  (∀ (tag : Nat) (x : SettingsReq) (s : State) (P : Part), s.part tag = some P →
    (s.slotBoundary.settingsOk tag P.ctxs.length x = false →
      ∃ t, exec (.partitionSet tag x) s = .next t ∧ Refused s t (.partitionSet tag x) 8) ∧
    (s.slotBoundary.settingsOk tag P.ctxs.length x = true → x.strict = none → x.slots = none → noSettings x = false →
      ∃ t Q, exec (.partitionSet tag x) s = .next t ∧ t.part tag = some Q ∧
        Q.pendSet = P.pendSet ++ [{ req := some x, left := x }] ∧ Q.sched = P.sched ∧ DueAt t tag .sliceBoundary ∧
        t = { s with parts := t.parts, due := t.due }))

/-- A partition reset whose tiles have drained: the next generation, every launch gone and the numbers of launches afresh, no
queue left. -/
def PartResets : Prop :=
  ∀ (tag : Nat) (s : State) (P : Part), s.part tag = some P → P.op = none → (∀ a, P.lastReset = some a → a + 1000000 ≤ s.wtime) →
    (∀ x ∈ s.tilesOf tag, s.drained x = true ∨ (s.tile x).quiesce = .leases) → (s.tiles.map (·.1)).Nodup →
    ∃ t Q, exec (.partitionReset tag) s = .next t ∧ Answers t (.partitionReset tag) 0 ∧ t.part tag = some Q ∧
      Q.gen = (P.gen + 1) % 16 ∧ Q.op = none ∧ Q.lastReset = some s.wtime ∧ Q.heldStop = false ∧
      (∀ c ∈ Q.ctxs, c.2.launches = [] ∧ c.2.nextSeq = 0) ∧ (∀ q ∈ t.queues, q.2.cfg.tag ≠ tag) ∧ ∀ x ∈ s.tilesOf tag,
        (t.tile x).tag = tag ∧ (t.tile x).gen = ((s.tile x).gen + 1) % 16 ∧ (t.tile x).l1 = []

/-- Pause stops guest time, resume sets it on: frozen where it stood, or moved by the time away. -/
def Pauses : Prop :=
  (∀ (tag : Nat) (s : State) (P : Part), s.part tag = some P → P.paused = none →
    ∃ t Q, exec (.partitionPause tag) s = .next t ∧ t.part tag = some Q ∧
      Q.paused = some (s.wtime, (s.wtime : Int) + P.goff) ∧ t.mem = s.mem) ∧
  (∀ (tag d : Nat) (wall : Bool) (s : State) (P : Part) (w0 : Nat) (g0 : Int), s.part tag = some P →
    P.paused = some (w0, g0) → P.mig = none → w0 ≤ s.wtime →
    ∃ t Q, exec (.partitionResume tag wall d) s = .next t ∧ t.part tag = some Q ∧ Q.paused = none ∧
      Q.goff = g0 + (if wall then ((s.wtime - w0 : Nat) : Int) else 0) - s.wtime)

/-- The first answer that Keystone has sent is one to a peer's access. -/
def PeerAnswers (x : PeerAccess) (t : State) (k : Nat) (l : List Nat) : Prop :=
  t.ks.answers.head? = some { kind := k, data := x.module :: x.tag :: x.offset :: l, sig := 0 }

/-- Peer windows: a mapping in range is entered; an access of a peer reads or writes the partition's memory, or is refused
outside its window, forwarded within 10 ms of a migration, and answered as moved from then on. -/
def Peers : Prop :=
  (∀ (tag w m rtag base size : Nat) (wr : Bool) (s : State) (P : Part), let me : Instr := .peerWindowMap tag w m rtag base size wr
    s.part tag = some P →
    ((w < 16 ∧ size ≠ 0 ∧ size ≤ 2 ^ 31 ∧ size % 2 ^ 21 = 0 ∧ base % 2 ^ 21 = 0) →
      ∃ t Q, exec me s = .next t ∧ Answers t me 0 ∧ t.part tag = some Q ∧
        Q.peers = P.peers.filter (·.w != w) ++ [{ w := w, module := m, tag := rtag, base := base, size := size, write := wr }]) ∧
    ((16 ≤ w ∨ size = 0 ∨ 2 ^ 31 < size ∨ size % 2 ^ 21 ≠ 0 ∨ base % 2 ^ 21 ≠ 0) →
      ∃ t, exec me s = .next t ∧ Refused s t me 8)) ∧
  (∀ (x : PeerAccess) (s : State), let ans := PeerAnswers x
    (∀ f, s.ks.forwards.find? (fun f => f.1 == x.tag) = some f → ∃ t, exec (.peerAccessRemote x) s = .next t ∧
      ans t (if s.wtime < f.2.1 then 22 else 23) (if s.wtime < f.2.1 then [f.2.2] else [2, f.2.2]) ∧ t = { s with ks := t.ks }) ∧
    (∀ P, s.ks.forwards.find? (fun f => f.1 == x.tag) = none → s.part x.tag = some P →
      (x.size < x.offset + x.data.length → ∃ t, exec (.peerAccessRemote x) s = .next t ∧ ans t 21 [1] ∧ t = { s with ks := t.ks }) ∧
      (∀ e, x.offset + x.data.length ≤ x.size → x.base + x.size ≤ P.grains.length * 2 ^ 28 → x.data ≠ [] →
        s.stage2 x.tag (x.base + x.offset) = some e → regionOf e.pa = .plinth → e.aonly = false →
        (x.write = false → s.poisoned e.pa x.data.length = false → ∃ t, exec (.peerAccessRemote x) s = .next t ∧
          ans t 20 ((Memory.bytes s.mem e.pa x.data.length).map (·.toNat)) ∧ t.mem = s.mem) ∧
        (x.write = true → ∃ t, exec (.peerAccessRemote x) s = .next t ∧
          Memory.bytes t.mem e.pa x.data.length = x.data ∧
          ∀ a, a < e.pa ∨ e.pa + x.data.length ≤ a → Memory.get t.mem a = Memory.get s.mem a)))) ∧
  (∀ s : State, ∃ t, exec .peerForwardExpire s = .next t ∧ t = { s with ks := t.ks } ∧ ∀ f ∈ t.ks.forwards,
    f.1 = s.cur.tile → s.wtime < f.2.1 ∨ f.2.1 = 0)

/-- Weights and releases of owners, privileged parts of queues. -/
def OwnersQueues : Prop :=
  (∀ (o w : Nat) (s : State), let own (u : State) : Owner := (amGet u.ks.owners o).getD {}
    (o < 64 → w ≠ 0 → w ≤ 255 → ∃ t, exec (.ownerWeightSet o w) s = .next t ∧ Answers t (.ownerWeightSet o w) 0 ∧
      own t = { own s with weight := w } ∧ t = { s with ks := t.ks }) ∧
    (64 ≤ o ∨ w = 0 ∨ 255 < w → ∃ t, exec (.ownerWeightSet o w) s = .next t ∧ Refused s t (.ownerWeightSet o w) 8) ∧
    (o < 64 → ∃ t, exec (.ownerRelease o) s = .next t ∧ Answers t (.ownerRelease o) 0 ∧
      own t = { own s with epoch := ((own s).epoch + 1) % 2 ^ 32 } ∧ t = { s with ks := t.ks })) ∧
  (∀ (ifn : Nat) (x : QueueCfg) (s : State), let me : Instr := .queuePrivilegedWrite ifn x
    (s.queueCfgOk ifn x = true → s.queue ifn = none → ∃ t q, exec me s = .next t ∧ Answers t me 0 ∧ t.queue ifn = some q ∧
      q.cfg = x ∧ q.state = .unlocked ∧ q.widx = 0 ∧ q.ridx = 0 ∧ t = { s with queues := t.queues, ks := t.ks }) ∧
    (s.queueCfgOk ifn x = false → s.queue ifn = none → ∃ t, exec me s = .next t ∧ Refused s t me 8) ∧
    (∀ q, s.queue ifn = some q →
      (q.state = .unlocked → s.queueCfgOk ifn x = true → ∃ t, exec me s = .next t ∧ Answers t me 0 ∧
        t.queue ifn = some { q with cfg := x }) ∧
      ((q.state = .locked ∨ q.state = .run) → ∃ t, exec me s = .next t ∧ DueEv t (.lockedItemWrite ifn 0xFFFFFFFF 0) ∧
        t.queue ifn = some q)))

/-- A host link sends a flit that ends in its slot: Keystone's first, then the slot's own partition's, of one tag in the order of
arrival; one that would not end in it waits. The slot table takes what waits once its boundary has passed, and the entries of
freed tags open then. -/
def Slots : Prop :=
  (∀ (h n : Nat) (waiting : List Nat) (s : State), h < 4 → s.ks.slotAt = none →
    let own := (amGet s.ks.slots (s.wtime / 64 % 64)).getD 0
    let l : List LinkFlit := s.flitsAt h ++ waiting.map fun g => { tag := g, owner := 0, req := 0 }
    (s.wtime % 64 + n ≤ 64 → (∃ f ∈ l, f.tag = 0) → ∃ t, exec (.linkFlitSend h waiting n) s = .next t ∧
      amGet t.ks.sent h = some 0 ∧ t.flitsAt h = l.eraseP (fun f => f.tag == 0) ∧ t = { s with ks := t.ks, due := t.due }) ∧
    (s.wtime % 64 + n ≤ 64 → (∀ f ∈ l, f.tag ≠ 0) → own ≠ 0 → (∃ f ∈ l, f.tag = own) →
      ∃ t, exec (.linkFlitSend h waiting n) s = .next t ∧ amGet t.ks.sent h = some own ∧ t.ks.rr = s.ks.rr ∧
        t.flitsAt h = l.eraseP (fun f => f.tag == own) ∧ t = { s with ks := t.ks, due := t.due }) ∧
    (64 < s.wtime % 64 + n → ∃ t, exec (.linkFlitSend h waiting n) s = .next t ∧ t.ks.sent = s.ks.sent ∧ t.flitsAt h = l ∧
      t = { s with ks := t.ks, due := t.due } ∧ (l ≠ [] → DueEv t (.linkFlitSend h [] n)))) ∧
  (∀ (s : State) (b tag : Nat) (P : Part) (l : List Nat) (x : PendSet), s.ks.slotAt = some b → b ≤ s.wtime →
    s.parts = [(tag, P)] → P.pendSet = [x] → x.left.slots = some l →
    ∃ t Q, exec .slotTableBoundary s = .next t ∧ t.ks.slotAt = none ∧ t.part tag = some Q ∧
      Q.strict = x.left.strict.getD P.strict ∧ (∀ i ∈ l, amGet t.ks.slots i = some tag) ∧
      (∀ e ∈ t.ks.slots, e.2 ∈ s.ks.slotDrop → e.2 = tag) ∧ t = { s with ks := t.ks, parts := t.parts })

end Sys2Proof.Claims

/-- R284, R286, R309, R335: cuts, settings, resets and pauses of partitions. -/
def Obligations.PartitionSteps : Prop := CutsSettings ∧ PartResets ∧ Pauses

/-- R334, R425, R296, R297, R300, R313, R316, R302, R304, R401: peer windows, owners, queues and slots of the links. -/
def Obligations.KeystoneSteps : Prop := Peers ∧ OwnersQueues ∧ Slots

/-! ## Reshaping, repair, migration -/

namespace Sys2Proof.Claims

/-- An operation of a partition has reached its turn with its tiles at rest: those that leave are saved and their leases have
passed, every other one is paused or saved. -/
abbrev AtRest (s : State) (tag : Nat) (me : Instr) (P : Part) (out : List Nat) : Prop :=
  s.part tag = some P ∧ P.op = some me ∧ P.paused = none ∧ s.mateTiles tag out = [] ∧
  (∀ x ∈ out, (s.tile x).quiesce = .leases ∧ s.passed x (s.tile x).qHor = true) ∧
  ∀ x ∈ s.tilesOf tag, (s.tile x).quiesce = .leases ∨ (s.tile x).quiesce = .paused

/-- An operation stands first among those that wait for a partition, or none does. -/
abbrev First (P : Part) (me : Instr) : Prop := P.waitOps = [] ∨ P.waitOps.head? = some me

/-- Grow, shrink and compact begin where their checks pass, each behind those that came before it, and end in the shape asked for
once the tiles are at rest. -/
def Reshapes : Prop :=
  (∀ (tag : Nat) (tiles places : List Nat) (s : State) (P : Part), let me : Instr := .partitionGrow tag tiles places
    (s.part tag = some P → P.op = none → s.mayReshape tag me = true → First P me → tiles ≠ [] → tiles.Nodup → places.Nodup →
      (∀ x ∈ tiles, s.freeTile x = true) → places.length = tiles.length →
      (∀ p ∈ places, p < P.lw * P.lh ∧ amGet P.places p = none) → s.growFault (s.tilesOf tag) tiles = 0 →
      ∃ t Q, exec me s = .next t ∧ t.part tag = some Q ∧ Q.op = some me ∧ DueEv t me ∧ t.tiles = s.tiles) ∧
    (s.part tag = some P → s.mayReshape tag me = true → First P me → (∃ x ∈ tiles, s.freeTile x = false) →
      ∃ t, exec me s = .next t ∧ Answers t me 1 ∧ t.part tag = some { P with waitOps := P.waitOps.filter (· != me) } ∧
        t = { s with ks := t.ks, parts := t.parts }) ∧
    (∀ o, s.part tag = some P → P.op ≠ some me → P.waitOps.head? = some o → o ≠ me →
      ∃ t Q, exec me s = .next t ∧ t.part tag = some Q ∧ Q.op = P.op ∧ me ∈ Q.waitOps ∧ Q.waitOps.head? = some o ∧ DueEv t me ∧
        t = { s with parts := t.parts, due := t.due }) ∧
    (AtRest s tag me P [] → tiles.Nodup → places.Nodup → places.length = tiles.length → (∀ x ∈ tiles, s.goodTile x = true) →
      ∃ t Q, exec me s = .next t ∧ Answers t me 0 ∧ t.part tag = some Q ∧ Q.op = none ∧ (∀ x ∈ tiles, (t.tile x).tag = tag) ∧
        ∀ z ∈ places.zip tiles, amGet Q.places z.1 = some z.2)) ∧
  (∀ (tag : Nat) (tiles : List Nat) (s : State) (P : Part), let me : Instr := .partitionShrink tag tiles false
    AtRest s tag me P tiles → tiles.Nodup →
    ∃ t Q, exec me s = .next t ∧ Answers t me 0 ∧ t.part tag = some Q ∧ Q.op = none ∧ (∀ x ∈ tiles, (t.tile x).tag = 0) ∧
      ∀ z ∈ Q.places, z.2 ∉ tiles) ∧
  (∀ (tag old new : Nat) (s : State) (P : Part), let me : Instr := .partitionCompact tag [(old, new)]
    AtRest s tag me P [old] → old ≠ new →
    ∃ t Q, exec me s = .next t ∧ Answers t me 0 ∧ t.part tag = some Q ∧ Q.op = none ∧ (t.tile old).tag = 0 ∧
      (t.tile new).tag = tag ∧ ∀ p, amGet P.places p = some old → amGet Q.places p = some new)

/-- Lend and recall end with the tile in the other partition's place table; a recall after which the borrower would not hang
together is refused, another is told to the tile's agent; a recall past its bounds is forced; a forced recall
stops the tile, tags it for its lender, and gives it back once the lender's other tiles are paused. -/
def LendsRecalls : Prop :=
  (∀ (x b place : Nat) (s : State) (P B : Part), let me : Instr := .lendTile x b place false
    let tag := (s.tile x).tag
    AtRest s tag me P [x] → AtRest s b me B [] → tag ≠ b →
    ∃ t Q C, exec me s = .next t ∧ Answers t me 0 ∧ (t.tile x).tag = b ∧ (t.tile x).lender = some (tag, P.placeOf x) ∧
      t.part tag = some Q ∧ Q.op = none ∧ (∀ z ∈ Q.places, z.2 ≠ x) ∧ t.part b = some C ∧ C.op = none ∧
      amGet C.places place = some x) ∧
  (∀ (x l place : Nat) (s : State) (B L : Part), let me : Instr := .recallTile x false
    let T := s.tile x
    T.lender = some (l, place) → T.recallAt ≠ none → T.tag ≠ 0 → T.tag ≠ l → s.goodTile x = true → AtRest s T.tag me B [x] →
    AtRest s l me L [] →
    ∃ t Q C, exec me s = .next t ∧ Answers t me 0 ∧ (t.tile x).tag = l ∧ (t.tile x).lender = none ∧
      (t.tile x).recallAt = none ∧ t.part l = some Q ∧ amGet Q.places place = some x ∧ Q.op = none ∧
      t.part T.tag = some C ∧ (∀ z ∈ C.places, z.2 ≠ x) ∧ C.op = none) ∧
  (∀ (x l place : Nat) (s : State), let me : Instr := .recallTile x false
    let T := s.tile x
    let f := s.shapeFault ((s.tilesOf T.tag).filter (· != x))
    T.lender = some (l, place) → T.recallAt = none → T.tag ≠ 0 →
    (f ≠ 0 → ∃ t, exec me s = .next t ∧ Refused s t me f) ∧
    (f = 0 → s.growFault (s.tilesOf l) [x] = 0 → T.quiesce ≠ .retag → T.tag ≠ l → T.aevtFull = false →
      (∀ g ∈ [T.tag, l], ∀ P, s.part g = some P → P.op ≠ some me) →
      ∃ t e, exec me s = .next t ∧ (t.tile x).recallAt = some s.wtime ∧ (t.tile x).aevt = T.aevt ++ [e] ∧ e.kind = 4 ∧
        e.slot = T.act ∧ DueAt t x .recallStepOverrun ∧ DueEv t me)) ∧
  (∀ (s : State) (a : Nat), let T := s.tile s.cur.tile
    T.recallAt = some a →
    ((T.quiesce = .preempting ∧ a + 41000 ≤ s.wtime) ∨ (T.quiesce = .draining ∧ a + 70000 ≤ s.wtime) →
      ∃ t, exec .recallStepOverrun s = .next t ∧ DueAt t s.cur.tile .forcedRecall ∧ t = { s with due := t.due }) ∧
    (T.quiesce = .preempting ∧ s.wtime < a + 41000 →
      ∃ t, exec .recallStepOverrun s = .next t ∧ DueAt t s.cur.tile .recallStepOverrun ∧ t = { s with due := t.due })) ∧
  (∀ (s : State) (l place a : Nat), let x := s.cur.tile
    let T := s.tile x
    T.lender = some (l, place) → T.recallAt = some a →
    (T.quiesce ≠ .retag → T.tag ≠ l → T.tag ≠ 0 → (∀ g ∈ [T.tag, l], ∀ P, s.part g = some P → P.op = none) →
      ∃ t, exec .forcedRecall s = .next t ∧ (t.tile x).quiesce = .retag ∧ (t.tile x).l1 = [] ∧ (t.tile x).copies = [] ∧
        (∀ z ∈ (t.tile x).slots, z.2.ctl.groups = []) ∧ DueAt t x .forcedRecall) ∧
    (T.quiesce = .retag → (s.part l).isSome = true → s.goodTile x = true →
      ∃ t, exec .forcedRecall s = .next t ∧ (t.tile x).tag = l ∧ (t.tile x).lender = some (l, place) ∧
        DueAt t x .forcedRecall) ∧
    (∀ P, T.quiesce ≠ .retag → T.tag = l → s.part l = some P → P.paused = none → s.goodTile x = true → s.borrowerOf x = none →
      (∀ u ∈ s.tilesOf l, u ≠ x → (s.tile u).quiesce = .paused) →
      ∃ t Q, exec .forcedRecall s = .next t ∧ Answers t (.recallTile x false) 0 ∧ (t.tile x).tag = l ∧
        (t.tile x).lender = none ∧ t.part l = some Q ∧ Q.op = none ∧ amGet Q.places place = some x))

/-- Steps that overrun: a shrink is given up with places unchanged, a tile that a grow asked for and that does not answer
leaves the good-tile map. -/
def Overruns : Prop :=
  (∀ (tag x : Nat) (tiles : List Nat) (s : State) (P : Part), let me : Instr := .partitionShrink tag tiles false
    s.part tag = some P → P.op = some me → x ∈ tiles → s.overdue x P.preempt = true →
    ∃ t Q, exec (.quiesceStepOverrun .shrink tag x) s = .next t ∧ Answers t me 20 ∧ t.part tag = some Q ∧ Q.op = none ∧
      Q.places = P.places ∧ ¬ DueEv t me) ∧
  (∀ (tag x : Nat) (tiles places : List Nat) (s : State) (P : Part), s.part tag = some P →
    P.op = some (.partitionGrow tag tiles places) → x ∈ tiles → x ∉ s.ks.bad →
    ∃ t, exec (.quiesceStepOverrun .grow tag x) s = .next t ∧ (t.tile x).dead = true ∧ x ∈ t.ks.bad ∧ t.mem = s.mem)

/-- A free tile is retired at once, and the host is told what is left; repairs map a unit out where a spare is left; Keystone
writes a table again. -/
def Repairs : Prop :=
  (∀ (x n : Nat) (s : State), x < 8400 → (s.tile x).recallAt = none → s.part (s.tile x).tag = none → (s.tile x).dead = false →
    ∃ t, exec (.tileRetire x n) s = .next t ∧ x ∈ t.ks.bad ∧ (t.tile x).dead = true ∧ (t.tile x).lender = none ∧
      t.ks.repairs.head? = some (s.ks.lifeSeq, s.wtime, 4, x, 0xFFFFFFFF) ∧ t = { s with ks := t.ks, tiles := t.tiles } ∧
      (x ∉ s.ks.bad → ∃ a, t.ks.answers.head? = some a ∧ a.kind = 33 ∧ a.data = [t.goodCount, t.goodMap])) ∧
  (∀ (f g p x : Nat) (s : State),
    (∃ t, exec (.repair (.rowBucket f g)) s = .next t ∧ t = { s with ks := t.ks, fields := t.fields } ∧
      if (s.field f).rowsUsed < Config.spareRows f then (t.field f).rowsUsed = (s.field f).rowsUsed + 1
      else g ∈ (t.field f).withdrawn) ∧
    ((s.field f).spSlice ≠ 0 → ∃ t, exec (.repair (.slice f)) s = .next t ∧
      (t.field f).spSlice = (s.field f).spSlice - 1 ∧ t = { s with ks := t.ks, fields := t.fields }) ∧
    (∃ t, exec (.repair (.jarlet p)) s = .next t ∧ (t.jarlet p).inService = false ∧ (t.jarlet p).up = false ∧
      (t.jarlet p).key0 = 0 ∧ (t.jarlet p).key1 = 0 ∧
      ((∀ z ∈ s.parts, z.2.mig = none) → t = { s with ks := t.ks, jarlets := t.jarlets, reqs := t.reqs })) ∧
    (∃ t, exec (.repair (.tile x)) s = .next t ∧ DueEv t (.tileRetire x 8400) ∧ t = { s with due := t.due })) ∧
  (∀ s : State, ∃ t, exec .tableRewrite s = .next t ∧ t.tile s.cur.tile = { s.tile s.cur.tile with tableBad := false } ∧
    t = { s with tiles := t.tiles })

/-- A migration: begun under an escrow key with a copy of the grains, approved, its keys sent, erased at the receipt with accesses
forwarded for 10 ms, and the partition freed once the destination runs; without a confirmation the source is held. A destination
takes in what was copied. Until the keys are erased the migration can be given up: the source goes on, a destination frees its
partition. -/
def Migrates : Prop :=
  (∀ (tag : Nat) (x : MigReq) (s : State) (P : Part), s.part tag = some P →
    (P.escrow = none → ∃ t, exec (.migrate tag 1 x) s = .next t ∧ Refused s t (.migrate tag 1 x) 22) ∧
    (P.escrow ≠ none → P.mig = none → ∃ t Q m, exec (.migrate tag 1 x) s = .next t ∧ Answers t (.migrate tag 1 x) 0 ∧
      t.part tag = some Q ∧ Q.mig = some m ∧ m.phase = 1 ∧ m.dst = x.dst ∧ m.limit = x.limit ∧ m.approved = false ∧
      m.copy = s.regionBytes P none ∧ t.mem = s.mem) ∧
    (∀ a b pa, P.mig = none → x.cells = [(a, b)] → P.paOf a = some pa → ∃ t Q, exec (.migrate tag 6 x) s = .next t ∧
      Answers t (.migrate tag 6 x) 0 ∧ t.part tag = some Q ∧ Q.mig.map (·.phase) = some 6 ∧ Memory.bytes t.mem pa 1 = [b] ∧
      ∀ z, z ≠ pa → Memory.get t.mem z = Memory.get s.mem z) ∧
    (∀ m, P.mig = some m → m.phase ≤ 3 → ∃ t Q, exec (.migrate tag 0 x) s = .next t ∧ Answers t (.migrate tag 0 x) 0 ∧
      t.part tag = some Q ∧ Q.mig = none ∧ Q.places = P.places ∧ Q.keys = P.keys) ∧
    (∀ m, P.mig = some m → (m.phase = 5 ∨ m.phase = 6) → ∃ t, exec (.migrate tag 0 x) s = .next t ∧
      Answers t (.migrate tag 0 x) 0 ∧ t.part tag = none) ∧
    (∀ m, P.mig = some m → m.phase = 4 → ∃ t, exec (.migrate tag 0 x) s = .next t ∧ Refused s t (.migrate tag 0 x) 21) ∧
    (∀ m, P.mig = some m → ∃ t, exec (.migrationApproval tag) s = .next t ∧
      t.part tag = some { P with mig := some { m with approved := true } } ∧ t = { s with parts := t.parts })) ∧
  (∀ (tag : Nat) (s : State) (P : Part) (m : Migration), s.part tag = some P → P.mig = some m →
    (m.phase = 2 → m.approved = true → ∃ t Q k a, exec (.migrationKeyTransfer tag) s = .next t ∧ t.part tag = some Q ∧
      Q.mig = some k ∧ k.phase = 3 ∧ k.sent = some s.free ∧ Q.keys = P.keys ∧ t.free = s.free + 1 ∧
      t.ks.answers.head? = some a ∧ a.kind = 32) ∧
    (m.phase = 2 → m.approved = false → exec (.migrationKeyTransfer tag) s = .next s) ∧
    (m.phase = 3 → ∃ t Q, exec (.migrationReceiptAck tag) s = .next t ∧ t.part tag = some Q ∧ Q.keys = [] ∧ Q.keyHeld = [] ∧
      Q.saveKey = 0 ∧ Q.mig = some { m with phase := 4 } ∧ (tag, s.wtime + 10000000, m.dst) ∈ t.ks.forwards ∧
      DueAt t tag .peerForwardExpire) ∧
    (m.phase = 4 → ∃ t, exec (.migrationRunConfirm tag) s = .next t ∧ t.part tag = none ∧
      (∀ q ∈ t.queues, q.2.cfg.tag ≠ tag) ∧ amGet t.ks.freed tag = some s.wtime ∧ ∀ x ∈ s.tilesOf tag, (t.tile x).tag = 0) ∧
    (m.phase = 4 → s.cur.tile = tag → ∃ t, exec .migrationConfirmTimeout s = .next t ∧
      t.part tag = some { P with mig := some { m with heldSource := true } } ∧ t = { s with parts := t.parts }))

end Sys2Proof.Claims

/-- R305, R307: grow, shrink and compact. -/
def Obligations.ReshapeSteps : Prop := Reshapes

/-- R72, R73, R307, R396 to R400: lends, recalls and steps that overrun. -/
def Obligations.LendRecallSteps : Prop := LendsRecalls ∧ Overruns

/-- R374, R429 to R431, R308, R331, R423 to R425: retirement, repairs and migration. -/
def Obligations.RepairMigrateSteps : Prop := Repairs ∧ Migrates

/-! ## Trust and links -/

namespace Sys2Proof.Claims

/-- Keystone has answered a request first among its answers, and nothing but what follows differs. -/
def Replied (t : State) (kind : Nat) (data : List Nat) : Prop :=
  ∃ a, t.ks.answers.head? = some a ∧ a.kind = kind ∧ a.data = data

/-- Answers to SPDM requests: signed with the alias certificate; without one there is no answer. A session is opened once,
and its end puts the interfaces bound to it that are locked or running into ERROR with code 15. -/
def Spdm : Prop :=
  (∀ (n leaf : Nat) (s : State), s.ks.alias_ = some leaf →
    ∃ t, exec (.challenge n) s = .next t ∧ t = { s with ks := t.ks } ∧
      t.ks.answers.head? = some { kind := 1, data := [n], sig := Config.digest 6 [leaf, 1, n] }) ∧
  (∀ (n : Nat) (s : State), s.ks.alias_ = none → exec (.challenge n) s = .next s) ∧
  (∀ (k : Nat) (s : State) (leaf : Nat), s.ks.alias_ = some leaf →
    (amGet s.ks.sess k = none → ∃ t x, exec (.keyExchange k) s = .next t ∧ amGet t.ks.sess k = some x ∧ x.ifn = none ∧
      t.free = s.free + 1 ∧ Replied t 3 [k] ∧ t = { s with ks := t.ks, free := t.free }) ∧
    (amGet s.ks.sess k ≠ none → ∃ t, exec (.keyExchange k) s = .next t ∧ Replied t 40 [1] ∧ t.ks.sess = s.ks.sess ∧
      t = { s with ks := t.ks }) ∧
    ∀ i, (∀ l, s.measure (s.sessionPart k) i = some l → ∃ t, exec (.measurements k i) s = .next t ∧ Replied t 2 (i :: l) ∧
        t = { s with ks := t.ks }) ∧
      (s.measure (s.sessionPart k) i = none → ∃ t, exec (.measurements k i) s = .next t ∧ Replied t 40 [2] ∧
        t = { s with ks := t.ks })) ∧
  (∀ (k : Nat) (s : State) (i : Instr), i = .securedMessageFail k ∨ i = .endSession k → amGet s.ks.sess k ≠ none →
    (s.queues.map (·.1)).Nodup → ∃ t, exec i s = .next t ∧ amGet t.ks.sess k = none ∧ ∀ x ∈ s.queues,
      (x.2.sess = some k → (x.2.state = .locked ∨ x.2.state = .run) →
        ∃ q, t.queue x.1 = some q ∧ q.state = .error ∧ q.err.map (·.code) = some 15) ∧
      (x.2.sess ≠ some k → t.queue x.1 = some x.2))

/-- A session that is bound to no other interface. -/
abbrev MayBind (s : State) (k ifn : Nat) : Prop := ((amGet s.ks.sess k).any fun x => x.ifn.isNone || x.ifn == some ifn) = true

/-- Interfaces: locked with RIDX equal to WIDX, a PASID and a keyed stream, started from there, reported, and stopped once
what the queue has admitted is done; every request comes in a session bound to the interface, but a stop of one that was never
locked. -/
def Interfaces : Prop :=
  ∀ (ifn k leaf : Nat) (s : State) (q : Queue), s.ks.alias_ = some leaf → s.queue ifn = some q →
    (∀ P y, MayBind s k ifn → s.part q.cfg.tag = some P →
      (s.link P.link).streams.find? (fun x => x.num != 0 && x.tag == q.cfg.tag && x.secure) = some y →
      (q.state = .unlocked → q.ridx = q.widx → q.cfg.pasid ≠ 0 → q.stopping = false →
        ∃ t r, exec (.lockInterface ifn k) s = .next t ∧ t.queue ifn = some r ∧ r.state = .locked ∧ r.sess = some k ∧
          r.ide = some y.num ∧ r.cfg = q.cfg ∧ Replied t 41 [ifn] ∧ DueEv t (.qcbWriteback ifn)) ∧
      ((q.state ≠ .unlocked ∨ q.ridx ≠ q.widx ∨ q.cfg.pasid = 0) →
        ∃ t, exec (.lockInterface ifn k) s = .next t ∧ t.queue ifn = some q ∧ Replied t 40 [3])) ∧
    (q.state = .locked → MayBind s k ifn →
      ∃ t r, exec (.startInterface ifn k) s = .next t ∧ t.queue ifn = some r ∧ r.state = .run ∧ r.widx = q.widx ∧
        r.ridx = q.ridx ∧ Replied t 41 [ifn] ∧ DueEv t (.packetAtHead ifn)) ∧
    (q.state ≠ .locked ∨ ¬ MayBind s k ifn →
      ∃ t, exec (.startInterface ifn k) s = .next t ∧ t.queue ifn = some q ∧ Replied t 40 [3]) ∧
    (q.stopping = false → ¬ MayBind s k ifn → (q.sess ≠ none ∨ amGet s.ks.sess k ≠ none) →
      ∃ t, exec (.stopInterface ifn k) s = .next t ∧ t.queue ifn = some q ∧ Replied t 40 [3]) ∧
    ((MayBind s k ifn ∨ q.stopping = true ∨ q.sess = none ∧ amGet s.ks.sess k = none) →
      (s.queueDone ifn q = true → ∃ t r, exec (.stopInterface ifn k) s = .next t ∧ t.queue ifn = some r ∧
        r.state = .unlocked ∧ r.ridx = q.widx ∧ r.widx = q.widx ∧ r.err = none ∧ r.head = none ∧ r.sess = none ∧
        r.ide = none ∧ Replied t 41 [ifn]) ∧
      (s.queueDone ifn q = false → ∃ t, exec (.stopInterface ifn k) s = .next t ∧
        t.queue ifn = some { q with stopping := true } ∧ DueEv t (.stopInterface ifn k))) ∧
    (∀ P, MayBind s k ifn → s.part q.cfg.tag = some P →
      (q.state ≠ .unlocked → ∃ t a, exec (.getDeviceInterfaceReport ifn k) s = .next t ∧ t.ks.answers.head? = some a ∧
        a.kind = 42 ∧ a.data.take 6 = [ifn, q.cfg.ctx, q.cfg.pasid, q.cfg.prio, q.cfg.owner, 8 * q.cfg.q] ∧
        t = { s with ks := t.ks }) ∧
      (q.state = .unlocked → ∃ t, exec (.getDeviceInterfaceReport ifn k) s = .next t ∧ Replied t 40 [4] ∧
        t = { s with ks := t.ks }))

/-- Weight keys change once no accepted LDS names their slot; the escrow key and an imported blob are taken in a bound
session, a blob that fails its check changes nothing. -/
def Keys : Prop :=
  ∀ (k leaf tag : Nat) (s : State) (P : Part), s.ks.alias_ = some leaf → s.keyPart k = some (tag, P) →
    (∀ slot clear key wdid, slot < 16 → P.keyHeld = [] → s.slotBusy tag slot P = false →
      (∃ t Q, exec (.keySet k slot clear key wdid) s = .next t ∧ t.part tag = some Q ∧ Replied t 41 [slot] ∧
        amGet Q.keys slot = some (if clear then .clear else .keyed (BitVec.ofNat 512 key) (BitVec.ofNat 32 wdid)) ∧
        (∀ j, j ≠ slot → amGet Q.keys j = amGet P.keys j)) ∧
      ∃ t Q, exec (.keyErase k slot) s = .next t ∧ t.part tag = some Q ∧ Replied t 41 [slot] ∧ amGet Q.keys slot = none ∧
        ∀ j, j ≠ slot → amGet Q.keys j = amGet P.keys j) ∧
    (∀ slot, slot < 16 → P.keyHeld = [] → s.slotBusy tag slot P = true →
      ∃ t, exec (.keyErase k slot) s = .next t ∧ t.part tag = some { P with keyHeld := [(k, slot, .empty)] } ∧
        DueEv t (.keyErase k slot)) ∧
    (∃ t a, exec (.keyQuery k) s = .next t ∧ t.ks.answers.head? = some a ∧ a.kind = 43 ∧ a.data.length = 48 ∧
      t = { s with ks := t.ks }) ∧
    (∀ key, ∃ t, exec (.keyEscrow k key) s = .next t ∧ t.part tag = some { P with escrow := some key } ∧ Replied t 41 []) ∧
    (∀ blob kb, ∃ t Q, exec (.keyImport k blob kb) s = .next t ∧ t.part tag = some Q ∧
      if blobOk kb blob = true ∧ blob.getD 56 0 = Config.digest 8 P.shape then
        Q.keyHeld = P.keyHeld ∧ Q.saveKey = BitVec.ofNat 512 (blob.getD 48 0) ∧ Q.paused.isSome = true ∧ Replied t 41 [] ∧
        ∀ i < 16, (amGet Q.keys i).getD .empty = blobSlot (fun j => blob.getD j 0) i
      else Replied t 40 [6] ∧ t = { s with ks := t.ks })

/-- IDE: a stream is keyed in a session; one that fails its check is insecure, and the interfaces bound to it go to ERROR
with code 12. -/
def Streams : Prop :=
  (∀ (k h n tag key leaf : Nat) (s : State), s.ks.alias_ = some leaf → amGet s.ks.sess k ≠ none → h < 4 → n ≤ 16 →
    ∃ t, exec (.ideKm k h n tag key) s = .next t ∧ Replied t 41 [n] ∧ t = { s with ks := t.ks, links := t.links } ∧
      { num := n, tag := tag, key := key, secure := true } ∈ (t.link h).streams ∧
      ∀ x ∈ (s.link h).streams, x.num ≠ n → x ∈ (t.link h).streams) ∧
  (∀ (h n : Nat) (s : State), h < 4 → (s.queues.map (·.1)).Nodup →
    ∃ t, exec (.ideIntegrityFail h n) s = .next t ∧ (∀ x ∈ (t.link h).streams, x.num = n → x.secure = false) ∧
      ∀ x ∈ s.queues, ∀ P, s.part x.2.cfg.tag = some P → P.link = h →
        (n = 0 ∨ x.2.ide = some n → x.2.state ≠ .error →
          ∃ q, t.queue x.1 = some q ∧ q.state = .error ∧ q.err.map (·.code) = some 12) ∧
        (n ≠ 0 → x.2.ide ≠ some n → t.queue x.1 = some x.2))

/-- Jarlet ports: training, flits, keys, take-downs and agreements. A port that goes down loses the flits that wait there and
fails the migrations that use it. -/
def JarletPorts : Prop :=
  ∀ (p : Nat) (s : State), let J := s.jarlet p
    p < 64 →
    (∀ off, J.inService = true → ∃ t, exec (.jarletLinkTrain p off) s = .next t ∧ (t.jarlet p).up = true ∧
      (t.jarlet p).off = off ∧ (t.jarlet p).ctr0 = 0 ∧ (t.jarlet p).ctr1 = 0 ∧ t.free = s.free + 1 ∧
      t = { s with jarlets := t.jarlets, free := t.free }) ∧
    (∀ x : JFlit, J.inService = true → J.up = true →
      (x.auth = true → s.outOfSlot p x.tag = false → ∃ t, exec (.jarletFlitReceive p x) s = .next t ∧
        (t.jarlet p).delivered = J.delivered + 1 ∧ (t.jarlet p).failRow = 0 ∧
        (t.jarlet p).ctr1 = (if x.phase = J.ph1 ∧ x.ctr = J.ctr1 then J.ctr1 + 1 else J.ctr1)) ∧
      (x.auth = false → ∃ t, exec (.jarletFlitReceive p x) s = .next t ∧ (t.jarlet p).delivered = J.delivered ∧
        (t.jarlet p).failRow = J.failRow + 1 ∧ (t.jarlet p).ctr1 = J.ctr1 ∧
        (7 ≤ J.failRow → DueAt t p .jarletPortDown))) ∧
    (J.up = true → ∃ t u, exec (.jarletKeyUpdate p true) s = .next t ∧ exec (.jarletKeyUpdate p false) s = .next u ∧
      (t.jarlet p).ctr1 = 0 ∧ (t.jarlet p).ph1 = !J.ph1 ∧ (t.jarlet p).key0 = J.key0 ∧ (t.jarlet p).ctr0 = J.ctr0 ∧
      (u.jarlet p).ctr0 = 0 ∧ (u.jarlet p).ph0 = !J.ph0 ∧ (u.jarlet p).key1 = J.key1 ∧ (u.jarlet p).ctr1 = J.ctr1) ∧
    (s.cur.tile = p → J.up = true → (8 ≤ J.failRow ∨ 64 ≤ J.failMs) → ∃ t, exec .jarletPortDown s = .next t ∧
      t.jarlet p = { J with up := false, key0 := 0, key1 := 0 } ∧ t.flitsAt (4 + p) = [] ∧
      ((∀ z ∈ s.parts, z.2.mig = none) → t = { s with jarlets := t.jarlets, reqs := t.reqs, ks := t.ks }) ∧
      ∀ tag P m, s.part tag = some P → P.mig = some m → portTo m.dst = p → m.phase ≤ 3 →
        ∃ Q, t.part tag = some Q ∧ Q.mig = none) ∧
    (J.up = false → J.inService = true →
      (∃ t, exec (.jarletKeyAgreement p true) s = .next t ∧ (t.jarlet p).up = true ∧ (t.jarlet p).ctr0 = 0 ∧
        (t.jarlet p).ctr1 = 0 ∧ (t.jarlet p).failRow = 0 ∧ (t.jarlet p).agreeFail = 0) ∧
      ∃ t, exec (.jarletKeyAgreement p false) s = .next t ∧ t.jarlet p = { J with agreeFail := J.agreeFail + 1 } ∧
        (2 ≤ J.agreeFail → DueEv t (.repair (.jarlet p))))

end Sys2Proof.Claims

/-- R325 to R330, R380, R413, R414, R420, R423, R424, R332, R421, R303, R333, R402, R422: sessions, interfaces and keys, IDE
streams and Jarlet ports. -/
def Obligations.TrustLinkSteps : Prop := Spdm ∧ Interfaces ∧ Keys ∧ Streams ∧ JarletPorts

/-! ## Decoding, the step, invariants -/

/-- Tier 3: the decoder reads every instruction from the word that the encoder writes for it. -/
def Obligations.EncodeDecode : Prop :=
  ∀ (nv : Nat) (i : Instr) (w : W64), i.wf nv = true → encode i = some w → decode nv w = .ok i

/-- Tier 3: what the decoder accepts is well-formed and has no other word. -/
def Obligations.DecodeEncode : Prop :=
  ∀ (nv : Nat) (i : Instr) (w : W64), decode nv w = .ok i → i.wf nv = true ∧ encode i = some w

namespace Sys2Proof.Claims

/-- The operation codes that carry an instruction (Tables 8.1, 9.1, 10.1 and 11.2). -/
def opcodes : List Nat :=
  (List.range 0x20).filter (fun n => 1 ≤ n && n ≤ 0x14) ++ (List.range 0x20).map (0x20 + ·) ++ (List.range 15).map (0x40 + ·) ++
  (List.range 15).map (0x50 + ·) ++ (List.range 4).map (0x60 + ·) ++ (List.range 10).map (0x70 + ·) ++
  (List.range 6).map (0x80 + ·) ++ (List.range 9).map (0x90 + ·)

/-- The state in which a turn issues a subset's word: lanes that wait for free planes go on, a hand-off that is due is made, the
group has selected, and writes past their latency are forgotten. -/
def issueState (u : State) (t g : Nat) (m : BitVec 32) (w : W64) : State :=
  let v := u.modGroup t g fun G =>
    { (G.wakePlanes (u.tile t).arr.holder.isNone).handOffDue.select with haz := G.haz.filter fun h => decide (u.cycle t < h.ready) }
  { v with cur := { tile := t, slot := g, sub := m, word := w
                    pc := (((v.tile t).group g).lane ((lanesOf m).headD 0)).pc } }

/-- The schedule's next turn is an issue turn of a pipeline of a tile, and `u` is the state in which it is taken. -/
abbrev IssueTurn (s u : State) (t p : Nat) : Prop :=
  ∃ x rest k, s.inputs = x :: rest ∧ x.ev = none ∧ x.at_ = some (t, k) ∧ k % 2 = p % 2 ∧
    u = ({ s with inputs := rest } : State).environment x

/-- The group may issue, and of the groups of its pipeline that come before it, the agent first and then the older ones, none
may (R61, R62). -/
abbrev Oldest (u : State) (t g : Nat) : Prop :=
  u.groupReady t g = true ∧ (g = 32 → u.agentYields t = false) ∧ ∃ pre post, u.pipeline t g = pre ++ (t, g) :: post ∧
    ∀ x ∈ pre, u.groupReady x.1 x.2 = false ∨ (x.2 = 32 ∧ u.agentYields x.1 = true)

/-- The schedule's next turn offers issue to a group of threads that is its pipeline's oldest, whose first subset stands inside
its block at a word that can be fetched. -/
abbrev Offered (s u : State) (t g : Nat) (m : BitVec 32) (w : W64) : Prop :=
  IssueTurn s u t g ∧ u.mode = .running ∧ Oldest u t g ∧ let z := issueState u t g m 0
    ((z.tile t).group g).subsets.head? = some m ∧ (((z.tile t).group g).lane ((lanesOf m).headD 0)).entry = false ∧
    z.fetch t g z.cur.pc = .word w

/-- Nothing holds the word's instruction back and nothing traps it before it executes. -/
abbrev Free (z : State) (w : W64) (i : Instr) (c : Ctl) : Prop :=
  isHeader w = false ∧ decode (poolNv z.T.ctl.pool) w = .ok i ∧ i.ctl = some c ∧
  (endsBlock i = true → (z.G.lane ((lanesOf z.cur.sub).headD 0)).left = 1) ∧ z.allows c i = true ∧
  (z.checks i = true → z.unguarded c i = none) ∧ z.badSource c i = none

end Sys2Proof.Claims

/-- Tier 1: a turn runs the instruction that the word decodes to, and adds what issue itself changes, where the instruction does
not take free planes, for which R264 looks at the other pipeline; one that waits leaves the turn to the group's other subsets and
the pipeline's other groups, and where there is none the turn ends there. A turn that names an event runs that event, and where
the schedule has ended the internal step that is due first runs. -/
def Obligations.StepRunsDecoded : Prop :=
  (∀ (s u : State) (t g : Nat) (m : BitVec 32) (w : W64) (i : Instr) (c : Ctl), let z := issueState u t g m w
    Offered s u t g m w → Free z w i c → ∀ r, exec i z = .next r →
    (z.issued r = true → let v := r.afterIssue z c i; u.tookPlanes (.next v) = none → step s = .next v) ∧
    (z.issued r = false → r.G.traps.length ≠ z.G.traps.length → u.tookPlanes (.next r) = none → step s = .next r) ∧
    (z.issued r = false → r.G.traps.length = z.G.traps.length → z.G.subsets = [m] → u.pipeline t g = [(t, g)] →
      u.tookPlanes (.next r) = none → step s = .next r)) ∧
  (∀ (s u : State) (x : Input) (rest : List Input) (i : Instr), s.inputs = x :: rest → x.ev = some i → i.ctl = none →
    u = ({ s with inputs := rest } : State).environment x → u.stillTaken i = true →
    let p := x.at_.getD (0, 0)
    step s = exec i { u with due := u.due.erase { tile := p.1, slot := p.2, ev := i }, cur := { tile := p.1, slot := p.2 } }) ∧
  (∀ (s : State) (d : Due) (rest : List Due), s.inputs = [] → s.due = d :: rest → s.turn = false → s.mode = .running →
    d.ev.ctl = none → step s = exec d.ev { s.drawn with due := rest, turn := true, cur := { tile := d.tile, slot := d.slot } })

namespace Sys2Proof.Claims

/-- The step has issued an instruction of the group in tile cycle `cyc`, and the group's next one issues no earlier than
`max 1 stall` tile cycles later. -/
def Spaced (s : State) (t g cyc stall : Nat) : Prop :=
  ∃ v, step s = .next v ∧ ((v.tile t).group g).nextCyc = cyc + max 1 stall

/-- The schedule's next turn offers issue to a group whose first subset stands at a well-formed header `h` that lets it in, with
the word `w` after it; `y` is the state inside the block. -/
abbrev AtHeader (s u y : State) (t g : Nat) (m : BitVec 32) (h : Header) (w : W64) : Prop :=
  IssueTurn s u t g ∧ u.mode = .running ∧ Oldest u t g ∧ let z := issueState u t g m 0
  let L := ((z.tile t).group g).lane ((lanesOf m).headD 0)
  ((z.tile t).group g).subsets.head? = some m ∧ L.entry = true ∧ L.hskip = false ∧ L.pc < 2 ^ 56 ∧
  (∃ k, z.fetch t g z.cur.pc = .word k ∧ isHeader k = true ∧ decodeHeader k = some h) ∧
  (∀ l ∈ lanesOf m, (z.G.lane l).via ≠ .call ∧ (z.G.lane l).via ≠ .template) ∧ h.entry = 0 ∧ h.preempt = false ∧
  y = { z.modG (fun G => G.modMask m fun L => L.enterBlock h) with
        cur := { z.cur with pc := (z.cur.pc + 8) % 2 ^ 56, word := w } } ∧
  y.fetch t g y.cur.pc = .word w

end Sys2Proof.Claims

/-- R155: from the tile cycle in which an instruction issues, a branch among them, the group's next one issues no earlier than
`max 1 STALL` tile cycles later, whatever subset issues it: a turn of a pipeline all of whose groups stand so lets time pass and
does nothing else. A header
adds nothing: the word after it issues in the turn that enters the block. -/
def Obligations.IssueDistance : Prop :=
  (∀ (s u : State) (t g : Nat) (m : BitVec 32) (w : W64) (i : Instr) (c : Ctl) (r : State), let z := issueState u t g m w
    Offered s u t g m w → Free z w i c → exec i z = .next r → z.issued r = true → r.G.live = true → r.G.gid = z.G.gid →
    u.tookPlanes (.next (r.afterIssue z c i)) = none → Spaced s t g (u.cycle t) c.stall.val) ∧
  (∀ (s u : State) (t p : Nat), IssueTurn s u t p → (∀ x ∈ u.pipeline t p, u.cycle t < ((u.tile t).group x.2).nextCyc) →
    step s = .next u) ∧
  (∀ (s u y : State) (t g : Nat) (m : BitVec 32) (h : Header) (w : W64) (i : Instr) (c : Ctl) (r : State),
    AtHeader s u y t g m h w → Free y w i c → exec i y = .next r → y.issued r = true → r.G.live = true → r.G.gid = y.G.gid →
    u.tookPlanes (.next (r.afterIssue y c i)) = none → Spaced s t g (u.cycle t) c.stall.val)

/-- R171, R176: operation codes that carry no instruction are refused with cause 1, and a word that the decoder refuses, or
a header inside a block, raises ILL. -/
def Obligations.IllegalWords : Prop :=
  (∀ (nv : Nat) (w : W64), w.toNat / 2 ^ 56 ∉ opcodes → decode nv w = .error ⟨1, 0⟩) ∧
  (∀ (s u : State) (t g : Nat) (m : BitVec 32) (w : W64), let z := issueState u t g m w
    Offered s u t g m w → g ≠ 32 →
    (∀ e, isHeader w = false → decode (poolNv z.T.ctl.pool) w = .error e →
      ∃ r y, step s = .next r ∧ ((r.tile t).group g).lastTrap = some y ∧ y.cls = .ill ∧ y.cause = e.cause ∧ y.info1 = e.info ∧
        y.lanes = m ∧ y.pc = z.cur.pc ∧ y.word = w ∧ r.mem = u.mem) ∧
    (isHeader w = true →
      ∃ r y, step s = .next r ∧ ((r.tile t).group g).lastTrap = some y ∧ y.cls = .ill ∧ y.cause = 5 ∧
        y.info1 = z.cur.pc - 8 ∧ y.lanes = m))

/-- The words of the examples of Tables 7.16, 9.10 and 10.9 decode to the instructions they stand for. -/
def Obligations.SampleWords : Prop :=
  let c : Ctl := { stall := 0, set := 0, wtag := 0, wleft := 0, pn := false, pred := 0 }
  decode 64 0x2504000301020020 = .ok (.div ⟨{ c with set := 1 }, .v 3, .v 1, .v 2, .i32⟩) ∧
  decode 64 0x3C0000A204ED0220 = .ok (.cmp ⟨c, 2, .v 4, .c 45, .lt, .i32⟩) ∧
  decode 64 0x4C0000A1056A03E8 = .ok (.cmpI ⟨c, 1, .v 5, .ge, .n32, 1000⟩) ∧
  decode 64 0x5700000908001AC0 = .ok (.fcvt ⟨c, .v 9, .v 8, .flt .e4m3, .flt (.std .f32), true, .rne⟩) ∧
  decode 64 0x6000000706C10BE1 = .ok (.shfl ⟨c, .v 7, .v 6, .c 1, .up, 3, true, false⟩)

/-- Tier 1: after reset the memories are in canonical form. -/
def Obligations.ResetCanonical : Prop := Memory.wf State.reset.mem = true ∧ Memory.wf State.reset.host = true

/-- Tier 3: every step keeps plinth memory and host memory in canonical form. -/
def Obligations.StepsKeepCanonical : Prop :=
  ∀ s t : State, Memory.wf s.mem = true → Memory.wf s.host = true → step s = .next t →
    Memory.wf t.mem = true ∧ Memory.wf t.host = true

/-- Tier 3: no instruction at user privilege changes the tag or the generation of a tile. -/
def Obligations.TagsKept : Prop :=
  ∀ (i : Instr) (c : Ctl) (s t : State), i.ctl = some c → s.priv = .user → exec i s = .next t →
    ∀ x, (t.tile x).tag = (s.tile x).tag ∧ (t.tile x).gen = (s.tile x).gen
end

