-- ==== Sys2Proof/Laws/Tables.lean ====
section
/-! SUPPORT. Sparse tables: reading after writing, sortedness, and the canonical form of memory (R1) under every memory
operation. -/

namespace Sys2Proof.Machine

/-! ## Reading after writing -/

@[simp] theorem amGet_nil {α : Type} (k : Nat) : amGet ([] : AMap α) k = none := rfl

theorem amGet_amSet_same {α : Type} (m : AMap α) (k : Nat) (x : α) : amGet (amSet m k x) k = some x := by
  induction m with
  | nil => simp [amSet, amGet]
  | cons y r ih =>
    simp only [amSet]
    split
    · rw [amGet, if_neg (by omega), ih]
    · split <;> simp [amGet]

theorem amGet_amSet_other {α : Type} (m : AMap α) (k j : Nat) (x : α) (h : j ≠ k) :
    amGet (amSet m k x) j = amGet m j := by
  induction m with
  | nil => simp [amSet, amGet, Ne.symm h]
  | cons y r ih =>
    simp only [amSet]
    split
    · simp [amGet, ih]
    · split
      · next h1 => simp [amGet, h1, Ne.symm h]
      · simp [amGet, Ne.symm h]

@[simp] theorem amGet_amSet {α : Type} (m : AMap α) (k j : Nat) (x : α) :
    amGet (amSet m k x) j = if j = k then some x else amGet m j := by
  by_cases h : j = k
  · subst h; simp [amGet_amSet_same]
  · simp [h, amGet_amSet_other m k j x h]

@[simp] theorem amSet_amSet {α : Type} (m : AMap α) (k : Nat) (x y : α) : amSet (amSet m k x) k y = amSet m k y := by
  induction m with
  | nil => simp [amSet]
  | cons z r ih =>
    simp only [amSet]
    split
    · next h => simp [amSet, h, ih]
    · split <;> simp [amSet]

@[simp] theorem amGet_amDel {α : Type} (m : AMap α) (k j : Nat) :
    amGet (amDel m k) j = if j = k then none else amGet m j := by
  induction m with
  | nil => simp [amDel]
  | cons y r ih =>
    obtain ⟨a, b⟩ := y
    by_cases h : a = k
    · subst h
      have : amDel ((a, b) :: r) a = amDel r a := by simp [amDel]
      rw [this, ih]
      by_cases hj : j = a
      · simp [hj]
      · simp [hj, amGet, Ne.symm hj]
    · have : amDel ((a, b) :: r) k = (a, b) :: amDel r k := by simp [amDel, h]
      rw [this, amGet, amGet, ih]
      by_cases hj : j = k
      · subst hj; simp [h]
      · simp [hj]

theorem amGet_amPut {α : Type} [DecidableEq α] (d : α) (m : AMap α) (k j : Nat) (x : α) :
    (amGet (amPut d m k x) j).getD d = if j = k then x else (amGet m j).getD d := by
  unfold amPut
  by_cases hx : x = d <;> by_cases hj : j = k <;> simp [hx, hj]

/-! ## Order of keys -/

/-- Keys strictly rising. -/
def sorted {α : Type} : AMap α → Bool
  | [] => true
  | (a, _) :: m => (match m with
    | [] => true
    | (c, _) :: _ => decide (a < c)) && sorted m

/-- Every key of a table lies above a bound. -/
def above {α : Type} (b : Nat) (m : AMap α) : Bool := m.all fun x => decide (b < x.1)

theorem sorted_cons {α : Type} (a : Nat) (x : α) (m : AMap α) :
    sorted ((a, x) :: m) = true ↔ above a m = true ∧ sorted m = true := by
  induction m generalizing a x with
  | nil => simp [sorted, above]
  | cons y r ih =>
    obtain ⟨c, z⟩ := y
    constructor
    · intro h
      have h2 : sorted ((c, z) :: r) = true := by
        simp only [sorted, Bool.and_eq_true] at h ⊢
        exact h.2
      have hac : a < c := by
        simp only [sorted, Bool.and_eq_true, decide_eq_true_eq] at h
        exact h.1
      have hr := ((ih c z).1 h2).1
      refine ⟨?_, h2⟩
      simp only [above, List.all_cons, Bool.and_eq_true, decide_eq_true_eq, List.all_eq_true] at hr ⊢
      exact ⟨hac, fun x hx => Nat.lt_trans hac (hr x hx)⟩
    · rintro ⟨h1, h2⟩
      simp only [above, List.all_cons, Bool.and_eq_true, decide_eq_true_eq] at h1
      have hs : sorted ((a, x) :: (c, z) :: r) = (decide (a < c) && sorted ((c, z) :: r)) := rfl
      rw [hs, h2, Bool.and_true, decide_eq_true_eq]
      exact h1.1

theorem above_amSet {α : Type} (b k : Nat) (x : α) (m : AMap α) (h : above b m = true) (hk : b < k) :
    above b (amSet m k x) = true := by
  induction m with
  | nil => simp [amSet, above, hk]
  | cons y r ih =>
    simp only [above, List.all_cons, Bool.and_eq_true, decide_eq_true_eq] at h
    have hr : above b r = true := h.2
    simp only [amSet]
    split
    · have h3 := ih hr
      simp only [above, List.all_cons, Bool.and_eq_true, decide_eq_true_eq] at h3 ⊢
      exact ⟨h.1, h3⟩
    · split
      · simp only [above, List.all_cons, Bool.and_eq_true, decide_eq_true_eq]
        exact ⟨hk, h.2⟩
      · simp only [above, List.all_cons, Bool.and_eq_true, decide_eq_true_eq]
        exact ⟨hk, h.1, h.2⟩

theorem sorted_amSet {α : Type} (m : AMap α) (k : Nat) (x : α) (h : sorted m = true) : sorted (amSet m k x) = true := by
  induction m with
  | nil => simp [amSet, sorted]
  | cons y r ih =>
    obtain ⟨a, z⟩ := y
    rw [sorted_cons] at h
    simp only [amSet]
    split
    · next hak =>
      rw [sorted_cons]
      exact ⟨above_amSet a k x r h.1 hak, ih h.2⟩
    · split
      · next hak =>
        subst hak
        rw [sorted_cons]
        exact h
      · next h1 h2 =>
        rw [sorted_cons, sorted_cons]
        refine ⟨?_, h⟩
        have ha := h.1
        simp only [above, List.all_cons, Bool.and_eq_true, decide_eq_true_eq, List.all_eq_true] at ha ⊢
        exact ⟨by omega, fun x hx => by have := ha x hx; omega⟩

theorem sorted_filter {α : Type} (m : AMap α) (p : Nat × α → Bool) (h : sorted m = true) : sorted (m.filter p) = true := by
  induction m with
  | nil => simp [sorted]
  | cons y r ih =>
    obtain ⟨a, z⟩ := y
    rw [sorted_cons] at h
    have hr := ih h.2
    by_cases hp : p (a, z) = true
    · rw [List.filter_cons_of_pos hp, sorted_cons]
      refine ⟨?_, hr⟩
      have ha := h.1
      simp only [above, List.all_eq_true, decide_eq_true_eq] at ha ⊢
      exact fun x hx => ha x (List.mem_filter.1 hx).1
    · rw [List.filter_cons_of_neg hp]
      exact hr

/-! ## Memory keeps its canonical form -/

/-- Memory is in canonical form exactly where its addresses rise and no listed byte reads 0. -/
theorem Memory.wf_iff (m : List Host.Cell) : Memory.wf m = true ↔ sorted m = true ∧ m.all (fun x => x.2 != 0) = true := by
  induction m with
  | nil => simp [Memory.wf, sorted]
  | cons y r ih =>
    obtain ⟨a, b⟩ := y
    cases r with
    | nil => simp [Memory.wf, sorted]
    | cons z q =>
      obtain ⟨c, d⟩ := z
      have e1 : Memory.wf ((a, b) :: (c, d) :: q) = (b != 0 && decide (a < c) && Memory.wf ((c, d) :: q)) := rfl
      have e2 : sorted ((a, b) :: (c, d) :: q) = (decide (a < c) && sorted ((c, d) :: q)) := rfl
      rw [e1, e2, List.all_cons]
      simp only [Bool.and_eq_true] at ih ⊢
      rw [ih]
      tauto

theorem mem_amSet {α : Type} (m : AMap α) (k : Nat) (x : α) (y : Nat × α) (h : y ∈ amSet m k x) : y = (k, x) ∨ y ∈ m := by
  induction m with
  | nil => simp [amSet] at h; exact .inl h
  | cons z r ih =>
    simp only [amSet] at h
    split at h
    · rcases List.mem_cons.1 h with h | h
      · exact .inr (by simp [h])
      · rcases ih h with h | h
        · exact .inl h
        · exact .inr (List.mem_cons_of_mem _ h)
    · split at h
      · rcases List.mem_cons.1 h with h | h
        · exact .inl h
        · exact .inr (List.mem_cons_of_mem _ h)
      · rcases List.mem_cons.1 h with h | h
        · exact .inl h
        · exact .inr h

theorem Memory.wf_filter (m : List Host.Cell) (p : Host.Cell → Bool) (h : Memory.wf m = true) : Memory.wf (m.filter p) = true := by
  rw [Memory.wf_iff] at h ⊢
  refine ⟨sorted_filter m p h.1, ?_⟩
  have h2 := h.2
  simp only [List.all_eq_true] at h2 ⊢
  exact fun x hx => h2 x (List.mem_filter.1 hx).1

theorem Memory.wf_set (m : List Host.Cell) (a : Nat) (b : Byte) (h : Memory.wf m = true) : Memory.wf (Memory.set m a b) = true := by
  unfold Memory.set amPut
  split
  · exact Memory.wf_filter m _ h
  · next hb =>
    rw [Memory.wf_iff] at h ⊢
    refine ⟨sorted_amSet m a b h.1, ?_⟩
    have h2 := h.2
    simp only [List.all_eq_true] at h2 ⊢
    intro x hx
    rcases mem_amSet m a b x hx with h | h
    · subst h; simpa using hb
    · exact h2 x h

theorem Memory.wf_write (m : List Host.Cell) (a n v : Nat) (h : Memory.wf m = true) : Memory.wf (Memory.write m a n v) = true := by
  induction n generalizing m a v with
  | zero => exact h
  | succ n ih => exact ih _ _ _ (Memory.wf_set _ _ _ h)

theorem Memory.wf_putBytes (m : List Host.Cell) (a : Nat) (l : List Byte) (h : Memory.wf m = true) :
    Memory.wf (Memory.putBytes m a l) = true := by
  induction l generalizing m a with
  | nil => exact h
  | cons b l ih => exact ih _ _ (Memory.wf_set _ _ _ h)

/-- A byte after a byte is written: that byte, or what was there. -/
@[simp] theorem Memory.get_set (m : List Host.Cell) (a c : Nat) (b : Byte) :
    Memory.get (Memory.set m a b) c = if c = a then b else Memory.get m c :=
  amGet_amPut 0 m a c b

/-- A byte outside the bytes written reads as before. -/
theorem Memory.get_write_outside (m : List Host.Cell) (a n v c : Nat) (h : c < a ∨ a + n ≤ c) :
    Memory.get (Memory.write m a n v) c = Memory.get m c := by
  induction n generalizing m a v with
  | zero => rfl
  | succ n ih =>
    have hc : c ≠ a := by omega
    rw [Memory.write, ih _ _ _ (by omega), Memory.get_set, if_neg hc]

/-- A byte inside the bytes written is the byte of the value. -/
theorem Memory.get_write_inside (m : List Host.Cell) (a n v i : Nat) (h : i < n) :
    Memory.get (Memory.write m a n v) (a + i) = BitVec.ofNat 8 (v / 256 ^ i) := by
  induction n generalizing m a v i with
  | zero => omega
  | succ n ih =>
    rw [Memory.write]
    cases i with
    | zero => rw [Memory.get_write_outside _ _ _ _ _ (by omega)]; simp
    | succ i =>
      have e : a + (i + 1) = a + 1 + i := by omega
      rw [e, ih _ _ _ _ (by omega), Nat.div_div_eq_div_mul, pow_succ, Nat.mul_comm]

theorem Memory.get_putBytes_outside (m : List Host.Cell) (a : Nat) (l : List Byte) (c : Nat) (h : c < a ∨ a + l.length ≤ c) :
    Memory.get (Memory.putBytes m a l) c = Memory.get m c := by
  induction l generalizing m a with
  | nil => rfl
  | cons b l ih =>
    have hc : c ≠ a := by simp at h; omega
    rw [Memory.putBytes, ih _ _ (by simp at h; omega), Memory.get_set, if_neg hc]

end Sys2Proof.Machine
end

