-- ==== Sys2Proof/Laws/State.lean ====
section
/-! SUPPORT. Each field of State after each update, true by definition, and what the lenses read after they write. -/

namespace Sys2Proof.Machine

@[simp] theorem State.setTile_now (s : State) (t : Nat) (x : Tile) : (s.setTile t x).now = s.now := rfl
@[simp] theorem State.setTile_mode (s : State) (t : Nat) (x : Tile) : (s.setTile t x).mode = s.mode := rfl
@[simp] theorem State.setTile_mem (s : State) (t : Nat) (x : Tile) : (s.setTile t x).mem = s.mem := rfl
@[simp] theorem State.setTile_poison (s : State) (t : Nat) (x : Tile) : (s.setTile t x).poison = s.poison := rfl
@[simp] theorem State.setTile_writes (s : State) (t : Nat) (x : Tile) : (s.setTile t x).writes = s.writes := rfl
@[simp] theorem State.setTile_host (s : State) (t : Nat) (x : Tile) : (s.setTile t x).host = s.host := rfl
@[simp] theorem State.setTile_fields (s : State) (t : Nat) (x : Tile) : (s.setTile t x).fields = s.fields := rfl
@[simp] theorem State.setTile_slices (s : State) (t : Nat) (x : Tile) : (s.setTile t x).slices = s.slices := rfl
@[simp] theorem State.setTile_walks (s : State) (t : Nat) (x : Tile) : (s.setTile t x).walks = s.walks := rfl
@[simp] theorem State.setTile_reqs (s : State) (t : Nat) (x : Tile) : (s.setTile t x).reqs = s.reqs := rfl
@[simp] theorem State.setTile_tiles (s : State) (t : Nat) (x : Tile) : (s.setTile t x).tiles = amSet s.tiles t x := rfl
@[simp] theorem State.setTile_parts (s : State) (t : Nat) (x : Tile) : (s.setTile t x).parts = s.parts := rfl
@[simp] theorem State.setTile_queues (s : State) (t : Nat) (x : Tile) : (s.setTile t x).queues = s.queues := rfl
@[simp] theorem State.setTile_jarlets (s : State) (t : Nat) (x : Tile) : (s.setTile t x).jarlets = s.jarlets := rfl
@[simp] theorem State.setTile_links (s : State) (t : Nat) (x : Tile) : (s.setTile t x).links = s.links := rfl
@[simp] theorem State.setTile_ks (s : State) (t : Nat) (x : Tile) : (s.setTile t x).ks = s.ks := rfl
@[simp] theorem State.setTile_cur (s : State) (t : Nat) (x : Tile) : (s.setTile t x).cur = s.cur := rfl
@[simp] theorem State.setTile_inputs (s : State) (t : Nat) (x : Tile) : (s.setTile t x).inputs = s.inputs := rfl
@[simp] theorem State.setTile_due (s : State) (t : Nat) (x : Tile) : (s.setTile t x).due = s.due := rfl
@[simp] theorem State.setTile_turn (s : State) (t : Nat) (x : Tile) : (s.setTile t x).turn = s.turn := rfl
@[simp] theorem State.setTile_free (s : State) (t : Nat) (x : Tile) : (s.setTile t x).free = s.free := rfl
@[simp] theorem State.setTile_nextId (s : State) (t : Nat) (x : Tile) : (s.setTile t x).nextId = s.nextId := rfl

@[simp] theorem State.setField_now (s : State) (f : Nat) (x : Field) : (s.setField f x).now = s.now := rfl
@[simp] theorem State.setField_mode (s : State) (f : Nat) (x : Field) : (s.setField f x).mode = s.mode := rfl
@[simp] theorem State.setField_mem (s : State) (f : Nat) (x : Field) : (s.setField f x).mem = s.mem := rfl
@[simp] theorem State.setField_poison (s : State) (f : Nat) (x : Field) : (s.setField f x).poison = s.poison := rfl
@[simp] theorem State.setField_writes (s : State) (f : Nat) (x : Field) : (s.setField f x).writes = s.writes := rfl
@[simp] theorem State.setField_host (s : State) (f : Nat) (x : Field) : (s.setField f x).host = s.host := rfl
@[simp] theorem State.setField_fields (s : State) (f : Nat) (x : Field) : (s.setField f x).fields = amSet s.fields f x := rfl
@[simp] theorem State.setField_slices (s : State) (f : Nat) (x : Field) : (s.setField f x).slices = s.slices := rfl
@[simp] theorem State.setField_walks (s : State) (f : Nat) (x : Field) : (s.setField f x).walks = s.walks := rfl
@[simp] theorem State.setField_reqs (s : State) (f : Nat) (x : Field) : (s.setField f x).reqs = s.reqs := rfl
@[simp] theorem State.setField_tiles (s : State) (f : Nat) (x : Field) : (s.setField f x).tiles = s.tiles := rfl
@[simp] theorem State.setField_parts (s : State) (f : Nat) (x : Field) : (s.setField f x).parts = s.parts := rfl
@[simp] theorem State.setField_queues (s : State) (f : Nat) (x : Field) : (s.setField f x).queues = s.queues := rfl
@[simp] theorem State.setField_jarlets (s : State) (f : Nat) (x : Field) : (s.setField f x).jarlets = s.jarlets := rfl
@[simp] theorem State.setField_links (s : State) (f : Nat) (x : Field) : (s.setField f x).links = s.links := rfl
@[simp] theorem State.setField_ks (s : State) (f : Nat) (x : Field) : (s.setField f x).ks = s.ks := rfl
@[simp] theorem State.setField_cur (s : State) (f : Nat) (x : Field) : (s.setField f x).cur = s.cur := rfl
@[simp] theorem State.setField_inputs (s : State) (f : Nat) (x : Field) : (s.setField f x).inputs = s.inputs := rfl
@[simp] theorem State.setField_due (s : State) (f : Nat) (x : Field) : (s.setField f x).due = s.due := rfl
@[simp] theorem State.setField_turn (s : State) (f : Nat) (x : Field) : (s.setField f x).turn = s.turn := rfl
@[simp] theorem State.setField_free (s : State) (f : Nat) (x : Field) : (s.setField f x).free = s.free := rfl
@[simp] theorem State.setField_nextId (s : State) (f : Nat) (x : Field) : (s.setField f x).nextId = s.nextId := rfl

@[simp] theorem State.setPart_now (s : State) (tag : Nat) (x : Part) : (s.setPart tag x).now = s.now := rfl
@[simp] theorem State.setPart_mode (s : State) (tag : Nat) (x : Part) : (s.setPart tag x).mode = s.mode := rfl
@[simp] theorem State.setPart_mem (s : State) (tag : Nat) (x : Part) : (s.setPart tag x).mem = s.mem := rfl
@[simp] theorem State.setPart_poison (s : State) (tag : Nat) (x : Part) : (s.setPart tag x).poison = s.poison := rfl
@[simp] theorem State.setPart_writes (s : State) (tag : Nat) (x : Part) : (s.setPart tag x).writes = s.writes := rfl
@[simp] theorem State.setPart_host (s : State) (tag : Nat) (x : Part) : (s.setPart tag x).host = s.host := rfl
@[simp] theorem State.setPart_fields (s : State) (tag : Nat) (x : Part) : (s.setPart tag x).fields = s.fields := rfl
@[simp] theorem State.setPart_slices (s : State) (tag : Nat) (x : Part) : (s.setPart tag x).slices = s.slices := rfl
@[simp] theorem State.setPart_walks (s : State) (tag : Nat) (x : Part) : (s.setPart tag x).walks = s.walks := rfl
@[simp] theorem State.setPart_reqs (s : State) (tag : Nat) (x : Part) : (s.setPart tag x).reqs = s.reqs := rfl
@[simp] theorem State.setPart_tiles (s : State) (tag : Nat) (x : Part) : (s.setPart tag x).tiles = s.tiles := rfl
@[simp] theorem State.setPart_parts (s : State) (tag : Nat) (x : Part) : (s.setPart tag x).parts = amSet s.parts tag x := rfl
@[simp] theorem State.setPart_queues (s : State) (tag : Nat) (x : Part) : (s.setPart tag x).queues = s.queues := rfl
@[simp] theorem State.setPart_jarlets (s : State) (tag : Nat) (x : Part) : (s.setPart tag x).jarlets = s.jarlets := rfl
@[simp] theorem State.setPart_links (s : State) (tag : Nat) (x : Part) : (s.setPart tag x).links = s.links := rfl
@[simp] theorem State.setPart_ks (s : State) (tag : Nat) (x : Part) : (s.setPart tag x).ks = s.ks := rfl
@[simp] theorem State.setPart_cur (s : State) (tag : Nat) (x : Part) : (s.setPart tag x).cur = s.cur := rfl
@[simp] theorem State.setPart_inputs (s : State) (tag : Nat) (x : Part) : (s.setPart tag x).inputs = s.inputs := rfl
@[simp] theorem State.setPart_due (s : State) (tag : Nat) (x : Part) : (s.setPart tag x).due = s.due := rfl
@[simp] theorem State.setPart_turn (s : State) (tag : Nat) (x : Part) : (s.setPart tag x).turn = s.turn := rfl
@[simp] theorem State.setPart_free (s : State) (tag : Nat) (x : Part) : (s.setPart tag x).free = s.free := rfl
@[simp] theorem State.setPart_nextId (s : State) (tag : Nat) (x : Part) : (s.setPart tag x).nextId = s.nextId := rfl

@[simp] theorem State.setQueue_now (s : State) (n : Nat) (q : Queue) : (s.setQueue n q).now = s.now := rfl
@[simp] theorem State.setQueue_mode (s : State) (n : Nat) (q : Queue) : (s.setQueue n q).mode = s.mode := rfl
@[simp] theorem State.setQueue_mem (s : State) (n : Nat) (q : Queue) : (s.setQueue n q).mem = s.mem := rfl
@[simp] theorem State.setQueue_poison (s : State) (n : Nat) (q : Queue) : (s.setQueue n q).poison = s.poison := rfl
@[simp] theorem State.setQueue_writes (s : State) (n : Nat) (q : Queue) : (s.setQueue n q).writes = s.writes := rfl
@[simp] theorem State.setQueue_host (s : State) (n : Nat) (q : Queue) : (s.setQueue n q).host = s.host := rfl
@[simp] theorem State.setQueue_fields (s : State) (n : Nat) (q : Queue) : (s.setQueue n q).fields = s.fields := rfl
@[simp] theorem State.setQueue_slices (s : State) (n : Nat) (q : Queue) : (s.setQueue n q).slices = s.slices := rfl
@[simp] theorem State.setQueue_walks (s : State) (n : Nat) (q : Queue) : (s.setQueue n q).walks = s.walks := rfl
@[simp] theorem State.setQueue_reqs (s : State) (n : Nat) (q : Queue) : (s.setQueue n q).reqs = s.reqs := rfl
@[simp] theorem State.setQueue_tiles (s : State) (n : Nat) (q : Queue) : (s.setQueue n q).tiles = s.tiles := rfl
@[simp] theorem State.setQueue_parts (s : State) (n : Nat) (q : Queue) : (s.setQueue n q).parts = s.parts := rfl
@[simp] theorem State.setQueue_queues (s : State) (n : Nat) (q : Queue) : (s.setQueue n q).queues = amSet s.queues n q := rfl
@[simp] theorem State.setQueue_jarlets (s : State) (n : Nat) (q : Queue) : (s.setQueue n q).jarlets = s.jarlets := rfl
@[simp] theorem State.setQueue_links (s : State) (n : Nat) (q : Queue) : (s.setQueue n q).links = s.links := rfl
@[simp] theorem State.setQueue_ks (s : State) (n : Nat) (q : Queue) : (s.setQueue n q).ks = s.ks := rfl
@[simp] theorem State.setQueue_cur (s : State) (n : Nat) (q : Queue) : (s.setQueue n q).cur = s.cur := rfl
@[simp] theorem State.setQueue_inputs (s : State) (n : Nat) (q : Queue) : (s.setQueue n q).inputs = s.inputs := rfl
@[simp] theorem State.setQueue_due (s : State) (n : Nat) (q : Queue) : (s.setQueue n q).due = s.due := rfl
@[simp] theorem State.setQueue_turn (s : State) (n : Nat) (q : Queue) : (s.setQueue n q).turn = s.turn := rfl
@[simp] theorem State.setQueue_free (s : State) (n : Nat) (q : Queue) : (s.setQueue n q).free = s.free := rfl
@[simp] theorem State.setQueue_nextId (s : State) (n : Nat) (q : Queue) : (s.setQueue n q).nextId = s.nextId := rfl

@[simp] theorem State.setSlice_now (s : State) (f i : Nat) (x : Slice) : (s.setSlice f i x).now = s.now := rfl
@[simp] theorem State.setSlice_mode (s : State) (f i : Nat) (x : Slice) : (s.setSlice f i x).mode = s.mode := rfl
@[simp] theorem State.setSlice_mem (s : State) (f i : Nat) (x : Slice) : (s.setSlice f i x).mem = s.mem := rfl
@[simp] theorem State.setSlice_poison (s : State) (f i : Nat) (x : Slice) : (s.setSlice f i x).poison = s.poison := rfl
@[simp] theorem State.setSlice_writes (s : State) (f i : Nat) (x : Slice) : (s.setSlice f i x).writes = s.writes := rfl
@[simp] theorem State.setSlice_host (s : State) (f i : Nat) (x : Slice) : (s.setSlice f i x).host = s.host := rfl
@[simp] theorem State.setSlice_fields (s : State) (f i : Nat) (x : Slice) : (s.setSlice f i x).fields = s.fields := rfl
@[simp] theorem State.setSlice_slices (s : State) (f i : Nat) (x : Slice) : (s.setSlice f i x).slices = amSet s.slices (f * 64 + i) x := rfl
@[simp] theorem State.setSlice_walks (s : State) (f i : Nat) (x : Slice) : (s.setSlice f i x).walks = s.walks := rfl
@[simp] theorem State.setSlice_reqs (s : State) (f i : Nat) (x : Slice) : (s.setSlice f i x).reqs = s.reqs := rfl
@[simp] theorem State.setSlice_tiles (s : State) (f i : Nat) (x : Slice) : (s.setSlice f i x).tiles = s.tiles := rfl
@[simp] theorem State.setSlice_parts (s : State) (f i : Nat) (x : Slice) : (s.setSlice f i x).parts = s.parts := rfl
@[simp] theorem State.setSlice_queues (s : State) (f i : Nat) (x : Slice) : (s.setSlice f i x).queues = s.queues := rfl
@[simp] theorem State.setSlice_jarlets (s : State) (f i : Nat) (x : Slice) : (s.setSlice f i x).jarlets = s.jarlets := rfl
@[simp] theorem State.setSlice_links (s : State) (f i : Nat) (x : Slice) : (s.setSlice f i x).links = s.links := rfl
@[simp] theorem State.setSlice_ks (s : State) (f i : Nat) (x : Slice) : (s.setSlice f i x).ks = s.ks := rfl
@[simp] theorem State.setSlice_cur (s : State) (f i : Nat) (x : Slice) : (s.setSlice f i x).cur = s.cur := rfl
@[simp] theorem State.setSlice_inputs (s : State) (f i : Nat) (x : Slice) : (s.setSlice f i x).inputs = s.inputs := rfl
@[simp] theorem State.setSlice_due (s : State) (f i : Nat) (x : Slice) : (s.setSlice f i x).due = s.due := rfl
@[simp] theorem State.setSlice_turn (s : State) (f i : Nat) (x : Slice) : (s.setSlice f i x).turn = s.turn := rfl
@[simp] theorem State.setSlice_free (s : State) (f i : Nat) (x : Slice) : (s.setSlice f i x).free = s.free := rfl
@[simp] theorem State.setSlice_nextId (s : State) (f i : Nat) (x : Slice) : (s.setSlice f i x).nextId = s.nextId := rfl

@[simp] theorem State.setJarlet_now (s : State) (p : Nat) (x : Jarlet) : (s.setJarlet p x).now = s.now := rfl
@[simp] theorem State.setJarlet_mode (s : State) (p : Nat) (x : Jarlet) : (s.setJarlet p x).mode = s.mode := rfl
@[simp] theorem State.setJarlet_mem (s : State) (p : Nat) (x : Jarlet) : (s.setJarlet p x).mem = s.mem := rfl
@[simp] theorem State.setJarlet_poison (s : State) (p : Nat) (x : Jarlet) : (s.setJarlet p x).poison = s.poison := rfl
@[simp] theorem State.setJarlet_writes (s : State) (p : Nat) (x : Jarlet) : (s.setJarlet p x).writes = s.writes := rfl
@[simp] theorem State.setJarlet_host (s : State) (p : Nat) (x : Jarlet) : (s.setJarlet p x).host = s.host := rfl
@[simp] theorem State.setJarlet_fields (s : State) (p : Nat) (x : Jarlet) : (s.setJarlet p x).fields = s.fields := rfl
@[simp] theorem State.setJarlet_slices (s : State) (p : Nat) (x : Jarlet) : (s.setJarlet p x).slices = s.slices := rfl
@[simp] theorem State.setJarlet_walks (s : State) (p : Nat) (x : Jarlet) : (s.setJarlet p x).walks = s.walks := rfl
@[simp] theorem State.setJarlet_reqs (s : State) (p : Nat) (x : Jarlet) : (s.setJarlet p x).reqs = s.reqs := rfl
@[simp] theorem State.setJarlet_tiles (s : State) (p : Nat) (x : Jarlet) : (s.setJarlet p x).tiles = s.tiles := rfl
@[simp] theorem State.setJarlet_parts (s : State) (p : Nat) (x : Jarlet) : (s.setJarlet p x).parts = s.parts := rfl
@[simp] theorem State.setJarlet_queues (s : State) (p : Nat) (x : Jarlet) : (s.setJarlet p x).queues = s.queues := rfl
@[simp] theorem State.setJarlet_jarlets (s : State) (p : Nat) (x : Jarlet) : (s.setJarlet p x).jarlets = amSet s.jarlets p x := rfl
@[simp] theorem State.setJarlet_links (s : State) (p : Nat) (x : Jarlet) : (s.setJarlet p x).links = s.links := rfl
@[simp] theorem State.setJarlet_ks (s : State) (p : Nat) (x : Jarlet) : (s.setJarlet p x).ks = s.ks := rfl
@[simp] theorem State.setJarlet_cur (s : State) (p : Nat) (x : Jarlet) : (s.setJarlet p x).cur = s.cur := rfl
@[simp] theorem State.setJarlet_inputs (s : State) (p : Nat) (x : Jarlet) : (s.setJarlet p x).inputs = s.inputs := rfl
@[simp] theorem State.setJarlet_due (s : State) (p : Nat) (x : Jarlet) : (s.setJarlet p x).due = s.due := rfl
@[simp] theorem State.setJarlet_turn (s : State) (p : Nat) (x : Jarlet) : (s.setJarlet p x).turn = s.turn := rfl
@[simp] theorem State.setJarlet_free (s : State) (p : Nat) (x : Jarlet) : (s.setJarlet p x).free = s.free := rfl
@[simp] theorem State.setJarlet_nextId (s : State) (p : Nat) (x : Jarlet) : (s.setJarlet p x).nextId = s.nextId := rfl

@[simp] theorem State.setLink_now (s : State) (h : Nat) (x : HostLink) : (s.setLink h x).now = s.now := rfl
@[simp] theorem State.setLink_mode (s : State) (h : Nat) (x : HostLink) : (s.setLink h x).mode = s.mode := rfl
@[simp] theorem State.setLink_mem (s : State) (h : Nat) (x : HostLink) : (s.setLink h x).mem = s.mem := rfl
@[simp] theorem State.setLink_poison (s : State) (h : Nat) (x : HostLink) : (s.setLink h x).poison = s.poison := rfl
@[simp] theorem State.setLink_writes (s : State) (h : Nat) (x : HostLink) : (s.setLink h x).writes = s.writes := rfl
@[simp] theorem State.setLink_host (s : State) (h : Nat) (x : HostLink) : (s.setLink h x).host = s.host := rfl
@[simp] theorem State.setLink_fields (s : State) (h : Nat) (x : HostLink) : (s.setLink h x).fields = s.fields := rfl
@[simp] theorem State.setLink_slices (s : State) (h : Nat) (x : HostLink) : (s.setLink h x).slices = s.slices := rfl
@[simp] theorem State.setLink_walks (s : State) (h : Nat) (x : HostLink) : (s.setLink h x).walks = s.walks := rfl
@[simp] theorem State.setLink_reqs (s : State) (h : Nat) (x : HostLink) : (s.setLink h x).reqs = s.reqs := rfl
@[simp] theorem State.setLink_tiles (s : State) (h : Nat) (x : HostLink) : (s.setLink h x).tiles = s.tiles := rfl
@[simp] theorem State.setLink_parts (s : State) (h : Nat) (x : HostLink) : (s.setLink h x).parts = s.parts := rfl
@[simp] theorem State.setLink_queues (s : State) (h : Nat) (x : HostLink) : (s.setLink h x).queues = s.queues := rfl
@[simp] theorem State.setLink_jarlets (s : State) (h : Nat) (x : HostLink) : (s.setLink h x).jarlets = s.jarlets := rfl
@[simp] theorem State.setLink_links (s : State) (h : Nat) (x : HostLink) : (s.setLink h x).links = amSet s.links h x := rfl
@[simp] theorem State.setLink_ks (s : State) (h : Nat) (x : HostLink) : (s.setLink h x).ks = s.ks := rfl
@[simp] theorem State.setLink_cur (s : State) (h : Nat) (x : HostLink) : (s.setLink h x).cur = s.cur := rfl
@[simp] theorem State.setLink_inputs (s : State) (h : Nat) (x : HostLink) : (s.setLink h x).inputs = s.inputs := rfl
@[simp] theorem State.setLink_due (s : State) (h : Nat) (x : HostLink) : (s.setLink h x).due = s.due := rfl
@[simp] theorem State.setLink_turn (s : State) (h : Nat) (x : HostLink) : (s.setLink h x).turn = s.turn := rfl
@[simp] theorem State.setLink_free (s : State) (h : Nat) (x : HostLink) : (s.setLink h x).free = s.free := rfl
@[simp] theorem State.setLink_nextId (s : State) (h : Nat) (x : HostLink) : (s.setLink h x).nextId = s.nextId := rfl

@[simp] theorem State.setReq_now (s : State) (r : Nat) (x : Req) : (s.setReq r x).now = s.now := rfl
@[simp] theorem State.setReq_mode (s : State) (r : Nat) (x : Req) : (s.setReq r x).mode = s.mode := rfl
@[simp] theorem State.setReq_mem (s : State) (r : Nat) (x : Req) : (s.setReq r x).mem = s.mem := rfl
@[simp] theorem State.setReq_poison (s : State) (r : Nat) (x : Req) : (s.setReq r x).poison = s.poison := rfl
@[simp] theorem State.setReq_writes (s : State) (r : Nat) (x : Req) : (s.setReq r x).writes = s.writes := rfl
@[simp] theorem State.setReq_host (s : State) (r : Nat) (x : Req) : (s.setReq r x).host = s.host := rfl
@[simp] theorem State.setReq_fields (s : State) (r : Nat) (x : Req) : (s.setReq r x).fields = s.fields := rfl
@[simp] theorem State.setReq_slices (s : State) (r : Nat) (x : Req) : (s.setReq r x).slices = s.slices := rfl
@[simp] theorem State.setReq_walks (s : State) (r : Nat) (x : Req) : (s.setReq r x).walks = s.walks := rfl
@[simp] theorem State.setReq_reqs (s : State) (r : Nat) (x : Req) : (s.setReq r x).reqs = amSet s.reqs r x := rfl
@[simp] theorem State.setReq_tiles (s : State) (r : Nat) (x : Req) : (s.setReq r x).tiles = s.tiles := rfl
@[simp] theorem State.setReq_parts (s : State) (r : Nat) (x : Req) : (s.setReq r x).parts = s.parts := rfl
@[simp] theorem State.setReq_queues (s : State) (r : Nat) (x : Req) : (s.setReq r x).queues = s.queues := rfl
@[simp] theorem State.setReq_jarlets (s : State) (r : Nat) (x : Req) : (s.setReq r x).jarlets = s.jarlets := rfl
@[simp] theorem State.setReq_links (s : State) (r : Nat) (x : Req) : (s.setReq r x).links = s.links := rfl
@[simp] theorem State.setReq_ks (s : State) (r : Nat) (x : Req) : (s.setReq r x).ks = s.ks := rfl
@[simp] theorem State.setReq_cur (s : State) (r : Nat) (x : Req) : (s.setReq r x).cur = s.cur := rfl
@[simp] theorem State.setReq_inputs (s : State) (r : Nat) (x : Req) : (s.setReq r x).inputs = s.inputs := rfl
@[simp] theorem State.setReq_due (s : State) (r : Nat) (x : Req) : (s.setReq r x).due = s.due := rfl
@[simp] theorem State.setReq_turn (s : State) (r : Nat) (x : Req) : (s.setReq r x).turn = s.turn := rfl
@[simp] theorem State.setReq_free (s : State) (r : Nat) (x : Req) : (s.setReq r x).free = s.free := rfl
@[simp] theorem State.setReq_nextId (s : State) (r : Nat) (x : Req) : (s.setReq r x).nextId = s.nextId := rfl

@[simp] theorem State.delReq_now (s : State) (r : Nat) : (s.delReq r).now = s.now := rfl
@[simp] theorem State.delReq_mode (s : State) (r : Nat) : (s.delReq r).mode = s.mode := rfl
@[simp] theorem State.delReq_mem (s : State) (r : Nat) : (s.delReq r).mem = s.mem := rfl
@[simp] theorem State.delReq_poison (s : State) (r : Nat) : (s.delReq r).poison = s.poison := rfl
@[simp] theorem State.delReq_writes (s : State) (r : Nat) : (s.delReq r).writes = s.writes := rfl
@[simp] theorem State.delReq_host (s : State) (r : Nat) : (s.delReq r).host = s.host := rfl
@[simp] theorem State.delReq_fields (s : State) (r : Nat) : (s.delReq r).fields = s.fields := rfl
@[simp] theorem State.delReq_slices (s : State) (r : Nat) : (s.delReq r).slices = s.slices := rfl
@[simp] theorem State.delReq_walks (s : State) (r : Nat) : (s.delReq r).walks = s.walks := rfl
@[simp] theorem State.delReq_reqs (s : State) (r : Nat) : (s.delReq r).reqs = amDel s.reqs r := rfl
@[simp] theorem State.delReq_tiles (s : State) (r : Nat) : (s.delReq r).tiles = s.tiles := rfl
@[simp] theorem State.delReq_parts (s : State) (r : Nat) : (s.delReq r).parts = s.parts := rfl
@[simp] theorem State.delReq_queues (s : State) (r : Nat) : (s.delReq r).queues = s.queues := rfl
@[simp] theorem State.delReq_jarlets (s : State) (r : Nat) : (s.delReq r).jarlets = s.jarlets := rfl
@[simp] theorem State.delReq_links (s : State) (r : Nat) : (s.delReq r).links = s.links := rfl
@[simp] theorem State.delReq_ks (s : State) (r : Nat) : (s.delReq r).ks = s.ks := rfl
@[simp] theorem State.delReq_cur (s : State) (r : Nat) : (s.delReq r).cur = s.cur := rfl
@[simp] theorem State.delReq_inputs (s : State) (r : Nat) : (s.delReq r).inputs = s.inputs := rfl
@[simp] theorem State.delReq_due (s : State) (r : Nat) : (s.delReq r).due = s.due := rfl
@[simp] theorem State.delReq_turn (s : State) (r : Nat) : (s.delReq r).turn = s.turn := rfl
@[simp] theorem State.delReq_free (s : State) (r : Nat) : (s.delReq r).free = s.free := rfl
@[simp] theorem State.delReq_nextId (s : State) (r : Nat) : (s.delReq r).nextId = s.nextId := rfl

@[simp] theorem State.modKs_now (s : State) (f : Keystone → Keystone) : (s.modKs f).now = s.now := rfl
@[simp] theorem State.modKs_mode (s : State) (f : Keystone → Keystone) : (s.modKs f).mode = s.mode := rfl
@[simp] theorem State.modKs_mem (s : State) (f : Keystone → Keystone) : (s.modKs f).mem = s.mem := rfl
@[simp] theorem State.modKs_poison (s : State) (f : Keystone → Keystone) : (s.modKs f).poison = s.poison := rfl
@[simp] theorem State.modKs_writes (s : State) (f : Keystone → Keystone) : (s.modKs f).writes = s.writes := rfl
@[simp] theorem State.modKs_host (s : State) (f : Keystone → Keystone) : (s.modKs f).host = s.host := rfl
@[simp] theorem State.modKs_fields (s : State) (f : Keystone → Keystone) : (s.modKs f).fields = s.fields := rfl
@[simp] theorem State.modKs_slices (s : State) (f : Keystone → Keystone) : (s.modKs f).slices = s.slices := rfl
@[simp] theorem State.modKs_walks (s : State) (f : Keystone → Keystone) : (s.modKs f).walks = s.walks := rfl
@[simp] theorem State.modKs_reqs (s : State) (f : Keystone → Keystone) : (s.modKs f).reqs = s.reqs := rfl
@[simp] theorem State.modKs_tiles (s : State) (f : Keystone → Keystone) : (s.modKs f).tiles = s.tiles := rfl
@[simp] theorem State.modKs_parts (s : State) (f : Keystone → Keystone) : (s.modKs f).parts = s.parts := rfl
@[simp] theorem State.modKs_queues (s : State) (f : Keystone → Keystone) : (s.modKs f).queues = s.queues := rfl
@[simp] theorem State.modKs_jarlets (s : State) (f : Keystone → Keystone) : (s.modKs f).jarlets = s.jarlets := rfl
@[simp] theorem State.modKs_links (s : State) (f : Keystone → Keystone) : (s.modKs f).links = s.links := rfl
@[simp] theorem State.modKs_ks (s : State) (f : Keystone → Keystone) : (s.modKs f).ks = f s.ks := rfl
@[simp] theorem State.modKs_cur (s : State) (f : Keystone → Keystone) : (s.modKs f).cur = s.cur := rfl
@[simp] theorem State.modKs_inputs (s : State) (f : Keystone → Keystone) : (s.modKs f).inputs = s.inputs := rfl
@[simp] theorem State.modKs_due (s : State) (f : Keystone → Keystone) : (s.modKs f).due = s.due := rfl
@[simp] theorem State.modKs_turn (s : State) (f : Keystone → Keystone) : (s.modKs f).turn = s.turn := rfl
@[simp] theorem State.modKs_free (s : State) (f : Keystone → Keystone) : (s.modKs f).free = s.free := rfl
@[simp] theorem State.modKs_nextId (s : State) (f : Keystone → Keystone) : (s.modKs f).nextId = s.nextId := rfl

@[simp] theorem State.push_now (s : State) (l : List Instr) : (s.push l).now = s.now := rfl
@[simp] theorem State.push_mode (s : State) (l : List Instr) : (s.push l).mode = s.mode := rfl
@[simp] theorem State.push_mem (s : State) (l : List Instr) : (s.push l).mem = s.mem := rfl
@[simp] theorem State.push_poison (s : State) (l : List Instr) : (s.push l).poison = s.poison := rfl
@[simp] theorem State.push_writes (s : State) (l : List Instr) : (s.push l).writes = s.writes := rfl
@[simp] theorem State.push_host (s : State) (l : List Instr) : (s.push l).host = s.host := rfl
@[simp] theorem State.push_fields (s : State) (l : List Instr) : (s.push l).fields = s.fields := rfl
@[simp] theorem State.push_slices (s : State) (l : List Instr) : (s.push l).slices = s.slices := rfl
@[simp] theorem State.push_walks (s : State) (l : List Instr) : (s.push l).walks = s.walks := rfl
@[simp] theorem State.push_reqs (s : State) (l : List Instr) : (s.push l).reqs = s.reqs := rfl
@[simp] theorem State.push_tiles (s : State) (l : List Instr) : (s.push l).tiles = s.tiles := rfl
@[simp] theorem State.push_parts (s : State) (l : List Instr) : (s.push l).parts = s.parts := rfl
@[simp] theorem State.push_queues (s : State) (l : List Instr) : (s.push l).queues = s.queues := rfl
@[simp] theorem State.push_jarlets (s : State) (l : List Instr) : (s.push l).jarlets = s.jarlets := rfl
@[simp] theorem State.push_links (s : State) (l : List Instr) : (s.push l).links = s.links := rfl
@[simp] theorem State.push_ks (s : State) (l : List Instr) : (s.push l).ks = s.ks := rfl
@[simp] theorem State.push_cur (s : State) (l : List Instr) : (s.push l).cur = s.cur := rfl
@[simp] theorem State.push_inputs (s : State) (l : List Instr) : (s.push l).inputs = s.inputs := rfl
@[simp] theorem State.push_turn (s : State) (l : List Instr) : (s.push l).turn = s.turn := rfl
@[simp] theorem State.push_free (s : State) (l : List Instr) : (s.push l).free = s.free := rfl
@[simp] theorem State.push_nextId (s : State) (l : List Instr) : (s.push l).nextId = s.nextId := rfl

@[simp] theorem State.pushAt_now (s : State) (t g : Nat) (i : Instr) : (s.pushAt t g i).now = s.now := rfl
@[simp] theorem State.pushAt_mode (s : State) (t g : Nat) (i : Instr) : (s.pushAt t g i).mode = s.mode := rfl
@[simp] theorem State.pushAt_mem (s : State) (t g : Nat) (i : Instr) : (s.pushAt t g i).mem = s.mem := rfl
@[simp] theorem State.pushAt_poison (s : State) (t g : Nat) (i : Instr) : (s.pushAt t g i).poison = s.poison := rfl
@[simp] theorem State.pushAt_writes (s : State) (t g : Nat) (i : Instr) : (s.pushAt t g i).writes = s.writes := rfl
@[simp] theorem State.pushAt_host (s : State) (t g : Nat) (i : Instr) : (s.pushAt t g i).host = s.host := rfl
@[simp] theorem State.pushAt_fields (s : State) (t g : Nat) (i : Instr) : (s.pushAt t g i).fields = s.fields := rfl
@[simp] theorem State.pushAt_slices (s : State) (t g : Nat) (i : Instr) : (s.pushAt t g i).slices = s.slices := rfl
@[simp] theorem State.pushAt_walks (s : State) (t g : Nat) (i : Instr) : (s.pushAt t g i).walks = s.walks := rfl
@[simp] theorem State.pushAt_reqs (s : State) (t g : Nat) (i : Instr) : (s.pushAt t g i).reqs = s.reqs := rfl
@[simp] theorem State.pushAt_tiles (s : State) (t g : Nat) (i : Instr) : (s.pushAt t g i).tiles = s.tiles := rfl
@[simp] theorem State.pushAt_parts (s : State) (t g : Nat) (i : Instr) : (s.pushAt t g i).parts = s.parts := rfl
@[simp] theorem State.pushAt_queues (s : State) (t g : Nat) (i : Instr) : (s.pushAt t g i).queues = s.queues := rfl
@[simp] theorem State.pushAt_jarlets (s : State) (t g : Nat) (i : Instr) : (s.pushAt t g i).jarlets = s.jarlets := rfl
@[simp] theorem State.pushAt_links (s : State) (t g : Nat) (i : Instr) : (s.pushAt t g i).links = s.links := rfl
@[simp] theorem State.pushAt_ks (s : State) (t g : Nat) (i : Instr) : (s.pushAt t g i).ks = s.ks := rfl
@[simp] theorem State.pushAt_cur (s : State) (t g : Nat) (i : Instr) : (s.pushAt t g i).cur = s.cur := rfl
@[simp] theorem State.pushAt_inputs (s : State) (t g : Nat) (i : Instr) : (s.pushAt t g i).inputs = s.inputs := rfl
@[simp] theorem State.pushAt_turn (s : State) (t g : Nat) (i : Instr) : (s.pushAt t g i).turn = s.turn := rfl
@[simp] theorem State.pushAt_free (s : State) (t g : Nat) (i : Instr) : (s.pushAt t g i).free = s.free := rfl
@[simp] theorem State.pushAt_nextId (s : State) (t g : Nat) (i : Instr) : (s.pushAt t g i).nextId = s.nextId := rfl

@[simp] theorem State.drawn_now (s : State) : (s.drawn).now = s.now := rfl
@[simp] theorem State.drawn_mode (s : State) : (s.drawn).mode = s.mode := rfl
@[simp] theorem State.drawn_mem (s : State) : (s.drawn).mem = s.mem := rfl
@[simp] theorem State.drawn_poison (s : State) : (s.drawn).poison = s.poison := rfl
@[simp] theorem State.drawn_writes (s : State) : (s.drawn).writes = s.writes := rfl
@[simp] theorem State.drawn_host (s : State) : (s.drawn).host = s.host := rfl
@[simp] theorem State.drawn_fields (s : State) : (s.drawn).fields = s.fields := rfl
@[simp] theorem State.drawn_slices (s : State) : (s.drawn).slices = s.slices := rfl
@[simp] theorem State.drawn_walks (s : State) : (s.drawn).walks = s.walks := rfl
@[simp] theorem State.drawn_reqs (s : State) : (s.drawn).reqs = s.reqs := rfl
@[simp] theorem State.drawn_tiles (s : State) : (s.drawn).tiles = s.tiles := rfl
@[simp] theorem State.drawn_parts (s : State) : (s.drawn).parts = s.parts := rfl
@[simp] theorem State.drawn_queues (s : State) : (s.drawn).queues = s.queues := rfl
@[simp] theorem State.drawn_jarlets (s : State) : (s.drawn).jarlets = s.jarlets := rfl
@[simp] theorem State.drawn_links (s : State) : (s.drawn).links = s.links := rfl
@[simp] theorem State.drawn_ks (s : State) : (s.drawn).ks = s.ks := rfl
@[simp] theorem State.drawn_cur (s : State) : (s.drawn).cur = s.cur := rfl
@[simp] theorem State.drawn_inputs (s : State) : (s.drawn).inputs = s.inputs := rfl
@[simp] theorem State.drawn_due (s : State) : (s.drawn).due = s.due := rfl
@[simp] theorem State.drawn_turn (s : State) : (s.drawn).turn = s.turn := rfl
@[simp] theorem State.drawn_free (s : State) : (s.drawn).free = s.free + 1 := rfl
@[simp] theorem State.drawn_nextId (s : State) : (s.drawn).nextId = s.nextId := rfl

@[simp] theorem State.fresh_now (s : State) : (s.fresh).now = s.now := rfl
@[simp] theorem State.fresh_mode (s : State) : (s.fresh).mode = s.mode := rfl
@[simp] theorem State.fresh_mem (s : State) : (s.fresh).mem = s.mem := rfl
@[simp] theorem State.fresh_poison (s : State) : (s.fresh).poison = s.poison := rfl
@[simp] theorem State.fresh_writes (s : State) : (s.fresh).writes = s.writes := rfl
@[simp] theorem State.fresh_host (s : State) : (s.fresh).host = s.host := rfl
@[simp] theorem State.fresh_fields (s : State) : (s.fresh).fields = s.fields := rfl
@[simp] theorem State.fresh_slices (s : State) : (s.fresh).slices = s.slices := rfl
@[simp] theorem State.fresh_walks (s : State) : (s.fresh).walks = s.walks := rfl
@[simp] theorem State.fresh_reqs (s : State) : (s.fresh).reqs = s.reqs := rfl
@[simp] theorem State.fresh_tiles (s : State) : (s.fresh).tiles = s.tiles := rfl
@[simp] theorem State.fresh_parts (s : State) : (s.fresh).parts = s.parts := rfl
@[simp] theorem State.fresh_queues (s : State) : (s.fresh).queues = s.queues := rfl
@[simp] theorem State.fresh_jarlets (s : State) : (s.fresh).jarlets = s.jarlets := rfl
@[simp] theorem State.fresh_links (s : State) : (s.fresh).links = s.links := rfl
@[simp] theorem State.fresh_ks (s : State) : (s.fresh).ks = s.ks := rfl
@[simp] theorem State.fresh_cur (s : State) : (s.fresh).cur = s.cur := rfl
@[simp] theorem State.fresh_inputs (s : State) : (s.fresh).inputs = s.inputs := rfl
@[simp] theorem State.fresh_due (s : State) : (s.fresh).due = s.due := rfl
@[simp] theorem State.fresh_turn (s : State) : (s.fresh).turn = s.turn := rfl
@[simp] theorem State.fresh_free (s : State) : (s.fresh).free = s.free := rfl
@[simp] theorem State.fresh_nextId (s : State) : (s.fresh).nextId = s.nextId + 1 := rfl

@[simp] theorem State.setMem_now (s : State) (m : List Host.Cell) : (s.setMem m).now = s.now := rfl
@[simp] theorem State.setMem_mode (s : State) (m : List Host.Cell) : (s.setMem m).mode = s.mode := rfl
@[simp] theorem State.setMem_mem (s : State) (m : List Host.Cell) : (s.setMem m).mem = m := rfl
@[simp] theorem State.setMem_poison (s : State) (m : List Host.Cell) : (s.setMem m).poison = s.poison := rfl
@[simp] theorem State.setMem_writes (s : State) (m : List Host.Cell) : (s.setMem m).writes = s.writes := rfl
@[simp] theorem State.setMem_host (s : State) (m : List Host.Cell) : (s.setMem m).host = s.host := rfl
@[simp] theorem State.setMem_fields (s : State) (m : List Host.Cell) : (s.setMem m).fields = s.fields := rfl
@[simp] theorem State.setMem_slices (s : State) (m : List Host.Cell) : (s.setMem m).slices = s.slices := rfl
@[simp] theorem State.setMem_walks (s : State) (m : List Host.Cell) : (s.setMem m).walks = s.walks := rfl
@[simp] theorem State.setMem_reqs (s : State) (m : List Host.Cell) : (s.setMem m).reqs = s.reqs := rfl
@[simp] theorem State.setMem_tiles (s : State) (m : List Host.Cell) : (s.setMem m).tiles = s.tiles := rfl
@[simp] theorem State.setMem_parts (s : State) (m : List Host.Cell) : (s.setMem m).parts = s.parts := rfl
@[simp] theorem State.setMem_queues (s : State) (m : List Host.Cell) : (s.setMem m).queues = s.queues := rfl
@[simp] theorem State.setMem_jarlets (s : State) (m : List Host.Cell) : (s.setMem m).jarlets = s.jarlets := rfl
@[simp] theorem State.setMem_links (s : State) (m : List Host.Cell) : (s.setMem m).links = s.links := rfl
@[simp] theorem State.setMem_ks (s : State) (m : List Host.Cell) : (s.setMem m).ks = s.ks := rfl
@[simp] theorem State.setMem_cur (s : State) (m : List Host.Cell) : (s.setMem m).cur = s.cur := rfl
@[simp] theorem State.setMem_inputs (s : State) (m : List Host.Cell) : (s.setMem m).inputs = s.inputs := rfl
@[simp] theorem State.setMem_due (s : State) (m : List Host.Cell) : (s.setMem m).due = s.due := rfl
@[simp] theorem State.setMem_turn (s : State) (m : List Host.Cell) : (s.setMem m).turn = s.turn := rfl
@[simp] theorem State.setMem_free (s : State) (m : List Host.Cell) : (s.setMem m).free = s.free := rfl
@[simp] theorem State.setMem_nextId (s : State) (m : List Host.Cell) : (s.setMem m).nextId = s.nextId := rfl

@[simp] theorem State.setHost_now (s : State) (m : List Host.Cell) : (s.setHost m).now = s.now := rfl
@[simp] theorem State.setHost_mode (s : State) (m : List Host.Cell) : (s.setHost m).mode = s.mode := rfl
@[simp] theorem State.setHost_mem (s : State) (m : List Host.Cell) : (s.setHost m).mem = s.mem := rfl
@[simp] theorem State.setHost_poison (s : State) (m : List Host.Cell) : (s.setHost m).poison = s.poison := rfl
@[simp] theorem State.setHost_writes (s : State) (m : List Host.Cell) : (s.setHost m).writes = s.writes := rfl
@[simp] theorem State.setHost_host (s : State) (m : List Host.Cell) : (s.setHost m).host = m := rfl
@[simp] theorem State.setHost_fields (s : State) (m : List Host.Cell) : (s.setHost m).fields = s.fields := rfl
@[simp] theorem State.setHost_slices (s : State) (m : List Host.Cell) : (s.setHost m).slices = s.slices := rfl
@[simp] theorem State.setHost_walks (s : State) (m : List Host.Cell) : (s.setHost m).walks = s.walks := rfl
@[simp] theorem State.setHost_reqs (s : State) (m : List Host.Cell) : (s.setHost m).reqs = s.reqs := rfl
@[simp] theorem State.setHost_tiles (s : State) (m : List Host.Cell) : (s.setHost m).tiles = s.tiles := rfl
@[simp] theorem State.setHost_parts (s : State) (m : List Host.Cell) : (s.setHost m).parts = s.parts := rfl
@[simp] theorem State.setHost_queues (s : State) (m : List Host.Cell) : (s.setHost m).queues = s.queues := rfl
@[simp] theorem State.setHost_jarlets (s : State) (m : List Host.Cell) : (s.setHost m).jarlets = s.jarlets := rfl
@[simp] theorem State.setHost_links (s : State) (m : List Host.Cell) : (s.setHost m).links = s.links := rfl
@[simp] theorem State.setHost_ks (s : State) (m : List Host.Cell) : (s.setHost m).ks = s.ks := rfl
@[simp] theorem State.setHost_cur (s : State) (m : List Host.Cell) : (s.setHost m).cur = s.cur := rfl
@[simp] theorem State.setHost_inputs (s : State) (m : List Host.Cell) : (s.setHost m).inputs = s.inputs := rfl
@[simp] theorem State.setHost_due (s : State) (m : List Host.Cell) : (s.setHost m).due = s.due := rfl
@[simp] theorem State.setHost_turn (s : State) (m : List Host.Cell) : (s.setHost m).turn = s.turn := rfl
@[simp] theorem State.setHost_free (s : State) (m : List Host.Cell) : (s.setHost m).free = s.free := rfl
@[simp] theorem State.setHost_nextId (s : State) (m : List Host.Cell) : (s.setHost m).nextId = s.nextId := rfl

@[simp] theorem State.modTile_now (s : State) (t : Nat) (f : Tile → Tile) : (s.modTile t f).now = s.now := rfl
@[simp] theorem State.modTile_mode (s : State) (t : Nat) (f : Tile → Tile) : (s.modTile t f).mode = s.mode := rfl
@[simp] theorem State.modTile_mem (s : State) (t : Nat) (f : Tile → Tile) : (s.modTile t f).mem = s.mem := rfl
@[simp] theorem State.modTile_poison (s : State) (t : Nat) (f : Tile → Tile) : (s.modTile t f).poison = s.poison := rfl
@[simp] theorem State.modTile_writes (s : State) (t : Nat) (f : Tile → Tile) : (s.modTile t f).writes = s.writes := rfl
@[simp] theorem State.modTile_host (s : State) (t : Nat) (f : Tile → Tile) : (s.modTile t f).host = s.host := rfl
@[simp] theorem State.modTile_fields (s : State) (t : Nat) (f : Tile → Tile) : (s.modTile t f).fields = s.fields := rfl
@[simp] theorem State.modTile_slices (s : State) (t : Nat) (f : Tile → Tile) : (s.modTile t f).slices = s.slices := rfl
@[simp] theorem State.modTile_walks (s : State) (t : Nat) (f : Tile → Tile) : (s.modTile t f).walks = s.walks := rfl
@[simp] theorem State.modTile_reqs (s : State) (t : Nat) (f : Tile → Tile) : (s.modTile t f).reqs = s.reqs := rfl
@[simp] theorem State.modTile_parts (s : State) (t : Nat) (f : Tile → Tile) : (s.modTile t f).parts = s.parts := rfl
@[simp] theorem State.modTile_queues (s : State) (t : Nat) (f : Tile → Tile) : (s.modTile t f).queues = s.queues := rfl
@[simp] theorem State.modTile_jarlets (s : State) (t : Nat) (f : Tile → Tile) : (s.modTile t f).jarlets = s.jarlets := rfl
@[simp] theorem State.modTile_links (s : State) (t : Nat) (f : Tile → Tile) : (s.modTile t f).links = s.links := rfl
@[simp] theorem State.modTile_ks (s : State) (t : Nat) (f : Tile → Tile) : (s.modTile t f).ks = s.ks := rfl
@[simp] theorem State.modTile_cur (s : State) (t : Nat) (f : Tile → Tile) : (s.modTile t f).cur = s.cur := rfl
@[simp] theorem State.modTile_inputs (s : State) (t : Nat) (f : Tile → Tile) : (s.modTile t f).inputs = s.inputs := rfl
@[simp] theorem State.modTile_due (s : State) (t : Nat) (f : Tile → Tile) : (s.modTile t f).due = s.due := rfl
@[simp] theorem State.modTile_turn (s : State) (t : Nat) (f : Tile → Tile) : (s.modTile t f).turn = s.turn := rfl
@[simp] theorem State.modTile_free (s : State) (t : Nat) (f : Tile → Tile) : (s.modTile t f).free = s.free := rfl
@[simp] theorem State.modTile_nextId (s : State) (t : Nat) (f : Tile → Tile) : (s.modTile t f).nextId = s.nextId := rfl

@[simp] theorem State.modGroup_now (s : State) (t g : Nat) (f : Group → Group) : (s.modGroup t g f).now = s.now := rfl
@[simp] theorem State.modGroup_mode (s : State) (t g : Nat) (f : Group → Group) : (s.modGroup t g f).mode = s.mode := rfl
@[simp] theorem State.modGroup_mem (s : State) (t g : Nat) (f : Group → Group) : (s.modGroup t g f).mem = s.mem := rfl
@[simp] theorem State.modGroup_poison (s : State) (t g : Nat) (f : Group → Group) : (s.modGroup t g f).poison = s.poison := rfl
@[simp] theorem State.modGroup_writes (s : State) (t g : Nat) (f : Group → Group) : (s.modGroup t g f).writes = s.writes := rfl
@[simp] theorem State.modGroup_host (s : State) (t g : Nat) (f : Group → Group) : (s.modGroup t g f).host = s.host := rfl
@[simp] theorem State.modGroup_fields (s : State) (t g : Nat) (f : Group → Group) : (s.modGroup t g f).fields = s.fields := rfl
@[simp] theorem State.modGroup_slices (s : State) (t g : Nat) (f : Group → Group) : (s.modGroup t g f).slices = s.slices := rfl
@[simp] theorem State.modGroup_walks (s : State) (t g : Nat) (f : Group → Group) : (s.modGroup t g f).walks = s.walks := rfl
@[simp] theorem State.modGroup_reqs (s : State) (t g : Nat) (f : Group → Group) : (s.modGroup t g f).reqs = s.reqs := rfl
@[simp] theorem State.modGroup_parts (s : State) (t g : Nat) (f : Group → Group) : (s.modGroup t g f).parts = s.parts := rfl
@[simp] theorem State.modGroup_queues (s : State) (t g : Nat) (f : Group → Group) : (s.modGroup t g f).queues = s.queues := rfl
@[simp] theorem State.modGroup_jarlets (s : State) (t g : Nat) (f : Group → Group) : (s.modGroup t g f).jarlets = s.jarlets := rfl
@[simp] theorem State.modGroup_links (s : State) (t g : Nat) (f : Group → Group) : (s.modGroup t g f).links = s.links := rfl
@[simp] theorem State.modGroup_ks (s : State) (t g : Nat) (f : Group → Group) : (s.modGroup t g f).ks = s.ks := rfl
@[simp] theorem State.modGroup_cur (s : State) (t g : Nat) (f : Group → Group) : (s.modGroup t g f).cur = s.cur := rfl
@[simp] theorem State.modGroup_inputs (s : State) (t g : Nat) (f : Group → Group) : (s.modGroup t g f).inputs = s.inputs := rfl
@[simp] theorem State.modGroup_due (s : State) (t g : Nat) (f : Group → Group) : (s.modGroup t g f).due = s.due := rfl
@[simp] theorem State.modGroup_turn (s : State) (t g : Nat) (f : Group → Group) : (s.modGroup t g f).turn = s.turn := rfl
@[simp] theorem State.modGroup_free (s : State) (t g : Nat) (f : Group → Group) : (s.modGroup t g f).free = s.free := rfl
@[simp] theorem State.modGroup_nextId (s : State) (t g : Nat) (f : Group → Group) : (s.modGroup t g f).nextId = s.nextId := rfl

@[simp] theorem State.setG_now (s : State) (g : Group) : (s.setG g).now = s.now := rfl
@[simp] theorem State.setG_mode (s : State) (g : Group) : (s.setG g).mode = s.mode := rfl
@[simp] theorem State.setG_mem (s : State) (g : Group) : (s.setG g).mem = s.mem := rfl
@[simp] theorem State.setG_poison (s : State) (g : Group) : (s.setG g).poison = s.poison := rfl
@[simp] theorem State.setG_writes (s : State) (g : Group) : (s.setG g).writes = s.writes := rfl
@[simp] theorem State.setG_host (s : State) (g : Group) : (s.setG g).host = s.host := rfl
@[simp] theorem State.setG_fields (s : State) (g : Group) : (s.setG g).fields = s.fields := rfl
@[simp] theorem State.setG_slices (s : State) (g : Group) : (s.setG g).slices = s.slices := rfl
@[simp] theorem State.setG_walks (s : State) (g : Group) : (s.setG g).walks = s.walks := rfl
@[simp] theorem State.setG_reqs (s : State) (g : Group) : (s.setG g).reqs = s.reqs := rfl
@[simp] theorem State.setG_parts (s : State) (g : Group) : (s.setG g).parts = s.parts := rfl
@[simp] theorem State.setG_queues (s : State) (g : Group) : (s.setG g).queues = s.queues := rfl
@[simp] theorem State.setG_jarlets (s : State) (g : Group) : (s.setG g).jarlets = s.jarlets := rfl
@[simp] theorem State.setG_links (s : State) (g : Group) : (s.setG g).links = s.links := rfl
@[simp] theorem State.setG_ks (s : State) (g : Group) : (s.setG g).ks = s.ks := rfl
@[simp] theorem State.setG_cur (s : State) (g : Group) : (s.setG g).cur = s.cur := rfl
@[simp] theorem State.setG_inputs (s : State) (g : Group) : (s.setG g).inputs = s.inputs := rfl
@[simp] theorem State.setG_due (s : State) (g : Group) : (s.setG g).due = s.due := rfl
@[simp] theorem State.setG_turn (s : State) (g : Group) : (s.setG g).turn = s.turn := rfl
@[simp] theorem State.setG_free (s : State) (g : Group) : (s.setG g).free = s.free := rfl
@[simp] theorem State.setG_nextId (s : State) (g : Group) : (s.setG g).nextId = s.nextId := rfl

@[simp] theorem State.modG_now (s : State) (f : Group → Group) : (s.modG f).now = s.now := rfl
@[simp] theorem State.modG_mode (s : State) (f : Group → Group) : (s.modG f).mode = s.mode := rfl
@[simp] theorem State.modG_mem (s : State) (f : Group → Group) : (s.modG f).mem = s.mem := rfl
@[simp] theorem State.modG_poison (s : State) (f : Group → Group) : (s.modG f).poison = s.poison := rfl
@[simp] theorem State.modG_writes (s : State) (f : Group → Group) : (s.modG f).writes = s.writes := rfl
@[simp] theorem State.modG_host (s : State) (f : Group → Group) : (s.modG f).host = s.host := rfl
@[simp] theorem State.modG_fields (s : State) (f : Group → Group) : (s.modG f).fields = s.fields := rfl
@[simp] theorem State.modG_slices (s : State) (f : Group → Group) : (s.modG f).slices = s.slices := rfl
@[simp] theorem State.modG_walks (s : State) (f : Group → Group) : (s.modG f).walks = s.walks := rfl
@[simp] theorem State.modG_reqs (s : State) (f : Group → Group) : (s.modG f).reqs = s.reqs := rfl
@[simp] theorem State.modG_parts (s : State) (f : Group → Group) : (s.modG f).parts = s.parts := rfl
@[simp] theorem State.modG_queues (s : State) (f : Group → Group) : (s.modG f).queues = s.queues := rfl
@[simp] theorem State.modG_jarlets (s : State) (f : Group → Group) : (s.modG f).jarlets = s.jarlets := rfl
@[simp] theorem State.modG_links (s : State) (f : Group → Group) : (s.modG f).links = s.links := rfl
@[simp] theorem State.modG_ks (s : State) (f : Group → Group) : (s.modG f).ks = s.ks := rfl
@[simp] theorem State.modG_cur (s : State) (f : Group → Group) : (s.modG f).cur = s.cur := rfl
@[simp] theorem State.modG_inputs (s : State) (f : Group → Group) : (s.modG f).inputs = s.inputs := rfl
@[simp] theorem State.modG_due (s : State) (f : Group → Group) : (s.modG f).due = s.due := rfl
@[simp] theorem State.modG_turn (s : State) (f : Group → Group) : (s.modG f).turn = s.turn := rfl
@[simp] theorem State.modG_free (s : State) (f : Group → Group) : (s.modG f).free = s.free := rfl
@[simp] theorem State.modG_nextId (s : State) (f : Group → Group) : (s.modG f).nextId = s.nextId := rfl

@[simp] theorem State.noteWords_now (s : State) (pa n : Nat) : (s.noteWords pa n).now = s.now := rfl
@[simp] theorem State.noteWords_mode (s : State) (pa n : Nat) : (s.noteWords pa n).mode = s.mode := rfl
@[simp] theorem State.noteWords_mem (s : State) (pa n : Nat) : (s.noteWords pa n).mem = s.mem := rfl
@[simp] theorem State.noteWords_poison (s : State) (pa n : Nat) : (s.noteWords pa n).poison = s.poison := rfl
@[simp] theorem State.noteWords_host (s : State) (pa n : Nat) : (s.noteWords pa n).host = s.host := rfl
@[simp] theorem State.noteWords_fields (s : State) (pa n : Nat) : (s.noteWords pa n).fields = s.fields := rfl
@[simp] theorem State.noteWords_slices (s : State) (pa n : Nat) : (s.noteWords pa n).slices = s.slices := rfl
@[simp] theorem State.noteWords_walks (s : State) (pa n : Nat) : (s.noteWords pa n).walks = s.walks := rfl
@[simp] theorem State.noteWords_reqs (s : State) (pa n : Nat) : (s.noteWords pa n).reqs = s.reqs := rfl
@[simp] theorem State.noteWords_tiles (s : State) (pa n : Nat) : (s.noteWords pa n).tiles = s.tiles := rfl
@[simp] theorem State.noteWords_parts (s : State) (pa n : Nat) : (s.noteWords pa n).parts = s.parts := rfl
@[simp] theorem State.noteWords_queues (s : State) (pa n : Nat) : (s.noteWords pa n).queues = s.queues := rfl
@[simp] theorem State.noteWords_jarlets (s : State) (pa n : Nat) : (s.noteWords pa n).jarlets = s.jarlets := rfl
@[simp] theorem State.noteWords_links (s : State) (pa n : Nat) : (s.noteWords pa n).links = s.links := rfl
@[simp] theorem State.noteWords_ks (s : State) (pa n : Nat) : (s.noteWords pa n).ks = s.ks := rfl
@[simp] theorem State.noteWords_cur (s : State) (pa n : Nat) : (s.noteWords pa n).cur = s.cur := rfl
@[simp] theorem State.noteWords_inputs (s : State) (pa n : Nat) : (s.noteWords pa n).inputs = s.inputs := rfl
@[simp] theorem State.noteWords_due (s : State) (pa n : Nat) : (s.noteWords pa n).due = s.due := rfl
@[simp] theorem State.noteWords_turn (s : State) (pa n : Nat) : (s.noteWords pa n).turn = s.turn := rfl
@[simp] theorem State.noteWords_free (s : State) (pa n : Nat) : (s.noteWords pa n).free = s.free := rfl
@[simp] theorem State.noteWords_nextId (s : State) (pa n : Nat) : (s.noteWords pa n).nextId = s.nextId := rfl

/-! ## Lenses -/

@[simp] theorem State.tile_setTile (s : State) (t u : Nat) (x : Tile) :
    (s.setTile t x).tile u = if u = t then x else s.tile u := by
  by_cases h : u = t <;> simp [State.tile, h]

@[simp] theorem State.tile_modTile (s : State) (t u : Nat) (f : Tile → Tile) :
    (s.modTile t f).tile u = if u = t then f (s.tile t) else s.tile u := by
  simp [State.modTile]

@[simp] theorem State.tile_of_tiles {s r : State} (h : r.tiles = s.tiles) (t : Nat) : r.tile t = s.tile t := by
  simp [State.tile, h]

@[simp] theorem Tile.slot_setSlot (T : Tile) (i j : Nat) (x : Slot) :
    (T.setSlot i x).slot j = if j = i then x else T.slot j := by
  by_cases h : j = i <;> simp [Tile.slot, Tile.setSlot, h]

@[simp] theorem Tile.setSlot_act (T : Tile) (i : Nat) (x : Slot) : (T.setSlot i x).act = T.act := rfl
@[simp] theorem Tile.setCtl_act (T : Tile) (c : CtxCtl) : (T.setCtl c).act = T.act := rfl

@[simp] theorem Tile.ctl_setCtl (T : Tile) (c : CtxCtl) : (T.setCtl c).ctl = c := by
  simp [Tile.ctl, Tile.setCtl]

@[simp] theorem Tile.setCtl_agent (T : Tile) (c : CtxCtl) : (T.setCtl c).agent = T.agent := rfl

@[simp] theorem Tile.group_setGroup_same (T : Tile) (g : Nat) (x : Group) : (T.setGroup g x).group g = x := by
  by_cases h : g = 32
  · simp [Tile.group, Tile.setGroup, h]
  · simp [Tile.group, Tile.setGroup, h]

theorem Tile.group_setGroup_other (T : Tile) (g j : Nat) (x : Group) (h : j ≠ g) :
    (T.setGroup g x).group j = T.group j := by
  by_cases hg : g = 32
  · subst hg
    simp [Tile.group, Tile.setGroup, h, Tile.ctl, Tile.slot]
  · by_cases hj : j = 32
    · subst hj
      simp [Tile.group, Tile.setGroup, hg]
    · simp [Tile.group, Tile.setGroup, hg, hj, h]

@[simp] theorem State.modGroup_group (s : State) (t g : Nat) (f : Group → Group) :
    ((s.modGroup t g f).tile t).group g = f ((s.tile t).group g) := by
  simp [State.modGroup]

@[simp] theorem State.setG_T (s : State) (g : Group) : (s.setG g).T = s.T.setGroup s.cur.slot g := by
  simp [State.setG, State.T, State.setTile, State.tile]

@[simp] theorem State.setG_G (s : State) (g : Group) : (s.setG g).G = g := by
  simp [State.G]

@[simp] theorem State.modG_G (s : State) (f : Group → Group) : (s.modG f).G = f s.G := by
  simp [State.modG]

@[simp] theorem State.field_setField (s : State) (f g : Nat) (x : Field) :
    (s.setField f x).field g = if g = f then x else s.field g := by
  by_cases h : g = f <;> simp [State.field, h]

@[simp] theorem State.part_setPart (s : State) (a b : Nat) (x : Part) :
    (s.setPart a x).part b = if b = a then some x else s.part b := by
  simp [State.part]

@[simp] theorem State.queue_setQueue (s : State) (a b : Nat) (x : Queue) :
    (s.setQueue a x).queue b = if b = a then some x else s.queue b := by
  simp [State.queue]

@[simp] theorem State.req_setReq (s : State) (a b : Nat) (x : Req) :
    (s.setReq a x).req b = if b = a then some x else s.req b := by
  simp [State.req]

@[simp] theorem State.req_delReq (s : State) (a b : Nat) : (s.delReq a).req b = if b = a then none else s.req b := by
  simp [State.req]

@[simp] theorem State.jarlet_setJarlet (s : State) (a b : Nat) (x : Jarlet) :
    (s.setJarlet a x).jarlet b = if b = a then x else s.jarlet b := by
  by_cases h : b = a <;> simp [State.jarlet, h]

@[simp] theorem State.link_setLink (s : State) (a b : Nat) (x : HostLink) :
    (s.setLink a x).link b = if b = a then x else s.link b := by
  by_cases h : b = a <;> simp [State.link, h]

/-! ## Lanes -/

@[simp] theorem Group.lane_mapLanes (g : Group) (f : Nat → Lane → Lane) (i : Nat) (h : i < 32) :
    (g.mapLanes f).lane i = f i (g.lane i) := by
  simp [Group.lane, Group.mapLanes, h]

@[simp] theorem Group.lane_modMask (g : Group) (m : BitVec 32) (f : Lane → Lane) (i : Nat) (h : i < 32) :
    (g.modMask m f).lane i = if bit m i then f (g.lane i) else g.lane i := by
  simp [Group.modMask, h]

@[simp] theorem Group.lane_modLane (g : Group) (l i : Nat) (f : Lane → Lane) (h : i < 32) :
    (g.modLane l f).lane i = if i = l then f (g.lane i) else g.lane i := by
  simp [Group.modLane, h]

/-- Settling changes reconvergence entries and the count of backward branches only. -/
theorem Group.settle1_frame (g : Group) : g.settle1 = { g with recon := g.settle1.recon, bcount := g.settle1.bcount } := by
  unfold Group.settle1
  dsimp only
  split <;> rfl

theorem Group.settle_frame (n : Nat) (g : Group) :
    g.settle n = { g with recon := (g.settle n).recon, bcount := (g.settle n).bcount } := by
  induction n generalizing g with
  | zero => rfl
  | succ n ih =>
    rw [Group.settle, ih, Group.settle1_frame]

@[simp] theorem Group.settle_lanes (n : Nat) (g : Group) : (g.settle n).lanes = g.lanes := by rw [Group.settle_frame]
@[simp] theorem Group.settle_k (n : Nat) (g : Group) : (g.settle n).k = g.k := by rw [Group.settle_frame]
@[simp] theorem Group.settle_fps (n : Nat) (g : Group) : (g.settle n).fps = g.fps := by rw [Group.settle_frame]
@[simp] theorem Group.settle_istat (n : Nat) (g : Group) : (g.settle n).istat = g.istat := by rw [Group.settle_frame]
@[simp] theorem Group.settle_out (n : Nat) (g : Group) : (g.settle n).out = g.out := by rw [Group.settle_frame]
@[simp] theorem Group.settle_traps (n : Nat) (g : Group) : (g.settle n).traps = g.traps := by rw [Group.settle_frame]
@[simp] theorem Group.settle_lane (n : Nat) (g : Group) (l : Nat) : (g.settle n).lane l = g.lane l := by
  simp [Group.lane]

end Sys2Proof.Machine
end

