-- ==== Sys2Proof/Laws/Operands.lean ====
section
/-! SUPPORT. What the shared end of a register instruction does: register writes, the advance of the issuing subset, a
fixed-latency result, a pending one, and a trap. -/

namespace Sys2Proof.Machine

/-! ## Register writes -/

theorem bit_clrBit {w : Nat} (m : BitVec w) (i j : Nat) (hw : j < w) : bit (clrBit m i) j = (bit m j && j != i) := by
  simp only [bit, clrBit, BitVec.getLsbD_and, BitVec.getLsbD_not, BitVec.getLsbD_shiftLeft, BitVec.getLsbD_one]
  by_cases h : j < i
  · simp [h, hw]; omega
  · by_cases h2 : j = i
    · subst h2; simp [hw]; omega
    · have : ¬ (j - i = 0) := by omega
      simp [h, hw, this, h2]

theorem bit_setBit {w : Nat} (m : BitVec w) (i j : Nat) (hw : j < w) : bit (setBit m i) j = (bit m j || j == i) := by
  simp only [bit, setBit, BitVec.getLsbD_or, BitVec.getLsbD_shiftLeft, BitVec.getLsbD_one]
  by_cases h : j < i
  · simp [h, hw]; omega
  · by_cases h2 : j = i
    · subst h2; simp [hw]; omega
    · have : ¬ (j - i = 0) := by omega
      simp [h, hw, this, h2]

/-- A write reaches the register of code `r` of lane `l`. -/
def hits (w : Nat × Nat × W32) (l r : Nat) : Prop := w.1 = hazLane l r ∧ w.2.1 = r

/-- What a register reads after a value is written to it: a predicate reads 0 or 1, p0 reads 1. -/
def readBack (r : Nat) (v : W32) : W32 := if r < 160 then v else if r = 160 then 1 else if v = 0 then 0 else 1

/-- A write that names a k register under lane 32. -/
def kWrite (w : Nat × Nat × W32) : Prop := 128 ≤ w.2.1 → w.2.1 < 160 → w.1 = 32

theorem Group.lane_wr (g : Group) (w : Nat × Nat × W32) (l : Nat) (hl : l < 32) :
    (g.wr w).lane l = { g.lane l with v := ((g.wr w).lane l).v, back := ((g.wr w).lane l).back, p := ((g.wr w).lane l).p } := by
  unfold Group.wr
  split
  · simp only [Group.lane_modLane _ _ _ _ hl]; split <;> rfl
  · split
    · rfl
    · split
      · rfl
      · simp only [Group.lane_modLane _ _ _ _ hl]; split <;> rfl

theorem Group.wr_frame (g : Group) (w : Nat × Nat × W32) :
    g.wr w = { g with lanes := (g.wr w).lanes, k := (g.wr w).k } := by
  unfold Group.wr
  split
  · rfl
  · split
    · rfl
    · split <;> rfl

theorem Group.wr_regNow (T : Tile) (g : Group) (w : Nat × Nat × W32) (l r : Nat) (hl : l < 32) (hr : r < 168)
    (hk : kWrite w) [Decidable (hits w l r)] :
    T.regNow (g.wr w) l r = if hits w l r then readBack r w.2.2 else T.regNow g l r := by
  obtain ⟨a, c, v⟩ := w
  unfold hits hazLane readBack kWrite at *
  simp only at hk ⊢
  unfold Group.wr Tile.regNow
  simp only
  by_cases h1 : c < 128
  · rw [if_pos h1]
    simp only [Group.lane_modLane _ _ _ _ hl]
    by_cases hr1 : r < 128
    · by_cases h2 : a = l ∧ c = r
      · obtain ⟨rfl, rfl⟩ := h2
        have : ¬ (128 ≤ c) := by omega
        simp [h1, this, Tile.vreg, bit_clrBit, amGet_amPut]
        intro h; omega
      · have : ¬ (128 ≤ r) := by omega
        simp only [hr1, this, if_true, decide_false, Bool.false_and, Bool.false_eq_true, if_false, if_neg h2]
        split
        · next h3 =>
          have h4 : c ≠ r := fun h => h2 ⟨h3.symm, h⟩
          simp [Tile.vreg, bit_clrBit _ _ _ hr1, Ne.symm h4, amGet_amPut]
        · rfl
    · have hcr : c ≠ r := by omega
      simp only [hr1, if_false]
      simp only [hcr, and_false, if_false]
      split
      · rfl
      · split
        · rfl
        · split <;> rfl
  · rw [if_neg h1]
    by_cases h2 : c < 160
    · have ha := hk (by omega) h2
      subst ha
      rw [if_pos h2]
      by_cases hr1 : r < 128
      · have hcr : c ≠ r := by omega
        simp [hr1, hcr, Group.lane]
      · by_cases hr2 : r < 160
        · have h3 : 128 ≤ r := by omega
          simp only [hr1, hr2, if_false, if_true, h3, decide_true, Bool.true_and, true_and, amGet_amPut]
          by_cases hcr : c = r
          · simp [hcr]
          · have : r - 128 ≠ c - 128 := by omega
            simp [hcr, this]
        · have hcr : c ≠ r := by omega
          simp [hr1, hr2, hcr, Group.lane]
    · rw [if_neg h2]
      by_cases h3 : c = 160
      · rw [if_pos h3]
        subst h3
        by_cases hcr : 160 = r
        · subst hcr; simp
        · simp [hcr]
      · rw [if_neg h3]
        simp only [Group.lane_modLane _ _ _ _ hl]
        by_cases hr1 : r < 128
        · have hcr : c ≠ r := by omega
          simp only [hr1, if_true, hcr, and_false, if_false]
          split <;> rfl
        · by_cases hr2 : r < 160
          · have hcr : c ≠ r := by omega
            simp [hr1, hr2, hcr, Group.modLane, Group.mapLanes]
          · simp only [hr1, hr2, if_false, decide_false, Bool.and_false, Bool.false_eq_true]
            by_cases h5 : r = 160
            · have hcr : c ≠ r := by omega
              simp [h5]
            · simp only [h5, if_false]
              have h8 : r - 160 < 8 := by omega
              by_cases h6 : a = l ∧ c = r
              · obtain ⟨rfl, rfl⟩ := h6
                simp only [if_true, and_self]
                split
                · simp [bit_clrBit _ _ _ h8]
                · simp [bit_setBit _ _ _ h8]
              · rw [if_neg h6]
                split
                · next h7 =>
                  have h9 : r - 160 ≠ c - 160 := by
                    intro h; exact h6 ⟨h7.symm, by omega⟩
                  split
                  · simp [bit_clrBit _ _ _ h8, h9]
                  · simp [bit_setBit _ _ _ h8, h9]
                · rfl

/-- Writes that miss a register leave it. -/
theorem Group.wrs_miss (T : Tile) (ws : List (Nat × Nat × W32)) (g : Group) (l r : Nat) (hl : l < 32) (hr : r < 168)
    (hk : ∀ w ∈ ws, kWrite w) (h : ∀ w ∈ ws, ¬ hits w l r) : T.regNow (ws.foldl Group.wr g) l r = T.regNow g l r := by
  induction ws generalizing g with
  | nil => rfl
  | cons w ws ih =>
    classical
    rw [List.foldl_cons, ih _ (fun x hx => hk x (by simp [hx])) (fun x hx => h x (by simp [hx])),
      Group.wr_regNow T g w l r hl hr (hk w (by simp)), if_neg (h w (by simp))]

/-- Writes of one value to a register leave it there. -/
theorem Group.wrs_hit (T : Tile) (ws : List (Nat × Nat × W32)) (g : Group) (l r : Nat) (v : W32) (hl : l < 32)
    (hr : r < 168) (hk : ∀ w ∈ ws, kWrite w) (hv : ∀ w ∈ ws, hits w l r → w.2.2 = v) (h : ∃ w ∈ ws, hits w l r) :
    T.regNow (ws.foldl Group.wr g) l r = readBack r v := by
  induction ws generalizing g with
  | nil => simp at h
  | cons w ws ih =>
    rw [List.foldl_cons]
    by_cases h2 : ∃ x ∈ ws, hits x l r
    · exact ih _ (fun x hx => hk x (by simp [hx])) (fun x hx => hv x (by simp [hx])) h2
    · classical
      rw [Group.wrs_miss T ws _ l r hl hr (fun x hx => hk x (by simp [hx])) (fun x hx hh => h2 ⟨x, hx, hh⟩),
        Group.wr_regNow T g w l r hl hr (hk w (by simp))]
      obtain ⟨x, hx, hh⟩ := h
      rcases List.mem_cons.1 hx with rfl | hx
      · rw [if_pos hh, hv x (by simp) hh]
      · exact absurd ⟨x, hx, hh⟩ h2

theorem Group.wrs_frame (ws : List (Nat × Nat × W32)) (g : Group) :
    ws.foldl Group.wr g = { g with lanes := (ws.foldl Group.wr g).lanes, k := (ws.foldl Group.wr g).k } := by
  induction ws generalizing g with
  | nil => rfl
  | cons w ws ih =>
    rw [List.foldl_cons, ih (g.wr w), Group.wr_frame g w]

theorem Group.lane_wrs (ws : List (Nat × Nat × W32)) (g : Group) (l : Nat) (hl : l < 32) :
    (ws.foldl Group.wr g).lane l = { g.lane l with
      v := ((ws.foldl Group.wr g).lane l).v, back := ((ws.foldl Group.wr g).lane l).back
      p := ((ws.foldl Group.wr g).lane l).p } := by
  induction ws generalizing g with
  | nil => rfl
  | cons w ws ih =>
    rw [List.foldl_cons, ih (g.wr w), Group.lane_wr g w l hl]

theorem Group.wrFixed_eq (T : Tile) (g : Group) (pc ready : Nat) (ws : List (Nat × Nat × W32)) :
    Group.wrFixed T g pc ready ws = { ws.foldl Group.wr g with haz := (Group.wrFixed T g pc ready ws).haz } := by
  unfold Group.wrFixed
  dsimp only
  split <;> rfl

/-! ## Writes of a destination -/

theorem mem_spread {l n v : Nat} {d : Reg} {w : Nat × Nat × W32} :
    w ∈ spread l d n v ↔ ∃ j < n, w = (hazLane l d.code, d.code + j, BitVec.ofNat 32 (v / 2 ^ (32 * j))) := by
  simp [spread, eq_comm]

/-- The registers of a destination lie in one class: `n` v registers, `n` k registers, or one predicate. -/
def destOk (d : Reg) (n : Nat) : Bool :=
  match d with
  | .v i => i.val + n ≤ 128
  | .k i => i.val + n ≤ 32
  | .p _ => n == 1
  | .c _ => false

theorem destOk_of_ok {nv n : Nat} {d : Reg} (h128 : nv ≤ 128) (h32 : 32 % n = 0) (h : d.ok nv n = true) :
    destOk d n = true := by
  cases d with
  | v i => simp [Reg.ok, destOk] at *; omega
  | k i =>
    simp [Reg.ok, destOk] at *
    have hi := i.isLt
    obtain ⟨q, hq⟩ := Nat.dvd_of_mod_eq_zero h
    obtain ⟨m, hm⟩ := Nat.dvd_of_mod_eq_zero h32
    have : q < m := by
      by_contra hc
      have := Nat.mul_le_mul_left n (Nat.le_of_not_lt hc)
      omega
    have := Nat.mul_le_mul_left n this
    rw [Nat.mul_succ] at this
    omega
  | p i => simp [Reg.ok] at h
  | c i => simp [Reg.ok] at h

theorem kWrite_spread {l n v : Nat} {d : Reg} (hd : destOk d n = true) {w : Nat × Nat × W32} (h : w ∈ spread l d n v) :
    kWrite w := by
  obtain ⟨j, hj, rfl⟩ := mem_spread.1 h
  cases d with
  | v i => simp [destOk, kWrite, Reg.code] at *; omega
  | k i =>
    have := i.isLt
    simp only [destOk, decide_eq_true_eq] at hd
    intro _ _
    have h3 : 128 + i.val < 160 := by omega
    simp [Reg.code, hazLane, h3]
  | p i => simp [destOk, kWrite, Reg.code] at *; omega
  | c i => simp [destOk] at hd

/-- Where the writes of one destination in lane `x` reach. -/
theorem hits_spread {x l r j v : Nat} {n : Nat} {d : Reg} (hd : destOk d n = true) (hj : j < n) :
    hits (hazLane x d.code, d.code + j, BitVec.ofNat 32 v) l r ↔ r = d.code + j ∧ (d.isK = true ∨ x = l) := by
  unfold hits hazLane
  cases d with
  | v i =>
    simp [destOk, Reg.code, Reg.isK] at *
    have := i.isLt
    constructor
    · rintro ⟨h1, rfl⟩
      have h2 : ¬ 128 ≤ i.val := by omega
      have h3 : ¬ 128 ≤ i.val + j := by omega
      simpa [h2, h3] using h1
    · rintro ⟨rfl, rfl⟩
      have h2 : ¬ 128 ≤ i.val := by omega
      have h3 : ¬ 128 ≤ i.val + j := by omega
      simp [h2, h3]
  | k i =>
    simp [destOk, Reg.code, Reg.isK] at *
    have := i.isLt
    constructor
    · rintro ⟨h1, rfl⟩; rfl
    · rintro rfl
      have h3 : 128 + i.val + j < 160 := by omega
      have h4 : 128 ≤ 128 + i.val + j := by omega
      have h5 : 128 + i.val < 160 := by omega
      simp [h3, h4, h5]
  | p i =>
    simp [destOk, Reg.code, Reg.isK] at *
    subst hd
    have : j = 0 := by omega
    subst this
    constructor
    · rintro ⟨h1, rfl⟩; simpa using h1
    · rintro ⟨rfl, rfl⟩; simp
  | c i => simp [destOk] at hd

/-! ## The end of an instruction -/

@[simp] theorem Tile.setGroup_setGroup (T : Tile) (i : Nat) (g h : Group) :
    (T.setGroup i g).setGroup i h = T.setGroup i h := by
  unfold Tile.setGroup
  by_cases hi : i = 32
  · simp [hi]
  · simp [hi, Tile.setCtl, Tile.setSlot, Tile.ctl, Tile.slot]

@[simp] theorem State.setG_setG (s : State) (g h : Group) : (s.setG g).setG h = s.setG h := by
  unfold State.setG
  simp [State.setTile, State.T, State.tile]

/-- The registers of a group depend on nothing that a write to the group leaves in its tile. -/
@[simp] theorem Tile.regNow_setGroup (T : Tile) (i : Nat) (h g : Group) (l r : Nat) :
    (T.setGroup i h).regNow g l r = T.regNow g l r := by
  have hs : (T.setGroup i h).store = T.store := by
    unfold Tile.setGroup
    split <;> rfl
  have ht : ∀ n o j, (T.setGroup i h).tval n o j = T.tval n o j := by
    intro n
    induction n with
    | zero => intros; rfl
    | succ n ih =>
      intro o j
      cases o with
      | none => rfl
      | some x => simp only [Tile.tval, hs, ih]
  unfold Tile.regNow Tile.vreg
  simp only [ht]

theorem State.val_setG (s : State) (g : Group) (l r : Nat) : (s.setG g).val l r = s.T.regNow g l r := by
  simp [State.val]

/-- Settling and the advance of lanes leave registers. -/
theorem Tile.regNow_congr (T : Tile) (g h : Group) (l r : Nat) (hk : h.k = g.k) (hv : (h.lane l).v = (g.lane l).v)
    (hb : (h.lane l).back = (g.lane l).back) (hp : (h.lane l).p = (g.lane l).p)
    (ht : (h.lane l).tmpl = (g.lane l).tmpl) : T.regNow h l r = T.regNow g l r := by
  unfold Tile.regNow Tile.vreg
  simp only [hk, hv, hb, hp, ht]

theorem Group.advance_frame (g : Group) (m : BitVec 32) :
    g.advance m = { g with lanes := (g.advance m).lanes, recon := (g.advance m).recon, bcount := (g.advance m).bcount } := by
  unfold Group.advance
  generalize (fun L : Lane => { L with
    pc := (L.pc + 8) % 2 ^ 56, left := L.left - 1, entry := decide (L.left ≤ 1), via := .fall, src := 0, relDone := false
    done := false, wait := .none }) = f
  have h := Group.settle_frame 17 (g.modMask m f)
  generalize (g.modMask m f).settle 17 = y at h
  rw [h]
  rfl

theorem Group.lane_advance (g : Group) (m : BitVec 32) (l : Nat) (hl : l < 32) :
    (g.advance m).lane l = if bit m l then (g.lane l).stepped else g.lane l := by
  unfold Group.advance
  rw [Group.settle_lane, Group.lane_modMask _ _ _ _ hl]
  rfl

theorem Tile.regNow_advance (T : Tile) (g : Group) (m : BitVec 32) (l r : Nat) (hl : l < 32) :
    T.regNow (g.advance m) l r = T.regNow g l r := by
  have h := Group.lane_advance g m l hl
  apply Tile.regNow_congr
  · rw [Group.advance_frame]
  all_goals rw [h]; split <;> rfl

theorem Group.record_frame (g : Group) (o : OutInst) : g.record o = { g with out := (g.record o).out } := rfl

@[simp] theorem Group.lane_record (g : Group) (o : OutInst) (l : Nat) : (g.record o).lane l = g.lane l := rfl

/-- Flags of a list of outputs, ORed. -/
def orFps (flags : List (Nat × Nat × Nat)) : Nat := flags.foldl (fun a x => a ||| x.2.1) 0

/-- ISTAT flags of a list of outputs, ORed. -/
def orIst (flags : List (Nat × Nat × Nat)) : Nat := flags.foldl (fun a x => a ||| x.2.2) 0

/-- The state when a group that has issued under a tag passes its instruction. -/
theorem State.next_of (s u : State) (g : Group) (hu : u = { s.setG g with due := u.due, nextId := u.nextId }) :
    u.next = { s.setG (g.advance s.cur.sub) with due := u.due, nextId := u.nextId } := by
  have hg : u.G = g := by
    rw [hu]; exact State.setG_G s g
  have hc : u.cur = s.cur := by rw [hu]; rfl
  unfold State.next State.modG
  rw [hg, hc]
  have : ∀ h, u.setG h = { (s.setG g).setG h with due := u.due, nextId := u.nextId } := by
    intro h; rw [hu]; rfl
  rw [this, State.setG_setG]

/-- What `next` leaves of a group whose writes are made. -/
theorem State.passed_of (s t : State) (g : Group) (d : List Due) (k : Nat)
    (ht : t = { s.setG (g.advance s.cur.sub) with due := d, nextId := k })
    (hg : GroupFrame s.G g)
    (hl : ∀ l < 32, g.lane l = { s.G.lane l with v := (g.lane l).v, back := (g.lane l).back, p := (g.lane l).p }) :
    Passed s t := by
  have hG : t.G = g.advance s.cur.sub := by rw [ht]; exact State.setG_G s _
  refine ⟨?_, ?_, ?_⟩
  · unfold OnlyGroup; rw [hG]; rw [ht]
  · unfold GroupFrame at *
    rw [hG]
    have h := Group.advance_frame g s.cur.sub
    generalize g.advance s.cur.sub = y at *
    rw [h, hg]
  · intro l hl2
    rw [hG, Group.lane_advance _ _ _ hl2]
    have := hl l hl2
    generalize g.lane l = L at *
    split
    · rw [this]; rfl
    · rw [this]

theorem State.retire_fixed (s : State) (c : Ctl) (ws : List (Nat × Nat × W32)) (flags : List (Nat × Nat × Nat)) (n : Nat)
    (canF canI : Bool) (hf : s.G.fpsTrap (orFps flags) = 0) (hi : s.G.istTrap (orIst flags) = 0) :
    let t := s.retire c ws flags (some n) canF canI
    Passed s t ∧ FlagsOr s t (orFps flags) (orIst flags) ∧
      (∀ l < 32, ∀ r, t.val l r = s.T.regNow (ws.foldl Group.wr s.G) l r) ∧ t.free = s.free ∧
      (c.set.val = 0 → t.due = s.due ∧ t.nextId = s.nextId ∧ t.G.out = s.G.out) := by
  intro t
  have key : ∃ (g : Group) (d : List Due) (k : Nat), t = { s.setG (g.advance s.cur.sub) with due := d, nextId := k } ∧
      GroupFrame s.G g ∧ g.fps = s.G.fps ||| BitVec.ofNat 32 (orFps flags % 32) ∧
      g.istat = s.G.istat ||| BitVec.ofNat 32 (orIst flags % 4) ∧
      (∀ l, g.lane l = (ws.foldl Group.wr s.G).lane l) ∧ g.k = (ws.foldl Group.wr s.G).k ∧
      (c.set.val = 0 → d = s.due ∧ k = s.nextId ∧ g.out = s.G.out) := by
    set g1 := (Group.wrFixed s.T s.G s.cur.pc (s.cycle s.cur.tile + n) ws).orFlags (orFps flags) (orIst flags) with hg1
    have e1 := Group.wrFixed_eq s.T s.G s.cur.pc (s.cycle s.cur.tile + n) ws
    have e2 := Group.wrs_frame ws s.G
    have fr : g1 = { ws.foldl Group.wr s.G with
        haz := g1.haz, fps := s.G.fps ||| BitVec.ofNat 32 (orFps flags % 32)
        istat := s.G.istat ||| BitVec.ofNat 32 (orIst flags % 4) } := by
      rw [hg1]
      unfold Group.orFlags
      generalize Group.wrFixed s.T s.G s.cur.pc (s.cycle s.cur.tile + n) ws = y at *
      rw [e1]
      generalize ws.foldl Group.wr s.G = z at *
      rw [e2]
    have hGf : GroupFrame s.G g1 := by
      unfold GroupFrame
      generalize ws.foldl Group.wr s.G = z at *
      rw [fr, e2]
    have hL : ∀ l, g1.lane l = (ws.foldl Group.wr s.G).lane l := by intro l; rw [fr]; rfl
    have ht : t = if c.set.val = 0 then (s.setG g1).next
        else (((s.setG g1).issueOut { (s.setG g1).outInst c with ready := s.cycle s.cur.tile + n }).push
          [.instructionComplete s.cur.tile s.cur.slot s.nextId]).next := by
      show s.retire c ws flags (some n) canF canI = _
      unfold State.retire
      simp only [orFps, orIst] at hf hi
      simp only [hf, hi]
      simp only [ne_eq, not_true_eq_false, if_false]
      split
      · rfl
      · rfl
    by_cases hz : c.set.val = 0
    · rw [if_pos hz] at ht
      refine ⟨g1, s.due, s.nextId, ?_, hGf, ?_, ?_, hL, ?_, fun _ => ⟨rfl, rfl, ?_⟩⟩
      · rw [ht, State.next_of s (s.setG g1) g1 rfl]; rfl
      · rw [fr]
      · rw [fr]
      · rw [fr]
      · rw [fr, e2]
    · rw [if_neg hz] at ht
      set u := ((s.setG g1).issueOut { (s.setG g1).outInst c with ready := s.cycle s.cur.tile + n }).push
          [.instructionComplete s.cur.tile s.cur.slot s.nextId] with hu
      refine ⟨g1.record { (s.setG g1).outInst c with ready := s.cycle s.cur.tile + n }, u.due, u.nextId, ?_, ?_, ?_, ?_, ?_, ?_,
        fun h => absurd h hz⟩
      · rw [ht]
        apply State.next_of
        rw [hu]
        unfold State.issueOut State.modG
        rw [State.setG_G, State.setG_setG]
        rfl
      · unfold GroupFrame at *
        rw [Group.record_frame]
        generalize (g1.record _).out = o
        rw [hGf]
      · show g1.fps = _
        rw [fr]
      · show g1.istat = _
        rw [fr]
      · intro l; exact hL l
      · show g1.k = _
        rw [fr]
  obtain ⟨g, d, k, ht, hgf, hfps, hist, hlane, hkk, hz⟩ := key
  have hG : t.G = g.advance s.cur.sub := by rw [ht]; exact State.setG_G s _
  refine ⟨State.passed_of s t g d k ht hgf ?_, ⟨?_, ?_⟩, ?_, ?_, ?_⟩
  · intro l hl
    rw [hlane, Group.lane_wrs ws s.G l hl]
  · rw [hG, Group.advance_frame]; exact hfps
  · rw [hG, Group.advance_frame]; exact hist
  · intro l hl r
    have hT : t.T = s.T.setGroup s.cur.slot (g.advance s.cur.sub) := by rw [ht]; exact State.setG_T s _
    unfold State.val
    rw [hG, hT, Tile.regNow_setGroup, Tile.regNow_advance _ _ _ _ _ hl]
    apply Tile.regNow_congr <;> simp [hlane, hkk]
  · rw [ht]; rfl
  · intro h
    obtain ⟨h1, h2, h3⟩ := hz h
    refine ⟨by rw [ht]; exact h1, by rw [ht]; exact h2, ?_⟩
    rw [hG, Group.advance_frame]; exact h3

/-- Writes of a destination in a list of lanes, by what they leave in the registers. -/
theorem Group.regNow_dest (T : Tile) (g : Group) (d : Reg) (n : Nat) (lanes : List Nat) (lane v : Nat → Nat)
    (hd : destOk d n = true) (l r : Nat) (hl : l < 32) (hr : r < 168)
    (hv : ∀ x ∈ lanes, ∀ y ∈ lanes, (d.isK = true ∨ (lane x = l ∧ lane y = l)) → v x = v y) :
    (∀ j < n, r = d.code + j → ∀ x ∈ lanes, (d.isK = true ∨ lane x = l) →
      T.regNow ((lanes.flatMap fun x => spread (lane x) d n (v x)).foldl Group.wr g) l r =
        readBack r (BitVec.ofNat 32 (v x / 2 ^ (32 * j)))) ∧
    ((¬ ∃ j < n, r = d.code + j ∧ ∃ x ∈ lanes, d.isK = true ∨ lane x = l) →
      T.regNow ((lanes.flatMap fun x => spread (lane x) d n (v x)).foldl Group.wr g) l r = T.regNow g l r) := by
  have hk : ∀ w ∈ lanes.flatMap (fun x => spread (lane x) d n (v x)), kWrite w := by
    intro w hw
    obtain ⟨x, _, hw⟩ := List.mem_flatMap.1 hw
    exact kWrite_spread hd hw
  constructor
  · intro j hj hr2 x hx hk2
    apply Group.wrs_hit T _ g l r _ hl hr hk
    · intro w hw hh
      obtain ⟨y, hy, hw⟩ := List.mem_flatMap.1 hw
      obtain ⟨i, hi, rfl⟩ := mem_spread.1 hw
      obtain ⟨h1, h2⟩ := (hits_spread hd hi).1 hh
      have : i = j := by omega
      subst this
      have : v y = v x := by
        apply hv y hy x hx
        rcases hk2 with h | h
        · exact .inl h
        · rcases h2 with h2 | h2
          · exact .inl h2
          · exact .inr ⟨h2, h⟩
      simp [this]
    · exact ⟨_, List.mem_flatMap.2 ⟨x, hx, mem_spread.2 ⟨j, hj, rfl⟩⟩, (hits_spread hd hj).2 ⟨hr2, hk2⟩⟩
  · intro hno
    apply Group.wrs_miss T _ g l r hl hr hk
    intro w hw hh
    obtain ⟨y, hy, hw⟩ := List.mem_flatMap.1 hw
    obtain ⟨i, hi, rfl⟩ := mem_spread.1 hw
    obtain ⟨h1, h2⟩ := (hits_spread hd hi).1 hh
    exact hno ⟨i, hi, h1, y, hy, h2⟩

/-- The lanes of a mask lie below 32. -/
theorem mem_lanesOf {m : BitVec 32} {l : Nat} : l ∈ lanesOf m ↔ l < 32 ∧ bit m l = true := by
  simp [lanesOf]

theorem mem_active {s : State} {c : Ctl} {l : Nat} (h : l ∈ s.active c) : l < 32 ∧ bit s.cur.sub l = true := by
  unfold State.active at h
  exact mem_lanesOf.1 (List.mem_of_mem_filter h)

theorem mem_laneSet {s : State} {c : Ctl} {d : Reg} {srcs : List Reg} {l : Nat} (h : l ∈ s.laneSet c d srcs) :
    l ∈ s.active c := by
  unfold State.laneSet at h
  split at h
  · exact List.mem_of_mem_take h
  · exact h

/-- A fixed-latency register instruction whose flags meet no enable. -/
theorem State.alu_fixed (s : State) (c : Ctl) (d : Reg) (n : Nat) (srcs : List Reg) (lat : Nat) (canF canI : Bool)
    (f : Nat → LaneOut) (hd : destOk d n = true) (hp : d.isV = true ∨ (d.isK = true ∧ scalarPath d srcs = true))
    (hf : s.G.fpsTrap ((s.laneSet c d srcs).foldl (fun a l => a ||| (f l).fps) 0) = 0)
    (hi : s.G.istTrap ((s.laneSet c d srcs).foldl (fun a l => a ||| (f l).ist) 0) = 0) :
    let t := s.alu c d n srcs (some lat) canF canI f
    Result s t c d n srcs (fun l => (f l).val) ∧
      FlagsOr s t ((s.laneSet c d srcs).foldl (fun a l => a ||| (f l).fps) 0)
        ((s.laneSet c d srcs).foldl (fun a l => a ||| (f l).ist) 0) := by
  intro t
  set lanes := s.laneSet c d srcs with hlanes
  set fl := lanes.map (fun l => (if scalarPath d srcs then 32 else l, (f l).fps, (f l).ist)) with hfl
  have h1 : orFps fl = lanes.foldl (fun a l => a ||| (f l).fps) 0 := by
    simp [orFps, hfl, List.foldl_map]
  have h2 : orIst fl = lanes.foldl (fun a l => a ||| (f l).ist) 0 := by
    simp [orIst, hfl, List.foldl_map]
  have ht : t = s.retire c (lanes.flatMap fun l => spread (if scalarPath d srcs then 32 else l) d n (f l).val) fl (some lat)
      canF canI := by
    show s.alu c d n srcs (some lat) canF canI f = _
    unfold State.alu
    simp [← hlanes, List.flatMap_map, hfl, List.map_map, Function.comp_def]
  obtain ⟨hA, hB, hC, -, -⟩ := State.retire_fixed s c _ fl lat canF canI (by rw [h1]; exact hf) (by rw [h2]; exact hi)
  rw [← ht] at hA hB hC
  rw [h1, h2] at hB
  have one : d.isK = true → ∀ x ∈ lanes, ∀ y ∈ lanes, x = y := by
    intro hk x hx y hy
    have hs : scalarPath d srcs = true := by
      rcases hp with h | h
      · cases d <;> simp_all [Reg.isV, Reg.isK]
      · exact h.2
    rw [hlanes] at hx hy
    unfold State.laneSet at hx hy
    rw [if_pos hs] at hx hy
    generalize s.active c = q at hx hy
    cases q with
    | nil => simp at hx
    | cons a q => simp at hx hy; rw [hx, hy]
  have vs : d.isK = false → scalarPath d srcs = false := by
    intro h; simp [scalarPath, h]
  have key := fun l r (hl : l < 32) (hr : r < 168) =>
    Group.regNow_dest s.T s.G d n lanes (fun l => if scalarPath d srcs then 32 else l) (fun l => (f l).val) hd l r hl hr
      (by
        intro x hx y hy h
        rcases h with h | h
        · rw [one h x hx y hy]
        · by_cases hk : d.isK = true
          · rw [one hk x hx y hy]
          · rw [Bool.not_eq_true] at hk
            simp only [vs hk] at h
            have : x = y := by simpa using h.1.trans h.2.symm
            rw [this])
  refine ⟨⟨hA, ?_, ?_⟩, hB⟩
  · intro l hl j hj
    have hl32 := (mem_active (mem_laneSet hl)).1
    have hcode : d.code + j < 160 := by
      cases d with
      | v i => simp [destOk, Reg.code] at *; omega
      | k i => simp [destOk, Reg.code] at *; omega
      | p i => simp [Reg.isV, Reg.isK] at hp
      | c i => simp [Reg.isV, Reg.isK] at hp
    rw [hC l hl32, (key l _ hl32 (by omega)).1 j hj rfl l hl ?_]
    · simp [readBack, hcode]
    · by_cases hk : d.isK = true
      · exact .inl hk
      · rw [Bool.not_eq_true] at hk
        right; simp [vs hk]
  · intro l hl r hr hno
    rw [hC l hl, (key l r hl hr).2]
    · rfl
    · rintro ⟨j, hj, h3, x, hx, h4⟩
      apply hno
      refine ⟨by omega, by omega, ?_⟩
      by_cases hk : d.isK = true
      · exact .inr ⟨hk, fun h => by rw [hlanes, h] at hx; simp at hx⟩
      · rw [Bool.not_eq_true] at hk
        rcases h4 with h4 | h4
        · rw [hk] at h4; cases h4
        · simp only [vs hk] at h4
          left
          have : x = l := by simpa using h4
          rwa [← this]

/-- A predicate instruction whose flags meet no enable: each active lane's truth value stands in `pd`, p0 reads 1. -/
theorem State.aluP_fixed (s : State) (c : Ctl) (pd : Fin 8) (lat : Nat) (f : Nat → Bool × Nat)
    (hf : s.G.fpsTrap ((s.active c).foldl (fun a l => a ||| (f l).2) 0) = 0) :
    let t := s.aluP c pd lat f
    Passed s t ∧ FlagsOr s t ((s.active c).foldl (fun a l => a ||| (f l).2) 0) 0 ∧
      (∀ l ∈ s.active c, t.val l (160 + pd.val) = if pd.val = 0 then 1 else if (f l).1 then 1 else 0) ∧
      OtherRegs s t (s.active c) (.p pd) 1 := by
  intro t
  set lanes := s.active c with hlanes
  set fl : List (Nat × Nat × Nat) := lanes.map (fun l => (l, (f l).2, 0)) with hfl
  have h1 : orFps fl = lanes.foldl (fun a l => a ||| (f l).2) 0 := by simp [orFps, hfl, List.foldl_map]
  have h2 : orIst fl = 0 := by
    have : ∀ (q : List Nat) (a : Nat), q.foldl (fun a (_ : Nat) => a ||| 0) a = a := by
      intro q; induction q with
      | nil => intro a; rfl
      | cons y q _ => intro a; simp
    simp [orIst, hfl, List.foldl_map]
  have ht : t = s.retire c (lanes.flatMap fun l => spread l (.p pd) 1 (if (f l).1 then 1 else 0)) fl (some lat) true false := by
    show s.aluP c pd lat f = _
    unfold State.aluP
    simp [← hlanes, List.flatMap_map, hfl, List.map_map, Function.comp_def]
  obtain ⟨hA, hB, hC, -, -⟩ := State.retire_fixed s c _ fl lat true false (by rw [h1]; exact hf)
    (by rw [h2]; simp [Group.istTrap])
  rw [← ht] at hA hB hC
  rw [h1, h2] at hB
  have key := fun l r (hl : l < 32) (hr : r < 168) =>
    Group.regNow_dest s.T s.G (.p pd) 1 lanes (fun l => l) (fun l => if (f l).1 then 1 else 0) rfl l r hl hr
      (by
        intro x _ y _ h
        rcases h with h | h
        · simp [Reg.isK] at h
        · obtain ⟨rfl, rfl⟩ := h; rfl)
  refine ⟨hA, hB, ?_, ?_⟩
  · intro l hl
    have hl32 := (mem_active hl).1
    have hp := pd.isLt
    have := (key l (160 + pd.val) hl32 (by omega)).1 0 (by omega) rfl l hl (.inr rfl)
    rw [hC l hl32, this]
    unfold readBack
    by_cases h0 : pd.val = 0
    · simp [h0]
    · simp only [h0, if_false]
      rw [if_neg (by omega), if_neg (by omega)]
      cases (f l).1 <;> simp
  · intro l hl r hr hno
    rw [hC l hl, (key l r hl hr).2]
    · rfl
    · rintro ⟨j, hj, h3, x, hx, h4⟩
      apply hno
      refine ⟨by omega, by omega, ?_⟩
      rcases h4 with h4 | h4
      · simp [Reg.isK] at h4
      · left; rwa [← h4]

/-- An instruction without a fixed latency that no enabled flag holds: its record waits, its registers are unchanged. -/
theorem State.retire_pending (s : State) (c : Ctl) (ws : List (Nat × Nat × W32)) (flags : List (Nat × Nat × Nat))
    (canF canI : Bool) (h : s.G.anyEnable canF canI = false) :
    let t := s.retire c ws flags none canF canI
    Passed s t ∧ FlagsKept s t ∧ SameRegs s t ∧
      ∃ o ∈ t.G.out, o.iid = s.nextId ∧ o.tag = c.set.val ∧ o.pc = s.cur.pc ∧ o.res = ws ∧ o.fps = orFps flags ∧
        o.ist = orIst flags := by
  intro t
  set o : OutInst := { s.outInst c with
      res := ws, dst := ws.map fun w => (w.1, w.2.1), fps := orFps flags, ist := orIst flags, byLane := flags
      kind := (if canF then 1 else 0) + (if canI then 2 else 0) } with ho
  set u := (s.issueOut o).push [.instructionComplete s.cur.tile s.cur.slot s.nextId] with hu
  have ht : t = u.next := by
    show s.retire c ws flags none canF canI = _
    unfold State.retire
    simp only [h, Bool.false_eq_true, if_false]
    rfl
  have hn : t = { s.setG ((s.G.record o).advance s.cur.sub) with due := u.due, nextId := u.nextId } := by
    rw [ht]
    apply State.next_of
    rw [hu]
    rfl
  have hG : t.G = (s.G.record o).advance s.cur.sub := by rw [hn]; exact State.setG_G s _
  have hT : t.T = s.T.setGroup s.cur.slot ((s.G.record o).advance s.cur.sub) := by rw [hn]; exact State.setG_T s _
  refine ⟨State.passed_of s t (s.G.record o) _ _ hn rfl (fun l _ => rfl), ⟨?_, ?_⟩, ?_, o, ?_, rfl, rfl, rfl, rfl, rfl, rfl⟩
  · rw [hG, Group.advance_frame]; rfl
  · rw [hG, Group.advance_frame]; rfl
  · intro l hl r _
    unfold State.val
    rw [hG, hT, Tile.regNow_setGroup, Tile.regNow_advance _ _ _ _ _ hl]
    rfl
  · rw [hG, Group.advance_frame]
    simp [Group.record]

/-- The pending form of a register instruction. -/
theorem State.alu_pending (s : State) (c : Ctl) (d : Reg) (n : Nat) (srcs : List Reg) (canF canI : Bool)
    (f : Nat → LaneOut) (h : s.G.anyEnable canF canI = false) :
    Pending s (s.alu c d n srcs none canF canI f) c d n srcs (fun l => (f l).val) (fun l => ((f l).fps, (f l).ist)) := by
  set lanes := s.laneSet c d srcs with hlanes
  set fl := lanes.map (fun l => (if scalarPath d srcs then 32 else l, (f l).fps, (f l).ist)) with hfl
  have h1 : orFps fl = lanes.foldl (fun a l => a ||| (f l).fps) 0 := by
    simp [orFps, hfl, List.foldl_map]
  have h2 : orIst fl = lanes.foldl (fun a l => a ||| (f l).ist) 0 := by
    simp [orIst, hfl, List.foldl_map]
  have ht : s.alu c d n srcs none canF canI f =
      s.retire c (lanes.flatMap fun l => spread (if scalarPath d srcs then 32 else l) d n (f l).val) fl none canF canI := by
    unfold State.alu
    simp [← hlanes, List.flatMap_map, hfl, List.map_map, Function.comp_def]
  obtain ⟨hA, hB, hC, o, ho, e1, e2, e3, e4, e5, e6⟩ := State.retire_pending s c
    (lanes.flatMap fun l => spread (if scalarPath d srcs then 32 else l) d n (f l).val) fl canF canI h
  rw [← ht] at hA hB hC ho
  exact ⟨hA, hB, hC, o, ho, e1, e2, e3, e4, by rw [e5, h1], by rw [e6, h2]⟩

theorem foldl_or_zero (l : List Nat) : l.foldl (fun a (_ : Nat) => a ||| 0) 0 = 0 := by
  have : ∀ (q : List Nat) (a : Nat), q.foldl (fun a (_ : Nat) => a ||| 0) a = a := by
    intro q; induction q with
    | nil => intro a; rfl
    | cons y q _ => intro a; simp
  exact this l 0

/-- A destination that passes its checks lies in one class, and a k one is on the scalar path. -/
theorem Reg.dest_of_dst {nv n : Nat} {d : Reg} {srcs : List Reg} (h128 : nv ≤ 128) (h32 : 32 % n = 0) (h : d.dst nv n srcs = true) :
    destOk d n = true ∧ (d.isV = true ∨ (d.isK = true ∧ scalarPath d srcs = true)) := by
  unfold Reg.dst at h
  simp only [Bool.and_eq_true] at h
  refine ⟨destOk_of_ok h128 h32 h.1, ?_⟩
  cases d with
  | v i => exact .inl rfl
  | k i => right; refine ⟨rfl, ?_⟩; simp [scalarPath, Reg.isK] at *; exact h.2
  | p i => simp [Reg.ok] at h
  | c i => simp [Reg.ok] at h

theorem ITy.regs_dvd (t : ITy) : 32 % t.regs = 0 := by cases t <;> rfl
theorem BTy.regs_dvd (t : BTy) : 32 % t.regs = 0 := by cases t <;> rfl
theorem FTy.regs_dvd (t : FTy) : 32 % t.regs = 0 := by cases t <;> rfl
theorem CTy.regs_dvd (t : CTy) : 32 % t.regs = 0 := by
  cases t with
  | int t => cases t <;> rfl
  | flt t => cases t with
    | std t => cases t <;> rfl
    | e4m3 => rfl
    | e5m2 => rfl

/-- A fixed-latency instruction that sets no flag. -/
theorem State.alu_plain (s : State) (c : Ctl) (d : Reg) (n nv : Nat) (srcs : List Reg) (lat : Nat) (f : Nat → Nat)
    (h128 : nv ≤ 128) (h32 : 32 % n = 0) (h : d.dst nv n srcs = true) :
    ∃ t, Host.Outcome.next (φ := Fault) (ρ := Refusal) (s.alu c d n srcs (some lat) false false fun l => { val := f l }) = .next t ∧ FlagsKept s t ∧
      Result s t c d n srcs f := by
  obtain ⟨h1, h2⟩ := Reg.dest_of_dst h128 h32 h
  obtain ⟨ha, hb⟩ := State.alu_fixed s c d n srcs lat false false (fun l => { val := f l }) h1 h2
    (by simp only [foldl_or_zero]; simp [Group.fpsTrap]) (by simp only [foldl_or_zero]; simp [Group.istTrap])
  refine ⟨_, rfl, ?_, ha⟩
  simp only [foldl_or_zero] at hb
  unfold FlagsOr at hb
  simpa [FlagsKept] using hb


theorem Tile.regNow_store (A B : Tile) (h : A.store = B.store) (g : Group) (l n : Nat) : A.regNow g l n = B.regNow g l n := by
  have ht : ∀ n o j, A.tval n o j = B.tval n o j := by
    intro n
    induction n with
    | zero => intros; rfl
    | succ n ih =>
      intro o j
      cases o with
      | none => rfl
      | some x => simp only [Tile.tval, h, ih]
  unfold Tile.regNow Tile.vreg
  simp only [ht]

theorem State.setG_team (s : State) (g : Group) (i : Nat) : (s.setG g).T.team i = s.T.team i := by
  rw [State.setG_T]
  unfold Tile.setGroup Tile.team
  split
  · rfl
  · simp

/-- A trap of the issuing subset (R352, R354); in the agent's slot a refusal is no such trap (R366). -/
theorem State.trapLane_trapped (s : State) (lane : Nat) (cls : TrapClass) (cause info1 info2 : Nat)
    (h : ¬ (s.cur.slot = 32 ∧ cls = .resource)) :
    Trapped s (s.trapLane lane cls cause info1 info2) lane cls cause info1 info2 ∧
      FlagsKept s (s.trapLane lane cls cause info1 info2) := by
  have hr : (decide (s.cur.slot = 32) && cls == .resource) = false := by
    rw [Bool.eq_false_iff]; intro hc; apply h; simpa using hc
  set t := s.trapLane lane cls cause info1 info2 with ht
  have key : ∃ (r : Trap) (u : State), t = u.push [.trapDeliver s.cur.tile s.cur.slot] ∧ u.mem = s.mem ∧ u.host = s.host ∧ u.cur = s.cur ∧
      u.G = { s.G.modMask s.cur.sub (fun L => { L with trapped := true, wait := .none }) with traps := s.G.traps ++ [r] } ∧
      (∀ g l n, u.T.regNow g l n = s.T.regNow g l n) ∧ (∀ i, u.T.team i = s.T.team i) ∧
      r.cls = cls ∧ r.cause = cause ∧ r.lane = lane ∧ r.pc = s.cur.pc ∧ r.word = s.cur.word ∧ r.info1 = info1 ∧
      r.info2 = info2 ∧ r.lanes = s.cur.sub ∧ r.time = s.wtime := by
    rw [ht]
    unfold State.trapLane State.raise
    simp only [hr, Bool.false_eq_true, if_false]
    have ag : ∀ (g' : Group) (l : List Instr), s.cur.slot = 32 →
        let u := ((s.setG g').modTile s.cur.tile fun T => { T with agentStop := true }).push l
        u.G = g' ∧ (∀ g l n, u.T.regNow g l n = s.T.regNow g l n) ∧ ∀ i, u.T.team i = s.T.team i := by
      intro g' l h32 u
      have hT : u.T = { s.T.setGroup s.cur.slot g' with agentStop := true } := by
        show u.tile s.cur.tile = _
        have : u.tile s.cur.tile = ((s.setG g').modTile s.cur.tile fun T => { T with agentStop := true }).tile s.cur.tile := rfl
        rw [this, State.tile_modTile, if_pos rfl, ← State.setG_T]
        rfl
      refine ⟨?_, ?_, ?_⟩
      · show u.T.group s.cur.slot = g'
        rw [hT, h32]
        rfl
      · intro g l n
        rw [hT]
        exact Tile.regNow_store _ _ (by rw [h32]; rfl) g l n
      · intro i
        rw [hT, h32]
        rfl
    split
    · next h32 =>
      exact ⟨_, _, rfl, rfl, rfl, rfl, (ag _ _ h32).1, (ag _ _ h32).2.1, (ag _ _ h32).2.2, rfl, rfl, rfl, rfl, rfl, rfl, rfl, rfl, rfl⟩
    · exact ⟨_, _, rfl, rfl, rfl, rfl, State.setG_G s _, fun g l n => by simp, fun i => State.setG_team s _ i, rfl, rfl, rfl, rfl, rfl, rfl, rfl, rfl, rfl⟩
  obtain ⟨r, u, hu, hm, hh, hc, hG, hT, hTm, h1, h2, h3, h4, h5, h6, h7, h8, h9⟩ := key
  have hGt : t.G = u.G := by rw [hu]; rfl
  have hTt : t.T = u.T := by rw [hu]; rfl
  have hL : ∀ l < 32, t.G.lane l = if bit s.cur.sub l then { s.G.lane l with trapped := true, wait := .none } else s.G.lane l := by
    intro l hl
    have : t.G.lane l = (s.G.modMask s.cur.sub fun L => { L with trapped := true, wait := .none }).lane l := by
      rw [hGt, hG]; rfl
    rw [this, Group.lane_modMask _ _ _ _ hl]
  refine ⟨⟨?_, ?_, ?_, ?_, r, ?_, h1, h2, h3, h4, h5, h6, h7, h8, h9⟩, ?_, ?_⟩
  · intro l hl n _
    unfold State.val
    rw [hTt, hT]
    have := hL l hl
    apply Tile.regNow_congr
    · rw [hGt, hG]; rfl
    all_goals rw [this]; split <;> rfl
  · refine ⟨by rw [hu]; exact hm, by rw [hu]; exact hh, by rw [hGt, hG]; rfl, by rw [hGt, hG]; rfl, by rw [hGt, hG]; rfl, ?_⟩
    have hg : t.G.team = s.G.team := by rw [hGt, hG]; rfl
    unfold State.teamData State.curTeam
    rw [hg, hTt, hTm]
  · intro l hl hb
    rw [hL l hl, if_pos hb]
    exact ⟨rfl, rfl⟩
  · rw [hu]
    simp [State.push]
  · rw [Group.lastTrap, hGt, hG]
    simp
  · rw [hGt, hG]; rfl
  · rw [hGt, hG]; rfl

end Sys2Proof.Machine
end

