-- ==== Sys2Proof/Tests/Slice0.lean ====
section
/-! SUPPORT. Tests of one step each. Words are written from the encoding tables of the spec, results from its rules; the last
part gives states that meet the hypotheses of the obligations. -/

namespace Sys2Proof.Tests

set_option Elab.async false
open Sys2Proof Sys2Proof.Machine Sys2Proof.Claims

/-- A common top with every field 0. -/
def c0 : Ctl := ⟨0, 0, 0, 0, false, 0⟩

/-! ## Decoding -/

/-- Branches and the format-X control instructions (Tables 7.10 to 7.12, 8.4; R187, R189, R192, R193). -/
theorem test_decode_flow :
  decode 128 0x0100000000000000 = .ok (.nop c0) ∧
  decode 128 0x0200000000FFFFFE = .ok (.bra c0 0xFFFFFE) ∧
  decode 128 0x0300000006000000 = .ok (.brx c0 (.v 6)) ∧
  decode 128 0x0400000A00000004 = .ok (.call c0 (.v 10) 4) ∧
  decode 128 0x050000000A000000 = .ok (.ret c0 (.v 10)) ∧
  decode 128 0x0600000000000000 = .ok (.exit c0) ∧
  decode 128 0x0700000000000000 = .ok (.yield c0) ∧
  decode 128 0x0800000000001234 = .ok (.trap c0 0x1234) ∧
  decode 128 0x0800000000008000 = .ok (.trapRet c0) ∧
  decode 128 0x0900000083000000 = .ok (.eretRetry c0 (.k 3)) ∧
  decode 128 0x0900000083000001 = .ok (.eretSkip c0 (.k 3)) ∧
  decode 128 0x0900000083880002 = .ok (.eretRedir c0 (.k 3) (.k 8)) := by decide +kernel

/-- Special registers, events, templates, context slots and translations (Tables 8.3, 8.5; R195, R203 to R209). -/
theorem test_decode_system :
  decode 128 0x0A00008600000011 = .ok (.mfs c0 (.k 6) 0x11) ∧
  decode 128 0x0A00000400000101 = .ok (.mfsAevt c0 (.v 4)) ∧
  decode 128 0x0B00000082000040 = .ok (.mts c0 0x40 (.k 2)) ∧
  decode 128 0x0B00000082000102 = .ok (.mtsApool c0 (.k 2)) ∧
  decode 128 0x0B00000084000032 = .ok (.mtsPmc c0 2 (.k 4)) ∧
  decode 128 0x0C00000000000007 = .ok (.evt c0 7) ∧
  decode 128 0x0C00000085000107 = .ok (.evtH c0 7 (.k 5)) ∧
  decode 128 0x0D0000098403FFFC = .ok (.frz c0 9 (.k 4) 3 0xFFFC) ∧
  decode 128 0x0E00000081DF0002 = .ok (.stamp c0 2 (.k 1) (.c 31)) ∧
  decode 128 0x0F00000007000005 = .ok (.spawn c0 5 (.v 7)) ∧
  decode 128 0x0F00000007890015 = .ok (.spawnRem c0 5 (.v 7) (.k 9)) ∧
  decode 128 0x1000008182840000 = .ok (.ctxsave c0 (.k 1) (.k 2) (.k 4)) ∧
  decode 128 0x1000008182840001 = .ok (.ctxsaveFull c0 (.k 1) (.k 2) (.k 4)) ∧
  decode 128 0x1100000082840000 = .ok (.ctxload c0 (.k 2) (.k 4)) ∧
  decode 128 0x1200000082000000 = .ok (.ctxsw c0 (.k 2)) ∧
  decode 128 0x1300000000000000 = .ok (.tlbiCtx c0 false) ∧
  decode 128 0x1300000000000005 = .ok (.tlbiPart c0 true) ∧
  decode 128 0x1300000086000002 = .ok (.tlbiPage c0 (.k 6) false) ∧
  decode 128 0x1300000086830007 = .ok (.tlbiGrain c0 (.k 6) (.k 3) true) ∧
  decode 128 0x1400008182830000 = .ok (.placew c0 (.k 1) (.k 2) (.k 3)) := by decide +kernel

/-- Integer arithmetic in format R (Table 9.2; TYPE of Table 7.4). -/
theorem test_decode_integer :
  decode 128 0x2000000102030020 = .ok (.add ⟨c0, .v 1, .v 2, .v 3, .i32⟩) ∧
  decode 128 0x2100000102030000 = .ok (.sub ⟨c0, .v 1, .v 2, .v 3, .i8⟩) ∧
  decode 128 0x2200000102EF0050 = .ok (.mul ⟨c0, .v 1, .v 2, .c 47, .n16⟩) ∧
  decode 128 0x2300000402060070 = .ok (.mulh ⟨c0, .v 4, .v 2, .v 6, .n64⟩) ∧
  decode 128 0x2400000102030460 = .ok (.mad ⟨c0, .v 1, .v 2, .v 3, .v 4, .n32⟩) ∧
  decode 128 0x2500000102030010 = .ok (.div ⟨c0, .v 1, .v 2, .v 3, .i16⟩) ∧
  decode 128 0x2600000204060030 = .ok (.rem ⟨c0, .v 2, .v 4, .v 6, .i64⟩) ∧
  decode 128 0x2700000102030040 = .ok (.min ⟨c0, .v 1, .v 2, .v 3, .n8⟩) ∧
  decode 128 0x2800008182830020 = .ok (.max ⟨c0, .k 1, .k 2, .k 3, .i32⟩) ∧
  decode 128 0x2900000102000020 = .ok (.abs ⟨c0, .v 1, .v 2, .i32⟩) ∧
  decode 128 0x2A00000102000060 = .ok (.neg ⟨c0, .v 1, .v 2, .n32⟩) := by decide +kernel

/-- Logic, shifts and bit fields in format R (Table 9.4, R216, R217). -/
theorem test_decode_logic :
  decode 128 0x2B000004080C00F1 = .ok (.and ⟨c0, .v 4, .v 8, .v 12, .b128⟩) ∧
  decode 128 0x2C000002040600F0 = .ok (.or ⟨c0, .v 2, .v 4, .v 6, .b64⟩) ∧
  decode 128 0x2D000001020300E0 = .ok (.xor ⟨c0, .v 1, .v 2, .v 3, .b32⟩) ∧
  decode 128 0x2E000001020000E0 = .ok (.not ⟨c0, .v 1, .v 2, .b32⟩) ∧
  decode 128 0x30000001020300E0 = .ok (.shl ⟨c0, .v 1, .v 2, .v 3, .b32⟩) ∧
  decode 128 0x31000002040500F0 = .ok (.shr ⟨c0, .v 2, .v 4, .v 5, .b64⟩) ∧
  decode 128 0x3200000102C500E0 = .ok (.sar ⟨c0, .v 1, .v 2, .c 5, .b32⟩) ∧
  decode 128 0x33000001020300E0 = .ok (.rot ⟨c0, .v 1, .v 2, .v 3, .b32⟩) ∧
  decode 128 0x34000001020000F0 = .ok (.popc ⟨c0, .v 1, .v 2, .b64⟩) ∧
  decode 128 0x35000001020000E0 = .ok (.clz ⟨c0, .v 1, .v 2, .b32⟩) ∧
  decode 128 0x36000002040000F0 = .ok (.brev ⟨c0, .v 2, .v 4, .b64⟩) ∧
  decode 128 0x3700000102030020 = .ok (.bfx ⟨c0, .v 1, .v 2, .v 3, .i32⟩) ∧
  decode 128 0x38000001020304E0 = .ok (.bfi ⟨c0, .v 1, .v 2, .v 3, .v 4, .b32⟩) := by decide +kernel

/-- Addresses, moves, comparisons and predicates in format R (R218 to R221). -/
theorem test_decode_moves :
  decode 128 0x3900000204030520 = .ok (.lea ⟨c0, .v 2, .v 4, .v 3, .i32, 5⟩) ∧
  decode 128 0x3A000001020000E0 = .ok (.mov ⟨c0, .v 1, .v 2, .b32⟩) ∧
  decode 128 0x3B0000010203A4E0 = .ok (.sel ⟨c0, .v 1, .v 2, .v 3, 4, .b32⟩) ∧
  decode 128 0x3C0000A202030560 = .ok (.cmp ⟨c0, 2, .v 2, .v 3, .ge, .n32⟩) ∧
  decode 128 0x3D0000A1A2A30000 = .ok (.pand ⟨c0, 1, 2, 3⟩) ∧
  decode 128 0x3E0000A1A2A30000 = .ok (.por ⟨c0, 1, 2, 3⟩) ∧
  decode 128 0x3F0000A1A2A30000 = .ok (.pxor ⟨c0, 1, 2, 3⟩) ∧
  decode 128 0x2F0000A1A2000000 = .ok (.pnot ⟨c0, 1, 2⟩) := by decide +kernel

/-- Format I (Table 7.6, R164). -/
theorem test_decode_immediate :
  decode 128 0x40000001022FFFFF = .ok (.addI ⟨c0, .v 1, .v 2, .i32, 0xFFFFF⟩) ∧
  decode 128 0x4100000102600005 = .ok (.subI ⟨c0, .v 1, .v 2, .n32, 5⟩) ∧
  decode 128 0x4200000102200007 = .ok (.mulI ⟨c0, .v 1, .v 2, .i32, 7⟩) ∧
  decode 128 0x4300000102E00F0F = .ok (.andI ⟨c0, .v 1, .v 2, .b32, 0xF0F⟩) ∧
  decode 128 0x4400000204F00001 = .ok (.orI ⟨c0, .v 2, .v 4, .b64, 1⟩) ∧
  decode 128 0x4500000102E00001 = .ok (.xorI ⟨c0, .v 1, .v 2, .b32, 1⟩) ∧
  decode 128 0x4600000102E0001F = .ok (.shlI ⟨c0, .v 1, .v 2, .b32, 31⟩) ∧
  decode 128 0x4700000102E00001 = .ok (.shrI ⟨c0, .v 1, .v 2, .b32, 1⟩) ∧
  decode 128 0x4800000204F0003F = .ok (.sarI ⟨c0, .v 2, .v 4, .b64, 63⟩) ∧
  decode 128 0x4900000102E00008 = .ok (.rotI ⟨c0, .v 1, .v 2, .b32, 8⟩) ∧
  decode 128 0x4A00000102100009 = .ok (.minI ⟨c0, .v 1, .v 2, .i16, 9⟩) ∧
  decode 128 0x4B00000102500009 = .ok (.maxI ⟨c0, .v 1, .v 2, .n16, 9⟩) ∧
  decode 128 0x4C0000A10229FFFF = .ok (.cmpI ⟨c0, 1, .v 2, .gt, .i32, 0x1FFFF⟩) ∧
  decode 128 0x4D00000204380000 = .ok (.leaI ⟨c0, .v 2, .v 4, 0x80000⟩) ∧
  decode 128 0x4E00000540400000 = .ok (.movi ⟨c0, .v 5, 0x40400000⟩) := by decide +kernel

/-- Floating and packed arithmetic (R222 to R228; RM of Table 6.4). -/
theorem test_decode_floating :
  decode 128 0x50000001020300A0 = .ok (.fadd ⟨c0, .v 1, .v 2, .v 3, .f32, .rne⟩) ∧
  decode 128 0x5100000102030084 = .ok (.fsub ⟨c0, .v 1, .v 2, .v 3, .f16, .rtz⟩) ∧
  decode 128 0x5200000102F00098 = .ok (.fmul ⟨c0, .v 1, .v 2, .c 48, .bf16, .rup⟩) ∧
  decode 128 0x53000002040608BC = .ok (.ffma ⟨c0, .v 2, .v 4, .v 6, .v 8, .f64, .rdn⟩) ∧
  decode 128 0x54000001020300A0 = .ok (.fmin ⟨c0, .v 1, .v 2, .v 3, .f32⟩) ∧
  decode 128 0x55000001020300A0 = .ok (.fmax ⟨c0, .v 1, .v 2, .v 3, .f32⟩) ∧
  decode 128 0x560000A1020306A0 = .ok (.fcmp ⟨c0, 1, .v 2, .v 3, .un, .f32⟩) ∧
  decode 128 0x5700000102001AC4 = .ok (.fcvt ⟨c0, .v 1, .v 2, .flt .e4m3, .flt (.std .f32), true, .rtz⟩) ∧
  decode 128 0x58000001020000D0 = .ok (.fclass ⟨c0, .v 1, .v 2, .e5m2⟩) ∧
  decode 128 0x59000001020300A0 = .ok (.fdiv ⟨c0, .v 1, .v 2, .v 3, .f32, .rne⟩) ∧
  decode 128 0x5A000002040000B4 = .ok (.fsqrt ⟨c0, .v 2, .v 4, .f64, .rtz⟩) ∧
  decode 128 0x5B000001020009A0 = .ok (.sfn ⟨c0, .v 1, .v 2, .erf⟩) ∧
  decode 128 0x5C00000102030080 = .ok (.padd2 ⟨c0, .v 1, .v 2, .v 3, .f16, .rne⟩) ∧
  decode 128 0x5D00000102030090 = .ok (.pmul2 ⟨c0, .v 1, .v 2, .v 3, .bf16, .rne⟩) ∧
  decode 128 0x5E00000102030480 = .ok (.pfma2 ⟨c0, .v 1, .v 2, .v 3, .v 4, .f16, .rne⟩) := by decide +kernel

/-- Lane instructions (R229 to R234). -/
theorem test_decode_lanes :
  decode 128 0x6000000102C10BE1 = .ok (.shfl ⟨c0, .v 1, .v 2, .c 1, .up, 3, true, false⟩) ∧
  decode 128 0x61000001020065AC = .ok (.redl ⟨c0, .v 1, .v 2, .fadd .f32 .rdn, 5⟩) ∧
  decode 128 0x6200000102001261 = .ok (.scanl ⟨c0, .v 1, .v 2, .min .n32, 2, true⟩) ∧
  decode 128 0x63000081A2000002 = .ok (.vote ⟨c0, .k 1, 2, .ballot⟩) := by decide +kernel

/-- Format M (Tables 7.7 to 7.9, 10.4). -/
theorem test_decode_memory :
  decode 128 0x7000000402FFE446 = .ok (.ld ⟨c0, .v 4, .v 2, .gl 0x3FF, .b32, 9, .acq .part⟩) ∧
  decode 128 0x71000004033FC269 = .ok (.st ⟨c0, .v 4, .v 3, .rem 7 0x1F, .b64, 0, .rel .cluster⟩) ∧
  decode 128 0x7200000002004C00 = .ok (.pref ⟨c0, .v 2, 1, .b8, 3⟩) ∧
  decode 128 0x7300000402004154 = .ok (.ldf ⟨c0, .v 4, .v 2, .sp 1, 0, true, false⟩) ∧
  decode 128 0x7400000402004141 = .ok (.ste ⟨c0, .v 4, .v 2, .sp 1, 0, false, true⟩) ∧
  decode 128 0x7500000402004140 = .ok (.stf ⟨c0, .v 4, .v 2, .sp 1, 0, false, false⟩) ∧
  decode 128 0x7600000002004144 = .ok (.setfe ⟨c0, .v 2, .sp 1, 0, true, false⟩) ∧
  decode 128 0x7700000402057E1E = .ok (.atom ⟨c0, .v 4, .v 2, .v 5, .cas .b32, .gl, .acqRel .sys⟩) ∧
  decode 128 0x7800000002058914 = .ok (.red ⟨c0, .v 2, .v 5, .fadd .bf16, .gl, some .part⟩) ∧
  decode 128 0x7900000802043E0C = .ok (.gth ⟨c0, .v 8, .v 2, .v 4, 3, some .part⟩) := by decide +kernel

/-- Fences, barriers, owner bits and copies (R249 to R253, Table 10.7). -/
theorem test_decode_sync :
  decode 128 0x8000000000000009 = .ok (.fenceR c0 .part) ∧
  decode 128 0x8000000000000002 = .ok (.fenceA c0 .team) ∧
  decode 128 0x800000000000000F = .ok (.fenceAr c0 .sys) ∧
  decode 128 0x8100000000000000 = .ok (.barT c0) ∧
  decode 128 0x8100000000000001 = .ok (.barC c0) ∧
  decode 128 0x8200000102000001 = .ok (.own ⟨c0, .v 1, .v 2, true⟩) ∧
  decode 128 0x8300000082000002 = .ok (.waito ⟨c0, .k 2, false, true⟩) ∧
  decode 128 0x8400000082840004 = .ok (.cpyG2s ⟨c0, .k 2, .k 4, true⟩) ∧
  decode 128 0x8400000082840001 = .ok (.cpyS2g ⟨c0, .k 2, .k 4, false⟩) ∧
  decode 128 0x8400000082840002 = .ok (.cpyS2r ⟨c0, .k 2, .k 4, false⟩) ∧
  decode 128 0x8400000082840003 = .ok (.cpyR2s ⟨c0, .k 2, .k 4, false⟩) ∧
  decode 128 0x850000C000840000 = .ok (.fillS ⟨c0, .c 0, .v 0, .k 4, false⟩) ∧
  decode 128 0x8500008182840005 = .ok (.fillG ⟨c0, .k 1, .k 2, .k 4, true⟩) := by decide +kernel

/-- The matrix array (R268 to R279). -/
theorem test_decode_matrix :
  decode 128 0x9000000083000004 = .ok (.gangset c0 (.k 3) 4) ∧
  decode 128 0x91000000820049E5 = .ok (.lds ⟨c0, .v 0, .k 2, .e4m3, true, true, 3, 9⟩) ∧
  decode 128 0x9100008682000110 = .ok (.ldsSlab ⟨c0, .k 6, .k 2, .bf16, false, false, 2, 0⟩) ∧
  decode 128 0x9200000000000002 = .ok (.swp c0 true) ∧
  decode 128 0x9200000000000001 = .ok (.swpFree c0 false) ∧
  decode 128 0x9300008182830024 = .ok (.mma ⟨c0, .k 1, .k 2, .k 3, .i8, false, true, false⟩) ∧
  decode 128 0x9400000081D00000 = .ok (.accz c0 (.k 1) (.c 16)) ∧
  decode 128 0x9400000081820001 = .ok (.acczFree c0 (.k 1) (.k 2)) ∧
  decode 128 0x9500000481000000 = .ok (.accrd c0 (.v 4) (.k 1)) ∧
  decode 128 0x9600000081040000 = .ok (.accwr c0 (.k 1) (.v 4)) ∧
  decode 128 0x9700008182830034 = .ok (.accst ⟨c0, .k 1, .k 2, .k 3, .i8, true, true⟩) ∧
  decode 128 0x9800000482830002 = .ok (.accscl ⟨c0, .v 4, .k 2, .k 3, .rup⟩) := by decide +kernel

/-- The common top (Table 7.1): STALL 5, SET 6, WTAG 3, WLEFT 2, PN, p4. -/
theorem test_decode_top : decode 128 0x20B9AC0102030020 = .ok (.add ⟨⟨5, 6, 3, 2, true, 4⟩, .v 1, .v 2, .v 3, .i32⟩) := by decide +kernel
/-- Headers (Table 7.13): a good one, and the three malformed kinds of R171. -/
theorem test_header :
    decodeHeader 0xFC03FE0200006453 = some ⟨3, 127, 256, 3, 1, 5, false, false, true, true⟩ ∧
      decodeHeader 0xFCFF01FFFDFFEBFC = some ⟨255, 0, -2, -1, 2, 63, true, true, false, false⟩ := by decide +kernel
theorem test_header_malformed :
    decodeHeader 0xFC00FE0000000000 = none ∧ decodeHeader 0xFC03FE0000000C00 = none ∧
      decodeHeader 0xFC03FE0000002000 = none := by decide +kernel

/-- Words that are no instruction (R160, R176): reserved opcodes, reserved bits, codes, registers. -/
theorem test_decode_refuses :
    decode 128 0 = .error ⟨1, 0⟩ ∧ decode 128 0xFFFFFFFFFFFFFFFF = .error ⟨1, 0⟩ ∧
    decode 128 0x0100000000000100 = .error ⟨2, 8⟩ ∧ decode 128 0x2000000102030120 = .error ⟨2, 8⟩ ∧
    decode 128 0x2000100102030020 = .error ⟨2, 44⟩ ∧ decode 128 0x2000000102A90020 = .error ⟨3, 0xA9⟩ ∧
    decode 32 0x2000000120030020 = .error ⟨3, 0x20⟩ ∧ decode 128 0x20000001030200E0 = .error ⟨2, 4⟩ ∧
    decode 128 0x2000008101020020 = .error ⟨3, 0x81⟩ := by decide +kernel

/-! ## Well-formedness: a term that each check refuses -/

/-- The common top and the limits of control and system instructions (R154, R195). -/
theorem test_wf_system :
    (Instr.nop ⟨0, 0, 0, 1, false, 0⟩).wf 128 = false ∧ (Instr.nop ⟨0, 0, 7, 1, false, 0⟩).wf 128 = false ∧
    (Instr.mfs c0 (.v 1) 5).wf 128 = false ∧ (Instr.mfs c0 (.v 2) 0x101).wf 128 = false ∧
    (Instr.mfs c0 (.v 1) 0x10).wf 128 = false ∧ (Instr.mts c0 0 (.v 1)).wf 128 = false ∧
    (Instr.mts c0 0x102 (.v 1)).wf 128 = false ∧ (Instr.mts c0 0x31 (.v 2)).wf 128 = false ∧
    (Instr.barT { c0 with pred := 1 }).wf 128 = false ∧ (Instr.barC { c0 with pn := true }).wf 128 = false ∧
    (Instr.brx c0 (.v 0)).wf 128 = false ∧ (Instr.call c0 (.v 3) 0).wf 128 = false ∧
    (Instr.eretRetry c0 (.v 1)).wf 128 = false ∧ (Instr.eretRedir c0 (.k 1) (.k 3)).wf 128 = false ∧
    (Instr.mfsAevt c0 (.v 1)).wf 128 = false ∧ (Instr.mtsApool c0 (.p 1)).wf 128 = false ∧
    (Instr.mtsPmc c0 0 (.k 1)).wf 128 = false ∧ (Instr.evtH c0 0 (.v 1)).wf 128 = false := by decide +kernel
theorem test_wf_templates :
    (Instr.frz c0 40 (.k 4) 0 0).wf 32 = false ∧ (Instr.frz c0 0 (.k 2) 0 0).wf 32 = false ∧
    (Instr.stamp c0 0 (.v 1) (.k 1)).wf 32 = false ∧ (Instr.spawn c0 0 (.p 1)).wf 32 = false ∧
    (Instr.spawnRem c0 0 (.v 1) (.c 1)).wf 32 = false ∧ (Instr.ctxsave c0 (.v 1) (.k 1) (.k 2)).wf 32 = false ∧
    (Instr.ctxsaveFull c0 (.k 1) (.k 1) (.k 3)).wf 32 = false ∧ (Instr.ctxload c0 (.c 1) (.k 2)).wf 32 = false ∧
    (Instr.ctxsw c0 (.v 1)).wf 32 = false ∧ (Instr.tlbiPage c0 (.k 1) false).wf 32 = false ∧
    (Instr.tlbiGrain c0 (.k 2) (.v 1) false).wf 32 = false ∧ (Instr.placew c0 (.k 1) (.k 1) (.v 1)).wf 32 = false := by
  decide +kernel

/-- Types and registers of the integer and bit instructions (R159, R160, R213 to R220). -/
theorem test_wf_integer :
    (Instr.add ⟨c0, .v 1, .v 2, .v 4, .i64⟩).wf 128 = false ∧ (Instr.add ⟨c0, .v 32, .v 2, .v 4, .i32⟩).wf 32 = false ∧
    (Instr.add ⟨c0, .k 1, .v 2, .v 4, .i32⟩).wf 128 = false ∧ (Instr.add ⟨c0, .c 1, .v 2, .v 4, .i32⟩).wf 128 = false ∧
    (Instr.add ⟨c0, .v 1, .c 48, .v 4, .i32⟩).wf 128 = false ∧ (Instr.addI ⟨c0, .v 1, .v 2, .n64, 0⟩).wf 128 = false ∧
    (Instr.mad ⟨c0, .v 1, .v 2, .v 4, .p 1, .i32⟩).wf 128 = false ∧ (Instr.neg ⟨c0, .v 2, .v 1, .i64⟩).wf 128 = false ∧
    (Instr.mulh ⟨c0, .v 1, .v 2, .v 4, .i8⟩).wf 128 = false ∧ (Instr.bfx ⟨c0, .v 1, .v 2, .v 4, .i16⟩).wf 128 = false ∧
    (Instr.abs ⟨c0, .v 1, .v 2, .n32⟩).wf 128 = false ∧ (Instr.shl ⟨c0, .v 4, .v 8, .v 4, .b128⟩).wf 128 = false ∧
    (Instr.and ⟨c0, .v 4, .v 6, .v 8, .b128⟩).wf 128 = false ∧ (Instr.andI ⟨c0, .v 4, .v 8, .b128, 0⟩).wf 128 = false ∧
    (Instr.shlI ⟨c0, .v 4, .v 8, .b128, 0⟩).wf 128 = false ∧ (Instr.popc ⟨c0, .v 4, .v 8, .b128⟩).wf 128 = false ∧
    (Instr.not ⟨c0, .v 1, .v 2, .b64⟩).wf 128 = false ∧ (Instr.bfi ⟨c0, .v 4, .v 8, .v 1, .v 4, .b128⟩).wf 128 = false ∧
    (Instr.lea ⟨c0, .v 2, .v 4, .v 6, .n64, 0⟩).wf 128 = false ∧ (Instr.leaI ⟨c0, .v 2, .v 1, 0⟩).wf 128 = false ∧
    (Instr.movi ⟨c0, .p 1, 0⟩).wf 128 = false ∧ (Instr.sel ⟨c0, .k 1, .k 2, .k 3, 1, .b32⟩).wf 128 = false ∧
    (Instr.cmp ⟨c0, 1, .v 1, .v 2, .eq, .i64⟩).wf 128 = false ∧ (Instr.cmpI ⟨c0, 1, .p 1, .eq, .i32, 0⟩).wf 128 = false := by
  decide +kernel

/-- Types, modes and registers of the floating and lane instructions (R222 to R234). -/
theorem test_wf_floating :
    (Instr.fadd ⟨c0, .v 1, .v 2, .v 4, .f64, .rne⟩).wf 128 = false ∧ (Instr.fdiv ⟨c0, .v 1, .v 2, .v 4, .f16, .rne⟩).wf 128 = false ∧
    (Instr.fsqrt ⟨c0, .v 1, .v 2, .bf16, .rne⟩).wf 128 = false ∧ (Instr.padd2 ⟨c0, .v 1, .v 2, .v 4, .f32, .rne⟩).wf 128 = false ∧
    (Instr.pfma2 ⟨c0, .v 1, .v 2, .v 4, .v 5, .f32, .rne⟩).wf 128 = false ∧
    (Instr.ffma ⟨c0, .v 1, .v 2, .v 4, .p 1, .f32, .rne⟩).wf 128 = false ∧
    (Instr.fmin ⟨c0, .k 1, .v 2, .k 4, .f32⟩).wf 128 = false ∧ (Instr.fcmp ⟨c0, 1, .p 0, .v 1, .eq, .f32⟩).wf 128 = false ∧
    (Instr.fcvt ⟨c0, .v 1, .v 2, .int .i32, .int .i32, false, .rtz⟩).wf 128 = false ∧
    (Instr.fcvt ⟨c0, .v 1, .v 2, .flt .e4m3, .flt (.std .f32), false, .rup⟩).wf 128 = false ∧
    (Instr.fclass ⟨c0, .v 1, .c 62, .e4m3⟩).wf 128 = false ∧ (Instr.sfn ⟨c0, .k 1, .v 2, .rcp⟩).wf 128 = false ∧
    (Instr.shfl ⟨c0, .v 1, .k 2, .c 1, .up, 3, true, false⟩).wf 128 = false ∧
    (Instr.redl ⟨c0, .v 1, .v 2, .add .i8, 5⟩).wf 128 = false ∧ (Instr.redl ⟨c0, .k 1, .v 2, .add .i32, 4⟩).wf 128 = false ∧
    (Instr.scanl ⟨c0, .v 1, .v 2, .fadd .f16 .rne, 5, false⟩).wf 128 = false ∧
    (Instr.scanl ⟨c0, .k 1, .v 2, .add .i32, 5, false⟩).wf 128 = false ∧
    (Instr.vote ⟨c0, .v 1, 1, .any⟩).wf 128 = false ∧ (Instr.vote ⟨c0, .p 1, 1, .ballot⟩).wf 128 = false := by decide +kernel

/-- Spaces, modifiers and registers of the memory instructions (R165, R166, R242, R244, R248 to R253). -/
theorem test_wf_memory :
    (Instr.ld ⟨c0, .v 4, .v 2, .gl 0, .b32, 1, .vol⟩).wf 128 = false ∧ (Instr.st ⟨c0, .v 4, .v 2, .gl 0, .b32, 1, .vol⟩).wf 128 = false ∧
    (Instr.ld ⟨c0, .v 4, .v 3, .gl 0, .b32, 1, .plain⟩).wf 128 = false ∧ (Instr.st ⟨c0, .p 4, .v 2, .gl 0, .b32, 1, .plain⟩).wf 128 = false ∧
    (Instr.pref ⟨c0, .v 2, 0, .b32, 0⟩).wf 128 = false ∧ (Instr.pref ⟨c0, .v 1, 0, .b32, 1⟩).wf 128 = false ∧
    (Instr.ldf ⟨c0, .v 4, .v 2, .gl 0, 0, false, false⟩).wf 128 = false ∧
    (Instr.ste ⟨c0, .v 4, .v 2, .sp 0, 0, true, false⟩).wf 128 = false ∧ (Instr.stf ⟨c0, .v 4, .v 2, .gl 0, 0, false, false⟩).wf 128 = false ∧
    (Instr.setfe ⟨c0, .v 2, .gl 0, 0, true, false⟩).wf 128 = false ∧
    (Instr.atom ⟨c0, .v 4, .v 2, .v 5, .fadd .f16, .gl, .plain⟩).wf 128 = false ∧
    (Instr.atom ⟨c0, .v 4, .v 2, .v 5, .cas .b128, .gl, .plain⟩).wf 128 = false ∧
    (Instr.red ⟨c0, .v 2, .v 5, .xchg .b32, .gl, none⟩).wf 128 = false ∧
    (Instr.red ⟨c0, .v 2, .v 5, .fadd .f32, .sp, none⟩).wf 128 = false ∧
    (Instr.gth ⟨c0, .v 4, .v 2, .v 4, 3, none⟩).wf 128 = false ∧ (Instr.own ⟨c0, .k 1, .v 2, false⟩).wf 128 = false ∧
    (Instr.waito ⟨c0, .p 1, false, false⟩).wf 128 = false ∧ (Instr.cpyG2s ⟨c0, .v 2, .k 4, false⟩).wf 128 = false ∧
    (Instr.fillS ⟨c0, .c 0, .v 1, .k 4, false⟩).wf 128 = false ∧ (Instr.fillG ⟨c0, .v 1, .k 2, .k 4, false⟩).wf 128 = false := by
  decide +kernel

/-- Registers of the matrix instructions (R268 to R279). -/
theorem test_wf_matrix :
    (Instr.gangset c0 (.c 1) 2).wf 128 = false ∧ (Instr.lds ⟨c0, .v 1, .k 2, .bf16, false, false, 0, 0⟩).wf 128 = false ∧
    (Instr.ldsSlab ⟨c0, .v 1, .k 2, .bf16, false, false, 0, 0⟩).wf 128 = false ∧
    (Instr.mma ⟨c0, .k 1, .v 2, .k 3, .i8, false, false, false⟩).wf 128 = false ∧
    (Instr.accz c0 (.k 1) (.v 1)).wf 128 = false ∧ (Instr.acczFree c0 (.c 1) (.k 1)).wf 128 = false ∧
    (Instr.accrd c0 (.k 4) (.k 1)).wf 128 = false ∧ (Instr.accwr c0 (.k 1) (.v 3)).wf 128 = false ∧
    (Instr.accst ⟨c0, .k 1, .k 2, .v 3, .i8, false, false⟩).wf 128 = false ∧
    (Instr.accscl ⟨c0, .v 3, .k 2, .k 3, .rne⟩).wf 128 = false := by decide +kernel

/-! ## One step each -/

/-- A live lane inside its block with the given v registers and predicates. -/
def lane (v : AMap W32) (p : BitVec 8 := 0) : Lane := { st := .live, pc := 8, entry := false, left := 2, v := v, p := p }

/-- The machine about to execute an instruction in the group of `State.withFetchWord`, with the given lanes and k registers. -/
def mach (ls : List Lane) (k : AMap W32 := []) (f : Group → Group := id) : State :=
  let s := (State.reset.withFetchWord 64 0).modGroup 0 0 fun g => f { g with lanes := ls, k := k }
  { s with inputs := [], cur := { tile := 0, slot := 0, sub := maskOf (List.range ls.length), pc := 8, word := 0 } }

/-- The state after an instruction. -/
def after (i : Instr) (s : State) : Option State :=
  match exec i s with
  | .next t => some t
  | _ => none

/-- A register of a lane after an instruction. -/
def outReg (i : Instr) (s : State) (l r : Nat) : Option W32 := (after i s).map fun t => t.val l r

/-- Register writes (lane, register, value) and the flags of FPS and ISTAT. -/
structure Rec where
  res : List (Nat × Nat × W32)
  fps : Nat
  ist : Nat
  deriving DecidableEq, Repr

/-- The register writes and FPS and ISTAT flags of the record that an instruction leaves last. -/
def outRec (i : Instr) (s : State) : Option Rec :=
  (after i s).bind fun t => t.G.out.getLast?.map fun o => ⟨o.res, o.fps, o.ist⟩

/-- Class, cause and INFO1 of the trap that an instruction raises. -/
def outTrap (i : Instr) (s : State) : Option (TrapClass × Nat × Nat) :=
  (after i s).bind fun t => t.G.lastTrap.map fun r => (r.cls, r.cause, r.info1)

/-- One lane with v1 and v2. -/
def two (a b : W32) : State := mach [lane [(1, a), (2, b)]]

/-- Integer results of R214 and R129: reading of the type, reduction, extension. -/
theorem test_integer :
    outReg (.min ⟨c0, .v 3, .v 1, .v 2, .n32⟩) (two 0xFFFFFFFF 1) 0 3 = some 1 ∧
    outReg (.min ⟨c0, .v 3, .v 1, .v 2, .i32⟩) (two 0xFFFFFFFF 1) 0 3 = some 0xFFFFFFFF ∧
    outReg (.add ⟨c0, .v 3, .v 1, .v 2, .i8⟩) (two 0x7F 1) 0 3 = some 0xFFFFFF80 ∧
    outReg (.sub ⟨c0, .v 3, .v 1, .v 2, .n16⟩) (two 0 1) 0 3 = some 0xFFFF ∧
    outReg (.mulh ⟨c0, .v 3, .v 1, .v 2, .i32⟩) (two 0xFFFFFFFF 2) 0 3 = some 0xFFFFFFFF ∧
    outReg (.max ⟨c0, .v 3, .v 1, .v 2, .i32⟩) (two 0xFFFFFFFF 1) 0 3 = some 1 ∧
    outReg (.mul ⟨c0, .v 3, .v 1, .v 2, .n8⟩) (two 16 17) 0 3 = some 16 ∧
    outReg (.mad ⟨c0, .v 3, .v 1, .v 2, .v 1, .i32⟩) (two 3 4) 0 3 = some 15 ∧
    outReg (.abs ⟨c0, .v 3, .v 1, .i32⟩) (two 0x80000000 0) 0 3 = some 0x80000000 ∧
    outReg (.neg ⟨c0, .v 3, .v 1, .n8⟩) (two 1 0) 0 3 = some 0xFF := by decide +kernel
theorem test_integer_immediate :
    outReg (.addI ⟨c0, .v 3, .v 1, .i32, 0xFFFFF⟩) (two 5 0) 0 3 = some 4 ∧
    outReg (.addI ⟨c0, .v 3, .v 1, .n32, 0xFFFFF⟩) (two 1 0) 0 3 = some 0x100000 ∧
    outReg (.subI ⟨c0, .v 3, .v 1, .i32, 0xFFFFF⟩) (two 5 0) 0 3 = some 6 ∧
    outReg (.mulI ⟨c0, .v 3, .v 1, .i32, 0xFFFFF⟩) (two 5 0) 0 3 = some 0xFFFFFFFB ∧
    outReg (.minI ⟨c0, .v 3, .v 1, .i32, 0xFFFFF⟩) (two 5 0) 0 3 = some 0xFFFFFFFF ∧
    outReg (.maxI ⟨c0, .v 3, .v 1, .n8, 7⟩) (two 0x105 0) 0 3 = some 7 := by decide +kernel

/-- Table 9.3. -/
theorem test_division :
    outRec (.div ⟨c0, .v 3, .v 1, .v 2, .i32⟩) (two 7 0xFFFFFFFE) = some ⟨[(0, 3, 0xFFFFFFFD)], 0, 0⟩ ∧
    outRec (.rem ⟨c0, .v 3, .v 1, .v 2, .i32⟩) (two 0xFFFFFFF9 2) = some ⟨[(0, 3, 0xFFFFFFFF)], 0, 0⟩ ∧
    outRec (.div ⟨c0, .v 3, .v 1, .v 2, .n32⟩) (two 5 0) = some ⟨[(0, 3, 0xFFFFFFFF)], 0, 1⟩ ∧
    outRec (.rem ⟨c0, .v 3, .v 1, .v 2, .i32⟩) (two 5 0) = some ⟨[(0, 3, 5)], 0, 1⟩ ∧
    outRec (.div ⟨c0, .v 3, .v 1, .v 2, .i8⟩) (two 0x80 0xFFFFFFFF) = some ⟨[(0, 3, 0xFFFFFF80)], 0, 2⟩ := by decide +kernel

/-- Table 9.4, and the examples of R217. -/
theorem test_logic :
    outReg (.and ⟨c0, .v 3, .v 1, .v 2, .b32⟩) (two 0xF0F0 0xFF00) 0 3 = some 0xF000 ∧
    outReg (.or ⟨c0, .v 3, .v 1, .v 2, .b32⟩) (two 0xF0F0 0xFF00) 0 3 = some 0xFFF0 ∧
    outReg (.xor ⟨c0, .v 3, .v 1, .v 2, .b32⟩) (two 0xF0F0 0xFF00) 0 3 = some 0x0FF0 ∧
    outReg (.not ⟨c0, .v 3, .v 1, .b32⟩) (two 0xF0F0 0) 0 3 = some 0xFFFF0F0F ∧
    outReg (.shl ⟨c0, .v 3, .v 1, .v 2, .b32⟩) (two 1 32) 0 3 = some 0 ∧
    outReg (.shl ⟨c0, .v 3, .v 1, .v 2, .b32⟩) (two 1 0x101) 0 3 = some 2 ∧
    outReg (.shr ⟨c0, .v 3, .v 1, .v 2, .b32⟩) (two 0x80000000 31) 0 3 = some 1 ∧
    outReg (.sar ⟨c0, .v 3, .v 1, .v 2, .b32⟩) (two 0x80000000 40) 0 3 = some 0xFFFFFFFF ∧
    outReg (.rot ⟨c0, .v 3, .v 1, .v 2, .b32⟩) (two 0x80000001 33) 0 3 = some 3 ∧
    outReg (.popc ⟨c0, .v 3, .v 1, .b32⟩) (two 0xF0F0 0) 0 3 = some 8 ∧
    outReg (.clz ⟨c0, .v 3, .v 1, .b32⟩) (two 0 0) 0 3 = some 32 ∧
    outReg (.brev ⟨c0, .v 3, .v 1, .b32⟩) (two 1 0) 0 3 = some 0x80000000 ∧
    outReg (.bfx ⟨c0, .v 3, .v 1, .v 2, .i32⟩) (two 0xF50 0x404) 0 3 = some 5 ∧
    outReg (.bfx ⟨c0, .v 3, .v 1, .v 2, .i32⟩) (two 0xF50 0x405) 0 3 = some 0xFFFFFFFA ∧
    outReg (.bfi ⟨c0, .v 3, .v 1, .v 2, .v 1, .b32⟩) (two 0xF05 0x408) 0 3 = some 0x505 := by decide +kernel
theorem test_logic_immediate :
    outReg (.andI ⟨c0, .v 3, .v 1, .b32, 0xFFFFF⟩) (two 0xFFF0F0F0 0) 0 3 = some 0x0F0F0 ∧
    outReg (.orI ⟨c0, .v 3, .v 1, .b32, 0xF⟩) (two 0xF0 0) 0 3 = some 0xFF ∧
    outReg (.xorI ⟨c0, .v 3, .v 1, .b32, 0xFF⟩) (two 0xF0 0) 0 3 = some 0xF ∧
    outReg (.shlI ⟨c0, .v 3, .v 1, .b32, 63⟩) (two 1 0) 0 3 = some 0 ∧
    outReg (.shrI ⟨c0, .v 3, .v 1, .b32, 4⟩) (two 0x80000000 0) 0 3 = some 0x08000000 ∧
    outReg (.sarI ⟨c0, .v 3, .v 1, .b32, 4⟩) (two 0x80000000 0) 0 3 = some 0xF8000000 ∧
    outReg (.rotI ⟨c0, .v 3, .v 1, .b32, 4⟩) (two 0x80000001 0) 0 3 = some 0x00000018 := by decide +kernel

/-- R218 to R221: a formed address, copies, a selection under p0, a signed comparison, a discarded write of p0. -/
theorem test_moves :
    outReg (.lea ⟨c0, .v 4, .v 2, .v 1, .i32, 2⟩) (mach [lane [(1, 0xFFFFFFFF), (2, 0), (3, 1)]]) 0 4 = some 0xFFFFFFFC ∧
    outReg (.leaI ⟨c0, .v 4, .v 2, 0xFFFFF⟩) (mach [lane [(2, 0), (3, 1)]]) 0 5 = some 0 ∧
    outReg (.mov ⟨c0, .v 4, .v 1, .b32⟩) (two 9 0) 0 4 = some 9 ∧ outReg (.movi ⟨c0, .k 4, 0x40400000⟩) (two 0 0) 0 132 = some 0x40400000 ∧
    outReg (.sel ⟨c0, .v 3, .v 1, .v 2, 0, .b32⟩) (two 5 6) 0 3 = some 5 ∧
    outReg (.sel ⟨c0, .v 3, .v 1, .v 2, 1, .b32⟩) (two 5 6) 0 3 = some 6 := by decide +kernel
theorem test_predicates :
    outReg (.cmp ⟨c0, 2, .v 1, .v 2, .lt, .i32⟩) (two 0xFFFFFFFF 1) 0 162 = some 1 ∧
    outReg (.cmp ⟨c0, 2, .v 1, .v 2, .lt, .n32⟩) (two 0xFFFFFFFF 1) 0 162 = some 0 ∧
    outReg (.cmpI ⟨c0, 2, .v 1, .ge, .i32, 0x1FFFF⟩) (two 0 0) 0 162 = some 1 ∧
    outReg (.pand ⟨c0, 3, 1, 2⟩) (mach [lane [] 6]) 0 163 = some 1 ∧ outReg (.por ⟨c0, 3, 1, 4⟩) (mach [lane [] 2]) 0 163 = some 1 ∧
    outReg (.pxor ⟨c0, 3, 1, 2⟩) (mach [lane [] 6]) 0 163 = some 0 ∧ outReg (.pnot ⟨c0, 3, 1⟩) (mach [lane [] 2]) 0 163 = some 0 ∧
    outReg (.pnot ⟨c0, 0, 0⟩) (two 0 0) 0 160 = some 1 := by decide +kernel

/-- FPS after an instruction. -/
def outFps (i : Instr) (s : State) : Option W32 := (after i s).map fun t => t.G.fps

/-- Floating results: a tie to even, the examples of R224 and R228, NaNs (R135), classes (R225). -/
theorem test_floating :
    outReg (.fadd ⟨c0, .v 3, .v 1, .v 2, .f32, .rne⟩) (two 0x4B800000 0x3F800000) 0 3 = some 0x4B800000 ∧
    outFps (.fadd ⟨c0, .v 3, .v 1, .v 2, .f32, .rne⟩) (two 0x4B800000 0x3F800000) = some 1 ∧
    outReg (.fsub ⟨c0, .v 3, .v 1, .v 2, .f32, .rdn⟩) (two 0x3F800000 0x3F800000) 0 3 = some 0x80000000 ∧
    outReg (.fmul ⟨c0, .v 3, .v 1, .c 48, .f32, .rne⟩) (two 0x40400000 0) 0 3 = some 0x3FC00000 ∧
    outReg (.ffma ⟨c0, .v 3, .v 1, .v 1, .v 2, .f32, .rne⟩) (two 0x40400000 0xC1100000) 0 3 = some 0 ∧
    outReg (.fmin ⟨c0, .v 3, .v 1, .v 2, .f32⟩) (two 0x7FC00000 0x3F800000) 0 3 = some 0x3F800000 ∧
    outReg (.fmax ⟨c0, .v 3, .v 1, .v 2, .f32⟩) (two 0x80000000 0) 0 3 = some 0 ∧
    outReg (.fcmp ⟨c0, 2, .v 1, .v 2, .un, .f32⟩) (two 0x7FC00000 0) 0 162 = some 1 ∧
    outReg (.fclass ⟨c0, .v 3, .v 1, .std .f32⟩) (two 0x80000000 0) 0 3 = some 8 ∧
    outReg (.fclass ⟨c0, .v 3, .v 1, .e5m2⟩) (two 0x7C 0) 0 3 = some 128 := by decide +kernel
theorem test_conversion :
    outReg (.fcvt ⟨c0, .v 3, .v 1, .flt .e4m3, .flt (.std .f32), true, .rne⟩) (two 0x415B3333 0) 0 3 = some 0x56 ∧
    outFps (.fcvt ⟨c0, .v 3, .v 1, .flt .e4m3, .flt (.std .f32), true, .rne⟩) (two 0x415B3333 0) = some 1 ∧
    outReg (.fcvt ⟨c0, .v 3, .v 1, .flt .e4m3, .flt (.std .f32), true, .rne⟩) (two 0x43FA0000 0) 0 3 = some 0x7E ∧
    outFps (.fcvt ⟨c0, .v 3, .v 1, .flt .e4m3, .flt (.std .f32), true, .rne⟩) (two 0x43FA0000 0) = some 5 ∧
    outReg (.fcvt ⟨c0, .v 3, .v 1, .flt .e4m3, .flt (.std .f32), false, .rne⟩) (two 0xFF800000 0) 0 3 = some 0x7F ∧
    outFps (.fcvt ⟨c0, .v 3, .v 1, .flt .e4m3, .flt (.std .f32), false, .rne⟩) (two 0xFF800000 0) = some 16 := by decide +kernel
theorem test_packed :
    outReg (.padd2 ⟨c0, .v 3, .v 1, .v 2, .bf16, .rne⟩) (two 0x3F804000 0x3F80BF80) 0 3 = some 0x40003F80 ∧
    outReg (.pmul2 ⟨c0, .v 3, .v 1, .v 2, .bf16, .rne⟩) (two 0x3F804000 0x40004000) 0 3 = some 0x40004080 ∧
    outReg (.pfma2 ⟨c0, .v 3, .v 1, .v 2, .v 1, .bf16, .rne⟩) (two 0x3F803F80 0x3F803F80) 0 3 = some 0x40004000 := by
  decide +kernel
theorem test_float_pending :
    outRec (.fdiv ⟨c0, .v 3, .v 1, .v 2, .f32, .rne⟩) (two 0x3F800000 0) = some ⟨[(0, 3, 0x7F800000)], 8, 0⟩ ∧
    outRec (.fsqrt ⟨c0, .v 3, .v 1, .f32, .rne⟩) (two 0x40800000 0) = some ⟨[(0, 3, 0x40000000)], 0, 0⟩ ∧
    outRec (.sfn ⟨c0, .v 3, .v 1, .rcp⟩) (two 0x80000000 0) = some ⟨[(0, 3, 0xFF800000)], 8, 0⟩ := by decide +kernel

/-- Lanes 0 to 7 with v6 = 10 × lane. -/
def eight : State := mach ((List.range 8).map fun i => lane [(6, BitVec.ofNat 32 (10 * i))])

/-- v7 of lanes 0 to 7 after an instruction. -/
def v7 (i : Instr) (s : State) : Option (List Nat) := (after i s).map fun t => (List.range 8).map fun l => (t.val l 7).toNat

/-- Table 9.8. -/
theorem test_shuffle :
    v7 (.shfl ⟨c0, .v 7, .v 6, .c 1, .up, 3, false, false⟩) eight = some [70, 0, 10, 20, 30, 40, 50, 60] ∧
    v7 (.shfl ⟨c0, .v 7, .v 6, .c 1, .up, 3, true, false⟩) eight = some [0, 0, 10, 20, 30, 40, 50, 60] ∧
    v7 (.shfl ⟨c0, .v 7, .v 6, .c 3, .down, 3, true, false⟩) eight = some [30, 40, 50, 60, 70, 50, 60, 70] ∧
    v7 (.shfl ⟨c0, .v 7, .v 6, .c 5, .xor, 3, false, false⟩) eight = some [50, 40, 70, 60, 10, 0, 30, 20] ∧
    v7 (.shfl ⟨c0, .v 7, .v 6, .c 9, .idx, 3, true, false⟩) eight = some [0, 10, 20, 30, 40, 50, 60, 70] := by decide +kernel

/-- The four lanes of the example of R233. -/
def four : State := mach ([0x4B800000, 0x3F800000, 0x3F800000, 0xCB800000].map fun x => lane [(6, x)])

theorem test_reduce_scan :
    outRec (.redl ⟨c0, .v 7, .v 6, .fadd .f32 .rne, 2⟩) four =
      some ⟨(List.range 4).map fun l => (l, 7, 0x3F800000), 1, 0⟩ ∧
    (outRec (.scanl ⟨c0, .v 7, .v 6, .fadd .f32 .rne, 2, false⟩) four).map (·.res) =
      some [(0, 7, 0x4B800000), (1, 7, 0x4B800000), (2, 7, 0x4B800001), (3, 7, 0x3F800000)] ∧
    (outRec (.scanl ⟨c0, .v 7, .v 6, .fadd .f32 .rne, 2, true⟩) four).map (·.res) =
      some [(0, 7, 0), (1, 7, 0x4B800000), (2, 7, 0x4B800000), (3, 7, 0x4B800001)] := by decide +kernel
theorem test_vote :
    outReg (.vote ⟨c0, .k 1, 1, .ballot⟩) (mach [lane [] 2, lane [], lane [] 2]) 0 129 = some 5 ∧
    outReg (.vote ⟨{ c0 with pred := 3 }, .p 4, 1, .all⟩) (mach [lane [] 10, lane [] 0, lane [] 2]) 0 164 = some 1 ∧
    outReg (.vote ⟨c0, .p 4, 1, .any⟩) (mach [lane [] 0, lane [] 0]) 0 164 = some 0 := by decide +kernel
theorem test_wide_multiply :
    (outRec (.mul ⟨c0, .v 4, .v 2, .v 2, .i64⟩) (mach [lane [(2, 0), (3, 1)]])).map (·.res) = some [(0, 4, 0), (0, 5, 0)] ∧
    (outRec (.mulh ⟨c0, .v 4, .v 2, .v 2, .n64⟩) (mach [lane [(2, 0), (3, 1)]])).map (·.res) = some [(0, 4, 1), (0, 5, 0)] := by
  decide +kernel

/-- The pc of a lane after an instruction. -/
def outPc (i : Instr) (s : State) (l : Nat) : Option Nat := (after i s).map fun t => (t.G.lane l).pc

/-- R187 to R189: targets, the link, lanes that end, what a trap records. -/
theorem test_branches :
    outPc (.bra c0 2) (two 0 0) 0 = some 24 ∧ outPc (.bra { c0 with pn := true } 2) (two 0 0) 0 = some 16 ∧
    outPc (.brx c0 (.v 2)) (mach [lane [(2, 0x1000)]]) 0 = some 0x1000 ∧ outPc (.ret c0 (.v 2)) (mach [lane [(2, 0x1000)]]) 0 = some 0x1000 ∧
    outPc (.call c0 (.v 2) 0xFFFFFF) (two 0 0) 0 = some 0 ∧ outReg (.call c0 (.v 2) 4) (two 0 0) 0 2 = some 16 ∧
    outTrap (.bra c0 0xFFFFFE) (two 0 0) = some (.xlate, 1, 0xFFFFFFFFFFFFFFF8) ∧
    outTrap (.brx c0 (.v 2)) (mach [lane [(2, 0x1004)]]) = some (.align, 2, 0x1004) := by decide +kernel
theorem test_control :
    outPc (.nop c0) (two 0 0) 0 = some 16 ∧ outPc (.yield c0) (two 0 0) 0 = some 16 ∧
    (after (.exit { c0 with pred := 1 }) (mach [lane [] 2, lane []])).map (fun t => ((t.G.lane 0).st, (t.G.lane 1).st)) =
      some (.exited, .live) ∧
    outTrap (.trap c0 0x123) (two 0 0) = some (.sw, 1, 0x123) ∧ outTrap (.trapRet c0) (two 0 0) = some (.ill, 9, 0) ∧
    outTrap (.eretRetry c0 (.k 1)) (two 0 0) = some (.priv, 1, 1) ∧ outTrap (.placew c0 (.k 1) (.k 2) (.k 3)) (two 0 0) = some (.priv, 1, 2) ∧
    outReg (.mfs c0 (.v 3) 1) (mach [lane [], lane []]) 1 3 = some 1 ∧ outTrap (.mfs c0 (.v 3) 0x200) (two 0 0) = some (.priv, 2, 2) ∧
    outFps (.mts c0 0x20 (.v 1)) (two 0xFFFFFFFF 0) = some 0x1F1F ∧ outTrap (.mtsApool c0 (.v 1)) (two 0 0) = some (.priv, 3, 1) := by
  decide +kernel

/-- R192: trap.ret in a user handler returns past the trapped instruction where SKIP is set. -/
theorem test_trap_return :
    outPc (.trapRet c0) (mach [lane []] [] fun g => { g with xpc := 0x100, xstat := 0x180 }) 0 = some 0x108 := by decide +kernel

/-- R236, R239 to R245: an unaligned address, local bytes, an atomic, full words. -/
theorem test_memory :
    outTrap (.ld ⟨c0, .v 4, .v 2, .gl 0, .b32, 0, .plain⟩) (mach [lane [(2, 2)]]) = some (.align, 1, 2) ∧
    outTrap (.st ⟨c0, .v 4, .v 2, .gl 1, .b64, 0, .plain⟩) (mach [lane [(2, 4)]]) = some (.align, 1, 12) ∧
    ((after (.st ⟨c0, .v 1, .v 2, .sp 1, .b16, 0, .plain⟩) (two 0xABCD 4)).bind (·.curTeam)).map (fun y => (y.spGet 6, y.spGet 7)) =
      some (0xCD, 0xAB) ∧
    ((after (.stf ⟨c0, .v 1, .v 2, .sp 0, 0, false, false⟩) (two 7 8)).bind (·.curTeam)).map (fun y => (y.full, y.spRead 8 4)) =
      some ([2], 7) ∧
    ((after (.red ⟨c0, .v 2, .v 1, .add .n32, .sp, none⟩) (mach [lane [(1, 5), (2, 8)]] [] id)).bind (·.curTeam)).map
      (fun y => y.sp.length) ≠ none := by decide +kernel

/-- R276: ACCZ clears whole rows. -/
theorem test_accz :
    ((after (.accz c0 (.k 1) (.c 2)) (mach [lane []] [(1, 3)])).bind (·.curTeam)).map
      (fun y => (y.accGet 3 0, y.accGet 4 63, y.accUse)) = some (0, 0, [0]) := by decide +kernel

/-- One whole step: the schedule offers the group its turn, and `add v3, v1, v2` is fetched, decoded and executed. -/
theorem test_step_add :
    (match step (State.reset.withFetchWord 64 0x2000000301020020) with
      | .next t => ((t.tile 0).group 0).out.length + ((((t.tile 0).group 0).lane 0).pc)
      | _ => 0) = 16 := by decide +kernel
/-- A word of zeros is no instruction (R175). -/
theorem test_step_illegal :
    (match step (State.reset.withFetchWord 64 0) with
      | .next t => ((t.tile 0).group 0).lastTrap.map fun r => (r.cls, r.cause)
      | _ => none) = some (.ill, 1) := by decide +kernel

/-! ## States for the hypotheses -/

/-- The common top under p1. -/
def c1 : Ctl := { c0 with pred := 1 }

/-- Tables that map the first GiB of addresses to the plinth at 1 GiB, for partition 1. -/
def tables : List Host.Cell :=
  Memory.write (Memory.write (Memory.write (Memory.write [] 0x10000 8 0x4000001F) 0x40000000 8 0x1001) 0x40001000 8 0x2001)
    0x40002000 8 0x1F

/-- The group's threads at a level, with the tables in memory. -/
def atLevel (p : Priv) (s : State) : State := { s.modG (fun g => { g with priv := p }) with mem := tables }

/-- The agent of tile 0 issues, at a level. -/
def agentAt (p : Priv) (k : AMap W32) : State :=
  let s := atLevel .user (mach [lane []])
  let s := s.modTile 0 fun T => { T with agent := { live := true, priv := p, lanes := [{ lane [] with pc := 8 }], k := k } }
  { s with cur := { s.cur with slot := 32 } }

/-- Change the context of partition 1. -/
def withCtx (s : State) (f : Machine.Ctx → Machine.Ctx) : State := s.modCtx 1 0 f

/-- A thread whose context's event ring is full. -/
def ringMach : State := withCtx (mach [lane []]) fun c => { c with evbase := 0x10000, logsz := 4, evprod := 16 }

theorem ringMach_full : RingFull ringMach :=
  ⟨(ringMach.ctx 1 0).getD { owner := 0 }, by decide +kernel, by decide +kernel, by decide +kernel⟩
theorem two_not_full : ¬RingFull (two 0 0) := by
  rintro ⟨x, h, e, -⟩
  have k : ((two 0 0).ctx (two 0 0).T.tag (two 0 0).T.ctl.ctx).map (·.evbase) = some 0 := by decide +kernel
  rw [h] at k
  exact e (by simpa using k)

/-- A header whose reconvergence offset is 0. -/
def headerWord : W64 := 0xFC02000000000000

/-- A translation for the agent alone. -/
def agentEntry : TlbEnt := { fetchEntry with aonly := true, user := false }

/-- A delivered software trap of lane 0. -/
def aTrap : Trap :=
  { cls := .sw, cause := 1, lane := 0xFF, pc := 8, word := 0, info1 := 5, info2 := 0, lanes := 1, time := 0, delivered := true }

/-- Template 3, entered at address 64, with v2 recorded. -/
def aTmpl : Template :=
  { ctx := 0, cslot := 0, teams := [0], seq := 0, num := 3, entry := 64, idx := 5, parent := none, depth := 1, k := [], pred := 0, mask := 4
    v := [(2, 9)], link := 0, live := true, host := false, bad := false }

/-- One lane, with the template in the store. -/
def tmplMach : State := (mach [lane []]).modTile 0 fun T => { T with store := [(0, aTmpl)] }

/-- An item. -/
def anItem : Item := { idx := 1, at_ := 0, cyc := 0, src := 0 }

/-- A bin of the template with 31 items. -/
def aBin : Bin := { tmpl := 0, team := 0, items := List.replicate 31 anItem, ready := false, readyCyc := 0 }

/-- One lane, with the bin. -/
def binMach : State := tmplMach.modTile 0 fun T => T.setCtl { T.ctl with bins := [(0, aBin)] }

/-- The same team in a cluster's other tile, which place 1 names; the thread names that place in k3. -/
def farBinMach : State :=
  let s := (binMach.modTile 0 fun T => { T with places := [(0, 2 ^ 15), (1, 2 ^ 15 + 1)] }).modG fun g => { g with k := [(3, 1)] }
  s.setTile 1 ((s.tile 0).setCtl { (s.tile 0).ctl with groups := [], teams := [(3, { fetchTeam with id := 3 })] })

/-- A team whose stamp queue is full. -/
def fullStamps : Team := { fetchTeam with pend := List.replicate 32 ⟨0, 5, 3⟩ }

/-- The agent of tile 0 with a translation of its own. -/
def savedMach (k : AMap W32) : State := (agentAt .agent k).modTile 0 fun T => { T with tlb1 := [agentEntry] }

/-- Wafer time 10 ns. -/
def later (s : State) : State := { s with now := 21000 }

/-- A saved image of no team, as its bytes. -/
def imgBytes : List Byte :=
  let h := leBytes 4 64 ++ leBytes 2 1 ++ leBytes 2 1 ++ leBytes 4 0
  h ++ leBytes 4 (crc32 h) ++ List.replicate 48 0

/-- The agent with the image at address 0x10000. -/
def loadMach : State :=
  let s := savedMach [(2, 0x10000), (6, 1)]
  let s := s.modPart 1 fun P => { P with
    images := [{ ctx := 0, place := 0, va := 0x10000, listed := true, bytes := imgBytes, ctl := { pool := 4 } }] }
  { s with mem := Memory.putBytes tables 0x20010000 imgBytes }

/-- A team of 5 slabs with two slots. -/
def fiveSlabs : Team := { fetchTeam with slabs := 5, spAt := [0, 1, 2, 3, 4], resv := [0, 31] }

/-- A thread with the k registers, in a team of 5 slabs that holds the planes; key slot 0 is clear. -/
def arrMach (k : AMap W32) : State :=
  let s := (mach [lane []] k).modTile 0 fun T => { T.setTeam fiveSlabs with
    arr := { holder := some 0, qs0 := { inuse := true } } }
  s.modPart 1 fun P => { P with keys := [(0, .clear)] }

/-- A loaded word of the scratchpad of the thread's team. -/
def spMach (v : AMap W32) : State := (mach [lane v]).modTile 0 fun T => T.setTeam { fetchTeam with sp := [(0, 7), (4092, 9)] }

/-- Its team. -/
def fetchTeamSp : Team := { fetchTeam with sp := [(0, 7), (4092, 9)] }

/-! ### Queues, launches, teams -/

/-- 64 bytes from fields: offset, value. -/
def packet (l : List (Nat × Nat)) : List Byte := leBytes 64 ((l.map fun x => x.2 * 2 ^ (8 * x.1)).foldl (· + ·) 0)

/-- A queue of partition 1 with its ring in host memory. -/
def aCfg : QueueCfg :=
  { tag := 1, q := 0, base := 0x3000, logsz := 6, prio := 0, owner := 0, ctx := 0, pasid := 1, ringsp := true, qcb := 0x100 }

/-- A queue with one packet announced. -/
def aQueue : Queue :=
  { cfg := aCfg, widx := 1, ridx := 0, imod := 0, irqen := true, state := .unlocked, head := none, satisfied := false
    waits := [], copy := none, err := none, tamper := 0, sess := none, ide := none, stopping := false, vecAt := none
    vecPend := none, shadow := [], wbDue := false, wbAt := none, drain := [] }

/-- The queue with a head packet, ready to be admitted. -/
def headQueue (l : List (Nat × Nat)) : Queue := { aQueue with head := some (packet l), satisfied := true }

/-- The machine with the queue. -/
def qMach (q : Queue) : State := { atLevel .user (mach [lane []]) with queues := [(0, q)], now := 21000000 }

/-- The partition after the arbiter's choice. -/
def turned (s : State) : Part := ((s.select 1).map (·.1)).getD fetchPart

/-- A copy of 8 bytes from 0x1000 to 0x2000. -/
def aJob : CopyJob :=
  { src := 0x1000, dst := 0x2000, len := 8, signal := 0, spaces := 0, done := 0, hor := 0, flush := false, pri := false
    moved := false, at_ := 0, irq := false, vec := 0, ats := [] }

/-- The queue in its copy. -/
def copyQueue (j : CopyJob) : Queue := { aQueue with ridx := 1, copy := some j }

/-- Tables that map the second GiB of addresses too, to the plinth at 2 GiB, for agents only. -/
def areaTables : List Host.Cell := Memory.write (Memory.write tables 0x10008 8 0x8000003F) 0x40002008 8 0x4000001F

/-- A context image: entry 64, BINT 100, LEASECAP 1,024. -/
def imageBytes : List Byte := packet [(0, 64), (32, 0x14), (34, 1), (36, 16), (40, 100), (44, 1024)]

/-- The machine with an image at address 0x4000, and a launch area at 1 GiB. -/
def launchMach (q : Queue) : State := withCtx { qMach q with mem := Memory.putBytes areaTables 0x40004000 imageBytes }
  fun c => { c with larea := 0x40000000, nextSeq := 1 }

/-- A LAUNCH of 2 teams of 1 group. -/
def aLaunch : List (Nat × Nat) := [(0, 1), (8, 0x4000), (32, 2), (36, 1), (37, 1), (38, 1)]

/-- The copy waits for host page 5. -/
def priJob : CopyJob := { aJob with src := 0x5000, spaces := 1, pri := true }

/-- Tile 0 without a team, under its partition's launch of 2 teams of 1 group. -/
def claimMach : State :=
  let s := launchMach aQueue
  let s := s.modTile 0 fun T => T.setCtl { T.ctl with groups := [], teams := [], leasecap := 1024 }
  withCtx s fun c => { c with launches := [{ fetchLaunch with image := 0x4000, units := 2 }] }

/-- An image read. -/
def anImage : CtxImage :=
  { entry := 64, timage := 0, s1root := 0, utrap := 0, pool := 0x14, slabs := 1, accRows := 16, flags := 0, bint := 100, leasecap := 1024
    items := 0, rsvd := false }

/-- Two tiles of one row, the claim of a cluster that covers both. -/
def pairMach : State :=
  let s := claimMach
  let s := s.setTile 1 { s.tile 0 with place := 1 }
  let s := s.modTile 0 fun T => { T with routes := [(1, 2)], anchoring := [{ ctx := 0, seq := 0, c := 0 }] }
  let s := s.modPart 1 fun P => { P with lw := 2, places := [(0, 0), (1, 1)] }
  withCtx s fun c => { c with launches := [{ fetchLaunch with image := 0x4000, units := 1, cw := 2 }] }

/-- A reservation of the cluster on one of its members. -/
def aResv (num : Nat) (granted : Bool) : Resv :=
  { anchor := 0, ctx := 0, seq := 0, c := 0, num := num, g := 1, img := anImage, granted := granted
    slots := if granted then [0] else [], tslot := none }

/-- The cluster before its build. -/
def builtMach : State := (pairMach.modTile 0 fun T => { T with resv := [aResv 0 true] }).modTile 1 fun T => { T with resv := [aResv 1 true] }

/-- A team with a reserved slot, one stamped group of 3 items. -/
def stampTeam : Team := { fetchTeam with resv := [0, 7], pend := [⟨0, 5, 3⟩, ⟨0, 9, 1⟩] }

/-- A full bin of the template, and an item that waits for room. -/
def fullBin (n : Nat) : Bin := { tmpl := 0, team := 0, items := List.replicate n anItem, ready := true, readyCyc := 0 }

/-- An item of lane 0. -/
def heldItem : HeldItem := { tmpl := 0, team := 0, item := { anItem with idx := 4 }, slot := 0, lane := 0, word := 0, req := 0 }

/-- The tile with the bin and the item. -/
def heldMach (n : Nat) : State := tmplMach.modTile 0 fun T => T.setCtl { T.ctl with bins := [(0, fullBin n)], held := [heldItem] }

/-- A team without a group, the last of its launch. -/
def endMach (units : Nat) : State :=
  let s := launchMach aQueue
  let s := s.modTile 0 fun T => T.setCtl { T.ctl with groups := [] }
  withCtx s fun c => { c with launches := [{ fetchLaunch with units := units }] }

/-- Change the partition. -/
def withPart (s : State) (f : Part → Part) : State := s.modPart 1 f

/-- Two contexts, the slice of the first over. -/
def sliceMach : State :=
  let s := qMach aQueue
  withPart (s.modTile 0 fun T => { T with slots := amSet T.slots 1 { st := .streaming, ctl := { ctx := 1, pool := 0x14 } } }) fun P =>
    { P with ctxs := P.ctxs ++ [(1, { owner := 0, launches := [fetchLaunch] })], sched := [(0, 1), (1, 1)] }

/-- A saved image of one team. -/
def anotherImage : SavedImage :=
  { ctx := 0, place := 0, va := 0x10000, listed := true, bytes := [], ctl := { pool := 0x14, teams := [(3, { fetchTeam with id := 3, resv := [4] })] } }

/-- A launch that is being aborted. -/
def abortedLaunch : Launch := { fetchLaunch with listed := false, aborted := some (1, 2), awaiting := [0] }

/-- The context with the launch, the tile without groups. -/
def abortMach (l : Launch) : State :=
  withCtx ((qMach aQueue).modTile 0 fun T => T.setCtl { T.ctl with groups := [], teams := [] }) fun c => { c with launches := [l] }

/-! ### Requests, walks, barriers, packets -/

/-- A load of the word at plinth address 1 GiB by lane 0 of instruction 3. -/
def aReq (k : ReqKind) : Req :=
  { tile := 0, tag := 1, gen := 0, ctx := 0, owner := 0, slot := 0, gid := 0, team := 0, lane := 0, iid := 3, pc := 8, word := 0
    kind := k, va := 0, pa := 0x40000000, size := 4, d := 1, due := 0, lease := 5, vol := false, noAlloc := false
    dst := some (.v 4), place := 0, rtile := 0, rteam := 0, perf := false, val := 9, sect := 0, comp := 0, flags := 0, ecc := 0
    arr := false, since := 0, ord := 0 }

/-- The record of its instruction. -/
def aOut : OutInst := { iid := 3, tag := 1, pc := 8, rem := 1, lanes := 1 }

/-- The machine with the requests. -/
def reqMach (l : List Req) : State :=
  let s := (qMach aQueue).modGroup 0 0 fun g => { g with out := [aOut] }
  { s with reqs := l.zipIdx.map (fun x => (x.2 + 1, x.1)), nextId := 9 }

/-- A done record. -/
def doneOut : OutInst := { aOut with rem := 0, res := [(0, 4, 7), (0, 130, 9), (0, 162, 1)], fps := 1, kind := 1 }

/-- The machine with the record. -/
def outMach (f : Group → Group) : State := (qMach aQueue).modGroup 0 0 fun g => f { g with out := [doneOut] }

/-- A done division. -/
def divOut : OutInst := { doneOut with kind := 2, ist := 1 }

/-- A lane that waits. -/
def waitMach (w : Wait) : State := (qMach aQueue).modGroup 0 0 fun g => { g with lanes := [{ st := .live, pc := 8, wait := w }] }

/-- A walk for group 0. -/
def aWalk : Walk :=
  { field := 0, tag := 1, ctx := 0, root := 0, page := 3, gen := 0, req := [{ tile := 0, slot := 0, kind := .read, priv := .user }]
    started := false, noInstall := false }

/-- A second tile of the partition, which holds team 3 of the cluster, 1 slab. -/
def meshMach (l : List Req) : State :=
  let s := reqMach l
  let T := s.tile 0
  s.setTile 1 { T.setCtl { T.ctl with groups := [], teams := [(3, { fetchTeam with id := 3, sp := [(8, 5)], full := [2] })] } with place := 1 }

/-- A request to team 3 of tile 1. -/
def farReq (k : ReqKind) : Req := { aReq k with va := 8, rtile := 1, rteam := 3, place := 1 }

/-- A packet of that request. -/
def aPacket : Packet :=
  { tag := 1, gen := 0, stile := 0, dest := 1, resp := false, vc := 0, kind := 1, owner := 0, req := 1, place := 1, off := 8, port := 0, seq := 0 }

/-- Two groups of the team, their lanes at a barrier. -/
def barMach (c : Bool) : State :=
  (qMach aQueue).modTile 0 fun T => (T.setGroup 0 { fetchGroup with lanes := [{ st := .live, pc := 8, wait := .bar c }] }).setGroup 1
    { fetchGroup with lanes := [{ st := .live, pc := 8, wait := .bar c }, { st := .exited }] }

/-- A collection of drops. -/
def aCover : Cover := { tile := 0, ctx := 0, first := 0, src := 0, reason := 1, place := 1, off := 8, count := 2 }

/-- A copy of 8 bytes between the scratchpad and address 0x5000. -/
def aCopy (k : Nat) : CopyCmd :=
  { id := 4, kind := k, team := 0, slot := 0, pc := 8, word := 0, loff := 16, rows := 1, rowb := 8, fstride := 0, lstride := 0, d := 1
    far := 0x5000, rtile := 0, rteam := 0, pat := 0x04030201, due := 0, held := [], lunits := [0], runits := [], ran := false, hor := 0 }

/-- The copy engine with the command; slab 0 handed over. -/
def copyMach (x : CopyCmd) : State :=
  (qMach aQueue).modTile 0 fun T => { T.setTeam { fetchTeam with sp := [(16, 9), (20, 8)], slabSt := [(0, { own := true, pend := 1 })] } with
    copies := [x] }

/-- A copy to team 3 of tile 1, to which no route leads. -/
def farCopyMach : State :=
  let s := copyMach { aCopy 2 with rtile := 1, rteam := 3 }
  s.setTile 1 { (s.tile 0).setCtl { (s.tile 0).ctl with groups := [], teams := [(3, { fetchTeam with id := 3 })] } with copies := [] }

/-- An array command of the team. -/
def aCmd (op : ArrOp) : ArrCmd :=
  { id := 6, op := op, team := 0, slot := 0, pc := 8, word := 0, units := [{ team := 0, slabs := [0], regions := [0] }], key := none
    ran := false }

/-- A team of 5 slabs; accumulator region 0 and slab 0 handed over. -/
def arrayTeam : Team :=
  { fetchTeam with
    slabs := 5, spAt := [0, 1, 2, 3, 4], sp := [(0, 0x80), (1, 0x3F)], slabSt := [(0, { own := true, pend := 1 })]
    accSt := [(0, { own := true, pend := 1 })] }

/-- The array with the command, accumulator region 0 and slab 0 handed over. -/
def arrayMach (c : ArrCmd) : State :=
  (qMach aQueue).modTile 0 fun T => { T.setTeam arrayTeam with
    arr := { holder := some 0, q := [c], p0 := { image := [0x80, 0x3F], st := { fmt := .bf16, inuse := true } } } }

/-- A member of a gang of one, in slot 0. -/
def aLatch : LatchEntry :=
  { team := 0, slot := 0, seq := 0, gang := 0x100000000, kind := 0x71, time := 0, iid := 3, cmd := aCmd .swp, lanes := 1 }

/-- The latch with the member. -/
def latchMach (e : LatchEntry) : State :=
  (reqMach []).modTile 0 fun T => { T with arr := { holder := some 0, latch := [e] } }

/-! ### Fields, Keystone -/

/-- Field 0 in a state, WTIME 10 µs. -/
def fieldMach (f : Field) : State := { qMach aQueue with fields := [(0, f)] }

/-- Tile 2 of field 0, free; partition 1 holds tile 0. -/
def freeMach : State := { qMach aQueue with cur := { tile := 1 } }

/-- The partition of the queue's machine. -/
def qPart : Part := ((qMach aQueue).part 1).getD fetchPart

/-- No setting named. -/
def noSet : SettingsReq := { schedule := none, fixed := none, preempt := none, strict := none, slots := none }

/-- Slots asked for, which wait for the table's boundary. -/
def slotSet : PendSet := { req := some { noSet with slots := some [3, 4] }, left := { noSet with slots := some [3, 4] } }

/-- A cut of tile 5 as partition 2. -/
def aCut : CutReq :=
  { tag := 2, tiles := [5], lw := 0, lh := 0, places := [], grains := [(0, 3)], contexts := [0], roots := [0], owners := [0]
    agent := [(0, 0x200000)], link := 0, msix := 1, settings := noSet, goff := 0 }

/-- Tiles 0 and 1 of the partition (and of one more, tag 2, on tile 3) at rest in an operation. -/
def restMach (me : Instr) (q : Nat → Quiesce) : State :=
  let s := freeMach
  let T := s.tile 0
  let s := s.setTile 0 { T with quiesce := q 0 }
  let s := s.setTile 1 { T.setCtl { T.ctl with groups := [], teams := [] } with place := 1, quiesce := q 1 }
  let s := s.setTile 3 { T.setCtl { T.ctl with groups := [], teams := [] } with tag := 2, quiesce := q 3 }
  let s := s.setPart 1 { qPart with lw := 3, places := [(0, 0), (1, 1)], op := some me }
  s.setPart 2 { qPart with lw := 2, places := [(0, 3)], op := some me, s2root := levelOneAt 2, grains := [(0, 3)] }

/-- The partition in a state. -/
def partOf (s : State) (tag : Nat) : Part := (s.part tag).getD fetchPart

/-- Tile 1 leaves, the rest pause. -/
def leaving (x : Nat) : Quiesce := if x = 1 then .leases else .paused

/-- The lends and recalls of tile 1. -/
def lentMach (me : Instr) : State := (restMach me leaving).modTile 1 fun T => { T with tag := 2, lender := some (1, 1), recallAt := some 0 }

/-- Partition 1 in a migration. -/
def migMach (m : Migration) : State := withPart freeMach fun P => { P with mig := some m, escrow := some 5, keys := [(0, .clear)] }

/-- A migration to module 7. -/
def aMig (phase : Nat) (ok : Bool) : Migration :=
  { phase := phase, dst := 7, approved := ok, sent := none, mark := 0, dirty := [], limit := 4, copy := [], heldSource := false }

/-- A peer's access to partition 1. -/
def aPeer (w : Bool) : PeerAccess := { module := 3, tag := 1, base := 0, size := 0x200000, write := w, data := [1, 2], offset := 0x5000, ctx := 0, owner := 0 }

/-! ### Sessions and links -/

/-- Session 3, bound as given; the function of partition 1 has a keyed stream on link 0. -/
def sessMach (ifn : Option Nat) (q : Queue) : State :=
  let s := qMach q
  ({ s with ks := { s.ks with sess := [(3, { ifn := ifn, secret := 1 })] } }).setLink 0
    { streams := [{ num := 2, tag := 1, key := 9, secure := true }] }

/-- A Jarlet port in service. -/
def portMach (J : Jarlet) : State := { qMach aQueue with jarlets := [(5, J)], cur := { tile := 5 } }

/-- A flit. -/
def aFlit (auth : Bool) : JFlit := { module := 0, tag := 1, gen := 0, owner := 0, kind := 0, phase := false, auth := auth, ctr := 0 }

/-! ### One turn -/

/-- The turn that offers issue to group 0 of tile 0, at a word. -/
def turnMach (w : W64) : State := State.reset.withFetchWord 64 w.toNat

/-- The state of the turn. -/
def turnState (s : State) : State :=
  match s.inputs with
  | x :: rest => ({ s with inputs := rest } : State).environment x
  | [] => s

/-- At an EVT.H whose event ring is full. -/
def holdMach : State := withCtx (turnMach 0xc00000085000107) fun c => { c with evbase := 0x10000, logsz := 4, evprod := 16 }

/-- The same at the header of a block: the word follows it. -/
def headMach (w : W64) : State :=
  let s := (State.reset.withFetchWord 64 headerWord.toNat).modGroup 0 0 fun g => { g with lanes := [{ st := .live, pc := 8 }] }
  let m := Memory.write s.mem 0x20000010 8 w.toNat
  { s.modTile 0 (fun T => { T with icache := m }) with mem := m }

/-- STALL 3. -/
def stall3 : Ctl := { c0 with stall := 3 }

/-- NOP with STALL 3. -/
def nopWord : W64 := 0x160000000000000

/-- What an instruction leaves. -/
def afterExec (i : Instr) (s : State) : State := (after i s).getD s

/-- The header of the turn's block. -/
def aHead : Header :=
  { len := 2, live := 0, recon := 0, pfoff := 0, pfk := 0, entry := 0, nochk := false, tentry := false, calle := false, preempt := false }

/-- The state of the turn inside the block. -/
def inBlock : State :=
  let z := issueState (turnState (headMach nopWord)) 0 0 1 0
  { z.modG (fun G => G.modMask 1 fun L => L.enterBlock aHead) with
    cur := { z.cur with pc := (z.cur.pc + 8) % 2 ^ 56, word := nopWord } }

/-- What an instruction answers. -/
theorem next_of {i : Instr} {s t : State} (h : after i s = some t) : exec i s = .next t := by
  unfold after at h; split at h <;> simp_all

/-- What a step answers. -/
theorem step_of {s t : State} (h : (match step s with | .next t => some t | _ => none) = some t) : step s = .next t := by
  split at h <;> simp_all

/-! ## The hypotheses of the obligations

One theorem for each obligation with hypotheses: concrete states and operands that meet the hypotheses of each of its clauses
together. A hypothesis that an operation is one of a listed family holds by the choice of its first member; one that adding to a
counter in memory answers a state and a count is shown by the count. -/

/-- Meets the hypotheses of DivisionPending. -/
theorem hyp_DivisionPending :
    (let nv : ℕ := 128; let x : IntR := ⟨c0, .v 3, .v 1, .v 2, .i8⟩; let s : Machine.State := two 0x80 0xFFFFFFFF; nv ≤ 128 ∧
       BitVec.toNat s.G.istat / 256 % 4 = 0 ∧ Instr.wf nv (Instr.div x) = true) ∧
    (let nv : ℕ := 128; let x : IntR := ⟨c0, .v 3, .v 1, .v 2, .n32⟩; let s : Machine.State := two 5 0; nv ≤ 128 ∧
       BitVec.toNat s.G.istat / 256 % 4 = 0 ∧ Instr.wf nv (Instr.rem x) = true) := by
  refine ⟨?_, ?_⟩ <;> decide +kernel

/-- Meets the hypotheses of LogicShiftResult. -/
theorem hyp_LogicShiftResult :
    (let op : (BitR → Instr) × (ℕ → ℕ → ℕ) := logicOps[0]; let nv : ℕ := 128; let x : BitR := ⟨c0, .v 3, .v 1, .v 2, .b32⟩; nv
       ≤ 128 ∧ Instr.wf nv (op.1 x) = true) ∧
    (let op : (BitI → Instr) × (ℕ → ℕ → ℕ) := logicImmOps[0]; let nv : ℕ := 128;
     let x : BitI := ⟨c0, .v 3, .v 1, .b32, 0xFFFFF⟩; nv ≤ 128 ∧ Instr.wf nv (op.1 x) = true) ∧
    (let op : (BitR → Instr) × (ℕ → ℕ → ℕ → ℕ) := shiftOps[0]; let nv : ℕ := 128;
     let x : BitR := ⟨c0, .v 3, .v 1, .v 2, .b32⟩; nv ≤ 128 ∧ Instr.wf nv (op.1 x) = true) ∧
    (let op : (ShI → Instr) × (ℕ → ℕ → ℕ → ℕ) := shiftImmOps[3]; let nv : ℕ := 128; let x : ShI := ⟨c0, .v 3, .v 1, .b32, 63⟩;
       nv ≤ 128 ∧ Instr.wf nv (op.1 x) = true) := by
  refine ⟨?_, ?_, ?_, ?_⟩ <;> decide +kernel

/-- Meets the hypotheses of BitCountResult. -/
theorem hyp_BitCountResult :
    (let nv : ℕ := 128; let x : BitU := ⟨c0, .v 3, .v 2, .b32⟩; nv ≤ 128 ∧ Instr.wf nv (Instr.not x) = true) ∧
    (let nv : ℕ := 128; let x : BitU := ⟨c0, .v 3, .v 2, .b64⟩; nv ≤ 128 ∧ Instr.wf nv (Instr.popc x) = true) ∧
    (let nv : ℕ := 128; let x : BitU := ⟨c0, .v 3, .v 2, .b64⟩; nv ≤ 128 ∧ Instr.wf nv (Instr.clz x) = true) ∧
    (let nv : ℕ := 128; let x : BitU := ⟨c0, .v 4, .v 2, .b64⟩; nv ≤ 128 ∧ Instr.wf nv (Instr.brev x) = true) := by
  refine ⟨?_, ?_, ?_, ?_⟩ <;> decide +kernel

/-- Meets the hypotheses of AddressMoveSelect. -/
theorem hyp_AddressMoveSelect :
    (let nv : ℕ := 128; let x : LeaR := ⟨c0, .v 4, .v 2, .v 1, .i32, 2⟩; nv ≤ 128 ∧ Instr.wf nv (Instr.lea x) = true) ∧
    (let nv : ℕ := 128; let x : LeaI := ⟨c0, .v 4, .v 2, 0xFFFFF⟩; nv ≤ 128 ∧ Instr.wf nv (Instr.leaI x) = true) ∧
    (let nv : ℕ := 128; let x : BitU := ⟨c0, .v 4, .v 0, .b128⟩; nv ≤ 128 ∧ Instr.wf nv (Instr.mov x) = true) ∧
    (let nv : ℕ := 128; let x : MoviR := ⟨c0, .v 4, 0x40400000⟩; nv ≤ 128 ∧ Instr.wf nv (Instr.movi x) = true) ∧
    (let nv : ℕ := 128; let x : SelR := ⟨c0, .v 3, .v 1, .v 2, 1, .b32⟩; nv ≤ 128 ∧ Instr.wf nv (Instr.sel x) = true) := by
  refine ⟨?_, ?_, ?_, ?_, ?_⟩ <;> decide +kernel

/-- Meets the hypotheses of ConvertTypes. -/
theorem hyp_ConvertTypes :
    let nv : ℕ := 128; let x : FCvtR := ⟨c0, .v 3, .v 1, .flt .e4m3, .flt (.std .f32), true, .rne⟩; nv ≤ 128 ∧ Instr.wf nv
       (Instr.fcvt x) = true := by decide +kernel

/-- Meets the hypotheses of FloatPackedResult. -/
theorem hyp_FloatPackedResult :
    (let op : (FpR → Instr) × (Fmt → RM → ℕ → ℕ → ℕ × ℕ) := fpOps[0]; let nv : ℕ := 128;
     let x : FpR := ⟨c0, .v 3, .v 1, .v 2, .f32, .rne⟩; nv ≤ 128 ∧ Instr.wf nv (op.1 x) = true) ∧
    (let nv : ℕ := 128; let x : FpRC := ⟨c0, .v 3, .v 1, .v 1, .v 2, .f32, .rne⟩; nv ≤ 128 ∧ Instr.wf nv (Instr.ffma x) =
       true) ∧
    (let op : (FpM → Instr) × Bool := fpMinMaxOps[1]; let nv : ℕ := 128; let x : FpM := ⟨c0, .v 3, .v 1, .v 2, .f32⟩; nv ≤ 128
       ∧ Instr.wf nv (op.1 x) = true) ∧
    (let op : (FpR → Instr) × (Fmt → RM → ℕ → ℕ → ℕ × ℕ) := packedOps[0]; let nv : ℕ := 128;
     let x : FpR := ⟨c0, .v 3, .v 1, .v 2, .bf16, .rne⟩; nv ≤ 128 ∧ Instr.wf nv (op.1 x) = true) ∧
    (let nv : ℕ := 128; let x : FpRC := ⟨c0, .v 3, .v 1, .v 1, .v 2, .bf16, .rne⟩; nv ≤ 128 ∧ Instr.wf nv (Instr.pfma2 x) =
       true) := by
  refine ⟨?_, ?_, ?_, ?_, ?_⟩ <;> decide +kernel

/-- Meets the hypotheses of FloatComparePending. -/
theorem hyp_FloatComparePending :
    (let nv : ℕ := 128; let s : Machine.State := two 0x3F800000 0; let x : FpR := ⟨c0, .v 3, .v 1, .v 2, .f32, .rne⟩; nv ≤ 128
       ∧ BitVec.toNat s.G.fps / 256 % 32 = 0 ∧ Instr.wf nv (Instr.fdiv x) = true) ∧
    (let nv : ℕ := 128; let s : Machine.State := two 0x3F800000 0; let x : FpU := ⟨c0, .v 3, .v 1, .f32, .rne⟩; nv ≤ 128 ∧
       BitVec.toNat s.G.fps / 256 % 32 = 0 ∧ Instr.wf nv (Instr.fsqrt x) = true) ∧
    (let nv : ℕ := 128; let s : Machine.State := two 0x3F800000 0; let x : SfnR := ⟨c0, .v 3, .v 1, .rcp⟩; nv ≤ 128 ∧
       BitVec.toNat s.G.fps / 256 % 32 = 0 ∧ Instr.wf nv (Instr.sfn x) = true) := by
  refine ⟨?_, ?_, ?_⟩ <;> decide +kernel

/-- Meets the hypotheses of IntegerArithmetic. -/
theorem hyp_IntegerArithmetic :
    (let op : (IntR → Instr) × Bool × (ITy → ℤ → ℤ → ℤ) := intOps[0]; let nv : ℕ := 128;
     let x : IntR := ⟨c0, .v 3, .v 1, .v 2, .i8⟩; nv ≤ 128 ∧ Instr.wf nv (op.1 x) = true ∧ ¬(op.2.1 = true ∧ x.ty.regs = 2)) ∧
    (let op : (IntI → Instr) × Bool × (ℤ → ℤ → ℤ) := intImmOps[2]; let nv : ℕ := 128;
     let x : IntI := ⟨c0, .v 3, .v 1, .i32, 0xFFFFF⟩; nv ≤ 128 ∧ Instr.wf nv (op.1 x) = true ∧ ¬(op.2.1 = true ∧ x.ty.regs =
       2)) ∧
    (let nv : ℕ := 128; let x : IntRC := ⟨c0, .v 3, .v 1, .v 2, .v 1, .n16⟩; nv ≤ 128 ∧ Instr.wf nv (Instr.mad x) = true ∧
       x.ty.regs = 1) ∧
    (let nv : ℕ := 128; let x : IntU := ⟨c0, .v 3, .v 1, .i32⟩; nv ≤ 128 ∧ Instr.wf nv (Instr.abs x) = true) ∧
    (let nv : ℕ := 128; let x : IntU := ⟨c0, .v 4, .v 2, .i64⟩; nv ≤ 128 ∧ Instr.wf nv (Instr.neg x) = true) ∧
    (let op : (IntR → Instr) × Bool × (ITy → ℤ → ℤ → ℤ) := intOps[3]; let nv : ℕ := 128;
     let x : IntR := ⟨c0, .v 4, .v 2, .v 2, .i64⟩; op.2.1 = true ∧ nv ≤ 128 ∧ Instr.wf nv (op.1 x) = true ∧ x.ty.regs = 2) ∧
    (let nv : ℕ := 128; let x : IntI := ⟨c0, .v 4, .v 2, .n64, 0xFFFFF⟩; nv ≤ 128 ∧ Instr.wf nv (Instr.mulI x) = true ∧
       x.ty.regs = 2) ∧
    (let nv : ℕ := 128; let x : IntRC := ⟨c0, .v 4, .v 2, .v 2, .v 2, .i64⟩; nv ≤ 128 ∧ Instr.wf nv (Instr.mad x) = true ∧
       x.ty.regs = 2) ∧
    (let op : (IntR → Instr) × Bool × (ITy → ℤ → ℤ → ℤ) := intOps[0]; let nv : ℕ := 128;
     let x : IntR := ⟨c0, .v 4, .v 2, .v 2, .i64⟩; Instr.wf nv (op.1 x) = true ∧ x.ty.regs = 2) ∧
    (let op : (IntI → Instr) × Bool × (ℤ → ℤ → ℤ) := intImmOps[0]; let nv : ℕ := 128;
     let x : IntI := ⟨c0, .v 4, .v 2, .i64, 1⟩; Instr.wf nv (op.1 x) = true ∧ x.ty.regs = 2) ∧
    (let nv : ℕ := 128; let x : IntRC := ⟨c0, .v 4, .v 2, .v 2, .v 2, .i64⟩; Instr.wf nv (Instr.mad x) = true ∧ x.ty.regs = 2) ∧
    (let nv : ℕ := 128; let x : IntU := ⟨c0, .v 4, .v 2, .i64⟩; (Instr.wf nv (Instr.abs x) = true ∨ Instr.wf nv (Instr.neg x)
       = true) ∧ x.ty.regs = 2) := by
  refine ⟨?_, ?_, ?_, ?_, ?_, ?_, ?_, ?_, ?_, ?_, ?_, ?_⟩ <;> decide +kernel

/-- Meets the hypotheses of BitFields. -/
theorem hyp_BitFields :
    (let nv : ℕ := 128; let x : IntR := ⟨c0, .v 3, .v 1, .v 2, .i32⟩; nv ≤ 128 ∧ Instr.wf nv (Instr.bfx x) = true) ∧
    (let nv : ℕ := 128; let x : BitRC := ⟨c0, .v 3, .v 1, .v 2, .v 4, .b32⟩; nv ≤ 128 ∧ Instr.wf nv (Instr.bfi x) = true) ∧
    (let nv : ℕ := 128; let w : W64 := 0x3700000301020020; let i : Instr := .bfx ⟨c0, .v 3, .v 1, .v 2, .i32⟩; BitVec.toNat w
       / 2 ^ 56 = 55 ∧ decode nv w = Except.ok i) ∧
    (let nv : ℕ := 128; let w : W64 := 0x38000003010204e0; let i : Instr := .bfi ⟨c0, .v 3, .v 1, .v 2, .v 4, .b32⟩;
       BitVec.toNat w / 2 ^ 56 = 56 ∧ decode nv w = Except.ok i) ∧
    (let nv : ℕ := 128; let x : IntR := ⟨c0, .v 3, .v 1, .v 2, .i32⟩; let w : W64 := 0x3700000301020020; Instr.wf nv
       (Instr.bfx x) = true ∧ encode (Instr.bfx x) = some w) ∧
    (let nv : ℕ := 128; let x : BitRC := ⟨c0, .v 3, .v 1, .v 2, .v 4, .b32⟩; let w : W64 := 0x38000003010204e0; Instr.wf nv
       (Instr.bfi x) = true ∧ encode (Instr.bfi x) = some w) := by
  refine ⟨?_, ?_, ?_, ?_, ?_, ?_⟩ <;> decide +kernel

/-- Meets the hypotheses of PredicateLogic. -/
theorem hyp_PredicateLogic :
    (let op : (PredR → Instr) × ℕ × (Bool → Bool → Bool) := predForms[0]; let x : PredR := ⟨c0, 3, 1, 2⟩;
     let w : W64 := 0x3d0000a3a1a20000; encode (op.1 x) = some w) ∧
    (let nv : ℕ := 128; let w : W64 := 0x2f0000a3a1000000; let i : Instr := .pnot ⟨c0, 3, 1⟩; BitVec.toNat w / 2 ^ 56 = 47 ∧
       decode nv w = Except.ok i) ∧
    (let x : PredU := ⟨c0, 3, 1⟩; let w : W64 := 0x2f0000a3a1000000; encode (Instr.pnot x) = some w) := by
  refine ⟨?_, ?_, ?_⟩ <;> decide +kernel

/-- Meets the hypotheses of ClassifyMask. -/
theorem hyp_ClassifyMask :
    (let nv : ℕ := 128; let w : W64 := 0x58000003010000d0; let i : Instr := .fclass ⟨c0, .v 3, .v 1, .e5m2⟩; BitVec.toNat w /
       2 ^ 56 = 88 ∧ decode nv w = Except.ok i) ∧
    (let nv : ℕ := 128; let x : FClassR := ⟨c0, .v 3, .v 1, .e5m2⟩; let w : W64 := 0x58000003010000d0; nv ≤ 128 ∧ Instr.wf nv
       (Instr.fclass x) = true ∧ encode (Instr.fclass x) = some w) := by
  refine ⟨?_, ?_⟩ <;> decide +kernel

/-- Meets the hypotheses of EretAnswers. -/
theorem hyp_EretAnswers :
    (let c : Ctl := c0; let r : Reg := .k 1;
     let s : Machine.State := (agentAt .agent []).modGroup 0 0 fun g =>
       { g with lanes := [{ lane [] with trapped := true }], traps := [aTrap] }; let l : ℕ := 0; let v : ℕ := 0;
     let y : Trap := aTrap; s.cur.slot = 32 ∧ s.G.priv ≠ Priv.user ∧ (s.active c).head? = some l ∧ s.src l r 1 = v ∧ v < 32 ∧
       (s.T.group v).answerable = some y) ∧
    (let c : Ctl := { c0 with pn := true }; let s : Machine.State := agentAt .agent []; s.G.priv ≠ Priv.user ∧ s.active c =
       []) := by
  refine ⟨?_, ?_⟩ <;> decide +kernel

/-- Meets the hypotheses of PrivilegeTraps. -/
theorem hyp_PrivilegeTraps :
    (let e : ℕ × (Ctl → Reg → Reg → Reg → Bool → Instr) := privileged[11]; let s : Machine.State := atLevel .agent (two 0 0);
       s.priv.ctorIdx < e.1) ∧
    (let s : Machine.State := two 0 0; s.G.priv = Priv.user) ∧
    (let s : Machine.State := two 0 0; s.G.priv = Priv.user) := by
  refine ⟨?_, ?_, ?_⟩ <;> decide +kernel

/-- Meets the hypotheses of ContextSlots. -/
theorem hyp_ContextSlots :
    (let c : Ctl := c0; let sl : Reg := .k 6; let a : Reg := .k 2; let s : Machine.State := savedMach [(2, 0x1000), (6, 2)];
     let l : ℕ := 0; let n : ℕ := s.src l sl 1; let va : ℕ := s.src l a 2;
     let ps : ImagePages := ((savedMach [(2, 0x1000), (6, 2)]).imagePages 0x1000 64 .write).toOption.getD []; s.cur.slot = 32
       ∧ s.G.priv ≠ Priv.user ∧ (s.active c).head? = some l ∧ va % 64 = 0 ∧ s.imagePages va 64 AccKind.write = Except.ok ps ∧
       n ≤ 2 ∧ (s.T.slot n).state = SlotSt.empty) ∧
    (let c : Ctl := c0; let sl : Reg := .k 6;
     let s : Machine.State := (savedMach [(6, 2)]).modTile 0 fun T => (T.setCtl { T.ctl with groups := [] }).setSlot 2
       { st := .loaded }; let l : ℕ := 0; let n : ℕ := s.src l sl 1; s.cur.slot = 32 ∧ s.G.priv ≠ Priv.user ∧ (s.active
       c).head? = some l ∧ n ≤ 2 ∧ (s.T.slot n).state = SlotSt.loaded ∧ s.T.act ≠ n ∧ ((List.any s.T.ctl.groups fun g =>
       g.2.live) = false) ∧ (∀ m < 32, (s.G.lane m).back = 0) ∧ (∀ i < 4, s.T.ctl.pmc.getD i 0 < 2 ^ 48) ∧ s.T.poolOut = none) ∧
    (let c : Ctl := c0; let sl : Reg := .k 6; let a : Reg := .k 2; let s : Machine.State := loadMach; let l : ℕ := 0;
     let n : ℕ := s.src l sl 1; let va : ℕ := s.src l a 2;
     let p0 : ImagePages := (loadMach.imagePages 0x10000 64 .read).toOption.getD [];
     let ps : ImagePages := (loadMach.imagePages 0x10000 64 .read).toOption.getD []; let x : CtxCtl := { pool := 4 };
     let len : ℕ := sliceNum (s.pagesGet p0 64 va) 0 4; s.cur.slot = 32 ∧ s.G.priv ≠ Priv.user ∧ (s.active c).head? = some l ∧
       n ≤ 2 ∧ ((s.T.slot n).state = SlotSt.empty ∨ (s.T.slot n).state = SlotSt.loaded) ∧ (∀ m < 32, (s.G.lane m).back = 0) ∧
       s.imagePages va 64 AccKind.read = Except.ok p0 ∧ headerFault s.T (s.pagesGet p0 64 va) = 0 ∧ s.imagePages va (max 64
       len) AccKind.read = Except.ok ps ∧ chkHolds (s.pagesGet ps len va) = true ∧ (((s.part s.T.tag).bind fun P => P.imageOf
       (s.pagesGet ps len va)) = some x) ∧ (have __src := s.dropAns.T.setSlot n { };
       { __src with store := List.filter (fun e => e.2.cslot != n) s.T.store }).fitImage x = 0) ∧
    (let c : Ctl := c0; let sl : Reg := .k 6; let s : Machine.State := savedMach [(6, 3)]; let l : ℕ := 0;
     let n : ℕ := s.src l sl 1; s.cur.slot = 32 ∧ s.G.priv ≠ Priv.user ∧ (s.active c).head? = some l ∧ 2 < n) := by
  refine ⟨?_, ?_, ?_, ?_⟩ <;> decide +kernel

/-- Meets the hypotheses of BranchesDiverge. -/
theorem hyp_BranchesDiverge :
    (let c : Ctl := c0; let off : BitVec 24 := 2; let s : Machine.State := two 0 0; (Uniform s (s.active c) fun _ => relTarget
       s off)) ∧
    (let c : Ctl := c0; let r : Reg := .v 2; let s : Machine.State := mach [lane [(2, 0xFFFFFFF8), (3, 0xFFFFFF)]]; (Uniform s
       (s.active c) fun l => ↑(s.src l r 2)) ∧ (∀ l ∈ s.active c, s.src l r 2 % 8 = 0)) ∧
    (let nv : ℕ := 128; let c : Ctl := c0; let link : Reg := .v 2; let off : BitVec 24 := 0xFFFFFF;
     let s : Machine.State := two 0 0; nv ≤ 128 ∧ Instr.wf nv (Instr.call c link off) = true ∧ (Uniform s (s.active c) fun _
       => relTarget s off)) ∧
    (let c : Ctl := c1; let off : BitVec 24 := 8; let w : W64 := headerWord;
     let s : Machine.State := (let s := mach [{ lane [] 2 with roff := 4 }, lane []]; s.modTile 0 fun T =>
       { T with icache := Memory.write [] (2 ^ 29 + 32) 8 headerWord.toNat });
     let head : Lane := s.G.lane ((lanesOf s.cur.sub).headD 0); let ra : ℕ := wrap 56 (↑head.hdr + 8 * head.roff); 0 ≤
       relTarget s off ∧ relTarget s off < 2 ^ 56 ∧ head.roff ≠ 0 ∧ s.G.recon = [] ∧ s.fetch s.cur.tile s.cur.slot ra =
       Fetched.word w ∧ isHeader w = true ∧ (∀ l < 32, bit s.cur.sub l = true → (s.G.lane l).st = LaneSt.live) ∧ (∃ l ∈
       s.active c, ∃ m < 32, bit s.cur.sub m = true ∧ m ∉ s.active c) ∧ relTarget s off ≠ ↑ra ∧ s.cur.pc + 8 ≠ ra ∧ relTarget
       s off ≠ ↑s.cur.pc + 8) ∧
    (let s : Machine.State := (mach [lane [], { lane [] with pc := 64 }]).modG fun g =>
        { g with bcount := 64, sel := some 0 }; let G : Machine.Group := s.G; 64 ≤ G.bcount) := by
  refine ⟨?_, ?_, ?_, ?_, ?_⟩ <;> decide +kernel

/-- Meets the hypotheses of NopYieldExit. -/
theorem hyp_NopYieldExit :
    (let c : Ctl := c1; let s : Machine.State := mach [lane [] 2, lane []]; (∃ l < 32, (s.G.lane l).st = LaneSt.live ∧ l ∉
       s.active c)) ∧
    (let c : Ctl := c0; let s : Machine.State := mach [lane [], lane []]; s.G.live = true ∧ s.cur.slot ≠ 32 ∧ (∀ l < 32,
       (s.G.lane l).st = LaneSt.live → l ∈ s.active c)) := by
  refine ⟨?_, ?_⟩ <;> decide +kernel

/-- Meets the hypotheses of TrapAndReturn. -/
theorem hyp_TrapAndReturn :
    (let c : Ctl := c0; let s : Machine.State := two 0 0; s.active c ≠ []) ∧
    (let c : Ctl := { c0 with pn := true }; let s : Machine.State := two 0 0; s.active c = []) ∧
    (let c : Ctl := c0; let s : Machine.State := mach [lane []] [] fun g => { g with xpc := 0x100, xstat := 0x180 }; s.active
       c ≠ [] ∧ bit s.G.xstat 7 = true) ∧
    (let c : Ctl := c0; let s : Machine.State := mach [lane []]; s.active c ≠ [] ∧ bit s.G.xstat 7 = false) := by
  refine ⟨?_, ?_, ?_, ?_⟩ <;> decide +kernel

/-- Meets the hypotheses of EventsTemplates. -/
theorem hyp_EventsTemplates :
    (let c : Ctl := { c0 with pn := true }; let s : Machine.State := two 0 0; s.active c = []) ∧
    (let c : Ctl := c0; let s : Machine.State := ringMach; s.active c ≠ [] ∧ RingFull s) ∧
    (let s : Machine.State := two 0 0; ¬RingFull s) ∧
    (let c : Ctl := c0;
     let s : Machine.State := withCtx (atLevel .agent (two 0 0)) fun c => { c with evbase := 0x50000000, s1root := 0 };
     let x : Ctx := (s.ctx 1 0).getD { owner := 0 }; s.active c ≠ [] ∧ s.ctx s.T.tag s.T.ctl.ctx = some x ∧ x.evbase ≠ 0 ∧
       x.ringFull = false ∧ s.xlate s.T.tag s.T.ctl.ctx (x.evbase + 32 * (x.evprod % 2 ^ x.logsz)) AccKind.write Priv.agent =
       none) ∧
    (let c : Ctl := { c0 with pn := true }; let s : Machine.State := two 0 0; s.active c = []) ∧
    (let c : Ctl := c0; let mask : Reg := .v 8; let n : Fin 16 := 15;
     let s : Machine.State := mach [lane [(8, 0x62), (1, 7)]]; let l : ℕ := 0; let slot : ℕ := 0; let d : ℕ := 0;
     let rest : List ℕ := (List.range 15).map (· + 1); let x : Team := fetchTeam;
     let parent : Option Template := (s.G.lane l).tmpl.bind fun sl => amGet s.T.store sl; (s.active c).head? = some l ∧
       s.curTeam = some x ∧ s.T.tmplNamed x ↑n = none ∧ s.T.freeTmpl = slot :: rest ∧ (∀ i < 128, tbit (s.src l mask 4) i =
       true → i < poolNv s.T.ctl.pool) ∧ (Option.map (fun x => x.depth) parent).getD 0 = d ∧ d ≤ 3 ∧ (∀ (p : Template), parent
       = some p → p.bad = false)) ∧
    (let c : Ctl := { c0 with pn := true }; let s : Machine.State := two 0 0; s.active c = []) ∧
    (let c : Ctl := c0; let n : Fin 16 := 3; let cnt : Reg := .k 2;
     let s : Machine.State := tmplMach.modG fun g => { g with k := [(2, 1024)] }; let l : ℕ := 0; let slot : ℕ := 0;
     let x : Team := fetchTeam; let tm : Template := aTmpl; (s.active c).head? = some l ∧ s.curTeam = some x ∧ s.T.team x.id =
       some x ∧ s.T.tmplOf x ↑n = some (slot, tm) ∧ s.src l cnt 1 ≤ 1024 ∧ tm.bad = false ∧ x.pend.length + (s.src l cnt 1 +
       31) / 32 ≤ 32) ∧
    (let c : Ctl := c0; let n : Fin 16 := 3; let cnt : Reg := .k 2;
     let s : Machine.State := (tmplMach.modG fun g => { g with k := [(2, 1)] }).modTile 0 fun T => T.setTeam fullStamps;
     let l : ℕ := 0; let slot : ℕ := 0; let x : Team := fullStamps; let tm : Template := aTmpl; (s.active c).head? = some l ∧
       s.curTeam = some x ∧ s.T.team x.id = some x ∧ s.T.tmplOf x ↑n = some (slot, tm) ∧ s.src l cnt 1 ≤ 1024 ∧ tm.bad = false
       ∧ 32 < x.pend.length + (s.src l cnt 1 + 31) / 32) ∧
    (let c : Ctl := c0; let n : Fin 16 := 3; let cnt : Reg := .k 2;
     let s : Machine.State := tmplMach.modG fun g => { g with k := [(2, 1025)] }; let l : ℕ := 0; let slot : ℕ := 0;
     let x : Team := fetchTeam; let tm : Template := aTmpl; (s.active c).head? = some l ∧ s.curTeam = some x ∧ s.T.team x.id =
       some x ∧ s.T.tmplOf x ↑n = some (slot, tm) ∧ 1024 < s.src l cnt 1) ∧
    (let c : Ctl := { c0 with pn := true }; let s : Machine.State := binMach; spawning s c = [] ∧ s.T.tableBad = false) ∧
    (let c : Ctl := c0; let n : Fin 16 := 3; let s : Machine.State := later binMach; let slot : ℕ := 0; let b : ℕ := 0;
     let x : Team := fetchTeam; let tm : Template := aTmpl; let old : List Item := List.replicate 31 anItem; spawning s c ≠ []
       ∧ s.curTeam = some x ∧ s.T.tmplOf x ↑n = some (slot, tm) ∧ tm.bad = false ∧ s.T.ctl.held = [] ∧ TakesItems s slot x.id
       b old ∧ old.length + (spawning s c).length ≤ 64 ∧ s.relOk s.cur.tile s.cur.slot Scope.team s.nextId = true) ∧
    (let c : Ctl := c0; let n : Fin 16 := 3; let s : Machine.State := later tmplMach; let slot : ℕ := 0; let b : ℕ := 0;
     let x : Team := fetchTeam; let tm : Template := aTmpl; let old : List Item := []; spawning s c ≠ [] ∧ s.curTeam = some x
       ∧ s.T.tmplOf x ↑n = some (slot, tm) ∧ tm.bad = false ∧ s.T.ctl.held = [] ∧ TakesItems s slot x.id b old ∧ old.length +
       (spawning s c).length ≤ 64 ∧ s.relOk s.cur.tile s.cur.slot Scope.team s.nextId = true) ∧
    (let c : Ctl := c0; let n : Fin 16 := 3; let place : Reg := .k 3; let s : Machine.State := later binMach;
     let slot : ℕ := 0; let b : ℕ := 0; let x : Team := fetchTeam; let tm : Template := aTmpl;
     let old : List Item := List.replicate 31 anItem; spawning s c ≠ [] ∧ s.curTeam = some x ∧ s.T.tmplOf x ↑n = some (slot,
       tm) ∧ tm.bad = false ∧ s.T.ctl.held = [] ∧ TakesItems s slot x.id b old ∧ old.length + (spawning s c).length ≤ 64 ∧
       s.T.tableBad = false ∧ (∀ l ∈ spawning s c, s.T.placeOf (s.src l place 1) = Except.ok s.cur.tile) ∧ s.relOk s.cur.tile
       s.cur.slot Scope.cluster s.nextId = true) ∧
    (let c : Ctl := c0; let place : Reg := .k 3; let s : Machine.State := later farBinMach; let l : ℕ := 0; let u : ℕ := 1;
     let x : Team := fetchTeam; let y : Team := { fetchTeam with id := 3 }; (spawning s c).head? = some l ∧ s.T.tableBad =
       false ∧ s.curTeam = some x ∧ s.T.placeOf (s.src l place 1) = Except.ok u ∧ u ≠ s.cur.tile ∧ s.mateOn s.cur.tile x u =
       some y ∧ s.relOk s.cur.tile s.cur.slot Scope.cluster s.nextId = true) := by
  refine ⟨?_, ⟨?_, ringMach_full⟩, two_not_full, ?_, ?_, ?_, ?_, ?_, ?_, ?_, ?_, ⟨?_, ?_, ?_, ?_, ?_, .inl ⟨aBin,
     by decide +kernel, rfl⟩, ?_, ?_⟩, ⟨?_, ?_, ?_, ?_, ?_, .inr ⟨by decide +kernel, by decide +kernel, rfl⟩, ?_, ?_⟩, ⟨?_,
     ?_, ?_, ?_, ?_, .inl ⟨aBin, by decide +kernel, rfl⟩, ?_, ?_, ?_, ?_⟩, ?_⟩ <;> decide +kernel

/-- Meets the hypotheses of TranslationsPlaces. -/
theorem hyp_TranslationsPlaces :
    (let c : Ctl := c0; let s : Machine.State := later (atLevel .keystone (two 1 0)); let l : ℕ := 0; (s.active c).head? =
       some l ∧ s.G.priv = Priv.keystone ∧ s.relOk s.cur.tile s.cur.slot Scope.part s.nextId = true ∧ amGet s.tiles s.cur.tile
       = some s.T) ∧
    (let c : Ctl := c0; let d : Reg := .c 1; let a : Reg := .k 2; let b : Reg := .k 3;
     let s : Machine.State := (atLevel .keystone (mach [lane []])).modG fun g => { g with k := [(2, 0), (3, 8191)] };
     let l : ℕ := 0; let e : ℕ := s.src l d 1; let u : ℕ := s.src l a 1; let p : ℕ := s.src l b 1; (s.active c).head? = some l
       ∧ s.G.priv = Priv.keystone ∧ u < 8400 ∧ p < 8192 ∧ e < 65536 ∧ tbit e 14 = false ∧ e % 2 ^ 14 < 8400 ∧ (s.tile
       u).runsCtx = true) ∧
    (let c : Ctl := c0; let d : Reg := .c 1; let a : Reg := .k 2; let b : Reg := .k 3;
     let s : Machine.State := (atLevel .keystone (mach [lane []])).modG fun g => { g with k := [(2, 8399), (3, 8191)] };
     let l : ℕ := 0; let e : ℕ := s.src l d 1; let u : ℕ := s.src l a 1; let p : ℕ := s.src l b 1; (s.active c).head? = some l
       ∧ s.G.priv = Priv.keystone ∧ u < 8400 ∧ p < 8192 ∧ e < 65536 ∧ tbit e 14 = false ∧ e % 2 ^ 14 < 8400 ∧ (s.tile
       u).runsCtx = false) := by
  refine ⟨?_, ?_, ?_⟩ <;> decide +kernel

/-- Meets the hypotheses of LaneInstructions. -/
theorem hyp_LaneInstructions :
    (let nv : ℕ := 128; let x : ShflR := ⟨c0, .v 7, .v 6, .c 1, .up, 3, true, false⟩; nv ≤ 128 ∧ Instr.wf nv (Instr.shfl x) =
       true) ∧
    (let nv : ℕ := 128; let s : Machine.State := four; let x : RedlR := ⟨c0, .v 7, .v 6, .fadd .f32 .rne, 2⟩; nv ≤ 128 ∧
       BitVec.toNat s.G.fps / 256 % 32 = 0 ∧ Instr.wf nv (Instr.redl x) = true) ∧
    (let nv : ℕ := 128; let s : Machine.State := four; let x : ScanR := ⟨c0, .v 7, .v 6, .fadd .f32 .rne, 2, true⟩; nv ≤ 128 ∧
       BitVec.toNat s.G.fps / 256 % 32 = 0 ∧ Instr.wf nv (Instr.scanl x) = true) ∧
    (let nv : ℕ := 128; let x : VoteR := ⟨c0, .k 1, 1, .ballot⟩; nv ≤ 128 ∧ Instr.wf nv (Instr.vote x) = true) := by
  refine ⟨?_, ?_, ?_, ?_⟩ <;> decide +kernel

/-- Meets the hypotheses of SpecialRegisters. -/
theorem hyp_SpecialRegisters :
    (let e : ℕ × ℕ × ℕ × (Machine.State → ℕ → ℕ) := readableRegs[18]; let nv : ℕ := 128; let c : Ctl := c0;
     let d : Reg := .v 3; let s : Machine.State := atLevel .keystone (two 0 0); nv ≤ 128 ∧ Instr.wf nv (Instr.mfs c d
       (BitVec.ofNat 10 e.1)) = true ∧ e.2.2.1 ≤ s.G.priv.ctorIdx) ∧
    (let c : Ctl := c0; let s : Machine.State := two 0 0; s.active c ≠ []) ∧
    (let c : Ctl := c0; let s : Machine.State := atLevel .agent (two 0 0); s.active c ≠ [] ∧ s.G.priv ≠ Priv.user) ∧
    (let e : ℕ × ℕ × ℕ × (Machine.State → ℕ) × (ℕ → ℕ) := writableRegs[0]; let c : Ctl := c0;
     let s : Machine.State := two 0xFFFFFFFF 0; let l : ℕ := 0; e.2.2.1 ≤ s.G.priv.ctorIdx ∧ (s.active c).head? = some l ∧ (∀
       o ∈ s.G.out, o.kind % 4 = 0)) ∧
    (let c : Ctl := c0; let a : Reg := .v 1;
     let s : Machine.State := (atLevel .agent (two 4 0)).modTile 0 fun T => T.setCtl { T.ctl with teams := [] };
     let l : ℕ := 0; s.G.priv ≠ Priv.user ∧ (s.active c).head? = some l ∧ s.T.ctl.teams = [] ∧ s.T.admits (s.src l a 1 %
       65536) 0 = true) ∧
    (let c : Ctl := c0; let s : Machine.State := two 0 5; let l : ℕ := 0; (s.active c).head? = some l ∧ s.T.ctl.pmc.length =
       4) ∧
    (let c : Ctl := c0; let s : Machine.State := two 0 5; let l : ℕ := 0; (s.active c).head? = some l ∧ s.T.ctl.pms.length =
       4) ∧
    (let c : Ctl := c0; let s : Machine.State := two 0 0; let l : ℕ := 0; s.G.priv = Priv.user ∧ (s.active c).head? = some l) := by
  refine ⟨?_, ?_, ?_, ?_, ?_, ?_, ?_, ?_⟩ <;> decide +kernel

/-- Meets the hypotheses of LoadsIssue. -/
theorem hyp_LoadsIssue :
    (let nv : ℕ := 128; let x : LdR := ⟨c0, .v 4, .v 2, .sp 0, .b32, 0, .plain⟩; let s : Machine.State := spMach [(2, 4092)];
     let y : Team := fetchTeamSp; let off : ℕ → ℕ := fun _ => 4092; nv ≤ 128 ∧ Instr.wf nv (Instr.ld x) = true ∧ s.curTeam =
       some y ∧ (∀ l ∈ s.memLanes x.c [x.d, x.a], s.eaOf x.m AccKind.read (widthBytes x.w) x.a l = EA.loc (off l) ∧ s.T.badSp
       s.G.team (off l) (widthBytes x.w) = false) ∧ s.T.segs = [] ∧ (x.ord ≠ LdOrd.plain → Quiet s)) ∧
    (let x : LdR := ⟨c0, .v 4, .v 2, .gl 1, .b32, 0, .plain⟩; let s : Machine.State := mach [lane [(2, 0x1FFFF8)]];
     let va : ℕ → ℕ := fun _ => 0x1FFFFC; let e : ℕ → TlbEnt := fun _ => fetchEntry; Quiet s ∧ s.T.l1 = [] ∧ (∀ (sc : Scope),
       x.ord ≠ LdOrd.acq sc) ∧ (s.field (fieldOf s.cur.tile)).hold = false ∧ (∀ l ∈ s.memLanes x.c [x.d, x.a], s.eaOf x.m
       AccKind.read (widthBytes x.w) x.a l = EA.mem (va l) (e l) ∧ regionOf ((e l).phys (va l)) = Region.plinth ∧ s.poisoned
       ((e l).phys (va l)) (widthBytes x.w) = false)) ∧
    (let x : PrefR := ⟨c0, .v 2, 1, .b32, 3⟩; let s : Machine.State := two 0xABCD 0x1FFFF8;
     let va : ℕ → ℕ := fun _ => 0x1FFFFC; let e : ℕ → TlbEnt := fun _ => fetchEntry; (s.field (fieldOf s.cur.tile)).hold =
       false ∧ (∀ l ∈ s.memLanes x.c [x.a], s.eaGlobal AccKind.read false 1 (wrap 64 (↑(s.src l x.a 2) + x.off.toInt *
       ↑(widthBytes x.w))) = EA.mem (va l) (e l) ∧ regionOf ((e l).phys (va l)) = Region.plinth ∧ (e l).dev = false)) := by
  refine ⟨?_, ⟨?_, ?_, (fun sc => by cases sc <;> decide +kernel), ?_, ?_⟩, ?_⟩ <;> decide +kernel

/-- Meets the hypotheses of StoresIssue. -/
theorem hyp_StoresIssue :
    (let x : StR := ⟨c0, .v 1, .v 2, .sp 0, .b16, 0, .plain⟩; let s : Machine.State := two 0xABCD 4094;
     let y : Team := fetchTeam; let off : ℕ → ℕ := fun _ => 4094; s.curTeam = some y ∧ y.id = s.G.team ∧ s.T.segs = [] ∧
       (x.ord = StOrd.vol → Quiet s) ∧ (∀ l ∈ s.memLanes x.c [x.d, x.a], s.eaOf x.m AccKind.write (widthBytes x.w) x.a l =
       EA.loc (off l)) ∧ (∀ (sc : Scope), x.ord = StOrd.rel sc → s.relOk s.cur.tile s.cur.slot sc s.nextId = true)) ∧
    (let x : StR := ⟨c0, .v 1, .v 2, .gl 0, .b32, 0, .plain⟩; let s : Machine.State := two 0xABCD 0x1FFFFC;
     let va : ℕ → ℕ := fun _ => 0x1FFFFC; let e : ℕ → TlbEnt := fun _ => fetchEntry; Quiet s ∧ (∀ (sc : Scope), x.ord =
       StOrd.rel sc → s.relOk s.cur.tile s.cur.slot sc s.nextId = true) ∧ (∀ l ∈ s.memLanes x.c [x.d, x.a], s.eaOf x.m
       AccKind.write (widthBytes x.w) x.a l = EA.mem (va l) (e l) ∧ regionOf ((e l).phys (va l)) = Region.plinth)) := by
  refine ⟨⟨?_, ?_, ?_, ?_, ?_, (fun sc => by cases sc <;> decide +kernel)⟩, ⟨?_, (fun sc => by cases sc <;> decide +kernel),
     ?_⟩⟩ <;> decide +kernel

/-- Meets the hypotheses of FullEmptyAccess. -/
theorem hyp_FullEmptyAccess :
    (let x : FeR := ⟨c0, .v 1, .v 2, .sp 0, 0, true, false⟩; let s : Machine.State := two 0 4092;
     let off : ℕ → ℕ := fun _ => 4092;
     let ls : List ℕ := List.filter (fun l => !(s.G.lane l).done) (s.memLanes x.c [x.d, x.a]); ls ≠ [] ∧ s.T.segs = [] ∧ (∀ l
       ∈ ls, s.eaOf x.m AccKind.read 4 x.a l = EA.loc (off l) ∧ s.T.badSp s.G.team (off l) 4 = false)) ∧
    (let x : FeR := ⟨c0, .v 1, .v 2, .sp 0, 0, false, false⟩; let s : Machine.State := two 5 4092;
     let off : ℕ → ℕ := fun _ => 4092;
     let ls : List ℕ := List.filter (fun l => !(s.G.lane l).done) (s.memLanes x.c [x.d, x.a]); ls ≠ [] ∧ s.T.segs = [] ∧ (∀ l
       ∈ ls, s.eaOf x.m AccKind.write 4 x.a l = EA.loc (off l)) ∧ s.relOk s.cur.tile s.cur.slot (localFe x.wide) s.nextId =
       true) ∧
    (let x : FeR := ⟨c0, .v 1, .v 2, .sp 0, 0, false, false⟩; let s : Machine.State := two 5 4092; let y : Team := fetchTeam;
     let l : ℕ := 0; let off : ℕ := 4092; s.curTeam = some y ∧ y.id = s.G.team ∧ s.T.segs = [] ∧ s.memLanes x.c [x.d, x.a] =
       [l] ∧ s.eaOf x.m AccKind.write 4 x.a l = EA.loc off ∧ off % 4 = 0 ∧ s.src l x.d 1 < 2 ^ 32 ∧ s.relOk s.cur.tile
       s.cur.slot (localFe x.wide) s.nextId = true) ∧
    (let x : SetfeR := ⟨c0, .v 2, .sp 0, 0, true, false⟩; let s : Machine.State := two 5 4092; let y : Team := fetchTeam;
     let off : ℕ → ℕ := fun _ => 4092; s.curTeam = some y ∧ y.id = s.G.team ∧ s.T.segs = [] ∧ (∀ l ∈ s.memLanes x.c [x.a],
       s.eaOf x.m AccKind.write 4 x.a l = EA.loc (off l))) := by
  refine ⟨?_, ?_, ?_, ?_⟩ <;> decide +kernel

/-- Meets the hypotheses of AtomicsIssue. -/
theorem hyp_AtomicsIssue :
    (let x : AtomR := ⟨c0, .v 4, .v 2, .v 1, .add .n32, .sp, .plain⟩; let s : Machine.State := later (two 5 4092);
     let y : Team := fetchTeam; let off : ℕ → ℕ := fun _ => 4092; let n : ℕ := 4 * x.op.regs;
     let ls : List ℕ := s.memLanes x.c [x.d, x.a, x.b]; s.curTeam = some y ∧ y.id = s.G.team ∧ s.T.segs = [] ∧ (∀ l ∈ ls,
       s.eaAt x.sp n x.a l = EA.loc (off l) ∧ s.T.badSp s.G.team (off l) n = false) ∧ Released s (relOf x.ord)) ∧
    (let x : RedR := ⟨c0, .v 2, .v 1, .add .n32, .sp, none⟩; let s : Machine.State := two 5 4092; let y : Team := fetchTeam;
     let off : ℕ → ℕ := 4092; let n : ℕ := 4 * x.op.regs; let ls : List ℕ := s.memLanes x.c [x.a, x.b]; s.curTeam = some y ∧
       y.id = s.G.team ∧ s.T.segs = [] ∧ (∀ l ∈ ls, s.eaAt x.sp n x.a l = EA.loc (off l)) ∧ Released s x.rel) ∧
    (let x : AtomR := ⟨c0, .v 4, .v 2, .v 1, .add .n32, .gl, .plain⟩; let s : Machine.State := two 5 0x1FFFFC;
     let va : ℕ → ℕ := fun _ => 0x1FFFFC; let e : ℕ → TlbEnt := fun _ => fetchEntry; Released s (relOf x.ord) ∧ (∀ l ∈
       s.memLanes x.c [x.d, x.a, x.b], s.eaAt x.sp (4 * x.op.regs) x.a l = EA.mem (va l) (e l) ∧ regionOf ((e l).phys (va l))
       = Region.plinth ∧ s.poisoned ((e l).phys (va l)) (4 * x.op.regs) = false)) ∧
    (let x : RedR := ⟨c0, .v 2, .v 1, .add .n32, .gl, none⟩; let s : Machine.State := two 5 0x1FFFFC;
     let va : ℕ → ℕ := fun _ => 0x1FFFFC; let e : ℕ → TlbEnt := fun _ => fetchEntry; Released s x.rel ∧ (∀ l ∈ s.memLanes x.c
       [x.a, x.b], s.eaAt x.sp (4 * x.op.regs) x.a l = EA.mem (va l) (e l) ∧ regionOf ((e l).phys (va l)) = Region.plinth)) ∧
    (let x : GthR := ⟨c0, .v 4, .v 2, .v 1, 0, none⟩; let s : Machine.State := two 1023 0x1000;
     let va : ℕ → ℕ := fun _ => 0x1000; let e : ℕ → TlbEnt := fun _ => fetchEntry; (∀ l ∈ s.memLanes x.c [x.d, x.a, x.b],
       s.eaGth x l = EA.mem (va l) (e l) ∧ regionOf ((e l).phys (va l)) = Region.plinth ∧ s.poisoned ((e l).phys (va l)) 4096
       = false)) := by
  refine ⟨?_, ?_, ?_, ?_, ?_⟩ <;> decide +kernel

/-- Meets the hypotheses of FencesBarriers. -/
theorem hyp_FencesBarriers :
    (let f : (Ctl → Scope → Instr) × FenceKind := fences[2]; let c : Ctl := c0; let sc : Scope := .sys;
     let s : Machine.State := later (two 0 0); (s.fenceOk s.cur.tile s.cur.slot f.2 sc s.cur.sub s.nextId = true ∨ s.active c
       = [])) ∧
    (let f : (Ctl → Scope → Instr) × FenceKind := fences[0]; let c : Ctl := c0; let sc : Scope := .cluster;
     let s : Machine.State := two 0 0; s.fenceOk s.cur.tile s.cur.slot f.2 sc s.cur.sub s.nextId = false ∧ s.active c ≠ []) ∧
    (let f : (Ctl → Instr) × Bool := barriers[0]; let s : Machine.State := later (two 0 0); let y : Team := fetchTeam;
     let sc : Scope := if f.2 = true then Scope.cluster else Scope.team; s.curTeam = some y ∧ s.G.fromBin = false ∧ s.relOk
       s.cur.tile s.cur.slot sc s.nextId = true) ∧
    (let f : (Ctl → Instr) × Bool := barriers[1]; let s : Machine.State := two 0 0; let y : Team := fetchTeam;
     let sc : Scope := if f.2 = true then Scope.cluster else Scope.team; s.curTeam = some y ∧ s.G.fromBin = false ∧ s.relOk
       s.cur.tile s.cur.slot sc s.nextId = false) ∧
    (let f : (Ctl → Instr) × Bool := barriers[0];
     let s : Machine.State := (later (two 0 0)).modG fun g => { g with fromBin := true }; let y : Team := fetchTeam;
     let sc : Scope := if f.2 = true then Scope.cluster else Scope.team; s.curTeam = some y ∧ s.G.fromBin = true ∧ s.fenceOk
       s.cur.tile s.cur.slot FenceKind.acqRel sc s.cur.sub s.nextId = true) ∧
    (let f : (Ctl → Instr) × Bool := barriers[1]; let c : Ctl := c0;
     let s : Machine.State := (two 0 0).modG fun g => { g with fromBin := true }; let y : Team := fetchTeam;
     let sc : Scope := if f.2 = true then Scope.cluster else Scope.team; s.curTeam = some y ∧ s.G.fromBin = true ∧ s.fenceOk
       s.cur.tile s.cur.slot FenceKind.acqRel sc s.cur.sub s.nextId = false ∧ s.active c ≠ []) := by
  refine ⟨?_, ?_, ?_, ?_, ?_, ?_⟩ <;> decide +kernel

/-- Meets the hypotheses of OwnersAndCopies. -/
theorem hyp_OwnersAndCopies :
    (let nv : ℕ := 128; let x : OwnR := ⟨c0, .v 4, .v 2, true⟩; let s : Machine.State := two 0 0; let y : Team := fetchTeam;
       nv ≤ 128 ∧ Instr.wf nv (Instr.own x) = true ∧ s.curTeam = some y ∧ Quiet s ∧ (∀ l ∈ s.laneSet x.c x.d [x.u], s.src l
       x.u 1 < if x.acc = true then y.accRows / 16 else y.slabs)) ∧
    (let x : WaitoR := ⟨c0, .v 2, false, false⟩; let s : Machine.State := two 0 0; let y : Team := fetchTeam; s.curTeam = some
       y ∧ Quiet s ∧ (∀ l ∈ s.active x.c, s.src l x.u 1 < if x.acc = true then y.accRows / 16 else y.slabs) ∧ (∀ l ∈ s.active
       x.c, (unitState y x.acc (s.src l x.u 1)).own = false ∧ (unitState y x.acc (s.src l x.u 1)).phase = x.ph ∧ (unitState y
       x.acc (s.src l x.u 1)).backAt ≤ s.cycle s.cur.tile)) ∧
    (let x : WaitoR := ⟨c0, .v 2, false, false⟩;
     let s : Machine.State := (two 0 0).modTile 0 fun T => T.setTeam
       { fetchTeam with slabSt := [(0, { own := true, pend := 7 })] };
     let y : Team := { fetchTeam with slabSt := [(0, { own := true, pend := 7 })] }; s.curTeam = some y ∧ Quiet s ∧ (∀ l ∈
       s.active x.c, s.src l x.u 1 < if x.acc = true then y.accRows / 16 else y.slabs) ∧ (∀ l ∈ s.active x.c, (unitState y
       x.acc (s.src l x.u 1)).own = true) ∧ s.active x.c ≠ []) ∧
    (let k : (CpyR → Instr) × ℕ := copyOps[0]; let x : CpyR := ⟨c0, .k 2, .k 4, false⟩;
     let s : Machine.State := mach [lane []] [(2, 0x1000), (5, 4096)]; let l : ℕ := 0;
     let d : CopyDesc := ⟨0, 1, 4096, 0, 0, 0⟩; let p : CopyParts := ⟨[fetchEntry], 0, 0, [0], []⟩; let y : Team := fetchTeam;
     let far : ℕ := if k.2 = 2 ∨ k.2 = 3 then s.src l x.a 2 % 2 ^ 32 else s.src l x.a 2; (s.active x.c).head? = some l ∧
       s.curTeam = some y ∧ y.id = s.G.team ∧ parseDesc (s.src l x.b 4) x.two = Except.ok d ∧ s.copyCheck k.2 d far (s.src l
       x.a 2 / 2 ^ 32) = EngRes.ok p ∧ s.T.copies.length < 16 ∧ s.copyOwned p = none ∧ s.engineWait = false) ∧
    (let k : (FillR → Instr) × ℕ := fillOps[0]; let x : FillR := ⟨c0, .k 1, .k 2, .k 4, true⟩;
     let s : Machine.State := mach [lane []] [(2, 0), (5, 0x10004)]; let l : ℕ := 0; let d : CopyDesc := ⟨0, 1, 4, 0, 0, 0⟩;
     let p : CopyParts := ⟨[], 0, 0, [0], []⟩; let y : Team := fetchTeam; (s.active x.c).head? = some l ∧ s.curTeam = some y ∧
       y.id = s.G.team ∧ parseDesc (s.src l x.b 4) x.two = Except.ok d ∧ s.copyCheck k.2 d (s.src l x.a 2) (s.src l x.a 2 / 2
       ^ 32) = EngRes.ok p ∧ s.T.copies.length < 16 ∧ s.copyOwned p = none ∧ s.engineWait = false) := by
  refine ⟨?_, ?_, ?_, ?_, ?_⟩ <;> decide +kernel

/-- Meets the hypotheses of ArrayCommands. -/
theorem hyp_ArrayCommands :
    (let c : Ctl := c0; let s : Machine.State := arrMach []; let l : ℕ := 0; (s.active c).head? = some l ∧ (∀ e ∈
       s.T.arr.latch, e.slot ≠ s.cur.slot)) ∧
    (let c : Ctl := c0; let m : Reg := .k 1; let n : Fin 8 := 2; let s : Machine.State := arrMach [(1, 992)]; let l : ℕ := 0;
     let y : Team := fiveSlabs; let v : ℕ := s.src l m 1; let mem : List ℕ := (List.range n.val).map fun i => v / 32 ^ i % 32;
       2 ≤ ↑n ∧ ↑n ≤ 6 ∧ (s.active c).head? = some l ∧ s.curTeam = some y ∧ (∀ e ∈ s.T.arr.latch, e.slot ≠ s.cur.slot) ∧ v <
       32 ^ n.val ∧ mem.Nodup ∧ s.cur.slot ∈ mem ∧ (∀ i ∈ mem, i ∈ y.resv)) ∧
    (let c : Ctl := c0; let s : Machine.State := arrMach []; let y : Team := fiveSlabs; s.active c ≠ [] ∧ HoldsPlanes s y) ∧
    (let x : LdsR := ⟨c0, .c 0, .k 2, .bf16, false, false, 0, 0⟩; let s : Machine.State := arrMach [(2, 0x100)];
     let y : Team := fiveSlabs; let l : ℕ := 0; let held : List TlbEnt := [fetchEntry]; HoldsPlanes s y ∧ x.g = false ∧
       (s.active x.c).head? = some l ∧ (x.sparse = true → mfSparse x.fmt = true) ∧ s.src l x.a 2 % 256 = 0 ∧ (s.engPages
       AccKind.engRead 1 (imgSize x.fmt x.sparse) (fun _ => s.src l x.a 2) (pagesOf 1 (imgSize x.fmt x.sparse) fun _ => s.src
       l x.a 2) = EngRes.ok held) ∧ s.keyState ↑x.key ≠ KeySlot.empty) ∧
    (let x : LdsR := ⟨c0, .k 1, .k 2, .bf16, false, false, 0, 0⟩; let s : Machine.State := arrMach [(1, 0x100)];
     let y : Team := fiveSlabs; let l : ℕ := 0; HoldsPlanes s y ∧ x.g = false ∧ (s.active x.c).head? = some l ∧ (x.sparse =
       true → mfSparse x.fmt = true) ∧ s.src l x.off 1 % 256 = 0 ∧ s.src l x.off 1 + imgSize x.fmt x.sparse ≤ y.slabs * 4096 ∧
       (∀ j < y.slabs, (y.slab j).own = false) ∧ s.keyState ↑x.key ≠ KeySlot.empty) ∧
    (let x : MmaR := ⟨c0, .c 0, .c 0, .k 2, .bf16, false, true, false⟩; let s : Machine.State := arrMach [(2, 0x100100)];
     let y : Team := fiveSlabs; let l : ℕ := 0; let stride : ℕ := s.src l x.b 1 % 2 ^ 16; let m : ℕ := s.src l x.b 1 / 2 ^ 16;
     let row : ℕ := s.src l x.row 1; let off : ℕ := s.src l x.off 1; HoldsPlanes s y ∧ x.g = false ∧ (s.active x.c).head? =
       some l ∧ 1 ≤ m ∧ m ≤ 64 ∧ rowImage x.fmt x.sparse ≤ stride ∧ (s.T.arr.qs s.T.arr.qact).inuse = true ∧ (s.T.arr.qs
       s.T.arr.qact).sparse = x.sparse ∧ mfPair (s.T.arr.qs s.T.arr.qact).fmt x.fmt = true ∧ off % 2 = 0 ∧ stride % 2 = 0 ∧
       off + (m - 1) * stride + rowImage x.fmt x.sparse ≤ y.slabs * 4096 ∧ row + m ≤ y.accRows ∧ (∀ j < y.slabs, (y.slab
       j).own = false) ∧ (∀ j ≤ (row + m - 1) / 16, (y.region j).own = false)) := by
  refine ⟨?_, ?_, ?_, ?_, ?_, ?_⟩ <;> decide +kernel

/-- Meets the hypotheses of Accumulators. -/
theorem hyp_Accumulators :
    (let c : Ctl := c0; let r : Reg := .k 1; let n : Reg := .c 16; let s : Machine.State := mach [lane []] [(2, 14)];
     let y : Team := fetchTeam; let l : ℕ := 0; (s.active c).head? = some l ∧ s.src l n 1 ≠ 0 ∧ RowsFree s y (s.src l r 1)
       (s.src l n 1) ∧ s.src l r 1 % 16 = 0 ∧ s.src l n 1 % 16 = 0) ∧
    (let nv : ℕ := 128; let c : Ctl := c0; let d : Reg := .v 4; let r : Reg := .k 1;
     let s : Machine.State := mach [lane []] [(1, 15)]; let y : Team := fetchTeam; nv ≤ 128 ∧ Instr.wf nv (Instr.accrd c d r)
       = true ∧ s.curTeam = some y ∧ (∀ l ∈ s.active c, RowsFree s y (s.src l r 1) 1)) ∧
    (let nv : ℕ := 128; let c : Ctl := c0; let r : Reg := .k 1; let b : Reg := .v 4;
     let s : Machine.State := mach [lane []] [(1, 15)]; let y : Team := fetchTeam; nv ≤ 128 ∧ Instr.wf nv (Instr.accwr c r b)
       = true ∧ s.curTeam = some y ∧ (∀ l ∈ s.active c, RowsFree s y (s.src l r 1) 1) ∧ y.id = s.G.team) ∧
    (let x : AccsclR := ⟨c0, .k 2, .c 0, .c 16, .rne⟩; let s : Machine.State := mach [lane []] [(2, 0x3F800000)];
     let y : Team := fetchTeam; let l : ℕ := 0; (s.active x.c).head? = some l ∧ s.src l x.n 1 ≠ 0 ∧ RowsFree s y (s.src l
       x.row 1) (s.src l x.n 1) ∧ x.s.isV = false) ∧
    (let x : AccstR := ⟨c0, .k 3, .c 15, .k 2, .bf16, false, false⟩;
     let s : Machine.State := mach [lane []] [(2, 0x800001), (3, 3968)]; let y : Team := fetchTeam; let l : ℕ := 0;
     let n : ℕ := s.src l x.b 1 % 2 ^ 16; let stride : ℕ := s.src l x.b 1 / 2 ^ 16 % 2 ^ 16; let off : ℕ := s.src l x.off 1;
       (s.active x.c).head? = some l ∧ RowsFree s y (s.src l x.row 1) n ∧ 1 ≤ n ∧ n ≤ 4096 ∧ outRow x.fmt ≤ stride ∧ off % 2 =
       0 ∧ stride % 2 = 0 ∧ off + (n - 1) * stride + outRow x.fmt ≤ y.slabs * 4096 ∧ (∀ j < y.slabs, (y.slab j).own = false)) := by
  refine ⟨?_, ?_, ?_, ?_, ?_⟩ <;> decide +kernel

/-- Meets the hypotheses of AlignmentTraps. -/
theorem hyp_AlignmentTraps :
    (let c : Ctl := c0; let off : BitVec 24 := 0xFFFFFE; let s : Machine.State := two 0 0; s.active c ≠ [] ∧ (relTarget s off
       < 0 ∨ 2 ^ 56 ≤ relTarget s off)) ∧
    (let c : Ctl := c0; let i : Fin 128 := 2; let s : Machine.State := two 0 0x1001; let l : ℕ := 0; (s.active c).head? = some
       l ∧ s.src l (Reg.v i) 2 < 2 ^ 56 ∧ s.src l (Reg.v i) 2 % 8 ≠ 0) ∧
    (let c : Ctl := c0; let i : Fin 128 := 2; let s : Machine.State := mach [lane [(2, 0), (3, 0x1000000)]]; let l : ℕ := 0;
       (s.active c).head? = some l ∧ 2 ^ 56 ≤ s.src l (Reg.v i) 2 ∧ s.src l (Reg.v i) 2 < 2 ^ 64) ∧
    (let x : LdR := ⟨c0, .v 4, .v 2, .gl 0, .b32, 0, .plain⟩; let s : Machine.State := two 0 0x1FFFFE; let l : ℕ := 0;
     let ea : ℕ := 0x1FFFFE; let off : BitVec 10 := 0; x.m = MSp.gl off ∧ s.T.tableBad = false ∧ s.memLanes x.c [x.d, x.a] =
       [l] ∧ wrap 64 (↑(s.src l x.a 2) + off.toInt * ↑(widthBytes x.w)) = ea ∧ ea < 2 ^ 56 ∧ ea % widthBytes x.w ≠ 0) ∧
    (let x : StR := ⟨c0, .v 4, .v 2, .gl 0x3FF, .b64, 0, .plain⟩; let s : Machine.State := two 0 0xC; let l : ℕ := 0;
     let ea : ℕ := 4; let off : BitVec 10 := 0x3FF; x.m = MSp.gl off ∧ s.T.tableBad = false ∧ s.memLanes x.c [x.d, x.a] = [l]
       ∧ wrap 64 (↑(s.src l x.a 2) + off.toInt * ↑(widthBytes x.w)) = ea ∧ ea < 2 ^ 56 ∧ ea % widthBytes x.w ≠ 0) := by
  refine ⟨?_, ?_, ?_, ?_, ?_⟩ <;> decide +kernel

/-- Meets the hypotheses of PacketAdmission. -/
theorem hyp_PacketAdmission :
    (let tag : ℕ := 1; let s : Machine.State := qMach (headQueue []); let P : Machine.Part := turned (qMach (headQueue []));
     let ifn : ℕ := 0; let q : Queue := headQueue []; Chosen s tag 0 P ifn q) ∧
    (let tag : ℕ := 1; let s : Machine.State := qMach (headQueue [(0,4)]);
     let P : Machine.Part := turned (qMach (headQueue [(0,4)])); let ifn : ℕ := 0; let q : Queue := headQueue [(0,4)]; Chosen
       s tag 4 P ifn q) ∧
    (let tag : ℕ := 1; let s : Machine.State := qMach (headQueue [(0,5),(8,0x1000)]);
     let P : Machine.Part := turned (qMach (headQueue [(0,5),(8,0x1000)])); let ifn : ℕ := 0;
     let q : Queue := headQueue [(0,5),(8,0x1000)]; let h : List Byte := q.head.getD [];
     let u : Machine.State := s.setPart tag P; let pa : ℕ := 0x40001000; Chosen s tag 5 P ifn q ∧ q.cfg.tag = tag ∧ u.arbAddr
       tag q.cfg.ctx (sliceNum h 8 8) AccKind.write true = Except.ok pa) ∧
    (let tag : ℕ := 1; let s : Machine.State := qMach (headQueue [(0,3),(8,0x1000),(16,5)]);
     let P : Machine.Part := turned (qMach (headQueue [(0,3),(8,0x1000),(16,5)])); let ifn : ℕ := 0;
     let q : Queue := headQueue [(0,3),(8,0x1000),(16,5)]; let h : List Byte := q.head.getD [];
     let u : Machine.State := s.setPart tag P; let pa : ℕ := 0x40001000; Chosen s tag 3 P ifn q ∧ u.waitAddr q.cfg (sliceNum h
       8 8) 8 AccKind.readWrite = Except.ok pa) ∧
    (let tag : ℕ := 1; let s : Machine.State := qMach (headQueue [(0,2),(8,0x1000),(16,0x2000),(24,8)]);
     let P : Machine.Part := turned (qMach (headQueue [(0,2),(8,0x1000),(16,0x2000),(24,8)])); let ifn : ℕ := 0;
     let q : Queue := headQueue [(0,2),(8,0x1000),(16,0x2000),(24,8)]; Chosen s tag 2 P ifn q) ∧
    (let tag : ℕ := 1; let s : Machine.State := launchMach (headQueue aLaunch);
     let P : Machine.Part := turned (launchMach (headQueue aLaunch)); let ifn : ℕ := 0; let q : Queue := headQueue aLaunch;
     let pa : ℕ := 0x40004000; let c : Ctx := ((launchMach (headQueue aLaunch)).ctx 1 0).getD { owner := 0 };
     let h : List Byte := q.head.getD []; let u : Machine.State := s.setPart tag P;
     let i : CtxImage := parseImage (u.devMemRead (some c) pa 64);
     let fits : Prop := u.placeable P i (sliceNum h 37 1) (sliceNum h 38 1) = true; Chosen s tag 1 P ifn q ∧ u.arbAddr tag
       q.cfg.ctx (sliceNum h 8 8) AccKind.read false = Except.ok pa ∧ u.arbPoison pa 64 = false ∧ u.ctx tag q.cfg.ctx = some c
       ∧ u.larea tag q.cfg.ctx = true ∧ fits) ∧
    (let tag : ℕ := 1;
     let c : Ctx := ((withCtx (launchMach (headQueue aLaunch)) fun c => { c with larea := 0 }).ctx 1 0).getD { owner := 0 };
     let s : Machine.State := withCtx (launchMach (headQueue aLaunch)) fun c => { c with larea := 0 };
     let P : Machine.Part := turned (withCtx (launchMach (headQueue aLaunch)) fun c => { c with larea := 0 });
     let ifn : ℕ := 0; let q : Queue := headQueue aLaunch; let pa : ℕ := 0x40004000; let h : List Byte := q.head.getD [];
     let u : Machine.State := s.setPart tag P; let i : CtxImage := parseImage (u.devMemRead (some c) pa 64);
     let fits : Prop := u.placeable P i (sliceNum h 37 1) (sliceNum h 38 1) = true; Chosen s tag 1 P ifn q ∧ u.arbAddr tag
       q.cfg.ctx (sliceNum h 8 8) AccKind.read false = Except.ok pa ∧ u.arbPoison pa 64 = false ∧ u.ctx tag q.cfg.ctx = some c
       ∧ (u.larea tag q.cfg.ctx = false ∨ ¬fits)) := by
  refine ⟨?_, ?_, ?_, ?_, ?_, ?_, ?_⟩ <;> decide +kernel

/-- Meets the hypotheses of PacketCopies. -/
theorem hyp_PacketCopies :
    (let ifn : ℕ := 0; let s : Machine.State := qMach (copyQueue { aJob with moved := true });
     let q : Queue := copyQueue { aJob with moved := true }; let j : CopyJob := { aJob with moved := true }; s.queue ifn =
       some q ∧ q.copy = some j ∧ j.pri = false ∧ j.moved = true ∧ j.flush = false ∧ s.passedF j.hor = true ∧ j.signal = 0) ∧
    (let ifn : ℕ := 0; let page : ℕ := 5; let s : Machine.State := qMach (copyQueue priJob);
     let q : Queue := copyQueue priJob; let j : CopyJob := priJob; s.queue ifn = some q ∧ q.state ≠ QState.error ∧ q.copy =
       some j ∧ j.pri = true ∧ j.needs = some page) ∧
    (let ifn : ℕ := 0; let s : Machine.State := qMach (copyQueue { priJob with pri := false });
     let q : Queue := copyQueue { priJob with pri := false }; let j : CopyJob := { priJob with pri := false }; s.queue ifn =
       some q ∧ q.state ≠ QState.error ∧ q.copy = some j ∧ j.spaces % 4 ≠ 0) ∧
    (let s : Machine.State := qMach (copyQueue { aJob with ats := [5] }); (List.map (fun x => x.1) s.queues).Nodup) ∧
    (let s : Machine.State := { qMach { aQueue with drain := [(5, 0)] } with now := 2100 * 2000001 };
     let q : Queue := { aQueue with drain := [(5, 0)] }; let page : ℕ := 5; let tm : ℕ := 0; s.queue s.cur.tile = some q ∧
       q.state ≠ QState.error ∧ List.find? (fun d => decide (d.2 + 2000000 < s.wtime)) q.drain = some (page, tm)) := by
  refine ⟨?_, ?_, ?_, ?_, ?_⟩ <;> decide +kernel

/-- Meets the hypotheses of QueueHeadsUpkeep. -/
theorem hyp_QueueHeadsUpkeep :
    (let tag : ℕ := 1; let q : ℕ := 0; let v : ℕ := 3; let tb : Bool := false; let s : Machine.State := qMach aQueue;
     let ifn : ℕ := 0; let Q : Queue := aQueue; s.queueNo tag q = some (ifn, Q) ∧ Q.state ≠ QState.error ∧ (Q.state =
       QState.unlocked ∨ tb = true) ∧ v % 2 ^ 32 ≠ Q.widx ∧ (v % 2 ^ 32 + 2 ^ 32 - Q.ridx) % 2 ^ 32 ≤ 2 ^ Q.cfg.logsz) ∧
    (let tag : ℕ := 1; let q : ℕ := 0; let v : ℕ := 66; let tb : Bool := false; let s : Machine.State := qMach aQueue;
     let ifn : ℕ := 0; let Q : Queue := aQueue; s.queueNo tag q = some (ifn, Q) ∧ Q.state ≠ QState.error ∧ (Q.state =
       QState.unlocked ∨ tb = true) ∧ v % 2 ^ 32 ≠ Q.widx ∧ 2 ^ Q.cfg.logsz < (v % 2 ^ 32 + 2 ^ 32 - Q.ridx) % 2 ^ 32) ∧
    (let ifn : ℕ := 0; let s : Machine.State := { qMach aQueue with host := Memory.write [] (queueHostKey aCfg 0x3000) 8 7 };
     let q : Queue := aQueue; let p : List Byte := leBytes 64 7;
     let msix : ℕ := (Option.map (fun x => x.msix) (s.part q.cfg.tag)).getD 0; let e : ℕ × ℕ × ℕ := (1, 7, 0); s.queue ifn =
       some q ∧ (q.state = QState.unlocked ∨ q.state = QState.run) ∧ q.stopping = false ∧ q.head = none ∧ q.copy = none ∧
       q.ridx ≠ q.widx ∧ s.ringRead q.cfg (slotAddr q.cfg q.ridx) 64 = Except.ok p ∧ packetError p msix = some e) ∧
    (let ifn : ℕ := 0; let s : Machine.State := { qMach aQueue with host := Memory.write [] (queueHostKey aCfg 0x3000) 8 4 };
     let q : Queue := aQueue; let p : List Byte := leBytes 64 4;
     let msix : ℕ := (Option.map (fun x => x.msix) (s.part q.cfg.tag)).getD 0;
     let u : Machine.State := s.setQueue ifn { q with head := some p };
     let n : ℕ := if sliceNum p 0 1 = 1 ∨ sliceNum p 0 1 = 4 then bits (sliceNum p 1 1) 0 3 else 0;
     let ws : List (ℕ × ℕ) := []; let b : Bool := true; s.queue ifn = some q ∧ (q.state = QState.unlocked ∨ q.state =
       QState.run) ∧ q.stopping = false ∧ q.head = none ∧ q.copy = none ∧ q.ridx ≠ q.widx ∧ s.ringRead q.cfg (slotAddr q.cfg
       q.ridx) 64 = Except.ok p ∧ packetError p msix = none ∧ u.waitBlock q.cfg (sliceNum p 24 8) n = Except.ok ws ∧
       u.waitsMet q.cfg ws = Except.ok b) ∧
    (let ifn : ℕ := 0; let s : Machine.State := qMach { headQueue [(0,4)] with waits := [(0x5000, 5)] };
     let q : Queue := { headQueue [(0,4)] with waits := [(0x5000, 5)] }; let b : Bool := false; s.queue ifn = some q ∧ q.head
       ≠ none ∧ q.state ≠ QState.error ∧ s.waitsMet q.cfg q.waits = Except.ok b) ∧
    (let ifn : ℕ := 0; let s : Machine.State := qMach { headQueue [(0,4)] with waits := [(2^50, 5)] };
     let q : Queue := { headQueue [(0,4)] with waits := [(2^50, 5)] }; let e : ℕ × ℕ × ℕ := (8, 2^50, 2); s.queue ifn = some q
       ∧ q.head ≠ none ∧ q.state ≠ QState.error ∧ s.waitsMet q.cfg q.waits = Except.error e) ∧
    (let ifn : ℕ := 0; let s : Machine.State := qMach { aQueue with wbDue := true };
     let q : Queue := { aQueue with wbDue := true }; let found : List Byte := List.replicate 128 0; s.queue ifn = some q ∧
       q.wbDue = true ∧ (∀ (tm : ℕ), q.wbAt = some tm → tm + 1000 ≤ s.wtime) ∧ s.ringRead q.cfg q.cfg.qcb 128 = Except.ok
       found ∧ found ≠ []) ∧
    (let ifn : ℕ := 0; let s : Machine.State := qMach { aQueue with state := .run };
     let q : Queue := { aQueue with state := .run }; s.queue ifn = some q ∧ (q.state = QState.locked ∨ q.state = QState.run)) ∧
    (let ifn : ℕ := 0; let s : Machine.State := qMach { aQueue with state := .run };
     let q : Queue := { aQueue with state := .run }; s.queue ifn = some q ∧ q.state = QState.run) ∧
    (let s : Machine.State := qMach { aQueue with state := .run }; (List.map (fun x => x.1) s.queues).Nodup) ∧
    (let s : Machine.State := qMach { aQueue with vecPend := some 0, vecAt := some 0 };
     let q : Queue := { aQueue with vecPend := some 0, vecAt := some 0 }; let P : Machine.Part := (turned (qMach aQueue));
     let v : ℕ := 0; let tm : ℕ := 0; s.queue s.cur.tile = some q ∧ q.state ≠ QState.error ∧ q.vecPend = some v ∧ q.vecAt =
       some tm ∧ tm + q.imodNs ≤ s.wtime ∧ s.part q.cfg.tag = some P ∧ v < P.msix ∧ tbit (P.msixEntry v) 96 = false) := by
  refine ⟨?_, ?_, ?_, ?_, ?_, ?_, ?_, ?_, ?_, ?_, ?_⟩ <;> decide +kernel

/-- Meets the hypotheses of TeamsBuildWork. -/
theorem hyp_TeamsBuildWork :
    (let tile : ℕ := 0; let s : Machine.State := heldMach 20; s.mayClaim tile = true ∧ (s.tile tile).binFirst = true) ∧
    (let tile : ℕ := 0; let s : Machine.State := claimMach; let P : Machine.Part := (claimMach.part 1).getD fetchPart;
     let c : Ctx := (claimMach.ctx 1 0).getD { owner := 0 };
     let l : Launch := { fetchLaunch with image := 0x4000, units := 2 }; let r : List Launch := [];
     let i : CtxImage := anImage; let k : ℕ := 0; let T : Tile := s.tile tile; s.mayClaim tile = true ∧ T.binFirst = false ∧
       s.part T.tag = some P ∧ s.ctx T.tag T.ctl.ctx = some c ∧ P.images = [] ∧ T.resv = [] ∧ c.active = l :: r ∧ s.readImage
       T.tag T.ctl.ctx l.image = some i ∧ i.ok = true ∧ i.timage = 0 ∧ l.cw = 1 ∧ l.ch = 1 ∧ T.fits i l.g l.seq = true ∧ 0 <
       l.g ∧ (P.rectangle T.place 1 1).isSome = true ∧ (s.agentAdd T.tag T.ctl.ctx (recordVa c l.seq) 4).map (·.2) = some k ∧
       k < l.units) ∧
    (let tile : ℕ := 1; let anchor : ℕ := 0; let seq : ℕ := 0; let c : ℕ := 0;
     let s : Machine.State := pairMach.modTile 1 fun T => T.setCtl { T.ctl with noClaim := true };
     let a : Anchored := { ctx := 0, seq := 0, c := 0 }; let P : Machine.Part := (pairMach.part 1).getD fetchPart;
     let l : Launch := { fetchLaunch with image := 0x4000, units := 1, cw := 2 }; let ms : List (ℕ × ℕ) := [(0,0),(1,1)];
     let m : ℕ × ℕ := (1, 1); let i : CtxImage := anImage; let A : Tile := s.tile anchor; let T : Tile := s.tile tile;
     let way : Option (ℕ × ℕ) := if tile = anchor then none else s.dropOnWay 8400 anchor (s.meshPacket anchor tile 6 l.owner
       T.place 0); List.find? (fun a => a.seq == seq && a.c == c && a.ctx == A.ctl.ctx) A.anchoring = some a ∧ s.part A.tag =
       some P ∧ (((s.ctx A.tag a.ctx).bind fun x => x.launch seq) = some l) ∧ T.tag = A.tag ∧ tile ∉ a.lost ∧ (∀ q ∈ T.resv,
       ¬(q.anchor = anchor ∧ q.ctx = a.ctx ∧ q.seq = seq ∧ q.c = c)) ∧ P.rectangle A.place l.cw l.ch = some ms ∧ List.find?
       (fun m => m.1 == tile) ms = some m ∧ s.readImage A.tag a.ctx l.image = some i ∧ way = none ∧ s.mayClaim tile = false) ∧
    (let tile : ℕ := 1; let anchor : ℕ := 0; let seq : ℕ := 0; let c : ℕ := 0; let s : Machine.State := pairMach;
     let a : Anchored := { ctx := 0, seq := 0, c := 0 }; let P : Machine.Part := (pairMach.part 1).getD fetchPart;
     let l : Launch := { fetchLaunch with image := 0x4000, units := 1, cw := 2 }; let ms : List (ℕ × ℕ) := [(0,0),(1,1)];
     let m : ℕ × ℕ := (1, 1); let i : CtxImage := anImage; let A : Tile := s.tile anchor; let T : Tile := s.tile tile;
     let r : Resv := {
         anchor := anchor, ctx := a.ctx, seq := seq, c := c, num := c * l.cw * l.ch + m.2, g := l.g, img := i, granted :=
         false, slots := [], tslot := none };
     let way : Option (ℕ × ℕ) := if tile = anchor then none else s.dropOnWay 8400 anchor (s.meshPacket anchor tile 6 l.owner
       T.place 0); List.find? (fun a => a.seq == seq && a.c == c && a.ctx == A.ctl.ctx) A.anchoring = some a ∧ s.part A.tag =
       some P ∧ (((s.ctx A.tag a.ctx).bind fun x => x.launch seq) = some l) ∧ T.tag = A.tag ∧ tile ∉ a.lost ∧ (∀ q ∈ T.resv,
       ¬(q.anchor = anchor ∧ q.ctx = a.ctx ∧ q.seq = seq ∧ q.c = c)) ∧ P.rectangle A.place l.cw l.ch = some ms ∧ List.find?
       (fun m => m.1 == tile) ms = some m ∧ s.readImage A.tag a.ctx l.image = some i ∧ way = none ∧ s.mayClaim tile = true ∧
       T.resv = [] ∧ T.ctl.ctx = a.ctx ∧ T.binFirst = false ∧ { T with resv := [r] }.fits i l.g seq = true) ∧
    (let tile : ℕ := 1; let anchor : ℕ := 0; let seq : ℕ := 0; let c : ℕ := 0;
     let s : Machine.State := pairMach.modTile 0 fun T => { T with routes := [] };
     let a : Anchored := { ctx := 0, seq := 0, c := 0 }; let P : Machine.Part := (pairMach.part 1).getD fetchPart;
     let l : Launch := { fetchLaunch with image := 0x4000, units := 1, cw := 2 }; let ms : List (ℕ × ℕ) := [(0,0),(1,1)];
     let m : ℕ × ℕ := (1, 1); let i : CtxImage := anImage; let A : Tile := s.tile anchor; let T : Tile := s.tile tile;
     let way : Option (ℕ × ℕ) := if tile = anchor then none else s.dropOnWay 8400 anchor (s.meshPacket anchor tile 6 l.owner
       T.place 0); let d : ℕ × ℕ := (0, 2); List.find? (fun a => a.seq == seq && a.c == c && a.ctx == A.ctl.ctx) A.anchoring =
       some a ∧ s.part A.tag = some P ∧ (((s.ctx A.tag a.ctx).bind fun x => x.launch seq) = some l) ∧ T.tag = A.tag ∧ tile ∉
       a.lost ∧ (∀ q ∈ T.resv, ¬(q.anchor = anchor ∧ q.ctx = a.ctx ∧ q.seq = seq ∧ q.c = c)) ∧ P.rectangle A.place l.cw l.ch =
       some ms ∧ List.find? (fun m => m.1 == tile) ms = some m ∧ s.readImage A.tag a.ctx l.image = some i ∧ way = some d) ∧
    (let tile : ℕ := 1;
     let s : Machine.State := pairMach.modTile 1 fun T =>
       { T.setCtl { T.ctl with bins := [(0, fullBin 40)] } with resv := [aResv 1 false] }; let r : Resv := aResv 1 false;
     let T : Tile := s.tile tile; s.mayClaim tile = true ∧ firstResv (List.filter (fun r => r.ctx == T.ctl.ctx && !r.granted)
       T.resv) = some r ∧ T.binFirst = true) ∧
    (let tile : ℕ := 1; let s : Machine.State := pairMach.modTile 1 fun T => { T with resv := [aResv 1 false] };
     let r : Resv := aResv 1 false; let T : Tile := s.tile tile; s.mayClaim tile = true ∧ firstResv (List.filter (fun r =>
       r.ctx == T.ctl.ctx && !r.granted) T.resv) = some r ∧ T.binFirst = false ∧ T.fits r.img r.g r.seq = true) ∧
    (let anchor : ℕ := 0; let seq : ℕ := 0; let c : ℕ := 0; let s : Machine.State := builtMach;
     let P : Machine.Part := (builtMach.part 1).getD fetchPart;
     let l : Launch := { fetchLaunch with image := 0x4000, units := 1, cw := 2 }; let ms : List (ℕ × ℕ) := [(0,0),(1,1)];
     let A : Tile := s.tile anchor; s.part A.tag = some P ∧ (((s.ctx A.tag A.ctl.ctx).bind fun x => x.launch seq) = some l) ∧
       ((A.anchoring.any fun a => a.ctx == A.ctl.ctx && a.seq == seq && a.c == c) = true) ∧ s.allGranted A.tag anchor
       A.ctl.ctx seq c = true ∧ P.rectangle A.place l.cw l.ch = some ms ∧ (∀ m ∈ ms, s.mayClaim m.1 = true ∧ (s.tile
       m.1).ctl.ctx = A.ctl.ctx)) ∧
    (let tile : ℕ := 0; let team : ℕ := 0; let s : Machine.State := tmplMach.modTile 0 fun T => T.setTeam stampTeam;
     let x : Team := stampTeam; let p : Stamped := ⟨0, 5, 3⟩; let rest : List Stamped := [⟨0, 9, 1⟩]; let g : ℕ := 7;
     let tm : Template := aTmpl; let T : Tile := s.tile tile; T.team team = some x ∧ x.id = team ∧ x.pend = p :: rest ∧
       T.ctl.noClaim = false ∧ amGet T.store p.tmpl = some tm ∧ List.find? (fun g => (List.filter (fun g => !(T.group g).live)
       x.resv).contains g) (List.range 32) = some g) ∧
    (let tile : ℕ := 0;
     let s : Machine.State := tmplMach.modTile 0 fun T => T.setCtl { T.ctl with bins := [(0, fullBin 40)] }; let n : ℕ := 0;
     let b : Bin := fullBin 40; let g : ℕ := 1; let gs : List ℕ := (List.range 32).filter (2 ≤ ·); let tm : Template := aTmpl;
     let T : Tile := s.tile tile; oldestReady T.ctl.bins = some (n, b) ∧ T.freeSlots = g :: gs ∧ T.ctl.noClaim = false ∧ amGet
       T.store b.tmpl = some tm ∧ (b.readyCyc < s.cycle tile ∨ b.readyCyc = 0)) ∧
    (let tile : ℕ := 0;
     let s : Machine.State := tmplMach.modTile 0 fun T => T.setCtl
       { T.ctl with bins := [(0, { fullBin 4 with readyCyc := 1 })] }; let n : ℕ := 0;
     let b : Bin := { fullBin 4 with readyCyc := 1 }; let g : ℕ := 1; let gs : List ℕ := (List.range 32).filter (2 ≤ ·);
     let tm : Template := aTmpl; let T : Tile := s.tile tile; oldestReady T.ctl.bins = some (n, b) ∧ T.freeSlots = g :: gs ∧
       T.ctl.noClaim = false ∧ amGet T.store b.tmpl = some tm ∧ s.cycle tile ≤ b.readyCyc ∧ b.readyCyc ≠ 0) ∧
    (let tile : ℕ := 0; let s : Machine.State := heldMach 20;
     let T : Tile := ((heldMach 20).tile 0).setCtl
       { ((heldMach 20).tile 0).ctl with bins := [(0, { fullBin 20 with items := (fullBin 20).items ++ [heldItem.item] })] };
     let h : HeldItem := heldItem; let rest : List HeldItem := []; (s.tile tile).acceptHeld (s.tile tile).ctl.held = some (T,
       h, rest) ∧ h.req = 0 ∧ h.slot ≠ 99 ∧ h.lane < 32) ∧
    (let s : Machine.State := later (tmplMach.modTile 0 fun T => T.setCtl
        { T.ctl with bins := [(0, { fullBin 4 with ready := false })], bint := 1 });
     let b : Bin := { fullBin 4 with ready := false }; let it : Item := anItem; let r : List Item := List.replicate 3 anItem;
     let T : Tile := s.tile s.cur.tile; amGet T.ctl.bins s.cur.slot = some b ∧ b.items = it :: r ∧ T.ctl.timersOff = none ∧
       it.at_ + T.ctl.bint ≤ s.tileTime s.cur.tile) ∧
    (let s : Machine.State := { heldMach 64 with now := 2100 * 1000000 }; let h : HeldItem := heldItem;
     let T : Tile := s.tile s.cur.tile; List.find? (fun h => h.slot == s.cur.slot && h.req == 0 && decide (h.item.at_ +
       1000000 ≤ s.tileTime s.cur.tile)) T.ctl.held = some h ∧ s.cur.slot < 32) ∧
    (let tile : ℕ := 0; let team : ℕ := 0; let s : Machine.State := endMach 2; let x : Team := fetchTeam;
     let T : Tile := s.tile tile;
     let u : Machine.State := ((s.setTile tile ((T.releaseTemplates team).setTeam { x with ended := true })).staleHeld tile
       team).feOrphans tile team;
     let w : Machine.State := u.modTile tile fun T => T.setCtl (T.ctl.leave { x with ended := true });
     let c : Ctx := ((endMach 2).ctx 1 0).getD { owner := 0 }; let l : Launch := { fetchLaunch with units := 2 };
     let k : ℕ := 0; T.team team = some x ∧ x.id = team ∧ T.teamDone x = true ∧ u.teamSettled tile x = true ∧ s.ctx T.tag
       T.ctl.ctx = some c ∧ c.launch x.seq = some l ∧ l.complete = false ∧ l.aborted = none ∧ (w.agentAdd T.tag T.ctl.ctx
       (recordVa c l.seq + 4) 4).map (·.2) = some k ∧ k + 1 ≠ l.teams) ∧
    (let tile : ℕ := 0; let team : ℕ := 0; let s : Machine.State := endMach 1; let x : Team := fetchTeam;
     let T : Tile := s.tile tile;
     let u : Machine.State := ((s.setTile tile ((T.releaseTemplates team).setTeam { x with ended := true })).staleHeld tile
       team).feOrphans tile team;
     let w : Machine.State := u.modTile tile fun T => T.setCtl (T.ctl.leave { x with ended := true });
     let c : Ctx := ((endMach 1).ctx 1 0).getD { owner := 0 }; let l : Launch := { fetchLaunch with units := 1 };
     let k : ℕ := 0; T.team team = some x ∧ x.id = team ∧ T.teamDone x = true ∧ u.teamSettled tile x = true ∧ s.ctx T.tag
       T.ctl.ctx = some c ∧ c.launch x.seq = some l ∧ l.complete = false ∧ l.aborted = none ∧ (w.agentAdd T.tag T.ctl.ctx
       (recordVa c l.seq + 4) 4).map (·.2) = some k ∧ k + 1 = l.teams ∧ l.signal = 0) := by
  and_intros <;> decide +kernel

/-- Meets the hypotheses of ContextSteps. -/
theorem hyp_ContextSteps :
    (let tile : ℕ := 0; let slot : ℕ := 0; let live : ℕ := 5;
     let s : Machine.State := (State.reset.withFetchWord 64 0xFC020A0000000001).modGroup 0 0 fun g =>
       { g with marked := true, lanes := [{ st := .live, pc := 8 }] }; s.canPark tile slot = some live) ∧
    (let tile : ℕ := 0; let cslot : ℕ := 1; let s : Machine.State := sliceMach; ((s.tile tile).slot cslot).st =
       SlotSt.streaming ∧ ((s.tile tile).slot (s.tile tile).act).st ≠ SlotSt.empty) ∧
    (let tile : ℕ := 0; let cslot : ℕ := 1;
     let P : Machine.Part := ((withPart (sliceMach.modTile 0 fun T => { T with act := 2 }) fun P =>
       { P with schedPos := 1 }).part 1).getD fetchPart;
     let s : Machine.State := withPart (sliceMach.modTile 0 fun T => { T with act := 2 }) fun P => { P with schedPos := 1 };
       ((s.tile tile).slot cslot).st = SlotSt.streaming ∧ ((s.tile tile).slot (s.tile tile).act).st = SlotSt.empty ∧ s.part
       (s.tile tile).tag = some P ∧ P.boundary = none ∧ P.current = some ((s.tile tile).slot cslot).ctl.ctx) ∧
    (let s : Machine.State := (qMach aQueue).modTile 0 fun T => { T with segs := [2, 1] }; let i : ℕ := 2;
     let l : List ℕ := [1]; (s.tile s.cur.tile).segs = i :: l ∧ s.haltedAt s.cur.tile = false) ∧
    (let s : Machine.State := (fieldMach { halted := true, haltAt := 10000 }).modTile 0 fun T => { T with segs := [2, 1] };
     let i : ℕ := 2; let l : List ℕ := [1]; (s.tile s.cur.tile).segs = i :: l ∧ s.haltedAt s.cur.tile = true) ∧
    (let s : Machine.State := { sliceMach with cur := { sliceMach.cur with tile := 1 } };
     let P : Machine.Part := (sliceMach.part 1).getD fetchPart; let i : ℕ := 1; let e : ℕ × ℕ := (1, 1); s.part s.cur.tile =
       some P ∧ P.boundary = none ∧ P.paused = none ∧ P.heldStop = false ∧ P.op = none ∧ P.pendSet = [] ∧ s.sliceOver
       s.cur.tile P = true ∧ 1 < List.length P.ctxs ∧ s.nextEntry s.cur.tile P = some i ∧ P.sched[i]? = some e ∧ P.current ≠
       some e.1) ∧
    (let P : Machine.Part := ((withPart sliceMach fun P => { P with boundary := some 0, schedPos := 1 }).part 1).getD
        fetchPart;
     let s : Machine.State := {
         (withPart (sliceMach.modTile 0 fun T => T.setCtl { T.ctl with groups := [] }) fun P =>
         { P with boundary := some 0, schedPos := 1 }) with cur := { sliceMach.cur with tile := 1 } }; let b : ℕ := 0; s.part
       s.cur.tile = some P ∧ P.boundary = some b ∧ (∀ u ∈ s.tilesOf s.cur.tile, s.quiet u = true)) ∧
    (let P : Machine.Part := ((withPart sliceMach fun P => { P with boundary := some 0, preempt := 5000 }).part 1).getD
        fetchPart;
     let s : Machine.State := {
         (withPart sliceMach fun P => { P with boundary := some 0, preempt := 5000 }) with cur :=
         { sliceMach.cur with tile := 1 } }; let b : ℕ := 0; s.part s.cur.tile = some P ∧ P.boundary = some b ∧ b + P.preempt
       ≤ s.wtime) ∧
    (let P : Machine.Part := ((withPart claimMach fun P => { P with images := [anotherImage] }).part 1).getD fetchPart;
     let s : Machine.State := withPart claimMach fun P => { P with images := [anotherImage] };
     let l : List (ℕ × SavedImage) := [(0, anotherImage)]; let T : Tile := s.tile s.cur.tile; s.part T.tag = some P ∧
       List.findSome? (s.placements s.cur.tile) (List.filter (fun x => x.ctx == T.ctl.ctx && x.listed) P.images) = some l ∧ (∀
       x ∈ P.images, x.ctx = T.ctl.ctx → x.listed = true → s.imageGood T.tag x = true) ∧ (∀ z ∈ l, (s.tile z.1).tag = T.tag)) := by
  refine ⟨?_, ?_, ?_, ?_, ?_, ?_, ?_, ?_, ?_⟩ <;> decide +kernel

/-- Meets the hypotheses of TrapsAborts. -/
theorem hyp_TrapsAborts :
    (let tile : ℕ := 0; let slot : ℕ := 0;
     let s : Machine.State := (qMach aQueue).modGroup 0 0 fun g => { g with traps := [{ aTrap with delivered := false }] };
     let r : Trap := { aTrap with delivered := false }; let c : Ctx := ((qMach aQueue).ctx 1 0).getD { owner := 0 };
     let T : Tile := s.tile tile; List.find? (fun r => !r.delivered && !r.held) (T.group slot).traps = some r ∧ s.ctx T.tag
       T.ctl.ctx = some c ∧ c.storeFull = false ∧ T.aevtFull = false) ∧
    (let tag : ℕ := 1; let ctx : ℕ := 0; let value : ℕ := 0x105; let s : Machine.State := abortMach fetchLaunch;
     let c : Ctx := ((abortMach fetchLaunch).ctx 1 0).getD { owner := 0 }; let l : Launch := fetchLaunch; s.ctx tag ctx = some
       c ∧ List.find? (fun l => l.seq % 2 ^ 32 == value / 2 ^ 32) c.launches = some l ∧ l.complete = false ∧ l.aborted = none) ∧
    (let tile : ℕ := 0; let tag : ℕ := 1; let ctx : ℕ := 0; let seq : ℕ := 0;
     let s : Machine.State := abortMach abortedLaunch; let c : Ctx := ((abortMach abortedLaunch).ctx 1 0).getD { owner := 0 };
     let l : Launch := abortedLaunch; s.ctx tag ctx = some c ∧ c.launch seq = some l ∧ l.aborted ≠ none ∧ tile ∈ l.awaiting ∧
       (s.tile tile).tag = tag ∧ ((s.tile tile).ctl.ctx ≠ ctx ∨ ((s.tile tile).slot (s.tile tile).act).st = SlotSt.active ∧
       s.launchBusy tile seq = false)) ∧
    (let tag : ℕ := 1; let ctx : ℕ := 0; let seq : ℕ := 0;
     let s : Machine.State := abortMach { abortedLaunch with awaiting := [] };
     let c : Ctx := ((abortMach { abortedLaunch with awaiting := [] }).ctx 1 0).getD { owner := 0 };
     let l : Launch := { abortedLaunch with awaiting := [] }; let a : ℕ × ℕ := (1, 2); s.ctx tag ctx = some c ∧ c.launch seq =
       some l ∧ l.aborted = some a ∧ l.complete = false ∧ (∀ x ∈ l.awaiting, (s.tile x).tag ≠ tag)) ∧
    (let tile : ℕ := 0; let cslot : ℕ := 0; let n : ℕ := 2;
     let s : Machine.State := (qMach aQueue).modTile 0 fun T => {
         T.setCtl { T.ctl with pmc := [0, 0, 2^48 + 7, 0], pms := [0, 0, 0x8000, 0] } with aevt := List.replicate 64 ⟨1, 0, 0,
         0⟩ }; let c : CtxCtl := ((s.tile tile).slot cslot).ctl; n < 4 ∧ 2 ^ 48 ≤ c.pmc.getD n 0 ∧ c.pms.length = 4 ∧ (s.tile
       tile).aevtFull = true ∧ bit (c.pms.getD n 0) 15 = true) ∧
    (let tile : ℕ := 0; let cslot : ℕ := 0; let n : ℕ := 2;
     let s : Machine.State := (qMach aQueue).modTile 0 fun T => T.setCtl
       { T.ctl with pmc := [0, 0, 2^48 + 7, 0], pms := [0, 0, 0x8000, 0] }; let c : CtxCtl := ((s.tile tile).slot cslot).ctl;
       n < 4 ∧ 2 ^ 48 ≤ c.pmc.getD n 0 ∧ c.pms.length = 4 ∧ ((s.tile tile).aevtFull = false ∨ bit (c.pms.getD n 0) 15 =
       false)) ∧
    (let tag : ℕ := 1; let ctx : ℕ := 0; let s : Machine.State := qMach aQueue; (∀ q ∈ s.queues, q.2.cfg.tag = tag →
       q.2.cfg.ctx = ctx → q.2.state = QState.unlocked ∨ q.2.state = QState.error)) ∧
    (let tile : ℕ := 0; tile < 8400) := by
  refine ⟨?_, ?_, ?_, ?_, ?_, ?_, ?_, ?_⟩ <;> decide +kernel

/-- Meets the hypotheses of LoadSteps. -/
theorem hyp_LoadSteps :
    (let id : ℕ := 1; let s : Machine.State := reqMach [aReq (.load true)]; let r : Req := aReq (.load true);
     let f : Bool := true; Turn s id r ∧ s.teamOrder id r = true ∧ r.kind = ReqKind.load f ∧ s.poisoned r.pa r.size = false) ∧
    (let id : ℕ := 1; let s : Machine.State := { reqMach [aReq (.load true)] with poison := [0x1000000] };
     let r : Req := aReq (.load true); let f : Bool := true; Turn s id r ∧ s.teamOrder id r = true ∧ r.kind = ReqKind.load f ∧
       s.poisoned r.pa r.size = true) ∧
    (let id : ℕ := 1;
     let s : Machine.State := reqMach [{ aReq (.load true) with perf := true, ord := 1 },
       { aReq (.load true) with perf := true }]; let r : Req := { aReq (.load true) with perf := true, ord := 1 }; s.req id =
       some r ∧ r.perf = true ∧ r.kind = ReqKind.load true ∧ (∃ q ∈ s.reqs, q.1 ≠ id ∧ q.2.isFill r.tile (r.pa / 128) = true ∧
       q.2.ord < r.ord)) ∧
    (let id : ℕ := 1; let s : Machine.State := reqMach [{ aReq (.load true) with perf := true }];
     let r : Req := { aReq (.load true) with perf := true }; s.req id = some r ∧ r.perf = true ∧ r.kind = ReqKind.load true ∧
       (∀ q ∈ s.reqs, q.1 ≠ id → q.2.isFill r.tile (r.pa / 128) = true → r.ord ≤ q.2.ord) ∧ (s.tile r.tile).tag = r.tag ∧
       (s.tile r.tile).gen = r.gen ∧ (s.tile r.tile).ctl.ctx = r.ctx ∧ (s.field (fieldOf r.tile)).hold = false ∧ (∀ q ∈
       s.reqs, q.2.tile = r.tile → q.2.pa / 128 = r.pa / 128 → q.2.perf = true)) ∧
    (let id : ℕ := 1;
     let s : Machine.State := { reqMach [{ aReq (.load true) with perf := true }] with fields := [(0, { hold := true })] };
     let r : Req := { aReq (.load true) with perf := true }; s.req id = some r ∧ r.perf = true ∧ r.kind = ReqKind.load true ∧
       (∀ q ∈ s.reqs, q.1 ≠ id → q.2.isFill r.tile (r.pa / 128) = true → r.ord ≤ q.2.ord) ∧ (s.field (fieldOf r.tile)).hold =
       true) ∧
    (let id : ℕ := 1;
     let s : Machine.State := (reqMach [{ aReq .peerLoad with pa := 0xA00000000000 }]).modKs fun k =>
       { k with flits := [(0, [⟨1, 0, 1⟩])] }; let r : Req := { aReq .peerLoad with pa := 0xA00000000000 };
     let o : OutInst := aOut; Waiting s id r o ∧ s.flitWaits id = true) ∧
    (let id : ℕ := 1; let s : Machine.State := reqMach [{ aReq (.load false) with perf := true }];
     let r : Req := { aReq (.load false) with perf := true }; let o : OutInst := aOut; Waiting s id r o ∧ s.flitWaits id =
       false ∧ r.perf = true ∧ r.ecc = 0 ∧ regionOf r.pa = Region.plinth ∧ (r.kind = ReqKind.load false ∨ ∃ i, r.kind =
       ReqKind.gather i)) ∧
    (let id : ℕ := 1; let s : Machine.State := { reqMach [{ aReq .peerLoad with pa := 0xA00000000000 }] with free := 1 };
     let r : Req := { aReq .peerLoad with pa := 0xA00000000000 }; let o : OutInst := aOut; Waiting s id r o ∧ s.flitWaits id =
       false ∧ r.kind = ReqKind.peerLoad) ∧
    (let id : ℕ := 1; let s : Machine.State := reqMach [{ aReq (.load false) with perf := true, ecc := 1 }];
     let r : Req := { aReq (.load false) with perf := true, ecc := 1 }; let o : OutInst := aOut; Waiting s id r o ∧
       s.flitWaits id = false ∧ r.kind = ReqKind.load false ∧ r.perf = true ∧ r.ecc ≠ 0 ∧ regionOf r.pa = Region.plinth) ∧
    (let id : ℕ := 1; let s : Machine.State := reqMach [{ aReq (.load false) with gen := 1 }];
     let r : Req := { aReq (.load false) with gen := 1 }; s.req id = some r ∧ s.reqLive r = false) := by
  refine ⟨?_, ?_, ?_, ?_, ?_, ?_, ⟨?_, ?_, ?_, ?_, ?_, .inl rfl⟩, ?_, ?_, ?_⟩ <;> decide +kernel

/-- Meets the hypotheses of CompletionWaitSteps. -/
theorem hyp_CompletionWaitSteps :
    (let tile : ℕ := 0; let g : ℕ := 0; let iid : ℕ := 3;
     let s : Machine.State := outMach fun g => { g with lanes := g.lanes.map fun L => { L with wait := .inst 3 } };
     let o : OutInst := doneOut; let T : Tile := s.tile tile; let G : Machine.Group := T.group g; G.outOf iid = some o ∧ o.rem
       = 0 ∧ o.cmds = [] ∧ o.ready ≤ s.cycle tile ∧ G.flagsPending o = false ∧ (o.hor = 0 ∨ s.passed tile o.hor = true) ∧
       s.haltedAt tile = false ∧ (G.waitersOf iid = 0 ∨ (o.kind % 2 = 1 → G.fpsTrap o.fps = 0) ∧ (o.kind / 2 % 2 = 1 →
       G.istTrap o.ist = 0))) ∧
    (let tile : ℕ := 0; let g : ℕ := 0; let iid : ℕ := 3;
     let s : Machine.State := outMach fun g =>
       { g with fps := 0x100, lanes := g.lanes.map fun L => { L with wait := .inst 3 } }; let o : OutInst := doneOut;
     let T : Tile := s.tile tile; let G : Machine.Group := T.group g; G.outOf iid = some o ∧ o.rem = 0 ∧ o.cmds = [] ∧ o.ready
       ≤ s.cycle tile ∧ G.flagsPending o = false ∧ (o.hor = 0 ∨ s.passed tile o.hor = true) ∧ s.haltedAt tile = false ∧
       G.waitersOf iid ≠ 0 ∧ o.kind % 2 = 1 ∧ G.fpsTrap o.fps ≠ 0) ∧
    (let tile : ℕ := 0; let g : ℕ := 0; let iid : ℕ := 3;
     let s : Machine.State := (outMach fun g =>
       { g with istat := 0x100, lanes := g.lanes.map fun L => { L with wait := .inst 3 } }).modGroup 0 0 fun g =>
       { g with out := [divOut] }; let o : OutInst := divOut; let T : Tile := s.tile tile; let G : Machine.Group := T.group g;
       G.outOf iid = some o ∧ o.rem = 0 ∧ o.cmds = [] ∧ o.ready ≤ s.cycle tile ∧ G.flagsPending o = false ∧ (o.hor = 0 ∨
       s.passed tile o.hor = true) ∧ s.haltedAt tile = false ∧ G.waitersOf iid ≠ 0 ∧ (o.kind % 2 = 1 → G.fpsTrap o.fps = 0) ∧
       o.kind / 2 % 2 = 1 ∧ G.istTrap o.ist ≠ 0) ∧
    (let tile : ℕ := 0; let g : ℕ := 0; let lane : ℕ := 0; let upto : ℕ := 0; let k : FenceKind := .rel;
     let sc : Scope := .cluster; let rpt : Bool := false;
     let s : Machine.State := (qMach aQueue).modGroup 0 0 fun g =>
       { g with lanes := [{ st := .live, pc := 8, wait := .fence .rel .cluster 0 false }] };
     let G : Machine.Group := (s.tile tile).group g; let w : Wait := Wait.fence k sc upto rpt;
     let ls : List ℕ := List.filter (fun l => (G.lane l).wait == w) (List.range 32); (G.lane lane).wait = w ∧ s.fenceOk tile g
       k sc (maskOf ls) upto = true) ∧
    (let tile : ℕ := 0; let g : ℕ := 0; let lane : ℕ := 0; let upto : ℕ := 0; let cl : Bool := false;
     let sc : Scope := .cluster; let s : Machine.State := later (waitMach (.relBar false .cluster 0));
     let G : Machine.Group := (s.tile tile).group g; (G.lane lane).wait = Wait.relBar cl sc upto ∧ s.relOk tile g sc upto =
       true) ∧
    (let tile : ℕ := 0; let g : ℕ := 0; let lane : ℕ := 0; let upto : ℕ := 9; let cl : Bool := false;
     let sc : Scope := .cluster; let s : Machine.State := { waitMach (.relBar false .cluster 9) with now := 0 };
     let G : Machine.Group := (s.tile tile).group g; (G.lane lane).wait = Wait.relBar cl sc upto ∧ s.relOk tile g sc upto =
       false) ∧
    (let tile : ℕ := 0; let g : ℕ := 0; let lane : ℕ := 0; let acc : Bool := false; let ph : Bool := false;
     let us : List ℕ := [0]; let s : Machine.State := waitMach (.units false false [0]);
     let G : Machine.Group := (s.tile tile).group g; (G.lane lane).wait = Wait.units acc ph us ∧ s.unitsReady tile G.team acc
       ph us = true) ∧
    (let tile : ℕ := 0; let g : ℕ := 0; let lane : ℕ := 0; let acc : Bool := false; let ph : Bool := false;
     let us : List ℕ := [0];
     let s : Machine.State := (waitMach (.units false false [0])).modTile 0 fun T => T.setTeam
       { fetchTeam with slabSt := [(0, { own := true, pend := 1 })] }; let G : Machine.Group := (s.tile tile).group g; (G.lane
       lane).wait = Wait.units acc ph us ∧ s.unitsReady tile G.team acc ph us = false) ∧
    (let w : ℕ := 2; let s : Machine.State := { qMach aQueue with walks := [(2, aWalk)] }; let W : Walk := aWalk; amGet
       s.walks w = some W ∧ W.started = false ∧ (s.field W.field).stopped = false ∧ (List.filter (fun x => x.2.field ==
       W.field && x.2.started) s.walks).length < (s.field W.field).walkers) ∧
    (let w : ℕ := 2; let s : Machine.State := { qMach aQueue with walks := [(2, { aWalk with started := true })] };
     let W : Walk := { aWalk with started := true }; amGet s.walks w = some W ∧ W.started = true) := by
  refine ⟨?_, ?_, ?_, ?_, ?_, ?_, ?_, ?_, ?_, ?_⟩ <;> decide +kernel

/-- Meets the hypotheses of StoreAtomicSteps. -/
theorem hyp_StoreAtomicSteps :
    (let id : ℕ := 1; let v : ℕ := 0xABCDE; let s : Machine.State := reqMach [aReq (.store 0xABCDE)];
     let r : Req := aReq (.store 0xABCDE); Turn s id r ∧ r.kind = ReqKind.store v ∧ (s.field (homeField r.pa)).stopped =
       false) ∧
    (let id : ℕ := 1; let s : Machine.State := reqMach [{ aReq (.red (.add .n32) 5) with perf := true }];
     let r : Req := { aReq (.red (.add .n32) 5) with perf := true }; let o : OutInst := aOut; Waiting s id r o) ∧
    (let id : ℕ := 1; let s : Machine.State := reqMach [aReq (.atom (.add .n32) 5 0)];
     let r : Req := aReq (.atom (.add .n32) 5 0); let op : AtOp := .add .n32; let b : ℕ := 5; let d : ℕ := 0; Turn s id r ∧
       regionOf r.pa = Region.plinth ∧ s.poisoned r.pa r.size = false ∧ r.kind = ReqKind.atom op b d) ∧
    (let id : ℕ := 1; let s : Machine.State := reqMach [aReq (.red (.add .n32) 5)]; let r : Req := aReq (.red (.add .n32) 5);
     let op : AtOp := .add .n32; let b : ℕ := 5; Turn s id r ∧ regionOf r.pa = Region.plinth ∧ s.poisoned r.pa r.size = false
       ∧ r.kind = ReqKind.red op b) ∧
    (let id : ℕ := 1; let s : Machine.State := reqMach [{ aReq (.atom (.add .n32) 5 0) with perf := true }];
     let r : Req := { aReq (.atom (.add .n32) 5 0) with perf := true }; let o : OutInst := aOut; let op : AtOp := .add .n32;
     let b : ℕ := 5; let d : ℕ := 0; Waiting s id r o ∧ r.perf = true ∧ r.ecc = 0 ∧ r.kind = ReqKind.atom op b d) ∧
    (let id : ℕ := 1; let s : Machine.State := reqMach [{ aReq (.red (.add .n32) 5) with perf := true }];
     let r : Req := { aReq (.red (.add .n32) 5) with perf := true }; let o : OutInst := aOut; let op : AtOp := .add .n32;
     let b : ℕ := 5; Waiting s id r o ∧ r.perf = true ∧ r.ecc = 0 ∧ r.kind = ReqKind.red op b) ∧
    (let id : ℕ := 1; let s : Machine.State := reqMach [aReq (.gather [0, 2, 1])]; let r : Req := aReq (.gather [0, 2, 1]);
     let idx : List ℕ := [0, 2, 1]; s.req id = some r ∧ r.perf = false ∧ s.lineOrder id r = true ∧ s.teamOrder id r = true ∧
       r.kind = ReqKind.gather idx ∧ (∀ i ∈ idx, s.poisoned (r.pa + 4 * i) 4 = false)) := by
  refine ⟨?_, ?_, ?_, ?_, ?_, ?_, ?_⟩ <;> decide +kernel

/-- Meets the hypotheses of MeshSteps. -/
theorem hyp_MeshSteps :
    (let x : ℕ := 1; let p : Packet := { aPacket with port := 2, seq := 1 };
     let s : Machine.State :=
       { meshMach [farReq .spLoad] with due := [{ ev := .routerPacketReceive 1 { aPacket with port := 2 } }] }; s.behind x p =
       true) ∧
    (let x : ℕ := 1; let p : Packet := aPacket; let s : Machine.State := meshMach [farReq .spLoad]; let T : Tile := s.tile x;
       s.behind x p = false ∧ p.tag = T.tag ∧ p.gen = T.gen ∧ x = p.dest ∧ x ≠ p.stile ∧ T.quiesce ≠ Quiesce.retag ∧ p.resp =
       false) ∧
    (let x : ℕ := 0; let p : Packet := { aPacket with resp := true, stile := 1, dest := 0 };
     let s : Machine.State := meshMach [farReq .spLoad]; let T : Tile := s.tile x; let r : Req := farReq .spLoad;
     let o : OutInst := aOut; s.behind x p = false ∧ p.tag = T.tag ∧ p.gen = T.gen ∧ x = p.dest ∧ x ≠ p.stile ∧ T.quiesce ≠
       Quiesce.retag ∧ p.resp = true ∧ s.req p.req = some r ∧ s.ctxHere r.tile r.ctx = true ∧ r.kind = ReqKind.spLoad ∧ r.ecc
       = 0 ∧ ((s.tile r.tile).group r.slot).outOf r.iid = some o) ∧
    (let x : ℕ := 1; let p : Packet := { aPacket with tag := 2 }; let s : Machine.State := meshMach [farReq .spLoad];
     let T : Tile := s.tile x; s.behind x p = false ∧ p.tag ≠ T.tag ∧ p.resp = false ∧ x ≠ p.stile ∧ (x = p.dest → T.quiesce ≠
       Quiesce.retag) ∧ (x ≠ p.dest → T.tableBad = false)) ∧
    (let id : ℕ := 1; let s : Machine.State := meshMach [farReq .spLoad]; let r : Req := farReq .spLoad;
     let o : OutInst := aOut; s.req id = some r ∧ s.reqLive r = true ∧ s.ctxHere r.tile r.ctx = true ∧ (r.kind =
       ReqKind.spLoad ∨ ∃ v, r.kind = ReqKind.spStore v) ∧ ((s.tile r.tile).group r.slot).outOf r.iid = some o) ∧
    (let tile : ℕ := 0; let tag : ℕ := 1; let ctx : ℕ := 0; let c : Cover := aCover;
     let P : Machine.Part := ((withCtx (withPart (launchMach aQueue) fun P => { P with covers := [aCover] }) fun c =>
       { c with evbase := 0x6000 }).part 1).getD fetchPart;
     let s : Machine.State := {
         (withCtx (withPart (launchMach aQueue) fun P => { P with covers := [aCover] }) fun c => { c with evbase := 0x6000 })
         with now := 2100 * 20000 }; s.part tag = some P ∧ List.find? (fun c => c.tile == tile && c.ctx == ctx) P.covers =
       some c ∧ c.first + 10000 < s.wtime) := by
  refine ⟨?_, ?_, ?_, ?_, ⟨?_, ?_, ?_, .inl rfl, ?_⟩, ?_⟩ <;> decide +kernel

/-- Meets the hypotheses of RemoteSteps. -/
theorem hyp_RemoteSteps :
    (let id : ℕ := 1; let s : Machine.State := meshMach [farReq .spLoad]; let r : Req := farReq .spLoad;
     let y : Team := { fetchTeam with id := 3, sp := [(8, 5)], full := [2] }; Arrives s id r y ∧ r.kind = ReqKind.spLoad ∧
       (s.tile r.rtile).badSp y.id r.va r.size = false) ∧
    (let id : ℕ := 1; let s : Machine.State := meshMach [farReq (.spSet false)]; let r : Req := farReq (.spSet false);
     let y : Team := { fetchTeam with id := 3, sp := [(8, 5)], full := [2] }; let f : Bool := false; Arrives s id r y ∧ r.kind
       = ReqKind.spSet f) ∧
    (let id : ℕ := 1; let s : Machine.State := meshMach [farReq (.spSte 5)]; let r : Req := farReq (.spSte 5);
     let y : Team := { fetchTeam with id := 3, sp := [(8, 5)], full := [2] }; Arrives s id r y ∧ ((∃ k, r.kind = ReqKind.spLdf
       k) ∨ ∃ v, r.kind = ReqKind.spSte v)) ∧
    (let id : ℕ := 1;
     let s : Machine.State := (meshMach [farReq (.spawn 3 7)]).modTile 1 fun T =>
       { T with store := [(0, { aTmpl with teams := [3] })] }; let r : Req := farReq (.spawn 3 7);
     let y : Team := { fetchTeam with id := 3, sp := [(8, 5)], full := [2] }; let num : ℕ := 3; let i : ℕ := 7;
     let tm : ℕ × Template := (0, { aTmpl with teams := [3] });
     let U : Tile := ((s.tile 1).binOffer 0 3 { idx := i, at_ := s.tileTime 1, cyc := s.cycle 1, src := 64 }).getD (s.tile 1);
       Arrives s id r y ∧ r.kind = ReqKind.spawn num i ∧ y.ended = false ∧ (s.tile r.rtile).tmplOf y num = some tm ∧ (s.tile
       r.rtile).ctl.held = [] ∧ (s.tile r.rtile).binOffer tm.1 y.id
       { idx := i, at_ := s.tileTime r.rtile, cyc := s.cycle r.rtile, src := 64 + r.slot } = some U) ∧
    (let id : ℕ := 1; let s : Machine.State := meshMach [{ farReq .spLoad with rteam := 9 }];
     let r : Req := { farReq .spLoad with rteam := 9 }; s.req id = some r ∧ r.perf = false ∧ r.arr = false ∧ r.rtile ≠ r.tile
       ∧ s.remoteOrder id r = true ∧ (s.tile r.rtile).held = false ∧ (s.tile r.rtile).tag = r.tag ∧ (s.tile r.rtile).gen =
       r.gen ∧ s.ctxHere r.rtile r.ctx = true ∧ (s.tile r.rtile).team r.rteam = none) ∧
    (let tile : ℕ := 1; let team : ℕ := 3; let word : ℕ := 2;
     let s : Machine.State := meshMach [{ farReq (.spLdf true) with arr := true }]; let id : ℕ := 1;
     let x : Team := { fetchTeam with id := 3, sp := [(8, 5)], full := [2] };
     let r : Req := { farReq (.spLdf true) with arr := true }; (s.tile tile).team team = some x ∧ x.id = team ∧ (s.tile
       tile).slabsHere team [word / 1024] = true ∧ firstReady (x.full.contains word) (List.filter (fun q => q.2.rtile == tile
       && q.2.rteam == team && q.2.va / 4 == word && q.2.arr && !q.2.perf) s.reqs) = some (id, r)) ∧
    (let s : Machine.State := { meshMach [{ farReq (.spLdf true) with arr := true }] with now := 2100 * 1000001 };
     let id : ℕ := 1; let r : Req := { farReq (.spLdf true) with arr := true }; List.find? (fun q => q.2.isFe && q.2.arr &&
       !q.2.perf && decide (q.2.since + 1000000 < s.wtime)) (s.reqsOf s.cur.tile s.cur.slot) = some (id, r)) ∧
    (let tile : ℕ := 0; let team : ℕ := 0; let cluster : Bool := false; let s : Machine.State := barMach false;
     let x : Team := fetchTeam; let T : Tile := s.tile tile; T.team team = some x ∧ x.id = team ∧ (cluster = true → x.cw *
       x.ch = 1 ∧ x.lostC = false) ∧ T.allArrived team cluster = true ∧ T.someArrived team cluster = true ∧ (List.map (fun x
       => x.1) T.ctl.groups).Nodup) := by
  refine ⟨?_, ?_, ⟨?_, .inr ⟨_, rfl⟩⟩, ?_, ?_, ?_, ?_, ?_⟩ <;> decide +kernel

/-- Meets the hypotheses of EngineSteps. -/
theorem hyp_EngineSteps :
    (let tile : ℕ := 0; let s : Machine.State := (copyMach (aCopy 0)).modTile 0 fun T => { T with segs := List.range 24 };
     let x0 : CopyCmd := aCopy 0; let T : Tile := s.tile tile; let x : CopyCmd := { x0 with rtile := s.homeOf x0 }; List.find?
       (fun x => !x.ran) T.copies = some x0 ∧ (s.remoteAway tile x = true ∨ T.slabsHere x.team x.lunits = false)) ∧
    (let tile : ℕ := 0; let s : Machine.State := farCopyMach; let x0 : CopyCmd := { aCopy 2 with rtile := 1, rteam := 3 };
     let T : Tile := s.tile tile; let x : CopyCmd := { x0 with rtile := s.homeOf x0 };
     let d : Packet × ℕ × ℕ := (s.copyDrop 0 x0).getD (aPacket, 0, 0); List.find? (fun x => !x.ran) T.copies = some x0 ∧
       s.remoteAway tile x = false ∧ T.slabsHere x.team x.lunits = true ∧ (s.tile x.rtile).slabsHere x.rteam x.runits = true ∧
       s.copyDrop tile x = some d) ∧
    (let tile : ℕ := 0; let s : Machine.State := copyMach (aCopy 4); let x0 : CopyCmd := aCopy 4; let T : Tile := s.tile tile;
     let x : CopyCmd := { x0 with rtile := s.homeOf x0 };
     let r : Machine.State := ((copyMach (aCopy 4)).copyRows 0 (aCopy 4) 0 0 1).1;
     let u : Machine.State := ((copyMach (aCopy 4)).copyRows 0 (aCopy 4) 0 0 1).1; let h : ℕ := 0; List.find? (fun x =>
       !x.ran) T.copies = some x0 ∧ s.remoteAway tile x = false ∧ T.slabsHere x.team x.lunits = true ∧ (s.tile
       x.rtile).slabsHere x.rteam x.runits = true ∧ s.copyDrop tile x = none ∧ s.copyRows tile x 0 0 x.rows = (r, RowRes.ok u
       h)) ∧
    (let tile : ℕ := 0; let s : Machine.State := copyMach (aCopy 4); let x0 : CopyCmd := aCopy 4; let T : Tile := s.tile tile;
     let x : CopyCmd := { x0 with rtile := s.homeOf x0 };
     let y : Team := { fetchTeam with sp := [(16, 9), (20, 8)], slabSt := [(0, { own := true, pend := 1 })] }; List.find? (fun
       x => !x.ran) T.copies = some x0 ∧ s.remoteAway tile x = false ∧ T.slabsHere x.team x.lunits = true ∧ (s.tile
       x.rtile).slabsHere x.rteam x.runits = true ∧ s.copyDrop tile x = none ∧ T.team x.team = some y ∧ y.id = x.team ∧ x.rows
       = 1 ∧ x.rowb ≠ 0 ∧ x.kind = 4) ∧
    (let tile : ℕ := 0; let s : Machine.State := copyMach (aCopy 0); let x0 : CopyCmd := aCopy 0; let T : Tile := s.tile tile;
     let x : CopyCmd := { x0 with rtile := s.homeOf x0 };
     let y : Team := { fetchTeam with sp := [(16, 9), (20, 8)], slabSt := [(0, { own := true, pend := 1 })] };
     let pa : ℕ := 0x40005000; let dev : Bool := false; List.find? (fun x => !x.ran) T.copies = some x0 ∧ s.remoteAway tile x
       = false ∧ T.slabsHere x.team x.lunits = true ∧ (s.tile x.rtile).slabsHere x.rteam x.runits = true ∧ s.copyDrop tile x =
       none ∧ T.team x.team = some y ∧ y.id = x.team ∧ x.rows = 1 ∧ x.rowb ≠ 0 ∧ x.far % 128 + x.rowb ≤ 128 ∧ x.far < 2 ^ 56 ∧
       regionOf pa = Region.plinth ∧ x.kind = 0 ∧ s.engPhys tile x.team x.held AccKind.engRead (T.group x.slot).priv x.far =
       some (pa, dev) ∧ s.poisoned pa x.rowb = false) ∧
    (let tile : ℕ := 0; let s : Machine.State := copyMach (aCopy 1); let x0 : CopyCmd := aCopy 1; let T : Tile := s.tile tile;
     let x : CopyCmd := { x0 with rtile := s.homeOf x0 };
     let y : Team := { fetchTeam with sp := [(16, 9), (20, 8)], slabSt := [(0, { own := true, pend := 1 })] };
     let pa : ℕ := 0x40005000; let dev : Bool := false; List.find? (fun x => !x.ran) T.copies = some x0 ∧ s.remoteAway tile x
       = false ∧ T.slabsHere x.team x.lunits = true ∧ (s.tile x.rtile).slabsHere x.rteam x.runits = true ∧ s.copyDrop tile x =
       none ∧ T.team x.team = some y ∧ y.id = x.team ∧ x.rows = 1 ∧ x.rowb ≠ 0 ∧ x.far % 128 + x.rowb ≤ 128 ∧ x.far < 2 ^ 56 ∧
       regionOf pa = Region.plinth ∧ x.kind = 1 ∧ s.engPhys tile x.team x.held AccKind.engWrite (T.group x.slot).priv x.far =
       some (pa, dev) ∧ T.spBad x.team x.loff x.rowb = none) ∧
    (let tile : ℕ := 0; let s : Machine.State := copyMach { aCopy 0 with ran := true };
     let x : CopyCmd := { aCopy 0 with ran := true };
     let y : Team := { fetchTeam with sp := [(16, 9), (20, 8)], slabSt := [(0, { own := true, pend := 1 })] };
     let T : Tile := s.tile tile; List.filter (fun x => x.ran) T.copies = [x] ∧ s.passed tile x.hor = true ∧ s.remoteAway tile
       { x with rtile := s.homeOf x } = false ∧ T.team x.team = some y ∧ y.id = x.team ∧ x.runits = [] ∧ x.lunits.Nodup) ∧
    (let tile : ℕ := 0; let s : Machine.State := arrayMach { aCmd .swp with ran := true };
     let c : ArrCmd := { aCmd .swp with ran := true }; let u : Machine.Units := { team := 0, slabs := [0], regions := [0] };
     let y : Team := arrayTeam; let T : Tile := s.tile tile; List.find? (fun x => x.ran) T.arr.q = some c ∧ c.units = [u] ∧
       T.team u.team = some y ∧ y.id = u.team ∧ u.slabs.Nodup ∧ u.regions.Nodup) ∧
    (let tile : ℕ := 0; let s : Machine.State := arrayMach (aCmd (.ldsS 0 0 0 .f64 false));
     let c : ArrCmd := aCmd (.ldsS 0 0 0 .f64 false); let T : Tile := s.tile tile; let off : ℕ := 0; let tweak : ℕ := 0;
     let key : ℕ := 0; let fmt : MFmt := .f64; let sp : Bool := false; let x : Team := arrayTeam; T.arr.head = some c ∧
       T.arrReady c = true ∧ c.op = ArrOp.ldsS off tweak key fmt sp ∧ c.key = none ∧ T.team c.team = some x ∧ T.spBad c.team
       off (imgSize fmt sp) = none) ∧
    (let tile : ℕ := 0; let s : Machine.State := arrayMach (aCmd .swp); let c : ArrCmd := aCmd .swp;
     let T : Tile := s.tile tile; T.arr.head = some c ∧ T.arrReady c = true ∧ c.op = ArrOp.swp) ∧
    (let tile : ℕ := 0; let s : Machine.State := arrayMach (aCmd (.mma 0 0 0 1 .bf16 false true));
     let c : ArrCmd := aCmd (.mma 0 0 0 1 .bf16 false true); let T : Tile := s.tile tile; let row : ℕ := 0; let off : ℕ := 0;
     let stride : ℕ := 0; let af : MFmt := .bf16; let sp : Bool := false; let z : Bool := true; let x : Team := arrayTeam;
       T.arr.head = some c ∧ T.arrReady c = true ∧ c.op = ArrOp.mma row off stride 1 af sp z ∧ T.badWords = [] ∧ T.team c.team
       = some x ∧ x.id = c.team) ∧
    (let tile : ℕ := 0; let team : ℕ := 0; let seq : ℕ := 0; let s : Machine.State := latchMach aLatch;
     let es : List LatchEntry := [aLatch]; let a : Arr := (s.tile tile).arr; List.findSome? (fun e => a.gathered team seq e)
       (List.filter (fun e => e.team == team && e.seq == seq) a.latch) = some es ∧ a.q.length + (gangCmds es).length ≤ 8) ∧
    (let s : Machine.State := { latchMach { aLatch with gang := 0x200000020 } with now := 2100 * 100010 };
     let e : LatchEntry := { aLatch with gang := 0x200000020 }; let a : Arr := s.T.arr; a.latch = [e] ∧ a.gathered e.team
       e.seq e = none ∧ s.T.ctl.timersOff = none ∧ e.time + gangLimit + (stepUnits (s.field (fieldOf s.cur.tile)).step / 2100
       + 1) ≤ s.tileTime s.cur.tile) ∧
    (let s : Machine.State := (arrayMach (aCmd .swp)).modTile 0 fun T =>
        { T with arr := { T.arr with holder := some 5, releasing := true } }; let a : Arr := s.T.arr; a.releasing = true ∧ (∀
       c ∈ a.q, some c.team ≠ a.holder)) ∧
    (let tile : ℕ := 0; let s : Machine.State := copyMach (aCopy 0); let T : Tile := s.tile tile; let x : CopyCmd := aCopy 0;
       List.find? (fun x => !x.ran) T.copies = some x) ∧
    (let tile : ℕ := 0; let s : Machine.State := arrayMach (aCmd .swp); let T : Tile := s.tile tile;
     let c : ArrCmd := aCmd .swp; T.arr.head = some c) := by
  and_intros <;> decide +kernel

/-- Meets the hypotheses of RecordsAndReset. -/
theorem hyp_RecordsAndReset :
    (let l : List (ℕ × ℕ) := [(0, 3), (1, 5)]; (List.map (fun x => x.1) l).Nodup ∧ (List.map (fun x => x.2) l).sum ≠ 0) ∧
    (let s : Machine.State := (let s := fieldMach { };
        { s with now := 2100 * 3600000000000, ks := { s.ks with counts := [(5, 7)] } }); s.ks.foldAt + 3600000000000 ≤ s.wtime
       ∧ (List.map (fun x => x.1) s.ks.counts).Nodup ∧ (∀ x ∈ s.fields, x.1 < 84 ∧ x.2.step < 3)) ∧
    (let s : Machine.State := { fieldMach { } with now := 2100 * 28800000000000 }; s.ks.scrubAt + 28800000000000 ≤ s.wtime) := by
  refine ⟨?_, ?_, ?_⟩ <;> decide +kernel

/-- Meets the hypotheses of ClockTimeSensors. -/
theorem hyp_ClockTimeSensors :
    (let f : ℕ := 0; let temps : List ℤ := [101, 20, 20, 20]; let s : Machine.State := fieldMach { };
     let F : Machine.Field := s.field f; f < 84 ∧ F.step < 2 ∧ (∃ x ∈ F.readings temps, 100 ≤ x) ∧ (¬Early s f ∨ ∃ x ∈
       F.readings temps, 110 ≤ x)) ∧
    (let f : ℕ := 0; let temps : List ℤ := [101, 20, 20, 20]; let s : Machine.State := fieldMach { lastStep := some 5000 };
     let F : Machine.Field := s.field f; f < 84 ∧ F.step < 2 ∧ (∃ x ∈ F.readings temps, 100 ≤ x) ∧ Early s f ∧ (∀ x ∈
       F.readings temps, x < 110)) ∧
    (let f : ℕ := 0; let temps : List ℤ := [89, 20, 20, 20]; let s : Machine.State := fieldMach { };
     let F : Machine.Field := s.field f; f < 84 ∧ (∀ x ∈ F.readings temps, x < 90) ∧ F.coolSince = none) ∧
    (let s : Machine.State := { fieldMach { pendStep := some 1, lastStep := some 0 } with now := 2100 * 1000000 };
     let n : ℕ := 1; let f : ℕ := s.cur.tile; (s.field f).pendStep = some n ∧ ¬Early s f) ∧
    (let s : Machine.State := fieldMach { halted := true }; (s.field s.cur.tile).halted = true) ∧
    (let f : ℕ := 0; let temps : List ℤ := [115, 20, 20, 20]; let s : Machine.State := fieldMach { step := 2 }; (s.field
       f).step = 2 ∧ (∃ x ∈ (s.field f).readings temps, 115 ≤ x) ∧ s.mode = ModSt.running) ∧
    (let c : ℕ := 3; let s : Machine.State := fieldMach { }; 1 ≤ c ∧ c ≤ 3 ∧ s.mode = ModSt.running) ∧
    (let f : ℕ := 0; let i : ℕ := 1; let a : ℤ := 20; let b : ℤ := 35; let c : ℤ := 20; let d : ℤ := 20;
     let s : Machine.State := fieldMach { offSince := [(1, 0)] }; let F : Machine.Field := s.field f;
     let temps : List ℤ := [a, b, c, d];
     let others : List ℤ := List.filterMap (fun j => temps[j]?) (List.filter (fun x => x != i) (List.range 4)); f < 84 ∧ i < 4
       ∧ i ∉ F.badSensors ∧ (temps.getD i 0 - median others).natAbs ≤ 15) ∧
    (let f : ℕ := 0; let i : ℕ := 1; let a : ℤ := 20; let b : ℤ := 36; let c : ℤ := 20; let d : ℤ := 20; let since : ℕ := 0;
     let s : Machine.State := { fieldMach { offSince := [(1, 0)] } with now := 2100 * 10000000 };
     let F : Machine.Field := s.field f; let temps : List ℤ := [a, b, c, d];
     let others : List ℤ := List.filterMap (fun j => temps[j]?) (List.filter (fun x => x != i) (List.range 4)); f < 84 ∧ i < 4
       ∧ i ∉ F.badSensors ∧ 15 < (temps.getD i 0 - median others).natAbs ∧ amGet F.offSince i = some since ∧ since + 10000000
       ≤ s.wtime) ∧
    (let f : ℕ := 0; let skew : ℤ := 2; let s : Machine.State := fieldMach { }; let F : Machine.Field := s.field f; f < 84 ∧
       (skew.natAbs ≤ if F.hold = true then 1 else 2)) ∧
    (let f : ℕ := 0; let skew : ℤ := 64;
     let s : Machine.State := (fieldMach { }).modTile 0 fun T =>
       { T with l1 := [{ line := 5, data := [], lease := 0, due := 0, dist := 0, fill := 0, held := false }] };
     let F : Machine.Field := s.field f; f < 84 ∧ 2 < skew.natAbs ∧ skew.natAbs ≤ 64 ∧ F.hold = false) ∧
    (let f : ℕ := 0; let skew : ℤ := 65; f < 84 ∧ 64 < skew.natAbs) ∧
    (let s : Machine.State := { fieldMach { } with now := 2100 * 100000 }; let f : ℕ := s.cur.tile; f < 84 ∧ (s.field
       f).beacon + 100000 ≤ s.wtime) ∧
    (let s : Machine.State := fieldMach { lastMis := some 4 }; let f : ℕ := s.cur.tile; f < 84) ∧
    (let s : Machine.State := { fieldMach { } with slices := [(3, { acc := [(1, 100), (2, 200)], disc := [(2, 3)] })] };
       s.ks.accAt < s.wtime / 4096) ∧
    (let f : ℕ := 0; f < 84) := by
  and_intros <;> decide +kernel

/-- Meets the hypotheses of PartitionSteps. -/
theorem hyp_PartitionSteps :
    (let x : CutReq := { aCut with grains := [(0, 2)] };
     let s : Machine.State := withPart freeMach fun P => { P with grains := [(0, 2)] }; let y : CutReq := fillPlaces x;
     let fault : ℕ := s.slotBoundary.cutFault y; s.tagFree y.tag = true ∧ fault ≠ 0) ∧
    (let x : CutReq := aCut; let s : Machine.State := freeMach; let y : CutReq := fillPlaces x;
     let fault : ℕ := s.slotBoundary.cutFault y; s.tagFree y.tag = true ∧ fault = 0) ∧
    (let tag : ℕ := 1; let x : SettingsReq := { noSet with preempt := some 5 }; let s : Machine.State := freeMach;
     let P : Machine.Part := qPart; s.part tag = some P ∧ s.slotBoundary.settingsOk tag (List.length P.ctxs) x = false) ∧
    (let tag : ℕ := 1; let x : SettingsReq := { noSet with preempt := some 5000 }; let s : Machine.State := freeMach;
     let P : Machine.Part := qPart; s.part tag = some P ∧ s.slotBoundary.settingsOk tag (List.length P.ctxs) x = true ∧
       x.strict = none ∧ x.slots = none ∧ noSettings x = false) ∧
    (let tag : ℕ := 1;
     let s : Machine.State := { freeMach with tiles := freeMach.tiles.map fun x => (x.1, { x.2 with quiesce := .draining }) };
     let P : Machine.Part := qPart; s.part tag = some P ∧ P.op = none ∧ (∀ (a : ℕ), P.lastReset = some a → a + 1000000 ≤
       s.wtime) ∧ (∀ x ∈ s.tilesOf tag, s.drained x = true ∨ (s.tile x).quiesce = Quiesce.leases) ∧ (List.map (fun x => x.1)
       s.tiles).Nodup) ∧
    (let tag : ℕ := 1; let s : Machine.State := freeMach; let P : Machine.Part := qPart; s.part tag = some P ∧ P.paused =
       none) ∧
    (let tag : ℕ := 1; let P : Machine.Part := partOf (withPart freeMach fun P => { P with paused := some (5, 9) }) 1;
     let s : Machine.State := withPart freeMach fun P => { P with paused := some (5, 9) }; let w0 : ℕ := 5; let g0 : ℤ := 9;
       s.part tag = some P ∧ P.paused = some (w0, g0) ∧ P.mig = none ∧ w0 ≤ s.wtime) := by
  refine ⟨?_, ?_, ?_, ?_, ?_, ?_, ?_⟩ <;> decide +kernel

/-- Meets the hypotheses of KeystoneSteps. -/
theorem hyp_KeystoneSteps :
    (let tag : ℕ := 1; let w : ℕ := 3; let base : ℕ := 0x200000; let size : ℕ := 0x400000; let s : Machine.State := freeMach;
     let P : Machine.Part := qPart; s.part tag = some P ∧ w < 16 ∧ size ≠ 0 ∧ size ≤ 2 ^ 31 ∧ size % 2 ^ 21 = 0 ∧ base % 2 ^
       21 = 0) ∧
    (let tag : ℕ := 1; let w : ℕ := 3; let base : ℕ := 0x200001; let size : ℕ := 0x400000; let s : Machine.State := freeMach;
     let P : Machine.Part := qPart; s.part tag = some P ∧ (16 ≤ w ∨ size = 0 ∨ 2 ^ 31 < size ∨ size % 2 ^ 21 ≠ 0 ∨ base % 2 ^
       21 ≠ 0)) ∧
    (let x : PeerAccess := aPeer false;
     let s : Machine.State := (let s := freeMach; { s with ks := { s.ks with forwards := [(1, 20000, 7)] } });
     let f : ℕ × ℕ × ℕ := (1, 20000, 7); List.find? (fun f => f.1 == x.tag) s.ks.forwards = some f) ∧
    (let x : PeerAccess := { aPeer false with offset := 0x1FFFFF }; let s : Machine.State := freeMach;
     let P : Machine.Part := qPart; List.find? (fun f => f.1 == x.tag) s.ks.forwards = none ∧ s.part x.tag = some P ∧ x.size <
       x.offset + x.data.length) ∧
    (let x : PeerAccess := aPeer false; let s : Machine.State := freeMach; let P : Machine.Part := qPart;
     let e : S2 := ((freeMach).stage2 1 0x5000).getD ⟨0, 0, true, true, true, true⟩; List.find? (fun f => f.1 == x.tag)
       s.ks.forwards = none ∧ s.part x.tag = some P ∧ x.offset + x.data.length ≤ x.size ∧ x.base + x.size ≤ P.grains.length *
       2 ^ 28 ∧ x.data ≠ [] ∧ s.stage2 x.tag (x.base + x.offset) = some e ∧ regionOf e.pa = Region.plinth ∧ e.aonly = false ∧
       x.write = false ∧ s.poisoned e.pa x.data.length = false) ∧
    (let x : PeerAccess := aPeer true; let s : Machine.State := freeMach; let P : Machine.Part := qPart;
     let e : S2 := ((freeMach).stage2 1 0x5000).getD ⟨0, 0, true, true, true, true⟩; List.find? (fun f => f.1 == x.tag)
       s.ks.forwards = none ∧ s.part x.tag = some P ∧ x.offset + x.data.length ≤ x.size ∧ x.base + x.size ≤ P.grains.length *
       2 ^ 28 ∧ x.data ≠ [] ∧ s.stage2 x.tag (x.base + x.offset) = some e ∧ regionOf e.pa = Region.plinth ∧ e.aonly = false ∧
       x.write = true) ∧
    (let o : ℕ := 63; let w : ℕ := 255; o < 64 ∧ w ≠ 0 ∧ w ≤ 255) ∧
    (let o : ℕ := 64; let w : ℕ := 1; (64 ≤ o ∨ w = 0 ∨ 255 < w)) ∧
    (let o : ℕ := 63; o < 64) ∧
    (let ifn : ℕ := 1; let x : QueueCfg := { aCfg with q := 1 }; let s : Machine.State := freeMach; s.queueCfgOk ifn x = true
       ∧ s.queue ifn = none) ∧
    (let ifn : ℕ := 1; let x : QueueCfg := aCfg; let s : Machine.State := freeMach; s.queueCfgOk ifn x = false ∧ s.queue ifn =
       none) ∧
    (let ifn : ℕ := 0; let x : QueueCfg := { aCfg with logsz := 8 }; let s : Machine.State := freeMach;
     let q : Queue := aQueue; s.queue ifn = some q ∧ q.state = QState.unlocked ∧ s.queueCfgOk ifn x = true) ∧
    (let ifn : ℕ := 0; let s : Machine.State := qMach { aQueue with state := .locked };
     let q : Queue := { aQueue with state := .locked }; s.queue ifn = some q ∧ (q.state = QState.locked ∨ q.state =
       QState.run)) ∧
    (let h : ℕ := 0; let n : ℕ := 16; let waiting : List ℕ := [0, 1]; let s : Machine.State := freeMach;
     let l : List LinkFlit := s.flitsAt h ++ List.map (fun g => { tag := g, owner := 0, req := 0 }) waiting; h < 4 ∧
       s.ks.slotAt = none ∧ s.wtime % 64 + n ≤ 64 ∧ (∃ f ∈ l, f.tag = 0)) ∧
    (let h : ℕ := 0; let n : ℕ := 16; let waiting : List ℕ := [1];
     let s : Machine.State := (let s := freeMach; { s with ks := { s.ks with slots := [(28, 1)] } });
     let own : ℕ := (amGet s.ks.slots (s.wtime / 64 % 64)).getD 0;
     let l : List LinkFlit := s.flitsAt h ++ List.map (fun g => { tag := g, owner := 0, req := 0 }) waiting; h < 4 ∧
       s.ks.slotAt = none ∧ s.wtime % 64 + n ≤ 64 ∧ (∀ f ∈ l, f.tag ≠ 0) ∧ own ≠ 0 ∧ (∃ f ∈ l, f.tag = own)) ∧
    (let h : ℕ := 0; let n : ℕ := 60; let s : Machine.State := freeMach; h < 4 ∧ s.ks.slotAt = none ∧ 64 < s.wtime % 64 + n) ∧
    (let P : Machine.Part := { qPart with pendSet := [slotSet] };
     let s : Machine.State :=
       { withPart freeMach fun P => { P with pendSet := [slotSet] } with ks := { freeMach.ks with slotAt := some 5 } };
     let b : ℕ := 5; let tag : ℕ := 1; let l : List ℕ := [3, 4]; let x : PendSet := slotSet; s.ks.slotAt = some b ∧ b ≤
       s.wtime ∧ s.parts = [(tag, P)] ∧ P.pendSet = [x] ∧ x.left.slots = some l) := by
  and_intros <;> decide +kernel

/-- Meets the hypotheses of ReshapeSteps. -/
theorem hyp_ReshapeSteps :
    (let tag : ℕ := 1; let tiles : List ℕ := [1]; let places : List ℕ := [1]; let P : Machine.Part := { qPart with lw := 2 };
     let s : Machine.State := (withPart freeMach fun P => { P with lw := 2 }).modTile 0 fun T =>
       { T with routes := [(0, 5)] }; let me : Instr := Instr.partitionGrow tag tiles places; s.part tag = some P ∧ P.op =
       none ∧ s.mayReshape tag me = true ∧ First P me ∧ tiles ≠ [] ∧ tiles.Nodup ∧ places.Nodup ∧ (∀ x ∈ tiles, s.freeTile x =
       true) ∧ places.length = tiles.length ∧ (∀ p ∈ places, p < P.lw * P.lh ∧ amGet P.places p = none) ∧ s.growFault
       (s.tilesOf tag) tiles = 0) ∧
    (let tag : ℕ := 1; let tiles : List ℕ := [0]; let places : List ℕ := [1]; let P : Machine.Part := { qPart with lw := 2 };
     let s : Machine.State := withPart freeMach fun P => { P with lw := 2 };
     let me : Instr := Instr.partitionGrow tag tiles places; s.part tag = some P ∧ s.mayReshape tag me = true ∧ First P me ∧
       (∃ x ∈ tiles, s.freeTile x = false)) ∧
    (let tag : ℕ := 1; let tiles : List ℕ := [2]; let places : List ℕ := [2];
     let P : Machine.Part := { qPart with waitOps := [.partitionShrink 1 [1] false] };
     let s : Machine.State := withPart freeMach fun P => { P with waitOps := [.partitionShrink 1 [1] false] };
     let me : Instr := Instr.partitionGrow tag tiles places; let o : Instr := .partitionShrink 1 [1] false; s.part tag = some
       P ∧ P.op ≠ some me ∧ P.waitOps.head? = some o ∧ o ≠ me) ∧
    (let tag : ℕ := 1; let tiles : List ℕ := [2]; let places : List ℕ := [2];
     let s : Machine.State := restMach (.partitionGrow 1 [2] [2]) fun _ => .paused;
     let P : Machine.Part := partOf (restMach (.partitionGrow 1 [2] [2]) fun _ => .paused) 1;
     let me : Instr := Instr.partitionGrow tag tiles places; AtRest s tag me P [] ∧ tiles.Nodup ∧ places.Nodup ∧ places.length
       = tiles.length ∧ (∀ x ∈ tiles, s.goodTile x = true)) ∧
    (let tag : ℕ := 1; let tiles : List ℕ := [1]; let s : Machine.State := restMach (.partitionShrink 1 [1] false) leaving;
     let P : Machine.Part := partOf (restMach (.partitionShrink 1 [1] false) leaving) 1;
     let me : Instr := Instr.partitionShrink tag tiles false; AtRest s tag me P tiles ∧ tiles.Nodup) ∧
    (let tag : ℕ := 1; let old : ℕ := 1; let new : ℕ := 2;
     let s : Machine.State := restMach (.partitionCompact 1 [(1, 2)]) leaving;
     let P : Machine.Part := partOf (restMach (.partitionCompact 1 [(1, 2)]) leaving) 1;
     let me : Instr := Instr.partitionCompact tag [(old, new)]; AtRest s tag me P [old] ∧ old ≠ new) := by
  refine ⟨?_, ?_, ?_, ?_, ?_, ?_⟩ <;> decide +kernel

/-- Meets the hypotheses of LendRecallSteps. -/
theorem hyp_LendRecallSteps :
    (let x : ℕ := 1; let b : ℕ := 2; let place : ℕ := 1; let s : Machine.State := restMach (.lendTile 1 2 1 false) leaving;
     let P : Machine.Part := partOf (restMach (.lendTile 1 2 1 false) leaving) 1;
     let B : Machine.Part := partOf (restMach (.lendTile 1 2 1 false) leaving) 2;
     let me : Instr := Instr.lendTile x b place false; let tag : ℕ := (s.tile x).tag; AtRest s tag me P [x] ∧ AtRest s b me B
       [] ∧ tag ≠ b) ∧
    (let x : ℕ := 1; let l : ℕ := 1; let place : ℕ := 1; let s : Machine.State := lentMach (.recallTile 1 false);
     let B : Machine.Part := partOf (lentMach (.recallTile 1 false)) 2;
     let L : Machine.Part := partOf (lentMach (.recallTile 1 false)) 1; let me : Instr := Instr.recallTile x false;
     let T : Tile := s.tile x; T.lender = some (l, place) ∧ T.recallAt ≠ none ∧ T.tag ≠ 0 ∧ T.tag ≠ l ∧ s.goodTile x = true ∧
       AtRest s T.tag me B [x] ∧ AtRest s l me L []) ∧
    (let x : ℕ := 1; let l : ℕ := 1; let place : ℕ := 1;
     let s : Machine.State := ((lentMach (.recallTile 1 false)).modTile 1 fun T => { T with recallAt := none }).modTile 3 fun
       T => { T with tag := 0 }; let T : Tile := s.tile x;
     let f : ℕ := s.shapeFault (List.filter (fun x_1 => x_1 != x) (s.tilesOf T.tag)); T.lender = some (l, place) ∧ T.recallAt
       = none ∧ T.tag ≠ 0 ∧ f ≠ 0) ∧
    (let x : ℕ := 1; let l : ℕ := 1; let place : ℕ := 1;
     let s : Machine.State := (((lentMach (.recallTile 1 false)).modTile 1 fun T =>
       { T with recallAt := none, quiesce := .none }).modTile 0 fun T => { T with routes := [(0, 5)] }).modPart 1 (fun P =>
       { P with op := none }) |>.modPart 2 (fun P => { P with op := none }); let me : Instr := Instr.recallTile x false;
     let T : Tile := s.tile x; let f : ℕ := s.shapeFault (List.filter (fun x_1 => x_1 != x) (s.tilesOf T.tag)); T.lender =
       some (l, place) ∧ T.recallAt = none ∧ T.tag ≠ 0 ∧ f = 0 ∧ s.growFault (s.tilesOf l) [x] = 0 ∧ T.quiesce ≠ Quiesce.retag
       ∧ T.tag ≠ l ∧ T.aevtFull = false ∧ (∀ g ∈ [T.tag, l], ∀ (P : Machine.Part), s.part g = some P → P.op ≠ some me)) ∧
    (let s : Machine.State :=
        { (lentMach (.recallTile 1 false)).modTile 1 (fun T => { T with quiesce := .preempting }) with now := 2100 * 41000 };
     let a : ℕ := 0; let T : Tile := s.tile s.cur.tile; T.recallAt = some a ∧ (T.quiesce = Quiesce.preempting ∧ a + 41000 ≤
       s.wtime ∨ T.quiesce = Quiesce.draining ∧ a + 70000 ≤ s.wtime)) ∧
    (let s : Machine.State := (lentMach (.recallTile 1 false)).modTile 1 fun T => { T with quiesce := .preempting };
     let a : ℕ := 0; let T : Tile := s.tile s.cur.tile; T.recallAt = some a ∧ T.quiesce = Quiesce.preempting ∧ s.wtime < a +
       41000) ∧
    (let s : Machine.State := (lentMach (.recallTile 1 false)).modPart 1 (fun P => { P with op := none }) |>.modPart 2 (fun P
        => { P with op := none }); let l : ℕ := 1; let place : ℕ := 1; let a : ℕ := 0; let x : ℕ := s.cur.tile;
     let T : Tile := s.tile x; T.lender = some (l, place) ∧ T.recallAt = some a ∧ T.quiesce ≠ Quiesce.retag ∧ T.tag ≠ l ∧
       T.tag ≠ 0 ∧ (∀ g ∈ [T.tag, l], ∀ (P : Machine.Part), s.part g = some P → P.op = none)) ∧
    (let s : Machine.State := (lentMach (.recallTile 1 false)).modTile 1 fun T => { T with quiesce := .retag };
     let l : ℕ := 1; let place : ℕ := 1; let a : ℕ := 0; let x : ℕ := s.cur.tile; let T : Tile := s.tile x; T.lender = some
       (l, place) ∧ T.recallAt = some a ∧ T.quiesce = Quiesce.retag ∧ (s.part l).isSome = true ∧ s.goodTile x = true) ∧
    (let P : Machine.Part := { partOf (lentMach (.recallTile 1 false)) 1 with places := [(0, 0)] };
     let s : Machine.State := ((lentMach (.recallTile 1 false)).modTile 1 fun T => { T with tag := 1 }).modPart 1 fun P =>
       { P with places := [(0, 0)] }; let l : ℕ := 1; let place : ℕ := 1; let a : ℕ := 0; let x : ℕ := s.cur.tile;
     let T : Tile := s.tile x; T.lender = some (l, place) ∧ T.recallAt = some a ∧ T.quiesce ≠ Quiesce.retag ∧ T.tag = l ∧
       s.part l = some P ∧ P.paused = none ∧ s.goodTile x = true ∧ s.borrowerOf x = none ∧ (∀ u ∈ s.tilesOf l, u ≠ x → (s.tile
       u).quiesce = Quiesce.paused)) ∧
    (let tag : ℕ := 1; let x : ℕ := 1; let tiles : List ℕ := [1];
     let s : Machine.State := (restMach (.partitionShrink 1 [1] false) fun _ => .preempting) |> fun s =>
       { s with now := 2100 * 60000 }; let P : Machine.Part := partOf (restMach (.partitionShrink 1 [1] false) leaving) 1;
     let me : Instr := Instr.partitionShrink tag tiles false; s.part tag = some P ∧ P.op = some me ∧ x ∈ tiles ∧ s.overdue x
       P.preempt = true) ∧
    (let tag : ℕ := 1; let x : ℕ := 2; let tiles : List ℕ := [2]; let places : List ℕ := [2];
     let s : Machine.State := restMach (.partitionGrow 1 [2] [2]) fun _ => .paused;
     let P : Machine.Part := partOf (restMach (.partitionGrow 1 [2] [2]) fun _ => .paused) 1; s.part tag = some P ∧ P.op =
       some (Instr.partitionGrow tag tiles places) ∧ x ∈ tiles ∧ x ∉ s.ks.bad) := by
  refine ⟨?_, ?_, ?_, ?_, ?_, ?_, ?_, ?_, ?_, ?_, ?_⟩ <;> decide +kernel

/-- Meets the hypotheses of RepairMigrateSteps. -/
theorem hyp_RepairMigrateSteps :
    (let x : ℕ := 5; let s : Machine.State := freeMach; x < 8400 ∧ (s.tile x).recallAt = none ∧ s.part (s.tile x).tag = none ∧
       (s.tile x).dead = false) ∧
    (let f : ℕ := 0; let s : Machine.State := freeMach; (s.field f).spSlice ≠ 0) ∧
    (let tag : ℕ := 1; let s : Machine.State := freeMach; let P : Machine.Part := qPart; s.part tag = some P ∧ P.escrow =
       none) ∧
    (let tag : ℕ := 1; let P : Machine.Part := { qPart with escrow := some 5 };
     let s : Machine.State := withPart freeMach fun P => { P with escrow := some 5 }; s.part tag = some P ∧ P.escrow ≠ none ∧
       P.mig = none) ∧
    (let tag : ℕ := 1; let x : MigReq := { dst := 7, limit := 4, cells := [(16, 5)] }; let s : Machine.State := freeMach;
     let P : Machine.Part := qPart; let a : ℕ := 16; let b : Byte := 5; let pa : ℕ := 0x20000010; s.part tag = some P ∧ P.mig
       = none ∧ x.cells = [(a, b)] ∧ P.paOf a = some pa) ∧
    (let tag : ℕ := 1; let s : Machine.State := migMach (aMig 3 true);
     let P : Machine.Part := partOf (migMach (aMig 3 true)) 1; let m : Migration := aMig 3 true; s.part tag = some P ∧ P.mig =
       some m ∧ m.phase ≤ 3) ∧
    (let tag : ℕ := 1; let s : Machine.State := migMach (aMig 5 true);
     let P : Machine.Part := partOf (migMach (aMig 5 true)) 1; let m : Migration := aMig 5 true; s.part tag = some P ∧ P.mig =
       some m ∧ (m.phase = 5 ∨ m.phase = 6)) ∧
    (let tag : ℕ := 1; let s : Machine.State := migMach (aMig 4 true);
     let P : Machine.Part := partOf (migMach (aMig 4 true)) 1; let m : Migration := aMig 4 true; s.part tag = some P ∧ P.mig =
       some m ∧ m.phase = 4) ∧
    (let tag : ℕ := 1; let s : Machine.State := migMach (aMig 2 false);
     let P : Machine.Part := partOf (migMach (aMig 2 false)) 1; let m : Migration := aMig 2 false; s.part tag = some P ∧ P.mig
       = some m) ∧
    (let tag : ℕ := 1; let s : Machine.State := migMach (aMig 2 true);
     let P : Machine.Part := partOf (migMach (aMig 2 true)) 1; let m : Migration := aMig 2 true; s.part tag = some P ∧ P.mig =
       some m ∧ m.phase = 2 ∧ m.approved = true) ∧
    (let tag : ℕ := 1; let s : Machine.State := migMach (aMig 2 false);
     let P : Machine.Part := partOf (migMach (aMig 2 false)) 1; let m : Migration := aMig 2 false; s.part tag = some P ∧ P.mig
       = some m ∧ m.phase = 2 ∧ m.approved = false) ∧
    (let tag : ℕ := 1; let s : Machine.State := migMach (aMig 3 true);
     let P : Machine.Part := partOf (migMach (aMig 3 true)) 1; let m : Migration := aMig 3 true; s.part tag = some P ∧ P.mig =
       some m ∧ m.phase = 3) ∧
    (let tag : ℕ := 1; let s : Machine.State := migMach (aMig 4 true);
     let P : Machine.Part := partOf (migMach (aMig 4 true)) 1; let m : Migration := aMig 4 true; s.part tag = some P ∧ P.mig =
       some m ∧ m.phase = 4) ∧
    (let tag : ℕ := 1; let s : Machine.State := migMach (aMig 4 true);
     let P : Machine.Part := partOf (migMach (aMig 4 true)) 1; let m : Migration := aMig 4 true; s.part tag = some P ∧ P.mig =
       some m ∧ m.phase = 4 ∧ s.cur.tile = tag) := by
  and_intros <;> decide +kernel

/-- Meets the hypotheses of TrustLinkSteps. -/
theorem hyp_TrustLinkSteps :
    (let leaf : ℕ := 0; let s : Machine.State := freeMach; s.ks.alias_ = some leaf) ∧
    (let s : Machine.State := (let s := freeMach; { s with ks := { s.ks with alias_ := none } }); s.ks.alias_ = none) ∧
    (let k : ℕ := 4; let s : Machine.State := sessMach none aQueue; let leaf : ℕ := 0; s.ks.alias_ = some leaf ∧ amGet
       s.ks.sess k = none) ∧
    (let k : ℕ := 3; let s : Machine.State := sessMach none aQueue; let leaf : ℕ := 0; s.ks.alias_ = some leaf ∧ amGet
       s.ks.sess k ≠ none) ∧
    (let k : ℕ := 3; let s : Machine.State := sessMach (some 0) { aQueue with state := .locked, sess := some 3 };
     let i : Instr := .endSession 3; (i = Instr.securedMessageFail k ∨ i = Instr.endSession k) ∧ amGet s.ks.sess k ≠ none ∧
       (List.map (fun x => x.1) s.queues).Nodup) ∧
    (let ifn : ℕ := 0; let k : ℕ := 3; let leaf : ℕ := 0; let s : Machine.State := sessMach none { aQueue with ridx := 1 };
     let q : Queue := { aQueue with ridx := 1 }; let P : Machine.Part := qPart;
     let y : IdeStream := { num := 2, tag := 1, key := 9, secure := true }; s.ks.alias_ = some leaf ∧ s.queue ifn = some q ∧
       MayBind s k ifn ∧ s.part q.cfg.tag = some P ∧ List.find? (fun x => x.num != 0 && x.tag == q.cfg.tag && x.secure)
       (s.link P.link).streams = some y ∧ q.state = QState.unlocked ∧ q.ridx = q.widx ∧ q.cfg.pasid ≠ 0 ∧ q.stopping = false) ∧
    (let ifn : ℕ := 0; let k : ℕ := 3; let leaf : ℕ := 0; let s : Machine.State := sessMach none aQueue;
     let q : Queue := aQueue; let P : Machine.Part := qPart;
     let y : IdeStream := { num := 2, tag := 1, key := 9, secure := true }; s.ks.alias_ = some leaf ∧ s.queue ifn = some q ∧
       MayBind s k ifn ∧ s.part q.cfg.tag = some P ∧ List.find? (fun x => x.num != 0 && x.tag == q.cfg.tag && x.secure)
       (s.link P.link).streams = some y ∧ (q.state ≠ QState.unlocked ∨ q.ridx ≠ q.widx ∨ q.cfg.pasid = 0)) ∧
    (let ifn : ℕ := 0; let k : ℕ := 3; let leaf : ℕ := 0;
     let s : Machine.State := sessMach (some 0) { aQueue with state := .locked, sess := some 3 };
     let q : Queue := { aQueue with state := .locked, sess := some 3 }; s.ks.alias_ = some leaf ∧ s.queue ifn = some q ∧
       q.state = QState.locked ∧ MayBind s k ifn) ∧
    (let ifn : ℕ := 0; let k : ℕ := 3; let leaf : ℕ := 0; let s : Machine.State := sessMach none aQueue;
     let q : Queue := aQueue; s.ks.alias_ = some leaf ∧ s.queue ifn = some q ∧ (q.state ≠ QState.locked ∨ ¬MayBind s k ifn)) ∧
    (let ifn : ℕ := 0; let k : ℕ := 3; let leaf : ℕ := 0; let s : Machine.State := sessMach (some 1) aQueue;
     let q : Queue := aQueue; s.ks.alias_ = some leaf ∧ s.queue ifn = some q ∧ q.stopping = false ∧ ¬MayBind s k ifn ∧ (q.sess
       ≠ none ∨ amGet s.ks.sess k ≠ none)) ∧
    (let ifn : ℕ := 0; let k : ℕ := 3; let leaf : ℕ := 0;
     let s : Machine.State := withCtx (sessMach none aQueue) fun c => { c with launches := [] }; let q : Queue := aQueue;
       s.ks.alias_ = some leaf ∧ s.queue ifn = some q ∧ (MayBind s k ifn ∨ q.stopping = true ∨ q.sess = none ∧ amGet s.ks.sess
       k = none) ∧ s.queueDone ifn q = true) ∧
    (let ifn : ℕ := 0; let k : ℕ := 3; let leaf : ℕ := 0; let s : Machine.State := sessMach none aQueue;
     let q : Queue := aQueue; s.ks.alias_ = some leaf ∧ s.queue ifn = some q ∧ (MayBind s k ifn ∨ q.stopping = true ∨ q.sess =
       none ∧ amGet s.ks.sess k = none) ∧ s.queueDone ifn q = false) ∧
    (let ifn : ℕ := 0; let k : ℕ := 3; let leaf : ℕ := 0;
     let s : Machine.State := sessMach (some 0) { aQueue with state := .run }; let q : Queue := { aQueue with state := .run };
     let P : Machine.Part := qPart; s.ks.alias_ = some leaf ∧ s.queue ifn = some q ∧ MayBind s k ifn ∧ s.part q.cfg.tag = some
       P ∧ q.state ≠ QState.unlocked) ∧
    (let ifn : ℕ := 0; let k : ℕ := 3; let leaf : ℕ := 0; let s : Machine.State := sessMach none aQueue;
     let q : Queue := aQueue; let P : Machine.Part := qPart; s.ks.alias_ = some leaf ∧ s.queue ifn = some q ∧ MayBind s k ifn
       ∧ s.part q.cfg.tag = some P ∧ q.state = QState.unlocked) ∧
    (let k : ℕ := 3; let leaf : ℕ := 0; let tag : ℕ := 1;
     let s : Machine.State := sessMach (some 0) { aQueue with state := .run, sess := some 3 }; let P : Machine.Part := qPart;
     let slot : ℕ := 5; s.ks.alias_ = some leaf ∧ s.keyPart k = some (tag, P) ∧ slot < 16 ∧ P.keyHeld = [] ∧ s.slotBusy tag
       slot P = false) ∧
    (let k : ℕ := 3; let h : ℕ := 1; let n : ℕ := 4; let leaf : ℕ := 0; let s : Machine.State := sessMach none aQueue;
       s.ks.alias_ = some leaf ∧ amGet s.ks.sess k ≠ none ∧ h < 4 ∧ n ≤ 16) ∧
    (let h : ℕ := 0; let s : Machine.State := sessMach none { aQueue with ide := some 2, state := .run }; h < 4 ∧ (List.map
       (fun x => x.1) s.queues).Nodup) ∧
    (let p : ℕ := 5; let s : Machine.State := portMach { }; let J : Jarlet := s.jarlet p; p < 64 ∧ J.inService = true) ∧
    (let p : ℕ := 5; let s : Machine.State := portMach { up := true }; let J : Jarlet := s.jarlet p;
     let x : JFlit := aFlit true; p < 64 ∧ J.inService = true ∧ J.up = true ∧ x.auth = true ∧ s.outOfSlot p x.tag = false) ∧
    (let p : ℕ := 5; let s : Machine.State := portMach { up := true, failRow := 7 }; let J : Jarlet := s.jarlet p;
     let x : JFlit := aFlit false; p < 64 ∧ J.inService = true ∧ J.up = true ∧ x.auth = false) ∧
    (let p : ℕ := 5; let s : Machine.State := portMach { up := true, ctr0 := 4, ctr1 := 5 }; let J : Jarlet := s.jarlet p; p <
       64 ∧ J.up = true) ∧
    (let p : ℕ := 5; let s : Machine.State := portMach { up := true, failRow := 8 }; let J : Jarlet := s.jarlet p; p < 64 ∧
       s.cur.tile = p ∧ J.up = true ∧ (8 ≤ J.failRow ∨ 64 ≤ J.failMs)) ∧
    (let p : ℕ := 5; let s : Machine.State := portMach { agreeFail := 2 }; let J : Jarlet := s.jarlet p; p < 64 ∧ J.up = false
       ∧ J.inService = true) := by
  and_intros <;> decide +kernel

/-- Meets the hypotheses of EncodeDecode. -/
theorem hyp_EncodeDecode :
    let nv : ℕ := 128; let i : Instr := .nop stall3; let w : W64 := nopWord; Instr.wf nv i = true ∧ encode i = some w := by decide +kernel

/-- Meets the hypotheses of DecodeEncode. -/
theorem hyp_DecodeEncode :
    let nv : ℕ := 128; let i : Instr := .nop stall3; let w : W64 := nopWord; decode nv w = Except.ok i := by decide +kernel

/-- Meets the hypotheses of StepRunsDecoded. -/
theorem hyp_StepRunsDecoded :
    (let s : Machine.State := turnMach nopWord; let u : Machine.State := turnState (turnMach nopWord); let t : ℕ := 0;
     let g : ℕ := 0; let m : BitVec 32 := 1; let w : W64 := nopWord; let i : Instr := .nop stall3; let c : Ctl := stall3;
     let z : Machine.State := issueState u t g m w;
     let r : Machine.State := afterExec (.nop stall3) (issueState (turnState (turnMach nopWord)) 0 0 1 nopWord);
     let v : Machine.State := r.afterIssue z c i; Offered s u t g m w ∧ Free z w i c ∧ exec i z = Host.Outcome.next r ∧
       z.issued r = true ∧ u.tookPlanes (Host.Outcome.next v) = none) ∧
    (let s : Machine.State := turnMach 0x800000000000005; let u : Machine.State := turnState (turnMach 0x800000000000005);
     let t : ℕ := 0; let g : ℕ := 0; let m : BitVec 32 := 1; let w : W64 := 0x800000000000005; let i : Instr := .trap c0 5;
     let c : Ctl := c0; let z : Machine.State := issueState u t g m w;
     let r : Machine.State := afterExec (.trap c0 5) (issueState (turnState (turnMach 0x800000000000005)) 0 0 1
       0x800000000000005); Offered s u t g m w ∧ Free z w i c ∧ exec i z = Host.Outcome.next r ∧ z.issued r = false ∧
       r.G.traps.length ≠ z.G.traps.length ∧ u.tookPlanes (Host.Outcome.next r) = none) ∧
    (let s : Machine.State := holdMach; let u : Machine.State := turnState holdMach; let t : ℕ := 0; let g : ℕ := 0;
     let m : BitVec 32 := 1; let w : W64 := 0xc00000085000107; let i : Instr := .evtH c0 7 (.k 5); let c : Ctl := c0;
     let z : Machine.State := issueState u t g m w;
     let r : Machine.State := afterExec (.evtH c0 7 (.k 5)) (issueState (turnState holdMach) 0 0 1 0xc00000085000107); Offered
       s u t g m w ∧ Free z w i c ∧ exec i z = Host.Outcome.next r ∧ z.issued r = false ∧ r.G.traps.length = z.G.traps.length
       ∧ z.G.subsets = [m] ∧ u.pipeline t g = [(t, g)] ∧ u.tookPlanes (Host.Outcome.next r) = none) ∧
    (let s : Machine.State :=
        { qMach aQueue with inputs := [{ units := 5, at_ := some (0, 0), ev := some (.doorbell 1 0 1 false) }] };
     let u : Machine.State := turnState
       { qMach aQueue with inputs := [{ units := 5, at_ := some (0, 0), ev := some (.doorbell 1 0 1 false) }] };
     let x : Input := { units := 5, at_ := some (0, 0), ev := some (.doorbell 1 0 1 false) }; let rest : List Input := [];
     let i : Instr := .doorbell 1 0 1 false; s.inputs = x :: rest ∧ x.ev = some i ∧ i.ctl = none ∧ u =
       { s with inputs := rest }.environment x ∧ u.stillTaken i = true) ∧
    (let s : Machine.State := { qMach aQueue with due := [{ ev := .doorbell 1 0 1 false }] };
     let d : Due := { ev := .doorbell 1 0 1 false }; let rest : List Due := []; s.inputs = [] ∧ s.due = d :: rest ∧ s.turn =
       false ∧ s.mode = ModSt.running ∧ d.ev.ctl = none) := by
  refine ⟨⟨⟨⟨_, _, 0, rfl, by decide +kernel, by decide +kernel, by decide +kernel, rfl⟩, by decide +kernel,
     ⟨by decide +kernel, by decide +kernel, [], [], by decide +kernel, by decide +kernel⟩, by decide +kernel⟩, ?_, next_of
     (by decide +kernel), ?_, ?_⟩, ⟨⟨⟨_, _, 0, rfl, by decide +kernel, by decide +kernel, by decide +kernel, rfl⟩,
     by decide +kernel, ⟨by decide +kernel, by decide +kernel, [], [], by decide +kernel, by decide +kernel⟩,
     by decide +kernel⟩, ?_, next_of (by decide +kernel), ?_, ?_, ?_⟩, ⟨⟨⟨_, _, 0, rfl, by decide +kernel, by decide +kernel,
     by decide +kernel, rfl⟩, by decide +kernel, ⟨by decide +kernel, by decide +kernel, [], [], by decide +kernel,
     by decide +kernel⟩, by decide +kernel⟩, ?_, next_of (by decide +kernel), ?_, ?_, ?_, ?_, ?_⟩, ?_, ?_⟩ <;> decide +kernel

/-- Meets the hypotheses of IssueDistance. -/
theorem hyp_IssueDistance :
    (let s : Machine.State := turnMach nopWord; let u : Machine.State := turnState (turnMach nopWord); let t : ℕ := 0;
     let g : ℕ := 0; let m : BitVec 32 := 1; let w : W64 := nopWord; let i : Instr := .nop stall3; let c : Ctl := stall3;
     let r : Machine.State := afterExec (.nop stall3) (issueState (turnState (turnMach nopWord)) 0 0 1 nopWord);
     let z : Machine.State := issueState u t g m w; Offered s u t g m w ∧ Free z w i c ∧ exec i z = Host.Outcome.next r ∧
       z.issued r = true ∧ r.G.live = true ∧ r.G.gid = z.G.gid ∧ u.tookPlanes (Host.Outcome.next (r.afterIssue z c i)) = none) ∧
    (let s : Machine.State := turnMach 0x2A0000000000003; let u : Machine.State := turnState (turnMach 0x2A0000000000003);
     let t : ℕ := 0; let g : ℕ := 0; let m : BitVec 32 := 1; let w : W64 := 0x2A0000000000003;
     let i : Instr := .bra { c0 with stall := 5 } 3; let c : Ctl := { c0 with stall := 5 };
     let r : Machine.State := afterExec (.bra { c0 with stall := 5 } 3) (issueState (turnState (turnMach 0x2A0000000000003)) 0
       0 1 0x2A0000000000003); let z : Machine.State := issueState u t g m w; Offered s u t g m w ∧ Free z w i c ∧ exec i z =
       Host.Outcome.next r ∧ z.issued r = true ∧ r.G.live = true ∧ r.G.gid = z.G.gid ∧ u.tookPlanes (Host.Outcome.next
       (r.afterIssue z c i)) = none) ∧
    (let s : Machine.State := (turnMach nopWord).modGroup 0 0 fun g => { g with nextCyc := 5 };
     let u : Machine.State := turnState ((turnMach nopWord).modGroup 0 0 fun g => { g with nextCyc := 5 }); let t : ℕ := 0;
     let p : ℕ := 0; IssueTurn s u t p ∧ (∀ x ∈ u.pipeline t p, u.cycle t < ((u.tile t).group x.2).nextCyc)) ∧
    (let s : Machine.State := headMach nopWord; let u : Machine.State := turnState (headMach nopWord);
     let y : Machine.State := inBlock; let t : ℕ := 0; let g : ℕ := 0; let m : BitVec 32 := 1; let h : Header := aHead;
     let w : W64 := nopWord; let i : Instr := .nop stall3; let c : Ctl := stall3;
     let r : Machine.State := afterExec (.nop stall3) inBlock; AtHeader s u y t g m h w ∧ Free y w i c ∧ exec i y =
       Host.Outcome.next r ∧ y.issued r = true ∧ r.G.live = true ∧ r.G.gid = y.G.gid ∧ u.tookPlanes (Host.Outcome.next
       (r.afterIssue y c i)) = none) := by
  refine ⟨⟨⟨⟨_, _, 0, rfl, by decide +kernel, by decide +kernel, by decide +kernel, rfl⟩, by decide +kernel,
     ⟨by decide +kernel, by decide +kernel, [], [], by decide +kernel, by decide +kernel⟩, by decide +kernel⟩, ?_, next_of
     (by decide +kernel), ?_, ?_, ?_, ?_⟩, ⟨⟨⟨_, _, 0, rfl, by decide +kernel, by decide +kernel, by decide +kernel, rfl⟩,
     by decide +kernel, ⟨by decide +kernel, by decide +kernel, [], [], by decide +kernel, by decide +kernel⟩,
     by decide +kernel⟩, ?_, next_of (by decide +kernel), ?_, ?_, ?_, ?_⟩, ⟨⟨_, _, 0, rfl, by decide +kernel,
     by decide +kernel, by decide +kernel, rfl⟩, ?_⟩, ⟨⟨⟨_, _, 0, rfl, by decide +kernel, by decide +kernel,
     by decide +kernel, rfl⟩, by decide +kernel, ⟨by decide +kernel, by decide +kernel, [], [], by decide +kernel,
     by decide +kernel⟩, by decide +kernel, by decide +kernel, by decide +kernel, by decide +kernel, ⟨headerWord,
     by decide +kernel⟩, by decide +kernel⟩, ?_, next_of (by decide +kernel), ?_, ?_, ?_, ?_⟩⟩ <;> decide +kernel

/-- Meets the hypotheses of IllegalWords. -/
theorem hyp_IllegalWords :
    (let w : W64 := 0x1500000000000000; BitVec.toNat w / 2 ^ 56 ∉ opcodes) ∧
    (let s : Machine.State := turnMach 0x1500000000000000; let u : Machine.State := turnState (turnMach 0x1500000000000000);
     let t : ℕ := 0; let g : ℕ := 0; let m : BitVec 32 := 1; let w : W64 := 0x1500000000000000;
     let z : Machine.State := issueState u t g m w; let e : Ill := ⟨1, 0⟩; Offered s u t g m w ∧ g ≠ 32 ∧ isHeader w = false ∧
       decode (poolNv z.T.ctl.pool) w = Except.error e) ∧
    (let s : Machine.State := turnMach headerWord; let u : Machine.State := turnState (turnMach headerWord); let t : ℕ := 0;
     let g : ℕ := 0; let m : BitVec 32 := 1; let w : W64 := headerWord; Offered s u t g m w ∧ g ≠ 32 ∧ isHeader w = true) := by
  refine ⟨?_, ⟨⟨⟨_, _, 0, rfl, by decide +kernel, by decide +kernel, by decide +kernel, rfl⟩, by decide +kernel,
     ⟨by decide +kernel, by decide +kernel, [], [], by decide +kernel, by decide +kernel⟩, by decide +kernel⟩, ?_, ?_, ?_⟩,
     ⟨⟨⟨_, _, 0, rfl, by decide +kernel, by decide +kernel, by decide +kernel, rfl⟩, by decide +kernel, ⟨by decide +kernel,
     by decide +kernel, [], [], by decide +kernel, by decide +kernel⟩, by decide +kernel⟩, ?_, ?_⟩⟩ <;> decide +kernel

/-- Meets the hypotheses of StepsKeepCanonical. -/
theorem hyp_StepsKeepCanonical :
    let s : Machine.State := turnMach nopWord;
     let t : Machine.State := (match step (turnMach nopWord) with | .next t => t | _ => turnMach 0); Memory.wf s.mem = true ∧
       Memory.wf s.host = true ∧ step s = Host.Outcome.next t := by
  refine ⟨?_, ?_, step_of (by decide +kernel)⟩ <;> decide +kernel

/-- Meets the hypotheses of TagsKept. -/
theorem hyp_TagsKept :
    let i : Instr := .nop stall3; let c : Ctl := stall3;
     let s : Machine.State := issueState (turnState (turnMach nopWord)) 0 0 1 nopWord;
     let t : Machine.State := afterExec (.nop stall3) (issueState (turnState (turnMach nopWord)) 0 0 1 nopWord); i.ctl = some
       c ∧ s.priv = Priv.user ∧ exec i s = Host.Outcome.next t := by
  refine ⟨?_, ?_, next_of (by decide +kernel)⟩ <;> decide +kernel

end Sys2Proof.Tests
end

section
/-! PROOFS. What the shared operations over steps due, contexts, launches, event rings and the agent's queue do, and from it
the statements on trap records, aborts, counters that wrap and small writes. -/

namespace Sys2Proof.Machine
open Sys2Proof.Claims

/-! ## Steps due -/

/-- One state is another with further steps due and nothing else changed. -/
structure DueGrows (s t : State) : Prop where
  frame : t = { s with due := t.due }
  keeps : ∀ i, DueEv s i → DueEv t i

theorem DueGrows.refl (s : State) : DueGrows s s := ⟨rfl, fun _ h => h⟩

theorem DueGrows.trans {s t u : State} (h : DueGrows s t) (k : DueGrows t u) : DueGrows s u := by
  refine ⟨?_, fun i hi => k.keeps i (h.keeps i hi)⟩
  rw [k.frame, h.frame]

theorem DueGrows.tile {s t : State} (h : DueGrows s t) (x : Nat) : t.tile x = s.tile x := by
  rw [h.frame]; rfl

theorem DueGrows.ctx {s t : State} (h : DueGrows s t) (tag ctx : Nat) : t.ctx tag ctx = s.ctx tag ctx := by
  rw [h.frame]; rfl

theorem State.push_grows (s : State) (l : List Instr) : DueGrows s (s.push l) :=
  ⟨rfl, fun _ ⟨d, hd, he⟩ => ⟨d, List.mem_append_left _ hd, he⟩⟩

theorem State.pushAt_grows (s : State) (tile slot : Nat) (i : Instr) : DueGrows s (s.pushAt tile slot i) :=
  ⟨rfl, fun _ ⟨d, hd, he⟩ => ⟨d, List.mem_append_left _ hd, he⟩⟩

theorem State.dueEv_push (s : State) {l : List Instr} {i : Instr} (h : i ∈ l) : DueEv (s.push l) i :=
  ⟨{ ev := i }, List.mem_append_right _ (List.mem_map_of_mem h), rfl⟩

theorem State.again_grows (s : State) (i : Instr) : DueGrows s (s.again i) := by
  unfold State.again
  split
  · exact .refl s
  · exact s.push_grows [i]

theorem State.dueEv_again (s : State) (i : Instr) : DueEv (s.again i) i := by
  unfold State.again
  split
  · next h =>
    obtain ⟨d, hd, he⟩ := List.any_eq_true.1 h
    exact ⟨d, hd, by simpa using he⟩
  · exact s.dueEv_push (List.mem_singleton.2 rfl)

/-- A fold whose every round only adds steps due only adds steps due. -/
theorem DueGrows.foldl {α : Type} {f : State → α → State} (hf : ∀ s x, DueGrows s (f s x)) (l : List α) (s : State) :
    DueGrows s (l.foldl f s) := by
  induction l generalizing s with
  | nil => exact .refl s
  | cons x l ih => exact (hf s x).trans (ih _)

theorem State.wake_grows (s : State) (tag : Nat) : DueGrows s (s.wake tag) := by
  refine DueGrows.foldl (fun s q => ?_) _ _
  split
  · exact s.again_grows _
  · exact .refl s

theorem State.report_grows (s : State) : DueGrows s s.report := by
  refine DueGrows.foldl (fun s q => ?_) _ _
  split
  · exact s.again_grows _
  · exact .refl s

/-! ## Partitions and contexts -/

theorem State.modPart_frame (s : State) (tag : Nat) (f : Part → Part) :
    s.modPart tag f = { s with parts := (s.modPart tag f).parts } := by
  unfold State.modPart
  split <;> rfl

theorem State.modCtx_frame (s : State) (tag ctx : Nat) (f : Ctx → Ctx) :
    s.modCtx tag ctx f = { s with parts := (s.modCtx tag ctx f).parts } := s.modPart_frame tag _

@[simp] theorem State.tile_modPart (s : State) (tag : Nat) (f : Part → Part) (x : Nat) : (s.modPart tag f).tile x = s.tile x := by
  rw [s.modPart_frame]; rfl

@[simp] theorem State.tile_modCtx (s : State) (tag ctx : Nat) (f : Ctx → Ctx) (x : Nat) :
    (s.modCtx tag ctx f).tile x = s.tile x := s.tile_modPart tag _ x

theorem State.part_modPart (s : State) (a b : Nat) (f : Part → Part) :
    (s.modPart a f).part b = if b = a then (s.part a).map f else s.part b := by
  unfold State.modPart
  split
  · next P h => simp [h]
  · next h =>
    split
    · next e => rw [e, h]; rfl
    · rfl

/-- A change of a partition that leaves its contexts alone. -/
theorem State.ctx_modPart (s : State) (a : Nat) (f : Part → Part) (hf : ∀ P, (f P).ctxs = P.ctxs) (tag ctx : Nat) :
    (s.modPart a f).ctx tag ctx = s.ctx tag ctx := by
  unfold State.ctx
  rw [s.part_modPart]
  split
  · next e => subst e; cases s.part tag <;> simp [hf]
  · rfl

theorem State.ctx_modCtx_same (s : State) (tag ctx : Nat) (f : Ctx → Ctx) :
    (s.modCtx tag ctx f).ctx tag ctx = (s.ctx tag ctx).map f := by
  unfold State.ctx State.modCtx
  rw [s.part_modPart, if_pos rfl]
  cases s.part tag with
  | none => rfl
  | some P =>
    cases h : amGet P.ctxs ctx <;> simp [h]

theorem State.ctx_modCtx_other (s : State) (tag ctx : Nat) (f : Ctx → Ctx) (a b : Nat) (h : ¬ (a = tag ∧ b = ctx)) :
    (s.modCtx tag ctx f).ctx a b = s.ctx a b := by
  unfold State.ctx State.modCtx
  rw [s.part_modPart]
  split
  · next e =>
    subst e
    cases s.part a with
    | none => rfl
    | some P =>
      have hb : b ≠ ctx := fun e => h ⟨rfl, e⟩
      cases hc : amGet P.ctxs ctx <;> simp [hc, hb]
  · rfl

@[simp] theorem State.ctx_modTile (s : State) (t : Nat) (f : Tile → Tile) (a b : Nat) : (s.modTile t f).ctx a b = s.ctx a b := rfl
@[simp] theorem State.ctx_modGroup (s : State) (t g : Nat) (f : Group → Group) (a b : Nat) :
    (s.modGroup t g f).ctx a b = s.ctx a b := rfl

/-! ## Launches -/

/-- Changing the launches of one number keeps it findable, as it was changed. -/
theorem find_launch_map (l : List Launch) (seq : Nat) (f : Launch → Launch) (hf : ∀ x, (f x).seq = x.seq) :
    ((l.map fun x => if x.seq = seq then f x else x).find? fun x => x.seq == seq) = (l.find? fun x => x.seq == seq).map f := by
  induction l with
  | nil => rfl
  | cons x l ih =>
    by_cases h : x.seq = seq
    · simp [h, hf]
    · simpa [h] using ih

theorem State.modLaunch_launch {s : State} {tag ctx seq : Nat} {c : Ctx} {l : Launch} (f : Launch → Launch)
    (hf : ∀ x, (f x).seq = x.seq) (hc : s.ctx tag ctx = some c) (hl : c.launch seq = some l) :
    ∃ d, (s.modLaunch tag ctx seq f).ctx tag ctx = some d ∧ d.launch seq = some (f l) := by
  unfold State.modLaunch
  rw [s.ctx_modCtx_same, hc]
  refine ⟨_, rfl, ?_⟩
  unfold Ctx.launch at hl ⊢
  rw [find_launch_map _ _ _ hf, hl]
  rfl

@[simp] theorem State.tile_modLaunch (s : State) (tag ctx seq : Nat) (f : Launch → Launch) (x : Nat) :
    (s.modLaunch tag ctx seq f).tile x = s.tile x := s.tile_modCtx tag ctx _ x

/-- The launch that an abort word names is the one that its whole number names. -/
theorem Ctx.launch_of_low {c : Ctx} {l : Launch} {w : Nat} (h : c.launches.find? (fun x => x.seq % 2 ^ 32 == w) = some l) :
    c.launch l.seq = some l := by
  unfold Ctx.launch
  revert h
  induction c.launches with
  | nil => simp
  | cons x r ih =>
    intro h
    rw [List.find?_cons] at h ⊢
    split at h
    · cases h; simp
    · next hx =>
      have hw := List.find?_some h
      have hne : (x.seq == l.seq) = false := by
        rw [beq_eq_false_iff_ne] at hx ⊢
        rw [beq_iff_eq] at hw
        intro e
        exact hx (e ▸ hw)
      rw [hne]
      exact ih h

/-! ## Event rings -/

/-- One state has the tiles and the launches of another. -/
structure SameWork (s t : State) : Prop where
  tiles : t.tiles = s.tiles
  launches : ∀ a b, (t.ctx a b).map (·.launches) = (s.ctx a b).map (·.launches)

theorem SameWork.refl (s : State) : SameWork s s := ⟨rfl, fun _ _ => rfl⟩

theorem SameWork.trans {s t u : State} (h : SameWork s t) (k : SameWork t u) : SameWork s u :=
  ⟨k.tiles.trans h.tiles, fun a b => (k.launches a b).trans (h.launches a b)⟩

/-- Equal tiles and partitions. -/
theorem SameWork.of_eq {s t : State} (ht : t.tiles = s.tiles) (hp : t.parts = s.parts) : SameWork s t :=
  ⟨ht, fun a b => by simp [State.ctx, State.part, hp]⟩

theorem SameWork.of_grows {s t : State} (h : DueGrows s t) : SameWork s t :=
  .of_eq (by rw [h.frame]) (by rw [h.frame])

theorem SameWork.launch {s t : State} (h : SameWork s t) {tag ctx seq : Nat} {c : Ctx} {l : Launch}
    (hc : s.ctx tag ctx = some c) (hl : c.launch seq = some l) : ∃ d, t.ctx tag ctx = some d ∧ d.launch seq = some l := by
  have hm := h.launches tag ctx
  rw [hc] at hm
  obtain ⟨d, hd, he⟩ := Option.map_eq_some_iff.1 hm
  refine ⟨d, hd, ?_⟩
  unfold Ctx.launch at hl ⊢
  rw [he, hl]

theorem State.modPart_sameWork (s : State) (tag : Nat) (f : Part → Part) (hf : ∀ P, (f P).ctxs = P.ctxs) :
    SameWork s (s.modPart tag f) :=
  ⟨by rw [s.modPart_frame], fun a b => by rw [s.ctx_modPart tag f hf]⟩

theorem State.modCtx_sameWork (s : State) (tag ctx : Nat) (f : Ctx → Ctx) (hf : ∀ c, (f c).launches = c.launches) :
    SameWork s (s.modCtx tag ctx f) := by
  refine ⟨by rw [s.modCtx_frame], fun a b => ?_⟩
  by_cases h : a = tag ∧ b = ctx
  · obtain ⟨rfl, rfl⟩ := h
    rw [s.ctx_modCtx_same]
    cases s.ctx a b <;> simp [hf]
  · rw [s.ctx_modCtx_other _ _ _ _ _ h]

theorem State.putMem_sameWork (s : State) (pa n v : Nat) : SameWork s (s.putMem pa n v) :=
  (SameWork.of_eq rfl rfl : SameWork s ((s.setMem (Memory.write s.mem pa n v)).noteWords pa n)).trans
    (.of_grows (State.report_grows _))

theorem State.raiseVector_sameWork (s : State) (tag vec : Nat) : SameWork s (s.raiseVector tag vec) := by
  unfold State.raiseVector
  split
  · split
    · exact .refl s
    · split
      · exact s.modPart_sameWork tag _ fun _ => rfl
      · exact .of_eq rfl rfl
  · exact .refl s

/-- A write of the device to plinth or host memory changes no tile and no launch. -/
theorem State.devMemWrite_sameWork (s : State) (c : Option Ctx) {pa : Nat} (n v : Nat)
    (h : regionOf pa = .plinth ∨ ∃ t off, regionOf pa = .host t off) : SameWork s (s.devMemWrite c pa n v) := by
  unfold State.devMemWrite
  rcases h with h | ⟨t, off, h⟩ <;> rw [h]
  · exact s.putMem_sameWork _ _ _
  · exact .of_eq rfl rfl

/-- The end of a posting: EVPROD advances, and the context's vector is raised under IRQEN. -/
theorem State.posted_sameWork (s : State) (tag ctx vec : Nat) (irqen : Bool) :
    SameWork s (let u := s.modCtx tag ctx fun c => { c with evprod := (c.evprod + 1) % 2 ^ 32 }
      if irqen then u.raiseVector tag vec else u) := by
  have hp := s.modCtx_sameWork tag ctx (fun c => { c with evprod := (c.evprod + 1) % 2 ^ 32 }) fun _ => rfl
  cases irqen with
  | false => exact hp
  | true => exact hp.trans (State.raiseVector_sameWork _ _ _)

/-- Posting an event record to a ring changes no tile and no launch (R322). -/
theorem State.post_sameWork (s : State) (tag ctx : Nat) (e : EvRec) : SameWork s (s.post tag ctx e) := by
  have lost := s.modCtx_sameWork tag ctx (fun c => { c with evlost := (c.evlost + 1) % 2 ^ 32 }) fun _ => rfl
  unfold State.post
  split
  · exact .refl s
  · next c _ =>
    dsimp only
    split
    · exact .refl s
    · split
      · exact lost
      · split
        · exact lost
        · next pa _ =>
          cases hr : regionOf pa with
          | plinth => exact (s.devMemWrite_sameWork _ _ _ (.inl hr)).trans (State.posted_sameWork _ tag ctx c.vec c.irqen)
          | host t off =>
            exact (s.devMemWrite_sameWork _ _ _ (.inr ⟨t, off, hr⟩)).trans (State.posted_sameWork _ tag ctx c.vec c.irqen)
          | device t off => exact lost
          | peer t w off => exact lost
          | reserved => exact lost

@[simp] theorem State.tile_post (s : State) (tag ctx : Nat) (e : EvRec) (x : Nat) : (s.post tag ctx e).tile x = s.tile x :=
  State.tile_of_tiles (s.post_sameWork tag ctx e).tiles x

/-! ## The agent's queue -/

theorem Tile.aevtPush_of_room {T : Tile} (h : T.aevtFull = false) (e : Aevt) : T.aevtPush e = { T with aevt := T.aevt ++ [e] } := by
  simp [Tile.aevtPush, h]

@[simp] theorem Tile.slot_aevtPush (T : Tile) (e : Aevt) (i : Nat) : (T.aevtPush e).slot i = T.slot i := by
  unfold Tile.aevtPush
  split <;> rfl

@[simp] theorem Tile.setGroup_aevt (T : Tile) (g : Nat) (x : Group) : (T.setGroup g x).aevt = T.aevt := by
  unfold Tile.setGroup
  split <;> rfl

@[simp] theorem State.modGroup_aevt (s : State) (t g : Nat) (f : Group → Group) (x : Nat) :
    ((s.modGroup t g f).tile x).aevt = (s.tile x).aevt := by
  unfold State.modGroup
  rw [State.tile_modTile]
  split
  · next e => rw [Tile.setGroup_aevt, e]
  · rfl

theorem State.notify_tile (s : State) (t kind cslot : Nat) :
    (s.notify t kind cslot).tile t =
      (s.tile t).aevtPush { kind := kind, gslot := 0, slot := cslot, info := Config.freeNat s.free % 2 ^ 52 } := by
  have h : (s.notify t kind cslot).tile t = (s.modTile t fun T => T.aevtPush
      { kind := kind, gslot := 0, slot := cslot, info := Config.freeNat s.free % 2 ^ 52 }).tile t := rfl
  rw [h, State.tile_modTile, if_pos rfl]

/-! ## Trap records -/

theorem exec_trapDeliver (tile slot : Nat) (s : State) : exec (.trapDeliver tile slot) s = execTrapDeliver tile slot s := rfl

theorem State.putRecord_of_ctx {s : State} {tag ctx : Nat} {c : Ctx} (h : s.ctx tag ctx = some c) (rec : BitVec 512) :
    s.putRecord tag ctx rec = (s.modCtx tag ctx fun d =>
      { d with eprod := (d.eprod + 1) % 2 ^ 32, erecs := amSet d.erecs (1 + c.eprod % 255) rec }, 1 + c.eprod % 255) := by
  unfold State.putRecord
  rw [h]

/-- With room in the store and in the queue a delivery writes the record, queues its AEVT and changes the group's traps; the rest
is steps due (R356). -/
theorem execTrapDeliver_of_room {tile slot : Nat} {s : State} {r : Trap} {c : Ctx}
    (hr : ((s.tile tile).group slot).traps.find? (fun r => !r.delivered && !r.held) = some r)
    (hc : s.ctx (s.tile tile).tag (s.tile tile).ctl.ctx = some c) (hstore : c.storeFull = false)
    (haevt : (s.tile tile).aevtFull = false) :
    let T := s.tile tile
    let routed := r.isRouted (T.team (T.group slot).team) && slot != 32
    let x := s.putRecord T.tag T.ctl.ctx (s.record tile slot r routed)
    let info := (devPpa + 0x40000 + 0x4000 * T.ctl.ctx + 64 * x.2) / 64
    ∃ f t, exec (.trapDeliver tile slot) s = .next t ∧
      DueGrows ((x.1.modTile tile fun T => T.aevtPush { kind := 1, gslot := slot, slot := T.act, info := info }).modGroup tile slot f) t := by
  intro T routed x info
  have again (p : Prop) [Decidable p] (u : State) : DueGrows u (if p then u.again (.trapDeliver tile slot) else u) := by
    split
    · exact u.again_grows _
    · exact .refl u
  rw [exec_trapDeliver]
  unfold execTrapDeliver
  simp only [hr, hc, hstore, haevt, Bool.and_false, Bool.or_false, Bool.false_eq_true, if_false]
  by_cases hl : r.lanes = 0
  · simp only [if_pos hl]
    exact ⟨_, _, rfl, again _ _⟩
  · simp only [if_neg hl]
    exact ⟨_, _, rfl, again _ _⟩

/-- The first undelivered trap is written as the next record, and its AEVT queued (R354, R356). -/
theorem delivers : Delivers := by
  intro tile slot s r c T hr hc hstore haevt n
  obtain ⟨f, t, ht, hg⟩ := execTrapDeliver_of_room hr hc hstore haevt
  rw [State.putRecord_of_ctx hc] at hg
  have hd := hg.ctx T.tag T.ctl.ctx
  rw [State.ctx_modGroup, State.ctx_modTile, State.ctx_modCtx_same, hc] at hd
  have he := congrArg Tile.aevt (hg.tile tile)
  rw [State.modGroup_aevt, State.tile_modTile, if_pos rfl, State.tile_modCtx, Tile.aevtPush_of_room haevt] at he
  exact ⟨t, _, _, ht, hd, rfl, amGet_amSet_same _ _ _, fun m hm => amGet_amSet_other _ _ _ _ hm, he, rfl, rfl, rfl⟩

/-! ## Launch aborts -/

theorem exec_abortPortWrite (tag ctx value : Nat) (s : State) :
    exec (.abortPortWrite tag ctx value) s = execAbortPortWrite tag ctx value s := rfl
theorem exec_abortNotice (tile tag ctx seq : Nat) (s : State) :
    exec (.abortNotice tile tag ctx seq) s = execAbortNotice tile tag ctx seq s := rfl
theorem exec_abortComplete (tag ctx seq : Nat) (s : State) :
    exec (.abortComplete tag ctx seq) s = execAbortComplete tag ctx seq s := rfl

/-- A launch that neither has completed nor is aborted is marked and taken off the list, and every tile of the partition is told;
the rest is steps due (R364). -/
theorem State.abortLaunch_grows {s : State} {l : Launch} (tag ctx code slot : Nat) (hc : l.complete = false)
    (ha : l.aborted = none) :
    DueGrows ((s.modLaunch tag ctx l.seq fun l =>
        { l with listed := false, aborted := some (code, slot), awaiting := s.tilesOf tag }).push
      (((s.tilesOf tag).map fun t => .abortNotice t tag ctx l.seq) ++ [.abortComplete tag ctx l.seq]))
      (s.abortLaunch tag ctx l code slot) := by
  simp only [State.abortLaunch, hc, ha, Option.isSome_none, Bool.or_self, Bool.false_eq_true, if_false]
  exact State.wake_grows _ tag

/-- The port: the launch is marked, and notices to all tiles of the partition are due. -/
theorem abortPort (tag ctx value : Nat) (s : State) (c : Ctx) (l : Launch) (hctx : s.ctx tag ctx = some c)
    (hf : c.launches.find? (fun l => l.seq % 2 ^ 32 == value / 2 ^ 32) = some l) (hc : l.complete = false)
    (ha : l.aborted = none) :
    ∃ t d m, exec (.abortPortWrite tag ctx value) s = .next t ∧ t.ctx tag ctx = some d ∧ d.launch l.seq = some m ∧
      m.listed = false ∧ m.aborted = some (bits value 8 8, bits value 0 8) ∧ m.awaiting = s.tilesOf tag ∧
      DueEv t (.abortComplete tag ctx l.seq) ∧ ∀ x ∈ s.tilesOf tag, DueEv t (.abortNotice x tag ctx l.seq) := by
  have hg := State.abortLaunch_grows (s := s) tag ctx (bits value 8 8) (bits value 0 8) hc ha
  have he : exec (.abortPortWrite tag ctx value) s = .next (s.abortLaunch tag ctx l (bits value 8 8) (bits value 0 8)) := by
    rw [exec_abortPortWrite]
    simp only [execAbortPortWrite, hctx, Option.bind_some, hf]
  obtain ⟨d, hd, hm⟩ := State.modLaunch_launch (fun l => { l with
      listed := false, aborted := some (bits value 8 8, bits value 0 8), awaiting := s.tilesOf tag })
    (fun _ => rfl) hctx (Ctx.launch_of_low hf)
  refine ⟨_, d, _, he, (hg.ctx tag ctx).trans hd, hm, rfl, rfl, rfl, hg.keeps _ (State.dueEv_push _ ?_),
    fun x hx => hg.keeps _ (State.dueEv_push _ ?_)⟩
  · exact List.mem_append_right _ (List.mem_singleton.2 rfl)
  · exact List.mem_append_left _ (List.mem_map_of_mem hx)

/-- A launch that no tile of the partition is awaited for is complete, with its abort as it was (R364). -/
theorem abortCompletes (tag ctx seq : Nat) (s : State) (c : Ctx) (l : Launch) (a : Nat × Nat) (hctx : s.ctx tag ctx = some c)
    (hl : c.launch seq = some l) (ha : l.aborted = some a) (hc : l.complete = false)
    (hw : ∀ x ∈ l.awaiting, (s.tile x).tag ≠ tag) :
    ∃ t d m, exec (.abortComplete tag ctx seq) s = .next t ∧ t.ctx tag ctx = some d ∧ d.launch seq = some m ∧
      m.complete = true ∧ m.aborted = some a := by
  have hw' : (l.awaiting.any fun x => (s.tile x).tag == tag) = false := by
    rw [List.any_eq_false]
    exact fun x hx => by simpa using hw x hx
  obtain ⟨d, hd, hm⟩ := State.modLaunch_launch (fun l => { l with complete := true }) (fun _ => rfl) hctx hl
  obtain ⟨e, he, hn⟩ := (State.post_sameWork _ tag ctx
    { kind := 4, n := l.ifn, value := a.1 + 256 * a.2, info := l.cookie }).launch hd hm
  have hg := (State.pushAt_grows ((s.modLaunch tag ctx seq fun l => { l with complete := true }).post tag ctx
    { kind := 4, n := l.ifn, value := a.1 + 256 * a.2, info := l.cookie }) tag 0 .sliceBoundary).trans (State.wake_grows _ tag)
  refine ⟨_, e, _, ?_, (hg.ctx tag ctx).trans he, hn, rfl, ha⟩
  rw [exec_abortComplete]
  simp only [execAbortComplete, hctx, Option.bind_some, hl, ha, hc, hw', Bool.false_eq_true, if_false]

/-! ## The notice of an abort on one tile -/

/-- Reading a table whose entries were changed in place. -/
theorem amGet_map_keys {α : Type} (m : AMap α) (g : Nat × α → Nat × α) (hg : ∀ x, (g x).1 = x.1) (k : Nat) :
    amGet (m.map g) k = (amGet m k).map fun y => (g (k, y)).2 := by
  induction m with
  | nil => rfl
  | cons x m ih =>
    obtain ⟨j, y⟩ := x
    have hx : g (j, y) = (j, (g (j, y)).2) := Prod.ext (hg _) rfl
    rw [List.map_cons, hx, amGet, amGet, ih]
    split
    · next e => rw [e]; rfl
    · rfl

@[simp] theorem Tile.setCtl_st (T : Tile) (c : CtxCtl) : ((T.setCtl c).slot T.act).st = (T.slot T.act).st := by
  simp [Tile.setCtl]

/-- The groups of a launch's teams stop at once (R364). -/
def Tile.haltTeams (T : Tile) (seq : Nat) : Tile :=
  T.setCtl { T.ctl with groups := T.ctl.groups.map fun (g : Nat × Group) =>
    (g.1, { g.2 with stopped := g.2.stopped || (T.ctl.teamsOf seq).contains g.2.team }) }

/-- Saved work, reservations and clusters of a launch are discarded (R364). -/
def Tile.dropSaved (T : Tile) (ctx seq : Nat) : Tile :=
  { T with
    slots := T.slots.map fun (x : Nat × Slot) =>
      if x.2.ctl.ctx = ctx && x.2.st != .active then (x.1, { x.2 with ctl := x.2.ctl.dropLaunch seq }) else x
    resv := T.resv.filter fun r => !(r.ctx == ctx && r.seq == seq)
    anchoring := T.anchoring.filter fun a => !(a.ctx == ctx && a.seq == seq) }

/-- The launch has teams that run on the tile: its context is the active one there. -/
def Tile.runs (T : Tile) (ctx : Nat) : Bool := decide (T.ctl.ctx = ctx) && (T.slot T.act).st == .active

/-- What is left of a launch on a tile that acknowledges its abort, before the acknowledgement is entered. -/
def State.stopHere (s : State) (tile tag ctx seq : Nat) : State :=
  ((if (s.tile tile).runs ctx then (s.modTile tile fun T => T.haltTeams seq).stopLaunch tile seq else s).modTile tile
      fun T => T.dropSaved ctx seq).modPart tag fun P => { P with images := P.images.map fun (x : SavedImage) =>
    if x.ctx = ctx && x.place = (s.tile tile).place then { x with ctl := x.ctl.dropLaunch seq } else x }

@[simp] theorem Tile.haltTeams_arr (T : Tile) (seq : Nat) : (T.haltTeams seq).arr = T.arr := rfl
@[simp] theorem Tile.haltTeams_copies (T : Tile) (seq : Nat) : (T.haltTeams seq).copies = T.copies := rfl
@[simp] theorem Tile.haltTeams_ctx (T : Tile) (seq : Nat) : (T.haltTeams seq).ctl.ctx = T.ctl.ctx := by simp [Tile.haltTeams]
@[simp] theorem Tile.haltTeams_teams (T : Tile) (seq : Nat) : (T.haltTeams seq).ctl.teams = T.ctl.teams := by simp [Tile.haltTeams]
@[simp] theorem Tile.haltTeams_st (T : Tile) (seq : Nat) : ((T.haltTeams seq).slot T.act).st = (T.slot T.act).st :=
  T.setCtl_st _

/-- Whether operations of a launch are in flight does not depend on which of its groups have stopped. -/
theorem State.launchBusy_haltTeams (s : State) (tile seq : Nat) :
    (s.modTile tile fun T => T.haltTeams seq).launchBusy tile seq = s.launchBusy tile seq := by
  have ht : (s.modTile tile fun T => T.haltTeams seq).tile tile = (s.tile tile).haltTeams seq := by
    rw [State.tile_modTile, if_pos rfl]
  simp only [State.launchBusy, ht, State.modTile_reqs, Tile.haltTeams_arr, Tile.haltTeams_copies, Tile.haltTeams_ctx, CtxCtl.teamsOf,
    Tile.haltTeams_teams]

/-- A tile that is awaited, and on which nothing of the launch is in flight, stops it and acknowledges (R364). -/
theorem execAbortNotice_acknowledges {tile tag ctx seq : Nat} {s : State} {c : Ctx} {l : Launch} (hctx : s.ctx tag ctx = some c)
    (hl : c.launch seq = some l) (ha : l.aborted ≠ none) (hw : tile ∈ l.awaiting) (ht : (s.tile tile).tag = tag)
    (hb : (s.tile tile).runs ctx = true → s.launchBusy tile seq = false) :
    exec (.abortNotice tile tag ctx seq) s =
      .next (((s.stopHere tile tag ctx seq).modLaunch tag ctx seq fun l =>
        { l with awaiting := l.awaiting.filter (· != tile) }).push [.abortComplete tag ctx seq, .agentClaim tile]) := by
  have hs : l.aborted.isSome = true := Option.isSome_iff_ne_none.2 ha
  have hin : l.awaiting.contains tile = true := by simpa using hw
  rw [exec_abortNotice]
  simp only [execAbortNotice, ht, hctx, Option.bind_some, hl, Option.map_some, Option.getD_some, hs, hin, Bool.and_self,
    Bool.not_true, ne_eq, not_true_eq_false, decide_false, Bool.or_self, Bool.false_eq_true, if_false]
  unfold State.stopHere
  cases hm : (s.tile tile).runs ctx with
  | false =>
    unfold Tile.runs at hm
    simp only [hm, Bool.false_and, Bool.false_eq_true, if_false]
    rfl
  | true =>
    have hidle := (s.launchBusy_haltTeams tile seq).trans (hb hm)
    unfold Tile.haltTeams at hidle
    unfold Tile.runs at hm
    simp only [hm, hidle, Bool.and_false, Bool.false_eq_true, if_false, if_true]
    rfl

/-- Stopping a launch takes its teams out of the active control state and its templates out of the store; beside these it
changes the array and the agent's queue (R364). -/
theorem State.stopLaunch_tile (s : State) (t seq : Nat) :
    ∃ a e w, (s.stopLaunch t seq).tile t =
      { (s.tile t).setCtl ((s.tile t).ctl.dropLaunch seq) with
        store := dropTemplates (s.tile t).store (s.tile t).ctl.ctx seq, arr := a, aevt := e, aevtWait := w } := by
  unfold State.stopLaunch
  dsimp only
  split
  · exact ⟨_, _, _, by
      rw [State.tile_of_tiles (State.pushAt_tiles _ t 0 .planeRelease), State.tile_setTile, if_pos rfl]; rfl⟩
  · exact ⟨_, _, _, by rw [State.tile_setTile, if_pos rfl]; rfl⟩

theorem State.stopLaunch_parts (s : State) (t seq : Nat) : (s.stopLaunch t seq).parts = s.parts := by
  unfold State.stopLaunch
  dsimp only
  split <;> rfl

/-- Dropping saved work leaves the slot of the active context alone. -/
theorem Tile.dropSaved_ctl {T : Tile} (ctx seq : Nat) (h : (T.slot T.act).st = .active) : (T.dropSaved ctx seq).ctl = T.ctl := by
  unfold Tile.ctl Tile.slot at *
  unfold Tile.dropSaved
  rw [amGet_map_keys _ _ fun x => by split <;> rfl]
  cases hs : amGet T.slots T.act with
  | none => rfl
  | some S =>
    rw [hs] at h
    simp only [Option.getD_some] at h
    simp [h]

theorem State.stopHere_ctx (s : State) (tile tag ctx seq : Nat) (a b : Nat) :
    (s.stopHere tile tag ctx seq).ctx a b = s.ctx a b := by
  unfold State.stopHere
  rw [State.ctx_modPart, State.ctx_modTile]
  · split
    · unfold State.ctx State.part
      rw [State.stopLaunch_parts, State.modTile_parts]
    · rfl
  · intro P
    rfl

/-- On a tile where the launch's context is active, the launch has no team and no template left. -/
theorem State.stopHere_clean {s : State} {tile ctx : Nat} (tag seq : Nat) (hc : (s.tile tile).ctl.ctx = ctx)
    (ha : ((s.tile tile).slot (s.tile tile).act).st = .active) :
    (∀ x ∈ ((s.stopHere tile tag ctx seq).tile tile).ctl.teams, x.2.seq ≠ seq) ∧
      ∀ x ∈ ((s.stopHere tile tag ctx seq).tile tile).store, ¬ (x.2.ctx = ctx ∧ x.2.seq = seq) := by
  have hruns : (s.tile tile).runs ctx = true := by simp [Tile.runs, hc, ha]
  obtain ⟨a, e, w, hT⟩ := State.stopLaunch_tile (s.modTile tile fun T => T.haltTeams seq) tile seq
  rw [State.tile_modTile, if_pos rfl] at hT
  have hst : (s.stopHere tile tag ctx seq).tile tile =
      (((s.modTile tile fun T => T.haltTeams seq).stopLaunch tile seq).tile tile).dropSaved ctx seq := by
    unfold State.stopHere
    rw [State.tile_modPart, if_pos hruns, State.tile_modTile, if_pos rfl]
  rw [hst]
  constructor
  · rw [Tile.dropSaved_ctl, hT]
    · intro x hx
      have hx' : x ∈ (((s.tile tile).haltTeams seq).setCtl (((s.tile tile).haltTeams seq).ctl.dropLaunch seq)).ctl.teams := hx
      rw [Tile.ctl_setCtl] at hx'
      simpa using (List.mem_filter.1 hx').2
    · rw [hT]
      exact (Tile.setCtl_st _ _).trans ((Tile.haltTeams_st _ seq).trans ha)
  · rw [hT]
    intro x hx
    have hx' := (List.mem_filter.1 hx).2
    rw [Tile.haltTeams_ctx, hc] at hx'
    simpa [imp_iff_not_or] using hx'

/-- A tile acknowledges: it is awaited no more, the end of the abort is due, and nothing of the launch is left in its active
context (R364). -/
theorem abortNotified (tile tag ctx seq : Nat) (s : State) (c : Ctx) (l : Launch) (hctx : s.ctx tag ctx = some c)
    (hl : c.launch seq = some l) (ha : l.aborted ≠ none) (hw : tile ∈ l.awaiting) (ht : (s.tile tile).tag = tag)
    (hq : (s.tile tile).ctl.ctx ≠ ctx ∨ ((s.tile tile).slot (s.tile tile).act).st = .active ∧ s.launchBusy tile seq = false) :
    ∃ t d m, exec (.abortNotice tile tag ctx seq) s = .next t ∧ t.ctx tag ctx = some d ∧ d.launch seq = some m ∧
      m.awaiting = l.awaiting.filter (· != tile) ∧ DueEv t (.abortComplete tag ctx seq) ∧
      ((s.tile tile).ctl.ctx = ctx → (∀ x ∈ (t.tile tile).ctl.teams, x.2.seq ≠ seq) ∧
        (∀ x ∈ (t.tile tile).store, ¬ (x.2.ctx = ctx ∧ x.2.seq = seq))) := by
  have hb : (s.tile tile).runs ctx = true → s.launchBusy tile seq = false := by
    intro hr
    rcases hq with h | ⟨_, h⟩
    · simp [Tile.runs, h] at hr
    · exact h
  obtain ⟨d, hd, hm⟩ := State.modLaunch_launch (fun l => { l with awaiting := l.awaiting.filter (· != tile) }) (fun _ => rfl)
    ((s.stopHere_ctx tile tag ctx seq tag ctx).trans hctx) hl
  have hg := State.push_grows ((s.stopHere tile tag ctx seq).modLaunch tag ctx seq fun l =>
    { l with awaiting := l.awaiting.filter (· != tile) }) [.abortComplete tag ctx seq, .agentClaim tile]
  refine ⟨_, d, _, execAbortNotice_acknowledges hctx hl ha hw ht hb, (hg.ctx tag ctx).trans hd, hm, rfl,
    State.dueEv_push _ (List.mem_cons_self ..), fun hc => ?_⟩
  rcases hq with h | ⟨hact, _⟩
  · exact absurd hc h
  · rw [hg.tile, State.tile_modLaunch]
    exact State.stopHere_clean tag seq hc hact

theorem aborts : Aborts := ⟨abortPort, abortNotified, abortCompletes⟩

/-! ## Counters that wrap -/

theorem exec_counterOverflow (tile cslot n : Nat) (s : State) :
    exec (.counterOverflow tile cslot n) s = execCounterOverflow tile cslot n s := rfl

/-- A wrap takes the count down and sets its bit in the slot's control state, whether or not an event is posted (R202). -/
theorem State.overflow_ctl (s : State) (t cslot i : Nat) :
    let c := ((s.tile t).slot cslot).ctl
    (((s.overflow t cslot i).tile t).slot cslot).ctl =
      { c with pmc := c.pmc.set i (c.pmc.getD i 0 % 2 ^ 48), pms := c.pms.set i (c.pmsWord i) } := by
  intro c
  unfold State.overflow
  dsimp only
  split
  · rw [State.notify_tile, Tile.slot_aevtPush, State.tile_post, State.tile_setTile, if_pos rfl, Tile.slot_setSlot, if_pos rfl]
  · rw [State.tile_setTile, if_pos rfl, Tile.slot_setSlot, if_pos rfl]

/-- Under OVE a wrap queues an event of kind 5 where the queue has room (R202, log 95). -/
theorem State.overflow_aevt {s : State} {t cslot i : Nat} (hove : bit (((s.tile t).slot cslot).ctl.pms.getD i 0) 15 = true)
    (hroom : (s.tile t).aevtFull = false) :
    ∃ e, ((s.overflow t cslot i).tile t).aevt = (s.tile t).aevt ++ [e] ∧ e.kind = 5 ∧ e.slot = cslot := by
  unfold State.overflow
  dsimp only
  rw [if_pos hove, State.notify_tile, State.tile_post, State.tile_setTile, if_pos rfl, Tile.aevtPush_of_room]
  · exact ⟨_, rfl, rfl, rfl⟩
  · exact hroom

/-- A counter past 2^48 waits for room where it is to post an event, and else wraps. -/
theorem counterWraps (tile cslot n : Nat) (s : State) : let c := ((s.tile tile).slot cslot).ctl
    n < 4 → 2 ^ 48 ≤ c.pmc.getD n 0 → c.pms.length = 4 →
    ((s.tile tile).aevtFull = true → bit (c.pms.getD n 0) 15 = true →
      ∃ t, exec (.counterOverflow tile cslot n) s = .next t ∧ t = { s with due := t.due } ∧ DueEv t (.counterOverflow tile cslot n)) ∧
    (((s.tile tile).aevtFull = false ∨ bit (c.pms.getD n 0) 15 = false) →
    ∃ t, exec (.counterOverflow tile cslot n) s = .next t ∧
      ((t.tile tile).slot cslot).ctl.pmc.getD n 0 = c.pmc.getD n 0 % 2 ^ 48 ∧
      bit (((t.tile tile).slot cslot).ctl.pms.getD n 0) 14 = true ∧
      (bit (c.pms.getD n 0) 15 = true → ∃ e, (t.tile tile).aevt = (s.tile tile).aevt ++ [e] ∧ e.kind = 5 ∧ e.slot = cslot)) := by
  intro c hn hwrap hlen
  have hrun : exec (.counterOverflow tile cslot n) s =
      .next (if (s.tile tile).aevtFull && bit (c.pms.getD n 0) 15 then s.again (.counterOverflow tile cslot n)
        else s.overflow tile cslot n) := by
    rw [exec_counterOverflow, execCounterOverflow, if_pos (by simpa [hn] using hwrap)]
  refine ⟨fun hfull hove => ?_, fun hor => ?_⟩
  · rw [hfull, hove, Bool.and_self, if_pos rfl] at hrun
    exact ⟨_, hrun, (s.again_grows _).frame, s.dueEv_again _⟩
  · have hgo : ((s.tile tile).aevtFull && bit (c.pms.getD n 0) 15) = false := by
      rwa [Bool.and_eq_false_iff]
    rw [hgo, if_neg Bool.false_ne_true] at hrun
    have hpmc : n < c.pmc.length := by
      by_contra hge
      rw [List.getD_eq_default _ _ (by omega)] at hwrap
      omega
    refine ⟨_, hrun, ?_, ?_, fun hove => ?_⟩
    · rw [s.overflow_ctl]
      simp [c, hpmc]
    · rw [s.overflow_ctl]
      have hw : c.pmsWord n = setBit (c.pms.getD n 0) 14 := if_pos hwrap
      have hl : n < c.pms.length := by omega
      simp [c, hl, hw, bit_setBit]
    · exact State.overflow_aevt hove (hor.resolve_right (ne_false_of_eq_true hove))

/-! ## Writes of context blocks and registers -/

theorem exec_contextBlockWrite (tag ctx off value size : Nat) (user tb : Bool) (s : State) :
    exec (.contextBlockWrite tag ctx off value size user tb) s = execContextBlockWrite tag ctx off value size user tb s := rfl
theorem exec_registerWrite (tile reg value : Nat) (s : State) :
    exec (.registerWrite tile reg value) s = execRegisterWrite tile reg value s := rfl

/-- No interface of a context locks its block where each is unlocked or in ERROR (R325). -/
theorem State.locksOn_nil {s : State} {tag ctx : Nat} (h : ∀ q ∈ s.queues, q.2.cfg.tag = tag → q.2.cfg.ctx = ctx →
    q.2.state = .unlocked ∨ q.2.state = .error) : s.locksOn tag ctx = [] := by
  unfold State.locksOn
  rw [List.filter_eq_nil_iff]
  intro q hq hb
  simp only [Bool.and_eq_true, Bool.or_eq_true, beq_iff_eq] at hb
  obtain ⟨⟨ht, hc⟩, hst⟩ := hb
  rcases h q hq ht hc with e | e <;> simp [e] at hst

/-- A write to a block that no interface locks changes the context alone (R321). -/
theorem blockWritten (tag ctx off value size : Nat) (user tb : Bool) (s : State)
    (h : ∀ q ∈ s.queues, q.2.cfg.tag = tag → q.2.cfg.ctx = ctx → q.2.state = .unlocked ∨ q.2.state = .error) :
    ∃ t, exec (.contextBlockWrite tag ctx off value size user tb) s = .next t ∧ t = { s with parts := t.parts } ∧
      t.ctx tag ctx = (s.ctx tag ctx).map fun c => c.writeBlock off size value (!user) := by
  refine ⟨_, ?_, s.modCtx_frame tag ctx _, s.ctx_modCtx_same tag ctx _⟩
  rw [exec_contextBlockWrite, execContextBlockWrite, State.locksOn_nil h]

theorem State.mtsWrite_bint (s : State) (v : Nat) :
    s.mtsWrite 0x22 v = s.modTile s.cur.tile fun T => T.setCtl { T.ctl with bint := v % 2 ^ 20 } := rfl
theorem State.mtsWrite_leasecap (s : State) (v : Nat) :
    s.mtsWrite 0x25 v = s.modTile s.cur.tile fun T => T.setCtl { T.ctl with leasecap := v % 2 ^ 19 } := rfl
theorem State.mtsWrite_tag (s : State) (v : Nat) :
    s.mtsWrite 0x200 v = s.modTile s.cur.tile fun T => { T with tag := v % 1024, gen := v / 1024 % 16 } := rfl

/-- A register write that changes the tile it acts on, and it alone. -/
theorem execRegisterWrite_tile {tile reg value : Nat} {s : State} {f : Tile → Tile} (ht : tile < 8400)
    (hf : ∀ u : State, u.mtsWrite reg value = u.modTile u.cur.tile f) :
    ∃ t, exec (.registerWrite tile reg value) s = .next t ∧ t.tile tile = f (s.tile tile) ∧ t = { s with tiles := t.tiles } := by
  refine ⟨s.modTile tile f, ?_, by rw [State.tile_modTile, if_pos rfl], rfl⟩
  rw [exec_registerWrite, execRegisterWrite, if_neg (by omega)]
  simp only [hf]
  rfl

/-- Writes of BINT, LEASECAP and TAG change just these (R2). -/
theorem registersWritten (tile value : Nat) (s : State) (ht : tile < 8400) :
    (∃ t, exec (.registerWrite tile 0x22 value) s = .next t ∧ (t.tile tile).ctl.bint = value % 2 ^ 20 ∧
      t = { s with tiles := t.tiles }) ∧
    (∃ t, exec (.registerWrite tile 0x25 value) s = .next t ∧ (t.tile tile).ctl.leasecap = value % 2 ^ 19 ∧
      t = { s with tiles := t.tiles }) ∧
    (∃ t, exec (.registerWrite tile 0x200 value) s = .next t ∧ (t.tile tile).tag = value % 1024 ∧
      (t.tile tile).gen = value / 1024 % 16 ∧ t = { s with tiles := t.tiles }) := by
  obtain ⟨a, hea, hTa, hfa⟩ := execRegisterWrite_tile (s := s) ht (State.mtsWrite_bint · value)
  obtain ⟨b, heb, hTb, hfb⟩ := execRegisterWrite_tile (s := s) ht (State.mtsWrite_leasecap · value)
  obtain ⟨c, hec, hTc, hfc⟩ := execRegisterWrite_tile (s := s) ht (State.mtsWrite_tag · value)
  exact ⟨⟨a, hea, by rw [hTa, Tile.ctl_setCtl], hfa⟩, ⟨b, heb, by rw [hTb, Tile.ctl_setCtl], hfb⟩,
    ⟨c, hec, by rw [hTc], by rw [hTc], hfc⟩⟩

theorem smallWrites : SmallWrites := ⟨counterWraps, blockWritten, registersWritten⟩

/-- Settles O37: each clause by the rule of its event, on what shared operations leave of tiles, contexts and launches. -/
theorem trapsAborts : Obligations.TrapsAborts := ⟨delivers, aborts, smallWrites⟩

end Sys2Proof.Machine
end

section
/-! PROOFS. The events of the module as a whole: what lifetime counts, usage records and resets leave of the state, and from
it the statements on records, resets and memory after reset. -/

namespace Sys2Proof.Machine
open Sys2Proof.Claims

/-- Settles O58: both memories list nothing after reset (R21, R312). -/
theorem resetCanonical : Obligations.ResetCanonical := ⟨rfl, rfl⟩

/-! ## Energy of owners -/

theorem exec_energyAttribution (l : List (Nat × Nat)) (e : Nat) (s : State) :
    exec (.energyAttribution l e) s = execEnergyAttribution l e s := rfl
theorem exec_lifetimeFold (s : State) : exec .lifetimeFold s = execLifetimeFold s := rfl
theorem exec_scrubPass (s : State) : exec .scrubPass s = execScrubPass s := rfl
theorem exec_powerLoss (s : State) : exec .powerLoss s = .next s.erased := rfl

/-- A fold whose every round changes Keystone alone changes Keystone alone. -/
theorem State.foldl_ks {α : Type} {f : State → α → State} (hf : ∀ s x, f s x = { s with ks := (f s x).ks }) (l : List α)
    (s : State) : l.foldl f s = { s with ks := (l.foldl f s).ks } := by
  induction l generalizing s with
  | nil => rfl
  | cons x l ih => rw [List.foldl_cons, ih, hf]

/-- Energy that an owner has been charged (R299). -/
def State.energyOf (s : State) (o : Nat) : Nat := ((amGet s.ks.owners o).getD {}).energy

/-- An owner is charged its share of a measured energy. -/
def State.chargeEnergy (share : Nat × Nat → Nat) (s : State) (x : Nat × Nat) : State :=
  s.charge x.1 fun w => { w with energy := w.energy + share x }

theorem State.energyOf_chargeEnergy (share : Nat × Nat → Nat) (s : State) (x : Nat × Nat) (o : Nat) :
    (s.chargeEnergy share x).energyOf o = if o = x.1 then s.energyOf o + share x else s.energyOf o := by
  unfold State.energyOf State.chargeEnergy State.charge
  rw [State.modKs_ks, amGet_amSet]
  split
  · next e => rw [e]; rfl
  · rfl

theorem State.energyOf_charges_other (share : Nat × Nat → Nat) {l : List (Nat × Nat)} {o : Nat} (h : o ∉ l.map (·.1))
    (s : State) : (l.foldl (State.chargeEnergy share) s).energyOf o = s.energyOf o := by
  induction l generalizing s with
  | nil => rfl
  | cons x l ih =>
    rw [List.map_cons, List.mem_cons, not_or] at h
    rw [List.foldl_cons, ih h.2, State.energyOf_chargeEnergy, if_neg h.1]

/-- An owner that is listed once receives its share once. -/
theorem State.energyOf_charges {share : Nat × Nat → Nat} {l : List (Nat × Nat)} (hl : (l.map (·.1)).Nodup)
    {x : Nat × Nat} (hx : x ∈ l) (s : State) :
    (l.foldl (State.chargeEnergy share) s).energyOf x.1 = s.energyOf x.1 + share x := by
  induction l generalizing s with
  | nil => cases hx
  | cons y l ih =>
    rw [List.map_cons, List.nodup_cons] at hl
    rw [List.foldl_cons]
    rcases List.mem_cons.1 hx with rfl | hx
    · rw [State.energyOf_charges_other share hl.1, State.energyOf_chargeEnergy, if_pos rfl]
    · have hne : x.1 ≠ y.1 := fun e => hl.1 (e ▸ List.mem_map_of_mem hx)
      rw [ih hl.2 hx, State.energyOf_chargeEnergy, if_neg hne]

/-- The energy of an interval is divided in proportion to the counts (R299). -/
theorem energyDivided (l : List (Nat × Nat)) (e : Nat) (s : State) (hl : (l.map (·.1)).Nodup)
    (hsum : (l.map (·.2)).sum ≠ 0) :
    ∃ t, exec (.energyAttribution l e) s = .next t ∧ t = { s with ks := t.ks } ∧ ∀ x ∈ l, x.1 < 64 →
      ((amGet t.ks.owners x.1).getD {}).energy =
        ((amGet s.ks.owners x.1).getD {}).energy + e * x.2 / (l.map (·.2)).sum := by
  have hall : l.foldl (fun a x => a + x.2) 0 = (l.map (·.2)).sum := by
    rw [List.sum_eq_foldl, List.foldl_map]
  have hshare (x : Nat × Nat) : (if l.foldl (fun a x => a + x.2) 0 = 0 then 0 else e * x.2 / l.foldl (fun a x => a + x.2) 0) =
      e * x.2 / (l.map (·.2)).sum := by
    rw [hall, if_neg hsum]
  have hmem {x : Nat × Nat} (hx : x ∈ l) (h64 : x.1 < 64) : x ∈ l.filter fun x => decide (x.1 < 64) :=
    List.mem_filter.2 ⟨hx, decide_eq_true h64⟩
  refine ⟨_, exec_energyAttribution l e s, ?_, fun x hx h64 => ?_⟩
  · exact congrArg (State.modKs · _) (State.foldl_ks (fun _ _ => rfl) _ s)
  · have hnodup : ((l.filter fun x => decide (x.1 < 64)).map (·.1)).Nodup :=
      hl.sublist (List.filter_sublist.map _)
    exact (State.energyOf_charges hnodup (hmem hx h64) s).trans (congrArg _ (hshare x))

/-! ## Lifetime counts -/

theorem State.tally_ks (s : State) (cls f i n : Nat) : ∃ c, (s.tally cls f i n).ks =
    { s.ks with counts := amSet s.ks.counts (cls * 2 ^ 20 + f * 256 + i) c } := ⟨_, rfl⟩

@[simp] theorem State.field_tally (s : State) (cls f i n g : Nat) : (s.tally cls f i n).field g = s.field g := rfl

/-- Whole seconds at a clock step enter the counts: of the field, only the time up to which they are counted differs. -/
theorem State.field_foldStep (s : State) (f g : Nat) : ∃ r,
    (s.foldStep f).field g = { s.field g with resAt := r } := by
  unfold State.foldStep
  dsimp only
  split
  · exact ⟨_, rfl⟩
  · rw [State.field_setField]
    split
    · next e => exact ⟨_, by rw [e]⟩
    · exact ⟨_, rfl⟩

theorem State.foldStep_frame (s : State) (f : Nat) :
    s.foldStep f = { s with fields := (s.foldStep f).fields, ks := (s.foldStep f).ks } := by
  unfold State.foldStep
  dsimp only
  split <;> rfl

/-- Setting one key leaves the entries of every other, wherever they stand. -/
theorem filter_amSet_other {α : Type} (m : AMap α) {j k : Nat} (x : α) (h : j ≠ k) :
    (amSet m j x).filter (·.1 == k) = m.filter (·.1 == k) := by
  induction m with
  | nil => simp [amSet, h]
  | cons y m ih =>
    unfold amSet
    split
    · rw [List.filter_cons, List.filter_cons, ih]
    · split
      · next e => simp [h, e]
      · simp [h]

/-- One state is another whose counts of classes 3, 7 and 8, and the times up to which its fields' residency is counted, have
gone on. -/
structure Accrued (s t : State) : Prop where
  frame : t = { s with fields := t.fields, ks := t.ks }
  ks : t.ks = { s.ks with counts := t.ks.counts }
  step : ∀ f, (t.field f).step = (s.field f).step
  counts : ∀ k, k / 2 ^ 20 ≠ 3 → k / 2 ^ 20 ≠ 7 → k / 2 ^ 20 ≠ 8 →
    t.ks.counts.filter (·.1 == k) = s.ks.counts.filter (·.1 == k)

theorem Accrued.refl (s : State) : Accrued s s := ⟨rfl, rfl, fun _ => rfl, fun _ _ _ _ => rfl⟩

theorem Accrued.trans {s t u : State} (h : Accrued s t) (k : Accrued t u) : Accrued s u where
  frame := by rw [k.frame, h.frame]
  ks := by rw [k.ks, h.ks]
  step f := (k.step f).trans (h.step f)
  counts i h3 h7 h8 := (k.counts i h3 h7 h8).trans (h.counts i h3 h7 h8)

theorem Accrued.foldl {α : Type} {f : State → α → State} {l : List α} {s : State}
    (hf : ∀ t, Accrued s t → ∀ x ∈ l, Accrued t (f t x)) : Accrued s (l.foldl f s) :=
  List.foldlRecOn l f (Accrued.refl s) fun t ht x hx => ht.trans (hf t ht x hx)

/-- A count of class 3, 7 or 8. -/
theorem State.tally_accrued (s : State) {cls f i : Nat} (n : Nat) (hc : cls = 3 ∨ cls = 7 ∨ cls = 8) (hf : f < 84)
    (hi : i < 16) : Accrued s (s.tally cls f i n) where
  frame := rfl
  ks := rfl
  step _ := rfl
  counts k h3 h7 h8 := by
    obtain ⟨c, hks⟩ := s.tally_ks cls f i n
    rw [hks]
    refine filter_amSet_other _ _ fun e => ?_
    have hdiv : k / 2 ^ 20 = cls := by omega
    omega

theorem State.foldStep_accrued (s : State) {f : Nat} (hf : f < 84) (hs : (s.field f).step < 3) : Accrued s (s.foldStep f) := by
  have hstep (g : Nat) : ((s.foldStep f).field g).step = (s.field g).step := by
    obtain ⟨r, hr⟩ := s.field_foldStep f g
    rw [hr]
  have htally := fun n => s.tally_accrued (cls := 3) (i := (s.field f).step) n (.inl rfl) hf (by omega)
  refine ⟨s.foldStep_frame f, ?_, hstep, fun k h3 h7 h8 => ?_⟩
  · unfold State.foldStep
    dsimp only
    split <;> rfl
  · unfold State.foldStep
    dsimp only
    split
    · rfl
    · exact (htally _).counts k h3 h7 h8

/-- Counts of one monitor class of a field. -/
theorem State.tallies_accrued {cls f k : Nat} (hc : cls = 3 ∨ cls = 7 ∨ cls = 8) (hf : f < 84) (hk : k ≤ 16)
    (v : State → Nat → Nat) (s : State) :
    Accrued s ((List.range k).foldl (fun u i => u.tally cls f i (v u i)) s) :=
  .foldl fun t _ _ hi => t.tally_accrued _ hc hf (Nat.lt_of_lt_of_le (List.mem_range.1 hi) hk)

theorem State.foldMonitors_accrued (s : State) {f : Nat} (hf : f < 84) : Accrued s (s.foldMonitors f) := by
  unfold State.foldMonitors
  dsimp only
  exact (State.tallies_accrued (.inr (.inl rfl)) hf (by decide) _ s).trans
    (State.tallies_accrued (.inr (.inr rfl)) hf (by decide) _ _)

theorem mem_of_amGet {α : Type} {m : AMap α} {k : Nat} {x : α} (h : amGet m k = some x) : (k, x) ∈ m := by
  induction m with
  | nil => cases h
  | cons y m ih =>
    obtain ⟨j, z⟩ := y
    rw [amGet] at h
    split at h
    · next e => cases h; subst e; exact List.mem_cons_self ..
    · exact List.mem_cons_of_mem _ (ih h)

/-- A field that is not listed runs at step 0. -/
theorem State.step_lt {s : State} (hs : ∀ x ∈ s.fields, x.2.step < 3) (f : Nat) : (s.field f).step < 3 := by
  unfold State.field
  cases h : amGet s.fields f with
  | none => decide
  | some F => exact hs _ (mem_of_amGet h)

/-- The hour's readings of all fields enter the counts. -/
theorem State.hour_accrued {s : State} (hs : ∀ x ∈ s.fields, x.2.step < 3) :
    Accrued s ((List.range 84).foldl (fun (s : State) f => (s.foldStep f).foldMonitors f) s) :=
  .foldl fun t ht f hf => by
    have hf := List.mem_range.1 hf
    have hstep : (t.field f).step < 3 := ht.step f ▸ State.step_lt hs f
    exact (t.foldStep_accrued hf hstep).trans (State.foldMonitors_accrued _ hf)

/-- One working count folds into flash, with saturation. -/
def foldCount (m : AMap Nat) (x : Nat × Nat) : AMap Nat := amSet m x.1 (min (2 ^ 32 - 1) ((amGet m x.1).getD 0 + x.2))

theorem Keystone.fold_flash (k : Keystone) (now : Nat) : (k.fold now).flash = k.counts.foldl foldCount k.flash := rfl

theorem amGet_foldCounts_of_eq {l : List (Nat × Nat)} {m n : AMap Nat} {k : Nat} (h : amGet m k = amGet n k) :
    amGet (l.foldl foldCount m) k = amGet ((l.filter (·.1 == k)).foldl foldCount n) k := by
  induction l generalizing m n with
  | nil => exact h
  | cons x l ih =>
    rw [List.foldl_cons, List.filter_cons]
    by_cases hx : x.1 = k
    · rw [if_pos (beq_iff_eq.2 hx), List.foldl_cons]
      exact ih (by simp [foldCount, hx, h])
    · rw [if_neg (by simpa using hx)]
      exact ih (by simp [foldCount, Ne.symm hx, h])

/-- What a key holds in flash after a fold depends on the counts at that key alone. -/
theorem amGet_foldCounts (l : List (Nat × Nat)) (m : AMap Nat) (k : Nat) :
    amGet (l.foldl foldCount m) k = amGet ((l.filter (·.1 == k)).foldl foldCount m) k := amGet_foldCounts_of_eq rfl

theorem filter_key_of_nodup {l : AMap Nat} {k n : Nat} (hl : (l.map (·.1)).Nodup) (h : amGet l k = some n) :
    l.filter (·.1 == k) = [(k, n)] := by
  induction l with
  | nil => cases h
  | cons x l ih =>
    obtain ⟨j, m⟩ := x
    rw [List.map_cons, List.nodup_cons] at hl
    rw [amGet] at h
    split at h
    · next e =>
      subst e; cases h
      have hnil : l.filter (·.1 == j) = [] := by
        rw [List.filter_eq_nil_iff]
        intro x hx hxj
        exact hl.1 (List.mem_map.2 ⟨x, hx, beq_iff_eq.1 hxj⟩)
      rw [List.filter_cons, if_pos (beq_self_eq_true _), hnil]
    · next e => rw [List.filter_cons, if_neg (by simpa using e), ih hl.2 h]

/-- Every hour the counts fold into flash; the monitors' readings are free (R434, log 81). -/
theorem countsFold (s : State) (hdue : s.ks.foldAt + 3600000000000 ≤ s.wtime) (hl : (s.ks.counts.map (·.1)).Nodup)
    (hf : ∀ x ∈ s.fields, x.1 < 84 ∧ x.2.step < 3) :
    ∃ t, exec .lifetimeFold s = .next t ∧ t.ks.counts = [] ∧ t.ks.foldAt = s.wtime ∧
      t = { s with ks := t.ks, fields := t.fields, free := t.free } ∧ ∀ k n, amGet s.ks.counts k = some n →
        k / 2 ^ 20 ≠ 3 → k / 2 ^ 20 ≠ 7 → k / 2 ^ 20 ≠ 8 →
        amGet t.ks.flash k = some (min (2 ^ 32 - 1) ((amGet s.ks.flash k).getD 0 + n)) := by
  have hrun : exec .lifetimeFold s = .next (((List.range 84).foldl (fun (s : State) f => (s.foldStep f).foldMonitors f)
      s).drawn.modKs fun k => k.fold s.wtime) := by
    rw [exec_lifetimeFold, execLifetimeFold, if_pos hdue]
  have hacc := State.hour_accrued fun x hx => (hf x hx).2
  generalize (List.range 84).foldl (fun (s : State) f => (s.foldStep f).foldMonitors f) s = u at hrun hacc
  refine ⟨_, hrun, rfl, rfl, ?_, fun k n hk h3 h7 h8 => ?_⟩
  · rw [hacc.frame]; rfl
  · have hflash : (u.drawn.modKs fun k => k.fold s.wtime).ks.flash = u.ks.counts.foldl foldCount s.ks.flash := by
      rw [State.modKs_ks, Keystone.fold_flash, State.drawn_ks, hacc.ks]
    rw [hflash, amGet_foldCounts, hacc.counts k h3 h7 h8, filter_key_of_nodup hl hk]
    simp [foldCount]

/-- Poison that a scrub finds is counted; nothing that a program can see differs (R427). -/
theorem scrubPasses (s : State) (hdue : s.ks.scrubAt + 28800000000000 ≤ s.wtime) :
    ∃ t, exec .scrubPass s = .next t ∧ t.ks.scrubAt = s.wtime ∧ t = { s with ks := t.ks } := by
  have hrun : exec .scrubPass s = .next ((s.poison.foldl (fun u g => u.tally 1 (homeField (64 * g)) 10 1) s).modKs fun k =>
      { k with scrubAt := s.wtime }) := by
    rw [exec_scrubPass, execScrubPass, if_pos hdue]
  exact ⟨_, hrun, rfl, congrArg (State.modKs · _) (State.foldl_ks (fun _ _ => rfl) _ s)⟩

theorem records : Records := ⟨energyDivided, countsFold, scrubPasses⟩

/-! ## Reset and loss of power -/

/-- Nothing of memory, partitions, queues, operations in flight and time is left; host memory is not the module's (R21, R22). -/
theorem State.erased_clean (s : State) : s.erased.mem = [] ∧ s.erased.parts = [] ∧ s.erased.queues = [] ∧ s.erased.reqs = [] ∧
    s.erased.wtime = 0 ∧ s.erased.mode = .running ∧ s.erased.host = s.host :=
  ⟨rfl, rfl, rfl, rfl, Nat.zero_div _, rfl, rfl⟩

/-- Loss of power: the counts since the last fold are gone, and no leaf is taken (R22, R434). -/
theorem powerLost (s : State) : ∃ t, exec .powerLoss s = .next t ∧ t.mem = [] ∧ t.parts = [] ∧ t.queues = [] ∧ t.reqs = [] ∧
    t.wtime = 0 ∧ t.mode = .running ∧ t.host = s.host ∧ t.ks.bad = s.ks.bad ∧ t.ks.flash = s.ks.flash ∧
    t.ks.repairs = s.ks.repairs ∧ t.ks.leaf = s.ks.leaf ∧ t.ks.alias_ = none ∧ t.ks.counts = [] := by
  obtain ⟨hmem, hparts, hqueues, hreqs, htime, hmode, hhost⟩ := s.erased_clean
  exact ⟨_, exec_powerLoss s, hmem, hparts, hqueues, hreqs, htime, hmode, hhost, rfl, rfl, rfl, rfl, rfl, rfl⟩

/-- The certificate that a reset has signed takes the next leaf while leaves are left (R328). -/
def Keystone.signAlias (leaf : Nat) (k : Keystone) : Keystone :=
  if leaf < 1048576 then { k with leaf := leaf + 1, alias_ := some leaf } else k

theorem exec_moduleReset (s : State) : exec .moduleReset s =
    .next ((s.modKs fun k => k.fold s.wtime).erased.modKs (Keystone.signAlias s.ks.leaf)) := rfl

theorem Keystone.signAlias_frame (leaf : Nat) (k : Keystone) :
    k.signAlias leaf = { k with leaf := (k.signAlias leaf).leaf, alias_ := (k.signAlias leaf).alias_ } := by
  unfold Keystone.signAlias
  split <;> rfl

/-- A reset folds the counts first and takes the next signature leaf (R22, R328, R434). -/
theorem moduleResets (s : State) : ∃ t, exec .moduleReset s = .next t ∧ t.mem = [] ∧ t.parts = [] ∧ t.queues = [] ∧
    t.reqs = [] ∧ t.wtime = 0 ∧ t.mode = .running ∧ t.host = s.host ∧ t.ks.bad = s.ks.bad ∧
    t.ks.flash = (s.ks.fold s.wtime).flash ∧ t.ks.repairs = s.ks.repairs ∧ t.ks.counts = [] ∧
    (s.ks.leaf < 1048576 → t.ks.leaf = s.ks.leaf + 1 ∧ t.ks.alias_ = some s.ks.leaf) ∧
    (1048576 ≤ s.ks.leaf → t.ks.leaf = s.ks.leaf ∧ t.ks.alias_ = none) := by
  obtain ⟨hmem, hparts, hqueues, hreqs, htime, hmode, hhost⟩ := (s.modKs fun k => k.fold s.wtime).erased_clean
  have hks := Keystone.signAlias_frame s.ks.leaf (s.modKs fun k => k.fold s.wtime).erased.ks
  refine ⟨_, exec_moduleReset s, hmem, hparts, hqueues, hreqs, htime, hmode, hhost, ?_, ?_, ?_, ?_, fun hl => ?_, fun hl => ?_⟩
  · rw [State.modKs_ks, hks]; rfl
  · rw [State.modKs_ks, hks]; rfl
  · rw [State.modKs_ks, hks]; rfl
  · rw [State.modKs_ks, hks]; rfl
  · rw [State.modKs_ks, Keystone.signAlias, if_pos hl]; exact ⟨rfl, rfl⟩
  · rw [State.modKs_ks, Keystone.signAlias, if_neg (by omega)]; exact ⟨rfl, rfl⟩

/-- Settles O44: energy by shares of distinct owners, the fold by what the hour adds to the counts, resets by what
State.erased keeps. -/
theorem recordsAndReset : Obligations.RecordsAndReset := ⟨records, powerLost, moduleResets⟩

end Sys2Proof.Machine
end

section
/-! PROOFS. Clock steps, sensors, beacons, accuracy ticks and errors in shared structures: what a change of the clock step and
a stop of partitions leave of the state, and from it the statement on clocks and time. -/

namespace Sys2Proof.Machine
open Sys2Proof.Claims

theorem exec_clockStepDown (f : Nat) (temps : List Int) (s : State) :
    exec (.clockStepDown f temps) s = execClockStepDown f temps s := rfl
theorem exec_clockStepUp (f : Nat) (temps : List Int) (s : State) :
    exec (.clockStepUp f temps) s = execClockStepUp f temps s := rfl
theorem exec_clockStepDeferred (s : State) : exec .clockStepDeferred s = execClockStepDeferred s := rfl
theorem exec_clockHaltResume (s : State) : exec .clockHaltResume s = execClockHaltResume s := rfl
theorem exec_thermalStop (f : Nat) (temps : List Int) (s : State) :
    exec (.thermalStop f temps) s = execThermalStop f temps s := rfl
theorem exec_moduleFatal (c f : Nat) (s : State) : exec (.moduleFatal c f) s = execModuleFatal c f s := rfl
theorem exec_sensorDisagree (f i : Nat) (temps : List Int) (s : State) :
    exec (.sensorDisagree f i temps) s = execSensorDisagree f i temps s := rfl
theorem exec_timeBeacon (f : Nat) (skew : Int) (s : State) : exec (.timeBeacon f skew) s = execTimeBeacon f skew s := rfl
theorem exec_timeBeaconMissing (s : State) : exec .timeBeaconMissing s = execTimeBeaconMissing s := rfl
theorem exec_wtimeCounterMismatch (s : State) : exec .wtimeCounterMismatch s = execWtimeCounterMismatch s := rfl
theorem exec_accuracyTick (s : State) : exec .accuracyTick s = execAccuracyTick s := rfl
theorem exec_sharedStructureError (st : SharedStruct) (f u : Nat) (s : State) :
    exec (.sharedStructureError st f u) s = execSharedStructureError st f u s := rfl

/-! ## Changes of the clock step -/

theorem State.dueAt_pushAt (s : State) (p : Nat) (i : Instr) : DueAt (s.pushAt p 0 i) p i :=
  List.mem_append_right _ (List.mem_singleton.2 rfl)

theorem State.againAt_frame (s : State) (p g : Nat) (i : Instr) : s.againAt p g i = { s with due := (s.againAt p g i).due } := by
  unfold State.againAt
  split <;> rfl

@[simp] theorem State.field_againAt (s : State) (p g : Nat) (i : Instr) (f : Nat) : (s.againAt p g i).field f = s.field f := by
  rw [s.againAt_frame]; rfl

theorem State.dueAt_againAt (s : State) (p : Nat) (i : Instr) : DueAt (s.againAt p 0 i) p i := by
  unfold State.againAt
  split
  · next h => exact List.contains_iff_mem.1 h
  · exact s.dueAt_pushAt p i

/-- A time is not within `k` of one that stands in an option. -/
theorem any_lt_eq_false {o : Option Nat} {n k : Nat} (h : ¬ ∃ a, o = some a ∧ n < a + k) :
    (o.any fun t => decide (n < t + k)) = false := by
  cases o with
  | none => rfl
  | some a => exact decide_eq_false fun hlt => h ⟨a, rfl, hlt⟩

theorem State.field_setField_same (s : State) (f : Nat) (x : Field) : (s.setField f x).field f = x :=
  (s.field_setField f f x).trans (if_pos rfl)

theorem State.field_changeStep (s : State) (f step : Nat) : (s.changeStep f step).field f = { s.field f with
    cycBase := s.fcycle f, cycAt := s.now, step := (s.field f).stepFor step, lastStep := some s.wtime, pendStep := none
    halted := true, haltAt := s.wtime, coolSince := none, resAt := s.wtime } := by
  obtain ⟨r, hr⟩ := s.field_foldStep f f
  have hnow : (s.foldStep f).now = s.now := by rw [s.foldStep_frame]
  have hset (u : State) (x : Field) (st : Nat) :
      (((u.setField f x).tally 5 f st 1).pushAt f 0 .clockHaltResume).field f = x := u.field_setField_same f x
  unfold State.changeStep
  dsimp only
  rw [hset, State.fcycle, State.wtime, hr, hnow]
  rfl

theorem State.changeStep_frame (s : State) (f step : Nat) : s.changeStep f step = { s with
    fields := (s.changeStep f step).fields, ks := (s.changeStep f step).ks, due := (s.changeStep f step).due } := by
  unfold State.changeStep
  dsimp only
  rw [s.foldStep_frame f]
  rfl

/-- A change takes the step that the field's sensors allow (R19, R432). -/
theorem State.changeStep_stepped (s : State) (f step : Nat) :
    Stepped s (s.changeStep f step) f ((s.field f).stepFor step) := by
  unfold Stepped
  rw [s.field_changeStep]
  exact ⟨rfl, rfl, rfl, rfl, rfl, rfl, rfl, State.dueAt_pushAt _ f _, s.changeStep_frame f step⟩

/-- The field is not known to be cool. -/
def Field.warm (F : Field) : Field := { F with coolSince := none }

/-- A change of step in a field that has just become warm is one before it. -/
theorem Stepped.of_warm {s t : State} {f n : Nat} (h : Stepped (s.setField f (s.field f).warm) t f n) : Stepped s t f n := by
  have hcyc : (s.setField f (s.field f).warm).fcycle f = s.fcycle f := by
    rw [State.fcycle, s.field_setField_same]; rfl
  obtain ⟨hstep, hhalt, hat, hpend, hbase, hcycAt, hlast, hdue, hframe⟩ := h
  exact ⟨hstep, hhalt, hat, hpend, hbase.trans hcyc, hcycAt, hlast, hdue, hframe⟩

/-- A change of step is made where it does not come too early, or is demanded now (R19). -/
theorem State.askStep_of_late {s : State} {f : Nat} {now : Bool} (h : ¬ Early s f ∨ now = true) (step : Nat) :
    s.askStep f step now = s.changeStep f step := by
  rcases h with h | h
  · cases hl : (s.field f).lastStep with
    | none => simp [State.askStep, hl]
    | some a =>
      have ha : ¬ s.wtime < a + 1000000 := fun hlt => h ⟨a, hl, hlt⟩
      simp [State.askStep, hl, ha]
  · simp [State.askStep, h]

theorem State.askStep_of_early {s : State} {f : Nat} (h : Early s f) (step : Nat) :
    s.askStep f step false = (s.setField f { s.field f with pendStep := some step }).againAt f 0 .clockStepDeferred := by
  obtain ⟨a, hl, ha⟩ := h
  simp [State.askStep, hl, ha]

/-- A step asked for too early is pending, and its time is due (R19). -/
theorem State.askStep_pending {s : State} {f : Nat} (h : Early s f) (step : Nat) :
    (s.askStep f step false).field f = { s.field f with pendStep := some step } ∧
      DueAt (s.askStep f step false) f .clockStepDeferred ∧
      s.askStep f step false = { s with fields := (s.askStep f step false).fields, due := (s.askStep f step false).due } := by
  rw [State.askStep_of_early h]
  refine ⟨?_, State.dueAt_againAt _ _ _, ?_⟩
  · rw [State.field_againAt, State.field_setField_same]
  · rw [State.againAt_frame]; rfl

/-! ## Temperatures -/

theorem any_le_of_mem {l : List Int} {c : Int} (h : ∃ x ∈ l, c ≤ x) : (l.any fun t => decide (c ≤ t)) = true := by
  simpa using h

theorem any_le_of_lt {l : List Int} {c : Int} (h : ∀ x ∈ l, x < c) : (l.any fun t => decide (c ≤ t)) = false := by
  simpa using h

theorem early_warm (s : State) (f : Nat) : Early (s.setField f (s.field f).warm) f ↔ Early s f := by
  rw [Early, s.field_setField_same]
  exact Iff.rfl

theorem execClockStepDown_hot {f : Nat} {temps : List Int} {s : State} (hf : f < 84) (hs : (s.field f).step < 2)
    (hhot : ∃ x ∈ (s.field f).readings temps, 100 ≤ x) : exec (.clockStepDown f temps) s =
      .next ((s.setField f (s.field f).warm).askStep f ((s.field f).step + 1)
        (((s.field f).readings temps).any fun t => decide (110 ≤ t))) := by
  have h90 : ∃ x ∈ (s.field f).readings temps, 90 ≤ x := by
    obtain ⟨x, hx, h⟩ := hhot
    exact ⟨x, hx, by omega⟩
  rw [exec_clockStepDown, execClockStepDown, any_le_of_mem h90, any_le_of_mem hhot, if_neg (Nat.not_le.2 hf), decide_eq_true hs]
  rfl

/-- 100 °C asks for the next lower step: at once, or once the interval allows (R18, R19). -/
theorem clockStepsDown (f : Nat) (temps : List Int) (s : State) (hf : f < 84) (hs : (s.field f).step < 2)
    (hhot : ∃ x ∈ (s.field f).readings temps, 100 ≤ x) :
    ((¬ Early s f ∨ ∃ x ∈ (s.field f).readings temps, 110 ≤ x) → ∃ t, exec (.clockStepDown f temps) s = .next t ∧
      Stepped s t f (if 2 < (s.field f).badSensors.length then 2 else (s.field f).step + 1)) ∧
    (Early s f → (∀ x ∈ (s.field f).readings temps, x < 110) → ∃ t, exec (.clockStepDown f temps) s = .next t ∧
      (t.field f).pendStep = some ((s.field f).step + 1) ∧ (t.field f).step = (s.field f).step ∧
      DueAt t f .clockStepDeferred ∧ t = { s with fields := t.fields, due := t.due }) := by
  have hrun := execClockStepDown_hot hf hs hhot
  have hfield := s.field_setField_same f (s.field f).warm
  refine ⟨fun hnow => ?_, fun hearly hcool => ?_⟩
  · rw [State.askStep_of_late (hnow.imp (mt (early_warm s f).1) any_le_of_mem)] at hrun
    have hst := (s.setField f (s.field f).warm).changeStep_stepped f ((s.field f).step + 1)
    rw [hfield] at hst
    exact ⟨_, hrun, Stepped.of_warm hst⟩
  · rw [any_le_of_lt hcool] at hrun
    obtain ⟨hfin, hdue, hframe⟩ := State.askStep_pending ((early_warm s f).2 hearly) ((s.field f).step + 1)
    rw [hfield] at hfin
    exact ⟨_, hrun, by rw [hfin], by rw [hfin]; rfl, hdue, hframe⟩

/-- 50 ms below 90 °C raise the clock by one step (R18, R19, R432). -/
theorem clockStepsUp (f : Nat) (temps : List Int) (s : State) (hf : f < 84)
    (hcool : ∀ x ∈ (s.field f).readings temps, x < 90) :
    ((s.field f).coolSince = none → ∃ t, exec (.clockStepUp f temps) s = .next t ∧
      (t.field f).coolSince = some s.wtime ∧ (t.field f).step = (s.field f).step) ∧
    (∀ a, (s.field f).coolSince = some a → a + 50000000 ≤ s.wtime → (s.field f).step ≠ 0 →
      (s.field f).badSensors.length ≤ 2 → ¬ Early s f →
      ∃ t, exec (.clockStepUp f temps) s = .next t ∧ Stepped s t f ((s.field f).step - 1)) := by
  have hno90 := any_le_of_lt hcool
  have hf' : ¬ 84 ≤ f := Nat.not_le.2 hf
  refine ⟨fun hnone => ?_, fun a hsome hlong hstep hbad hlate => ?_⟩
  · have hrun : exec (.clockStepUp f temps) s = .next (s.setField f { s.field f with coolSince := some s.wtime }) := by
      rw [exec_clockStepUp, execClockStepUp, hno90, if_neg hf', if_neg Bool.false_ne_true, hnone]
    refine ⟨_, hrun, ?_⟩
    rw [s.field_setField_same]
    exact ⟨rfl, rfl⟩
  · have hgo : (decide (a + 50000000 ≤ s.wtime) && decide ((s.field f).step ≠ 0) &&
        decide (2 ≤ 4 - (s.field f).badSensors.length)) = true := by
      rw [decide_eq_true hlong, decide_eq_true hstep, decide_eq_true (by omega)]; rfl
    have hrun : exec (.clockStepUp f temps) s = .next (s.changeStep f ((s.field f).step - 1)) := by
      rw [exec_clockStepUp, execClockStepUp, hno90, if_neg hf', if_neg Bool.false_ne_true, hsome]
      dsimp only
      rw [if_pos hgo, State.askStep_of_late (.inl hlate)]
    have hfor : (s.field f).stepFor ((s.field f).step - 1) = (s.field f).step - 1 := if_neg (by omega)
    have hst := s.changeStep_stepped f ((s.field f).step - 1)
    rw [hfor] at hst
    exact ⟨_, hrun, hst⟩

/-- A change that waited is made once the interval allows (R19). -/
theorem clockStepDefers (s : State) (n : Nat) (hn : (s.field s.cur.tile).pendStep = some n) (hlate : ¬ Early s s.cur.tile) :
    ∃ t, exec .clockStepDeferred s = .next t ∧
      Stepped s t s.cur.tile (if 2 < (s.field s.cur.tile).badSensors.length then 2 else n) := by
  refine ⟨_, ?_, s.changeStep_stepped s.cur.tile n⟩
  rw [exec_clockStepDeferred, execClockStepDeferred, hn]
  dsimp only
  rw [any_lt_eq_false hlate, if_neg Bool.false_ne_true]

/-- Issue resumes after a change (R19). -/
theorem clockHaltResumes (s : State) (h : (s.field s.cur.tile).halted = true) : ∃ t, exec .clockHaltResume s = .next t ∧
    t = { s with fields := t.fields } ∧ t.field s.cur.tile = { s.field s.cur.tile with halted := false } := by
  refine ⟨s.setField s.cur.tile { s.field s.cur.tile with halted := false }, ?_, rfl, ?_⟩
  · rw [exec_clockHaltResume, execClockHaltResume, if_pos h]
  · rw [s.field_setField_same]

theorem clockSteps : ClockSteps := ⟨clockStepsDown, clockStepsUp, clockStepDefers, clockHaltResumes⟩

/-! ## The module stops -/

/-- A link reports through AER. -/
def State.raiseAer (s : State) (h : Nat) : State := s.setLink h { s.link h with aer := true }

theorem State.aer_raiseAers (l : List Nat) (s : State) (j : Nat) :
    ((l.foldl State.raiseAer s).link j).aer = (decide (j ∈ l) || (s.link j).aer) := by
  induction l generalizing s with
  | nil => simp
  | cons h l ih =>
    rw [List.foldl_cons, ih, State.raiseAer, State.link_setLink]
    by_cases hj : j = h <;> simp [hj]

theorem State.raiseAers_frame (l : List Nat) (s : State) :
    l.foldl State.raiseAer s = { s with links := (l.foldl State.raiseAer s).links } := by
  induction l generalizing s with
  | nil => rfl
  | cons h l ih => rw [List.foldl_cons, ih]; rfl

/-- Memory, tiles and partitions are as they were when the module has stopped (R433, R435). -/
theorem State.fatal_halted (s : State) (c f : Nat) : Halted s (s.fatal c f) c f := by
  have hframe := State.raiseAers_frame (List.range 4)
    ((s.tally 6 f c 1).modKs fun k => { k with fatalRec := some (c, f, (s.tally 6 f c 1).wtime) }.fold (s.tally 6 f c 1).wtime)
  have hks : (s.fatal c f).ks =
      { (s.tally 6 f c 1).ks with fatalRec := some (c, f, s.wtime) }.fold s.wtime := congrArg State.ks hframe
  refine ⟨rfl, ?_, ?_, fun h hh => ?_, ?_⟩
  · rw [hks]; rfl
  · rw [hks]; rfl
  · refine (State.aer_raiseAers (List.range 4) _ h).trans ?_
    rw [decide_eq_true (List.mem_range.2 hh)]; rfl
  · exact congrArg (fun u : State => { u with mode := .fatal c f }) hframe

/-- 115 °C in a field at step 2 (R20). -/
theorem thermalStops (f : Nat) (temps : List Int) (s : State) (hs : (s.field f).step = 2)
    (hhot : ∃ x ∈ (s.field f).readings temps, 115 ≤ x) (hm : s.mode = .running) :
    ∃ t, exec (.thermalStop f temps) s = .next t ∧ Halted s t 2 f := by
  refine ⟨_, ?_, s.fatal_halted 2 f⟩
  rw [exec_thermalStop, execThermalStop, any_le_of_mem hhot, decide_eq_true hs, hm]
  rfl

/-- The module's own fatal errors (R433). -/
theorem moduleFatals (c f : Nat) (s : State) (h1 : 1 ≤ c) (h3 : c ≤ 3) (hm : s.mode = .running) :
    ∃ t, exec (.moduleFatal c f) s = .next t ∧ Halted s t c f := by
  refine ⟨_, ?_, s.fatal_halted c f⟩
  rw [exec_moduleFatal, execModuleFatal, decide_eq_true h1, decide_eq_true h3, hm]
  rfl

/-! ## Sensors -/

/-- Readings of the sensors other than one. -/
def otherReadings (temps : List Int) (i : Nat) : List Int :=
  ((List.range 4).filter (· != i)).filterMap fun j => temps[j]?

/-- Of four readings, a sensor has one and the others three. -/
theorem four_readings (a b c d : Int) {i : Nat} (hi : i < 4) :
    [a, b, c, d][i]? = some ([a, b, c, d].getD i 0) ∧ (otherReadings [a, b, c, d] i).length = 3 := by
  interval_cases i <;> exact ⟨rfl, rfl⟩

/-- The field of a sensor that is ignored from now on (R432). -/
def State.ignoreSensor (s : State) (f i : Nat) : State :=
  (s.setField f { s.field f with
    badSensors := (s.field f).badSensors ++ [i], offSince := amDel (s.field f).offSince i }).tally 5 f 3 1

/-- A sensor in use agrees with the others, or has disagreed for long enough. -/
theorem execSensorDisagree_in_use {f i : Nat} {temps : List Int} {s : State} {t : Int} (hf : f < 84) (hi : i < 4)
    (ht : temps[i]? = some t) (ho : (otherReadings temps i).length = 3) (hb : i ∉ (s.field f).badSensors) :
    ((t - median (otherReadings temps i)).natAbs ≤ 15 → exec (.sensorDisagree f i temps) s =
      .next (s.setField f { s.field f with offSince := amDel (s.field f).offSince i })) ∧
    (∀ a, 15 < (t - median (otherReadings temps i)).natAbs → amGet (s.field f).offSince i = some a → a + 10000000 ≤ s.wtime →
      exec (.sensorDisagree f i temps) s =
        .next (if 2 < (s.field f).badSensors.length + 1 && (s.field f).step ≠ 2 then (s.ignoreSensor f i).askStep f 2 false
          else s.ignoreSensor f i)) := by
  have hguard : (decide (84 ≤ f) || decide (4 ≤ i) || decide ((otherReadings temps i).length ≠ 3) ||
      (s.field f).badSensors.contains i) = false := by
    simp [hb, ho, hf, hi]
  have hrun := exec_sensorDisagree f i temps s
  unfold otherReadings at hguard ⊢
  rw [execSensorDisagree, ht] at hrun
  dsimp only at hrun
  rw [hguard, if_neg Bool.false_ne_true] at hrun
  refine ⟨fun hnear => ?_, fun a hfar hsince hlong => ?_⟩
  · rw [hrun, if_pos hnear]
  · rw [if_neg (Nat.not_le.2 hfar), hsince] at hrun
    dsimp only at hrun
    rw [hrun, if_neg (Nat.not_lt.2 hlong), State.ignoreSensor]

theorem Field.stepFor_two (F : Field) : F.stepFor 2 = 2 := by
  unfold Field.stepFor
  split <;> rfl

/-- Asking for a step ignores no further sensor. -/
theorem State.badSensors_askStep (s : State) (f step : Nat) :
    ((s.askStep f step false).field f).badSensors = (s.field f).badSensors := by
  by_cases h : Early s f
  · rw [(State.askStep_pending h step).1]
  · rw [State.askStep_of_late (.inl h), s.field_changeStep]

theorem State.field_ignoreSensor (s : State) (f i : Nat) : (s.ignoreSensor f i).field f = { s.field f with
    badSensors := (s.field f).badSensors ++ [i], offSince := amDel (s.field f).offSince i } :=
  s.field_setField_same f _

theorem early_ignoreSensor (s : State) (f i : Nat) : Early (s.ignoreSensor f i) f ↔ Early s f := by
  rw [Early, s.field_ignoreSensor]
  exact Iff.rfl

/-- A sensor that agrees again is no longer watched; one that has disagreed for 10 ms is ignored, and a field with fewer than two
left asks for step 2 (R432). -/
theorem sensorDisagrees (f i : Nat) (a b c d : Int) (since : Nat) (s : State) (hf : f < 84) (hi : i < 4)
    (hb : i ∉ (s.field f).badSensors) :
    (([a, b, c, d].getD i 0 - median (otherReadings [a, b, c, d] i)).natAbs ≤ 15 →
      ∃ t, exec (.sensorDisagree f i [a, b, c, d]) s = .next t ∧ (t.field f).badSensors = (s.field f).badSensors ∧
        amGet (t.field f).offSince i = none) ∧
    (15 < ([a, b, c, d].getD i 0 - median (otherReadings [a, b, c, d] i)).natAbs → amGet (s.field f).offSince i = some since →
      since + 10000000 ≤ s.wtime →
      ∃ t, exec (.sensorDisagree f i [a, b, c, d]) s = .next t ∧ (t.field f).badSensors = (s.field f).badSensors ++ [i] ∧
        (2 ≤ (s.field f).badSensors.length → ((s.field f).step = 2 ∨ ¬ Early s f) → (t.field f).step = 2) ∧
        (2 ≤ (s.field f).badSensors.length → (s.field f).step ≠ 2 → Early s f →
          (t.field f).step = (s.field f).step ∧ (t.field f).pendStep = some 2 ∧ DueAt t f .clockStepDeferred) ∧
        ((s.field f).badSensors.length < 2 → (t.field f).step = (s.field f).step)) := by
  obtain ⟨ht, ho⟩ := four_readings a b c d hi
  obtain ⟨hagrees, hignored⟩ := execSensorDisagree_in_use hf hi ht ho hb
  refine ⟨fun hnear => ?_, fun hfar hsince hlong => ?_⟩
  · refine ⟨_, hagrees hnear, ?_, ?_⟩ <;> rw [s.field_setField_same]
    rw [amGet_amDel, if_pos rfl]
  · have hrun := hignored since hfar hsince hlong
    have hfield := s.field_ignoreSensor f i
    by_cases hask : 2 ≤ (s.field f).badSensors.length ∧ (s.field f).step ≠ 2
    · obtain ⟨hfew, hstep⟩ := hask
      rw [if_pos (by rw [decide_eq_true (by omega), decide_eq_true hstep]; rfl)] at hrun
      refine ⟨(s.ignoreSensor f i).askStep f 2 false, hrun, ?_, fun _ hor => ?_, fun _ _ hearly => ?_, fun h => by omega⟩
      · rw [State.badSensors_askStep, hfield]
      · have hlate := mt (early_ignoreSensor s f i).1 (hor.resolve_left hstep)
        rw [State.askStep_of_late (.inl hlate), State.field_changeStep]
        exact Field.stepFor_two _
      · obtain ⟨hfin, hdue, _⟩ := State.askStep_pending ((early_ignoreSensor s f i).2 hearly) 2
        rw [hfin, hfield]
        exact ⟨rfl, rfl, hdue⟩
    · have hno : (decide (2 < (s.field f).badSensors.length + 1) && decide ((s.field f).step ≠ 2)) = false := by
        rw [← Bool.not_eq_true, Bool.and_eq_true, decide_eq_true_eq, decide_eq_true_eq]
        exact fun ⟨h1, h2⟩ => hask ⟨by omega, h2⟩
      rw [hno, if_neg Bool.false_ne_true] at hrun
      refine ⟨s.ignoreSensor f i, hrun, ?_, fun hfew _ => ?_, fun hfew hstep => absurd ⟨hfew, hstep⟩ hask, fun _ => ?_⟩
      · rw [hfield]
      · rw [hfield]
        exact Decidable.not_not.1 fun hstep => hask ⟨hfew, hstep⟩
      · rw [hfield]

theorem sensors : Sensors := ⟨thermalStops, moduleFatals, sensorDisagrees⟩

/-! ## Partitions that are stopped -/

/-- One state is another to which event records were posted and steps due were added: its partitions stand, and those that were
stopped are. -/
structure Notified (s t : State) : Prop where
  frame : t = { s with mem := t.mem, writes := t.writes, host := t.host, parts := t.parts, links := t.links, due := t.due }
  part : ∀ g P, s.part g = some P → ∃ Q, t.part g = some Q ∧ (P.heldStop = true → Q.heldStop = true) ∧
    (P.resetDue = true → Q.resetDue = true)
  due : ∀ i, DueEv s i → DueEv t i

theorem Notified.of_parts {s t : State} (hp : t.parts = s.parts) (hd : ∀ i, DueEv s i → DueEv t i)
    (hf : t = { s with mem := t.mem, writes := t.writes, host := t.host, parts := t.parts, links := t.links, due := t.due }) :
    Notified s t :=
  ⟨hf, fun _ P h => ⟨P, (congrArg (amGet · _) hp).trans h, id, id⟩, hd⟩

theorem Notified.refl (s : State) : Notified s s := .of_parts rfl (fun _ h => h) rfl

theorem Notified.trans {s t u : State} (h : Notified s t) (k : Notified t u) : Notified s u where
  frame := by rw [k.frame, h.frame]
  part g P hP := by
    obtain ⟨Q, hQ, hheld, hreset⟩ := h.part g P hP
    obtain ⟨R, hR, hheld', hreset'⟩ := k.part g Q hQ
    exact ⟨R, hR, fun e => hheld' (hheld e), fun e => hreset' (hreset e)⟩
  due i hi := k.due i (h.due i hi)

theorem Notified.foldl {α : Type} {f : State → α → State} (hf : ∀ s x, Notified s (f s x)) (l : List α) (s : State) :
    Notified s (l.foldl f s) :=
  List.foldlRecOn l f (Notified.refl s) fun t ht x _ => ht.trans (hf t x)

theorem DueGrows.notified {s t : State} (h : DueGrows s t) : Notified s t :=
  .of_parts (by rw [h.frame]) h.keeps (by rw [h.frame])

theorem State.modPart_notified (s : State) (tag : Nat) {f : Part → Part}
    (hheld : ∀ P, P.heldStop = true → (f P).heldStop = true) (hreset : ∀ P, P.resetDue = true → (f P).resetDue = true) :
    Notified s (s.modPart tag f) where
  frame := by rw [s.modPart_frame]
  part g P hP := by
    rw [s.part_modPart]
    split
    · next e => rw [← e, hP]; exact ⟨_, rfl, hheld P, hreset P⟩
    · exact ⟨P, hP, id, id⟩
  due i hi := by rw [s.modPart_frame]; exact hi

theorem State.modCtx_notified (s : State) (tag ctx : Nat) (f : Ctx → Ctx) : Notified s (s.modCtx tag ctx f) := by
  refine s.modPart_notified tag (fun P hP => ?_) fun P hP => ?_ <;> split <;> exact hP

theorem State.raiseVector_notified (s : State) (tag vec : Nat) : Notified s (s.raiseVector tag vec) := by
  unfold State.raiseVector
  split
  · split
    · exact .refl s
    · split
      · exact s.modPart_notified tag (fun _ => id) fun _ => id
      · exact .of_parts rfl (fun _ h => h) rfl
  · exact .refl s

theorem State.putMem_notified (s : State) (pa n v : Nat) : Notified s (s.putMem pa n v) :=
  (Notified.of_parts rfl (fun _ h => h) rfl : Notified s ((s.setMem (Memory.write s.mem pa n v)).noteWords pa n)).trans
    (State.report_grows _).notified

/-- A write of the device to plinth or host memory. -/
theorem State.devMemWrite_notified (s : State) (c : Option Ctx) {pa : Nat} (n v : Nat)
    (h : regionOf pa = .plinth ∨ ∃ t off, regionOf pa = .host t off) : Notified s (s.devMemWrite c pa n v) := by
  unfold State.devMemWrite
  rcases h with h | ⟨t, off, h⟩ <;> rw [h]
  · exact s.putMem_notified pa n v
  · exact .of_parts rfl (fun _ h => h) rfl

/-- The ring of a context moves on by a record, and its vector is raised under IRQEN. -/
def State.ringAdvanced (s : State) (tag ctx : Nat) (c : Ctx) : State :=
  let u := s.modCtx tag ctx fun c => { c with evprod := (c.evprod + 1) % 2 ^ 32 }
  if c.irqen then u.raiseVector tag c.vec else u

/-- A record is not wanted, lost and counted, or written to plinth or host memory (R322, log 107). -/
theorem State.post_cases (s : State) (tag ctx : Nat) (e : EvRec) :
    s.post tag ctx e = s ∨
    s.post tag ctx e = s.modCtx tag ctx (fun c => { c with evlost := (c.evlost + 1) % 2 ^ 32 }) ∨
    ∃ c pa v, (regionOf pa = .plinth ∨ ∃ t off, regionOf pa = .host t off) ∧
      s.post tag ctx e = (s.devMemWrite (some c) pa 32 v).ringAdvanced tag ctx c := by
  unfold State.post
  split
  · exact .inl rfl
  · next c _ =>
    dsimp only
    split
    · exact .inl rfl
    · split
      · exact .inr (.inl rfl)
      · split
        · exact .inr (.inl rfl)
        · next pa _ =>
          cases hr : regionOf pa with
          | plinth => exact .inr (.inr ⟨c, pa, _, .inl hr, rfl⟩)
          | host t off => exact .inr (.inr ⟨c, pa, _, .inr ⟨t, off, hr⟩, rfl⟩)
          | device t off => exact .inr (.inl rfl)
          | peer t w off => exact .inr (.inl rfl)
          | reserved => exact .inr (.inl rfl)

theorem State.ringAdvanced_notified (s : State) (tag ctx : Nat) (c : Ctx) : Notified s (s.ringAdvanced tag ctx c) := by
  unfold State.ringAdvanced
  dsimp only
  split
  · exact (s.modCtx_notified tag ctx _).trans (State.raiseVector_notified _ tag c.vec)
  · exact s.modCtx_notified tag ctx _

theorem State.post_notified (s : State) (tag ctx : Nat) (e : EvRec) : Notified s (s.post tag ctx e) := by
  rcases s.post_cases tag ctx e with h | h | ⟨c, pa, v, hr, h⟩ <;> rw [h]
  · exact .refl s
  · exact s.modCtx_notified tag ctx _
  · exact (s.devMemWrite_notified (some c) 32 v hr).trans (State.ringAdvanced_notified _ tag ctx c)

theorem State.postStop_notified (s : State) (tag info : Nat) : Notified s (s.postStop tag info) := by
  unfold State.postStop State.postAll
  split
  · refine Notified.foldl (fun t x => ?_) _ s
    exact t.post_notified tag _ _
  · exact .refl s

/-- A partition is stopped, and its reset is due (R378, R394). -/
def StopsPart (t : State) (g : Nat) : Prop :=
  ∃ Q, t.part g = some Q ∧ Q.heldStop = true ∧ Q.resetDue = true ∧ DueEv t (.partitionReset g)

theorem StopsPart.notified {s t : State} {g : Nat} (h : StopsPart s g) (k : Notified s t) : StopsPart t g := by
  obtain ⟨P, hP, hheld, hreset, hdue⟩ := h
  obtain ⟨Q, hQ, hheld', hreset'⟩ := k.part g P hP
  exact ⟨Q, hQ, hheld' hheld, hreset' hreset, k.due _ hdue⟩

theorem StopsPart.of_parts {s t : State} {g : Nat} (h : StopsPart s g) (hp : t.parts = s.parts)
    (hd : ∀ i, DueEv s i → DueEv t i) : StopsPart t g := by
  obtain ⟨P, hP, hheld, hreset, hdue⟩ := h
  exact ⟨P, (congrArg (amGet · _) hp).trans hP, hheld, hreset, hd _ hdue⟩

/-- One partition stops at once, is told so, and its reset is due. -/
def State.stopPart (info : Nat) (s : State) (g : Nat) : State :=
  ((s.modPart g fun P => { P with heldStop := true, resetDue := true }).postStop g info).again (.partitionReset g)

theorem State.stopParts_eq (s : State) (tags : List Nat) (info : Nat) :
    s.stopParts tags info = tags.foldl (State.stopPart info) s := rfl

theorem State.stopPart_notified (info : Nat) (s : State) (g : Nat) : Notified s (s.stopPart info g) :=
  ((s.modPart_notified g (fun _ _ => rfl) fun _ _ => rfl).trans (State.postStop_notified _ g info)).trans
    (State.again_grows _ _).notified

theorem State.stopPart_stops (info : Nat) {s : State} {g : Nat} {P : Part} (h : s.part g = some P) :
    StopsPart (s.stopPart info g) g := by
  have hmod : (s.modPart g fun P => { P with heldStop := true, resetDue := true }).part g =
      some { P with heldStop := true, resetDue := true } := by
    rw [s.part_modPart, if_pos rfl, h]; rfl
  have hgrow := State.again_grows ((s.modPart g fun P => { P with heldStop := true, resetDue := true }).postStop g info)
    (.partitionReset g)
  obtain ⟨Q, hQ, hheld, hreset⟩ := ((State.postStop_notified _ g info).trans hgrow.notified).part g _ hmod
  exact ⟨Q, hQ, hheld rfl, hreset rfl, State.dueEv_again _ _⟩

theorem State.stopParts_notified (s : State) (tags : List Nat) (info : Nat) : Notified s (s.stopParts tags info) :=
  .foldl (State.stopPart_notified info) tags s

/-- Every partition of a list that exists is stopped. -/
theorem State.stopParts_stops {s : State} {tags : List Nat} {g : Nat} {P : Part} (info : Nat) (hg : g ∈ tags)
    (hP : s.part g = some P) : StopsPart (s.stopParts tags info) g := by
  rw [State.stopParts_eq]
  induction tags generalizing s P with
  | nil => cases hg
  | cons x tags ih =>
    rw [List.foldl_cons]
    rcases List.mem_cons.1 hg with rfl | hg
    · exact (State.stopPart_stops info hP).notified (.foldl (State.stopPart_notified info) tags _)
    · obtain ⟨Q, hQ, _⟩ := (State.stopPart_notified info s x).part g P hP
      exact ih hg hQ

theorem Notified.ks {s t : State} (h : Notified s t) : t.ks = s.ks := by rw [h.frame]

theorem Notified.wtime {s t : State} (h : Notified s t) : t.wtime = s.wtime := by
  rw [h.frame]; rfl

theorem Notified.field {s t : State} (h : Notified s t) (f : Nat) : t.field f = s.field f := by
  rw [h.frame]; rfl

/-! ## Time beacons -/

theorem State.field_retireField (s : State) (f : Nat) : (s.retireField f).field f = { s.field f with retired := true } :=
  s.field_setField_same f _

theorem StopsPart.retireField {s : State} {g : Nat} (h : StopsPart s g) (f : Nat) : StopsPart (s.retireField f) g :=
  h.of_parts rfl (State.push_grows _ _).keeps

/-- What a stop makes of a field that has not stopped before. -/
theorem State.stopField_running {s : State} {f : Nat} (h : (s.field f).stopped = false) : s.stopField f =
    (((s.setField f { s.field f with stopped := true }).tally 6 f 8 1).stopParts (s.fieldParts f) 0).retireField f := by
  unfold State.stopField
  rw [h]
  rfl

/-- A field that stops is retired, with its skew as measured. -/
theorem State.field_stopField {s : State} {f : Nat} (h : (s.field f).stopped = false) :
    (s.stopField f).field f = { s.field f with stopped := true, retired := true } := by
  rw [State.stopField_running h, State.field_retireField, (State.stopParts_notified _ _ 0).field, State.field_tally,
    s.field_setField_same]

theorem State.stopped_stopField (s : State) (f : Nat) :
    ((s.stopField f).field f).stopped = true ∧ ((s.stopField f).field f).skew = (s.field f).skew := by
  cases h : (s.field f).stopped with
  | false => rw [State.field_stopField h]; exact ⟨rfl, rfl⟩
  | true =>
    have hid : s.stopField f = s := if_pos h
    rw [hid]
    exact ⟨h, rfl⟩

/-- Every partition with a tile or a grain in a field that stops is stopped (R378). -/
theorem State.stopField_stops {s : State} {f g : Nat} {P : Part} (h : (s.field f).stopped = false) (hg : g ∈ s.fieldParts f)
    (hP : s.part g = some P) : StopsPart (s.stopField f) g := by
  rw [State.stopField_running h]
  have hP' : ((s.setField f { s.field f with stopped := true }).tally 6 f 8 1).part g = some P := hP
  exact (State.stopParts_stops 0 hg hP').retireField f

/-- A field after a beacon that measures a skew. -/
def Field.beaconed (F : Field) (skew : Int) (hold : Bool) (wtime : Nat) : Field :=
  { F with skew := skew, hold := hold, beacon := wtime, wtHalt := false }

/-- A listed tile, its L1 empty where it lies in a field. -/
def clearL1 (f : Nat) (x : Nat × Tile) : Nat × Tile := (x.1, if fieldOf x.1 = f then { x.2 with l1 := [] } else x.2)

/-- The L1s of a field's tiles are emptied. -/
def State.emptyL1s (s : State) (f : Nat) : State := { s with tiles := s.tiles.map (clearL1 f) }

/-- A beacon by its class: a stop, an entry into skew hold, or neither. -/
theorem execTimeBeacon_class {f : Nat} {skew : Int} {s : State} {hold : Bool} (hf : f < 84)
    (hh : (if (s.field f).hold then decide (1 < skew.natAbs) else decide (2 < skew.natAbs)) = hold) :
    exec (.timeBeacon f skew) s =
      let u := s.setField f ((s.field f).beaconed skew (hold && decide (skew.natAbs ≤ 64)) s.wtime)
      if 64 < skew.natAbs then .next (u.stopField f)
      else if hold && !(s.field f).hold then
        .next ((u.emptyL1s f).tally 6 f 7 1)
      else .next u := by
  rw [exec_timeBeacon, execTimeBeacon, if_neg (Nat.not_le.2 hf), ← hh]
  rfl

theorem State.l1_emptyL1s {s : State} {f x : Nat} (hx : fieldOf x = f) : ((s.emptyL1s f).tile x).l1 = [] := by
  unfold State.tile State.emptyL1s
  rw [amGet_map_keys _ (clearL1 f) fun _ => rfl]
  cases amGet s.tiles x with
  | none =>
    have hreset : (tileReset x).l1 = [] := by
      unfold tileReset
      split <;> rfl
    exact hreset
  | some T => simp [clearL1, hx]

/-- The three classes of skew (R378, R379). -/
theorem timeBeacons (f : Nat) (skew : Int) (s : State) (hf : f < 84) :
    (skew.natAbs ≤ (if (s.field f).hold then 1 else 2) → ∃ t, exec (.timeBeacon f skew) s = .next t ∧
      t = { s with fields := t.fields } ∧
      t.field f = { s.field f with skew := skew, hold := false, beacon := s.wtime, wtHalt := false }) ∧
    (2 < skew.natAbs → skew.natAbs ≤ 64 → (s.field f).hold = false → ∃ t, exec (.timeBeacon f skew) s = .next t ∧
      t.field f = { s.field f with skew := skew, hold := true, beacon := s.wtime, wtHalt := false } ∧ t.mem = s.mem ∧
      ∀ x, fieldOf x = f → (t.tile x).l1 = []) ∧
    (64 < skew.natAbs → ∃ t, exec (.timeBeacon f skew) s = .next t ∧ (t.field f).stopped = true ∧
      (t.field f).skew = skew) := by
  refine ⟨fun hn => ?_, fun hlow hhigh hold => ?_, fun hbig => ?_⟩
  · have hh : (if (s.field f).hold then decide (1 < skew.natAbs) else decide (2 < skew.natAbs)) = false := by
      split at hn
      · next h => rw [if_pos h]; exact decide_eq_false (by omega)
      · next h => rw [if_neg h]; exact decide_eq_false (by omega)
    have h64 : ¬ 64 < skew.natAbs := by split at hn <;> omega
    have hrun := execTimeBeacon_class hf hh
    dsimp only at hrun
    rw [if_neg h64, Bool.false_and, Bool.false_and, if_neg Bool.false_ne_true] at hrun
    exact ⟨_, hrun, rfl, s.field_setField_same f _⟩
  · have hh : (if (s.field f).hold then decide (1 < skew.natAbs) else decide (2 < skew.natAbs)) = true := by
      rw [hold, if_neg Bool.false_ne_true, decide_eq_true hlow]
    have hrun := execTimeBeacon_class hf hh
    dsimp only at hrun
    rw [if_neg (Nat.not_lt.2 hhigh), decide_eq_true hhigh, hold, Bool.true_and, Bool.true_and, Bool.not_false, if_pos rfl]
      at hrun
    exact ⟨_, hrun, s.field_setField_same f _, rfl, fun x hx => State.l1_emptyL1s hx⟩
  · have hrun := execTimeBeacon_class hf (s := s) (skew := skew) rfl
    dsimp only at hrun
    rw [if_pos hbig] at hrun
    obtain ⟨hstop, hskew⟩ := State.stopped_stopField
      (s.setField f ((s.field f).beaconed skew ((if (s.field f).hold then decide (1 < skew.natAbs) else decide (2 < skew.natAbs)) &&
        decide (skew.natAbs ≤ 64)) s.wtime)) f
    rw [s.field_setField_same] at hskew
    exact ⟨_, hrun, hstop, hskew⟩

/-- No beacon for 100 µs stops the field and its partitions (R378). -/
theorem beaconMissing (s : State) (hf : s.cur.tile < 84) (hlate : (s.field s.cur.tile).beacon + 100000 ≤ s.wtime) :
    ∃ t, exec .timeBeaconMissing s = .next t ∧ (t.field s.cur.tile).stopped = true ∧ ((s.field s.cur.tile).stopped = false →
      (t.field s.cur.tile).retired = true ∧ ∀ g ∈ s.fieldParts s.cur.tile, ∀ P, s.part g = some P →
        ∃ Q, t.part g = some Q ∧ Q.heldStop = true ∧ Q.resetDue = true ∧ DueEv t (.partitionReset g)) := by
  have hrun : exec .timeBeaconMissing s = .next (s.stopField s.cur.tile) := by
    rw [exec_timeBeaconMissing, execTimeBeaconMissing, decide_eq_true hf, decide_eq_true hlate]
    rfl
  refine ⟨_, hrun, (s.stopped_stopField _).1, fun h => ⟨?_, fun g hg P hP => State.stopField_stops h hg hP⟩⟩
  rw [State.field_stopField h]

/-- A second mismatch of a field's counters within 1 s is lasting (R378, Table 20.1). -/
theorem counterMismatch (s : State) (hf : s.cur.tile < 84) :
    ∃ t, exec .wtimeCounterMismatch s = .next t ∧ (t.field s.cur.tile).wtHalt = true ∧
      (t.field s.cur.tile).lastMis = some s.wtime ∧ t = { s with fields := t.fields, ks := t.ks, due := t.due } ∧
      ∀ a, (s.field s.cur.tile).lastMis = some a → s.wtime ≤ a + 1000000000 → DueEv t (.repair (.spine s.cur.tile)) := by
  have hrun : exec .wtimeCounterMismatch s =
      let u := (s.setField s.cur.tile { s.field s.cur.tile with wtHalt := true, lastMis := some s.wtime }).tally 1 s.cur.tile 15 1
      .next (if (s.field s.cur.tile).lastMis.any fun t => decide (s.wtime ≤ t + 1000000000) then
        u.push [.repair (.spine s.cur.tile)] else u) := by
    rw [exec_wtimeCounterMismatch, execWtimeCounterMismatch, if_neg (Nat.not_le.2 hf)]
  have hfield := s.field_setField_same s.cur.tile { s.field s.cur.tile with wtHalt := true, lastMis := some s.wtime }
  dsimp only at hrun
  split at hrun
  · exact ⟨_, hrun, congrArg Field.wtHalt hfield, congrArg Field.lastMis hfield, rfl,
      fun _ _ _ => State.dueEv_push _ (List.mem_singleton.2 rfl)⟩
  · next hno =>
    refine ⟨_, hrun, congrArg Field.wtHalt hfield, congrArg Field.lastMis hfield, rfl, fun a ha hle => absurd ?_ hno⟩
    rw [ha]
    exact decide_eq_true hle

theorem beacons : Beacons := ⟨timeBeacons, beaconMissing, counterMismatch⟩

/-! ## Accuracy ticks -/

/-- Putting a value at each key of a list, by key. -/
theorem amGet_foldl_amPut (v : Nat → Nat) (l : List Nat) (m : AMap Nat) (g : Nat) :
    (amGet (l.foldl (fun m t => amPut 0 m t (v t)) m) g).getD 0 = if g ∈ l then v g else (amGet m g).getD 0 := by
  induction l generalizing m with
  | nil => rfl
  | cons t l ih =>
    rw [List.foldl_cons, ih, amGet_amPut]
    by_cases hg : g = t <;> simp [hg]

/-- The discount that an accuracy tick gives a partition in a slice (R105). -/
def Slice.discount (S : Slice) (g : Nat) : Nat :=
  let k := (amGet S.disc g).getD 0
  if S.accOf g < 128 then min 7 (k + 1) else if 192 ≤ S.accOf g then k - 1 else k

theorem Slice.disc_tick (S : Slice) (now : Nat) {g : Nat}
    (hg : g ∈ (S.settleStale now).acc.map (·.1) ++ (S.settleStale now).disc.map (·.1)) :
    (amGet (S.tick now).disc g).getD 0 = (S.settleStale now).discount g := by
  refine (amGet_foldl_amPut (S.settleStale now).discount _ _ g).trans (if_pos ?_)
  exact List.mem_dedup.2 hg

theorem Slice.lines_tick (S : Slice) (now : Nat) : (S.tick now).lines = (S.settleStale now).lines := rfl
theorem Slice.acc_tick (S : Slice) (now : Nat) : (S.tick now).acc = (S.settleStale now).acc := rfl

/-- A listed slice after a tick. -/
def tickEntry (now : Nat) (x : Nat × Slice) : Nat × Slice := (x.1, x.2.tick now)

/-- All slices take the next accuracy tick. -/
def State.tickSlices (s : State) : State :=
  State.modKs { s with slices := s.slices.map (tickEntry (4096 * (s.ks.accAt + 1))) } fun k => { k with accAt := k.accAt + 1 }

theorem execAccuracyTick_due {s : State} (h : s.ks.accAt < s.wtime / 4096) :
    ∃ t, exec .accuracyTick s = .next t ∧ DueGrows s.tickSlices t := by
  refine ⟨if s.wtime / 4096 ≤ s.ks.accAt + 1 then s.tickSlices else s.tickSlices.again .accuracyTick, ?_, ?_⟩
  · rw [exec_accuracyTick, execAccuracyTick, if_neg (Nat.not_le.2 h)]
    rfl
  · split
    · exact .refl _
    · exact State.again_grows _ _

theorem State.slice_tickSlices {s : State} {k : Nat} {S : Slice} (h : amGet s.slices k = some S) :
    amGet s.tickSlices.slices k = some (S.tick (4096 * (s.ks.accAt + 1))) := by
  refine (amGet_map_keys s.slices (tickEntry _) (fun _ => rfl) k).trans ?_
  rw [h]
  rfl

/-- A tick charges the lines that have become stale, then moves the discounts (R105). -/
theorem accuracyTicks (s : State) (hdue : s.ks.accAt < s.wtime / 4096) :
    ∃ t, exec .accuracyTick s = .next t ∧ t.ks.accAt = s.ks.accAt + 1 ∧ t.mem = s.mem ∧
      ∀ k S0, amGet s.slices k = some S0 → let S := S0.settleStale (4096 * (s.ks.accAt + 1))
        ∃ S', amGet t.slices k = some S' ∧ S'.lines = S.lines ∧ S'.acc = S.acc ∧
          ∀ g ∈ S.acc.map (·.1) ++ S.disc.map (·.1), (amGet S'.disc g).getD 0 =
            (if S.accOf g < 128 then min 7 ((amGet S.disc g).getD 0 + 1)
              else if 192 ≤ S.accOf g then (amGet S.disc g).getD 0 - 1 else (amGet S.disc g).getD 0) := by
  obtain ⟨t, hrun, hgrow⟩ := execAccuracyTick_due hdue
  refine ⟨t, hrun, by rw [hgrow.frame]; rfl, by rw [hgrow.frame]; rfl, fun k S hS => ?_⟩
  have hslices : t.slices = s.tickSlices.slices := by rw [hgrow.frame]
  exact ⟨_, hslices ▸ State.slice_tickSlices hS, S.lines_tick _, S.acc_tick _, fun g hg => S.disc_tick _ hg⟩

/-! ## Errors in shared structures -/

/-- The unit whose repair an error in a structure asks for (log 72). -/
def repairOf (f : Nat) : SharedStruct → RepairUnit
  | .sliceTags | .sliceAlu => .slice f
  | .walker => .walker f
  | .memRouter => .memStop f
  | .spine | .bitmap => .spine f

/-- An error in a shared structure enters the log (R395). -/
def State.logBlast (s : State) (b : Blast) : State :=
  s.modKs fun k => { k with blasts := b :: k.blasts, blastSeq := b.seq + 1 }

/-- A slice loses its lines. -/
def State.emptySlice (s : State) (f u : Nat) : State := s.setSlice f u { s.slice f u with lines := [] }

theorem State.lines_emptySlice (s : State) (f u : Nat) : ((s.emptySlice f u).slice f u).lines = [] := by
  simp [State.slice, State.setSlice, State.emptySlice]

/-- Beside the stop, the log and the repair, an error empties at most the slice it stands in. The blast set and the stopped state
are named, so that no comparison of states unfolds them. -/
theorem execSharedStructureError_shape {st : SharedStruct} {f u : Nat} {s v : State} {tags : List Nat} (hf : f < 84)
    (htags : s.blastSet st f u = tags) (hv : s.stopParts tags s.ks.blastSeq = v) :
    ∃ w : State, exec (.sharedStructureError st f u) s = .next ((w.tally 6 f 9 1).push [.repair (repairOf f st)]) ∧
      w = { v.logBlast ⟨s.ks.blastSeq, v.wtime, st, f, u, tags⟩ with slices := w.slices } ∧
      (st = .sliceTags ∨ st = .sliceAlu → (w.slice f u).lines = []) := by
  have hrun := exec_sharedStructureError st f u s
  unfold execSharedStructureError at hrun
  rw [if_neg (Nat.not_le.2 hf), htags] at hrun
  dsimp only at hrun
  rw [hv] at hrun
  cases st with
  | sliceTags => exact ⟨_, hrun, rfl, fun _ => State.lines_emptySlice (v.logBlast _) f u⟩
  | sliceAlu => exact ⟨_, hrun, rfl, fun _ => State.lines_emptySlice (v.logBlast _) f u⟩
  | walker => exact ⟨_, hrun, rfl, nofun⟩
  | memRouter => exact ⟨_, hrun, rfl, nofun⟩
  | spine => exact ⟨_, hrun, rfl, nofun⟩
  | bitmap => exact ⟨_, hrun, rfl, nofun⟩

/-- An error in a shared structure stops its blast set, is logged and asks for a repair (R394, R395). -/
theorem sharedStructureErrors (st : SharedStruct) (f u : Nat) (s : State) (hf : f < 84) :
    ∃ t, exec (.sharedStructureError st f u) s = .next t ∧
      t.ks.blasts.head? = some
        { seq := s.ks.blastSeq, wtime := s.wtime, st := st, field := f, unit := u, blast := s.blastSet st f u } ∧
      t.ks.blastSeq = s.ks.blastSeq + 1 ∧ (st = .sliceTags ∨ st = .sliceAlu → (t.slice f u).lines = []) ∧
      DueEv t (.repair (repairOf f st)) ∧ ∀ g ∈ s.blastSet st f u, ∀ P, s.part g = some P → ∃ Q, t.part g = some Q ∧
        Q.heldStop = true ∧ Q.resetDue = true ∧ DueEv t (.partitionReset g) := by
  generalize htags : s.blastSet st f u = tags
  have hnot := s.stopParts_notified tags s.ks.blastSeq
  have hstops (g : Nat) (hg : g ∈ tags) (P : Part) (hP : s.part g = some P) := State.stopParts_stops s.ks.blastSeq hg hP
  generalize hv : s.stopParts tags s.ks.blastSeq = v at hnot hstops
  obtain ⟨w, hrun, hframe, hslice⟩ := execSharedStructureError_shape hf htags hv
  have hks : w.ks = { v.ks with
      blasts := ⟨s.ks.blastSeq, v.wtime, st, f, u, tags⟩ :: v.ks.blasts, blastSeq := s.ks.blastSeq + 1 } := by
    rw [hframe]; rfl
  rw [hnot.wtime] at hks
  refine ⟨_, hrun, congrArg (fun k : Keystone => k.blasts.head?) hks, congrArg Keystone.blastSeq hks, hslice,
    State.dueEv_push _ (List.mem_singleton.2 rfl), fun g hg P hP => ?_⟩
  have hw : StopsPart w g := (hstops g hg P hP).of_parts (by rw [hframe]; rfl) fun i hi => by rw [hframe]; exact hi
  exact hw.of_parts rfl (State.push_grows (w.tally 6 f 9 1) _).keeps

theorem shared : Shared := by
  refine ⟨accuracyTicks, fun st f u s hf => ?_⟩
  have h := sharedStructureErrors st f u s hf
  cases st <;> exact h

/-- Settles O45: a change of step by what it makes of its field, a stop of partitions by what posting leaves of them. -/
theorem clockTimeSensors : Obligations.ClockTimeSensors := ⟨clockSteps, sensors, beacons, shared⟩

end Sys2Proof.Machine
end

section
/-! PROOFS. What an instruction leaves where its subset passes or waits: the rules over lanes, group, tile and team on which the
statements on control, events and templates rest. -/

namespace Sys2Proof.Machine
open Sys2Proof.Claims

/-! ## Masks of lanes -/

theorem bit_foldl_setBit {w : Nat} (l : List Nat) (m : BitVec w) {i : Nat} (h : i < w) :
    bit (l.foldl setBit m) i = (bit m i || decide (i ∈ l)) := by
  induction l generalizing m with
  | nil => simp
  | cons x l ih =>
    rw [List.foldl_cons, ih, bit_setBit m x i h, Bool.eq_iff_iff]
    simp [or_assoc]

theorem bit_zero {w : Nat} (i : Nat) : bit (0 : BitVec w) i = false := by simp [bit]

theorem bit_maskOf (l : List Nat) {i : Nat} (h : i < 32) : bit (maskOf l) i = decide (i ∈ l) := by
  rw [maskOf, bit_foldl_setBit l 0 h, bit_zero, Bool.false_or]

/-! ## A change of the issuing group alone -/

theorem State.push_G (s : State) (l : List Instr) : (s.push l).G = s.G := rfl

theorem OnlyGroup.of_setG (s : State) (g : Group) (d : List Due) (k : Nat) :
    OnlyGroup s { s.setG g with due := d, nextId := k } := by
  have h : ({ s.setG g with due := d, nextId := k } : State).G = g := State.setG_G s g
  rw [OnlyGroup, h]

theorem onlyGroup_iff {s t : State} :
    OnlyGroup s t ↔ ∃ g d k, t = { s.setG g with due := d, nextId := k } :=
  ⟨fun h => ⟨_, _, _, h⟩, fun ⟨g, d, k, h⟩ => h ▸ .of_setG s g d k⟩

theorem OnlyGroup.T {s t : State} (h : OnlyGroup s t) : t.T = s.T.setGroup s.cur.slot t.G := by
  obtain ⟨g, d, k, rfl⟩ := onlyGroup_iff.1 h
  have hT : ({ s.setG g with due := d, nextId := k } : State).T = s.T.setGroup s.cur.slot g := State.setG_T s g
  have hG : ({ s.setG g with due := d, nextId := k } : State).G = g := State.setG_G s g
  rw [hT, hG]

theorem OnlyGroup.cur {s t : State} (h : OnlyGroup s t) : t.cur = s.cur := by rw [h]; rfl
theorem OnlyGroup.mem {s t : State} (h : OnlyGroup s t) : t.mem = s.mem := by rw [h]; rfl
theorem OnlyGroup.host {s t : State} (h : OnlyGroup s t) : t.host = s.host := by rw [h]; rfl

/-- A further change of the group is again one of the group alone. -/
theorem OnlyGroup.setG {s t : State} (h : OnlyGroup s t) (g : Group) : OnlyGroup s (t.setG g) := by
  obtain ⟨x, d, k, rfl⟩ := onlyGroup_iff.1 h
  exact onlyGroup_iff.2 ⟨g, d, k, congrArg (fun u : State => { u with due := d, nextId := k }) (s.setG_setG x g)⟩

theorem OnlyGroup.push {s t : State} (h : OnlyGroup s t) (l : List Instr) : OnlyGroup s (t.push l) := by
  obtain ⟨g, d, k, rfl⟩ := onlyGroup_iff.1 h
  exact onlyGroup_iff.2 ⟨g, _, k, rfl⟩

theorem OnlyGroup.pushAt {s t : State} (h : OnlyGroup s t) (tile slot : Nat) (i : Instr) : OnlyGroup s (t.pushAt tile slot i) := by
  obtain ⟨g, d, k, rfl⟩ := onlyGroup_iff.1 h
  exact onlyGroup_iff.2 ⟨g, _, k, rfl⟩

theorem OnlyGroup.issueOut {s t : State} (h : OnlyGroup s t) (o : OutInst) : OnlyGroup s (t.issueOut o) := by
  obtain ⟨g, d, k, e⟩ := onlyGroup_iff.1 (h.setG (t.G.record o))
  exact onlyGroup_iff.2 ⟨g, d, k + 1, congrArg State.fresh e⟩

@[simp] theorem Tile.team_setGroup (T : Tile) (g : Nat) (x : Group) (i : Nat) : (T.setGroup g x).team i = T.team i := by
  unfold Tile.setGroup Tile.team
  split
  · rfl
  · rw [Tile.ctl_setCtl]

/-- A tile with another group in a slot differs in nothing else. -/
theorem Tile.ctl_setGroup (T : Tile) (g : Nat) (x : Group) :
    (T.setGroup g x).ctl = { T.ctl with groups := (T.setGroup g x).ctl.groups } := by
  unfold Tile.setGroup
  split
  · rfl
  · rw [Tile.ctl_setCtl]

@[simp] theorem Tile.store_setGroup (T : Tile) (g : Nat) (x : Group) : (T.setGroup g x).store = T.store := by
  unfold Tile.setGroup
  split <;> rfl

/-- What a program reads beside its registers, where the group's registers of control and its team stay. -/
theorem Steady.of_group {s t : State} (hm : t.mem = s.mem) (hh : t.host = s.host) (ht : ∀ i, t.T.team i = s.T.team i)
    (hG : t.G.gang = s.G.gang ∧ t.G.xpc = s.G.xpc ∧ t.G.xstat = s.G.xstat ∧ t.G.team = s.G.team ∧ FlagsKept s t) :
    Steady s t := by
  obtain ⟨h1, h2, h3, h4, h5⟩ := hG
  exact ⟨⟨hm, hh, h1, h2, h3, by rw [State.teamData, State.teamData, State.curTeam, State.curTeam, h4, ht]⟩, h5⟩

theorem OnlyGroup.team {s t : State} (h : OnlyGroup s t) (i : Nat) : t.T.team i = s.T.team i := by
  rw [h.T, Tile.team_setGroup]

theorem OnlyGroup.store {s t : State} (h : OnlyGroup s t) : t.T.store = s.T.store := by
  rw [h.T, Tile.store_setGroup]

theorem OnlyGroup.steady {s t : State} (h : OnlyGroup s t) (hG : t.G.gang = s.G.gang ∧ t.G.xpc = s.G.xpc ∧
    t.G.xstat = s.G.xstat ∧ t.G.team = s.G.team ∧ FlagsKept s t) : Steady s t :=
  .of_group h.mem h.host h.team hG

/-- Registers are as before where store, k registers and the lanes' v registers, predicates and templates are. -/
theorem SameRegs.of_lanes {s t : State} (hst : t.T.store = s.T.store) (hk : t.G.k = s.G.k)
    (hl : ∀ l < 32, (t.G.lane l).v = (s.G.lane l).v ∧ (t.G.lane l).back = (s.G.lane l).back ∧
      (t.G.lane l).p = (s.G.lane l).p ∧ (t.G.lane l).tmpl = (s.G.lane l).tmpl) : SameRegs s t := by
  intro l h r _
  obtain ⟨hv, hb, hp, ht⟩ := hl l h
  rw [State.val, State.val, Tile.regNow_store _ _ hst]
  exact Tile.regNow_congr _ _ _ _ _ hk hv hb hp ht

theorem SameRegs.trans {s t u : State} (h : SameRegs s t) (k : SameRegs t u) : SameRegs s u :=
  fun l hl r hr => (k l hl r hr).trans (h l hl r hr)

/-! ## An instruction that writes nothing and passes -/

/-- The state after an instruction with nothing to write. -/
def State.passed0 (s : State) (c : Ctl) : State := s.retire c [] [] (some 0) false false

theorem State.passed0_passes (s : State) (c : Ctl) :
    Passed s (s.passed0 c) ∧ FlagsKept s (s.passed0 c) ∧ SameRegs s (s.passed0 c) := by
  obtain ⟨hp, hf, hr, -, -⟩ := State.retire_fixed s c [] [] 0 false false (by simp [orFps, Group.fpsTrap])
    (by simp [orIst, Group.istTrap])
  refine ⟨hp, ?_, fun l hl r _ => hr l hl r⟩
  simpa [FlagsOr, orFps, orIst, FlagsKept, State.passed0] using hf

theorem Passed.steady {s t : State} (h : Passed s t) (hf : FlagsKept s t) : Steady s t := by
  obtain ⟨ho, hg, -⟩ := h
  exact ho.steady ⟨by rw [hg], by rw [hg], by rw [hg], by rw [hg], hf⟩

/-! ## NOP and YIELD -/

theorem exec_nop (c : Ctl) (s : State) : exec (.nop c) s = .next (s.passed0 c) := rfl
theorem exec_yield (c : Ctl) (s : State) : exec (.yield c) s = .next
    (if s.active c = [] || !s.selected then s.passed0 c
    else (s.passed0 c).modG fun g => g.handOff (g.lane ((lanesOf s.cur.sub).headD 0)).pc) := rfl
theorem exec_exit (c : Ctl) (s : State) : exec (.exit c) s = execExit c s := rfl

theorem Group.handOff_frame (g : Group) (pc : Nat) :
    g.handOff pc = { g with hand := (g.handOff pc).hand, rot := (g.handOff pc).rot, bcount := (g.handOff pc).bcount } := by
  unfold Group.handOff
  split
  · rfl
  · dsimp only
    split <;> rfl

/-- The lanes in the order of the hand-off, from the one above the rotation pointer (R32). -/
def Group.rotation (g : Group) : List Nat := (List.range 32).map fun i => (g.rot + 1 + i) % 32

theorem Group.mem_rotation (g : Group) {l : Nat} : l ∈ g.rotation ↔ l < 32 := by
  simp only [Group.rotation, List.mem_map, List.mem_range]
  constructor
  · rintro ⟨i, -, rfl⟩; omega
  · intro h; exact ⟨(l + 63 - g.rot % 32) % 32, by omega, by omega⟩

theorem Group.handOff_of_some {g : Group} {pc l : Nat} (hn : g.hand = none)
    (hl : g.rotation.find? (fun l => g.eligible l && (g.lane l).pc != pc) = some l) :
    g.handOff pc = { g with rot := l, hand := some l, bcount := 0 } := by
  unfold Group.rotation at hl
  unfold Group.handOff
  simp [hn, hl]

/-- Where no hand-off is in force and an eligible lane stands elsewhere, issue goes to such a lane. -/
theorem Group.hand_handOff {g : Group} {pc : Nat} (hn : g.hand = none)
    (hl : ∃ l < 32, g.eligible l = true ∧ (g.lane l).pc ≠ pc) :
    ∃ l < 32, (g.handOff pc).hand = some l ∧ g.eligible l = true ∧ (g.lane l).pc ≠ pc := by
  obtain ⟨k, hk, he, hp⟩ := hl
  obtain ⟨l, hf⟩ := Option.isSome_iff_exists.1
    (List.find?_isSome (p := fun l => g.eligible l && (g.lane l).pc != pc).2 ⟨k, g.mem_rotation.2 hk, by simp [he, hp]⟩)
  have hs := List.find?_some hf
  simp only [Bool.and_eq_true, bne_iff_ne] at hs
  exact ⟨l, g.mem_rotation.1 (List.mem_of_find?_eq_some hf), by rw [Group.handOff_of_some hn hf], hs⟩

theorem Group.eligible_handOff (g : Group) (pc l : Nat) : (g.handOff pc).eligible l = g.eligible l := by
  rw [g.handOff_frame]; rfl

theorem Group.lane_handOff (g : Group) (pc l : Nat) : (g.handOff pc).lane l = g.lane l := by
  rw [g.handOff_frame]; rfl

theorem nopPasses (c : Ctl) (s : State) : ∃ t, exec (.nop c) s = .next t ∧ Passed s t ∧ FlagsKept s t ∧ SameRegs s t :=
  ⟨_, exec_nop c s, s.passed0_passes c⟩

/-- After the hand-off lanes, registers and everything else that a program reads are those after the pass. -/
theorem OnlyGroup.handOff {s u : State} (h : OnlyGroup s u) (pc : Nat) (hl : LanesStepped s u) (hs : Steady s u)
    (hr : SameRegs s u) : let t := u.modG fun g => g.handOff pc
    OnlyGroup s t ∧ LanesStepped s t ∧ Steady s t ∧ SameRegs s t := by
  have hG : (u.modG fun g => g.handOff pc).G = u.G.handOff pc := State.modG_G u _
  have ho : OnlyGroup s (u.modG fun g => g.handOff pc) := h.setG _
  obtain ⟨⟨hm, hh, h1, h2, h3, h4⟩, h5, h6⟩ := hs
  refine ⟨ho, fun l hl32 => ?_, ?_, ?_⟩
  · rw [hG, Group.lane_handOff]
    exact hl l hl32
  · have hd : ∀ v : State, v.teamData = (v.T.team v.G.team).map fun y => (y.sp, y.full, y.acc) := fun _ => rfl
    refine ⟨⟨ho.mem, ho.host, ?_, ?_, ?_, ?_⟩, ?_, ?_⟩
    · rw [hG, Group.handOff_frame]; exact h1
    · rw [hG, Group.handOff_frame]; exact h2
    · rw [hG, Group.handOff_frame]; exact h3
    · rw [← h4, hd, hd, hG, Group.handOff_frame, ho.team, h.team]
    · rw [hG, Group.handOff_frame]; exact h5
    · rw [hG, Group.handOff_frame]; exact h6
  · refine hr.trans (SameRegs.of_lanes (by rw [ho.store, h.store]) ?_ fun l _ => ?_)
    · rw [hG, Group.handOff_frame]
    · rw [hG, Group.lane_handOff]; exact ⟨rfl, rfl, rfl, rfl⟩

theorem yieldPasses (c : Ctl) (s : State) : ∃ t, exec (.yield c) s = .next t ∧ OnlyGroup s t ∧ LanesStepped s t ∧ Steady s t ∧
    SameRegs s t ∧ (s.active c = [] ∨ s.selected = false → Passed s t) ∧
    (s.active c ≠ [] → s.selected = true → s.G.hand = none →
      (∃ l < 32, t.G.eligible l = true ∧ (t.G.lane l).pc ≠ (t.G.lane ((lanesOf s.cur.sub).headD 0)).pc) →
      ∃ l < 32, t.G.hand = some l ∧ t.G.eligible l = true ∧
        (t.G.lane l).pc ≠ (t.G.lane ((lanesOf s.cur.sub).headD 0)).pc) := by
  obtain ⟨hp, hf, hr⟩ := s.passed0_passes c
  have hs := hp.steady hf
  have ⟨ho, hg, hl⟩ := hp
  rw [exec_yield]
  by_cases h : s.active c = [] ∨ s.selected = false
  · rw [if_pos (by simpa using h)]
    refine ⟨_, rfl, ho, hl, hs, hr, fun _ => hp, fun ha hsel => ?_⟩
    rcases h with h | h
    · exact absurd h ha
    · rw [h] at hsel; cases hsel
  · rw [if_neg (by simpa using h)]
    set pc := fun g : Group => (g.lane ((lanesOf s.cur.sub).headD 0)).pc
    obtain ⟨ho2, hl2, hs2, hr2⟩ := ho.handOff (pc (s.passed0 c).G) hl hs hr
    refine ⟨_, rfl, ho2, hl2, hs2, hr2, fun hn => absurd hn h, fun _ _ hn => ?_⟩
    simp only [State.modG_G, Group.eligible_handOff, Group.lane_handOff]
    exact Group.hand_handOff (by rw [hg]; exact hn)

theorem nopYield : NopYield := ⟨nopPasses, yieldPasses⟩

/-! ## EXIT -/

/-- A lane whose thread has ended. -/
def Lane.exit (L : Lane) : Lane := { L with st := .exited, wait := .none }

/-- A group whose lanes of a mask have ended and have left its reconvergence entries, before the entries settle. -/
def Group.ended (g : Group) (m : BitVec 32) : Group :=
  { g.modMask m Lane.exit with
    recon := g.recon.map fun (e : Recon) => { e with mem := e.mem &&& ~~~m, wait := e.wait &&& ~~~m } }

theorem Group.exitLanes_eq (g : Group) (m : BitVec 32) : g.exitLanes m = (g.ended m).settle 17 := rfl

theorem Group.exitLanes_frame (g : Group) (m : BitVec 32) : g.exitLanes m =
    { g with lanes := (g.exitLanes m).lanes, recon := (g.exitLanes m).recon, bcount := (g.exitLanes m).bcount } := by
  rw [g.exitLanes_eq]
  have h := Group.settle_frame 17 (g.ended m)
  generalize (g.ended m).settle 17 = y at h ⊢
  rw [h]
  rfl

theorem Group.lane_exitLanes (g : Group) (m : BitVec 32) {l : Nat} (h : l < 32) :
    (g.exitLanes m).lane l = if bit m l then (g.lane l).exit else g.lane l := by
  rw [g.exitLanes_eq, Group.settle_lane]
  exact Group.lane_modMask g m Lane.exit l h

theorem State.freeGroup_of_live {s : State} {t g : Nat} (h : ∃ l < 32, (((s.tile t).group g).lane l).st = .live) :
    s.freeGroup t g = s := by
  obtain ⟨l, hl, hs⟩ := h
  unfold State.freeGroup
  have : ((List.range 32).any fun l => (((s.tile t).group g).lane l).st == .live) = true :=
    List.any_eq_true.2 ⟨l, List.mem_range.2 hl, by simp [hs]⟩
  simp [this]

/-- A group without a live lane is gone from its slot; memory is as before. -/
theorem State.freeGroup_of_dead {s : State} {t g : Nat} (hlive : ((s.tile t).group g).live = true) (hg : g ≠ 32)
    (h : ∀ l < 32, (((s.tile t).group g).lane l).st ≠ .live) :
    ((s.freeGroup t g).tile t).group g = {} ∧ (s.freeGroup t g).cur = s.cur ∧ (s.freeGroup t g).mem = s.mem ∧
      (s.freeGroup t g).host = s.host := by
  have hn : ((List.range 32).any fun l => (((s.tile t).group g).lane l).st == .live) = false := by
    simpa using h
  unfold State.freeGroup
  simp only [hlive, hn, hg, Bool.not_true, decide_false, Bool.or_self, Bool.false_eq_true, if_false]
  refine ⟨?_, rfl, rfl, rfl⟩
  exact (congrArg (Tile.group · g) (State.tile_setTile s t t _)).trans (by rw [if_pos rfl, Tile.group_setGroup_same])

/-- The state after EXIT has ended the active lanes and before its slot is freed. -/
def State.exited (s : State) (c : Ctl) : State :=
  ((s.passed0 c).modG fun g => g.exitLanes (maskOf (s.active c))).push
    [.barrierComplete s.cur.tile s.G.team false, .barrierComplete s.cur.tile s.G.team true]

theorem execExit_exited (c : Ctl) (s : State) :
    exec (.exit c) s = .next ((s.exited c).freeGroup s.cur.tile s.cur.slot) := by
  obtain ⟨⟨ho, hg, -⟩, -⟩ := s.passed0_passes c
  have ho2 : OnlyGroup s ((s.passed0 c).modG fun g => g.exitLanes (maskOf (s.active c))) := ho.setG _
  have ht : ((s.passed0 c).modG fun g => g.exitLanes (maskOf (s.active c))).G.team = s.G.team := by
    rw [State.modG_G, Group.exitLanes_frame, hg]
  rw [exec_exit, execExit, State.exited, ← ht, ← ho2.cur]
  rfl

theorem State.exited_G (s : State) (c : Ctl) : (s.exited c).G = (s.passed0 c).G.exitLanes (maskOf (s.active c)) := by
  rw [State.exited, State.push_G, State.modG_G]

theorem State.exited_onlyGroup (s : State) (c : Ctl) : OnlyGroup s (s.exited c) :=
  ((s.passed0_passes c).1.1.setG _).push _

theorem State.exited_group (s : State) (c : Ctl) : ((s.exited c).tile s.cur.tile).group s.cur.slot = (s.exited c).G := by
  rw [State.G, State.T, (s.exited_onlyGroup c).cur]

theorem State.exited_lane (s : State) (c : Ctl) {l : Nat} (h : l < 32) : (s.exited c).G.lane l =
    if l ∈ s.active c then ((s.passed0 c).G.lane l).exit else (s.passed0 c).G.lane l := by
  rw [s.exited_G, Group.lane_exitLanes _ _ h, bit_maskOf _ h]
  simp

/-- Where the lanes of a group stand and whether they live, after EXIT. -/
theorem State.exited_standing (s : State) (c : Ctl) {l : Nat} (h : l < 32) :
    ((s.exited c).G.lane l).st = (if l ∈ s.active c then .exited else (s.G.lane l).st) ∧
    ((s.exited c).G.lane l).pc = (if bit s.cur.sub l then (s.G.lane l).stepped.pc else (s.G.lane l).pc) := by
  obtain ⟨⟨-, -, hl⟩, -⟩ := s.passed0_passes c
  rw [s.exited_lane c h, hl l h]
  by_cases ha : l ∈ s.active c <;> by_cases hb : bit s.cur.sub l = true <;> simp [ha, hb, Lane.stepped, Lane.exit]

theorem State.exited_reads (s : State) (c : Ctl) : Steady s (s.exited c) ∧ SameRegs s (s.exited c) := by
  obtain ⟨⟨ho, hg, hl⟩, hf, hr⟩ := s.passed0_passes c
  have hx := s.exited_onlyGroup c
  refine ⟨hx.steady ?_, hr.trans (SameRegs.of_lanes (by rw [hx.store, ho.store]) ?_ fun l h => ?_)⟩
  · rw [FlagsKept, s.exited_G, Group.exitLanes_frame]
    exact ⟨by rw [hg], by rw [hg], by rw [hg], by rw [hg], hf⟩
  · rw [s.exited_G, Group.exitLanes_frame]
  · rw [s.exited_lane c h]
    split <;> exact ⟨rfl, rfl, rfl, rfl⟩

theorem exitThreads : ExitThreads := by
  intro c s
  rw [execExit_exited]
  constructor
  · rintro ⟨l, hl, hlive, ha⟩
    rw [State.freeGroup_of_live ⟨l, hl, by rw [s.exited_group, (s.exited_standing c hl).1, if_neg ha, hlive]⟩]
    exact ⟨_, rfl, (s.exited_reads c).1, (s.exited_reads c).2, fun l hl => s.exited_standing c hl⟩
  · intro hlive h32 hall
    have hg : (s.exited c).G.live = true := by
      rw [s.exited_G, Group.exitLanes_frame, (s.passed0_passes c).1.2.1, hlive]
    obtain ⟨h1, h2, h3, h4⟩ := State.freeGroup_of_dead (s := s.exited c) (t := s.cur.tile) (by rw [s.exited_group, hg]) h32
      fun l hl => by
        rw [s.exited_group, (s.exited_standing c hl).1]
        split
        · nofun
        · next ha => exact fun h => ha (hall l hl h)
    have ho := s.exited_onlyGroup c
    refine ⟨_, rfl, ?_, h3.trans ho.mem, h4.trans ho.host⟩
    rw [State.G, State.T, h2, ho.cur, h1]

/-- Settles O17: each instruction passes its subset with nothing written; a hand-off and an exit change what they name. -/
theorem nopYieldExit : Obligations.NopYieldExit := ⟨nopYield, exitThreads⟩

end Sys2Proof.Machine
end

section
/-! PROOFS. Branches: what a branch makes of its group, the reconvergence entry of a divergent one and the hand-off after 64
backward ones. -/

namespace Sys2Proof.Machine
open Sys2Proof.Claims

theorem exec_bra (c : Ctl) (off : BitVec 24) (s : State) :
    exec (.bra c off) s = .next (s.branch c none none .branch fun _ => relTarget s off) := rfl
theorem exec_brx (c : Ctl) (r : Reg) (s : State) :
    exec (.brx c r) s = .next (s.branch c (some r) none .branch fun l => (s.src l r 2 : Nat)) := rfl
theorem exec_ret (c : Ctl) (r : Reg) (s : State) : exec (.ret c r) s = exec (.brx c r) s := rfl
theorem exec_call (c : Ctl) (link : Reg) (off : BitVec 24) (s : State) :
    exec (.call c link off) s = .next (s.branch c none (some link) .call fun _ => relTarget s off) := rfl
theorem exec_backwardBranchHandoff (s : State) : exec .backwardBranchHandoff s = execBackwardBranchHandoff s := rfl

theorem State.issueOut_G (s : State) (o : OutInst) : (s.issueOut o).G = s.G.record o := State.modG_G s fun g => g.record o

/-! ## What a branch makes of its group -/

/-- The writes of a branch: its link, where it has one. -/
def State.linkWrites (s : State) (act : List Nat) : Option Reg → List (Nat × Nat × W32)
  | some r => (if r.isK then act.take 1 else act).flatMap fun l => spread l r 2 (s.cur.pc + 8)
  | none => []

/-- A lane after a branch of the issuing subset: the lanes of `act` before their targets, the others before the next word. -/
def State.sent (s : State) (act : List Nat) (via : Via) (dest : Nat → Nat) (l : Nat) (L : Lane) : Lane :=
  if !bit s.cur.sub l then L
  else { L with pc := if act.contains l then dest l else s.cur.pc + 8, entry := true, left := 0, relDone := false, done := false
                wait := .none, via := if act.contains l then via else .fall, src := if act.contains l then s.cur.pc else 0 }

/-- The lanes of the issuing subset go to more than one address. -/
def State.diverges (s : State) (act : List Nat) (dest : Nat → Nat) : Bool :=
  (lanesOf s.cur.sub).any fun l => (lanesOf s.cur.sub).any fun m =>
    (if act.contains l then dest l else s.cur.pc + 8) != (if act.contains m then dest m else s.cur.pc + 8)

/-- The lowest lane of the issuing subset. -/
def State.headLane (s : State) : Lane := s.G.lane ((lanesOf s.cur.sub).headD 0)

/-- Address of the reconvergence header that the open block names. -/
def State.reconAt (s : State) : Nat := wrap 56 ((s.headLane.hdr : Int) + 8 * s.headLane.roff)

/-- The group with its link written and its lanes sent on their ways. -/
def State.sentGroup (s : State) (act : List Nat) (link : Option Reg) (via : Via) (dest : Nat → Nat) : Group :=
  (Group.wrFixed s.T s.G s.cur.pc (s.cycle s.cur.tile + 1) (s.linkWrites act link)).mapLanes (s.sent act via dest)

/-- A backward branch of the selected subset is counted (R32). -/
def Group.countBack (g : Group) (b : Bool) : Group := { g with bcount := if b then g.bcount + 1 else g.bcount }

/-- The reconvergence table takes the entry of a divergent branch (R28). -/
def State.entered (s : State) (act : List Nat) (dest : Nat → Nat) (g : Group) : Group :=
  if s.diverges act dest && s.headLane.roff != 0 then g.addRecon s.cur.sub s.reconAt else g

/-- The group after a branch, before its record. -/
def State.branchGroup (s : State) (act : List Nat) (link : Option Reg) (via : Via) (dest : Nat → Nat) : Group :=
  ((s.entered act dest (s.sentGroup act link via dest)).countBack
    (s.selected && act.any fun l => decide (dest l ≤ s.cur.pc))).settle 17

/-- The group takes its place, and its hand-off is due after 64 backward branches. -/
def State.offerHandOff (s : State) (g : Group) : State :=
  if 64 ≤ g.bcount then (s.setG g).pushAt s.cur.tile s.cur.slot .backwardBranchHandoff else s.setG g

/-- A branch with a token leaves its record. -/
def State.recordBranch (u : State) (c : Ctl) : State :=
  if c.set.val = 0 then u
  else (u.issueOut (u.outInst c)).push [.instructionComplete u.cur.tile u.cur.slot u.nextId]

theorem State.takeBranch_eq (s : State) (c : Ctl) (act : List Nat) (link : Option Reg) (via : Via) (dest : Nat → Nat) :
    s.takeBranch c act link via dest = (s.offerHandOff (s.branchGroup act link via dest)).recordBranch c := by
  unfold State.takeBranch
  extract_lets pc ws g nxt sub g1 dv L g2 back g3 s1 s2
  have h1 : g1 = s.sentGroup act link via dest := rfl
  have h2 : g2 = s.entered act dest g1 := rfl
  have h3 : g3 = (g2.countBack back).settle 17 := rfl
  have h : g3 = s.branchGroup act link via dest := by rw [h3, h2, h1, State.branchGroup]
  have hs : s2 = s.offerHandOff g3 := rfl
  rw [← h, ← hs]
  rfl

theorem Group.addRecon_frame (g : Group) (sub : BitVec 32) (addr : Nat) :
    g.addRecon sub addr = { g with recon := (g.addRecon sub addr).recon } := by
  unfold Group.addRecon
  dsimp only
  split <;> rfl

/-- One group is another up to its reconvergence table and its count of backward branches. -/
def Group.UpToRecon (g h : Group) : Prop := h = { g with recon := h.recon, bcount := h.bcount }

theorem Group.UpToRecon.lane {g h : Group} (k : g.UpToRecon h) (l : Nat) : h.lane l = g.lane l := by rw [k]; rfl

theorem State.upToRecon_branchGroup (s : State) (act : List Nat) (link : Option Reg) (via : Via) (dest : Nat → Nat) :
    (s.sentGroup act link via dest).UpToRecon (s.branchGroup act link via dest) := by
  unfold State.branchGroup
  generalize s.sentGroup act link via dest = g
  have e1 : s.entered act dest g = { g with recon := (s.entered act dest g).recon } := by
    unfold State.entered
    split
    · exact g.addRecon_frame _ _
    · rfl
  generalize s.entered act dest g = h at e1 ⊢
  generalize (s.selected && act.any fun l => decide (dest l ≤ s.cur.pc)) = b
  have e2 := Group.settle_frame 17 (h.countBack b)
  generalize (h.countBack b).settle 17 = y at e2 ⊢
  rw [Group.UpToRecon, e2, e1]
  rfl

theorem State.offerHandOff_onlyGroup (s : State) (g : Group) : OnlyGroup s (s.offerHandOff g) ∧ (s.offerHandOff g).G = g := by
  have h := OnlyGroup.of_setG s g s.due s.nextId
  unfold State.offerHandOff
  split
  · exact ⟨h.pushAt _ _ _, State.setG_G s _⟩
  · exact ⟨h, State.setG_G s _⟩

theorem State.recordBranch_onlyGroup {s u : State} (ho : OnlyGroup s u) (c : Ctl) :
    OnlyGroup s (u.recordBranch c) ∧ ∃ out, (u.recordBranch c).G = { u.G with out := out } := by
  unfold State.recordBranch
  split
  · exact ⟨ho, _, rfl⟩
  · refine ⟨(ho.issueOut _).push _, (u.G.record (u.outInst c)).out, ?_⟩
    rw [State.push_G, State.issueOut_G]
    rfl

/-- Beside its lanes, its table, its count and its records a group is after a branch what its link makes of it. -/
theorem State.takeBranch_group (s : State) (c : Ctl) (act : List Nat) (link : Option Reg) (via : Via) (dest : Nat → Nat) :
    let t := s.takeBranch c act link via dest
    let w := (s.linkWrites act link).foldl Group.wr s.G
    OnlyGroup s t ∧ t.G.recon = (s.branchGroup act link via dest).recon ∧
      t.G = { w with haz := t.G.haz, lanes := t.G.lanes, recon := t.G.recon, bcount := t.G.bcount, out := t.G.out } ∧
      ∀ l < 32, t.G.lane l = s.sent act via dest l (w.lane l) := by
  obtain ⟨h1, hG1⟩ := s.offerHandOff_onlyGroup (s.branchGroup act link via dest)
  obtain ⟨h2, out, hG2⟩ := State.recordBranch_onlyGroup h1 c
  have e := s.upToRecon_branchGroup act link via dest
  have ew := Group.wrFixed_eq s.T s.G s.cur.pc (s.cycle s.cur.tile + 1) (s.linkWrites act link)
  rw [← s.takeBranch_eq] at h2 hG2
  rw [hG1] at hG2
  dsimp only
  have hl (l : Nat) (h : l < 32) := (e.lane l).trans (Group.lane_mapLanes
    (Group.wrFixed s.T s.G s.cur.pc (s.cycle s.cur.tile + 1) (s.linkWrites act link)) (s.sent act via dest) l h)
  rw [State.sentGroup] at e
  generalize s.branchGroup act link via dest = B at e hG2 hl ⊢
  generalize Group.wrFixed s.T s.G s.cur.pc (s.cycle s.cur.tile + 1) (s.linkWrites act link) = y at e ew hl
  generalize (s.linkWrites act link).foldl Group.wr s.G = w at ew ⊢
  rw [hG2]
  refine ⟨h2, rfl, ?_, fun l h => ?_⟩
  · rw [e, ew]
    rfl
  · have hy : y.lane l = w.lane l := by rw [ew]; rfl
    rw [← hy]
    exact hl l h

theorem State.sent_regs (s : State) (act : List Nat) (via : Via) (dest : Nat → Nat) (l : Nat) (L : Lane) :
    (s.sent act via dest l L).v = L.v ∧ (s.sent act via dest l L).back = L.back ∧ (s.sent act via dest l L).p = L.p ∧
      (s.sent act via dest l L).tmpl = L.tmpl := by
  unfold State.sent
  split <;> exact ⟨rfl, rfl, rfl, rfl⟩

/-- Registers after a branch are those that its link leaves. -/
theorem State.takeBranch_val (s : State) (c : Ctl) (act : List Nat) (link : Option Reg) (via : Via) (dest : Nat → Nat) {l : Nat}
    (h : l < 32) (r : Nat) : (s.takeBranch c act link via dest).val l r =
      s.T.regNow ((s.linkWrites act link).foldl Group.wr s.G) l r := by
  obtain ⟨ho, -, hG, hl⟩ := s.takeBranch_group c act link via dest
  obtain ⟨hv, hb, hp, ht⟩ := s.sent_regs act via dest l (((s.linkWrites act link).foldl Group.wr s.G).lane l)
  rw [← hl l h] at hv hb hp ht
  rw [State.val, Tile.regNow_store _ _ ho.store]
  exact Tile.regNow_congr _ _ _ _ _ (by rw [hG]) hv hb hp ht

/-- A branch as the claims say it. -/
theorem State.takeBranch_branched (s : State) (c : Ctl) (act : List Nat) (link : Option Reg) (via : Via) (dest : Nat → Int) :
    Branched s (s.takeBranch c act link via fun l => (dest l).toNat) act via dest := by
  obtain ⟨ho, -, hG, hl⟩ := s.takeBranch_group c act link via fun l => (dest l).toNat
  have hw := Group.wrs_frame (s.linkWrites act link) s.G
  have hwl (l : Nat) (h : l < 32) := Group.lane_wrs (s.linkWrites act link) s.G l h
  generalize (s.linkWrites act link).foldl Group.wr s.G = w at hG hl hw hwl
  refine ⟨ho, ?_, ?_, fun l h => ?_⟩
  · rw [GroupFrame, hG, hw]
  · rw [FlagsKept, hG, hw]
    exact ⟨rfl, rfl⟩
  · rw [hl l h, hwl l h, State.sent]
    by_cases hb : bit s.cur.sub l = true <;> by_cases ha : l ∈ act <;> simp [hb, ha]

theorem State.takeBranch_sameRegs (s : State) (c : Ctl) (act : List Nat) (via : Via) (dest : Nat → Nat) :
    SameRegs s (s.takeBranch c act none via dest) :=
  fun _ h r _ => s.takeBranch_val c act none via dest h r

/-- The return address of CALL stands in the pairs of the active lanes, and no other register is written. -/
theorem State.takeBranch_link (s : State) (c : Ctl) (link : Reg) (via : Via) (dest : Nat → Nat) (hd : destOk link 2 = true) :
    let t := s.takeBranch c (s.active c) (some link) via dest
    (∀ l ∈ s.active c, Holds t l link 2 (s.cur.pc + 8)) ∧ OtherRegs s t (s.active c) link 2 := by
  set lanes := if link.isK then (s.active c).take 1 else s.active c with hlanes
  have key (l r : Nat) (hl : l < 32) (hr : r < 168) :=
    Group.regNow_dest s.T s.G link 2 lanes id (fun _ => s.cur.pc + 8) hd l r hl hr fun _ _ _ _ _ => rfl
  refine ⟨fun l hl j hj => ?_, fun l hl r hr hno => ?_⟩
  · have h32 := (mem_active hl).1
    have hcode : link.code + j < 160 := by
      cases link <;> simp [destOk, Reg.code] at * <;> omega
    have hx : ∃ x ∈ lanes, link.isK = true ∨ x = l := by
      rw [hlanes]
      cases hk : link.isK with
      | false => exact ⟨l, by simpa using hl, .inr rfl⟩
      | true =>
        cases ha : s.active c with
        | nil => rw [ha] at hl; cases hl
        | cons a as => exact ⟨a, by simp, .inl rfl⟩
    obtain ⟨x, hx, hkx⟩ := hx
    rw [s.takeBranch_val c _ _ via dest h32, State.linkWrites]
    refine ((key l _ h32 (by omega)).1 j hj rfl x hx hkx).trans ?_
    rw [readBack, if_pos hcode]
  · rw [s.takeBranch_val c _ _ via dest hl, State.linkWrites]
    refine ((key l r hl hr).2 ?_).trans rfl
    rintro ⟨j, hj, hr2, x, hx, hkx⟩
    have hxa : x ∈ s.active c := by
      rw [hlanes] at hx
      split at hx
      · exact List.mem_of_mem_take hx
      · exact hx
    refine hno ⟨by omega, by omega, hkx.symm.imp (fun h => ?_) fun h => ⟨h, List.ne_nil_of_mem hxa⟩⟩
    rwa [← show x = l from h]

/-! ## Checks of a branch -/

theorem branchFault_none {reg : Bool} {dest : Nat → Int} {act : List Nat} (h : ∀ l ∈ act, 0 ≤ dest l ∧ dest l < 2 ^ 56)
    (hr : reg = true → ∀ l ∈ act, dest l % 8 = 0) : branchFault reg dest act = none := by
  rw [branchFault, List.findSome?_eq_none_iff]
  intro l hl
  obtain ⟨h1, h2⟩ := h l hl
  have hb : ¬ (decide (dest l < 0) || decide (2 ^ 56 ≤ dest l)) = true := by simp only [Bool.or_eq_true, decide_eq_true_eq]; omega
  rw [if_neg hb]
  cases reg with
  | false => rfl
  | true => rw [hr rfl l hl]; rfl

theorem State.diverges_eq_true {s : State} {act : List Nat} {dest : Nat → Nat} : s.diverges act dest = true ↔
    ∃ l ∈ lanesOf s.cur.sub, ∃ m ∈ lanesOf s.cur.sub,
      (if l ∈ act then dest l else s.cur.pc + 8) ≠ (if m ∈ act then dest m else s.cur.pc + 8) := by
  simp [State.diverges]

theorem State.branch_of_uniform {s : State} {c : Ctl} {tgt : Option Reg} {link : Option Reg} {via : Via} {dest : Nat → Int}
    (hu : Uniform s (s.active c) dest) (hr : tgt.isSome = true → ∀ l ∈ s.active c, dest l % 8 = 0) :
    s.branch c tgt link via dest = s.takeBranch c (s.active c) link via fun l => (dest l).toNat := by
  obtain ⟨hrange, hone⟩ := hu
  have hd : (decide (s.headLane.roff ≠ 0) && s.diverges (s.active c) fun l => (dest l).toNat) = false := by
    rw [Bool.eq_false_iff, ne_eq, Bool.and_eq_true, State.diverges_eq_true]
    rintro ⟨hroff, l, hl, m, hm, hne⟩
    rcases hone with h | ⟨h, he⟩ | h
    · exact of_decide_eq_true hroff h
    · rw [h] at hl hm
      exact hne (by rw [if_pos hl, if_pos hm, he l hl m hm])
    · simp [h] at hne
  unfold State.branch
  dsimp only
  rw [branchFault_none hrange hr]
  exact if_neg (Bool.eq_false_iff.1 hd)

theorem branchTaken : BranchTaken := by
  refine ⟨fun c off s hu => ?_, fun c r s hu h8 => ?_, fun nv c link off s hnv hwf hu => ?_⟩
  · rw [exec_bra, State.branch_of_uniform hu (fun h => by cases h)]
    exact ⟨_, rfl, s.takeBranch_branched c _ _ _ _, s.takeBranch_sameRegs c _ _ _⟩
  · have ht : ∃ t, exec (.brx c r) s = .next t ∧
        Branched s t (s.active c) .branch (fun l => (s.src l r 2 : Nat)) ∧ SameRegs s t := by
      rw [exec_brx, State.branch_of_uniform hu fun _ l hl => by have := h8 l hl; omega]
      exact ⟨_, rfl, s.takeBranch_branched c _ _ _ _, s.takeBranch_sameRegs c _ _ _⟩
    exact ⟨ht, exec_ret c r s ▸ ht⟩
  · have hd : destOk link 2 = true := by
      refine destOk_of_ok hnv rfl ?_
      simp [Instr.wf, Instr.regChecks, Reg.branch] at hwf
      exact hwf.2.1
    rw [exec_call, State.branch_of_uniform hu (fun h => by cases h)]
    exact ⟨_, rfl, s.takeBranch_branched c _ _ _ _, s.takeBranch_link c link _ _ hd⟩

/-! ## The reconvergence entry of a divergent branch -/

theorem Group.addRecon_of_empty {g : Group} {sub : BitVec 32} (addr : Nat) (h : g.recon = []) (hs : ∃ l, l ∈ lanesOf sub) :
    (g.addRecon sub addr).recon = [{ addr := addr, mem := sub, wait := 0 }] := by
  obtain ⟨l, hl⟩ := hs
  have hin (x : Nat) : g.innermost x = none := by simp [Group.innermost, h]
  have hno : ¬ ∀ x, x ∉ lanesOf sub := fun hx => hx l hl
  unfold Group.addRecon
  simp [hin, h, hno]

/-- One entry alone stands in the table, nobody waits there or arrives, and a live member is still to come. -/
structure Group.Awaits (g : Group) (e : Recon) : Prop where
  recon : g.recon = [e]
  wait : e.wait = 0
  away : ∀ l < 32, bit e.mem l = true → (g.lane l).pc ≠ e.addr
  member : ∃ l < 32, bit e.mem l = true ∧ (g.lane l).st = .live

theorem Group.Awaits.settle1 {g : Group} {e : Recon} (h : g.Awaits e) : g.settle1.Awaits e := by
  obtain ⟨hr, hw, ha, k, hk, hkm, hkl⟩ := h
  have hnone : (List.range 32).filter (fun l => bit e.wait l || g.arrivesAt e 0 l) = [] := by
    rw [List.filter_eq_nil_iff]
    intro l hl hb
    rw [hw, bit_zero, Bool.false_or] at hb
    simp only [Group.arrivesAt, Bool.and_eq_true, beq_iff_eq, Group.innermostAt, hr] at hb
    obtain ⟨⟨-, hpc⟩, hin⟩ := hb
    refine ha l (List.mem_range.1 hl) ?_ hpc
    simpa [List.findIdx?_cons] using hin
  have he : { e with wait := maskOf [] } = e := by rw [show maskOf [] = e.wait from hw.symm]
  have hg : { g with recon := g.recon.zipIdx.map fun e =>
      { e.1 with wait := maskOf ((List.range 32).filter fun l => bit e.1.wait l || g.arrivesAt e.1 e.2 l) } } = g := by
    have : (g.recon.zipIdx.map fun e =>
        { e.1 with wait := maskOf ((List.range 32).filter fun l => bit e.1.wait l || g.arrivesAt e.1 e.2 l) }) = g.recon := by
      rw [hr]
      simp only [List.zipIdx_cons, List.zipIdx_nil, List.map_cons, List.map_nil, hnone, he]
    rw [this]
  have hkeep : g.recon.filter (fun e =>
      !(List.range 32).all fun l => !(bit e.mem l && (g.lane l).st == .live) || bit e.wait l) = g.recon := by
    rw [hr, List.filter_eq_self]
    intro x hx
    obtain rfl := List.mem_singleton.1 hx
    rw [Bool.not_eq_true', List.all_eq_false]
    exact ⟨k, List.mem_range.2 hk, by rw [hkm, hkl, hw, bit_zero]; decide⟩
  have hs : g.settle1 = g := by
    unfold Group.settle1
    rw [hg]
    dsimp only
    rw [hkeep, if_pos rfl]
  rw [hs]
  exact ⟨hr, hw, ha, k, hk, hkm, hkl⟩

theorem Group.Awaits.settle {g : Group} {e : Recon} (h : g.Awaits e) (n : Nat) : (g.settle n).Awaits e := by
  induction n generalizing g with
  | zero => exact h
  | succ n ih => exact ih h.settle1

/-- The branch of a subset that it divides in a block with a reconvergence header. -/
theorem State.branch_of_divergent {s : State} {c : Ctl} {w : W64} {dest : Nat → Int}
    (hrange : ∀ l ∈ s.active c, 0 ≤ dest l ∧ dest l < 2 ^ 56) (hroff : s.headLane.roff ≠ 0)
    (hd : (s.diverges (s.active c) fun l => (dest l).toNat) = true)
    (hw : s.fetch s.cur.tile s.cur.slot s.reconAt = .word w) (hh : isHeader w = true) :
    s.branch c none none .branch dest = s.takeBranch c (s.active c) none .branch fun l => (dest l).toNat := by
  unfold State.branch
  dsimp only
  rw [branchFault_none hrange (fun h => by cases h)]
  refine (if_pos (Bool.and_eq_true_iff.2 ⟨decide_eq_true hroff, hd⟩)).trans ?_
  change (match s.fetch s.cur.tile s.cur.slot s.reconAt with
    | .miss => _ | .fault _ _ _ => _ | .word w => _) = _
  rw [hw]
  exact if_pos hh

/-- The table after it: one entry, of the whole subset, while none of its lanes stands at the header. -/
theorem State.recon_of_divergent {s : State} {act : List Nat} {dest : Nat → Nat} (hr : s.G.recon = [])
    (hroff : s.headLane.roff ≠ 0) (hd : s.diverges act dest = true)
    (hlive : ∀ l < 32, bit s.cur.sub l = true → (s.G.lane l).st = .live)
    (haway : ∀ l < 32, bit s.cur.sub l = true → (if l ∈ act then dest l else s.cur.pc + 8) ≠ s.reconAt) :
    (s.branchGroup act none .branch dest).recon = [{ addr := s.reconAt, mem := s.cur.sub, wait := 0 }] := by
  obtain ⟨k, hk, -⟩ := State.diverges_eq_true.1 hd
  obtain ⟨hk32, hkb⟩ := mem_lanesOf.1 hk
  have hsent : s.sentGroup act none .branch dest = s.G.mapLanes (s.sent act .branch dest) := by
    simp [State.sentGroup, State.linkWrites, Group.wrFixed]
  have hlane (l : Nat) (hl : l < 32) : (s.sentGroup act none .branch dest).lane l = s.sent act .branch dest l (s.G.lane l) := by
    rw [hsent, Group.lane_mapLanes _ _ l hl]
  have he : s.entered act dest (s.sentGroup act none .branch dest) = (s.sentGroup act none .branch dest).addRecon s.cur.sub s.reconAt :=
    if_pos (Bool.and_eq_true_iff.2 ⟨hd, by simpa using hroff⟩)
  have hrec : (s.sentGroup act none .branch dest).recon = [] := by rw [hsent]; exact hr
  unfold State.branchGroup
  rw [he]
  generalize (s.selected && act.any fun l => decide (dest l ≤ s.cur.pc)) = b
  generalize s.sentGroup act none .branch dest = g at hlane hrec
  have hadd := Group.addRecon_of_empty s.reconAt hrec ⟨k, hk⟩
  have hl (l : Nat) : ((g.addRecon s.cur.sub s.reconAt).countBack b).lane l = g.lane l := by rw [g.addRecon_frame]; rfl
  have ha : Group.Awaits ((g.addRecon s.cur.sub s.reconAt).countBack b) { addr := s.reconAt, mem := s.cur.sub, wait := 0 } := by
    refine ⟨hadd, rfl, fun l h32 hb => ?_, k, hk32, hkb, ?_⟩
    · rw [hl, hlane l h32, State.sent]
      simpa [show bit s.cur.sub l = true from hb] using haway l h32 hb
    · rw [hl, hlane k hk32, State.sent]
      simpa [hkb] using hlive k hk32 hkb
  exact (ha.settle 17).recon

theorem divergenceEntry : DivergenceEntry := by
  intro c off w s head ra h0 h56 hroff hr hw hh hlive hdiv hra hpc hne
  obtain ⟨l, hl, m, hm, hmb, hma⟩ := hdiv
  have hd : (s.diverges (s.active c) fun _ => (relTarget s off).toNat) = true :=
    State.diverges_eq_true.2 ⟨l, mem_lanesOf.2 (mem_active hl), m, mem_lanesOf.2 ⟨hm, hmb⟩, by
      rw [if_pos hl, if_neg hma]; omega⟩
  have hb := s.takeBranch_branched c (s.active c) none .branch fun _ => relTarget s off
  obtain ⟨ho, hg, hf, hlanes⟩ := hb
  rw [exec_bra, State.branch_of_divergent (fun _ _ => ⟨h0, h56⟩) hroff hd hw hh]
  refine ⟨_, rfl, ho, hg, hf, s.takeBranch_sameRegs c _ _ _, ?_, fun l h32 hb => ?_⟩
  · rw [(s.takeBranch_group c _ none .branch _).2.1]
    refine State.recon_of_divergent hr hroff hd hlive fun l _ _ => ?_
    change _ ≠ ra
    split <;> omega
  · rw [hlanes l h32, if_pos hb]

/-! ## The hand-off after 64 backward branches -/

theorem backwardHandOff : BackwardHandOff := by
  intro s G h64
  have hG : (s.modG Group.handOffDue).G = G.handOff (match G.sel with
      | some l => (G.lane l).pc
      | none => 0) := (State.modG_G s Group.handOffDue).trans (if_neg (Nat.not_lt.2 h64))
  refine ⟨s.modG Group.handOffDue, ?_, rfl, ?_, ?_, fun hn => ?_, fun k l hn hsel hf => ?_⟩
  · rw [exec_backwardBranchHandoff, execBackwardBranchHandoff]
    exact congrArg _ (if_neg (Nat.not_lt.2 h64))
  · rw [hG, Group.handOff]
    split
    · rfl
    · dsimp only
      split <;> rfl
  · rw [hG, Group.handOff_frame]
  · rw [hG, Group.handOff, if_pos (Option.isSome_iff_ne_none.2 hn)]
  · rw [hG, hsel, Group.handOff_of_some hn hf]
    exact ⟨rfl, rfl⟩

/-- Settles O16: a branch by what it makes of its group, the entry of a divergent one by what settling leaves of it. -/
theorem branchesDiverge : Obligations.BranchesDiverge := ⟨branchTaken, divergenceEntry, backwardHandOff⟩

end Sys2Proof.Machine
end

section
/-! PROOFS. Counters and steps due that a step leaves beside its effect, and what a subset reads after a step that it does not
see: the layer under the statements on events, templates, bins and remote accesses. -/

namespace Sys2Proof.Machine
open Sys2Proof.Claims

/-! ## Tiles that differ in their performance counters -/

/-- One tile is another up to the performance counters of its context slots. -/
structure Tile.CountsApart (T U : Tile) : Prop where
  rest : U = { T with slots := U.slots }
  slot : ∀ i, U.slot i = { T.slot i with ctl := { (T.slot i).ctl with pmc := (U.slot i).ctl.pmc } }

theorem Tile.CountsApart.refl (T : Tile) : T.CountsApart T := ⟨rfl, fun _ => rfl⟩

theorem Tile.CountsApart.trans {T U V : Tile} (h : T.CountsApart U) (k : U.CountsApart V) : T.CountsApart V where
  rest := by rw [k.rest, h.rest]
  slot i := by rw [k.slot i, h.slot i]

theorem Tile.CountsApart.act {T U : Tile} (h : T.CountsApart U) : U.act = T.act := by rw [h.rest]
theorem Tile.CountsApart.agent {T U : Tile} (h : T.CountsApart U) : U.agent = T.agent := by rw [h.rest]
theorem Tile.CountsApart.store {T U : Tile} (h : T.CountsApart U) : U.store = T.store := by rw [h.rest]

theorem Tile.CountsApart.ctl {T U : Tile} (h : T.CountsApart U) : U.ctl = { T.ctl with pmc := U.ctl.pmc } := by
  unfold Tile.ctl
  rw [h.act]
  exact congrArg Slot.ctl (h.slot T.act)

theorem Tile.CountsApart.group {T U : Tile} (h : T.CountsApart U) (g : Nat) : U.group g = T.group g := by
  unfold Tile.group
  rw [h.agent, h.ctl]

theorem Tile.CountsApart.team {T U : Tile} (h : T.CountsApart U) (i : Nat) : U.team i = T.team i := by
  unfold Tile.team
  rw [h.ctl]

/-- One state is another with counters advanced and further steps due. -/
structure Counted (s u : State) : Prop where
  frame : u = { s with tiles := u.tiles, due := u.due }
  tile : ∀ x, (s.tile x).CountsApart (u.tile x)
  keeps : ∀ i, DueEv s i → DueEv u i

theorem Counted.refl (s : State) : Counted s s := ⟨rfl, fun _ => .refl _, fun _ h => h⟩

theorem Counted.trans {s t u : State} (h : Counted s t) (k : Counted t u) : Counted s u where
  frame := by rw [k.frame, h.frame]
  tile x := (h.tile x).trans (k.tile x)
  keeps i hi := k.keeps i (h.keeps i hi)

theorem DueGrows.counted {s t : State} (h : DueGrows s t) : Counted s t where
  frame := by rw [h.frame]
  tile x := by rw [h.tile x]; exact .refl _
  keeps := h.keeps

theorem Counted.cur {s u : State} (h : Counted s u) : u.cur = s.cur := by rw [h.frame]
theorem Counted.mem {s u : State} (h : Counted s u) : u.mem = s.mem := by rw [h.frame]
theorem Counted.host {s u : State} (h : Counted s u) : u.host = s.host := by rw [h.frame]
theorem Counted.reqs {s u : State} (h : Counted s u) : u.reqs = s.reqs := by rw [h.frame]
theorem Counted.parts {s u : State} (h : Counted s u) : u.parts = s.parts := by rw [h.frame]
theorem Counted.nextId {s u : State} (h : Counted s u) : u.nextId = s.nextId := by rw [h.frame]
theorem Counted.cycle {s u : State} (h : Counted s u) (t : Nat) : u.cycle t = s.cycle t := by rw [h.frame]; rfl
theorem Counted.tileTime {s u : State} (h : Counted s u) (t : Nat) : u.tileTime t = s.tileTime t := by rw [h.frame]; rfl

theorem Counted.T {s u : State} (h : Counted s u) : s.T.CountsApart u.T := by
  unfold State.T
  rw [h.cur]
  exact h.tile _

theorem Counted.G {s u : State} (h : Counted s u) : u.G = s.G := by
  unfold State.G
  rw [h.cur, h.T.group]

/-- The counts of a control state after `n` events of a tile cycle (R200, R202). -/
def CtxCtl.countsAfter (c : CtxCtl) (cyc : Nat) (sel : W32 → Bool) (n : Nat) : List Nat :=
  (List.range 4).map fun i => if bit (c.pmsIn cyc i) 13 && sel (c.pmsIn cyc i) && n != 0 && c.pmcOpen cyc i
    then c.pmc.getD i 0 + n else c.pmc.getD i 0

/-- A slot with other counts. -/
def Slot.setPmc (S : Slot) (p : List Nat) : Slot := { S with ctl := { S.ctl with pmc := p } }

theorem State.countIn_tile (s : State) (t slot cyc : Nat) (sel : W32 → Bool) (n x : Nat) :
    (s.countIn t slot cyc sel n).tile x = if x = t then
      (s.tile t).setSlot slot (((s.tile t).slot slot).setPmc (((s.tile t).slot slot).ctl.countsAfter cyc sel n))
    else s.tile x :=
  s.tile_modTile t x fun T => T.setSlot slot { T.slot slot with
    ctl := { ((s.tile t).slot slot).ctl with pmc := ((s.tile t).slot slot).ctl.countsAfter cyc sel n } }

theorem State.countIn_counted (s : State) (t slot cyc : Nat) (sel : W32 → Bool) (n : Nat) : Counted s (s.countIn t slot cyc sel n) where
  frame := rfl
  keeps _ := fun ⟨d, hd, he⟩ => ⟨d, List.mem_append_left _ hd, he⟩
  tile x := by
    rw [s.countIn_tile]
    split
    · next e =>
      subst e
      refine ⟨rfl, fun i => ?_⟩
      rw [Tile.slot_setSlot]
      split
      · next e => rw [e]; rfl
      · rfl
    · exact .refl _

theorem State.count_counted (s : State) (t ev n : Nat) : Counted s (s.count t ev n) := by
  unfold State.count
  split
  · exact .refl s
  · exact s.countIn_counted t _ _ _ n

theorem State.againAt_counted (s : State) (t g : Nat) (i : Instr) : Counted s (s.againAt t g i) := by
  unfold State.againAt
  split
  · exact .refl s
  · exact (s.pushAt_grows t g i).counted

theorem Counted.foldl {α : Type} {f : State → α → State} (hf : ∀ s x, Counted s (f s x)) (l : List α) (s : State) :
    Counted s (l.foldl f s) :=
  List.foldlRecOn l f (Counted.refl s) fun t ht x _ => ht.trans (hf t x)

/-- A bin that took an item leaves counters and steps due, the launch of the bin among them. -/
theorem State.binTook_counted (s : State) (tile src : Nat) (user : Bool) :
    Counted s (s.binTook tile src user) ∧ DueEv (s.binTook tile src user) (.binGroupLaunch tile) := by
  have h1 := (s.push_grows [.binGroupLaunch tile]).counted
  have h2 := Counted.foldl (f := fun s (b : Nat × Bin) => if b.2.items.length = 1 then s.againAt tile b.1 .binTimerExpire else s)
    (fun s b => by
      split
      · exact s.againAt_counted _ _ _
      · exact .refl s) ((s.push [.binGroupLaunch tile]).tile tile).ctl.bins (s.push [.binGroupLaunch tile])
  have h3 : Counted (((s.push [.binGroupLaunch tile]).tile tile).ctl.bins.foldl
      (fun s (b : Nat × Bin) => if b.2.items.length = 1 then s.againAt tile b.1 .binTimerExpire else s)
      (s.push [.binGroupLaunch tile])) (s.binTook tile src user) := by
    unfold State.binTook
    dsimp only
    split
    · exact State.count_counted _ _ _ _
    · exact .refl _
  exact ⟨h1.trans (h2.trans h3), (h2.trans h3).keeps _ (s.dueEv_push (List.mem_singleton.2 rfl))⟩

/-! ## Steps that the issuing subset does not see -/

/-- Neither registers nor what a program reads beside memory have changed, and of the issuing lanes only the progress that they
have made in their instruction. -/
structure Unseen (s u : State) : Prop where
  cur : u.cur = s.cur
  lane : ∀ l < 32, u.G.lane l = { s.G.lane l with done := (u.G.lane l).done }
  still : ∀ l < 32, bit s.cur.sub l = false → (u.G.lane l).done = (s.G.lane l).done
  regs : SameRegs s u
  flags : FlagsKept s u
  control : u.G.gang = s.G.gang ∧ u.G.xpc = s.G.xpc ∧ u.G.xstat = s.G.xstat
  team : u.teamData = s.teamData

theorem Unseen.refl (s : State) : Unseen s s :=
  ⟨rfl, fun _ _ => rfl, fun _ _ _ => rfl, fun _ _ _ _ => rfl, ⟨rfl, rfl⟩, ⟨rfl, rfl, rfl⟩, rfl⟩

theorem Unseen.trans {s t u : State} (h : Unseen s t) (k : Unseen t u) : Unseen s u where
  cur := k.cur.trans h.cur
  lane l hl := by rw [k.lane l hl, h.lane l hl]
  still l hl hb := (k.still l hl (by rwa [h.cur])).trans (h.still l hl hb)
  regs := h.regs.trans k.regs
  flags := ⟨k.flags.1.trans h.flags.1, k.flags.2.trans h.flags.2⟩
  control := by
    obtain ⟨h1, h2, h3⟩ := h.control
    obtain ⟨k1, k2, k3⟩ := k.control
    exact ⟨k1.trans h1, k2.trans h2, k3.trans h3⟩
  team := k.team.trans h.team

theorem Unseen.of_group {s u : State} (hc : u.cur = s.cur) (hG : u.G = s.G) (hr : SameRegs s u) (ht : u.teamData = s.teamData) :
    Unseen s u :=
  ⟨hc, fun l _ => by rw [hG], fun l _ _ => by rw [hG], hr, ⟨by rw [hG], by rw [hG]⟩, ⟨by rw [hG], by rw [hG], by rw [hG]⟩, ht⟩

theorem SameRegs.of_group {s u : State} (hG : u.G = s.G) (hst : u.T.store = s.T.store) : SameRegs s u :=
  .of_lanes hst (by rw [hG]) fun l _ => by rw [hG]; exact ⟨rfl, rfl, rfl, rfl⟩

theorem teamData_of_teams {s u : State} (hG : u.G = s.G) (ht : ∀ i, u.T.team i = s.T.team i) : u.teamData = s.teamData := by
  rw [State.teamData, State.teamData, State.curTeam, State.curTeam, hG, ht]

theorem Counted.unseen {s u : State} (h : Counted s u) : Unseen s u :=
  .of_group h.cur h.G (.of_group h.G h.T.store) (teamData_of_teams h.G h.T.team)

/-- The issuing subset, about to pass, reads what it read before. -/
theorem Unseen.passes {s u : State} (h : Unseen s u) (c : Ctl) : let t := u.passed0 c
    LanesStepped s t ∧ SameRegs s t ∧ FlagsKept s t ∧ t.teamData = s.teamData ∧
      t.G.gang = s.G.gang ∧ t.G.xpc = s.G.xpc ∧ t.G.xstat = s.G.xstat := by
  obtain ⟨⟨ho, hg, hl⟩, hf, hr⟩ := u.passed0_passes c
  obtain ⟨h1, h2, h3⟩ := h.control
  have hs := Passed.steady ⟨ho, hg, hl⟩ hf
  obtain ⟨⟨-, -, k1, k2, k3, k4⟩, -⟩ := hs
  refine ⟨fun l hl32 => ?_, h.regs.trans hr, ⟨hf.1.trans h.flags.1, hf.2.trans h.flags.2⟩, k4.trans h.team, k1.trans h1,
    k2.trans h2, k3.trans h3⟩
  rw [hl l hl32, h.cur]
  have hlane := h.lane l hl32
  have hstill := h.still l hl32
  generalize u.G.lane l = L at hlane hstill ⊢
  cases hb : bit s.cur.sub l with
  | true => rw [hlane]; rfl
  | false => rw [hlane, hstill hb]

theorem Unseen.steady {s t : State} (h : Unseen s t) (hm : t.mem = s.mem) (hh : t.host = s.host) : Steady s t :=
  ⟨⟨hm, hh, h.control.1, h.control.2.1, h.control.2.2, h.team⟩, h.flags⟩

/-- The same with memory as it was. -/
theorem Unseen.passes_steady {s u : State} (h : Unseen s u) (hm : u.mem = s.mem) (hh : u.host = s.host) (c : Ctl) :
    SameRegs s (u.passed0 c) ∧ LanesStepped s (u.passed0 c) ∧ Steady s (u.passed0 c) := by
  obtain ⟨hl, hr, hf, ht, h1, h2, h3⟩ := h.passes c
  have ho := (u.passed0_passes c).1.1
  exact ⟨hr, hl, ⟨ho.mem.trans hm, ho.host.trans hh, h1, h2, h3, ht⟩, hf⟩

/-- Where the issuing subset stands and waits, and everything else is as it was. -/
theorem heldBack_of_unseen {s u t : State} {w : Wait} (h : Unseen s u) (hm : u.mem = s.mem) (hh : u.host = s.host)
    (ho : OnlyGroup u t) (hG : t.G = u.G.modMask u.cur.sub fun L => { L with wait := w }) : HeldBack s t w := by
  have hlane (l : Nat) (hl : l < 32) : t.G.lane l = if bit u.cur.sub l then { u.G.lane l with wait := w } else u.G.lane l := by
    rw [hG, Group.lane_modMask _ _ _ _ hl]
  have hs : Steady u t := ho.steady (by rw [hG]; exact ⟨rfl, rfl, rfl, rfl, by rw [FlagsKept, hG]; exact ⟨rfl, rfl⟩⟩)
  refine ⟨h.regs.trans (.of_lanes ho.store (by rw [hG]; rfl) fun l hl => ?_), ?_, fun l hl => ⟨?_, fun hb => ?_⟩⟩
  · rw [hlane l hl]
    split <;> exact ⟨rfl, rfl, rfl, rfl⟩
  · obtain ⟨⟨m1, m2, m3, m4, m5, m6⟩, m7, m8⟩ := hs
    obtain ⟨⟨n1, n2, n3, n4, n5, n6⟩, n7, n8⟩ := h.steady hm hh
    exact ⟨⟨m1.trans n1, m2.trans n2, m3.trans n3, m4.trans n4, m5.trans n5, m6.trans n6⟩, m7.trans n7, m8.trans n8⟩
  · rw [hlane l hl]
    have := h.lane l hl
    split <;> rw [this]
  · rw [hlane l hl, if_pos (by rwa [h.cur])]

theorem Unseen.holds {s u : State} (h : Unseen s u) (hm : u.mem = s.mem) (hh : u.host = s.host) (w : Wait) :
    HeldBack s (u.hold w) w :=
  heldBack_of_unseen h hm hh (OnlyGroup.of_setG u _ u.due u.nextId) (State.modG_G u _)

end Sys2Proof.Machine
end

section
/-! PROOFS. Events: which counters EVT advances, and the record that EVT.H posts, loses or waits for. -/

namespace Sys2Proof.Machine
open Sys2Proof.Claims

/-! ## Translations read partitions and plinth memory alone -/

section
variable {s u : State} (hp : u.parts = s.parts) (hm : u.mem = s.mem)
include hp

theorem State.ctx_congr (tag ctx : Nat) : u.ctx tag ctx = s.ctx tag ctx := by
  simp only [State.ctx, State.part, hp]

include hm

theorem State.stage2_congr (tag ppa : Nat) : u.stage2 tag ppa = s.stage2 tag ppa := by
  simp only [State.stage2, State.part, hp, hm]

theorem State.leafRes_congr (tag ctx va lvl sh e : Nat) : u.leafRes tag ctx va lvl sh e = s.leafRes tag ctx va lvl sh e := by
  simp only [State.leafRes, State.stage2_congr hp hm]

theorem State.walkFrom_congr (tag ctx va : Nat) (l : List (Nat × Nat × Nat)) (tab : Nat) :
    u.walkFrom tag ctx va l tab = s.walkFrom tag ctx va l tab := by
  induction l generalizing tab with
  | nil => rfl
  | cons x l ih =>
    have hread (pa : Nat) : u.physRead pa 8 = s.physRead pa 8 := by rw [State.physRead, State.physRead, hm]
    rw [State.walkFrom, State.walkFrom, State.stage2_congr hp hm]
    simp only [hread, State.leafRes_congr hp hm, ih]

theorem State.xlate_congr (tag ctx va : Nat) (kind : AccKind) (priv : Priv) :
    u.xlate tag ctx va kind priv = s.xlate tag ctx va kind priv := by
  simp only [State.xlate, State.xlateAt, State.walk, State.ctx_congr hp, State.walkFrom_congr hp hm]

end

/-! ## EVT -/

theorem exec_evt (c : Ctl) (n : BitVec 8) (s : State) : exec (.evt c n) s =
    .next ((if s.active c = [] then s else s.countEvt n.toNat).passed0 c) := rfl
theorem exec_evtH (c : Ctl) (n : BitVec 8) (a : Reg) (s : State) : exec (.evtH c n a) s = execEvtH c n a s := rfl

theorem State.countEvt_counted (s : State) (n : Nat) : Counted s (s.countEvt n) := by
  unfold State.countEvt
  split
  · exact s.countIn_counted _ _ _ _ _
  · exact .refl s

theorem CtxCtl.countsAfter_getD (c : CtxCtl) (cyc : Nat) (sel : W32 → Bool) {i : Nat} (hi : i < 4) :
    (c.countsAfter cyc sel 1).getD i 0 = c.pmc.getD i 0 +
      if (bit (c.pmsIn cyc i) 13 && sel (c.pmsIn cyc i) && c.pmcOpen cyc i) = true then 1 else 0 := by
  unfold CtxCtl.countsAfter
  rw [List.getD_eq_getElem?_getD, List.getElem?_map, List.getElem?_range hi]
  have h1 (a b d : Bool) : (a && b && (1 : Nat) != 0 && d) = (a && b && d) := by simp
  simp only [Option.map_some, Option.getD_some, h1]
  split <;> rfl

/-- The counters after EVT has counted its number (R203). -/
theorem State.countEvt_pmc (s : State) (n : BitVec 8) {i : Nat} (hi : i < 4) :
    (s.countEvt n.toNat).T.ctl.pmc.getD i 0 = s.T.ctl.pmc.getD i 0 + if Counts s n i then 1 else 0 := by
  have hprivG : s.priv = s.G.priv := rfl
  unfold State.countEvt
  by_cases hu : s.priv = .user
  · rw [if_pos hu]
    have hT : (s.countBy s.cur.tile s.T.act (fun w => w.toNat % 256 == 15 && w.toNat / 65536 % 256 == n.toNat) 1).T =
        s.T.setSlot s.T.act ((s.T.slot s.T.act).setPmc (s.T.ctl.countsAfter (s.cycle s.cur.tile)
          (fun w => w.toNat % 256 == 15 && w.toNat / 65536 % 256 == n.toNat) 1)) :=
      (s.countIn_tile _ _ _ _ _ _).trans (if_pos rfl)
    rw [hT, Tile.ctl, Tile.setSlot_act, Tile.slot_setSlot, if_pos rfl]
    change (s.T.ctl.countsAfter (s.cycle s.cur.tile)
      (fun w => w.toNat % 256 == 15 && w.toNat / 65536 % 256 == n.toNat) 1).getD i 0 = _
    rw [s.T.ctl.countsAfter_getD _ _ hi]
    congr 1
    refine if_congr ?_ rfl rfl
    simp only [Counts, ← hprivG, hu, Bool.and_eq_true, beq_iff_eq, true_and, and_assoc]
  · rw [if_neg hu, if_neg fun h => hu (hprivG.trans h.1)]
    rfl

theorem Passed.ctl {s t : State} (h : Passed s t) : t.T.ctl = { s.T.ctl with groups := t.T.ctl.groups } := by
  rw [h.1.T, Tile.ctl_setGroup]

theorem evtPasses (c : Ctl) (n : BitVec 8) (s : State) : ∃ t, exec (.evt c n) s = .next t ∧ LanesStepped s t ∧ SameRegs s t ∧
    Steady s t ∧ (s.active c = [] → Passed s t) ∧
    ∀ i < 4, t.T.ctl.pmc.getD i 0 = s.T.ctl.pmc.getD i 0 + if s.active c ≠ [] ∧ Counts s n i then 1 else 0 := by
  have hc := s.countEvt_counted n.toNat
  rw [exec_evt]
  by_cases ha : s.active c = []
  · rw [if_pos ha]
    obtain ⟨hr, hl, hs⟩ := (Unseen.refl s).passes_steady rfl rfl c
    have hp := (s.passed0_passes c).1
    refine ⟨_, rfl, hl, hr, hs, fun _ => hp, fun i _ => ?_⟩
    rw [hp.ctl, if_neg fun h => h.1 ha]
    rfl
  · rw [if_neg ha]
    obtain ⟨hr, hl, hs⟩ := hc.unseen.passes_steady hc.mem hc.host c
    refine ⟨_, rfl, hl, hr, hs, fun h => absurd h ha, fun i hi => ?_⟩
    have hp := ((s.countEvt n.toNat).passed0_passes c).1
    rw [hp.ctl]
    refine (s.countEvt_pmc n hi).trans ?_
    simp only [ne_eq, ha, not_false_eq_true, true_and]

/-! ## EVT.H -/

theorem ringFull_iff (s : State) : RingFull s ↔
    ((s.ctx s.T.tag s.T.ctl.ctx).map fun x => x.evbase != 0 && x.ringFull).getD false = true := by
  unfold RingFull
  cases s.ctx s.T.tag s.T.ctl.ctx <;> simp

theorem State.mem_putMem (s : State) (pa n v : Nat) : (s.putMem pa n v).mem = Memory.write s.mem pa n v := by
  rw [State.putMem, (State.report_grows _).frame]
  rfl

theorem State.parts_putMem (s : State) (pa n v : Nat) : (s.putMem pa n v).parts = s.parts := by
  rw [State.putMem, (State.report_grows _).frame]
  rfl

/-- A record written to plinth or host memory changes no plinth byte outside its 32. -/
theorem State.mem_devMemWrite_outside (s : State) (c : Option Ctx) {pa b : Nat} (n v : Nat)
    (h : regionOf pa = .plinth ∨ ∃ t off, regionOf pa = .host t off) (hb : b < pa ∨ pa + n ≤ b) :
    Memory.get (s.devMemWrite c pa n v).mem b = Memory.get s.mem b := by
  unfold State.devMemWrite
  rcases h with h | ⟨t, off, h⟩ <;> rw [h]
  · exact (congrArg (Memory.get · b) (s.mem_putMem pa n v)).trans (Memory.get_write_outside s.mem pa n v b hb)
  · rfl

theorem State.mem_modCtx (s : State) (tag ctx : Nat) (f : Ctx → Ctx) : (s.modCtx tag ctx f).mem = s.mem := by
  rw [s.modCtx_frame]

theorem State.host_modCtx (s : State) (tag ctx : Nat) (f : Ctx → Ctx) : (s.modCtx tag ctx f).host = s.host := by
  rw [s.modCtx_frame]

/-- Raising a vector leaves memory and the contexts. -/
theorem State.raiseVector_leaves (s : State) (tag vec : Nat) : (s.raiseVector tag vec).mem = s.mem ∧
    ∀ a b, (s.raiseVector tag vec).ctx a b = s.ctx a b := by
  unfold State.raiseVector
  split
  · split
    · exact ⟨rfl, fun _ _ => rfl⟩
    · split
      · refine ⟨by rw [s.modPart_frame], fun a b => s.ctx_modPart tag _ (fun _ => ?_) a b⟩
        rfl
      · exact ⟨rfl, fun _ _ => rfl⟩
  · exact ⟨rfl, fun _ _ => rfl⟩

theorem State.ringAdvanced_leaves (s : State) (tag ctx : Nat) (c : Ctx) : (s.ringAdvanced tag ctx c).mem = s.mem ∧
    ∀ a b, (s.ringAdvanced tag ctx c).ctx a b = (s.modCtx tag ctx fun c => { c with evprod := (c.evprod + 1) % 2 ^ 32 }).ctx a b := by
  unfold State.ringAdvanced
  dsimp only
  split
  · obtain ⟨h1, h2⟩ := (s.modCtx tag ctx fun c => { c with evprod := (c.evprod + 1) % 2 ^ 32 }).raiseVector_leaves tag c.vec
    exact ⟨h1.trans (s.mem_modCtx tag ctx _), h2⟩
  · exact ⟨s.mem_modCtx tag ctx _, fun _ _ => rfl⟩

theorem State.post_without_ring {s : State} {tag ctx : Nat} {x : Ctx} (h : s.ctx tag ctx = some x) (hb : x.evbase = 0)
    (e : EvRec) : s.post tag ctx e = s := by
  unfold State.post
  simp [h, hb]

theorem State.post_untranslated {s : State} {tag ctx : Nat} {x : Ctx} (h : s.ctx tag ctx = some x) (hb : x.evbase ≠ 0)
    (hr : x.ringFull = false) (hx : s.xlate tag ctx (x.evbase + 32 * (x.evprod % 2 ^ x.logsz)) .write .agent = none)
    (e : EvRec) : s.post tag ctx e = s.modCtx tag ctx fun c => { c with evlost := (c.evlost + 1) % 2 ^ 32 } := by
  unfold State.post
  simp [h, hb, hr, hx]

/-- A record that finds room writes no byte outside its 32 and, in plinth memory, moves the ring on by one. -/
theorem State.post_translated {s : State} {tag ctx pa : Nat} {x : Ctx} (h : s.ctx tag ctx = some x) (hb : x.evbase ≠ 0)
    (hr : x.ringFull = false) (hx : s.xlate tag ctx (x.evbase + 32 * (x.evprod % 2 ^ x.logsz)) .write .agent = some pa)
    (e : EvRec) : (∀ b, b < pa ∨ pa + 32 ≤ b → Memory.get (s.post tag ctx e).mem b = Memory.get s.mem b) ∧
      (regionOf pa = .plinth → ((s.post tag ctx e).ctx tag ctx).map (·.evprod) = some ((x.evprod + 1) % 2 ^ 32)) := by
  have written {v : Nat} (hreg : regionOf pa = .plinth ∨ ∃ t off, regionOf pa = .host t off) :
      ∀ b, b < pa ∨ pa + 32 ≤ b →
        Memory.get ((s.devMemWrite (some x) pa 32 v).ringAdvanced tag ctx x).mem b = Memory.get s.mem b := fun b hb =>
    (congrArg (Memory.get · b) (State.ringAdvanced_leaves _ tag ctx x).1).trans (s.mem_devMemWrite_outside (some x) 32 v hreg hb)
  have lost : ∀ b, b < pa ∨ pa + 32 ≤ b →
      Memory.get (s.modCtx tag ctx fun c => { c with evlost := (c.evlost + 1) % 2 ^ 32 }).mem b = Memory.get s.mem b :=
    fun b _ => congrArg (Memory.get · b) (s.mem_modCtx tag ctx _)
  unfold State.post
  simp only [h, hb, if_false, hr, Bool.false_eq_true, hx]
  cases hreg : regionOf pa with
  | plinth =>
    refine ⟨written (.inl hreg), fun _ => ?_⟩
    refine (congrArg (Option.map _) ((State.ringAdvanced_leaves _ tag ctx x).2 tag ctx)).trans ?_
    have hd : (s.devMemWrite (some x) pa 32 (e.bytes ctx (s.gtime tag))).ctx tag ctx = some x := by
      rw [← h]
      refine State.ctx_congr ?_ tag ctx
      rw [State.devMemWrite, hreg]
      exact s.parts_putMem pa 32 _
    rw [State.ctx_modCtx_same, hd]
    rfl
  | host t off => exact ⟨written (.inr ⟨t, off, hreg⟩), nofun⟩
  | device t off => exact ⟨lost, nofun⟩
  | peer t w off => exact ⟨lost, nofun⟩
  | reserved => exact ⟨lost, nofun⟩

theorem Notified.unseen {s u : State} (h : Notified s u) : Unseen s u := by
  have hc : u.cur = s.cur := by rw [h.frame]
  have ht : u.tiles = s.tiles := by rw [h.frame]
  have hT : u.T = s.T := by rw [State.T, hc, State.T, State.tile_of_tiles ht]
  have hG : u.G = s.G := by rw [State.G, hT, hc, State.G]
  exact .of_group hc hG (.of_group hG (by rw [hT])) (teamData_of_teams hG fun i => by rw [hT])

/-- The record of EVT.H. -/
def State.evtRecord (s : State) (n : BitVec 8) (l : Nat) (a : Reg) : EvRec :=
  { kind := 1, gslot := s.cur.slot, place := s.T.place, n := n.toNat, value := s.src l a 1 }

/-- The state in which EVT.H has counted its number and posted its record. -/
def State.evtPosted (s : State) (n : BitVec 8) (l : Nat) (a : Reg) : State :=
  (s.countEvt n.toNat).post s.T.tag s.T.ctl.ctx (s.evtRecord n l a)

theorem State.evtPosted_unseen (s : State) (n : BitVec 8) (l : Nat) (a : Reg) : Unseen s (s.evtPosted n l a) :=
  (s.countEvt_counted n.toNat).unseen.trans (State.post_notified _ _ _ _).unseen

theorem execEvtH_posts {c : Ctl} {n : BitVec 8} {a : Reg} {s : State} {l : Nat} {r : List Nat} (ha : s.active c = l :: r)
    (hf : ¬ RingFull s) : exec (.evtH c n a) s = .next ((s.evtPosted n l a).passed0 c) := by
  rw [exec_evtH, execEvtH, ha]
  exact if_neg (mt (ringFull_iff s).2 hf)

theorem execEvtH_inactive {c : Ctl} {n : BitVec 8} {a : Reg} {s : State} (ha : s.active c = []) :
    exec (.evtH c n a) s = .next (s.passed0 c) := by
  rw [exec_evtH, execEvtH, ha]
  rfl

theorem evtHolds {c : Ctl} {n : BitVec 8} {a : Reg} {s : State} (ha : s.active c ≠ []) (hf : RingFull s) :
    ∃ t, exec (.evtH c n a) s = .next t ∧ HeldBack s t .none := by
  obtain ⟨l, r, hlr⟩ := List.exists_cons_of_ne_nil ha
  refine ⟨s.hold .none, ?_, (Unseen.refl s).holds rfl rfl .none⟩
  rw [exec_evtH, execEvtH, hlr]
  exact if_pos ((ringFull_iff s).1 hf)

/-- What the record of EVT.H leaves in the ring where there is room. -/
theorem evtHPosts (c : Ctl) (n : BitVec 8) (a : Reg) (s : State) (hf : ¬ RingFull s) :
    ∃ t, exec (.evtH c n a) s = .next t ∧ LanesStepped s t ∧ SameRegs s t ∧ FlagsKept s t ∧
      t.teamData = s.teamData ∧ t.G.xpc = s.G.xpc ∧ t.G.xstat = s.G.xstat ∧ t.G.gang = s.G.gang ∧
      ∀ x, s.active c ≠ [] → s.ctx s.T.tag s.T.ctl.ctx = some x →
        (x.evbase = 0 → Steady s t ∧ t.ctx s.T.tag s.T.ctl.ctx = some x) ∧
        (x.evbase ≠ 0 → ∀ pa, s.xlate s.T.tag s.T.ctl.ctx (x.evbase + 32 * (x.evprod % 2 ^ x.logsz)) .write .agent = some pa →
          (∀ b, b < pa ∨ pa + 32 ≤ b → Memory.get t.mem b = Memory.get s.mem b) ∧
          (regionOf pa = .plinth →
            (t.ctx s.T.tag s.T.ctl.ctx).map (·.evprod) = some ((x.evprod + 1) % 2 ^ 32))) := by
  by_cases ha : s.active c = []
  · obtain ⟨hl, hr, hk, ht, h1, h2, h3⟩ := (Unseen.refl s).passes c
    exact ⟨_, execEvtH_inactive ha, hl, hr, hk, ht, h2, h3, h1, fun x h => absurd ha h⟩
  obtain ⟨l, r, hlr⟩ := List.exists_cons_of_ne_nil ha
  have hu := s.evtPosted_unseen n l a
  have hc := s.countEvt_counted n.toNat
  obtain ⟨hl, hr, hk, ht, h1, h2, h3⟩ := hu.passes c
  refine ⟨_, execEvtH_posts hlr hf, hl, hr, hk, ht, h2, h3, h1, fun x _ hx => ?_⟩
  have ho := ((s.evtPosted n l a).passed0_passes c).1.1
  have hparts : ((s.evtPosted n l a).passed0 c).parts = (s.evtPosted n l a).parts := by rw [ho]; rfl
  have hx' : (s.countEvt n.toNat).ctx s.T.tag s.T.ctl.ctx = some x := (State.ctx_congr hc.parts _ _).trans hx
  refine ⟨fun h0 => ?_, fun hne pa hpa => ?_⟩
  · have he : s.evtPosted n l a = s.countEvt n.toNat := State.post_without_ring hx' h0 _
    refine ⟨(hu.passes_steady ?_ ?_ c).2.2, ?_⟩
    · rw [he, hc.mem]
    · rw [he, hc.host]
    · rw [State.ctx_congr hparts, he, hx']
  · have hroom : x.ringFull = false := Bool.eq_false_iff.2 fun h => hf ⟨x, hx, hne, h⟩
    obtain ⟨hmem, hring⟩ := State.post_translated hx' hne hroom ((State.xlate_congr hc.parts hc.mem _ _ _ _ _).trans hpa)
      (s.evtRecord n l a)
    refine ⟨fun b hb => ?_, fun hreg => ?_⟩
    · rw [ho.mem, ← hc.mem]
      exact hmem b hb
    · rw [State.ctx_congr hparts]
      exact hring hreg

/-- A record that cannot be written is counted. -/
theorem evtHLoses (c : Ctl) (n : BitVec 8) (a : Reg) (s : State) (x : Ctx) (ha : s.active c ≠ [])
    (hx : s.ctx s.T.tag s.T.ctl.ctx = some x) (hb : x.evbase ≠ 0) (hr : x.ringFull = false)
    (hn : s.xlate s.T.tag s.T.ctl.ctx (x.evbase + 32 * (x.evprod % 2 ^ x.logsz)) .write .agent = none) :
    ∃ t, exec (.evtH c n a) s = .next t ∧ LanesStepped s t ∧ SameRegs s t ∧ Steady s t ∧
      (t.ctx s.T.tag s.T.ctl.ctx).map (·.evlost) = some ((x.evlost + 1) % 2 ^ 32) := by
  obtain ⟨l, r, hlr⟩ := List.exists_cons_of_ne_nil ha
  have hc := s.countEvt_counted n.toNat
  have hx' : (s.countEvt n.toNat).ctx s.T.tag s.T.ctl.ctx = some x := (State.ctx_congr hc.parts _ _).trans hx
  have hf : ¬ RingFull s := by
    rintro ⟨y, hy, -, hfull⟩
    rw [hx] at hy
    cases hy
    rw [hr] at hfull
    cases hfull
  have he : s.evtPosted n l a = _ :=
    State.post_untranslated hx' hb hr ((State.xlate_congr hc.parts hc.mem _ _ _ _ _).trans hn) (s.evtRecord n l a)
  have ho := ((s.evtPosted n l a).passed0_passes c).1.1
  have hparts : ((s.evtPosted n l a).passed0 c).parts = (s.evtPosted n l a).parts := by rw [ho]; rfl
  obtain ⟨hregs, hlanes, hs⟩ := (s.evtPosted_unseen n l a).passes_steady (by rw [he, State.mem_modCtx, hc.mem])
    (by rw [he, State.host_modCtx, hc.host]) c
  refine ⟨_, execEvtH_posts hlr hf, hlanes, hregs, hs, ?_⟩
  rw [State.ctx_congr hparts, he, State.ctx_modCtx_same, hx']
  rfl

theorem eventInstructions : EventInstructions := by
  refine ⟨evtPasses, fun c n a s => ⟨fun ha => ?_, evtHolds, evtHPosts c n a s, evtHLoses c n a s⟩⟩
  obtain ⟨hp, hf, hr⟩ := s.passed0_passes c
  exact ⟨_, execEvtH_inactive ha, hp, hr, hf⟩

end Sys2Proof.Machine
end

section
/-! PROOFS. Templates and stamps: what FRZ enters into the store, and what STAMP queues. -/

namespace Sys2Proof.Machine
open Sys2Proof.Claims

/-! ## Tables and masks that a list fills -/

theorem getD_foldl_amPut {α : Type} [DecidableEq α] (d : α) (f : Nat → α) (l : List Nat) (m : AMap α) (i : Nat) :
    (amGet (l.foldl (fun m j => amPut d m j (f j)) m) i).getD d = if i ∈ l then f i else (amGet m i).getD d := by
  induction l generalizing m with
  | nil => simp
  | cons x l ih =>
    rw [List.foldl_cons, ih, amGet_amPut]
    by_cases hl : i ∈ l <;> by_cases hx : i = x <;> simp [hl, hx]

theorem bit_ofNat {w : Nat} (v : Nat) {i : Nat} (h : i < w) : bit (BitVec.ofNat w v) i = tbit v i := by
  rw [bit, BitVec.getLsbD_ofNat, tbit, Nat.testBit_eq_decide_div_mod_eq]
  simp [h]
  rfl

theorem bit_setBits {w : Nat} (l : List Nat) {i : Nat} (h : i < w) : bit (l.foldl setBit (0 : BitVec w)) i = decide (i ∈ l) := by
  rw [bit_foldl_setBit l 0 h, bit_zero, Bool.false_or]

/-! ## An instruction that passes and leaves a record -/

theorem State.issued_passes (s : State) (o : OutInst) (l : List Instr) : let t := ((s.issueOut o).push l).next
    Passed s t ∧ FlagsKept s t ∧ SameRegs s t ∧ o ∈ t.G.out := by
  intro t
  have hn : t = { s.setG ((s.G.record o).advance s.cur.sub) with due := ((s.issueOut o).push l).due, nextId := s.nextId + 1 } :=
    State.next_of s ((s.issueOut o).push l) (s.G.record o) rfl
  have hG : t.G = (s.G.record o).advance s.cur.sub := by rw [hn]; exact State.setG_G s _
  have hp : Passed s t := State.passed_of s t (s.G.record o) _ _ hn rfl fun _ _ => rfl
  refine ⟨hp, ?_, ?_, ?_⟩
  · rw [FlagsKept, hG, Group.advance_frame]
    exact ⟨rfl, rfl⟩
  · refine .of_lanes hp.1.store (by rw [hG, Group.advance_frame]; rfl) fun i hi => ?_
    rw [hG, Group.lane_advance _ _ _ hi, Group.lane_record]
    split <;> exact ⟨rfl, rfl, rfl, rfl⟩
  · rw [hG, Group.advance_frame]
    exact List.mem_append_right _ (List.mem_singleton.2 rfl)

/-! ## FRZ -/

/-- The template that FRZ makes of the lowest active lane's registers (R40). -/
def State.frzTemplate (s : State) (idx : Fin 128) (mask : Reg) (n : Fin 16) (off : BitVec 16) (l : Nat) (x : Team) (d : Nat) : Template :=
  let sel := (List.range 128).filter fun i => bit (BitVec.ofNat 128 (s.src l mask 4)) i && i != idx.val
  { ctx := s.T.ctl.ctx, cslot := s.T.act, teams := [x.id], seq := x.seq, num := n.val
    entry := wrap 64 ((s.cur.pc : Int) + 8 * off.toInt), idx := idx.val, parent := (s.G.lane l).tmpl, depth := d
    k := (List.range 32).foldl (fun m i => amPut 0 m i (s.reg l (128 + i))) []
    pred := clrBit (s.G.lane l).p 0
    mask := sel.foldl setBit 0
    v := (sel.filter fun i => !bit (s.G.lane l).back i).foldl (fun m i => amPut 0 m i (s.reg l i)) []
    link := (sel.filter fun i => bit (s.G.lane l).back i).foldl setBit 0
    live := false, host := false, bad := false }

/-- A template stands in a slot of the issuing tile's store. -/
def State.storeTemplate (s : State) (slot : Nat) (tm : Template) : State :=
  s.modTile s.cur.tile fun T => { T with store := amSet T.store slot tm }

/-- FRZ passes with its record once its template stands in the store. -/
def State.frzIssued (s : State) (c : Ctl) (slot : Nat) (tm : Template) : State :=
  (((s.storeTemplate slot tm).issueOut { s.outInst c with kind := 32, frz := some slot }).push
    [.instructionComplete s.cur.tile s.cur.slot s.nextId]).next

theorem exec_frz (c : Ctl) (idx : Fin 128) (mask : Reg) (n : Fin 16) (off : BitVec 16) (s : State) :
    exec (.frz c idx mask n off) s = execFrz c idx mask n off s := rfl
theorem exec_stamp (c : Ctl) (n : Fin 16) (base cnt : Reg) (s : State) :
    exec (.stamp c n base cnt) s = execStamp c n base cnt s := rfl

theorem execFrz_issues {c : Ctl} {idx : Fin 128} {mask : Reg} {n : Fin 16} {off : BitVec 16} {s : State} {l slot d : Nat}
    {r rest : List Nat} {x : Team} (ha : s.active c = l :: r) (hx : s.curTeam = some x) (hname : s.T.tmplNamed x n.val = none)
    (hfree : s.T.freeTmpl = slot :: rest)
    (hmask : ∀ i < 128, tbit (s.src l mask 4) i = true → i < poolNv s.T.ctl.pool)
    (hdepth : ((((s.G.lane l).tmpl.bind fun sl => amGet s.T.store sl)).map (·.depth)).getD 0 = d) (hd : d ≤ 3)
    (hbad : ∀ p, ((s.G.lane l).tmpl.bind fun sl => amGet s.T.store sl) = some p → p.bad = false) :
    exec (.frz c idx mask n off) s = .next (s.frzIssued c slot (s.frzTemplate idx mask n off l x (d + 1))) := by
  have hm : ((List.range 128).any fun i => bit (BitVec.ofNat 128 (s.src l mask 4)) i && decide (poolNv s.T.ctl.pool ≤ i)) = false := by
    rw [List.any_eq_false]
    intro i hi h
    simp only [Bool.and_eq_true, decide_eq_true_eq] at h
    have hi := List.mem_range.1 hi
    exact absurd (hmask i hi (by rw [← bit_ofNat (w := 128) _ hi]; exact h.1)) (Nat.not_lt.2 h.2)
  rw [exec_frz]
  unfold execFrz
  simp only [ha, hx, hname, hfree]
  generalize hp : ((s.G.lane l).tmpl.bind fun sl => amGet s.T.store sl) = parent at hdepth hbad ⊢
  rw [if_neg (by simp), if_neg (by rw [Bool.not_eq_true]; exact hm)]
  cases parent with
  | none =>
    obtain rfl : 0 = d := hdepth
    rfl
  | some p =>
    obtain rfl : p.depth = d := hdepth
    have hb := hbad p rfl
    simp only [Option.map_some, Option.getD_some, hb]
    rw [if_neg (by omega), if_neg (by simp)]
    rfl

/-- Values in templates are as before where nothing names the slot that a new template takes. -/
theorem Tile.tval_amSet {T : Tile} {slot : Nat} (tm : Template) (h : ∀ e ∈ T.store, e.2.parent ≠ some slot) (n : Nat)
    {o : Option Nat} (ho : o ≠ some slot) (i : Nat) :
    ({ T with store := amSet T.store slot tm } : Tile).tval n o i = T.tval n o i := by
  induction n generalizing o with
  | zero => rfl
  | succ n ih =>
    cases o with
    | none => rfl
    | some sl =>
      have hsl : amGet (amSet T.store slot tm) sl = amGet T.store sl :=
        amGet_amSet_other _ _ _ _ fun e => ho (congrArg some e)
      simp only [Tile.tval, hsl]
      cases hg : amGet T.store sl with
      | none => rfl
      | some t =>
        dsimp only
        rw [ih (h _ (mem_of_amGet hg))]

theorem State.storeTemplate_T (s : State) (slot : Nat) (tm : Template) :
    (s.storeTemplate slot tm).T = { s.T with store := amSet s.T.store slot tm } :=
  (s.tile_modTile s.cur.tile s.cur.tile _).trans (if_pos rfl)

theorem State.storeTemplate_G (s : State) (slot : Nat) (tm : Template) : (s.storeTemplate slot tm).G = s.G := by
  rw [State.G, State.storeTemplate_T]
  rfl

theorem State.storeTemplate_team (s : State) (slot : Nat) (tm : Template) (i : Nat) :
    (s.storeTemplate slot tm).T.team i = s.T.team i := by
  rw [State.storeTemplate_T]
  rfl

theorem State.storeTemplate_sameRegs {s : State} {slot : Nat} (tm : Template)
    (hl : ∀ m < 32, (s.G.lane m).tmpl ≠ some slot) (hs : ∀ e ∈ s.T.store, e.2.parent ≠ some slot) :
    SameRegs s (s.storeTemplate slot tm) := by
  intro l h r _
  rw [State.val, State.storeTemplate_G, State.storeTemplate_T]
  unfold State.val Tile.regNow Tile.vreg
  simp only [Tile.tval_amSet tm hs 5 (hl l h)]

/-- The state after FRZ: its lanes have passed, its template stands in its slot, and its record names the slot. -/
theorem State.frzIssued_leaves (s : State) (c : Ctl) (slot : Nat) (tm : Template) : let t := s.frzIssued c slot tm
    LanesStepped s t ∧ Steady s t ∧
      ((∀ m < 32, (s.G.lane m).tmpl ≠ some slot) → (∀ e ∈ s.T.store, e.2.parent ≠ some slot) → SameRegs s t) ∧
      t.T.store = amSet s.T.store slot tm ∧ ∃ o ∈ t.G.out, o.iid = s.nextId ∧ o.frz = some slot ∧ o.tag = c.set.val := by
  intro t
  set u := s.storeTemplate slot tm with hu
  set o : OutInst := { s.outInst c with kind := 32, frz := some slot } with ho
  obtain ⟨hp, hf, hr, hout⟩ := u.issued_passes o [.instructionComplete s.cur.tile s.cur.slot s.nextId]
  obtain ⟨⟨hm, hh, h1, h2, h3, h4⟩, h5, h6⟩ := hp.steady hf
  have hG := s.storeTemplate_G slot tm
  have ht : u.teamData = s.teamData := teamData_of_teams hG (s.storeTemplate_team slot tm)
  rw [← hu] at hG
  rw [hG] at h1 h2 h3 h5 h6
  have hl := hp.2.2
  refine ⟨fun l h => ?_, ⟨⟨hm, hh, h1, h2, h3, h4.trans ht⟩, h5, h6⟩,
    fun hlanes hstore => (State.storeTemplate_sameRegs tm hlanes hstore).trans hr, ?_, o, hout, rfl, rfl, rfl⟩
  · have := hl l h
    rw [hG] at this
    exact this
  · refine hp.1.store.trans ?_
    rw [hu, State.storeTemplate_T]

theorem frzEnters (c : Ctl) (idx : Fin 128) (mask : Reg) (n : Fin 16) (off : BitVec 16) (s : State) (l slot d : Nat)
    (rest : List Nat) (x : Team) : let parent := (s.G.lane l).tmpl.bind fun sl => amGet s.T.store sl
    (s.active c).head? = some l → s.curTeam = some x → s.T.tmplNamed x n.val = none → s.T.freeTmpl = slot :: rest →
    (∀ i < 128, tbit (s.src l mask 4) i = true → i < poolNv s.T.ctl.pool) →
    (parent.map (·.depth)).getD 0 = d → d ≤ 3 → (∀ p, parent = some p → p.bad = false) →
    ∃ t tm, exec (.frz c idx mask n off) s = .next t ∧ LanesStepped s t ∧ Steady s t ∧
      ((∀ m < 32, (s.G.lane m).tmpl ≠ some slot) → (∀ e ∈ s.T.store, e.2.parent ≠ some slot) → SameRegs s t) ∧
      amGet t.T.store slot = some tm ∧ tm.num = n.val ∧ tm.teams = [x.id] ∧ tm.idx = idx.val ∧ tm.depth = d + 1 ∧
      tm.live = false ∧ tm.parent = (s.G.lane l).tmpl ∧ (∃ o ∈ t.G.out, o.iid = s.nextId ∧ o.frz = some slot ∧ o.tag = c.set.val) ∧
      tm.entry = wrap 64 ((s.cur.pc : Int) + 8 * off.toInt) ∧
      (∀ i < 128, bit tm.mask i = (tbit (s.src l mask 4) i && i != idx.val)) ∧
      (∀ i < 128, bit tm.link i = (bit tm.mask i && bit (s.G.lane l).back i)) ∧
      (∀ i < 128, bit tm.mask i = true → bit (s.G.lane l).back i = false → (amGet tm.v i).getD 0 = s.reg l i) ∧
      (∀ i < 32, (amGet tm.k i).getD 0 = s.reg l (128 + i)) ∧
      ∀ u, u ≠ slot → amGet t.T.store u = amGet s.T.store u := by
  intro parent ha hx hname hfree hmask hdepth hd hbad
  obtain ⟨r, ha⟩ := List.head?_eq_some_iff.1 ha
  have hrun := execFrz_issues (idx := idx) (off := off) ha hx hname hfree hmask hdepth hd hbad
  set tm := s.frzTemplate idx mask n off l x (d + 1) with htm
  obtain ⟨hl, hs, hr, hst, hout⟩ := s.frzIssued_leaves c slot tm
  set sel := (List.range 128).filter fun i => bit (BitVec.ofNat 128 (s.src l mask 4)) i && i != idx.val with hsel
  have mem_sel {i : Nat} (hi : i < 128) : i ∈ sel ↔ (tbit (s.src l mask 4) i && i != idx.val) = true := by
    rw [hsel, List.mem_filter, bit_ofNat _ hi]
    exact and_iff_right (List.mem_range.2 hi)
  have hbit {i : Nat} (hi : i < 128) : bit tm.mask i = (tbit (s.src l mask 4) i && i != idx.val) := by
    rw [show tm.mask = sel.foldl setBit 0 from rfl, bit_setBits sel hi, Bool.eq_iff_iff, decide_eq_true_iff, mem_sel hi]
  refine ⟨_, tm, hrun, hl, hs, hr, by rw [hst, amGet_amSet_same], rfl, rfl, rfl, rfl, rfl, rfl, hout, rfl, fun i hi => hbit hi,
    fun i hi => ?_, fun i hi hmi hbi => ?_, fun i hi => ?_, fun u hu => by rw [hst, amGet_amSet_other _ _ _ _ hu]⟩
  · rw [hbit hi, show tm.link = (sel.filter fun i => bit (s.G.lane l).back i).foldl setBit 0 from rfl, bit_setBits _ hi,
      Bool.eq_iff_iff, decide_eq_true_iff, List.mem_filter, mem_sel hi]
    simp only [Bool.and_eq_true]
  · rw [show tm.v = (sel.filter fun i => !bit (s.G.lane l).back i).foldl (fun m i => amPut 0 m i (s.reg l i)) [] from rfl,
      getD_foldl_amPut, if_pos (List.mem_filter.2 ⟨(mem_sel hi).2 (by rw [← hbit hi]; exact hmi), by rw [hbi]; rfl⟩)]
  · exact (getD_foldl_amPut 0 (fun i => s.reg l (128 + i)) (List.range 32) [] i).trans (if_pos (List.mem_range.2 hi))

theorem freezeTemplate : FreezeTemplate := by
  refine fun c idx mask n off s => ⟨fun ha => ?_, fun l slot d rest x => frzEnters c idx mask n off s l slot d rest x⟩
  obtain ⟨hp, hf, hr⟩ := s.passed0_passes c
  refine ⟨s.passed0 c, ?_, hp, hr, hf⟩
  rw [exec_frz, execFrz, ha]
  rfl

/-! ## Teams of a tile -/

@[simp] theorem Tile.team_setTeam (T : Tile) (x : Team) (i : Nat) : (T.setTeam x).team i = if i = x.id then some x else T.team i := by
  rw [Tile.setTeam, Tile.team, Tile.ctl_setCtl, amGet_amSet, Tile.team]

@[simp] theorem Tile.store_setTeam (T : Tile) (x : Team) : (T.setTeam x).store = T.store := rfl

/-- Another control state with the same groups. -/
theorem Tile.group_setCtl {T : Tile} {c : CtxCtl} (h : c.groups = T.ctl.groups) (g : Nat) : (T.setCtl c).group g = T.group g := by
  unfold Tile.group
  rw [Tile.ctl_setCtl, h]
  rfl

@[simp] theorem Tile.group_setTeam (T : Tile) (x : Team) (g : Nat) : (T.setTeam x).group g = T.group g := by
  refine Tile.group_setCtl ?_ g
  rfl

theorem Tile.modTeam_of_team {T : Tile} {i : Nat} {x : Team} (h : T.team i = some x) (f : Team → Team) :
    T.modTeam i f = T.setTeam (f x) := by
  unfold Tile.modTeam
  rw [h]

/-! ## STAMP -/

theorem length_stampGroups (slot base n : Nat) : (stampGroups slot base n).length = (n + 31) / 32 := by simp [stampGroups]

theorem getElem?_stampGroups {slot base n i : Nat} {g : Stamped} (h : (stampGroups slot base n)[i]? = some g) :
    g.tmpl = slot ∧ g.base = (base + 32 * i) % 2 ^ 32 ∧ g.n = min 32 (n - 32 * i) := by
  obtain ⟨j, hj, rfl⟩ := by simpa [stampGroups, List.getElem?_map] using h
  obtain ⟨-, rfl⟩ := List.getElem?_eq_some_iff.1 hj
  simp

/-- Further groups join a team's queue. -/
def Team.queue (gs : List Stamped) (x : Team) : Team := { x with pend := x.pend ++ gs }

/-- The state in which a team's groups wait in its queue and their launches are due. -/
def State.stamped (s : State) (x : Team) (gs : List Stamped) : State :=
  (s.modTile s.cur.tile fun T => T.modTeam x.id (Team.queue gs)).push
    (gs.map fun _ => .stampedGroupLaunch s.cur.tile x.id)

theorem State.stamped_T {s : State} {x : Team} (h : s.T.team x.id = some x) (gs : List Stamped) :
    (s.stamped x gs).T = s.T.setTeam (x.queue gs) :=
  ((s.tile_modTile s.cur.tile s.cur.tile fun T => T.modTeam x.id (Team.queue gs)).trans (if_pos rfl)).trans
    (Tile.modTeam_of_team h (Team.queue gs))

theorem State.stamped_unseen {s : State} {x : Team} (h : s.T.team x.id = some x) (hx : s.curTeam = some x) (gs : List Stamped) :
    Unseen s (s.stamped x gs) := by
  have hT := State.stamped_T h gs
  have hG : (s.stamped x gs).G = s.G := by
    rw [State.G, hT, Tile.group_setTeam]
    rfl
  refine .of_group rfl hG (.of_group hG (by rw [hT, Tile.store_setTeam])) ?_
  rw [State.teamData, State.teamData, State.curTeam, hG, hT, hx, Tile.team_setTeam]
  split
  · rfl
  · rw [show s.T.team s.G.team = some x from hx]

section
variable {c : Ctl} {n : Fin 16} {base cnt : Reg} {s : State} {l slot : Nat} {r : List Nat} {x : Team} {tm : Template}
  (ha : s.active c = l :: r) (hx : s.curTeam = some x) (ht : s.T.tmplOf x n.val = some (slot, tm))
include ha hx ht

theorem execStamp_queues (hc : s.src l cnt 1 ≤ 1024) (hb : tm.bad = false)
    (hroom : x.pend.length + (s.src l cnt 1 + 31) / 32 ≤ 32) : exec (.stamp c n base cnt) s =
      .next ((s.stamped x (stampGroups slot (s.src l base 1) (s.src l cnt 1))).passed0 c) := by
  rw [exec_stamp]
  unfold execStamp
  simp only [ha, hx, ht, hb]
  rw [if_neg (by omega), if_neg (by simp), if_neg (by rw [length_stampGroups]; omega)]
  rfl

theorem execStamp_holds (hc : s.src l cnt 1 ≤ 1024) (hb : tm.bad = false)
    (hfull : 32 < x.pend.length + (s.src l cnt 1 + 31) / 32) : exec (.stamp c n base cnt) s = .next (s.hold .none) := by
  rw [exec_stamp]
  unfold execStamp
  simp only [ha, hx, ht, hb]
  rw [if_neg (by omega), if_neg (by simp), if_pos (by rw [length_stampGroups]; omega)]

theorem execStamp_traps (hc : 1024 < s.src l cnt 1) :
    exec (.stamp c n base cnt) s = .next (s.trapLane 0xFF .tmpl 6 (s.src l cnt 1) 0) := by
  rw [exec_stamp]
  unfold execStamp
  simp only [ha, hx, ht]
  rw [if_pos hc]
  rfl

end

theorem stampQueues : StampQueues := by
  refine fun c n base cnt s => ⟨fun ha => ?_, fun l slot x tm ha hx hid ht => ?_⟩
  · obtain ⟨hp, hf, hr⟩ := s.passed0_passes c
    refine ⟨s.passed0 c, ?_, hp, hr, hf⟩
    rw [exec_stamp, execStamp, ha]
    rfl
  obtain ⟨r, ha⟩ := List.head?_eq_some_iff.1 ha
  refine ⟨fun hc hb hroom => ?_, fun hc hb hfull => ?_, fun hc => ?_⟩
  · set gs := stampGroups slot (s.src l base 1) (s.src l cnt 1) with hgs
    obtain ⟨hr, hl, hs⟩ := (State.stamped_unseen hid hx gs).passes_steady rfl rfl c
    have hT := State.stamped_T hid gs
    refine ⟨_, x.queue gs, execStamp_queues ha hx ht hc hb hroom, hr, hl, hs, ?_, ?_, ?_, fun i g hg => ?_⟩
    · rw [((s.stamped x gs).passed0_passes c).1.1.team, hT, Tile.team_setTeam]
      exact if_pos rfl
    · simp [Team.queue]
    · simp [Team.queue, hgs, length_stampGroups]
    · exact getElem?_stampGroups (by simpa [Team.queue] using hg)
  · exact ⟨_, execStamp_holds ha hx ht hc hb hfull, (Unseen.refl s).holds rfl rfl .none⟩
  · exact ⟨_, execStamp_traps ha hx ht hc, (s.trapLane_trapped 0xFF .tmpl 6 (s.src l cnt 1) 0 fun h => by cases h.2).1⟩

end Sys2Proof.Machine
end

section
/-! PROOFS. Bins that take items, and SPAWN: the items of a subset enter their bin one by one, or travel to another tile. -/

namespace Sys2Proof.Machine
open Sys2Proof.Claims

/-! ## A bin takes an item -/

theorem itemInsert_perm (it : Item) (l : List Item) : (itemInsert it l).Perm (l ++ [it]) := by
  induction l with
  | nil => exact .refl _
  | cons x r ih =>
    unfold itemInsert
    split
    · exact (List.perm_append_comm (l₁ := [it]) (l₂ := x :: r))
    · exact ih.cons x

theorem length_itemInsert (it : Item) (l : List Item) : (itemInsert it l).length = l.length + 1 := by
  rw [(itemInsert_perm it l).length_eq, List.length_append]
  rfl

/-- The first entry of a table that meets a condition is the one just set, where no other came before it. -/
theorem find?_amSet {α : Type} {p : Nat × α → Bool} {k : Nat} {x : α} (hp : p (k, x) = true) (m : AMap α)
    (h : ∀ e, m.find? p = some e → e.1 = k) : (amSet m k x).find? p = some (k, x) := by
  induction m with
  | nil => simp [amSet, hp]
  | cons y r ih =>
    obtain ⟨j, y⟩ := y
    unfold amSet
    split
    · next hj =>
      have hy : p (j, y) = false := by
        rw [Bool.eq_false_iff]
        intro hy
        exact absurd (h (j, y) (List.find?_cons_of_pos hy)) (Nat.ne_of_lt hj)
      rw [List.find?_cons_of_neg (by simp [hy])]
      exact ih fun e he => h e ((List.find?_cons_of_neg (by simp [hy])).trans he)
    · split <;> rw [List.find?_cons_of_pos hp]

/-- The bin of a tile that takes the items of a template and a team, with the items it holds (R45). -/
def Tile.Takes (T : Tile) (slot team b : Nat) (old : List Item) : Prop :=
  (∃ y, T.ctl.bins.find? (fun e => e.2.tmpl == slot && e.2.team == team) = some (b, y) ∧ y.items = old) ∨
  (T.ctl.bins.find? (fun e => e.2.tmpl == slot && e.2.team == team) = none ∧
    (List.range 16).find? (fun k => (amGet T.ctl.bins k).isNone) = some b ∧ old = [])

/-- Other bins stand in a tile. -/
def Tile.setBins (T : Tile) (m : AMap Bin) : Tile := T.setCtl { T.ctl with bins := m }

@[simp] theorem Tile.ctl_setBins (T : Tile) (m : AMap Bin) : (T.setBins m).ctl = { T.ctl with bins := m } := T.ctl_setCtl _
@[simp] theorem Tile.group_setBins (T : Tile) (m : AMap Bin) (g : Nat) : (T.setBins m).group g = T.group g := by
  refine Tile.group_setCtl ?_ g
  rfl
@[simp] theorem Tile.team_setBins (T : Tile) (m : AMap Bin) (i : Nat) : (T.setBins m).team i = T.team i := by
  rw [Tile.team, Tile.ctl_setBins, Tile.team]
@[simp] theorem Tile.store_setBins (T : Tile) (m : AMap Bin) : (T.setBins m).store = T.store := rfl

theorem Tile.binOffer_of_takes {T : Tile} {slot team b : Nat} {old : List Item} (it : Item) (h : T.Takes slot team b old)
    (hl : old.length < 64) : ∃ z, T.binOffer slot team it = some (T.setBins (amSet T.ctl.bins b z)) ∧ z.tmpl = slot ∧
      z.team = team ∧ z.items = itemInsert it old := by
  unfold Tile.binOffer
  rcases h with ⟨y, hf, rfl⟩ | ⟨hf, hb, rfl⟩
  · have hy := List.find?_some hf
    simp only [Bool.and_eq_true, beq_iff_eq] at hy
    simp only [hf, if_pos hl]
    exact ⟨_, rfl, hy.1, hy.2, rfl⟩
  · simp only [hf, hb]
    exact ⟨_, rfl, rfl, rfl, rfl⟩

theorem Tile.takes_setBins {T : Tile} {slot team b : Nat} {old : List Item} {z : Bin} (h : T.Takes slot team b old)
    (ht : z.tmpl = slot) (hm : z.team = team) : (T.setBins (amSet T.ctl.bins b z)).Takes slot team b z.items := by
  refine .inl ⟨z, ?_, rfl⟩
  rw [Tile.ctl_setBins]
  refine find?_amSet (by simp [ht, hm]) _ fun e he => ?_
  rcases h with ⟨y, hf, -⟩ | ⟨hf, -, -⟩
  · rw [hf] at he
    rw [← Option.some.inj he]
  · rw [hf] at he
    cases he

theorem Tile.Takes.of_bins {T U : Tile} (h : U.ctl.bins = T.ctl.bins) {slot team b : Nat} {old : List Item}
    (k : T.Takes slot team b old) : U.Takes slot team b old := by
  unfold Tile.Takes at k ⊢
  rwa [h]

/-! ## One lane of a SPAWN -/

/-- A lane of the issuing group has made its progress. -/
def State.laneDone (s : State) (l : Nat) : State := s.modG fun g => g.modLane l fun L => { L with done := true }

/-- The item of a lane has entered a bin of the own tile. -/
def State.accepted (s : State) (m : AMap Bin) (l : Nat) : State :=
  ((s.setTile s.cur.tile (s.T.setBins m)).binTook s.cur.tile s.cur.tile (s.priv == .user)).laneDone l

theorem State.laneDone_unseen {s : State} {l : Nat} (hl : bit s.cur.sub l = true) : Unseen s (s.laneDone l) := by
  have hlane (i : Nat) (hi : i < 32) : (s.laneDone l).G.lane i = if i = l then { s.G.lane i with done := true } else s.G.lane i := by
    rw [State.laneDone, State.modG_G, Group.lane_modLane _ _ _ _ hi]
  have hG : (s.laneDone l).G = { s.G with lanes := (s.laneDone l).G.lanes } := by
    rw [State.laneDone, State.modG_G]
    rfl
  have ho : OnlyGroup s (s.laneDone l) := OnlyGroup.of_setG s _ s.due s.nextId
  have hs : Steady s (s.laneDone l) := ho.steady (by rw [hG]; exact ⟨rfl, rfl, rfl, rfl, by rw [FlagsKept, hG]; exact ⟨rfl, rfl⟩⟩)
  obtain ⟨⟨-, -, h1, h2, h3, h4⟩, h5⟩ := hs
  refine ⟨ho.cur, fun i hi => ?_, fun i hi hb => ?_, .of_lanes ho.store (by rw [hG]) fun i hi => ?_, h5, ⟨h1, h2, h3⟩, h4⟩
  · rw [hlane i hi]
    split <;> rfl
  · rw [hlane i hi, if_neg]
    rintro rfl
    rw [hl] at hb
    cases hb
  · rw [hlane i hi]
    split <;> exact ⟨rfl, rfl, rfl, rfl⟩

theorem State.setBins_unseen (s : State) (m : AMap Bin) : Unseen s (s.setTile s.cur.tile (s.T.setBins m)) := by
  have hT : (s.setTile s.cur.tile (s.T.setBins m)).T = s.T.setBins m := (s.tile_setTile _ _ _).trans (if_pos rfl)
  have hG : (s.setTile s.cur.tile (s.T.setBins m)).G = s.G := by
    rw [State.G, hT, Tile.group_setBins]
    rfl
  refine .of_group rfl hG (.of_group hG (by rw [hT, Tile.store_setBins])) (teamData_of_teams hG fun i => ?_)
  rw [hT, Tile.team_setBins]

theorem State.laneDone_T (s : State) (l : Nat) : (s.laneDone l).T = s.T.setGroup s.cur.slot (s.laneDone l).G := by
  unfold State.laneDone State.modG
  rw [State.setG_T, State.setG_G]

theorem State.laneDone_G (s : State) (l : Nat) : (s.laneDone l).G = { s.G with lanes := (s.laneDone l).G.lanes } := by
  rw [State.laneDone, State.modG_G]
  rfl

@[simp] theorem Tile.places_setGroup (T : Tile) (g : Nat) (x : Group) : (T.setGroup g x).places = T.places := by
  unfold Tile.setGroup
  split <;> rfl

/-- What is left of a state whose subset puts items into a bin: nothing that it reads has changed, and the bin holds the items. -/
structure Spawning (s u : State) (slot team b : Nat) (items : List Item) : Prop where
  unseen : Unseen s u
  frame : u = { s with tiles := u.tiles, due := u.due }
  store : u.T.store = s.T.store
  places : u.T.places = s.T.places
  held : u.T.ctl.held = s.T.ctl.held
  curTeam : u.curTeam = s.curTeam
  takes : u.T.Takes slot team b items

theorem Spawning.refl {s : State} {slot team b : Nat} {items : List Item} (h : s.T.Takes slot team b items) :
    Spawning s s slot team b items := ⟨.refl s, rfl, rfl, rfl, rfl, rfl, h⟩

/-- The state before the counters advance: the bins of the own tile have changed. -/
def State.withBins (s : State) (m : AMap Bin) : State := s.setTile s.cur.tile (s.T.setBins m)

theorem State.withBins_T (s : State) (m : AMap Bin) : (s.withBins m).T = s.T.setBins m :=
  (s.tile_setTile _ _ _).trans (if_pos rfl)

theorem State.accepted_eq (s : State) (m : AMap Bin) (l : Nat) :
    s.accepted m l = ((s.withBins m).binTook s.cur.tile s.cur.tile (s.priv == .user)).laneDone l := rfl

/-- An item of a lane enters a bin of the own tile. -/
theorem Spawning.accept {s u : State} {slot team b : Nat} {items : List Item} (h : Spawning s u slot team b items) {z : Bin}
    {l : Nat} (hl : bit s.cur.sub l = true) (ht : z.tmpl = slot) (hm : z.team = team) :
    Spawning s (u.accepted (amSet u.T.ctl.bins b z) l) slot team b z.items ∧
      amGet (u.accepted (amSet u.T.ctl.bins b z) l).T.ctl.bins b = some z := by
  set m := amSet u.T.ctl.bins b z with hm0
  rw [State.accepted_eq]
  have hv : Unseen u (u.withBins m) := u.setBins_unseen m
  have hvT := u.withBins_T m
  obtain ⟨hw, -⟩ := (u.withBins m).binTook_counted u.cur.tile u.cur.tile (u.priv == .user)
  generalize hwe : (u.withBins m).binTook u.cur.tile u.cur.tile (u.priv == .user) = w at hw ⊢
  have hx := State.laneDone_unseen (s := w) (l := l) (by rw [hw.cur, hv.cur, h.unseen.cur]; exact hl)
  have hxT := w.laneDone_T l
  have hctl : (w.laneDone l).T.ctl = { w.T.ctl with groups := (w.laneDone l).T.ctl.groups } := by
    rw [hxT]
    exact Tile.ctl_setGroup _ _ _
  have hwctl : w.T.ctl = { (u.T.setBins m).ctl with pmc := w.T.ctl.pmc } := by
    rw [← hvT]
    exact hw.T.ctl
  have hbins : (w.laneDone l).T.ctl.bins = m := by rw [hctl, hwctl, Tile.ctl_setBins]
  have htakes : (u.T.setBins m).Takes slot team b z.items := Tile.takes_setBins h.takes ht hm
  refine ⟨⟨((h.unseen.trans hv).trans hw.unseen).trans hx, ?_, ?_, ?_, ?_, ?_, htakes.of_bins ?_⟩, ?_⟩
  · have e1 : w.laneDone l = { w with tiles := (w.laneDone l).tiles } := rfl
    have e2 : u.withBins m = { u with tiles := (u.withBins m).tiles } := rfl
    rw [e1, hw.frame, e2, h.frame]
  · rw [hxT, Tile.store_setGroup, hw.T.store, hvT, Tile.store_setBins, h.store]
  · rw [hxT, Tile.places_setGroup, hw.T.rest, hvT]
    exact h.places
  · rw [hctl, hwctl, Tile.ctl_setBins]
    exact h.held
  · rw [← h.curTeam, State.curTeam, State.curTeam, w.laneDone_G, hw.G, hxT, Tile.team_setGroup, hw.T.team, hvT, Tile.team_setBins]
    have hG : (u.withBins m).G = u.G := by
      rw [State.G, hvT, Tile.group_setBins]
      rfl
    rw [hG]
  · rw [hbins, Tile.ctl_setBins]
  · rw [hbins, hm0, amGet_amSet_same]

/-! ## The lanes of a SPAWN in their order -/

/-- The item that a lane brings in this tile cycle. -/
def State.itemOf (s : State) (idx : Nat) : Item :=
  { idx := idx, at_ := s.tileTime s.cur.tile, cyc := s.cycle s.cur.tile, src := s.cur.slot }

theorem Spawning.itemOf {s u : State} {slot team b : Nat} {items : List Item} (h : Spawning s u slot team b items) (idx : Nat) :
    u.itemOf idx = s.itemOf idx := by
  rw [h.frame]
  rfl

/-- A lane that names no place, or the own one. -/
def PlacedHere (s : State) (place : Option (Nat → Nat)) (l : Nat) : Prop :=
  ∀ pl, place = some pl → s.T.placeOf (pl l) = .ok s.cur.tile

theorem State.spawnLanes_nil (s : State) (c : Ctl) (num : Nat) (idx : Nat → Nat) (place : Option (Nat → Nat)) :
    State.spawnLanes c num idx place [] s = s.passed0 c := rfl

theorem State.spawnLanes_accept {s : State} {c : Ctl} {num : Nat} {idx : Nat → Nat} {place : Option (Nat → Nat)} {l : Nat}
    {rest : List Nat} {x : Team} {slot : Nat} {tm : Template} {m : AMap Bin} (hx : s.curTeam = some x)
    (ht : s.T.tmplOf x num = some (slot, tm)) (hb : tm.bad = false) (hh : s.T.ctl.held = []) (hp : PlacedHere s place l)
    (ho : s.T.binOffer slot x.id (s.itemOf (idx l)) = some (s.T.setBins m)) :
    State.spawnLanes c num idx place (l :: rest) s = State.spawnLanes c num idx place rest (s.accepted m l) := by
  have ho' : (if s.T.ctl.held = [] then s.T.binOffer slot x.id (s.itemOf (idx l)) else none) = some (s.T.setBins m) := by
    rw [if_pos hh, ho]
  unfold State.itemOf at ho'
  rw [State.spawnLanes]
  cases place with
  | none =>
    simp only [hx, ht, hb, ho']
    rfl
  | some pl =>
    simp only [hx, ht, hb, ho', hp pl rfl]
    rfl

/-- Lanes whose items all find room in the bin put them there and pass. -/
theorem Spawning.lanes {s : State} (c : Ctl) {num : Nat} {idx : Nat → Nat} {place : Option (Nat → Nat)} {x : Team} {slot b : Nat}
    {tm : Template} (hx : s.curTeam = some x) (ht : s.T.tmplOf x num = some (slot, tm)) (hb : tm.bad = false)
    (hh : s.T.ctl.held = []) (ls : List Nat) (hl : ∀ l ∈ ls, bit s.cur.sub l = true ∧ PlacedHere s place l) {u : State}
    {items : List Item} (h : Spawning s u slot x.id b items) (hn : items.length + ls.length ≤ 64)
    (hin : ls = [] → ∃ z, amGet u.T.ctl.bins b = some z ∧ z.tmpl = slot ∧ z.team = x.id ∧ z.items = items) :
    ∃ v z, State.spawnLanes c num idx place ls u = v.passed0 c ∧ Spawning s v slot x.id b z.items ∧
      amGet v.T.ctl.bins b = some z ∧ z.tmpl = slot ∧ z.team = x.id ∧ z.items.Perm (items ++ ls.map fun l => s.itemOf (idx l)) := by
  induction ls generalizing u items with
  | nil =>
    obtain ⟨z, hz, h1, h2, h3⟩ := hin rfl
    refine ⟨u, z, rfl, by rw [h3]; exact h, hz, h1, h2, ?_⟩
    rw [h3, List.map_nil, List.append_nil]
  | cons l rest ih =>
    obtain ⟨hbit, hpl⟩ := hl l List.mem_cons_self
    have hlen : items.length + rest.length + 1 ≤ 64 := by simpa [Nat.add_assoc] using hn
    obtain ⟨z, ho, h1, h2, h3⟩ := Tile.binOffer_of_takes (u.itemOf (idx l)) h.takes (by omega)
    obtain ⟨ha, hz⟩ := h.accept hbit h1 h2
    have hput : PlacedHere u place l := fun pl e => by
      rw [Tile.placeOf, h.places, h.unseen.cur]
      exact hpl pl e
    have htm : u.T.tmplOf x num = some (slot, tm) := by rw [Tile.tmplOf, h.store]; exact ht
    obtain ⟨v, w, hrun, hv, hw, hw1, hw2, hw3⟩ := ih (fun k hk => hl k (List.mem_cons_of_mem _ hk)) ha
      (by rw [h3, length_itemInsert]; omega) fun _ => ⟨z, hz, h1, h2, rfl⟩
    refine ⟨v, w, ?_, hv, hw, hw1, hw2, hw3.trans ?_⟩
    · rw [State.spawnLanes_accept (h.curTeam.trans hx) htm hb (h.held.trans hh) hput ho]
      exact hrun
    · rw [h3, h.itemOf, List.map_cons]
      refine ((itemInsert_perm _ _).append_right _).trans ?_
      rw [List.append_assoc]
      rfl

/-! ## SPAWN and SPAWN.REM -/

theorem State.withRelease_of_ok {s : State} {rel : Option Scope} (k : State → State)
    (h : ∀ sc, rel = some sc → s.relOk s.cur.tile s.cur.slot sc s.nextId = true) : s.withRelease rel k = k s := by
  cases rel with
  | none => rfl
  | some sc =>
    rw [State.withRelease, if_pos (h sc rfl)]
    exact ite_self _

theorem exec_spawn_released {c : Ctl} {n : Fin 16} {idx : Reg} {s : State}
    (h : spawning s c ≠ [] → s.relOk s.cur.tile s.cur.slot .team s.nextId = true) :
    exec (.spawn c n idx) s = .next (State.spawnLanes c n.val (fun l => s.src l idx 1) none (spawning s c) s) := by
  refine congrArg Host.Outcome.next (State.withRelease_of_ok _ fun sc hsc => ?_)
  obtain ⟨hne, rfl⟩ : ¬ spawning s c = [] ∧ Scope.team = sc := by simpa using hsc
  exact h hne

theorem exec_spawnRem_released {c : Ctl} {n : Fin 16} {idx place : Reg} {s : State} (hb : s.T.tableBad = false)
    (h : spawning s c ≠ [] → s.relOk s.cur.tile s.cur.slot .cluster s.nextId = true) : exec (.spawnRem c n idx place) s =
      .next (State.spawnLanes c n.val (fun l => s.src l idx 1) (some fun l => s.src l place 1) (spawning s c) s) := by
  have he : exec (.spawnRem c n idx place) s = execSpawnRem c n idx place s := rfl
  rw [he, execSpawnRem, if_neg (by rw [hb]; exact Bool.false_ne_true)]
  refine congrArg Host.Outcome.next (State.withRelease_of_ok _ fun sc hsc => ?_)
  obtain ⟨hne, rfl⟩ : ¬ spawning s c = [] ∧ Scope.cluster = sc := by simpa using hsc
  exact h hne

/-- The state after a SPAWN whose items have all found room. -/
theorem spawnLanes_fills {c : Ctl} {n : Nat} {idx : Reg} {s : State} {place : Option (Nat → Nat)} {slot b : Nat} {x : Team}
    {tm : Template} {old : List Item} (hne : spawning s c ≠ []) (hx : s.curTeam = some x) (ht : s.T.tmplOf x n = some (slot, tm))
    (hb : tm.bad = false) (hh : s.T.ctl.held = []) (hold : TakesItems s slot x.id b old)
    (hn : old.length + (spawning s c).length ≤ 64) (hp : ∀ l ∈ spawning s c, PlacedHere s place l) :
    let t := State.spawnLanes c n (fun l => s.src l idx 1) place (spawning s c) s
    SameRegs s t ∧ LanesStepped s t ∧ Steady s t ∧ ItemsIn s t c idx slot x.id b old := by
  have hsub (l : Nat) (h : l ∈ spawning s c) : bit s.cur.sub l = true ∧ PlacedHere s place l := by
    refine ⟨?_, hp l h⟩
    have h1 := (List.mem_filter.1 (List.mem_filter.1 h).1).1
    exact (List.mem_filter.1 h1).2
  obtain ⟨v, z, hrun, hv, hz, h1, h2, h3⟩ := Spawning.lanes (idx := fun l => s.src l idx 1) c hx ht hb hh _ hsub
    (Spawning.refl hold) hn fun e => absurd e hne
  intro t
  have ht : t = v.passed0 c := hrun
  rw [ht]
  obtain ⟨hr, hl, hs⟩ := hv.unseen.passes_steady (by rw [hv.frame]) (by rw [hv.frame]) c
  refine ⟨hr, hl, hs, z, ?_, h1, h2, h3⟩
  have hT := (v.passed0_passes c).1.1.T
  rw [hT, Tile.ctl_setGroup]
  exact hz

/-! ## An item that leaves for another tile -/

theorem State.again_keeps (s : State) (i : Instr) {d : Due} (h : d ∈ s.due) : d ∈ (s.again i).due := by
  unfold State.again
  split
  · exact h
  · exact List.mem_append_left _ h

/-- A change of the shared state and a step that stays due. -/
theorem State.modKs_again_frame (s : State) (f : Keystone → Keystone) (i : Instr) :
    (s.modKs f).again i = { s with due := ((s.modKs f).again i).due, ks := ((s.modKs f).again i).ks } := by
  unfold State.again
  split <;> rfl

/-- A request that is no access of a peer is entered under the next identifier, and its first step is due. -/
theorem State.send_leaves (s : State) (r : Req) (h : r.kind.isPeer = false) : let t := s.send r
    t = { s with reqs := amSet s.reqs s.nextId r, due := t.due, nextId := s.nextId + 1, ks := t.ks } ∧
      ({ ev := r.step s.nextId } : Due) ∈ t.due ∧ ∀ d ∈ s.due, d ∈ t.due := by
  have hd : ({ ev := r.step s.nextId } : Due) ∈ s.due ++ [{ ev := r.step s.nextId }] :=
    List.mem_append_right _ (List.mem_singleton.2 rfl)
  unfold State.send
  simp only [h, Bool.false_and, Bool.false_eq_true, if_false]
  cases s.linkOf r with
  | none => exact ⟨rfl, hd, fun d => List.mem_append_left _⟩
  | some k =>
    refine ⟨?_, State.again_keeps _ _ hd, fun d m => State.again_keeps _ _ (List.mem_append_left _ m)⟩
    dsimp only
    exact (State.modKs_again_frame _ _ _).trans rfl

theorem Unseen.of_tiles {s t : State} (hc : t.cur = s.cur) (h : t.tiles = s.tiles) : Unseen s t := by
  have hT : t.T = s.T := by rw [State.T, State.T, State.tile, State.tile, h, hc]
  have hG : t.G = s.G := by rw [State.G, State.G, hT, hc]
  exact .of_group hc hG (.of_group hG (by rw [hT])) (teamData_of_teams hG fun i => by rw [hT])

theorem State.send_unseen (s : State) (r : Req) (h : r.kind.isPeer = false) : Unseen s (s.send r) ∧ (s.send r).mem = s.mem ∧
    (s.send r).host = s.host := by
  obtain ⟨hf, -⟩ := s.send_leaves r h
  exact ⟨.of_tiles (by rw [hf]) (by rw [hf]), by rw [hf], by rw [hf]⟩

/-- The request with which a lane sends an item to a place on another tile. -/
def State.spawnReq (s : State) (l num idx place u : Nat) (y : Team) : Req :=
  { s.mkReq l 0 (.spawn num idx) 0 0 4 0 false false none with
    place := place, rtile := u, rteam := y.id, since := s.tileTime s.cur.tile }

theorem State.spawnLanes_sends {s : State} {c : Ctl} {num : Nat} {idx pl : Nat → Nat} {l u : Nat} {rest : List Nat} {x y : Team}
    (hx : s.curTeam = some x) (hp : s.T.placeOf (pl l) = .ok u) (hu : u ≠ s.cur.tile) (hy : s.mateOn s.cur.tile x u = some y) :
    State.spawnLanes c num idx (some pl) (l :: rest) s = (s.send (s.spawnReq l num (idx l) (pl l) u y)).hold (.spawn l) := by
  rw [State.spawnLanes]
  simp only [hx, hp, hy, if_neg hu]
  rfl

theorem spawnItem : SpawnItem := by
  refine fun c n idx place s => ⟨fun he => ?_, fun slot b x tm old hne hx ht hb hh hold hn => ⟨fun hrel => ?_, fun htab hp hrel => ?_⟩,
    fun l u x y hl htab hx hp hu hy hrel => ?_⟩
  · have hpass := s.passed0_passes c
    refine ⟨⟨s.passed0 c, ?_, hpass.1, hpass.2.2, hpass.2.1⟩, fun htab => ⟨s.passed0 c, ?_, hpass.1, hpass.2.2, hpass.2.1⟩⟩
    · rw [exec_spawn_released fun h => absurd he h, he, State.spawnLanes_nil]
    · rw [exec_spawnRem_released htab fun h => absurd he h, he, State.spawnLanes_nil]
  · exact ⟨_, exec_spawn_released fun _ => hrel, spawnLanes_fills hne hx ht hb hh hold hn fun _ _ _ e => by cases e⟩
  · refine ⟨_, exec_spawnRem_released htab fun _ => hrel, spawnLanes_fills hne hx ht hb hh hold hn fun k hk _ e => ?_⟩
    cases e
    exact hp k hk
  · obtain ⟨r, hls⟩ := List.head?_eq_some_iff.1 hl
    set q := s.spawnReq l n.val (s.src l idx 1) (s.src l place 1) u y with hq
    obtain ⟨hf, hd, -⟩ := s.send_leaves q rfl
    obtain ⟨hun, hm, hh⟩ := s.send_unseen q rfl
    refine ⟨(s.send q).hold (.spawn l), ?_, hun.holds hm hh _, q, ?_, rfl, rfl, rfl, rfl, hd⟩
    · rw [exec_spawnRem_released htab fun _ => hrel, hls,
        State.spawnLanes_sends (pl := fun l => s.src l place 1) hx hp hu hy]
    · have : ((s.send q).hold (.spawn l)).reqs = (s.send q).reqs := rfl
      rw [this, hf, amGet_amSet_same]

/-- Settles O19: each instruction's effect through the rule of what its subset does not see (Unseen), SPAWN by induction on its
lanes. -/
theorem eventsTemplates : Obligations.EventsTemplates := ⟨eventInstructions, freezeTemplate, stampQueues, spawnItem⟩

end Sys2Proof.Machine
end

section
/-! PROOFS. Scratchpads and remote accesses: what a team's scratchpad holds after a write, the answer on its way back, and each
access at its target. -/

namespace Sys2Proof.Machine
open Sys2Proof.Claims

/-! ## Bytes of a team's scratchpad -/

/-- One byte of a team's scratchpad is written. -/
def Team.putByte (x : Team) (o : Nat) (b : Byte) : Team := { x with sp := amSet x.sp o b }

theorem Team.spWrite_succ (x : Team) (o n v : Nat) :
    x.spWrite o (n + 1) v = (x.putByte o (BitVec.ofNat 8 v)).spWrite (o + 1) n (v / 256) := rfl

theorem Team.spGet_putByte (x : Team) (o : Nat) (b : Byte) (a : Nat) :
    (x.putByte o b).spGet a = if a = o then b else x.spGet a := by
  unfold Team.spGet Team.putByte
  dsimp only
  rw [amGet_amSet]
  split <;> rfl

/-- A write of a team's scratchpad leaves everything else of the team. -/
theorem Team.spWrite_frame (x : Team) (o n v : Nat) : x.spWrite o n v = { x with sp := (x.spWrite o n v).sp } := by
  induction n generalizing x o v with
  | zero => rfl
  | succ n ih =>
    rw [Team.spWrite_succ, ih]
    rfl

theorem Team.spGet_spWrite_outside (x : Team) {o n : Nat} (v : Nat) {a : Nat} (h : a < o ∨ o + n ≤ a) :
    (x.spWrite o n v).spGet a = x.spGet a := by
  induction n generalizing x o v with
  | zero => rfl
  | succ n ih => rw [Team.spWrite_succ, ih _ _ (by omega), Team.spGet_putByte, if_neg (by omega)]

theorem Team.spRead_spWrite (x : Team) (o n v : Nat) : (x.spWrite o n v).spRead o n = v % 256 ^ n := by
  induction n generalizing x o v with
  | zero => simp [Team.spRead, Nat.mod_one]
  | succ n ih =>
    have hb : (BitVec.ofNat 8 v).toNat = v % 256 := BitVec.toNat_ofNat v 8
    rw [Team.spRead, Team.spWrite_succ, ih, Team.spGet_spWrite_outside _ _ (by omega), Team.spGet_putByte, if_pos rfl, hb,
      Nat.pow_succ', Nat.mod_mul]

theorem Team.spRead_congr {x y : Team} (h : ∀ a, x.spGet a = y.spGet a) (o n : Nat) : x.spRead o n = y.spRead o n := by
  induction n generalizing o with
  | zero => rfl
  | succ n ih => rw [Team.spRead, Team.spRead, h, ih]

@[simp] theorem Team.spRead_setFull (x : Team) (w : Nat) (f : Bool) (o n : Nat) : (x.setFull w f).spRead o n = x.spRead o n :=
  Team.spRead_congr (x := x.setFull w f) (y := x) (fun _ => rfl) o n

@[simp] theorem Team.id_spWrite (x : Team) (o n v : Nat) : (x.spWrite o n v).id = x.id := by rw [x.spWrite_frame]
@[simp] theorem Team.id_setFull (x : Team) (w : Nat) (f : Bool) : (x.setFull w f).id = x.id := rfl

theorem Team.contains_setFull (x : Team) (w : Nat) (f : Bool) : (x.setFull w f).full.contains w = f := by
  unfold Team.setFull
  cases f with
  | false => simp
  | true =>
    simp only [if_true, List.contains_eq_mem, decide_eq_true_eq]
    split
    · assumption
    · exact List.mem_cons_self

/-! ## Teams of another tile, and the answer on its way back -/

/-- A team of a tile is replaced. -/
def State.putTeam (s : State) (t : Nat) (y : Team) : State := s.setTile t ((s.tile t).setTeam y)

theorem State.putTeam_team (s : State) (t : Nat) (y : Team) : ((s.putTeam t y).tile t).team y.id = some y := by
  rw [State.putTeam, State.tile_setTile, if_pos rfl, Tile.team_setTeam, if_pos rfl]

theorem State.dueEv_mono {s t : State} (h : ∀ d ∈ s.due, d ∈ t.due) {i : Instr} (k : DueEv s i) : DueEv t i :=
  let ⟨d, hd, he⟩ := k
  ⟨d, h d hd, he⟩

/-- The answer of a remote request leaves the request marked, everything that was due still due, and tiles and memory. -/
theorem State.respond_leaves (s : State) (id : Nat) (r : Req) : let t := s.respond id r
    t = { s with reqs := amSet s.reqs id { r with perf := true }, due := t.due, nextId := s.nextId + 1 } ∧
      t.req id = some { r with perf := true } ∧ ∀ i, DueEv s i → DueEv t i := by
  refine ⟨rfl, ?_, fun i => State.dueEv_mono fun d => List.mem_append_left _⟩
  have : (s.respond id r).req id = amGet (amSet s.reqs id { r with perf := true }) id := rfl
  rw [this, amGet_amSet_same]

theorem State.push_tile (s : State) (l : List Instr) (t : Nat) : (s.push l).tile t = s.tile t := rfl
@[simp] theorem State.respond_tile (s : State) (id : Nat) (r : Req) (t : Nat) : (s.respond id r).tile t = s.tile t := rfl
@[simp] theorem State.respond_mem (s : State) (id : Nat) (r : Req) : (s.respond id r).mem = s.mem := rfl
theorem State.respond_req (s : State) (id : Nat) (r : Req) : (s.respond id r).req id = some { r with perf := true } :=
  (s.respond_leaves id r).2.1

/-! ## Remote accesses at their target (R78, R120) -/

theorem exec_remoteScratchpadRequest (id : Nat) (s : State) :
    exec (.remoteScratchpadRequest id) s = execRemoteScratchpadRequest id s := rfl

/-- The request has come to a tile that could perform it. -/
structure Comes (s : State) (id : Nat) (r : Req) : Prop where
  req : s.req id = some r
  idle : ¬ (r.perf || r.arr || decide (r.rtile = r.tile)) = true
  turn : ¬ (!s.remoteOrder id r || (s.tile r.rtile).held) = true
  tag : ¬ (s.tile r.rtile).tag ≠ r.tag
  gen : ¬ (s.tile r.rtile).gen ≠ r.gen
  here : ¬ (!s.ctxHere r.rtile r.ctx) = true
  slabs : ¬ (!(s.tile r.rtile).slabsHere r.rteam [r.va / 4096] && r.kind.isRemote) = true

theorem comes_of {s : State} {id : Nat} {r : Req} (h1 : s.req id = some r) (h2 : r.perf = false) (h3 : r.arr = false)
    (h4 : r.rtile ≠ r.tile) (h5 : s.remoteOrder id r = true) (h6 : (s.tile r.rtile).held = false) (h7 : (s.tile r.rtile).tag = r.tag)
    (h8 : (s.tile r.rtile).gen = r.gen) (h9 : s.ctxHere r.rtile r.ctx = true)
    (h10 : r.kind.isRemote = true → (s.tile r.rtile).slabsHere r.rteam [r.va / 4096] = true) : Comes s id r where
  req := h1
  idle := by simp [h2, h3, h4]
  turn := by simp [h5, h6]
  tag := fun h => h h7
  gen := fun h => h h8
  here := by simp [h9]
  slabs := by
    cases hk : r.kind.isRemote with
    | false => simp
    | true => simp [h10 hk]

section
variable {s : State} {id : Nat} {r : Req} (h : Comes s id r)
include h

/-- Without a team of the cluster the answer is an error. -/
theorem Comes.noTeam (hy : (s.tile r.rtile).team r.rteam = none) : ∃ e, exec (.remoteScratchpadRequest id) s =
    .next (s.respond id { r with ecc := e }) ∧ ((∃ num i, r.kind = .spawn num i) → e = 300) ∧
      ((∀ num i, r.kind ≠ .spawn num i) → e = 200) := by
  rw [exec_remoteScratchpadRequest, execRemoteScratchpadRequest]
  simp only [h.req, if_neg h.idle, if_neg h.turn, if_neg h.tag, if_neg h.gen, if_neg h.here, if_neg h.slabs, hy]
  refine ⟨_, rfl, fun ⟨num, i, hk⟩ => by rw [hk]; rfl, fun hk => ?_⟩
  split
  · next num i e => exact absurd e (hk num i)
  · rfl

variable {y : Team} (hy : (s.tile r.rtile).team r.rteam = some y)
include hy

theorem Comes.load (hk : r.kind = .spLoad) (hb : (s.tile r.rtile).badSp y.id r.va r.size = false) :
    exec (.remoteScratchpadRequest id) s = .next (s.respond id { r with val := y.spRead r.va r.size }) := by
  rw [exec_remoteScratchpadRequest, execRemoteScratchpadRequest]
  simp only [h.req, if_neg h.idle, if_neg h.turn, if_neg h.tag, if_neg h.gen, if_neg h.here, if_neg h.slabs, hy]
  simp only [hk, hb]
  rw [if_neg Bool.false_ne_true]

theorem Comes.store {v : Nat} (hk : r.kind = .spStore v) : exec (.remoteScratchpadRequest id) s =
    .next ((s.putTeam r.rtile (y.spWrite r.va r.size v)).respond id r) := by
  rw [exec_remoteScratchpadRequest, execRemoteScratchpadRequest]
  simp only [h.req, if_neg h.idle, if_neg h.turn, if_neg h.tag, if_neg h.gen, if_neg h.here, if_neg h.slabs, hy]
  simp only [hk]
  rfl

theorem Comes.stf {v : Nat} (hk : r.kind = .spStf v) : exec (.remoteScratchpadRequest id) s =
    .next (((s.putTeam r.rtile ((y.spWrite r.va 4 v).setFull (r.va / 4) true)).respond id r).push
      [.feRequestServed r.rtile y.id (r.va / 4)]) := by
  rw [exec_remoteScratchpadRequest, execRemoteScratchpadRequest]
  simp only [h.req, if_neg h.idle, if_neg h.turn, if_neg h.tag, if_neg h.gen, if_neg h.here, if_neg h.slabs, hy]
  simp only [hk]
  rfl

theorem Comes.setfe {f : Bool} (hk : r.kind = .spSet f) : exec (.remoteScratchpadRequest id) s =
    .next (((s.putTeam r.rtile (y.setFull (r.va / 4) f)).respond id r).push [.feRequestServed r.rtile y.id (r.va / 4)]) := by
  rw [exec_remoteScratchpadRequest, execRemoteScratchpadRequest]
  simp only [h.req, if_neg h.idle, if_neg h.turn, if_neg h.tag, if_neg h.gen, if_neg h.here, if_neg h.slabs, hy]
  simp only [hk]
  rfl

/-- A request that waits for its word has queued there. -/
theorem Comes.queues (hk : (∃ k, r.kind = .spLdf k) ∨ (∃ v, r.kind = .spSte v)) : exec (.remoteScratchpadRequest id) s =
    .next ((s.setReq id { r with arr := true, since := s.wtime, ord := s.nextId }).fresh.push
      [.feRequestServed r.rtile y.id (r.va / 4)]) := by
  rw [exec_remoteScratchpadRequest, execRemoteScratchpadRequest]
  simp only [h.req, if_neg h.idle, if_neg h.turn, if_neg h.tag, if_neg h.gen, if_neg h.here, if_neg h.slabs, hy]
  rcases hk with ⟨k, hk⟩ | ⟨v, hk⟩
  · simp only [hk]
  · simp only [hk]

theorem Comes.stale {num i : Nat} (hk : r.kind = .spawn num i) (hs : y.ended = true ∨ (s.tile r.rtile).tmplOf y num = none) :
    exec (.remoteScratchpadRequest id) s = .next (s.respond id { r with ecc := errStale }) := by
  rw [exec_remoteScratchpadRequest, execRemoteScratchpadRequest]
  simp only [h.req, if_neg h.idle, if_neg h.turn, if_neg h.tag, if_neg h.gen, if_neg h.here, if_neg h.slabs, hy]
  simp only [hk]
  by_cases he : y.ended = true
  · rw [if_pos he]
  · rw [if_neg he]
    simp only [hs.resolve_left he]

theorem Comes.joins {num i : Nat} {tm : Nat × Template} {U : Tile} (hk : r.kind = .spawn num i) (he : y.ended = false)
    (ht : (s.tile r.rtile).tmplOf y num = some tm) (hh : (s.tile r.rtile).ctl.held = [])
    (ho : (s.tile r.rtile).binOffer tm.1 y.id
      { idx := i, at_ := s.tileTime r.rtile, cyc := s.cycle r.rtile, src := 64 + r.slot } = some U) :
    exec (.remoteScratchpadRequest id) s = .next (((s.setTile r.rtile U).binTook r.rtile r.tile true).respond id r) := by
  rw [exec_remoteScratchpadRequest, execRemoteScratchpadRequest]
  simp only [h.req, if_neg h.idle, if_neg h.turn, if_neg h.tag, if_neg h.gen, if_neg h.here, if_neg h.slabs, hy]
  simp only [hk, he, ht, if_pos hh, ho]
  rfl

end

theorem remotes : Remotes := by
  refine fun id s r => ⟨fun y ⟨h1, h2, h3, h4, h5, h6, h7, h8, h9, hy, hid, h10⟩ => ?_, fun h1 h2 h3 h4 h5 h6 h7 h8 h9 hy => ?_⟩
  · have h := comes_of h1 h2 h3 h4 h5 h6 h7 h8 h9 h10
    have hteam (z : Team) (hz : z.id = y.id) : ((s.putTeam r.rtile z).tile r.rtile).team r.rteam = some z := by
      rw [← hid, ← hz, State.putTeam_team]
    have hserved (t : State) (w : Nat) : DueEv (t.push [.feRequestServed r.rtile y.id w]) (.feRequestServed r.rtile y.id w) :=
      t.dueEv_push (List.mem_singleton.2 rfl)
    refine ⟨fun hk hb => ?_, fun v hk => ?_, fun v hk => ?_, fun f hk => ?_, fun hk => ?_, fun num i hk hs => ?_,
      fun num i tm U hk he ht hh ho => ?_⟩
    · exact ⟨_, _, h.load hy hk hb, rfl, rfl, State.respond_req _ _ _, rfl, rfl, rfl⟩
    · refine ⟨_, _, y.spWrite r.va r.size v, h.store hy hk, rfl, State.respond_req _ _ _, rfl, ?_, Team.spRead_spWrite _ _ _ _,
        fun a ha => Team.spGet_spWrite_outside _ _ ha⟩
      rw [State.respond_tile]
      exact hteam _ (Team.id_spWrite _ _ _ _)
    · refine ⟨_, _, (y.spWrite r.va 4 v).setFull (r.va / 4) true, h.stf hy hk, State.respond_req _ _ _, rfl, ?_, ?_, ?_, hserved _ _⟩
      · rw [State.push_tile, State.respond_tile]
        exact hteam _ (by rw [Team.id_setFull, Team.id_spWrite])
      · rw [Team.spRead_setFull, Team.spRead_spWrite]
        norm_num
      · rw [← List.contains_iff_mem, Team.contains_setFull]
    · refine ⟨_, _, y.setFull (r.va / 4) f, h.setfe hy hk, State.respond_req _ _ _, rfl, ?_, Team.contains_setFull _ _ _,
        hserved _ _⟩
      rw [State.push_tile, State.respond_tile]
      exact hteam _ (Team.id_setFull _ _ _)
    · refine ⟨_, { r with arr := true, since := s.wtime, ord := s.nextId }, h.queues hy hk, rfl, ?_, h2, rfl, rfl, hserved _ _⟩
      exact amGet_amSet_same _ _ _
    · exact ⟨_, _, h.stale hy hk hs, rfl, State.respond_req _ _ _, rfl, rfl⟩
    · obtain ⟨hc, hd⟩ := (s.setTile r.rtile U).binTook_counted r.rtile r.tile true
      generalize hb : (s.setTile r.rtile U).binTook r.rtile r.tile true = b at hc hd
      refine ⟨b.respond id r, _, (h.joins hy hk he ht hh ho).trans (by rw [hb]), ?_, State.respond_req _ _ _, rfl, rfl, ?_,
        (State.respond_leaves _ _ _).2.2 _ hd⟩
      · rw [State.respond_mem, hc.mem]
        rfl
      · rw [State.respond_tile, (hc.tile r.rtile).ctl, State.tile_setTile, if_pos rfl]
  · have hsl : (s.tile r.rtile).slabsHere r.rteam [r.va / 4096] = true := by
      rw [Tile.slabsHere, hy]
      exact Bool.or_true _
    obtain ⟨e, hrun, hs, hn⟩ := (comes_of h1 h2 h3 h4 h5 h6 h7 h8 h9 fun _ => hsl).noTeam hy
    exact ⟨_, _, hrun, rfl, State.respond_req _ _ _, rfl, hs, hn⟩

end Sys2Proof.Machine
end

section
/-! PROOFS. Full/empty words: what serving a request leaves, and the FEWAIT of a lane that has waited too long. -/

namespace Sys2Proof.Machine
open Sys2Proof.Claims

/-! ## Groups of other tiles and traps raised there -/

theorem State.modGroup_team (s : State) (t g : Nat) (f : Group → Group) (x i : Nat) :
    ((s.modGroup t g f).tile x).team i = (s.tile x).team i := by
  unfold State.modGroup
  rw [State.tile_modTile]
  split
  · next e => rw [Tile.team_setGroup, e]
  · rfl

/-- A trap changes tiles and adds a step due. -/
theorem State.raise_frame (s : State) (lanes : BitVec 32) (lane : Nat) (cls : TrapClass) (cause info1 info2 : Nat) :
    let t := s.raise lanes lane cls cause info1 info2
    t = { s with tiles := t.tiles, due := t.due } := by
  unfold State.raise
  dsimp only
  split
  · rfl
  · split <;> rfl

/-- A trap raised against lanes of a group stands last among the group's records. -/
theorem State.raiseAt_leaves (s : State) (t g pc : Nat) (word : W64) (lanes : BitVec 32) (lane : Nat) (cls : TrapClass)
    (cause info1 info2 : Nat) (h : ¬ (g = 32 ∧ cls = .resource)) : let u := s.raiseAt t g pc word lanes lane cls cause info1 info2
    u = { s with tiles := u.tiles, due := u.due } ∧ ∃ y, ((u.tile t).group g).lastTrap = some y ∧ y.cls = cls ∧ y.cause = cause ∧
      y.lane = lane ∧ y.pc = pc ∧ y.info1 = info1 ∧ y.info2 = info2 ∧ y.lanes = lanes := by
  set v : State := { s with cur := { tile := t, slot := g, sub := lanes, pc := pc, word := word } } with hv
  obtain ⟨⟨-, -, -, -, y, hy, h1, h2, h3, h4, -, h5, h6, h7, -⟩, -⟩ := v.trapLane_trapped lane cls cause info1 info2 h
  have hf := v.raise_frame lanes lane cls cause info1 info2
  have hG : (v.trapLane lane cls cause info1 info2).G = (((v.raise lanes lane cls cause info1 info2).tile t).group g) := by
    have hc : (v.raise lanes lane cls cause info1 info2).cur = v.cur := by rw [hf]
    rw [State.G, State.T, State.trapLane, hc]
  rw [hG] at hy
  refine ⟨?_, y, hy, h1, h2, h3, h4, h5, h6, h7⟩
  have he : s.raiseAt t g pc word lanes lane cls cause info1 info2 =
      { v.raise lanes lane cls cause info1 info2 with cur := s.cur } := rfl
  rw [he, hf]

/-! ## Requests of full/empty words (R124) -/

theorem exec_feRequestServed (tile team word : Nat) (s : State) :
    exec (.feRequestServed tile team word) s = execFeRequestServed tile team word s := rfl
theorem exec_fewaitTimeout (s : State) : exec .fewaitTimeout s = execFewaitTimeout s := rfl

/-- A request is gone, and memory, teams and steps due are as before. -/
structure Answers (s t : State) (id : Nat) : Prop where
  mem : t.mem = s.mem
  gone : t.req id = none
  team : ∀ x i, (t.tile x).team i = (s.tile x).team i
  keeps : ∀ i, DueEv s i → DueEv t i

theorem State.delReq_answers (s : State) (id : Nat) : Answers s (s.delReq id) id :=
  ⟨rfl, (amGet_amDel s.reqs id id).trans (if_pos rfl), fun _ _ => rfl, fun _ h => h⟩

theorem Answers.modGroup {s t : State} {id : Nat} (h : Answers s t id) (x g : Nat) (f : Group → Group) :
    Answers s (t.modGroup x g f) id :=
  ⟨h.mem, h.gone, fun y i => (t.modGroup_team x g f y i).trans (h.team y i), h.keeps⟩

theorem Answers.push {s t : State} {id : Nat} (h : Answers s t id) (l : List Instr) : Answers s (t.push l) id :=
  ⟨h.mem, h.gone, h.team, fun i hi => State.dueEv_mono (fun _ => List.mem_append_left _) (h.keeps i hi)⟩

theorem State.feDone_answers (s : State) (id : Nat) (r : Req) (ws : List (Nat × Nat × W32)) : Answers s (s.feDone id r ws) id := by
  unfold State.feDone
  extract_lets u g m upto rd wait v w
  have hu : Answers s u id := (s.delReq_answers id).modGroup _ _ _
  have hw : Answers s w id := (hu.modGroup _ _ _).push _
  clear_value w u
  split
  · exact hu
  · split
    · exact hu
    · split
      · exact hw.push _
      · exact hw

theorem feReady_of_firstReady {full : Bool} {q : AMap Req} {e : Nat × Req} (h : firstReady full q = some e) :
    feReady e.2 full = true := by
  induction q with
  | nil => cases h
  | cons y l ih =>
    unfold firstReady at h
    split at h
    · split at h
      · next hr => rw [← Option.some.inj h]; exact hr
      · cases h
    · next y' hy =>
      split at h
      · next hr =>
        rw [← Option.some.inj h]
        exact (Bool.and_eq_true_iff.1 hr).1
      · exact ih (hy.trans h)

/-- A word's team after its request is served. -/
def Team.served (x : Team) (word : Nat) (r : Req) : Team :=
  match r.kind with
  | .spLdf take => if take then x.setFull word false else x
  | .spSte v => (x.spWrite (4 * word) 4 v).setFull word true
  | _ => x

theorem Team.served_id (x : Team) (word : Nat) (r : Req) : (x.served word r).id = x.id := by
  unfold Team.served
  split
  · split <;> rfl
  · rw [Team.id_setFull, Team.id_spWrite]
  · rfl

theorem Team.served_ldf {x : Team} {word : Nat} {r : Req} {k : Bool} (hk : r.kind = .spLdf k)
    (hr : feReady r (x.full.contains word) = true) : (x.served word r).full.contains word = !k ∧ (x.served word r).sp = x.sp := by
  unfold Team.served
  rw [feReady, hk] at hr
  rw [hk]
  cases k with
  | true => exact ⟨Team.contains_setFull _ _ _, rfl⟩
  | false => exact ⟨hr, rfl⟩

theorem Team.served_ste {x : Team} {word : Nat} {r : Req} {v : Nat} (hk : r.kind = .spSte v) :
    (x.served word r).full.contains word = true ∧ (x.served word r).spRead (4 * word) 4 = v % 2 ^ 32 := by
  unfold Team.served
  rw [hk]
  refine ⟨Team.contains_setFull _ _ _, ?_⟩
  dsimp only
  rw [Team.spRead_setFull, Team.spRead_spWrite]
  norm_num

/-- The state in which a word's team has been served and the word is offered again. -/
def State.wordServed (s : State) (tile team word : Nat) (x : Team) (r : Req) : State :=
  (s.putTeam tile (x.served word r)).push [.feRequestServed tile team word]

/-- Registers written by an LDF that its own tile serves. -/
def Req.ldfWrites (r : Req) (val : Nat) : List (Nat × Nat × W32) :=
  match r.kind with
  | .spLdf _ => r.writes val
  | _ => []

theorem exec_feRequestServed_ready {tile team word : Nat} {s : State} {x : Team} {id : Nat} {r : Req}
    (hx : (s.tile tile).team team = some x) (hsl : (s.tile tile).slabsHere team [word / 1024] = true)
    (hr : firstReady (x.full.contains word) (s.reqs.filter fun q => q.2.rtile == tile && q.2.rteam == team &&
      q.2.va / 4 == word && q.2.arr && !q.2.perf) = some (id, r)) : exec (.feRequestServed tile team word) s =
    .next (if r.tile = tile then (s.wordServed tile team word x r).feDone id r (r.ldfWrites (x.spRead (4 * word) 4))
      else (s.wordServed tile team word x r).respond id { r with val := x.spRead (4 * word) 4 }) := by
  rw [exec_feRequestServed, execFeRequestServed]
  simp only [hx, hsl, hr, Bool.not_true, Bool.false_eq_true, if_false]
  rfl

theorem feWords : FeWords := by
  intro tile team word s x id r hx hid hsl hr
  have hrun := exec_feRequestServed_ready hx hsl hr
  have hready := feReady_of_firstReady hr
  set z := x.served word r with hz
  set u := s.wordServed tile team word x r with hu
  have hteam : (u.tile tile).team team = some z := by
    rw [hu, State.wordServed, State.push_tile, ← hid, ← x.served_id word r, State.putTeam_team]
  have hdue : DueEv u (.feRequestServed tile team word) := State.dueEv_push _ (List.mem_singleton.2 rfl)
  have hldf (k : Bool) (hk : r.kind = .spLdf k) := Team.served_ldf hk hready
  have hste (v : Nat) (hk : r.kind = .spSte v) := Team.served_ste (x := x) (word := word) hk
  by_cases ht : r.tile = tile
  · rw [if_pos ht] at hrun
    have ha := u.feDone_answers id r (r.ldfWrites (x.spRead (4 * word) 4))
    exact ⟨_, z, hrun, ha.mem, by rw [ha.team, hteam], hldf, hste, ha.keeps _ hdue, fun _ => ha.gone, fun hn => absurd ht hn⟩
  · rw [if_neg ht] at hrun
    exact ⟨_, z, hrun, rfl, hteam, hldf, hste, (State.respond_leaves _ _ _).2.2 _ hdue, fun hn => absurd hn ht,
      fun _ => ⟨_, State.respond_req _ _ _, rfl, fun _ _ => rfl⟩⟩

/-! ## FEWAIT (R124, R372) -/

/-- The cause of the trap: 1 for an LDF, 2 for an STE. -/
def Req.waitCause (r : Req) : Nat :=
  match r.kind with
  | .spLdf _ => 1
  | _ => 2

theorem exec_fewaitTimeout_due {s : State} {id : Nat} {r : Req}
    (hr : (s.reqsOf s.cur.tile s.cur.slot).find? (fun q => q.2.isFe && q.2.arr && !q.2.perf &&
      decide (q.2.since + 1000000 < s.wtime)) = some (id, r)) : exec .fewaitTimeout s =
    .next ((s.withdraw s.cur.tile s.cur.slot r.iid).raiseAt s.cur.tile s.cur.slot r.pc r.word
      (((s.tile s.cur.tile).group s.cur.slot).feWaiters r.iid) (if r.lane = 32 then 0xFF else r.lane) .fewait r.waitCause r.va
      r.place) := by
  rw [exec_fewaitTimeout, execFewaitTimeout]
  simp only [hr]
  rfl

theorem feTimeout : FeTimeout := by
  intro s id r hr
  have hrun := exec_fewaitTimeout_due hr
  obtain ⟨hf, y, hy, h1, h2, -, h4, h5, h6, h7⟩ := (s.withdraw s.cur.tile s.cur.slot r.iid).raiseAt_leaves s.cur.tile s.cur.slot
    r.pc r.word (((s.tile s.cur.tile).group s.cur.slot).feWaiters r.iid) (if r.lane = 32 then 0xFF else r.lane) .fewait
    r.waitCause r.va r.place fun h => by cases h.2
  refine ⟨_, y, hrun, ?_, hy, h1, fun ⟨k, hk⟩ => ?_, fun ⟨v, hk⟩ => ?_, h5, h6, h4, h7, fun q hq => ?_⟩
  · rw [hf]
    rfl
  · rw [h2, Req.waitCause, hk]
  · rw [h2, Req.waitCause, hk]
  · rw [hf] at hq
    have := (List.mem_filter.1 hq).2
    rintro ⟨e1, e2, e3⟩
    simp [e1, e2, e3] at this

end Sys2Proof.Machine
end

section
/-! PROOFS. Team barriers: a group that has arrived leaves, the others stay as they are, and the phase of the team advances. -/

namespace Sys2Proof.Machine
open Sys2Proof.Claims

/-- Of a tile one group has changed, and neither memory nor a team. -/
structure OneGroup (s t : State) (x g : Nat) : Prop where
  mem : t.mem = s.mem
  team : ∀ i, (t.tile x).team i = (s.tile x).team i
  other : ∀ k, k ≠ g → (t.tile x).group k = (s.tile x).group k

theorem OneGroup.refl (s : State) (x g : Nat) : OneGroup s s x g := ⟨rfl, fun _ => rfl, fun _ _ => rfl⟩

theorem OneGroup.modGroup {s t : State} {x g : Nat} (h : OneGroup s t x g) (f : Group → Group) : OneGroup s (t.modGroup x g f) x g where
  mem := h.mem
  team i := (t.modGroup_team x g f x i).trans (h.team i)
  other k hk := by
    rw [State.modGroup, State.tile_modTile, if_pos rfl, Tile.group_setGroup_other _ _ _ _ hk, h.other k hk]

theorem OneGroup.push {s t : State} {x g : Nat} (h : OneGroup s t x g) (l : List Instr) : OneGroup s (t.push l) x g :=
  ⟨h.mem, h.team, h.other⟩

theorem State.push_tile_group (s : State) (l : List Instr) (x g : Nat) : ((s.push l).tile x).group g = (s.tile x).group g := rfl

/-- After an acquire lanes stand where they stood, and those of its mask wait for it at most. -/
theorem State.acquireThen_leaves (s : State) (x g : Nat) (sc : Scope) (m : BitVec 32) : let t := s.acquireThen x g sc m
    OneGroup s t x g ∧ ∀ l < 32, (((t.tile x).group g).lane l).pc = (((s.tile x).group g).lane l).pc ∧
      ((((t.tile x).group g).lane l).wait = (((s.tile x).group g).lane l).wait ∨
        ∃ k, (((t.tile x).group g).lane l).wait = .fence .acq sc k false) := by
  unfold State.acquireThen
  split
  · unfold State.waitEnds
    refine ⟨((OneGroup.refl s x g).modGroup _).push _, fun l _ => ?_⟩
    rw [State.push_tile_group, State.modGroup_group]
    exact ⟨rfl, .inl rfl⟩
  · refine ⟨((OneGroup.refl s x g).modGroup _).push _, fun l hl => ?_⟩
    rw [State.push_tile_group, State.modGroup_group, Group.lane_modMask _ _ _ _ hl]
    split
    · exact ⟨rfl, .inr ⟨_, rfl⟩⟩
    · exact ⟨rfl, .inl rfl⟩

/-- The lanes of a group that wait at a barrier. -/
def Group.atBar (g : Group) (cluster : Bool) : BitVec 32 :=
  maskOf ((List.range 32).filter fun l => (g.lane l).wait == .bar cluster)

/-- A participant leaves its barrier. -/
def State.leaveOne (s : State) (tile team : Nat) (cluster : Bool) (g : Nat × Group) : State :=
  if !g.2.participant team then s
  else (s.modGroup tile g.1 fun G => G.advance (g.2.atBar cluster)).acquireThen tile g.1 (if cluster then .cluster else .team)
    (g.2.atBar cluster)

theorem State.leaveBarrier_eq (s : State) (tile team : Nat) (cluster : Bool) :
    s.leaveBarrier tile team cluster = (s.tile tile).ctl.groups.foldl (fun s g => s.leaveOne tile team cluster g) s := rfl

theorem State.leaveOne_oneGroup (s : State) (tile team : Nat) (cluster : Bool) (g : Nat × Group) :
    OneGroup s (s.leaveOne tile team cluster g) tile g.1 := by
  unfold State.leaveOne
  split
  · exact .refl _ _ _
  · have h := (OneGroup.refl s tile g.1).modGroup fun G => G.advance (g.2.atBar cluster)
    obtain ⟨k, -⟩ := (s.modGroup tile g.1 fun G => G.advance (g.2.atBar cluster)).acquireThen_leaves tile g.1
      (if cluster then .cluster else .team) (g.2.atBar cluster)
    exact ⟨k.mem.trans h.mem, fun i => (k.team i).trans (h.team i), fun j hj => (k.other j hj).trans (h.other j hj)⟩

theorem Group.bit_atBar {g : Group} {cluster : Bool} {l : Nat} (hl : l < 32) (h : (g.lane l).wait = .bar cluster) :
    bit (g.atBar cluster) l = true := by
  rw [Group.atBar, bit_maskOf _ hl, decide_eq_true_iff, List.mem_filter]
  exact ⟨List.mem_range.2 hl, by rw [h]; exact beq_self_eq_true _⟩

/-- A lane that waited at the barrier stands at the next word and waits there no more. -/
theorem State.leaveOne_lane {s : State} {tile team : Nat} {cluster : Bool} {g : Nat × Group} (hp : g.2.participant team = true)
    (hg : (s.tile tile).group g.1 = g.2) {l : Nat} (hl : l < 32) (hw : (g.2.lane l).wait = .bar cluster) :
    let G := ((s.leaveOne tile team cluster g).tile tile).group g.1
    (G.lane l).wait ≠ .bar cluster ∧ (G.lane l).pc = ((g.2.lane l).pc + 8) % 2 ^ 56 := by
  obtain ⟨-, k⟩ := (s.modGroup tile g.1 fun G => G.advance (g.2.atBar cluster)).acquireThen_leaves tile g.1
    (if cluster then .cluster else .team) (g.2.atBar cluster)
  obtain ⟨hpc, hwait⟩ := k l hl
  rw [State.modGroup_group, hg, Group.lane_advance _ _ _ hl, if_pos (Group.bit_atBar hl hw)] at hpc hwait
  unfold State.leaveOne
  rw [if_neg (by rw [hp]; exact Bool.false_ne_true)]
  refine ⟨fun h => ?_, hpc⟩
  rcases hwait with e | ⟨k, e⟩
  · rw [h] at e
    cases e
  · rw [h] at e
    cases e

theorem State.leaveOnes_frame (tile team : Nat) (cluster : Bool) (l : AMap Group) (s : State) :
    let t := l.foldl (fun s g => s.leaveOne tile team cluster g) s
    t.mem = s.mem ∧ (∀ i, (t.tile tile).team i = (s.tile tile).team i) ∧
      ∀ k, k ∉ l.map (·.1) → (t.tile tile).group k = (s.tile tile).group k := by
  induction l generalizing s with
  | nil => exact ⟨rfl, fun _ => rfl, fun _ _ => rfl⟩
  | cons g l ih =>
    have h := s.leaveOne_oneGroup tile team cluster g
    obtain ⟨h1, h2, h3⟩ := ih (s.leaveOne tile team cluster g)
    refine ⟨h1.trans h.mem, fun i => (h2 i).trans (h.team i), fun k hk => ?_⟩
    rw [List.map_cons, List.mem_cons, not_or] at hk
    exact (h3 k hk.2).trans (h.other k hk.1)

/-- The lanes of a participant that wait at the barrier leave it. -/
theorem State.leaveBarrier_lane {s : State} {tile team : Nat} {cluster : Bool}
    (hn : ((s.tile tile).ctl.groups.map (·.1)).Nodup) {g : Nat} (hg : g < 32)
    (hp : ((s.tile tile).group g).participant team = true) {l : Nat} (hl : l < 32)
    (hw : (((s.tile tile).group g).lane l).wait = .bar cluster) :
    let G := ((s.leaveBarrier tile team cluster).tile tile).group g
    (G.lane l).wait ≠ .bar cluster ∧ (G.lane l).pc = ((((s.tile tile).group g).lane l).pc + 8) % 2 ^ 56 := by
  set G := (s.tile tile).group g with hG
  have hget : amGet (s.tile tile).ctl.groups g = some G := by
    have he : G = (amGet (s.tile tile).ctl.groups g).getD {} := by rw [hG, Tile.group, if_neg (Nat.ne_of_lt hg)]
    cases hm : amGet (s.tile tile).ctl.groups g with
    | none =>
      rw [hm] at he
      rw [he] at hp
      cases hp
    | some x =>
      rw [hm] at he
      rw [he]
      rfl
  obtain ⟨l1, l2, hsplit⟩ := List.append_of_mem (mem_of_amGet hget)
  rw [hsplit, List.map_append, List.map_cons] at hn
  obtain ⟨-, hn2, hn12⟩ := List.nodup_append.1 hn
  have h1 : g ∉ l1.map (·.1) := fun h => hn12 g h g List.mem_cons_self rfl
  have h2 : g ∉ l2.map (·.1) := (List.nodup_cons.1 hn2).1
  rw [State.leaveBarrier_eq, hsplit, List.foldl_append, List.foldl_cons]
  obtain ⟨-, -, hbefore⟩ := State.leaveOnes_frame tile team cluster l1 s
  set u := l1.foldl (fun s g => s.leaveOne tile team cluster g) s
  obtain ⟨-, -, hafter⟩ := State.leaveOnes_frame tile team cluster l2 (u.leaveOne tile team cluster (g, G))
  have := State.leaveOne_lane (s := u) (tile := tile) (team := team) (cluster := cluster) (g := (g, G)) hp (hbefore g h1) hl hw
  rw [hafter g h2]
  exact this

/-- The phase of a team's barrier of a kind advances. -/
def Team.passBar (cluster : Bool) (y : Team) : Team :=
  if cluster then { y with barC := y.barC + 1 } else { y with barT := y.barT + 1 }

theorem State.sendArrivals_alone (s : State) (tile : Nat) (x : Team) : s.sendArrivals [(tile, x)] = s := by
  unfold State.sendArrivals
  rw [List.foldl_cons, List.foldl_nil, List.find?_singleton]
  cases (s.tile tile).place == x.anchor <;> simp

theorem exec_barrierComplete_alone {tile team : Nat} {cluster : Bool} {s : State} {x : Team}
    (hx : (s.tile tile).team team = some x) (hid : x.id = team) (hc : cluster = true → x.cw * x.ch = 1 ∧ x.lostC = false)
    (ha : (s.tile tile).allArrived team cluster = true) (hs : (s.tile tile).someArrived team cluster = true) :
    exec (.barrierComplete tile team cluster) s =
      .next ((s.leaveBarrier tile team cluster).modTile tile fun T => T.modTeam team (Team.passBar cluster)) := by
  have he : exec (.barrierComplete tile team cluster) s = execBarrierComplete tile team cluster s := rfl
  rw [he, execBarrierComplete]
  subst hid
  cases cluster with
  | false =>
    simp [hx, ha, hs]
    rfl
  | true =>
    obtain ⟨h1, h2⟩ := hc rfl
    have hm : s.clusterOf tile x = [(tile, x)] := by
      rw [State.clusterOf, if_pos (Nat.le_of_eq h1)]
    have haway : s.clusterAway tile x = false := by
      rw [State.clusterAway, h1]
      rfl
    simp [hx, hm, haway, ha, hs, State.sendArrivals_alone, h2]
    rfl

theorem teamBarriers : TeamBarriers := by
  intro tile team cluster s x T hx hid hc ha hs hn
  set u := s.leaveBarrier tile team cluster with hu
  obtain ⟨hm, ht, -⟩ := State.leaveOnes_frame tile team cluster (s.tile tile).ctl.groups s
  rw [← State.leaveBarrier_eq, ← hu] at hm ht
  have htile : (u.modTile tile fun T => T.modTeam team (Team.passBar cluster)).tile tile =
      (u.tile tile).setTeam (x.passBar cluster) := by
    rw [State.tile_modTile, if_pos rfl, Tile.modTeam_of_team ((ht team).trans hx)]
  have hpid : (x.passBar cluster).id = team := by
    rw [← hid, Team.passBar]
    split <;> rfl
  refine ⟨_, x.passBar cluster, exec_barrierComplete_alone hx hid hc ha hs, hm, ?_, ?_, ?_, fun g hg hp l hl hw => ?_⟩
  · rw [htile, Tile.team_setTeam, if_pos hpid.symm]
  · cases cluster <;> rfl
  · cases cluster <;> rfl
  · rw [htile, Tile.group_setTeam]
    exact State.leaveBarrier_lane hn hg hp hl hw

/-- Settles O42: each access by what it leaves at its target, a barrier by the groups that leave it one after the other. -/
theorem remoteSteps : Obligations.RemoteSteps := ⟨remotes, feWords, feTimeout, teamBarriers⟩

end Sys2Proof.Machine
end

section
/-! PROOFS. Bins: a waiting item that finds room, a timer that has run out, and the trap of a spawner that has waited 1 ms. -/

namespace Sys2Proof.Machine
open Sys2Proof.Claims

theorem exec_binItemAccept (tile : Nat) (s : State) : exec (.binItemAccept tile) s = execBinItemAccept tile s := rfl
theorem exec_binTimerExpire (s : State) : exec .binTimerExpire s = execBinTimerExpire s := rfl
theorem exec_spawnWaitTimeout (s : State) : exec .spawnWaitTimeout s = execSpawnWaitTimeout s := rfl

/-! ## A waiting item finds room (R45, R47) -/

theorem Tile.binOffer_bins {T U : Tile} {slot team : Nat} {it : Item} (h : T.binOffer slot team it = some U) :
    ∃ m, U = T.setBins m := by
  unfold Tile.binOffer at h
  dsimp only at h
  split at h
  · split at h
    · exact ⟨_, (Option.some.inj h).symm⟩
    · cases h
  · split at h
    · exact ⟨_, (Option.some.inj h).symm⟩
    · cases h

theorem Tile.acceptHeld_bins {T U : Tile} {l rest : List HeldItem} {h : HeldItem} (ha : T.acceptHeld l = some (U, h, rest)) :
    ∃ m, U = T.setBins m := by
  induction l generalizing rest with
  | nil => cases ha
  | cons x r ih =>
    unfold Tile.acceptHeld at ha
    split at ha
    · next V hv =>
      obtain ⟨rfl, -⟩ := Prod.mk.inj (Option.some.inj ha)
      exact Tile.binOffer_bins hv
    · obtain ⟨⟨V, k, q⟩, hy, he⟩ := Option.map_eq_some_iff.1 ha
      obtain ⟨rfl, hk⟩ := Prod.mk.inj he
      obtain ⟨rfl, -⟩ := Prod.mk.inj hk
      exact ih hy

/-- The items that wait at a tile are others. -/
def Tile.setHeld (T : Tile) (l : List HeldItem) : Tile := T.setCtl { T.ctl with held := l }

@[simp] theorem Tile.ctl_setHeld (T : Tile) (l : List HeldItem) : (T.setHeld l).ctl = { T.ctl with held := l } := T.ctl_setCtl _
@[simp] theorem Tile.group_setHeld (T : Tile) (l : List HeldItem) (g : Nat) : (T.setHeld l).group g = T.group g := by
  refine Tile.group_setCtl ?_ g
  rfl

/-- The item has entered its bin and no longer waits; the others are offered again. -/
def State.heldAccepted (s : State) (tile : Nat) (T : Tile) (rest : List HeldItem) : State :=
  if rest = [] then s.setTile tile (T.setHeld rest) else (s.setTile tile (T.setHeld rest)).push [.binItemAccept tile]

theorem State.heldAccepted_tile (s : State) (tile : Nat) (T : Tile) (rest : List HeldItem) :
    (s.heldAccepted tile T rest).tile tile = T.setHeld rest := by
  have h : (s.setTile tile (T.setHeld rest)).tile tile = T.setHeld rest := (s.tile_setTile _ _ _).trans (if_pos rfl)
  unfold State.heldAccepted
  split
  · exact h
  · exact h

theorem exec_binItemAccept_own {tile : Nat} {s : State} {T : Tile} {h : HeldItem} {rest : List HeldItem}
    (ha : (s.tile tile).acceptHeld (s.tile tile).ctl.held = some (T, h, rest)) (hr : h.req = 0) (hs : h.slot ≠ 99) :
    exec (.binItemAccept tile) s = .next (((s.heldAccepted tile T rest).binTook tile tile
      ((T.group h.slot).priv == .user)).modGroup tile h.slot fun g => g.spawnDone h.lane) := by
  rw [exec_binItemAccept, execBinItemAccept]
  simp only [ha, hr, if_neg hs]
  rfl

theorem Group.lane_spawnDone (g : Group) (lane : Nat) {l : Nat} (hl : l < 32) : (g.spawnDone lane).lane l =
    if l = lane then { g.lane l with done := true, wait := .none }
    else if (g.lane l).wait = .spawn lane then { g.lane l with wait := .none } else g.lane l := by
  rw [Group.spawnDone, Group.lane_mapLanes _ _ _ hl]

theorem binItemEnters (tile : Nat) (s : State) (T : Tile) (h : HeldItem) (rest : List HeldItem)
    (ha : (s.tile tile).acceptHeld (s.tile tile).ctl.held = some (T, h, rest)) (hr : h.req = 0) (hs : h.slot ≠ 99)
    (hl : h.lane < 32) : ∃ t, exec (.binItemAccept tile) s = .next t ∧ (t.tile tile).ctl.held = rest ∧
      (t.tile tile).ctl.bins = T.ctl.bins ∧ (((t.tile tile).group h.slot).lane h.lane).done = true ∧
      DueEv t (.binGroupLaunch tile) ∧ ∀ m < 32, (((t.tile tile).group h.slot).lane m).wait =
        (if m = h.lane ∨ (((s.tile tile).group h.slot).lane m).wait = .spawn h.lane then .none
         else (((s.tile tile).group h.slot).lane m).wait) := by
  obtain ⟨m, hm⟩ := Tile.acceptHeld_bins ha
  have hgroup : T.group h.slot = (s.tile tile).group h.slot := by rw [hm, Tile.group_setBins]
  obtain ⟨hc, hd⟩ := (s.heldAccepted tile T rest).binTook_counted tile tile ((T.group h.slot).priv == .user)
  refine ⟨_, exec_binItemAccept_own ha hr hs, ?_⟩
  generalize (s.heldAccepted tile T rest).binTook tile tile ((T.group h.slot).priv == .user) = u at hc hd ⊢
  have hu := hc.tile tile
  rw [State.heldAccepted_tile] at hu
  have hctl : ((u.modGroup tile h.slot fun g => g.spawnDone h.lane).tile tile).ctl =
      { (u.tile tile).ctl with groups := ((u.modGroup tile h.slot fun g => g.spawnDone h.lane).tile tile).ctl.groups } := by
    rw [State.modGroup, State.tile_modTile, if_pos rfl]
    exact Tile.ctl_setGroup _ _ _
  have hlane (l : Nat) (hl : l < 32) := (((s.tile tile).group h.slot).lane_spawnDone h.lane hl)
  rw [State.modGroup_group, hu.group, Tile.group_setHeld, hgroup]
  refine ⟨?_, ?_, ?_, hd, fun l hl => ?_⟩
  · rw [hctl, hu.ctl, Tile.ctl_setHeld]
  · rw [hctl, hu.ctl, Tile.ctl_setHeld]
  · rw [hlane _ hl, if_pos rfl]
  · rw [hlane l hl]
    by_cases h1 : l = h.lane
    · rw [if_pos h1, if_pos (.inl h1)]
    · by_cases h2 : (((s.tile tile).group h.slot).lane l).wait = .spawn h.lane
      · rw [if_neg h1, if_pos h2, if_pos (.inr h2)]
      · rw [if_neg h1, if_neg h2, if_neg (not_or.2 ⟨h1, h2⟩)]

/-! ## Timers (R45, R46) -/

/-- A bin whose timer has run out in a tile cycle is ready since then, or since it was. -/
def Bin.timed (b : Bin) (cyc : Nat) : Bin := { b with ready := true, readyCyc := if b.ready then b.readyCyc else cyc }

theorem exec_binTimerExpire_due {s : State} {b : Bin} {it : Item} {r : List Item}
    (hb : amGet (s.tile s.cur.tile).ctl.bins s.cur.slot = some b) (hi : b.items = it :: r)
    (ho : (s.tile s.cur.tile).ctl.timersOff = none) (ht : it.at_ + (s.tile s.cur.tile).ctl.bint ≤ s.tileTime s.cur.tile) :
    exec .binTimerExpire s = .next ((s.setTile s.cur.tile ((s.tile s.cur.tile).setBins
      (amSet (s.tile s.cur.tile).ctl.bins s.cur.slot (b.timed (s.cycle s.cur.tile))))).push [.binGroupLaunch s.cur.tile]) := by
  rw [exec_binTimerExpire, execBinTimerExpire]
  simp only [hb]
  split
  · next e =>
    rw [hi] at e
    cases e
  · next e =>
    rw [hi] at e
    cases e
    rw [if_pos (by rw [ho]; simpa using ht)]
    rfl

theorem binTimerEnds (s : State) (b : Bin) (it : Item) (r : List Item)
    (hb : amGet (s.tile s.cur.tile).ctl.bins s.cur.slot = some b) (hi : b.items = it :: r)
    (ho : (s.tile s.cur.tile).ctl.timersOff = none)
    (ht : it.at_ + (s.tile s.cur.tile).ctl.bint ≤ s.tileTime s.cur.tile) :
    ∃ t c, exec .binTimerExpire s = .next t ∧
      amGet (t.tile s.cur.tile).ctl.bins s.cur.slot = some { b with ready := true, readyCyc := c } ∧
      c = (if b.ready then b.readyCyc else s.cycle s.cur.tile) ∧ DueEv t (.binGroupLaunch s.cur.tile) := by
  refine ⟨_, _, exec_binTimerExpire_due hb hi ho ht, ?_, rfl, State.dueEv_push _ (List.mem_singleton.2 rfl)⟩
  rw [State.push_tile, State.tile_setTile, if_pos rfl, Tile.ctl_setBins]
  exact amGet_amSet_same _ _ _

/-! ## A spawner that has waited 1 ms (R360) -/

/-- One tile is another up to its groups. -/
def Tile.GroupsApart (T U : Tile) : Prop := U.ctl = { T.ctl with groups := U.ctl.groups }

theorem State.setG_groupsApart (s : State) (g : Group) (x : Nat) : (s.tile x).GroupsApart ((s.setG g).tile x) := by
  unfold State.setG
  rw [State.tile_setTile]
  split
  · next e =>
    rw [e]
    exact Tile.ctl_setGroup _ _ _
  · rfl

theorem Tile.GroupsApart.trans {T U V : Tile} (h : T.GroupsApart U) (k : U.GroupsApart V) : T.GroupsApart V := by
  unfold Tile.GroupsApart at *
  rw [k, h]

/-- The agent of a tile stops. -/
def Tile.stopAgent (T : Tile) : Tile := { T with agentStop := true }

theorem State.stopAgent_groupsApart (s : State) (t x : Nat) : (s.tile x).GroupsApart ((s.modTile t Tile.stopAgent).tile x) := by
  rw [State.tile_modTile]
  split
  · next e =>
    rw [e]
    rfl
  · rfl

/-- A trap leaves of a tile everything but its groups, and its record is due. -/
theorem State.raise_leaves (s : State) (lanes : BitVec 32) (lane : Nat) (cls : TrapClass) (cause info1 info2 : Nat) :
    let t := s.raise lanes lane cls cause info1 info2
    (∀ x, (s.tile x).GroupsApart (t.tile x)) ∧ DueEv t (.trapDeliver s.cur.tile s.cur.slot) := by
  unfold State.raise
  dsimp only
  refine ⟨fun x => ?_, State.dueEv_push _ ?_⟩
  · split
    · exact (s.setG_groupsApart _ x).trans (State.setG_groupsApart _ _ x)
    · split
      · exact (s.setG_groupsApart _ x).trans (State.stopAgent_groupsApart _ _ x)
      · exact s.setG_groupsApart _ x
  · split
    · exact List.mem_singleton.2 rfl
    · split <;> exact List.mem_singleton.2 rfl

theorem State.raiseAt_tile (s : State) (t g pc : Nat) (word : W64) (lanes : BitVec 32) (lane : Nat) (cls : TrapClass)
    (cause info1 info2 : Nat) : let u := s.raiseAt t g pc word lanes lane cls cause info1 info2
    (∀ x, (s.tile x).GroupsApart (u.tile x)) ∧ DueEv u (.trapDeliver t g) :=
  State.raise_leaves { s with cur := { tile := t, slot := g, sub := lanes, pc := pc, word := word } } lanes lane cls cause info1 info2

theorem exec_spawnWaitTimeout_due {s : State} {h : HeldItem}
    (hh : (s.tile s.cur.tile).ctl.held.find? (fun h => h.slot == s.cur.slot && h.req == 0 &&
      decide (h.item.at_ + 1000000 ≤ s.tileTime s.cur.tile)) = some h) :
    exec .spawnWaitTimeout s = .next ((s.setTile s.cur.tile ((s.tile s.cur.tile).setHeld
      ((s.tile s.cur.tile).ctl.held.filter (· != h)))).raiseAt s.cur.tile s.cur.slot
        (((s.tile s.cur.tile).group s.cur.slot).lane h.lane).pc h.word (((s.tile s.cur.tile).group s.cur.slot).spawnWaiters h.lane)
        h.lane .resource 1 (((amGet (s.tile s.cur.tile).store h.tmpl).map (·.num)).getD 0)
        ((s.tile s.cur.tile).group s.cur.slot).doneMask) := by
  rw [exec_spawnWaitTimeout, execSpawnWaitTimeout]
  simp only [hh]
  rfl

theorem spawnerTraps (s : State) (h : HeldItem)
    (hh : (s.tile s.cur.tile).ctl.held.find? (fun h => h.slot == s.cur.slot && h.req == 0 &&
      decide (h.item.at_ + 1000000 ≤ s.tileTime s.cur.tile)) = some h) (hs : s.cur.slot < 32) :
    ∃ t r, exec .spawnWaitTimeout s = .next t ∧ h ∉ (t.tile s.cur.tile).ctl.held ∧
      ((t.tile s.cur.tile).group s.cur.slot).lastTrap = some r ∧ r.cls = .resource ∧ r.cause = 1 ∧ r.lane = h.lane ∧
      DueEv t (.trapDeliver s.cur.tile s.cur.slot) := by
  have hrun := exec_spawnWaitTimeout_due hh
  set l := (s.tile s.cur.tile).ctl.held.filter (· != h) with hl
  set G := (s.tile s.cur.tile).group s.cur.slot
  set u := s.setTile s.cur.tile ((s.tile s.cur.tile).setHeld l) with hu
  have hut : u.tile s.cur.tile = (s.tile s.cur.tile).setHeld l := (s.tile_setTile _ _ _).trans (if_pos rfl)
  obtain ⟨-, r, hr, h1, h2, h3, -⟩ := u.raiseAt_leaves s.cur.tile s.cur.slot (G.lane h.lane).pc h.word (G.spawnWaiters h.lane)
    h.lane .resource 1 (((amGet (s.tile s.cur.tile).store h.tmpl).map (·.num)).getD 0) G.doneMask
    fun e => absurd e.1 (Nat.ne_of_lt hs)
  obtain ⟨hg, hd⟩ := u.raiseAt_tile s.cur.tile s.cur.slot (G.lane h.lane).pc h.word (G.spawnWaiters h.lane)
    h.lane .resource 1 (((amGet (s.tile s.cur.tile).store h.tmpl).map (·.num)).getD 0) G.doneMask
  refine ⟨_, r, hrun, ?_, hr, h1, h2, h3, hd⟩
  have hc : ∀ U : Tile, ((s.tile s.cur.tile).setHeld l).GroupsApart U → U.ctl.held = l := fun U k => by
    rw [k, Tile.ctl_setHeld]
  rw [hc _ (hut ▸ hg s.cur.tile), hl]
  simp

theorem bins : Bins :=
  ⟨binItemEnters, fun s b it r hb hi ho ht => binTimerEnds s b it r hb hi ho ht, fun s h hh hs => spawnerTraps s h hh hs⟩

end Sys2Proof.Machine
end

section
/-! PROOFS. Groups made from templates: the group of a stamp, and the group of a ready bin. -/

namespace Sys2Proof.Machine
open Sys2Proof.Claims

theorem exec_stampedGroupLaunch (tile team : Nat) (s : State) :
    exec (.stampedGroupLaunch tile team) s = execStampedGroupLaunch tile team s := rfl
theorem exec_binGroupLaunch (tile : Nat) (s : State) : exec (.binGroupLaunch tile) s = execBinGroupLaunch tile s := rfl

/-! ## A group of items of one template (R25, R26) -/

theorem bit_clrBit_self {w : Nat} (m : BitVec w) (i : Nat) : bit (clrBit m i) i = false := by
  by_cases h : i < w
  · rw [bit_clrBit m i i h]
    simp
  · simp [bit, BitVec.getLsbD_of_ge _ _ (Nat.le_of_not_lt h)]

/-- The lane that a template makes of the item at a place of a list, if it lists one. -/
def tmplLaneAt (tm : Template) (slot : Nat) (items : List Nat) (l : Nat) : Lane :=
  match items[l]? with
  | some i => tmplLane tm slot i
  | none => {}

/-- The group that a template makes of items. -/
def State.tmplGroup (s : State) (tile team : Nat) (tm : Template) (slot : Nat) (items : List Nat) (bin : Bool) : Group :=
  { live := true, team := team, gid := s.nextId, fromBin := bin, lanes := (List.range 32).map (tmplLaneAt tm slot items), k := tm.k
    nextCyc := s.cycle tile + 8, decCyc := s.cycle tile + 8 }

theorem State.launchGroup_eq {s : State} {tile g team slot : Nat} {items : List Nat} {bin : Bool} {tm : Template}
    (h : amGet (s.tile tile).store slot = some tm) : s.launchGroup tile g team slot items bin =
      (s.setTile tile ((s.tile tile).setGroup g (s.tmplGroup tile team tm slot items bin))).fresh := by
  unfold State.launchGroup
  simp only [h]
  rfl

theorem State.lane_tmplGroup (s : State) (tile team : Nat) (tm : Template) (slot : Nat) (items : List Nat) (bin : Bool) {l : Nat}
    (hl : l < 32) : (s.tmplGroup tile team tm slot items bin).lane l = tmplLaneAt tm slot items l := by
  simp [Group.lane, State.tmplGroup, hl]

theorem State.launchGroup_leaves {s : State} {tile g team slot : Nat} {items : List Nat} {bin : Bool} {tm : Template}
    (h : amGet (s.tile tile).store slot = some tm) : let t := s.launchGroup tile g team slot items bin
    t.mem = s.mem ∧ (s.tile tile).GroupsApart (t.tile tile) ∧ FromTemplate s t tile g team tm items bin := by
  rw [State.launchGroup_eq h]
  generalize hG : s.tmplGroup tile team tm slot items bin = G
  have ht : ((s.setTile tile ((s.tile tile).setGroup g G)).fresh.tile tile) = (s.tile tile).setGroup g G :=
    (s.tile_setTile _ _ _).trans (if_pos rfl)
  refine ⟨rfl, by rw [ht]; exact Tile.ctl_setGroup _ _ _, ?_⟩
  unfold FromTemplate
  rw [ht, Tile.group_setGroup_same]
  refine ⟨by rw [← hG]; rfl, by rw [← hG]; rfl, by rw [← hG]; rfl, by rw [← hG]; rfl, by rw [← hG]; rfl, fun l hl => ?_⟩
  rw [← hG, State.lane_tmplGroup _ _ _ _ _ _ _ hl]
  refine ⟨fun i hi => ?_, fun hi => ?_⟩
  · simp only [tmplLaneAt, hi]
    exact ⟨rfl, rfl, rfl, rfl, bit_clrBit_self _ _⟩
  · simp only [tmplLaneAt, hi]

theorem fromTemplate_congr {s s' t t' : State} {tile g team : Nat} {tm : Template} {items : List Nat} {bin : Bool}
    (h : FromTemplate s t tile g team tm items bin) (hs : s'.cycle tile = s.cycle tile)
    (ht : (t'.tile tile).group g = (t.tile tile).group g) : FromTemplate s' t' tile g team tm items bin := by
  unfold FromTemplate at h ⊢
  rwa [hs, ht]

/-! ## The group of a stamp (R41) -/

/-- A team whose first queued group has been taken. -/
def Team.dequeued (x : Team) (rest : List Stamped) : Team := { x with pend := rest }

theorem exec_stampedGroupLaunch_ready {tile team : Nat} {s : State} {x : Team} {p : Stamped} {rest : List Stamped} {g : Nat}
    (hx : (s.tile tile).team team = some x) (hp : x.pend = p :: rest) (hn : (s.tile tile).ctl.noClaim = false)
    (hg : (List.range 32).find? (fun g => (x.resv.filter fun g => !((s.tile tile).group g).live).contains g) = some g) :
    exec (.stampedGroupLaunch tile team) s = .next ((s.putTeam tile (x.dequeued rest)).launchGroup tile g team p.tmpl
      ((List.range p.n).map fun i => (p.base + i) % 2 ^ 32) false) := by
  rw [exec_stampedGroupLaunch, execStampedGroupLaunch]
  simp only [hx, hp, hg, hn, Bool.false_eq_true, if_false]
  rfl

theorem stampLaunches (tile team : Nat) (s : State) (x : Team) (p : Stamped) (rest : List Stamped) (g : Nat) (tm : Template)
    (hx : (s.tile tile).team team = some x) (hid : x.id = team) (hp : x.pend = p :: rest) (hn : (s.tile tile).ctl.noClaim = false)
    (ht : amGet (s.tile tile).store p.tmpl = some tm)
    (hg : (List.range 32).find? (fun g => (x.resv.filter fun g => !((s.tile tile).group g).live).contains g) = some g) :
    ∃ t, exec (.stampedGroupLaunch tile team) s = .next t ∧ ((t.tile tile).team team).map (·.pend) = some rest ∧
      FromTemplate s t tile g team tm ((List.range p.n).map fun i => (p.base + i) % 2 ^ 32) false ∧ t.mem = s.mem := by
  set u := s.putTeam tile (x.dequeued rest) with hu
  have hut : u.tile tile = (s.tile tile).setTeam (x.dequeued rest) := (s.tile_setTile _ _ _).trans (if_pos rfl)
  obtain ⟨hm, hG, hF⟩ := State.launchGroup_leaves (s := u) (tile := tile) (g := g) (team := team) (slot := p.tmpl)
    (items := (List.range p.n).map fun i => (p.base + i) % 2 ^ 32) (bin := false) (tm := tm)
    (by rw [hut, Tile.store_setTeam]; exact ht)
  refine ⟨_, exec_stampedGroupLaunch_ready hx hp hn hg, ?_, fromTemplate_congr hF rfl rfl, hm⟩
  have hteam : (u.tile tile).team team = some (x.dequeued rest) := by
    rw [← hid]
    exact s.putTeam_team tile (x.dequeued rest)
  rw [Tile.team, hG]
  exact congrArg (Option.map _) hteam

/-! ## The group of a bin (R45, R46) -/

/-- A bin that stays with its later items. -/
def Bin.left (b : Bin) (rest : List Item) (ready : Bool) (cyc : Nat) : Bin := { b with items := rest, ready := ready, readyCyc := cyc }

/-- The bins after a launch of one that leaves items in it or empties it. -/
def binsAfter (m : AMap Bin) (n : Nat) (b : Bin) (rest : List Item) (ready : Bool) (cyc : Nat) : AMap Bin :=
  if rest = [] then amDel m n else amSet m n (b.left rest ready cyc)

theorem amGet_binsAfter (m : AMap Bin) (n : Nat) (b : Bin) (rest : List Item) (ready : Bool) (cyc : Nat) :
    (amGet (binsAfter m n b rest ready cyc) n).map (·.items) = if rest = [] then none else some rest := by
  unfold binsAfter
  split
  · rw [amGet_amDel, if_pos rfl]
    rfl
  · rw [amGet_amSet_same]
    rfl

/-- What a bin's launch makes due: the timer of the items that stay, the next launch, and the items that wait for a bin. -/
def State.binLeft (s : State) (tile n : Nat) (rest : List Item) (left : Bool) (held : List HeldItem) : State :=
  let s := if rest = [] then s else s.againAt tile n .binTimerExpire
  let s := if left then s.push [.binGroupLaunch tile] else s
  if held = [] then s else s.push [.binItemAccept tile]

theorem State.binLeft_counted (s : State) (tile n : Nat) (rest : List Item) (left : Bool) (held : List HeldItem) :
    Counted s (s.binLeft tile n rest left held) := by
  have hpush (u : State) (i : Instr) : Counted u (u.push [i]) := (u.push_grows [i]).counted
  have h1 : Counted s (if rest = [] then s else s.againAt tile n .binTimerExpire) := by
    split
    · exact .refl s
    · exact s.againAt_counted _ _ _
  unfold State.binLeft
  extract_lets u v
  have h2 : Counted u v := by
    simp only [v]
    split
    · exact hpush u _
    · exact .refl u
  split
  · exact h1.trans h2
  · exact (h1.trans h2).trans (hpush v _)

section
variable {tile : Nat} {s : State} {n : Nat} {b : Bin} {g : Nat} {gs : List Nat} (ho : oldestReady (s.tile tile).ctl.bins = some (n, b))
  (hf : (s.tile tile).freeSlots = g :: gs) (hn : (s.tile tile).ctl.noClaim = false)
include ho hf hn

theorem exec_binGroupLaunch_early (h1 : s.cycle tile ≤ b.readyCyc) (h2 : b.readyCyc ≠ 0) :
    exec (.binGroupLaunch tile) s = .next (s.again (.binGroupLaunch tile)) := by
  rw [exec_binGroupLaunch, execBinGroupLaunch]
  simp only [ho, hf]
  rw [if_neg (by rw [hn]; exact Bool.false_ne_true), if_pos (by simp [h1, h2])]

theorem exec_binGroupLaunch_ready (h : b.readyCyc < s.cycle tile ∨ b.readyCyc = 0) :
    let rest := b.items.drop (min 32 (b.before (s.cycle tile)))
    let left := decide (32 ≤ rest.length) || ((s.tile tile).ctl.bint == 0 && rest ≠ [])
    exec (.binGroupLaunch tile) s = .next (((((s.setTile tile ((s.tile tile).setBins
      (binsAfter (s.tile tile).ctl.bins n b rest left (s.cycle tile)))).launchGroup tile g b.team b.tmpl
        ((b.items.take (min 32 (b.before (s.cycle tile)))).map (·.idx)) true).count tile 9 1)).binLeft tile n rest left
          (s.tile tile).ctl.held) := by
  intro rest left
  rw [exec_binGroupLaunch, execBinGroupLaunch]
  simp only [ho, hf]
  rw [if_neg (by rw [hn]; exact Bool.false_ne_true), if_neg (by simp; omega)]
  rfl

end

theorem binLaunches (tile : Nat) (s : State) (n : Nat) (b : Bin) (g : Nat) (gs : List Nat) (tm : Template)
    (ho : oldestReady (s.tile tile).ctl.bins = some (n, b)) (hf : (s.tile tile).freeSlots = g :: gs)
    (hn : (s.tile tile).ctl.noClaim = false) (ht : amGet (s.tile tile).store b.tmpl = some tm)
    (h : b.readyCyc < s.cycle tile ∨ b.readyCyc = 0) :
    let k := min 32 (b.items.filter fun i => i.cyc == 0 || decide (i.cyc < s.cycle tile)).length
    ∃ t, exec (.binGroupLaunch tile) s = .next t ∧ FromTemplate s t tile g b.team tm ((b.items.take k).map (·.idx)) true ∧
      (amGet (t.tile tile).ctl.bins n).map (·.items) = (if b.items.drop k = [] then none else some (b.items.drop k)) ∧
      t.mem = s.mem := by
  intro k
  have hrun := exec_binGroupLaunch_ready ho hf hn h
  set rest := b.items.drop (min 32 (b.before (s.cycle tile))) with hrest
  set left := decide (32 ≤ rest.length) || ((s.tile tile).ctl.bint == 0 && rest ≠ [])
  set m := binsAfter (s.tile tile).ctl.bins n b rest left (s.cycle tile) with hm
  set u := s.setTile tile ((s.tile tile).setBins m) with hu
  have hut : u.tile tile = (s.tile tile).setBins m := (s.tile_setTile _ _ _).trans (if_pos rfl)
  obtain ⟨hmem, hG, hF⟩ := State.launchGroup_leaves (s := u) (tile := tile) (g := g) (team := b.team) (slot := b.tmpl)
    (items := (b.items.take k).map (·.idx)) (bin := true) (tm := tm) (by rw [hut, Tile.store_setBins]; exact ht)
  generalize hv : u.launchGroup tile g b.team b.tmpl ((b.items.take k).map (·.idx)) true = v at hmem hG hF
  have hc := (v.count_counted tile 9 1).trans (State.binLeft_counted _ tile n rest left (s.tile tile).ctl.held)
  generalize hw : (v.count tile 9 1).binLeft tile n rest left (s.tile tile).ctl.held = w at hc
  refine ⟨w, hrun.trans ?_, fromTemplate_congr hF rfl ((hc.tile tile).group g), ?_, hc.mem.trans hmem⟩
  · rw [← hw, ← hv]
    rfl
  · rw [(hc.tile tile).ctl, hG, hut, Tile.ctl_setBins]
    exact amGet_binsAfter _ _ _ _ _ _

theorem templateGroups : TemplateGroups := by
  refine ⟨stampLaunches, ?_⟩
  intro tile s n b g gs tm T ho hf hn ht
  refine ⟨binLaunches tile s n b g gs tm ho hf hn ht, fun h1 h2 => ?_⟩
  exact ⟨_, exec_binGroupLaunch_early ho hf hn h1 h2, (State.again_grows _ _).frame, State.dueEv_again _ _⟩

end Sys2Proof.Machine
end

section
/-! PROOFS. Additions of an agent to memory: what they leave, and that they do the same where tiles, steps due, slices and
Keystone's state differ. -/

namespace Sys2Proof.Machine
open Sys2Proof.Claims

/-! ## States that differ in tiles, steps due, slices and Keystone's state -/

/-- One state is another up to its tiles, steps due, slices and Keystone's state. -/
def Twin (s t : State) : Prop := t = { s with tiles := t.tiles, due := t.due, slices := t.slices, ks := t.ks }

theorem Twin.refl (s : State) : Twin s s := rfl

theorem Twin.symm {s t : State} (h : Twin s t) : Twin t s := by
  unfold Twin at *
  rw [h]

theorem Twin.trans {s t u : State} (h : Twin s t) (k : Twin t u) : Twin s u := by
  unfold Twin at *
  rw [k, h]

theorem Twin.of_grows {s t : State} (h : DueGrows s t) : Twin s t := by
  unfold Twin
  rw [h.frame]

theorem Twin.mem {s t : State} (h : Twin s t) : t.mem = s.mem := by rw [h]
theorem Twin.host {s t : State} (h : Twin s t) : t.host = s.host := by rw [h]
theorem Twin.parts {s t : State} (h : Twin s t) : t.parts = s.parts := by rw [h]
theorem Twin.queues {s t : State} (h : Twin s t) : t.queues = s.queues := by rw [h]
theorem Twin.part {s t : State} (h : Twin s t) (tag : Nat) : t.part tag = s.part tag := by rw [h]; rfl
theorem Twin.ctx {s t : State} (h : Twin s t) (tag ctx : Nat) : t.ctx tag ctx = s.ctx tag ctx := by rw [h]; rfl
theorem Twin.field {s t : State} (h : Twin s t) (f : Nat) : t.field f = s.field f := by rw [h]; rfl

theorem Twin.xlate {s t : State} (h : Twin s t) (tag ctx va : Nat) (kind : AccKind) (priv : Priv) :
    t.xlate tag ctx va kind priv = s.xlate tag ctx va kind priv := State.xlate_congr h.parts h.mem tag ctx va kind priv

theorem Twin.devByte {s t : State} (h : Twin s t) (tag off : Nat) : t.devByte tag off = s.devByte tag off := by
  rw [h]
  rfl

theorem Twin.devRead {s t : State} (h : Twin s t) (tag off n : Nat) : t.devRead tag off n = s.devRead tag off n := by
  induction n generalizing off with
  | zero => rfl
  | succ n ih => rw [State.devRead, State.devRead, ih, h.devByte]

theorem Twin.devMemRead {s t : State} (h : Twin s t) (c : Option Ctx) (pa n : Nat) : t.devMemRead c pa n = s.devMemRead c pa n := by
  have hp : t.peerBytes pa n = s.peerBytes pa n := by rw [h]; rfl
  unfold State.devMemRead
  cases regionOf pa with
  | plinth => exact congrArg (Memory.read · pa n) h.mem
  | host tag off => exact congrArg (Memory.read · _ n) h.host
  | device tag off => exact h.devRead tag off n
  | peer tag w off => exact hp
  | reserved => rfl

/-! ## Steps that do the same in such states, and leave tiles, launches and what was due -/

/-- Tiles and launches are as before, and everything that was due is. -/
structure Quiet (s t : State) : Prop where
  work : SameWork s t
  keeps : ∀ i, DueEv s i → DueEv t i

theorem Quiet.refl (s : State) : Quiet s s := ⟨.refl s, fun _ h => h⟩
theorem Quiet.trans {s t u : State} (h : Quiet s t) (k : Quiet t u) : Quiet s u :=
  ⟨h.work.trans k.work, fun i hi => k.keeps i (h.keeps i hi)⟩
theorem Quiet.of_grows {s t : State} (h : DueGrows s t) : Quiet s t := ⟨.of_grows h, h.keeps⟩
theorem Quiet.of_eq {s t : State} (ht : t.tiles = s.tiles) (hp : t.parts = s.parts) (hd : t.due = s.due) : Quiet s t :=
  ⟨.of_eq ht hp, fun i h => by rw [DueEv, hd]; exact h⟩
theorem Quiet.tile {s t : State} (h : Quiet s t) (x : Nat) : t.tile x = s.tile x := State.tile_of_tiles h.work.tiles x

/-- A step that does the same in such states and is quiet. -/
structure Stable (f : State → State) : Prop where
  twin : ∀ s t, Twin s t → Twin (f s) (f t)
  quiet : ∀ s, Quiet s (f s)

theorem Stable.id : Stable fun s => s := ⟨fun _ _ h => h, .refl⟩

theorem Stable.comp {f g : State → State} (hf : Stable f) (hg : Stable g) : Stable fun s => g (f s) :=
  ⟨fun s t h => hg.twin _ _ (hf.twin s t h), fun s => (hf.quiet s).trans (hg.quiet _)⟩

theorem Stable.ite {p : Prop} [Decidable p] {f g : State → State} (hf : Stable f) (hg : Stable g) :
    Stable fun s => if p then f s else g s := by
  by_cases h : p
  · simpa only [if_pos h] using hf
  · simpa only [if_neg h] using hg

theorem Stable.foldl {α : Type} {f : State → α → State} (hf : ∀ x, Stable fun s => f s x) (l : List α) : Stable fun s => l.foldl f s := by
  induction l with
  | nil => exact .id
  | cons x l ih => exact (hf x).comp ih

/-- Further steps due. -/
theorem Stable.grows {f : State → State} (hf : ∀ s, DueGrows s (f s)) : Stable f :=
  ⟨fun s t h => ((Twin.of_grows (hf s)).symm.trans h).trans (.of_grows (hf t)), fun s => .of_grows (hf s)⟩

theorem Stable.push (l : List Instr) : Stable fun s => s.push l := .grows fun s => s.push_grows l

/-- A change of a field's home status. -/
theorem Stable.clearStatus (tag f v : Nat) : Stable fun s => s.clearStatus tag f v := by
  refine ⟨fun s t h => ?_, fun s => ?_⟩
  · unfold State.clearStatus
    split
    · dsimp only
      rw [h.field]
      generalize amPut 0 (s.field f).status tag _ = x
      unfold Twin at *
      rw [h]
      rfl
    · exact h
  · unfold State.clearStatus
    split
    · exact .of_eq rfl rfl rfl
    · exact .refl s

theorem Twin.modCtx {s t : State} (h : Twin s t) (tag ctx : Nat) (f : Ctx → Ctx) : Twin (s.modCtx tag ctx f) (t.modCtx tag ctx f) := by
  have hp : (t.modCtx tag ctx f).parts = (s.modCtx tag ctx f).parts := by
    unfold State.modCtx State.modPart
    rw [h.part]
    cases s.part tag with
    | none => exact h.parts
    | some P => exact congrArg (amSet · tag _) h.parts
  have ht := t.modCtx_frame tag ctx f
  have hs := s.modCtx_frame tag ctx f
  unfold Twin at *
  rw [ht, hs, hp, h]

theorem Stable.modCtx (tag ctx : Nat) {f : Ctx → Ctx} (hf : ∀ c, (f c).launches = c.launches) :
    Stable fun s => s.modCtx tag ctx f := by
  refine ⟨fun s t h => h.modCtx tag ctx f, fun s => ⟨s.modCtx_sameWork tag ctx f hf, fun i h => ?_⟩⟩
  rw [DueEv, s.modCtx_frame]
  exact h

theorem Ctx.launches_setBlock (c : Ctx) (v : Nat) (b : Bool) : (c.setBlock v b).launches = c.launches := by
  unfold Ctx.setBlock
  extract_lets l d
  have hd : d.launches = c.launches := rfl
  clear_value d
  split <;> exact hd

theorem Ctx.launches_writeBlock (c : Ctx) (off n v : Nat) (b : Bool) : (c.writeBlock off n v b).launches = c.launches :=
  c.launches_setBlock _ b

theorem Stable.blockStore (tag ctx off n v : Nat) (priv : Priv) : Stable fun s => s.blockStore tag ctx off n v priv := by
  have hw (b : Bool) : Stable fun s : State => s.modCtx tag ctx fun c => c.writeBlock off n v b :=
    .modCtx tag ctx fun c => c.launches_writeBlock off n v b
  refine ⟨fun s t h => ?_, fun s => ?_⟩
  · have hl : t.locksOn tag ctx = s.locksOn tag ctx := congrArg (List.filter _) h.queues
    unfold State.blockStore
    rw [hl]
    split
    · exact (hw _).twin s t h
    · exact (Stable.push _).twin _ _ ((hw _).twin s t h)
  · unfold State.blockStore
    split
    · exact (hw _).quiet s
    · exact ((hw _).quiet s).trans ((Stable.push _).quiet _)

theorem Stable.devWrite (tag off n v : Nat) (priv : Priv) : Stable fun s => s.devWrite tag off n v priv := by
  unfold State.devWrite
  exact .ite (.foldl (fun i => .ite (.push _) .id) _) (.ite (.foldl (fun i => .clearStatus _ _ _) _) (.ite (.blockStore _ _ _ _ _ _)
    (.ite (.ite .id (.foldl (fun i => .push _) _)) (.ite (.ite (.modCtx _ _ fun _ => rfl) .id) .id))))

theorem Stable.putMem (pa n v : Nat) : Stable fun s => s.putMem pa n v := by
  have h : Stable fun s : State => (s.setMem (Memory.write s.mem pa n v)).noteWords pa n := by
    refine ⟨fun s t h => ?_, fun s => .of_eq rfl rfl rfl⟩
    unfold Twin at *
    rw [h]
    rfl
  exact h.comp (.grows State.report_grows)

theorem Stable.devMemWrite (c : Option Ctx) (pa n v : Nat) : Stable fun s => s.devMemWrite c pa n v := by
  unfold State.devMemWrite
  cases regionOf pa with
  | plinth => exact .putMem pa n v
  | host tag off =>
    refine ⟨fun s t h => ?_, fun s => .of_eq rfl rfl rfl⟩
    unfold Twin at *
    rw [h]
    rfl
  | device tag off => exact .devWrite tag off n v .agent
  | peer tag w off => exact .id
  | reserved => exact .id

/-! ## Lines of slices -/

/-- One state is another up to its slices and Keystone's state. -/
def Cached (s t : State) : Prop := t = { s with slices := t.slices, ks := t.ks }

theorem Cached.refl (s : State) : Cached s s := rfl
theorem Cached.trans {s t u : State} (h : Cached s t) (k : Cached t u) : Cached s u := by
  unfold Cached at *
  rw [k, h]
theorem Cached.setSlice {s t : State} (h : Cached s t) (f i : Nat) (S : Slice) : Cached s (t.setSlice f i S) :=
  h.trans rfl
theorem Cached.charge {s t : State} (h : Cached s t) (o : Nat) (f : Owner → Owner) : Cached s (t.charge o f) := h.trans rfl
theorem Cached.twin {s t : State} (h : Cached s t) : Twin s t := by
  unfold Cached at h
  unfold Twin
  rw [h]
theorem Cached.quiet {s t : State} (h : Cached s t) : Quiet s t := .of_eq (by rw [h]) (by rw [h]) (by rw [h])

theorem State.l2Evict_cached (s : State) (f i now : Nat) (x : L2Line) : Cached s (s.l2Evict f i now x) := by
  unfold State.l2Evict
  extract_lets S h ev u bill
  have hu : Cached s u := (Cached.refl s).setSlice f i _
  have hb {v : State} (d : Option Nat) (hv : Cached s v) : Cached s (bill v d) := by
    cases d with
    | none => exact hv
    | some o => exact hv.charge o _
  exact hb _ (hb _ hu)

/-- An access that allocates changes slices and owners' accounts alone. -/
theorem State.l2Touch_cached (s : State) (tag own pa d due : Nat) (wr : Bool) :
    Cached s (s.l2Touch tag own pa d due true wr).1 := by
  unfold State.l2Touch
  extract_lets f i now line hi S u k due dirty cost set mine own2 cands room w v z S' ev y
  have hu : Cached s u := (Cached.refl s).setSlice f i _
  have hcost {v : State} (hv : Cached s v) : Cached s (cost v) := hv.charge own _
  have hw : Cached s w := hcost hu
  have hz : Cached s z := by
    simp only [z]
    generalize v = q
    split
    · split
      · exact hw.trans (w.l2Evict_cached f i now _)
      · exact hw
    · exact hw
  clear_value z w u cost
  rw [if_neg (by decide)]
  split
  · extract_lets has S2 y2 s2
    have h2 : Cached s s2 := hu.setSlice f i _
    clear_value s2 has
    cases has with
    | false => exact hcost h2
    | true => exact h2
  · split
    · exact hw
    · exact hz.setSlice f i _

/-! ## The addition -/

/-- The state in which an agent's addition meets its line. -/
def State.touched (s : State) (tag ctx pa : Nat) : State :=
  if regionOf pa = Region.plinth then (s.l2Touch tag (((s.ctx tag ctx).map (·.owner)).getD 0) pa 14 s.wtime true true).1 else s

theorem State.touched_cached (s : State) (tag ctx pa : Nat) : Cached s (s.touched tag ctx pa) := by
  unfold State.touched
  split
  · exact s.l2Touch_cached _ _ _ _ _ _
  · exact .refl s

theorem State.agentAdd_eq (s : State) (tag ctx va n : Nat) : s.agentAdd tag ctx va n =
    (s.xlate tag ctx va .readWrite .agent).map fun pa =>
      ((s.touched tag ctx pa).devMemWrite ((s.touched tag ctx pa).ctx tag ctx) pa n
        ((s.devMemRead (s.ctx tag ctx) pa n + 1) % 2 ^ (8 * n)), s.devMemRead (s.ctx tag ctx) pa n) := rfl

theorem State.agentAdd_quiet {s v : State} {tag ctx va n k : Nat} (h : s.agentAdd tag ctx va n = some (v, k)) : Quiet s v := by
  rw [State.agentAdd_eq] at h
  obtain ⟨pa, -, e⟩ := Option.map_eq_some_iff.1 h
  obtain ⟨rfl, -⟩ := Prod.mk.inj e
  exact (s.touched_cached tag ctx pa).quiet.trans ((Stable.devMemWrite _ _ _ _).quiet _)

theorem Twin.agentAdd {s t v : State} (h : Twin s t) {tag ctx va n k : Nat} (hv : s.agentAdd tag ctx va n = some (v, k)) :
    ∃ u, t.agentAdd tag ctx va n = some (u, k) ∧ Twin v u := by
  rw [State.agentAdd_eq] at hv ⊢
  obtain ⟨pa, hpa, e⟩ := Option.map_eq_some_iff.1 hv
  obtain ⟨rfl, rfl⟩ := Prod.mk.inj e
  have hc : Twin (s.touched tag ctx pa) (t.touched tag ctx pa) :=
    ((s.touched_cached tag ctx pa).twin.symm.trans h).trans (t.touched_cached tag ctx pa).twin
  rw [h.xlate, hpa, Option.map_some, h.ctx, h.devMemRead, hc.ctx]
  exact ⟨_, rfl, (Stable.devMemWrite _ _ _ _).twin _ _ hc⟩

end Sys2Proof.Machine
end

section
/-! PROOFS. The end of a team: what its tile keeps, the planes that it gives back, and the addition that completes its launch. -/

namespace Sys2Proof.Machine
open Sys2Proof.Claims

/-! ## States that differ in the arrays of tiles -/

/-- A tile with another array. -/
def Tile.withArr (T : Tile) (a : Arr) : Tile := { T with arr := a }

/-- One state is another up to the arrays of its tiles, whose queues are the same, and steps due. -/
structure ArrApart (s t : State) : Prop where
  frame : t = { s with tiles := t.tiles, due := t.due }
  tile : ∀ x, ∃ a, t.tile x = (s.tile x).withArr a ∧ a.q = (s.tile x).arr.q

theorem ArrApart.refl (s : State) : ArrApart s s := ⟨rfl, fun x => ⟨(s.tile x).arr, rfl, rfl⟩⟩

theorem ArrApart.twin {s t : State} (h : ArrApart s t) : Twin s t := by
  unfold Twin
  rw [h.frame]

theorem ArrApart.grows {s t u : State} (h : ArrApart s t) (k : DueGrows t u) : ArrApart s u :=
  ⟨by rw [k.frame, h.frame], fun x => by rw [k.tile]; exact h.tile x⟩

theorem ArrApart.setTile {s t : State} (h : ArrApart s t) (x : Nat) (T : Tile) {a : Arr} (ha : a.q = T.arr.q) :
    ArrApart (s.setTile x T) (t.setTile x (T.withArr a)) where
  frame := by
    rw [h.frame]
    rfl
  tile y := by
    rw [State.tile_setTile, State.tile_setTile]
    split
    · exact ⟨a, rfl, ha⟩
    · exact h.tile y

theorem ArrApart.modTile {s t : State} (h : ArrApart s t) (x : Nat) {f : Tile → Tile}
    (hf : ∀ T a, f (T.withArr a) = (f T).withArr a ∧ (f T).arr = T.arr) : ArrApart (s.modTile x f) (t.modTile x f) := by
  obtain ⟨a, ha, hq⟩ := h.tile x
  unfold State.modTile
  rw [ha, (hf _ _).1]
  exact h.setTile x _ (by rw [(hf _ a).2, hq])

theorem ArrApart.respond {s t : State} (h : ArrApart s t) (id : Nat) (r : Req) : ArrApart (s.respond id r) (t.respond id r) := by
  refine ⟨?_, h.tile⟩
  rw [(t.respond_leaves id r).1, (s.respond_leaves id r).1, h.frame]

theorem ArrApart.req {s t : State} (h : ArrApart s t) (id : Nat) : t.req id = s.req id := by rw [h.frame]; rfl

theorem ArrApart.foldl {α : Type} {f : State → α → State} (hf : ∀ s t x, ArrApart s t → ArrApart (f s x) (f t x)) (l : List α)
    {s t : State} (h : ArrApart s t) : ArrApart (l.foldl f s) (l.foldl f t) := by
  induction l generalizing s t with
  | nil => exact h
  | cons x l ih => exact ih (hf s t x h)

/-! ## Answers to those that wait at a team that ends -/

/-- No item waits any more for the bins of a team. -/
def Tile.dropHeld (team : Nat) (T : Tile) : Tile := T.setCtl { T.ctl with held := T.ctl.held.filter fun h => h.team != team }

/-- The item of a remote SPAWN finds its template stale. -/
def State.answerStale (s : State) (h : HeldItem) : State :=
  match s.req h.req with
  | some r => s.respond h.req { r with ecc := errStale }
  | none => s

theorem State.staleHeld_eq (s : State) (t team : Nat) : s.staleHeld t team =
    ((s.tile t).ctl.held.filter fun h => h.team == team).foldl State.answerStale (s.modTile t (Tile.dropHeld team)) := rfl

/-- A full/empty request finds no team. -/
def State.answerOrphan (s : State) (q : Nat × Req) : State := s.respond q.1 { q.2 with ecc := errNoTeam }

/-- Requests of other tiles that wait at a word of a team. -/
def State.orphans (s : State) (t team : Nat) : AMap Req :=
  s.reqs.filter fun q => q.2.isFe && q.2.arr && !q.2.perf && q.2.rtile == t && q.2.rteam == team && q.2.tile != t

theorem State.feOrphans_eq (s : State) (t team : Nat) : s.feOrphans t team = (s.orphans t team).foldl State.answerOrphan s := rfl

theorem State.tile_answerStale (s : State) (h : HeldItem) (x : Nat) : (s.answerStale h).tile x = s.tile x := by
  unfold State.answerStale
  split <;> rfl

theorem State.tile_staleHeld (s : State) (t team : Nat) : (s.staleHeld t team).tile t = (s.tile t).dropHeld team := by
  rw [State.staleHeld_eq]
  refine List.foldlRecOn (motive := fun u : State => u.tile t = (s.tile t).dropHeld team) _ _ ?_ fun u hu h _ => ?_
  · exact (s.tile_modTile t t _).trans (if_pos rfl)
  · rw [State.tile_answerStale, hu]

theorem State.tile_feOrphans (s : State) (t team x : Nat) : (s.feOrphans t team).tile x = s.tile x := by
  rw [State.feOrphans_eq]
  exact List.foldlRecOn (motive := fun u : State => u.tile x = s.tile x) _ _ rfl fun u hu q _ => hu

theorem ArrApart.staleHeld {s t : State} (h : ArrApart s t) (x team : Nat) : ArrApart (s.staleHeld x team) (t.staleHeld x team) := by
  obtain ⟨a, ha, -⟩ := h.tile x
  have hheld : (t.tile x).ctl.held = (s.tile x).ctl.held := by rw [ha]; rfl
  rw [State.staleHeld_eq, State.staleHeld_eq, hheld]
  refine ArrApart.foldl (fun u v i k => ?_) _ (h.modTile x fun T b => ⟨rfl, rfl⟩)
  unfold State.answerStale
  rw [k.req]
  split
  · exact k.respond _ _
  · exact k

theorem ArrApart.feOrphans {s t : State} (h : ArrApart s t) (x team : Nat) : ArrApart (s.feOrphans x team) (t.feOrphans x team) := by
  have hq : t.orphans x team = s.orphans x team := by rw [h.frame]; rfl
  rw [State.feOrphans_eq, State.feOrphans_eq, hq]
  exact ArrApart.foldl (f := State.answerOrphan) (fun u v q k => k.respond _ _) _ h

theorem ArrApart.teamSettled {s t : State} (h : ArrApart s t) (x : Nat) (y : Team) : t.teamSettled x y = s.teamSettled x y := by
  obtain ⟨a, ha, hq⟩ := h.tile x
  have hp : t.passed x y.rh = s.passed x y.rh := by rw [h.frame]; rfl
  have hr : t.reqs = s.reqs := by rw [h.frame]
  unfold State.teamSettled
  rw [hp, hr, ha]
  dsimp only [Tile.withArr]
  rw [hq]
  rfl

/-! ## A team ends on its tile (R35, R37) -/

/-- A team that has ended. -/
def Team.over (x : Team) : Team := { x with ended := true }

/-- The tile of a team that ends: its templates are released and, where it holds the planes, they are given back. -/
def Tile.ending (T : Tile) (team : Nat) (x : Team) (rel : Bool) : Tile :=
  let T := (T.releaseTemplates team).setTeam x.over
  if rel then T.withArr { T.arr with releasing := true } else T

theorem Tile.ending_tag (T : Tile) (team : Nat) (x : Team) (rel : Bool) : (T.ending team x rel).tag = T.tag := by
  cases rel <;> rfl

theorem Tile.ending_ctx (T : Tile) (team : Nat) (x : Team) (rel : Bool) : (T.ending team x rel).ctl.ctx = T.ctl.ctx := by
  have h : (T.ending team x rel).ctl = ((T.releaseTemplates team).setTeam x.over).ctl := by cases rel <;> rfl
  rw [h, Tile.setTeam, Tile.ctl_setCtl]
  rfl

theorem State.dueEv_modTile {s : State} {i : Instr} (h : DueEv s i) (t : Nat) (f : Tile → Tile) : DueEv (s.modTile t f) i := h

/-- The state in which a team's stores are looked at. -/
def State.ending (s : State) (tile team : Nat) (x : Team) (rel : Bool) : State :=
  let s := ((s.setTile tile ((s.tile tile).ending team x rel)).staleHeld tile team).feOrphans tile team
  if rel then s.againAt tile 0 .planeRelease else s

theorem State.dueEv_againAt (s : State) (t g : Nat) (i : Instr) : DueEv (s.againAt t g i) i := by
  unfold State.againAt
  split
  · next h =>
    exact ⟨_, List.contains_iff_mem.1 h, rfl⟩
  · exact ⟨_, List.mem_append_right _ (List.mem_singleton.2 rfl), rfl⟩

theorem State.againAt_grows (s : State) (t g : Nat) (i : Instr) : DueGrows s (s.againAt t g i) := by
  unfold State.againAt
  split
  · exact .refl s
  · exact s.pushAt_grows t g i

theorem State.ending_apart (s : State) (tile team : Nat) (x : Team) (rel : Bool) :
    ArrApart (s.ending tile team x false) (s.ending tile team x rel) := by
  cases rel with
  | false => exact .refl _
  | true =>
    have h := ((((ArrApart.refl s).setTile tile (((s.tile tile).releaseTemplates team).setTeam x.over)
      (a := { (((s.tile tile).releaseTemplates team).setTeam x.over).arr with releasing := true }) rfl).staleHeld tile team).feOrphans
        tile team).grows (State.againAt_grows _ tile 0 .planeRelease)
    exact h

theorem State.ending_tile (s : State) (tile team : Nat) (x : Team) :
    (s.ending tile team x false).tile tile = (((s.tile tile).releaseTemplates team).setTeam x.over).dropHeld team := by
  have h : s.ending tile team x false =
      ((s.setTile tile (((s.tile tile).releaseTemplates team).setTeam x.over)).staleHeld tile team).feOrphans tile team := rfl
  rw [h, State.tile_feOrphans, State.tile_staleHeld, State.tile_setTile, if_pos rfl]

theorem State.parts_ending (s : State) (tile team : Nat) (x : Team) : (s.ending tile team x false).parts = s.parts := by
  have hs (u : State) : (u.staleHeld tile team).parts = u.parts := by
    rw [State.staleHeld_eq]
    refine List.foldlRecOn (motive := fun v : State => v.parts = u.parts) _ _ rfl fun v hv h _ => ?_
    unfold State.answerStale
    split
    · exact hv
    · exact hv
  have hf (u : State) : (u.feOrphans tile team).parts = u.parts := by
    rw [State.feOrphans_eq]
    exact List.foldlRecOn (motive := fun v : State => v.parts = u.parts) _ _ rfl fun v hv q _ => hv
  exact (hf _).trans (hs _)

theorem Tile.team_ended {T : Tile} {team : Nat} {x : Team} (hid : x.id = team) :
    (((T.releaseTemplates team).setTeam x.over).dropHeld team).team team = some x.over := by
  have h : ∀ U : Tile, (U.dropHeld team).team team = U.team team := fun U => by
    rw [Tile.team, Tile.dropHeld, Tile.ctl_setCtl, Tile.team]
  rw [h, Tile.team_setTeam]
  exact if_pos hid.symm

/-- A team leaves its slot on a tile. -/
def Tile.left (team : Nat) (x : Team) (T : Tile) : Tile := T.setCtl (T.ctl.leave ((T.team team).getD x))

/-- The state in which a team has left its tile. -/
def State.left (s : State) (tile team : Nat) (x : Team) (rel : Bool) : State := (s.ending tile team x rel).modTile tile (Tile.left team x)

theorem State.left_apart (s : State) (tile team : Nat) (x : Team) (rel : Bool) : ArrApart (s.left tile team x false) (s.left tile team x rel) :=
  (s.ending_apart tile team x rel).modTile tile fun _ _ => ⟨rfl, rfl⟩

/-- On a tile that a team has left neither its slot nor a template of it stands. -/
theorem State.left_tile (s : State) (tile team : Nat) (x : Team) (rel : Bool) (hid : x.id = team) :
    ((s.left tile team x rel).tile tile).team team = none ∧ ∀ z ∈ ((s.left tile team x rel).tile tile).store, team ∉ z.2.teams := by
  obtain ⟨a, ha, -⟩ := (s.left_apart tile team x rel).tile tile
  set U := ((s.tile tile).releaseTemplates team).setTeam x.over with hU
  have ht : (s.left tile team x false).tile tile = (U.dropHeld team).left team x := by
    rw [State.left, State.tile_modTile, if_pos rfl, State.ending_tile]
  rw [ha, ht]
  refine ⟨?_, fun z hz hm => ?_⟩
  · have h : (((U.dropHeld team).left team x).withArr a).team team = amGet (((U.dropHeld team).left team x).ctl.teams) team := rfl
    have hteam : (U.dropHeld team).team team = some x.over := Tile.team_ended hid
    have hx : x.over.id = team := hid
    rw [h, Tile.left, Tile.ctl_setCtl, hteam]
    dsimp only [Option.getD_some, CtxCtl.leave]
    rw [hx, amGet_amDel, if_pos rfl]
  · have h : (((U.dropHeld team).left team x).withArr a).store = ((s.tile tile).releaseTemplates team).store := rfl
    rw [h] at hz
    obtain ⟨y, -, hy⟩ := List.mem_filterMap.1 hz
    dsimp only at hy
    split at hy
    · split at hy
      · cases hy
      · cases hy
        simp at hm
    · next hn =>
      cases hy
      exact hn (List.contains_iff_mem.2 hm)

/-! ## DONE (R60) -/

/-- A launch whose last team has ended: it is complete and off its list, and its completion is announced. -/
def State.finishLaunch (s : State) (tag ctx : Nat) (l : Launch) : State :=
  let s := s.modLaunch tag ctx l.seq fun l => { l with complete := true, listed := false }
  let s := if l.irq then s.queueVector l.ifn l.vec else s
  let s := s.wake tag
  if l.signal = 0 then s
  else match s.agentAdd tag ctx l.signal 8 with
  | some (s, _) => s
  | none => s

/-- DONE of a team's launch goes up by one. -/
def State.countEnd (s : State) (tag ctx : Nat) (x : Team) : State :=
  match s.ctx tag ctx, (s.ctx tag ctx).bind fun c => c.launch x.seq with
  | some c, some l =>
    if l.complete || l.aborted.isSome then s
    else match s.agentAdd tag ctx (recordVa c l.seq + 4) 4 with
      | none => s
      | some (s, k) => if k + 1 = l.teams then s.finishLaunch tag ctx l else s
  | _, _ => s

theorem exec_teamEnd_settled {s : State} {tile team : Nat} {x : Team} (hx : (s.tile tile).team team = some x)
    (hd : (s.tile tile).teamDone x = true)
    (hs : (s.ending tile team x ((s.tile tile).arr.holder == some team)).teamSettled tile x = true) :
    exec (.teamEnd tile team) s = .next ((((s.left tile team x ((s.tile tile).arr.holder == some team)).countEnd
      ((s.tile tile).ending team x ((s.tile tile).arr.holder == some team)).tag
      ((s.tile tile).ending team x ((s.tile tile).arr.holder == some team)).ctl.ctx x).push
        [.binGroupLaunch tile, .clusterReservationGrant tile, .agentClaim tile]).pushAt
      ((s.tile tile).ending team x ((s.tile tile).arr.holder == some team)).tag 0 .sliceBoundary) := by
  have he : exec (.teamEnd tile team) s = execTeamEnd tile team s := rfl
  rw [he, execTeamEnd]
  simp only [hx]
  rw [if_neg (by rw [hd]; exact Bool.false_ne_true), if_neg]
  · rfl
  · intro h
    rw [Bool.not_eq_true'] at h
    exact Bool.false_ne_true (h.symm.trans hs)

/-- Tiles and what was due are as before. -/
structure Still (s t : State) : Prop where
  tiles : t.tiles = s.tiles
  keeps : ∀ i, DueEv s i → DueEv t i

theorem Still.refl (s : State) : Still s s := ⟨rfl, fun _ h => h⟩
theorem Still.trans {s t u : State} (h : Still s t) (k : Still t u) : Still s u :=
  ⟨k.tiles.trans h.tiles, fun i hi => k.keeps i (h.keeps i hi)⟩
theorem Quiet.still {s t : State} (h : Quiet s t) : Still s t := ⟨h.work.tiles, h.keeps⟩

theorem State.modLaunch_still (s : State) (tag ctx seq : Nat) (f : Launch → Launch) : Still s (s.modLaunch tag ctx seq f) := by
  unfold State.modLaunch
  rw [s.modCtx_frame]
  exact ⟨rfl, fun _ h => h⟩

theorem State.raiseVector_quiet (s : State) (tag vec : Nat) : Quiet s (s.raiseVector tag vec) := by
  refine ⟨s.raiseVector_sameWork tag vec, fun i h => ?_⟩
  unfold State.raiseVector
  split
  · split
    · exact h
    · split
      · rw [DueEv, s.modPart_frame]
        exact h
      · exact h
  · exact h

/-- Tiles, launches, memory and what was due are as before. -/
structure Calm (s t : State) : Prop where
  quiet : Quiet s t
  mem : t.mem = s.mem

theorem Calm.refl (s : State) : Calm s s := ⟨.refl s, rfl⟩
theorem Calm.trans {s t u : State} (h : Calm s t) (k : Calm t u) : Calm s u := ⟨h.quiet.trans k.quiet, k.mem.trans h.mem⟩
theorem Calm.of_grows {s t : State} (h : DueGrows s t) : Calm s t := ⟨.of_grows h, by rw [h.frame]⟩

theorem State.raiseVector_calm (s : State) (tag vec : Nat) : Calm s (s.raiseVector tag vec) :=
  ⟨s.raiseVector_quiet tag vec, (s.raiseVector_leaves tag vec).1⟩

theorem State.queueVector_calm (s : State) (ifn vec : Nat) : Calm s (s.queueVector ifn vec) := by
  have hq (q : Queue) : Calm s (s.setQueue ifn q) := ⟨.of_eq rfl rfl rfl, rfl⟩
  have later (q : Queue) : Calm s ((s.setQueue ifn q).againAt ifn 0 .interruptModerationExpire) :=
    (hq q).trans (.of_grows (State.againAt_grows _ _ _ _))
  have now (q : Queue) (tag : Nat) : Calm s ((s.setQueue ifn q).raiseVector tag vec) := (hq q).trans (State.raiseVector_calm _ _ _)
  unfold State.queueVector
  split
  · exact .refl s
  · split
    · exact .refl s
    · split
      · split
        · exact later _
        · exact now _ _
      · rw [if_neg Bool.false_ne_true]
        exact now _ _

/-- The marks of a launch that is complete. -/
def Launch.finished (l : Launch) : Launch := { l with complete := true, listed := false }

/-- A launch is marked complete, and its completion is announced. -/
def State.announced (s : State) (tag ctx : Nat) (l : Launch) : State :=
  (if l.irq then (s.modLaunch tag ctx l.seq Launch.finished).queueVector l.ifn l.vec
    else s.modLaunch tag ctx l.seq Launch.finished).wake tag

theorem State.finishLaunch_eq (s : State) (tag ctx : Nat) (l : Launch) : s.finishLaunch tag ctx l =
    if l.signal = 0 then s.announced tag ctx l
    else match (s.announced tag ctx l).agentAdd tag ctx l.signal 8 with
      | some (s, _) => s
      | none => s.announced tag ctx l := rfl

theorem State.announced_calm (s : State) (tag ctx : Nat) (l : Launch) :
    Calm (s.modLaunch tag ctx l.seq Launch.finished) (s.announced tag ctx l) := by
  unfold State.announced
  split
  · exact (State.queueVector_calm _ _ _).trans (.of_grows (State.wake_grows _ _))
  · exact .of_grows (State.wake_grows _ _)

theorem State.announced_still (s : State) (tag ctx : Nat) (l : Launch) : Still s (s.announced tag ctx l) :=
  (s.modLaunch_still _ _ _ _).trans (s.announced_calm tag ctx l).quiet.still

theorem State.finishLaunch_still (s : State) (tag ctx : Nat) (l : Launch) : Still s (s.finishLaunch tag ctx l) := by
  have h := s.announced_still tag ctx l
  rw [State.finishLaunch_eq]
  split
  · exact h
  · split
    · next u k he => exact h.trans (State.agentAdd_quiet he).still
    · exact h

theorem State.countEnd_still (s : State) (tag ctx : Nat) (x : Team) : Still s (s.countEnd tag ctx x) := by
  unfold State.countEnd
  split
  · split
    · exact .refl s
    · split
      · exact .refl s
      · next u k he =>
        have h := (State.agentAdd_quiet he).still
        split
        · exact h.trans (State.finishLaunch_still _ _ _ _)
        · exact h
  · exact .refl s

section
variable {s v : State} {tag ctx : Nat} {x : Team} {c : Ctx} {l : Launch} {k : Nat} (hc : s.ctx tag ctx = some c)
  (hl : c.launch x.seq = some l) (h1 : l.complete = false) (h2 : l.aborted = none)
  (ha : s.agentAdd tag ctx (recordVa c l.seq + 4) 4 = some (v, k))
include hc hl h1 h2 ha

theorem State.countEnd_eq : s.countEnd tag ctx x = if k + 1 = l.teams then v.finishLaunch tag ctx l else v := by
  unfold State.countEnd
  simp only [hc, Option.bind_some, hl, h1, h2, ha]
  rfl

/-- The addition that reaches the team count completes the launch. -/
theorem State.countEnd_last (hk : k + 1 = l.teams) (hs : l.signal = 0) : (s.countEnd tag ctx x).mem = v.mem ∧
    ∃ d m, (s.countEnd tag ctx x).ctx tag ctx = some d ∧ d.launch x.seq = some m ∧ m.complete = true ∧ m.listed = false := by
  rw [State.countEnd_eq hc hl h1 h2 ha, if_pos hk, State.finishLaunch_eq, if_pos hs]
  have hseq : l.seq = x.seq := by simpa using List.find?_some hl
  have hcalm := v.announced_calm tag ctx l
  obtain ⟨d, hd, hdl⟩ := (State.agentAdd_quiet ha).work.launch hc hl
  obtain ⟨e, he, hel⟩ := State.modLaunch_launch (seq := l.seq) Launch.finished (fun _ => rfl) hd (by rw [hseq]; exact hdl)
  obtain ⟨f, hf, hfl⟩ := hcalm.quiet.work.launch he hel
  refine ⟨?_, f, l.finished, hf, by rw [← hseq]; exact hfl, rfl, rfl⟩
  rw [hcalm.mem, State.modLaunch, State.modCtx_frame]

end

/-- Where a team that has ended still stands in its slot, it leaves it so. -/
theorem State.left_eq (s : State) (tile team : Nat) (x : Team) (hid : x.id = team) : s.left tile team x false =
    (s.ending tile team x false).modTile tile fun T => T.setCtl (T.ctl.leave x.over) := by
  have h : ((s.ending tile team x false).tile tile).team team = some x.over := by
    rw [State.ending_tile, Tile.team_ended hid]
  rw [State.left, State.modTile, State.modTile, Tile.left, h]
  rfl

/-- What an end of a team makes due. -/
def State.endDue (s : State) (tile tag : Nat) : State :=
  (s.push [.binGroupLaunch tile, .clusterReservationGrant tile, .agentClaim tile]).pushAt tag 0 .sliceBoundary

theorem State.endDue_grows (s : State) (tile tag : Nat) : DueGrows s (s.endDue tile tag) :=
  (s.push_grows _).trans (State.pushAt_grows _ _ _ _)

theorem exec_teamEnd_left {s : State} {tile team : Nat} {x : Team} {rel : Bool} (hx : (s.tile tile).team team = some x)
    (hd : (s.tile tile).teamDone x = true) (hs : (s.ending tile team x false).teamSettled tile x = true)
    (hrel : ((s.tile tile).arr.holder == some team) = rel) : exec (.teamEnd tile team) s =
      .next (((s.left tile team x rel).countEnd (s.tile tile).tag (s.tile tile).ctl.ctx x).endDue tile (s.tile tile).tag) := by
  have h := exec_teamEnd_settled hx hd (((s.ending_apart tile team x _).teamSettled tile x).trans hs)
  rwa [Tile.ending_tag, Tile.ending_ctx, hrel] at h

theorem State.left_planes (s : State) (tile team : Nat) (x : Team) : DueEv (s.left tile team x true) .planeRelease := by
  have h : DueEv (s.ending tile team x true) .planeRelease := by
    unfold State.ending
    rw [if_pos rfl]
    exact State.dueEv_againAt _ _ _ _
  unfold State.left
  exact State.dueEv_modTile h tile _

/-- After the end of a team its tile stands as the team has left it, and what was due is. -/
theorem State.endDue_leaves (a : State) (tile tag ctx : Nat) (x : Team) : let t := (a.countEnd tag ctx x).endDue tile tag
    t.tile tile = a.tile tile ∧ (∀ i, DueEv a i → DueEv t i) ∧ DueEv t (.agentClaim tile) := by
  have hstill := a.countEnd_still tag ctx x
  have hg := (a.countEnd tag ctx x).endDue_grows tile tag
  exact ⟨(hg.tile tile).trans (State.tile_of_tiles hstill.tiles tile), fun i h => hg.keeps _ (hstill.keeps _ h),
    (State.pushAt_grows _ _ _ _).keeps _ (State.dueEv_push _ (by simp))⟩

/-- In states that differ in arrays DONE has the same effect. -/
theorem ArrApart.countEnd {w a v : State} (h : ArrApart w a) {tag ctx k : Nat} {x : Team} {c : Ctx} {l : Launch}
    (hc : w.ctx tag ctx = some c) (hl : c.launch x.seq = some l) (h1 : l.complete = false) (h2 : l.aborted = none)
    (hadd : w.agentAdd tag ctx (recordVa c l.seq + 4) 4 = some (v, k)) :
    (k + 1 ≠ l.teams → (a.countEnd tag ctx x).mem = v.mem ∧ (a.countEnd tag ctx x).ctx tag ctx = v.ctx tag ctx) ∧
    (k + 1 = l.teams → l.signal = 0 → (a.countEnd tag ctx x).mem = v.mem ∧ ∃ d m, (a.countEnd tag ctx x).ctx tag ctx = some d ∧
      d.launch x.seq = some m ∧ m.complete = true ∧ m.listed = false) := by
  have hca : a.ctx tag ctx = some c := (h.twin.ctx tag ctx).trans hc
  obtain ⟨b, hb, htw⟩ := h.twin.agentAdd hadd
  refine ⟨fun hk => ?_, fun hk hsig => ?_⟩
  · rw [State.countEnd_eq hca hl h1 h2 hb, if_neg hk, htw.mem, htw.ctx]
    exact ⟨rfl, rfl⟩
  · obtain ⟨hm, d, m, hd, hrest⟩ := State.countEnd_last hca hl h1 h2 hb hk hsig
    exact ⟨hm.trans htw.mem, d, m, hd, hrest⟩

/-- The end of a team on a tile, from which it leaves to `w` where it holds no planes. -/
theorem teamEnd_leaves {s w : State} {tile team : Nat} {x : Team} (hx : (s.tile tile).team team = some x) (hid : x.id = team)
    (hd : (s.tile tile).teamDone x = true) (hs : (s.ending tile team x false).teamSettled tile x = true)
    (hw : s.left tile team x false = w) :
    (∃ t, exec (.teamEnd tile team) s = .next t ∧ (t.tile tile).team team = none ∧
      (∀ z ∈ (t.tile tile).store, team ∉ z.2.teams) ∧ DueEv t (.agentClaim tile) ∧
      ((s.tile tile).arr.holder = some team → DueEv t .planeRelease)) ∧
    (∀ c l v k, s.ctx (s.tile tile).tag (s.tile tile).ctl.ctx = some c → c.launch x.seq = some l → l.complete = false →
      l.aborted = none → w.agentAdd (s.tile tile).tag (s.tile tile).ctl.ctx (recordVa c l.seq + 4) 4 = some (v, k) →
      (k + 1 ≠ l.teams → ∃ t, exec (.teamEnd tile team) s = .next t ∧ t.mem = v.mem ∧
        t.ctx (s.tile tile).tag (s.tile tile).ctl.ctx = v.ctx (s.tile tile).tag (s.tile tile).ctl.ctx) ∧
      (k + 1 = l.teams → l.signal = 0 → ∃ t d m, exec (.teamEnd tile team) s = .next t ∧ t.mem = v.mem ∧
        t.ctx (s.tile tile).tag (s.tile tile).ctl.ctx = some d ∧ d.launch x.seq = some m ∧ m.complete = true ∧
        m.listed = false)) := by
  set rel := (s.tile tile).arr.holder == some team with hrel
  have hrun := exec_teamEnd_left hx hd hs hrel.symm
  obtain ⟨ht1, ht2⟩ := s.left_tile tile team x rel hid
  have hap := s.left_apart tile team x rel
  have hparts : (s.left tile team x false).parts = s.parts := s.parts_ending tile team x
  have hplanes : (s.tile tile).arr.holder = some team → DueEv (s.left tile team x rel) .planeRelease := fun h => by
    have hr : rel = true := by rw [hrel, h]; exact beq_self_eq_true _
    rw [hr]
    exact s.left_planes tile team x
  rw [hw] at hap hparts
  generalize s.left tile team x rel = a at hrun ht1 ht2 hap hplanes
  obtain ⟨htile, hkeeps, hclaim⟩ := a.endDue_leaves tile (s.tile tile).tag (s.tile tile).ctl.ctx x
  refine ⟨⟨_, hrun, by rw [htile]; exact ht1, by rw [htile]; exact ht2, hclaim, fun h => hkeeps _ (hplanes h)⟩,
    fun c l v k hc hl h1 h2 hadd => ?_⟩
  obtain ⟨k1, k2⟩ := hap.countEnd ((State.ctx_congr hparts _ _).trans hc) hl h1 h2 hadd
  refine ⟨fun hk => ⟨_, hrun, (k1 hk).1, (k1 hk).2⟩, fun hk hsig => ?_⟩
  obtain ⟨hm, d, m, hrest⟩ := k2 hk hsig
  exact ⟨_, d, m, hrun, hm, hrest⟩

theorem teamEnds : TeamEnds := by
  intro tile team s x T hx hid hd u hset w
  exact teamEnd_leaves hx hid hd hset (s.left_eq tile team x hid)

end Sys2Proof.Machine
end

section
/-! PROOFS. Claims: the slots that an agent chooses, the team that it builds, and the claim of a plain launch. -/

namespace Sys2Proof.Machine
open Sys2Proof.Claims

/-! ## The slots that an agent chooses (R34) -/

theorem pickSlots_spec (n k : Nat) {l : List Nat} (hl : l.Nodup) (h : n ≤ l.length) :
    (pickSlots n k l).length = n ∧ ∀ x ∈ pickSlots n k l, x ∈ l := by
  induction n generalizing k l with
  | zero => simp [pickSlots]
  | succ n ih =>
    unfold pickSlots
    split
    · next hle => exact ⟨Nat.le_antisymm hle h, fun x hx => hx⟩
    · next hgt =>
      set j := Config.pick k l.length % l.length
      have hj : j < l.length := Nat.mod_lt _ (by omega)
      have hx : l.getD j 0 ∈ l := by
        rw [List.getD_eq_getElem _ _ hj]
        exact List.getElem_mem hj
      have hlen : (l.filter (· != l.getD j 0)).length = l.length - 1 := by
        rw [← hl.erase_eq_filter, List.length_erase_of_mem hx]
      obtain ⟨h1, h2⟩ := ih (k + 1) (hl.filter (· != l.getD j 0)) (by omega)
      refine ⟨by simp only [List.length_cons, h1], fun x hm => ?_⟩
      rcases List.mem_cons.1 hm with rfl | hm
      · exact hx
      · exact (List.mem_filter.1 (h2 x hm)).1

theorem insertUp_perm (x : Nat) (l : List Nat) : (insertUp x l).Perm (x :: l) := by
  induction l with
  | nil => exact .refl _
  | cons y l ih =>
    unfold insertUp
    split
    · exact .refl _
    · exact (ih.cons y).trans (.swap x y l)

theorem foldl_insertUp_perm (l a : List Nat) : (l.foldl (fun a x => insertUp x a) a).Perm (a ++ l) := by
  induction l generalizing a with
  | nil => rw [List.append_nil]; exact .refl _
  | cons x l ih => exact (ih _).trans (((insertUp_perm x a).append_right l).trans List.perm_middle.symm)

theorem Tile.freeSlots_nodup (T : Tile) : T.freeSlots.Nodup := List.nodup_range.filter _

/-- As many slots as asked for, all of them free. -/
theorem State.chooseSlots_spec (s : State) {T : Tile} {g : Nat} (h : g ≤ T.freeSlots.length) :
    (s.chooseSlots T g).length = g ∧ ∀ x ∈ s.chooseSlots T g, x ∈ T.freeSlots := by
  obtain ⟨h1, h2⟩ := pickSlots_spec g (s.free * 64) T.freeSlots_nodup h
  have hp := foldl_insertUp_perm (pickSlots g (s.free * 64) T.freeSlots) []
  exact ⟨hp.length_eq.trans h1, fun x hx => h2 x (hp.mem_iff.1 hx)⟩

theorem Tile.fits_room {T : Tile} {i : CtxImage} {g seq : Nat} (h : T.fits i g seq = true) : g ≤ T.freeSlots.length := by
  unfold Tile.fits at h
  simp only [Bool.and_eq_true, decide_eq_true_eq] at h
  exact h.1.1.1.2

/-! ## The build of a team (R39, R57) -/

/-- The tile under an image's settings, with the code that memory holds. -/
def State.applied (s : State) (t : Nat) (i : CtxImage) : Tile :=
  { (s.tile t).applyImage i s.nextId with icache := s.mem, codeFrom := s.writes.length }

theorem Tile.applyImage_keeps (T : Tile) (i : CtxImage) (n : Nat) :
    (T.applyImage i n).resv = T.resv ∧ (T.applyImage i n).anchoring = T.anchoring := by
  unfold Tile.applyImage
  dsimp only
  split
  · exact ⟨rfl, rfl⟩
  · exact ⟨rfl, rfl⟩

/-- The team of a ticket on its tile. -/
def State.ticketTeam (s : State) (t num : Nat) (l : Launch) (i : CtxImage) (resv : List Nat) (anchor : Nat) : Team :=
  newTeam (s.setTile t ((s.tile t).applyImage i s.nextId)) t num l i resv anchor

/-- The state in which a tile has an image's settings. -/
def State.imaged (s : State) (t : Nat) (i : CtxImage) : State := ((s.setTile t (s.applied t i)).drawn).fresh

theorem State.buildTeam_prologue {s : State} {t num : Nat} {l : Launch} {i : CtxImage} {anchor : Nat} {resv : List Nat}
    {tslot : Option Nat} (h : i.timage = 0) : s.buildTeam t num l i anchor resv tslot =
      ((s.imaged t i).setTile t (((s.applied t i).setTeam (s.ticketTeam t num l i resv anchor)).setGroup (resv.headD 0)
        (leaderGroup (s.imaged t i) t s.nextId i.entry))).fresh := by
  unfold State.buildTeam
  simp only [h, if_true]
  rfl

/-- The first lane of a leader's group stands at its entry, and the others are empty. -/
theorem leaderGroup_lanes (s : State) (t team entry : Nat) : ((leaderGroup s t team entry).lane 0).st = .live ∧
    ((leaderGroup s t team entry).lane 0).pc = entry ∧ ∀ m < 32, m ≠ 0 → ((leaderGroup s t team entry).lane m).st = .empty := by
  refine ⟨rfl, rfl, fun m hm h0 => ?_⟩
  obtain ⟨m, rfl⟩ := Nat.exists_eq_succ_of_ne_zero h0
  have : (leaderGroup s t team entry).lane (m + 1) = ({} : Lane) := by
    have h31 : m < 31 := by omega
    simp only [Group.lane, leaderGroup, List.getD_cons_succ]
    exact List.getD_replicate _ h31
  rw [this]

/-- A team whose launch has a prologue stands on its tile with its leader, and memory and other steps due are as before. -/
theorem State.buildTeam_leads (s : State) (t num : Nat) (l : Launch) {i : CtxImage} (anchor : Nat) (resv : List Nat)
    (tslot : Option Nat) (h : i.timage = 0) : let u := s.buildTeam t num l i anchor resv tslot
    u.mem = s.mem ∧ ∃ x, (u.tile t).team x.id = some x ∧ x.num = num ∧ x.seq = l.seq ∧ x.slabs = i.slabs ∧ x.accRows = i.accRows ∧
      x.resv = resv ∧ x.anchor = anchor ∧ ∃ e, (u.tile t).group (resv.headD 0) = leaderGroup e t x.id i.entry := by
  set x := s.ticketTeam t num l i resv anchor with hx
  set G := leaderGroup (s.imaged t i) t s.nextId i.entry with hG
  rw [State.buildTeam_prologue h]
  have hT : (((s.imaged t i).setTile t (((s.applied t i).setTeam x).setGroup (resv.headD 0) G)).fresh.tile t) =
      ((s.applied t i).setTeam x).setGroup (resv.headD 0) G := (State.tile_setTile _ _ _ _).trans (if_pos rfl)
  refine ⟨rfl, x, ?_, rfl, rfl, rfl, rfl, rfl, rfl, s.imaged t i, ?_⟩
  · rw [hT, Tile.team_setGroup, Tile.team_setTeam, if_pos rfl]
  · rw [hT, Tile.group_setGroup_same]
    rfl

/-! ## What an agent hears -/

/-- A tile with another queue of its agent. -/
def Tile.withAevt (T : Tile) (a b : List Aevt) : Tile := { T with aevt := a, aevtWait := b }

theorem State.agentHears_leaves (s : State) (t : Nat) : s.agentHears t = { s with tiles := (s.agentHears t).tiles } ∧
    ∀ x, ∃ a b, (s.agentHears t).tile x = (s.tile x).withAevt a b := by
  unfold State.agentHears
  split
  · refine ⟨rfl, fun x => ?_⟩
    rw [State.tile_modTile]
    split
    · next e =>
      rw [e]
      exact ⟨_, _, rfl⟩
    · exact ⟨_, _, rfl⟩
  · exact ⟨rfl, fun x => ⟨_, _, rfl⟩⟩

theorem State.agentHears_twin (s : State) (t : Nat) : Twin s (s.agentHears t) := by
  unfold Twin
  rw [(s.agentHears_leaves t).1]

theorem State.mayClaim_hears (s : State) (t x : Nat) : (s.agentHears t).mayClaim x = s.mayClaim x := by
  obtain ⟨a, b, h⟩ := (s.agentHears_leaves t).2 x
  unfold State.mayClaim
  simp only [h, (s.agentHears_twin t).part]
  rfl

theorem Twin.readImage {s t : State} (h : Twin s t) (tag ctx image : Nat) : t.readImage tag ctx image = s.readImage tag ctx image := by
  unfold State.readImage State.virtRead
  rw [h.xlate, h.ctx]
  simp only [h.devMemRead]

theorem exec_agentClaim (tile : Nat) (s : State) : exec (.agentClaim tile) s = execAgentClaim tile s := rfl

/-- A ready bin goes before every claim (R46). -/
theorem claimWaits (tile : Nat) (s : State) (hm : s.mayClaim tile = true) (hb : (s.tile tile).binFirst = true) :
    ∃ t, exec (.agentClaim tile) s = .next t ∧ DueEv t (.binGroupLaunch tile) ∧ DueEv t (.agentClaim tile) ∧
      (t.tile tile).slots = (s.tile tile).slots ∧ t.mem = s.mem := by
  obtain ⟨a, b, ht⟩ := (s.agentHears_leaves tile).2 tile
  have hmem := (s.agentHears_twin tile).mem
  have hb' : ((s.agentHears tile).tile tile).binFirst = true := by rw [ht]; exact hb
  have hm' : (s.agentHears tile).mayClaim tile = true := (s.mayClaim_hears tile tile).trans hm
  have hrun : exec (.agentClaim tile) s =
      .next (((s.agentHears tile).again (.binGroupLaunch tile)).again (.agentClaim tile)) := by
    rw [exec_agentClaim, execAgentClaim]
    rw [if_neg (by rw [hm']; exact Bool.false_ne_true), if_pos hb']
  have hg := ((s.agentHears tile).again_grows (.binGroupLaunch tile)).trans (State.again_grows _ (.agentClaim tile))
  refine ⟨_, hrun, (State.again_grows _ _).keeps _ (State.dueEv_again _ _), State.dueEv_again _ _, ?_, ?_⟩
  · rw [hg.tile, ht]
    rfl
  · rw [hg.frame]
    exact hmem

/-! ## The claim of a plain launch (R55) -/

/-- A launch is off the list of its context. -/
def Launch.unlisted (l : Launch) : Launch := { l with listed := false }

/-- A ticket of a launch has been drawn: the last one takes the launch off its list. -/
def State.ticketDrawn (s : State) (tag ctx k : Nat) (l : Launch) : State :=
  if k + 1 = l.units then (s.modLaunch tag ctx l.seq Launch.unlisted).wake tag else s

theorem State.ticketDrawn_leaves (s : State) (tag ctx k : Nat) (l : Launch) :
    Still s (s.ticketDrawn tag ctx k l) ∧ (s.ticketDrawn tag ctx k l).mem = s.mem := by
  unfold State.ticketDrawn
  split
  · have hg := (s.modLaunch tag ctx l.seq Launch.unlisted).wake_grows tag
    refine ⟨(s.modLaunch_still _ _ _ _).trans (Quiet.of_grows hg).still, ?_⟩
    rw [hg.frame, State.modLaunch, State.modCtx_frame]
  · exact ⟨.refl s, rfl⟩

theorem State.claimFrom_plain {s u : State} {t : Nat} {l : Launch} {r : List Launch} {P : Part} {c : Ctx} {i : CtxImage} {k : Nat}
    (hP : s.part (s.tile t).tag = some P) (hc : s.ctx (s.tile t).tag (s.tile t).ctl.ctx = some c)
    (hi : s.readImage (s.tile t).tag (s.tile t).ctl.ctx l.image = some i) (hok : i.ok = true)
    (hf : (s.tile t).fits i l.g l.seq = true) (hr : (P.rectangle (s.tile t).place l.cw l.ch).isSome = true)
    (ha : s.agentAdd (s.tile t).tag (s.tile t).ctl.ctx (recordVa c l.seq) 4 = some (u, k)) (hk : k < l.units)
    (h1 : l.cw * l.ch ≤ 1) : s.claimFrom t (l :: r) =
      ((u.ticketDrawn (s.tile t).tag (s.tile t).ctl.ctx k l).buildTeam t k l i (s.tile t).place
        ((u.ticketDrawn (s.tile t).tag (s.tile t).ctl.ctx k l).chooseSlots (s.tile t) l.g) none).push [.agentClaim t] := by
  have hn : (P.rectangle (s.tile t).place l.cw l.ch).isNone = false := by
    rw [Option.isNone_eq_false_iff]
    exact hr
  rw [State.claimFrom]
  simp only [hP, hc, hi, hok, hf, hn, ha]
  rw [if_neg (by simp), if_neg (by simp), if_neg (Nat.not_le.2 hk), if_pos h1]
  rfl

theorem exec_agentClaim_claims {tile : Nat} {s : State} {P : Part} {c : Ctx} (hm : (s.agentHears tile).mayClaim tile = true)
    (hb : ((s.agentHears tile).tile tile).binFirst = false)
    (hP : (s.agentHears tile).part ((s.agentHears tile).tile tile).tag = some P)
    (hc : (s.agentHears tile).ctx ((s.agentHears tile).tile tile).tag ((s.agentHears tile).tile tile).ctl.ctx = some c)
    (hi : P.images = []) (hr : ((s.agentHears tile).tile tile).resv = []) :
    exec (.agentClaim tile) s = .next ((s.agentHears tile).claimFrom tile c.active) := by
  rw [exec_agentClaim, execAgentClaim]
  simp only [hP, hc, hi, hr]
  rw [if_neg (by rw [hm]; exact Bool.false_ne_true), if_neg (by rw [hb]; exact Bool.false_ne_true), if_neg (by simp),
    if_neg (by simp)]

theorem claimBuilds (tile : Nat) (s u : State) (P : Part) (c : Ctx) (l : Launch) (r : List Launch) (i : CtxImage) (k : Nat) :
    let T := s.tile tile
    s.mayClaim tile = true → T.binFirst = false → s.part T.tag = some P → s.ctx T.tag T.ctl.ctx = some c → P.images = [] →
    T.resv = [] → c.active = l :: r → s.readImage T.tag T.ctl.ctx l.image = some i → i.ok = true → i.timage = 0 → l.cw = 1 → l.ch = 1 →
    T.fits i l.g l.seq = true → 0 < l.g → (P.rectangle T.place 1 1).isSome = true →
    s.agentAdd T.tag T.ctl.ctx (recordVa c l.seq) 4 = some (u, k) → k < l.units →
    ∃ t j x g, exec (.agentClaim tile) s = .next t ∧ t.mem = u.mem ∧ (t.tile tile).team j = some x ∧ x.id = j ∧ x.num = k ∧
      x.seq = l.seq ∧ x.slabs = i.slabs ∧ x.accRows = i.accRows ∧ x.resv.length = l.g ∧ g ∈ x.resv ∧
      (∀ n ∈ x.resv, n ∈ T.freeSlots) ∧
      ((t.tile tile).group g).live = true ∧ ((t.tile tile).group g).leader = true ∧ ((t.tile tile).group g).team = x.id ∧
      (((t.tile tile).group g).lane 0).st = .live ∧ (((t.tile tile).group g).lane 0).pc = i.entry ∧
      (∀ m < 32, m ≠ 0 → (((t.tile tile).group g).lane m).st = .empty) ∧ DueEv t (.agentClaim tile) := by
  intro T hm hb hP hc him hresv hact hi hok htim hcw hch hf hg hr ha hk
  obtain ⟨a, b, ht⟩ := (s.agentHears_leaves tile).2 tile
  have htw := s.agentHears_twin tile
  have hm' : (s.agentHears tile).mayClaim tile = true := (s.mayClaim_hears tile tile).trans hm
  obtain ⟨v, hv, hvm⟩ := htw.agentAdd ha
  have hrun := exec_agentClaim_claims hm' (by rw [ht]; exact hb) (by rw [ht, htw.part]; exact hP) (by rw [ht, htw.ctx]; exact hc) him
    (by rw [ht]; exact hresv)
  rw [hact] at hrun
  have hclaim := State.claimFrom_plain (s := s.agentHears tile) (t := tile) (r := r) (u := v) (k := k) (i := i)
    (by rw [ht, htw.part]; exact hP) (by rw [ht, htw.ctx]; exact hc) (by rw [ht, htw.readImage]; exact hi) hok
    (by rw [ht]; exact hf) (by rw [ht, hcw, hch]; exact hr) (by rw [ht]; exact hv) hk (by rw [hcw, hch])
  rw [ht] at hclaim
  set w := v.ticketDrawn T.tag T.ctl.ctx k l with hw
  obtain ⟨hlen, hfree⟩ := w.chooseSlots_spec (T := T) (Tile.fits_room hf)
  set sl := w.chooseSlots T l.g with hsl
  obtain ⟨hmem, x, hx, h1, h2, h3, h4, h5, -, e, hG⟩ := w.buildTeam_leads tile k l T.place sl none htim
  obtain ⟨hl0, hl1, hl2⟩ := leaderGroup_lanes e tile x.id i.entry
  have hhead : sl.headD 0 ∈ sl := by
    cases hs : sl with
    | nil => rw [hs] at hlen; exact absurd hlen (Nat.ne_of_lt hg)
    | cons y ys => exact List.mem_cons_self
  have hnext : exec (.agentClaim tile) s = .next ((w.buildTeam tile k l i T.place sl none).push [.agentClaim tile]) :=
    hrun.trans (congrArg _ hclaim)
  refine ⟨_, x.id, x, sl.headD 0, hnext, ?_, hx, rfl, h1, h2, h3, h4, by rw [h5]; exact hlen,
    by rw [h5]; exact hhead, by rw [h5]; exact hfree, ?_⟩
  · exact hmem.trans ((v.ticketDrawn_leaves T.tag T.ctl.ctx k l).2.trans hvm.mem)
  · rw [State.push_tile, hG]
    exact ⟨rfl, rfl, rfl, hl0, hl1, hl2, State.dueEv_push _ (List.mem_singleton.2 rfl)⟩

theorem plainClaim : PlainClaim := ⟨claimWaits, claimBuilds⟩

end Sys2Proof.Machine
end

section
/-! PROOFS. Clusters: reservations received, granted and lost, and the build of a cluster whose members have all granted. -/

namespace Sys2Proof.Machine
open Sys2Proof.Claims

/-! ## Grants (R55, R56) -/

theorem State.mayClaim_congr {s t : State} {x : Nat} (hT : ∃ l, t.tile x = { s.tile x with resv := l }) (hp : t.parts = s.parts) :
    t.mayClaim x = s.mayClaim x := by
  obtain ⟨l, hT⟩ := hT
  unfold State.mayClaim State.part
  rw [hT, hp]
  rfl

theorem firstResv_mem {l : List Resv} {r : Resv} (h : firstResv l = some r) : r ∈ l := by
  induction l with
  | nil => cases h
  | cons x l ih =>
    unfold firstResv at h
    split at h
    · cases h
      exact List.mem_cons_self
    · next q hq =>
      split at h
      · cases h
        exact List.mem_cons_of_mem _ (ih hq)
      · cases h
        exact List.mem_cons_self

theorem State.granting_grants (s : State) {T : Tile} {r : Resv} (h : T.fits r.img r.g r.seq = true) : Grants T r (s.granting T r) := by
  obtain ⟨h1, h2⟩ := s.chooseSlots_spec (Tile.fits_room h)
  refine ⟨rfl, h1, h2, fun h0 => ?_⟩
  unfold State.granting
  rw [if_pos h0]

/-- The reservations of a tile once one of them is granted. -/
def State.withGrant (s : State) (T : Tile) (r : Resv) : List Resv := T.resv.map fun q => if q = r then s.granting T r else q

/-- A tile with other reservations. -/
def Tile.setResv (T : Tile) (l : List Resv) : Tile := { T with resv := l }

/-- The state in which a tile's lowest queued reservation is granted. -/
def State.granted (s : State) (t : Nat) (r : Resv) : State :=
  (s.setTile t ((s.tile t).setResv (s.withGrant (s.tile t) r))).drawn.push [.clusterBuild r.anchor r.seq r.c, .clusterReservationGrant t]

theorem State.serveResv_bin {s : State} {t : Nat} (h : (s.tile t).binFirst = true) :
    s.serveResv t = (s.again (.binGroupLaunch t)).again (.clusterReservationGrant t) := by
  rw [State.serveResv]
  exact if_pos h

theorem State.serveResv_grants {s : State} {t : Nat} {r : Resv} (h : (s.tile t).binFirst = false)
    (hr : firstResv ((s.tile t).resv.filter fun r => r.ctx == (s.tile t).ctl.ctx && !r.granted) = some r)
    (hf : (s.tile t).fits r.img r.g r.seq = true) : s.serveResv t = s.granted t r := by
  rw [State.serveResv]
  simp only [h, hr, hf]
  rfl

theorem State.granted_resv (s : State) (t : Nat) (r : Resv) : ((s.granted t r).tile t).resv = s.withGrant (s.tile t) r := by
  have h : (s.granted t r).tile t = (s.tile t).setResv (s.withGrant (s.tile t) r) := (s.tile_setTile _ _ _).trans (if_pos rfl)
  rw [h]
  rfl

/-- The lowest queued reservation is granted, behind a ready bin. -/
theorem grantServes (tile : Nat) (s : State) (r : Resv) (hm : s.mayClaim tile = true)
    (hr : firstResv ((s.tile tile).resv.filter fun r => r.ctx == (s.tile tile).ctl.ctx && !r.granted) = some r) :
    ((s.tile tile).binFirst = true → ∃ t, exec (.clusterReservationGrant tile) s = .next t ∧ t.tiles = s.tiles ∧
      DueEv t (.binGroupLaunch tile) ∧ DueEv t (.clusterReservationGrant tile)) ∧
    ((s.tile tile).binFirst = false → (s.tile tile).fits r.img r.g r.seq = true →
      ∃ t q, exec (.clusterReservationGrant tile) s = .next t ∧ q ∈ (t.tile tile).resv ∧ Grants (s.tile tile) r q ∧
        r ∉ (t.tile tile).resv ∧ DueEv t (.clusterBuild r.anchor r.seq r.c)) := by
  have hrun : exec (.clusterReservationGrant tile) s = .next (s.serveResv tile) := congrArg Host.Outcome.next (if_pos hm)
  refine ⟨fun hb => ?_, fun hb hf => ?_⟩
  · rw [State.serveResv_bin hb] at hrun
    have hg := (s.again_grows (.binGroupLaunch tile)).trans (State.again_grows _ (.clusterReservationGrant tile))
    exact ⟨_, hrun, by rw [hg.frame], (State.again_grows _ _).keeps _ (State.dueEv_again _ _), State.dueEv_again _ _⟩
  · rw [State.serveResv_grants hb hr hf] at hrun
    obtain ⟨hmem, hq⟩ := List.mem_filter.1 (firstResv_mem hr)
    have hng : r.granted = false := by simpa using (Bool.and_eq_true_iff.1 hq).2
    refine ⟨_, s.granting (s.tile tile) r, hrun, ?_, s.granting_grants hf, ?_, State.dueEv_push _ (by simp)⟩
    · rw [State.granted_resv]
      exact List.mem_map.2 ⟨r, hmem, if_pos rfl⟩
    · rw [State.granted_resv]
      intro h
      obtain ⟨q, -, he⟩ := List.mem_map.1 h
      split at he
      · have := congrArg Resv.granted he
        rw [hng] at this
        cases this
      · next hn => exact hn he

/-! ## Reservations (R56, R390) -/

theorem exec_clusterReservation (tile anchor seq c : Nat) (s : State) :
    exec (.clusterReservation tile anchor seq c) s = execClusterReservation tile anchor seq c s := rfl

/-- The state in which a reservation has joined those of a tile. -/
def State.reserved (s : State) (tile : Nat) (r : Resv) : State :=
  s.setTile tile ((s.tile tile).setResv (s.revokeFor (s.tile tile) r ++ [r]))

theorem State.reserved_tile (s : State) (tile : Nat) (r : Resv) :
    (s.reserved tile r).tile tile = (s.tile tile).setResv (s.revokeFor (s.tile tile) r ++ [r]) :=
  (s.tile_setTile _ _ _).trans (if_pos rfl)

/-- A reservation is lost on its way to a tile. -/
def Anchored.lose (tile : Nat) (a b : Anchored) : Anchored := if b = a then { b with lost := tile :: b.lost } else b

/-- A tile whose reservation for another one is lost. -/
def Tile.loseResv (tile : Nat) (a : Anchored) (A : Tile) : Tile := { A with anchoring := A.anchoring.map (Anchored.lose tile a) }

/-- The state in which a reservation is dropped on its way. -/
def State.resvLost (s : State) (tile anchor : Nat) (a : Anchored) (p : Packet) (d : Nat × Nat) : State :=
  (((s.dropOther a.ctx p d).noteTrap anchor 32 0 0 .xlate 5 (s.tile tile).place 0)).modTile anchor (Tile.loseResv tile a)

theorem reservation_new {tile anchor seq c : Nat} {s : State} {a : Anchored} (hlost : tile ∉ a.lost)
    (hnew : ∀ q ∈ (s.tile tile).resv, ¬ (q.anchor = anchor ∧ q.ctx = a.ctx ∧ q.seq = seq ∧ q.c = c)) :
    ¬ (a.lost.contains tile ||
      (s.tile tile).resv.any fun r => r.anchor == anchor && r.ctx == a.ctx && r.seq == seq && r.c == c) = true := by
  intro h
  rcases Bool.or_eq_true_iff.1 h with h | h
  · exact hlost (List.contains_iff_mem.1 h)
  · obtain ⟨q, hq, hc⟩ := List.any_eq_true.1 h
    simp only [Bool.and_eq_true, beq_iff_eq] at hc
    exact hnew q hq ⟨hc.1.1.1, hc.1.1.2, hc.1.2, hc.2⟩

section
variable {tile anchor seq c : Nat} {s : State} {a : Anchored} {P : Part} {l : Launch} {ms : List (Nat × Nat)} {m : Nat × Nat}
  {i : CtxImage}
  (ha : (s.tile anchor).anchoring.find? (fun a => a.seq == seq && a.c == c && a.ctx == (s.tile anchor).ctl.ctx) = some a)
  (hP : s.part (s.tile anchor).tag = some P)
  (hl : (s.ctx (s.tile anchor).tag a.ctx).bind (fun x => x.launch seq) = some l) (hlost : tile ∉ a.lost)
  (hnew : ∀ q ∈ (s.tile tile).resv, ¬ (q.anchor = anchor ∧ q.ctx = a.ctx ∧ q.seq = seq ∧ q.c = c))
  (hms : P.rectangle (s.tile anchor).place l.cw l.ch = some ms) (hm : ms.find? (fun m => m.1 == tile) = some m)
  (hi : s.readImage (s.tile anchor).tag a.ctx l.image = some i)
include ha hP hl hlost hnew hms hm hi

theorem exec_clusterReservation_received
    (hw : (if tile = anchor then none
      else s.dropOnWay 8400 anchor (s.meshPacket anchor tile 6 l.owner (s.tile tile).place 0)) = none) :
    let r : Resv := { anchor := anchor, ctx := a.ctx, seq := seq, c := c, num := c * l.cw * l.ch + m.2, g := l.g, img := i,
                      granted := false, slots := [], tslot := none }
    exec (.clusterReservation tile anchor seq c) s =
      .next (if (s.reserved tile r).mayClaim tile then (s.reserved tile r).serveResv tile else s.reserved tile r) := by
  intro r
  rw [exec_clusterReservation, execClusterReservation]
  simp only [ha, hP, hl, hms, hm, hi, Option.bind_some]
  rw [if_neg (reservation_new hlost hnew)]
  simp only [hw]
  rfl

theorem exec_clusterReservation_dropped {d : Nat × Nat}
    (hw : (if tile = anchor then none
      else s.dropOnWay 8400 anchor (s.meshPacket anchor tile 6 l.owner (s.tile tile).place 0)) = some d) :
    exec (.clusterReservation tile anchor seq c) s =
      .next (s.resvLost tile anchor a (s.meshPacket anchor tile 6 l.owner (s.tile tile).place 0) d) := by
  rw [exec_clusterReservation, execClusterReservation]
  simp only [ha, hP, hl, hms, hm, hi, Option.bind_some]
  rw [if_neg (reservation_new hlost hnew)]
  simp only [hw]
  rfl

end

/-- The reservations of a tile after the arrival of another one that takes grants of higher ones. -/
theorem State.revokeFor_eq (s : State) (T : Tile) (r : Resv) : s.revokeFor T r = T.resv.map fun (q : Resv) =>
    if q.ctx = r.ctx ∧ q.granted = true ∧ r.before q = true ∧ s.allGranted T.tag q.anchor q.ctx q.seq q.c = false
    then { q with granted := false, slots := [], tslot := none } else q := by
  unfold State.revokeFor
  refine List.map_congr_left fun q _ => if_congr ?_ rfl rfl
  simp [and_assoc]

/-- A packet that is dropped leaves the reservations of tiles. -/
theorem State.dropOther_resv (s : State) (ctx : Nat) (p : Packet) (d : Nat × Nat) (x : Nat) :
    ((s.dropOther ctx p d).tile x).resv = (s.tile x).resv := by
  have h1 : ((s.logDrop d.1 p d.2).tile x).resv = (s.tile x).resv := by
    have : (s.logDrop d.1 p d.2).tile x = (s.modTile d.1 fun T => { T with drops := min (T.drops + 1) (2 ^ 32 - 1) }).tile x := rfl
    rw [this, State.tile_modTile]
    split
    · next e => rw [e]
    · rfl
  have h2 (u : State) : ((u.coverDrop p.tag p.stile ctx d.2 p.place p.off).tile x) = u.tile x := by
    unfold State.coverDrop
    split
    · rfl
    · dsimp only
      split
      · exact State.tile_modPart _ _ _ _
      · exact State.tile_modPart _ _ _ _
  rw [State.dropOther, h2, h1]

theorem Tile.resv_setGroup (T : Tile) (g : Nat) (x : Group) : (T.setGroup g x).resv = T.resv := by
  unfold Tile.setGroup
  split <;> rfl

theorem State.resvLost_resv (s : State) (tile anchor : Nat) (a : Anchored) (p : Packet) (d : Nat × Nat) (x : Nat) :
    ((s.resvLost tile anchor a p d).tile x).resv = (s.tile x).resv := by
  have hn (u : State) : ((u.noteTrap anchor 32 0 0 .xlate 5 (s.tile tile).place 0).tile x).resv = (u.tile x).resv := by
    unfold State.noteTrap State.modGroup
    rw [State.push_tile, State.tile_modTile]
    split
    · next e => rw [Tile.resv_setGroup, e]
    · rfl
  unfold State.resvLost
  rw [State.tile_modTile]
  split
  · next e =>
    subst e
    exact (hn _).trans (s.dropOther_resv _ _ _ _)
  · exact (hn _).trans (s.dropOther_resv _ _ _ _)

theorem State.mayClaim_reserved (s : State) (tile : Nat) (r : Resv) : (s.reserved tile r).mayClaim tile = s.mayClaim tile :=
  State.mayClaim_congr ⟨_, s.reserved_tile tile r⟩ rfl

/-- A queued reservation holds no slot. -/
theorem Tile.freeSlots_setResv {T : Tile} {r : Resv} (hT : T.resv = []) (hr : r.granted = false) :
    (T.setResv [r]).freeSlots = T.freeSlots := by
  have h1 : T.granted = [] := by rw [Tile.granted, hT, List.filter_nil]
  have h2 : (T.setResv [r]).granted = [] := by
    have : (T.setResv [r]).granted = [r].filter fun q => q.granted && q.ctx == T.ctl.ctx := rfl
    rw [this, List.filter_cons_of_neg (by simp [hr]), List.filter_nil]
  unfold Tile.freeSlots
  rw [h1, h2]
  rfl

theorem Tile.binFirst_setResv {T : Tile} {r : Resv} (hT : T.resv = []) (hr : r.granted = false) :
    (T.setResv [r]).binFirst = T.binFirst := by
  unfold Tile.binFirst
  rw [Tile.freeSlots_setResv hT hr]
  rfl

/-- The first reservation of a tile that may claim is granted at once where it fits. -/
theorem State.reserved_serves {s : State} {tile : Nat} {r : Resv} (hT : (s.tile tile).resv = []) (hr : r.granted = false)
    (hc : (s.tile tile).ctl.ctx = r.ctx) (hb : (s.tile tile).binFirst = false)
    (hf : ((s.tile tile).setResv [r]).fits r.img r.g r.seq = true) : let t := (s.reserved tile r).serveResv tile
    (∃ q, (t.tile tile).resv = [q] ∧ Grants (s.tile tile) r q) ∧ DueEv t (.clusterBuild r.anchor r.seq r.c) := by
  have htile : (s.reserved tile r).tile tile = (s.tile tile).setResv [r] := by
    rw [s.reserved_tile, s.revokeFor_eq, hT]
    rfl
  have hfirst : firstResv (((s.tile tile).setResv [r]).resv.filter fun q => q.ctx == ((s.tile tile).setResv [r]).ctl.ctx && !q.granted) =
      some r := by
    have hk : (r.ctx == (s.tile tile).ctl.ctx && !r.granted) = true := by rw [hc, hr]; simp
    have : ((s.tile tile).setResv [r]).resv.filter (fun q => q.ctx == ((s.tile tile).setResv [r]).ctl.ctx && !q.granted) = [r] :=
      List.filter_cons_of_pos (p := fun q : Resv => q.ctx == (s.tile tile).ctl.ctx && !q.granted) (l := []) hk
    rw [this]
    rfl
  intro t
  have ht : t = (s.reserved tile r).granted tile r :=
    State.serveResv_grants (by rw [htile, Tile.binFirst_setResv hT hr]; exact hb) (by rw [htile]; exact hfirst) (by rw [htile]; exact hf)
  rw [ht]
  refine ⟨⟨(s.reserved tile r).granting ((s.tile tile).setResv [r]) r, ?_, ?_⟩, State.dueEv_push _ (by simp)⟩
  · rw [State.granted_resv, htile]
    exact congrArg (fun x => [x]) (if_pos rfl)
  · have h := (s.reserved tile r).granting_grants hf
    unfold Grants at h ⊢
    rwa [Tile.freeSlots_setResv hT hr] at h

/-- A reservation queues, is granted, or is lost. -/
theorem reservationComes (tile anchor seq c : Nat) (s : State) (a : Anchored) (P : Part) (l : Launch) (ms : List (Nat × Nat))
    (m : Nat × Nat) (i : CtxImage) : let A := s.tile anchor
    let T := s.tile tile
    A.anchoring.find? (fun a => a.seq == seq && a.c == c && a.ctx == A.ctl.ctx) = some a → s.part A.tag = some P →
    (s.ctx A.tag a.ctx).bind (fun x => x.launch seq) = some l → T.tag = A.tag → tile ∉ a.lost →
    (∀ q ∈ T.resv, ¬ (q.anchor = anchor ∧ q.ctx = a.ctx ∧ q.seq = seq ∧ q.c = c)) →
    P.rectangle A.place l.cw l.ch = some ms → ms.find? (fun m => m.1 == tile) = some m →
    s.readImage A.tag a.ctx l.image = some i →
    let r : Resv := { anchor := anchor, ctx := a.ctx, seq := seq, c := c, num := c * l.cw * l.ch + m.2, g := l.g, img := i,
                      granted := false, slots := [], tslot := none }
    let way := if tile = anchor then none else s.dropOnWay 8400 anchor (s.meshPacket anchor tile 6 l.owner T.place 0)
    let kept := T.resv.map fun (q : Resv) =>
      if q.ctx = a.ctx ∧ q.granted = true ∧ r.before q = true ∧ s.allGranted T.tag q.anchor q.ctx q.seq q.c = false
      then { q with granted := false, slots := [], tslot := none } else q
    (way = none → s.mayClaim tile = false →
      ∃ t, exec (.clusterReservation tile anchor seq c) s = .next t ∧ (t.tile tile).resv = kept ++ [r]) ∧
    (way = none → s.mayClaim tile = true → T.resv = [] → T.ctl.ctx = a.ctx → T.binFirst = false →
      Tile.fits { T with resv := [r] } i l.g seq = true →
      ∃ t q, exec (.clusterReservation tile anchor seq c) s = .next t ∧ (t.tile tile).resv = [q] ∧ Grants T r q ∧
        DueEv t (.clusterBuild anchor seq c)) ∧
    (∀ d, way = some d → ∃ t, exec (.clusterReservation tile anchor seq c) s = .next t ∧ (t.tile tile).resv = T.resv) := by
  intro A T ha hP hl htag hlost hnew hms hm hi r way kept
  refine ⟨fun hw hmay => ?_, fun hw hmay hT hc hb hf => ?_, fun d hw => ?_⟩
  · have hrun := exec_clusterReservation_received ha hP hl hlost hnew hms hm hi hw
    refine ⟨s.reserved tile r, hrun.trans (congrArg _ (if_neg ?_)), ?_⟩
    · rw [s.mayClaim_reserved, hmay]
      exact Bool.false_ne_true
    · rw [s.reserved_tile, s.revokeFor_eq]
      rfl
  · have hrun := exec_clusterReservation_received ha hP hl hlost hnew hms hm hi hw
    obtain ⟨⟨q, hq, hg⟩, hd⟩ := State.reserved_serves (r := r) hT rfl hc hb hf
    refine ⟨_, q, hrun.trans (congrArg _ (if_pos ?_)), hq, hg, hd⟩
    rw [s.mayClaim_reserved, hmay]
  · exact ⟨_, exec_clusterReservation_dropped ha hP hl hlost hnew hms hm hi hw, s.resvLost_resv _ _ _ _ _ _⟩

end Sys2Proof.Machine
end

section
/-! PROOFS. The build of a cluster: its members' teams one after the other, each on its own tile; and the statement on teams,
clusters and bins as a whole. -/

namespace Sys2Proof.Machine
open Sys2Proof.Claims

/-! ## What a build leaves -/

/-- Of all tiles one has changed, not in its reservations nor in the clusters that it builds, and what was due is. -/
structure Builds (s u : State) (x : Nat) : Prop where
  other : ∀ y, y ≠ x → u.tile y = s.tile y
  resv : (u.tile x).resv = (s.tile x).resv
  anchoring : (u.tile x).anchoring = (s.tile x).anchoring
  keeps : ∀ i, DueEv s i → DueEv u i

theorem Builds.refl (s : State) (x : Nat) : Builds s s x := ⟨fun _ _ => rfl, rfl, rfl, fun _ h => h⟩

theorem Builds.setTile {s u : State} {x : Nat} (h : Builds s u x) {T : Tile} (hr : T.resv = (s.tile x).resv)
    (ha : T.anchoring = (s.tile x).anchoring) : Builds s (u.setTile x T) x where
  other y hy := by rw [State.tile_setTile, if_neg hy, h.other y hy]
  resv := by rw [State.tile_setTile, if_pos rfl, hr]
  anchoring := by rw [State.tile_setTile, if_pos rfl, ha]
  keeps := h.keeps

theorem Builds.drawn {s u : State} {x : Nat} (h : Builds s u x) : Builds s u.drawn x := ⟨h.other, h.resv, h.anchoring, h.keeps⟩
theorem Builds.fresh {s u : State} {x : Nat} (h : Builds s u x) : Builds s u.fresh x := ⟨h.other, h.resv, h.anchoring, h.keeps⟩
theorem Builds.push {s u : State} {x : Nat} (h : Builds s u x) (l : List Instr) : Builds s (u.push l) x :=
  ⟨h.other, h.resv, h.anchoring, fun i hi => (u.push_grows l).keeps i (h.keeps i hi)⟩

theorem Tile.anchoring_setGroup (T : Tile) (g : Nat) (x : Group) : (T.setGroup g x).anchoring = T.anchoring := by
  unfold Tile.setGroup
  split <;> rfl

theorem State.buildTeam_builds (s : State) (t num : Nat) (l : Launch) (i : CtxImage) (anchor : Nat) (resv : List Nat)
    (tslot : Option Nat) : Builds s (s.buildTeam t num l i anchor resv tslot) t := by
  obtain ⟨hr, ha⟩ := (s.tile t).applyImage_keeps i s.nextId
  have hr' : (s.applied t i).resv = (s.tile t).resv := hr
  have ha' : (s.applied t i).anchoring = (s.tile t).anchoring := ha
  have himg : Builds s (s.imaged t i) t := ((Builds.refl s t).setTile hr' ha').drawn.fresh
  by_cases h0 : i.timage = 0
  · rw [State.buildTeam_prologue h0]
    refine (himg.setTile ?_ ?_).fresh
    · rw [Tile.resv_setGroup]
      exact hr'
    · rw [Tile.anchoring_setGroup]
      exact ha'
  · unfold State.buildTeam
    extract_lets T ctx x T' s' T2 g stamp
    have hs : Builds s s' t := himg
    have hstamp (U : Tile) (slot : Nat) (h1 : U.resv = (s.tile t).resv) (h2 : U.anchoring = (s.tile t).anchoring) :
        Builds s (stamp U slot) t := by
      refine (hs.setTile ?_ ?_).push _
      · exact h1
      · exact h2
    rw [if_neg h0]
    split
    · exact hstamp _ _ hr' ha'
    · split
      · exact hstamp _ _ hr' ha'
      · exact hs.push _

/-! ## The members of a cluster (R57) -/

/-- A reservation of a cluster. -/
def Resv.isOf (anchor ctx seq c : Nat) (r : Resv) : Bool := r.anchor == anchor && r.ctx == ctx && r.seq == seq && r.c == c

/-- The team of one member is built in the slots that its reservation holds. -/
def State.buildMember (mine : Resv → Bool) (l : Launch) (place : Nat) (s : State) (m : Nat × Nat) : State :=
  match (s.tile m.1).resv.find? mine with
  | none => s
  | some r =>
    ((s.modTile m.1 fun T => T.setResv (T.resv.filter fun q => !mine q)).buildTeam m.1 r.num l r.img place r.slots r.tslot).push
      [.agentClaim m.1]

/-- A member's team has been built: its reservation is gone and, where no template image is loaded, its team stands there. -/
structure MemberBuilt (s : State) (mine : Resv → Bool) (l : Launch) (place x : Nat) (u : State) : Prop where
  gone : ∀ r ∈ (u.tile x).resv, mine r = false
  due : DueEv u (.agentClaim x)
  team : (∀ r ∈ (s.tile x).resv, r.img.timage = 0) → ∃ y ∈ (u.tile x).ctl.teams, y.2.seq = l.seq ∧ y.2.anchor = place

section
variable {s : State} {mine : Resv → Bool} {l : Launch} {place : Nat}

theorem State.buildMember_none {u : State} {m : Nat × Nat} (h : (u.tile m.1).resv.find? mine = none) : u.buildMember mine l place m = u := by
  unfold State.buildMember
  rw [h]

/-- The state in which the reservation of a member has gone. -/
def State.claimed (mine : Resv → Bool) (u : State) (x : Nat) : State := u.modTile x fun T => T.setResv (T.resv.filter fun q => !mine q)

theorem State.claimed_tile (mine : Resv → Bool) (u : State) (x y : Nat) : (u.claimed mine x).tile y =
    if y = x then (u.tile x).setResv ((u.tile x).resv.filter fun q => !mine q) else u.tile y := State.tile_modTile _ _ _ _

theorem State.buildMember_some {u : State} {m : Nat × Nat} {r : Resv} (h : (u.tile m.1).resv.find? mine = some r) :
    u.buildMember mine l place m =
      ((u.claimed mine m.1).buildTeam m.1 r.num l r.img place r.slots r.tslot).push [.agentClaim m.1] := by
  unfold State.buildMember
  rw [h]
  rfl

/-- A member's build leaves the other tiles, and the clusters that any tile builds, and what was due. -/
theorem State.buildMember_leaves (u : State) (m : Nat × Nat) : let v := u.buildMember mine l place m
    (∀ y, y ≠ m.1 → v.tile y = u.tile y) ∧ (∀ y, (v.tile y).anchoring = (u.tile y).anchoring) ∧ ∀ i, DueEv u i → DueEv v i := by
  cases h : (u.tile m.1).resv.find? mine with
  | none =>
    rw [State.buildMember_none h]
    exact ⟨fun _ _ => rfl, fun _ => rfl, fun _ k => k⟩
  | some r =>
    rw [State.buildMember_some h]
    have hb := ((u.claimed mine m.1).buildTeam_builds m.1 r.num l r.img place r.slots r.tslot).push [.agentClaim m.1]
    refine ⟨fun y hy => by rw [hb.other y hy, State.claimed_tile, if_neg hy], fun y => ?_, hb.keeps⟩
    by_cases hy : y = m.1
    · rw [hy, hb.anchoring, State.claimed_tile, if_pos rfl]
      rfl
    · rw [hb.other y hy, State.claimed_tile, if_neg hy]

theorem State.buildMember_builds {u : State} {m : Nat × Nat} (hu : (u.tile m.1).resv = (s.tile m.1).resv)
    (hm : ∃ r ∈ (s.tile m.1).resv, mine r = true) : MemberBuilt s mine l place m.1 (u.buildMember mine l place m) := by
  obtain ⟨r, hr⟩ := Option.isSome_iff_exists.1 (List.find?_isSome.2 hm)
  rw [State.buildMember_some (r := r) (by rw [hu, hr])]
  have hb := ((u.claimed mine m.1).buildTeam_builds m.1 r.num l r.img place r.slots r.tslot).push [.agentClaim m.1]
  refine ⟨fun q hq => ?_, State.dueEv_push _ (List.mem_singleton.2 rfl), fun h0 => ?_⟩
  · rw [hb.resv, State.claimed_tile, if_pos rfl] at hq
    simpa using (List.mem_filter.1 hq).2
  · obtain ⟨-, x, hx, -, h2, -, -, -, h6, -⟩ := (u.claimed mine m.1).buildTeam_leads m.1 r.num l place r.slots r.tslot
      (h0 r (List.mem_of_find?_eq_some hr))
    exact ⟨(x.id, x), mem_of_amGet hx, h2, h6⟩

theorem MemberBuilt.step {x : Nat} {u : State} (h : MemberBuilt s mine l place x u) (m : Nat × Nat) :
    MemberBuilt s mine l place x (u.buildMember mine l place m) := by
  by_cases hx : x = m.1
  · have hn : (u.tile m.1).resv.find? mine = none := by
      rw [List.find?_eq_none]
      intro r hr
      rw [h.gone r (hx ▸ hr)]
      exact Bool.false_ne_true
    rw [State.buildMember_none hn]
    exact h
  · obtain ⟨ho, -, hk⟩ := u.buildMember_leaves (mine := mine) (l := l) (place := place) m
    have ht := ho x hx
    exact ⟨by rw [ht]; exact h.gone, hk _ h.due, by rw [ht]; exact h.team⟩

/-- Every member of the list is built, from states in which its tile still holds its reservation. -/
theorem State.buildMembers {x : Nat} (hm : ∃ r ∈ (s.tile x).resv, mine r = true) (ms : List (Nat × Nat)) {u : State}
    (h : (x ∈ ms.map (·.1) ∧ (u.tile x).resv = (s.tile x).resv) ∨ MemberBuilt s mine l place x u) :
    MemberBuilt s mine l place x (ms.foldl (State.buildMember mine l place) u) := by
  induction ms generalizing u with
  | nil =>
    rcases h with ⟨h, -⟩ | h
    · cases h
    · exact h
  | cons m ms ih =>
    refine ih ?_
    rcases h with ⟨h, hr⟩ | h
    · by_cases hx : x = m.1
      · subst hx
        exact .inr (State.buildMember_builds hr hm)
      · refine .inl ⟨((List.mem_cons.1 h).resolve_left hx), ?_⟩
        rw [(u.buildMember_leaves m).1 x hx, hr]
    · exact .inr (h.step m)

theorem State.buildMembers_anchoring (ms : List (Nat × Nat)) (u : State) (y : Nat) :
    ((ms.foldl (State.buildMember mine l place) u).tile y).anchoring = (u.tile y).anchoring :=
  List.foldlRecOn (motive := fun v : State => (v.tile y).anchoring = (u.tile y).anchoring) _ _ rfl fun v hv m _ =>
    ((v.buildMember_leaves m).2.1 y).trans hv

end

/-! ## The build of a cluster -/

/-- An anchor whose cluster is built. -/
def Tile.builtFrom (ctx seq c : Nat) (T : Tile) : Tile :=
  { T with anchoring := T.anchoring.filter fun a => !(a.ctx == ctx && a.seq == seq && a.c == c) }

theorem exec_clusterBuild_ready {anchor seq c : Nat} {s : State} {P : Part} {l : Launch} {ms : List (Nat × Nat)}
    (hP : s.part (s.tile anchor).tag = some P)
    (hl : (s.ctx (s.tile anchor).tag (s.tile anchor).ctl.ctx).bind (fun x => x.launch seq) = some l)
    (ha : (s.tile anchor).anchoring.any (fun a => a.ctx == (s.tile anchor).ctl.ctx && a.seq == seq && a.c == c) = true)
    (hg : s.allGranted (s.tile anchor).tag anchor (s.tile anchor).ctl.ctx seq c = true)
    (hms : P.rectangle (s.tile anchor).place l.cw l.ch = some ms)
    (hm : ∀ m ∈ ms, s.mayClaim m.1 = true ∧ (s.tile m.1).ctl.ctx = (s.tile anchor).ctl.ctx) :
    exec (.clusterBuild anchor seq c) s =
      .next (ms.foldl (State.buildMember (Resv.isOf anchor (s.tile anchor).ctl.ctx seq c) l (s.tile anchor).place)
        (s.modTile anchor (Tile.builtFrom (s.tile anchor).ctl.ctx seq c))) := by
  have he : exec (.clusterBuild anchor seq c) s = execClusterBuild anchor seq c s := rfl
  have hall : (ms.all fun m => s.mayClaim m.1 && decide ((s.tile m.1).ctl.ctx = (s.tile anchor).ctl.ctx)) = true :=
    List.all_eq_true.2 fun m h => by simp [hm m h]
  rw [he, execClusterBuild]
  simp only [hP, hl, hms]
  rw [if_neg (by rw [ha, hg]; exact Bool.false_ne_true), if_neg (by rw [hall]; exact Bool.false_ne_true)]
  rfl

theorem allGranted_holds {s : State} {tag anchor ctx seq c : Nat} {P : Part} {l : Launch} {ms : List (Nat × Nat)}
    (hP : s.part tag = some P) (hl : (s.ctx tag ctx).bind (fun x => x.launch seq) = some l)
    (hms : P.rectangle (s.tile anchor).place l.cw l.ch = some ms) (hg : s.allGranted tag anchor ctx seq c = true)
    {m : Nat × Nat} (hm : m ∈ ms) : ∃ r ∈ (s.tile m.1).resv, Resv.isOf anchor ctx seq c r = true := by
  unfold State.allGranted at hg
  simp only [hP, hl, hms] at hg
  obtain ⟨r, hr, h⟩ := List.any_eq_true.1 (List.all_eq_true.1 hg m hm)
  simp only [Bool.and_eq_true] at h
  obtain ⟨⟨⟨⟨-, h1⟩, h2⟩, h3⟩, h4⟩ := h
  exact ⟨r, hr, by simp only [Resv.isOf, h1, h2, h3, h4, Bool.and_self]⟩

theorem clusterBuilds (anchor seq c : Nat) (s : State) (P : Part) (l : Launch) (ms : List (Nat × Nat)) : let A := s.tile anchor
    let mine (r : Resv) : Bool := r.anchor == anchor && r.ctx == A.ctl.ctx && r.seq == seq && r.c == c
    s.part A.tag = some P → (s.ctx A.tag A.ctl.ctx).bind (fun x => x.launch seq) = some l →
    A.anchoring.any (fun a => a.ctx == A.ctl.ctx && a.seq == seq && a.c == c) = true →
    s.allGranted A.tag anchor A.ctl.ctx seq c = true → P.rectangle A.place l.cw l.ch = some ms →
    (∀ m ∈ ms, s.mayClaim m.1 = true ∧ (s.tile m.1).ctl.ctx = A.ctl.ctx) →
    ∃ t, exec (.clusterBuild anchor seq c) s = .next t ∧
      (∀ a ∈ (t.tile anchor).anchoring, ¬ (a.ctx = A.ctl.ctx ∧ a.seq = seq ∧ a.c = c)) ∧
      ∀ m ∈ ms, (∀ r ∈ (t.tile m.1).resv, mine r = false) ∧ DueEv t (.agentClaim m.1) ∧
        ((∀ r ∈ (s.tile m.1).resv, r.img.timage = 0) → ∃ x ∈ (t.tile m.1).ctl.teams, x.2.seq = seq ∧ x.2.anchor = A.place) := by
  intro A mine hP hl ha hg hms hm
  set u := s.modTile anchor (Tile.builtFrom A.ctl.ctx seq c) with hu
  have hseq : l.seq = seq := by
    obtain ⟨x, -, hx⟩ := Option.bind_eq_some_iff.1 hl
    simpa using List.find?_some hx
  refine ⟨_, exec_clusterBuild_ready hP hl ha hg hms hm, fun a h => ?_, fun m hmem => ?_⟩
  · rw [State.buildMembers_anchoring, State.tile_modTile, if_pos rfl] at h
    have hn := (List.mem_filter.1 h).2
    rintro ⟨h1, h2, h3⟩
    simp [h1, h2, h3, A] at hn
  · have hresv : (u.tile m.1).resv = (s.tile m.1).resv := by
      rw [hu, State.tile_modTile]
      split
      · next e =>
        rw [e]
        rfl
      · rfl
    have hb := State.buildMembers (l := l) (place := A.place) (allGranted_holds hP hl hms hg hmem) ms (u := u)
      (.inl ⟨List.mem_map_of_mem hmem, hresv⟩)
    refine ⟨hb.gone, hb.due, fun h0 => ?_⟩
    obtain ⟨y, hy, h1, h2⟩ := hb.team h0
    exact ⟨y, hy, h1.trans hseq, h2⟩

theorem clusters : Clusters := ⟨reservationComes, grantServes, clusterBuilds⟩

/-- Settles O35: each step by the tile that it leaves; an addition to memory by what it does in states that differ in their
tiles, a cluster by the builds of its members one after the other. -/
theorem teamsBuildWork : Obligations.TeamsBuildWork := ⟨plainClaim, clusters, templateGroups, bins, teamEnds⟩

end Sys2Proof.Machine
end

section
/-! PROOFS. Queues: bytes written and read back, what an error makes of its queue, and from it the statement on doorbells, head
packets, write-backs, locked items, resets and moderated vectors. -/

namespace Sys2Proof.Machine
open Sys2Proof.Claims

/-! ## Bytes of memory -/

theorem Memory.length_bytes (m : List Host.Cell) (a n : Nat) : (Memory.bytes m a n).length = n := by simp [Memory.bytes]

theorem length_leBytes (n v : Nat) : (leBytes n v).length = n := by simp [leBytes]

theorem Memory.bytes_succ (m : List Host.Cell) (a n : Nat) :
    Memory.bytes m a (n + 1) = Memory.get m a :: Memory.bytes m (a + 1) n := by
  simp only [Memory.bytes, List.range_succ_eq_map, List.map_cons, List.map_map, Nat.add_zero]
  congr 1
  exact List.map_congr_left fun i _ => congrArg (Memory.get m) (by simp only [Nat.succ_eq_add_one]; omega)

theorem Memory.bytes_congr {m k : List Host.Cell} {a n : Nat} (h : ∀ i < n, Memory.get m (a + i) = Memory.get k (a + i)) :
    Memory.bytes m a n = Memory.bytes k a n :=
  List.map_congr_left fun i hi => h i (List.mem_range.1 hi)

/-- Bytes that were put read back. -/
theorem Memory.bytes_putBytes (m : List Host.Cell) (a : Nat) (l : List Byte) :
    Memory.bytes (Memory.putBytes m a l) a l.length = l := by
  induction l generalizing m a with
  | nil => rfl
  | cons b l ih =>
    rw [List.length_cons, Memory.bytes_succ, Memory.putBytes, ih, Memory.get_putBytes_outside _ _ _ _ (.inl (by omega)),
      Memory.get_set, if_pos rfl]

/-- Bytes that lie apart from those that were put read as before. -/
theorem Memory.bytes_putBytes_apart (m : List Host.Cell) (a : Nat) (l : List Byte) {b n : Nat} (h : b + n ≤ a ∨ a + l.length ≤ b) :
    Memory.bytes (Memory.putBytes m a l) b n = Memory.bytes m b n :=
  Memory.bytes_congr fun i hi => Memory.get_putBytes_outside m a l _ (by omega)

/-! ## Steps that leave the queues -/

/-- The queues are as before, and everything that was due is. -/
structure KeepsQueues (s t : State) : Prop where
  queues : t.queues = s.queues
  keeps : ∀ i, DueEv s i → DueEv t i

theorem KeepsQueues.refl (s : State) : KeepsQueues s s := ⟨rfl, fun _ h => h⟩
theorem KeepsQueues.trans {s t u : State} (h : KeepsQueues s t) (k : KeepsQueues t u) : KeepsQueues s u :=
  ⟨k.queues.trans h.queues, fun i hi => k.keeps i (h.keeps i hi)⟩
theorem KeepsQueues.queue {s t : State} (h : KeepsQueues s t) (n : Nat) : t.queue n = s.queue n :=
  congrArg (amGet · n) h.queues
theorem Notified.keepsQueues {s t : State} (h : Notified s t) : KeepsQueues s t := ⟨by rw [h.frame], h.due⟩
theorem DueGrows.keepsQueues {s t : State} (h : DueGrows s t) : KeepsQueues s t := h.notified.keepsQueues
theorem KeepsQueues.of_eq {s t : State} (hq : t.queues = s.queues) (hd : t.due = s.due) : KeepsQueues s t :=
  ⟨hq, fun i h => by rw [DueEv, hd]; exact h⟩
theorem KeepsQueues.foldl {α : Type} {f : State → α → State} (hf : ∀ s x, KeepsQueues s (f s x)) (l : List α) (s : State) :
    KeepsQueues s (l.foldl f s) :=
  List.foldlRecOn l f (KeepsQueues.refl s) fun t ht x _ => ht.trans (hf t x)

theorem State.modPart_keepsQueues (s : State) (tag : Nat) (f : Part → Part) : KeepsQueues s (s.modPart tag f) :=
  .of_eq (by rw [s.modPart_frame]) (by rw [s.modPart_frame])

theorem State.abortLaunch_keepsQueues (s : State) (tag ctx : Nat) (l : Launch) (code slot : Nat) :
    KeepsQueues s (s.abortLaunch tag ctx l code slot) := by
  unfold State.abortLaunch
  split
  · exact .refl s
  · exact ((s.modPart_keepsQueues tag _).trans (State.push_grows _ _).keepsQueues).trans (State.wake_grows _ tag).keepsQueues

theorem State.postOrRaise_keepsQueues (s : State) (tag ctx : Nat) (e : EvRec) : KeepsQueues s (s.postOrRaise tag ctx e) := by
  have hp := (s.post_notified tag ctx e).keepsQueues
  unfold State.postOrRaise
  dsimp only
  split
  · split
    · exact hp.trans (State.raiseVector_notified _ tag _).keepsQueues
    · exact hp
  · exact hp

theorem State.invalDone_keepsQueues (s : State) (tag pasid page : Nat) : KeepsQueues s (s.invalDone tag pasid page) := by
  unfold State.invalDone
  split
  · exact .refl s
  · exact .of_eq rfl rfl

theorem State.kick_keepsQueues (s : State) (tag : Nat) : KeepsQueues s (s.kick tag) := by
  have hp := s.modPart_keepsQueues tag fun P => P.idleOwners (s.readyQueues tag ++ s.unreadQueues tag)
  unfold State.kick
  dsimp only
  split
  · exact hp.trans (State.again_grows _ _).keepsQueues
  · exact hp

/-! ## The error of a queue (R411) -/

theorem State.modQueue_of_queue {s : State} {n : Nat} {q : Queue} (h : s.queue n = some q) (f : Queue → Queue) :
    s.modQueue n f = s.setQueue n (f q) := by
  unfold State.modQueue
  rw [h]

theorem State.queue_setQueue_same (s : State) (n : Nat) (q : Queue) : (s.setQueue n q).queue n = some q := amGet_amSet_same _ _ _

theorem State.setQueue_setQueue (s : State) (n : Nat) (q r : Queue) : (s.setQueue n q).setQueue n r = s.setQueue n r := by
  simp only [State.setQueue, amSet_amSet]

/-- What an error writes of its queue: its head, its copy and what it waits for are given up. -/
def Queue.failed (q : Queue) (ridx : Nat) (e : QErr) : Queue :=
  { q with state := .error, err := some e, ridx := ridx, head := none, satisfied := false, waits := [], copy := none
           drain := [], vecPend := none, wbDue := true, wbAt := none }

/-- An error changes its own queue alone among the queues, and its write-back is due. -/
theorem State.queueErr_leaves {s : State} {ifn : Nat} {q : Queue} (code d1 d2 : Nat) (hq : s.queue ifn = some q)
    (he : q.state ≠ .error) : let t := s.queueErr ifn code d1 d2
    (∃ ridx e, t.queues = amSet s.queues ifn (q.failed ridx e) ∧ e.code = code ∧ e.detail1 = d1 ∧ e.detail2 = d2) ∧
      (∀ i, DueEv s i → DueEv t i) ∧ DueEv t (.qcbWriteback ifn) := by
  intro t
  have he' : ¬ (q.state == .error) = true := by simpa using he
  obtain ⟨ridx, e, u, hk, hu, hcode⟩ : ∃ ridx e u, KeepsQueues u t ∧
      u = (s.setQueue ifn (q.failed ridx e)).again (.qcbWriteback ifn) ∧ e.code = code ∧ e.detail1 = d1 ∧ e.detail2 = d2 := by
    simp -zeta only [t, State.queueErr, hq]
    rw [if_neg he']
    extract_lets c ridx hdr e v w link L x y z
    have hw : w = (s.setQueue ifn (q.failed ridx e)).again (.qcbWriteback ifn) := by
      simp only [w, State.backNow]
      rw [State.modQueue_of_queue (s.queue_setQueue_same ifn _), State.setQueue_setQueue]
      rfl
    have hz : KeepsQueues w z :=
      ((KeepsQueues.of_eq rfl rfl : KeepsQueues w x).trans (State.postOrRaise_keepsQueues _ _ _ _)).trans
        (KeepsQueues.foldl (fun s d => s.invalDone_keepsQueues _ _ _) _ _)
    refine ⟨ridx, e, w, ?_, hw, rfl, rfl, rfl⟩
    clear_value z
    split
    · refine hz.trans (KeepsQueues.foldl (fun s l => ?_) _ _)
      split
      · exact s.abortLaunch_keepsQueues _ _ _ _ _
      · exact .refl s
    · exact hz
  have hg := State.again_grows (s.setQueue ifn (q.failed ridx e)) (.qcbWriteback ifn)
  subst hu
  exact ⟨⟨ridx, e, hk.queues.trans hg.keepsQueues.queues, hcode⟩, fun i hi => hk.keeps i (hg.keeps i hi),
    hk.keeps _ (State.dueEv_again _ _)⟩

theorem State.queueErr_errored {s : State} {ifn : Nat} {q : Queue} (code d1 d2 : Nat) (hq : s.queue ifn = some q)
    (he : q.state ≠ .error) : QErrored s (s.queueErr ifn code d1 d2) ifn code d1 d2 := by
  obtain ⟨⟨ridx, e, hqs, rfl, rfl, rfl⟩, -, hdue⟩ := State.queueErr_leaves code d1 d2 hq he
  refine ⟨⟨q.failed ridx e, ?_, rfl, rfl, rfl, rfl⟩, fun j hj => ?_, hdue⟩ <;> rw [State.queue, hqs]
  · exact amGet_amSet_same _ _ _
  · exact amGet_amSet_other _ _ _ _ hj

/-- The error of a queue that a step has changed before: the other queues are still as they were. -/
theorem State.queueErr_changed (s : State) {ifn : Nat} {q : Queue} (code d1 d2 : Nat) (he : q.state ≠ .error) :
    QErrored s ((s.setQueue ifn q).queueErr ifn code d1 d2) ifn code d1 d2 := by
  obtain ⟨hself, hother, hdue⟩ := State.queueErr_errored (s := s.setQueue ifn q) code d1 d2
    (by rw [State.queue_setQueue, if_pos rfl]) he
  exact ⟨hself, fun j hj => (hother j hj).trans (by rw [State.queue_setQueue, if_neg hj]), hdue⟩

/-! ## Doorbells (R315) -/

theorem exec_doorbell (tag q v : Nat) (tb : Bool) (s : State) : exec (.doorbell tag q v tb) s = execDoorbell tag q v tb s := rfl
theorem exec_packetAtHead (ifn : Nat) (s : State) : exec (.packetAtHead ifn) s = execPacketAtHead ifn s := rfl
theorem exec_waitSignalReread (ifn : Nat) (s : State) : exec (.waitSignalReread ifn) s = execWaitSignalReread ifn s := rfl
theorem exec_qcbWriteback (ifn : Nat) (s : State) : exec (.qcbWriteback ifn) s = execQcbWriteback ifn s := rfl
theorem exec_lockedItemWrite (ifn off req : Nat) (s : State) :
    exec (.lockedItemWrite ifn off req) s = execLockedItemWrite ifn off req s := rfl
theorem exec_lockedRangeRead (ifn off req : Nat) (s : State) :
    exec (.lockedRangeRead ifn off req) s = execLockedRangeRead ifn off req s := rfl
theorem exec_functionLevelReset (tag : Nat) (s : State) : exec (.functionLevelReset tag) s = execFunctionLevelReset tag s := rfl
theorem exec_interruptModerationExpire (s : State) :
    exec .interruptModerationExpire s = execInterruptModerationExpire s := rfl

/-- A queue with the guest fields of its QCB read again (R316). -/
def State.guestRead (s : State) (Q : Queue) : Queue :=
  match s.ringRead Q.cfg (Q.cfg.qcb + 8) 8 with
  | .ok l => { Q with imod := sliceNum l 0 4, irqen := sliceNum l 4 1 % 2 == 1 }
  | .error _ => Q

theorem State.guestRead_frame (s : State) (Q : Queue) :
    s.guestRead Q = { Q with imod := (s.guestRead Q).imod, irqen := (s.guestRead Q).irqen } := by
  unfold State.guestRead
  split <;> rfl

theorem execDoorbell_taken {tag q v : Nat} {tb : Bool} {s : State} {ifn : Nat} {Q : Queue} (hQ : s.queueNo tag q = some (ifn, Q))
    (he : Q.state ≠ .error) (hl : Q.state = .unlocked ∨ tb = true) (hv : v % 2 ^ 32 ≠ Q.widx) :
    exec (.doorbell tag q v tb) s =
      if (v % 2 ^ 32 + 2 ^ 32 - Q.ridx) % 2 ^ 32 ≤ 2 ^ Q.cfg.logsz then
        .next (((s.setQueue ifn (s.guestRead Q)).setQueue ifn { s.guestRead Q with widx := v % 2 ^ 32 }).push [.packetAtHead ifn])
      else .next ((s.setQueue ifn (s.guestRead Q)).queueErr ifn 6 (v % 2 ^ 32) Q.widx) := by
  have hlock : ((Q.state == .locked || Q.state == .run) && !tb) = false := by
    rcases hl with h | h
    · rw [h]; rfl
    · rw [h]; exact Bool.and_false _
  have hf := s.guestRead_frame Q
  have hw : (s.guestRead Q).widx = Q.widx := by rw [hf]
  have hr : (s.guestRead Q).ridx = Q.ridx := by rw [hf]
  have hc : (s.guestRead Q).cfg = Q.cfg := by rw [hf]
  have hx : exec (.doorbell tag q v tb) s = if Q.state == .error then .next s
      else if (Q.state == .locked || Q.state == .run) && !tb then .next (s.push [.lockedItemWrite ifn (8 * q) 0])
      else if v % 2 ^ 32 = (s.guestRead Q).widx then .next (s.setQueue ifn (s.guestRead Q))
      else if (v % 2 ^ 32 + 2 ^ 32 - (s.guestRead Q).ridx) % 2 ^ 32 ≤ 2 ^ (s.guestRead Q).cfg.logsz then
        .next (((s.setQueue ifn (s.guestRead Q)).setQueue ifn { s.guestRead Q with widx := v % 2 ^ 32 }).push [.packetAtHead ifn])
      else .next ((s.setQueue ifn (s.guestRead Q)).queueErr ifn 6 (v % 2 ^ 32) (s.guestRead Q).widx) := by
    rw [exec_doorbell, execDoorbell, hQ]
    rfl
  rw [hx, beq_eq_false_iff_ne.2 he, hlock, hw, hr, hc, if_neg Bool.false_ne_true, if_neg Bool.false_ne_true, if_neg hv]

theorem doorbells : Doorbells := by
  intro tag q v tb s ifn Q hQ he hl hv
  have ht := execDoorbell_taken hQ he hl hv
  have hf := s.guestRead_frame Q
  refine ⟨fun hroom => ?_, fun hroom => ?_⟩
  · rw [if_pos hroom] at ht
    refine ⟨_, { s.guestRead Q with widx := v % 2 ^ 32 }, ht, ?_, rfl, ?_, ?_, rfl, State.dueEv_push _ (List.mem_singleton.2 rfl)⟩
    · exact amGet_amSet_same _ _ _
    · rw [hf]
    · rw [hf]
  · rw [if_neg (Nat.not_le.2 hroom)] at ht
    exact ⟨_, ht, s.queueErr_changed 6 _ _ (by rw [hf]; exact he)⟩

/-! ## The head packet and its wait signals (R50, R314, R317) -/

theorem State.kick_mem (s : State) (tag : Nat) : (s.kick tag).mem = s.mem := by
  have hp : (s.modPart tag fun P => P.idleOwners (s.readyQueues tag ++ s.unreadQueues tag)).mem = s.mem := by rw [s.modPart_frame]
  unfold State.kick
  dsimp only
  split
  · rw [(State.again_grows _ _).frame]; exact hp
  · exact hp

theorem packetHead : PacketHead := by
  intro ifn s q p hq hstate hstop hhead hcopy hidx hread msix
  have hready : (q.state == .unlocked || q.state == .run) = true := by
    rcases hstate with h | h <;> rw [h] <;> rfl
  have he : q.state ≠ .error := by
    rcases hstate with h | h <;> rw [h] <;> decide
  rw [exec_packetAtHead, execPacketAtHead, hq]
  simp only [hready, hstop, hhead, hcopy, hidx, hread, Bool.not_true, Option.isSome_none, decide_false, Bool.or_self,
    Bool.false_eq_true, if_false, Bool.or_eq_true, decide_eq_true_eq]
  refine ⟨fun e herr => ?_, fun herr ws b hws hmet => ?_⟩
  · simp only [msix] at herr
    simp only [herr]
    exact ⟨_, rfl, s.queueErr_changed _ _ _ he⟩
  · simp only [msix] at herr
    simp only [herr, hws, hmet]
    refine ⟨_, rfl, State.kick_mem _ _, ?_⟩
    rw [(State.kick_keepsQueues _ _).queue, State.queue_setQueue, if_pos rfl]

theorem signalsRead : SignalsRead := by
  intro ifn s q hq hhead he
  have hn : q.head.isNone = false := by rwa [Option.isNone_eq_false_iff, Option.isSome_iff_ne_none]
  rw [exec_waitSignalReread, execWaitSignalReread, hq]
  simp only [hn, beq_eq_false_iff_ne.2 he, Bool.or_self, Bool.false_eq_true, if_false]
  refine ⟨fun b hb => ?_, fun e hb => ?_⟩ <;> rw [hb]
  · refine ⟨_, rfl, ?_⟩
    rw [(State.kick_keepsQueues _ _).queue, State.queue_setQueue, if_pos rfl]
  · exact ⟨_, rfl, State.queueErr_errored _ _ _ hq he⟩

/-! ## Write-backs (R316, R415) -/

/-- The queues, and of every context its launches and its next sequence number, are as before. -/
structure KeepsLists (s t : State) : Prop where
  queues : t.queues = s.queues
  lists : ∀ a b, (t.ctx a b).map (fun c => (c.launches, c.nextSeq)) = (s.ctx a b).map (fun c => (c.launches, c.nextSeq))

theorem KeepsLists.refl (s : State) : KeepsLists s s := ⟨rfl, fun _ _ => rfl⟩
theorem KeepsLists.trans {s t u : State} (h : KeepsLists s t) (k : KeepsLists t u) : KeepsLists s u :=
  ⟨k.queues.trans h.queues, fun a b => (k.lists a b).trans (h.lists a b)⟩
theorem KeepsLists.of_eq {s t : State} (hq : t.queues = s.queues) (hp : t.parts = s.parts) : KeepsLists s t :=
  ⟨hq, fun a b => by simp only [State.ctx, State.part, hp]⟩
theorem KeepsLists.ite {p : Prop} [Decidable p] {s a b : State} (ha : KeepsLists s a) (hb : KeepsLists s b) :
    KeepsLists s (if p then a else b) := by
  split
  · exact ha
  · exact hb
theorem KeepsLists.foldl {f : State → Nat → State} (hf : ∀ s i, KeepsLists s (f s i)) (l : List Nat) (s : State) :
    KeepsLists s (l.foldl f s) :=
  List.foldlRecOn l f (KeepsLists.refl s) fun t ht i _ => ht.trans (hf t i)
theorem DueGrows.keepsLists {s t : State} (h : DueGrows s t) : KeepsLists s t := .of_eq (by rw [h.frame]) (by rw [h.frame])

theorem State.modPart_keepsLists (s : State) (tag : Nat) {f : Part → Part} (hf : ∀ P, (f P).ctxs = P.ctxs) :
    KeepsLists s (s.modPart tag f) :=
  ⟨by rw [s.modPart_frame], fun a b => by rw [s.ctx_modPart tag f hf]⟩

theorem State.modCtx_keepsLists (s : State) (tag ctx : Nat) {f : Ctx → Ctx}
    (hf : ∀ c, (f c).launches = c.launches ∧ (f c).nextSeq = c.nextSeq) : KeepsLists s (s.modCtx tag ctx f) := by
  refine ⟨by rw [s.modCtx_frame], fun a b => ?_⟩
  by_cases h : a = tag ∧ b = ctx
  · obtain ⟨rfl, rfl⟩ := h
    rw [s.ctx_modCtx_same]
    cases s.ctx a b <;> simp [hf]
  · rw [s.ctx_modCtx_other _ _ _ _ _ h]

theorem State.clearStatus_keepsLists (s : State) (tag f v : Nat) : KeepsLists s (s.clearStatus tag f v) := by
  unfold State.clearStatus
  split
  · exact .of_eq rfl rfl
  · exact .refl s

theorem State.clearStatuses_keepsLists (s : State) (tag : Nat) (f v : Nat → Nat) (l : List Nat) :
    KeepsLists s (l.foldl (fun s i => s.clearStatus tag (f i) (v i)) s) :=
  .foldl (fun s _ => s.clearStatus_keepsLists _ _ _) l s

theorem Ctx.nextSeq_writeBlock (c : Ctx) (off n v : Nat) (b : Bool) : (c.writeBlock off n v b).nextSeq = c.nextSeq := by
  unfold Ctx.writeBlock Ctx.setBlock
  extract_lets l d
  have hd : d.nextSeq = c.nextSeq := rfl
  clear_value d
  split <;> exact hd

theorem State.blockStore_keepsLists (s : State) (tag ctx off n v : Nat) (priv : Priv) :
    KeepsLists s (s.blockStore tag ctx off n v priv) := by
  have hw (b : Bool) : KeepsLists s (s.modCtx tag ctx fun c => c.writeBlock off n v b) :=
    s.modCtx_keepsLists tag ctx fun c => ⟨c.launches_writeBlock off n v b, c.nextSeq_writeBlock off n v b⟩
  unfold State.blockStore
  split
  · exact hw _
  · exact (hw false).trans (State.push_grows _ _).keepsLists

/-- A write of the device to the device page starts what is due then: queues and launches stand. -/
theorem State.devWrite_keepsLists (s : State) (tag off n v : Nat) (priv : Priv) : KeepsLists s (s.devWrite tag off n v priv) := by
  have hpush (s : State) (l : List Instr) : KeepsLists s (s.push l) := (s.push_grows l).keepsLists
  unfold State.devWrite
  exact .ite (.foldl (fun s i => .ite (hpush s _) (.refl s)) _ _) (.ite (s.clearStatuses_keepsLists tag _ _ _)
    (.ite (s.blockStore_keepsLists _ _ _ _ _ _) (.ite (.ite (.refl s) (.foldl (fun s i => hpush s _) _ _))
      (.ite (.ite (s.modCtx_keepsLists _ _ fun _ => ⟨rfl, rfl⟩) (.refl s)) (.refl s)))))

theorem State.putMem_keepsLists (s : State) (pa n v : Nat) : KeepsLists s (s.putMem pa n v) :=
  .of_eq (by rw [(s.putMem_notified pa n v).frame]) (s.parts_putMem pa n v)

theorem State.devMemWrite_keepsLists (s : State) (c : Option Ctx) (pa n v : Nat) : KeepsLists s (s.devMemWrite c pa n v) := by
  unfold State.devMemWrite
  split
  · exact s.putMem_keepsLists pa n v
  · exact .of_eq rfl rfl
  · exact s.devWrite_keepsLists _ _ _ _ _
  · exact .refl s
  · exact .refl s

theorem State.devMemWrite_keepsQueues (s : State) (c : Option Ctx) (pa n v : Nat) : KeepsQueues s (s.devMemWrite c pa n v) :=
  ⟨(s.devMemWrite_keepsLists c pa n v).queues, ((Stable.devMemWrite c pa n v).quiet s).keeps⟩

theorem State.ringWrite_keepsQueues (s : State) (c : QueueCfg) (a : Nat) (l : List Byte) : KeepsQueues s (s.ringWrite c a l) := by
  unfold State.ringWrite
  split
  · exact .of_eq rfl rfl
  · split
    · exact .refl s
    · exact s.devMemWrite_keepsQueues _ _ _ _

theorem Queue.length_image (q : Queue) (ifn : Nat) : (q.image ifn).length = 73 := by
  simp [Queue.image, length_leBytes]

/-- The parts of an image that a write-back puts, in the order in which it does. -/
def State.putImage (s : State) (q : Queue) (img : List Byte) : State :=
  ((s.ringWrite q.cfg q.cfg.qcb (img.take 8)).ringWrite q.cfg (q.cfg.qcb + 16) ((img.drop 8).take 1)).ringWrite q.cfg
    (q.cfg.qcb + 64) (img.drop 9)

theorem State.putImage_keepsQueues (s : State) (q : Queue) (img : List Byte) : KeepsQueues s (s.putImage q img) :=
  ((s.ringWrite_keepsQueues _ _ _).trans (State.ringWrite_keepsQueues _ _ _ _)).trans (State.ringWrite_keepsQueues _ _ _ _)

theorem State.host_ringWrite (s : State) {c : QueueCfg} (h : c.ringsp = true) (a : Nat) (l : List Byte) :
    (s.ringWrite c a l).host = Memory.putBytes s.host (queueHostKey c a) l := by
  unfold State.ringWrite
  rw [if_pos h]
  rfl

/-- An image that is put in host memory reads there in its three parts. -/
theorem State.host_putImage (s : State) {q : Queue} {img : List Byte} (h : q.cfg.ringsp = true) (hl : img.length = 73) :
    let k := queueHostKey q.cfg q.cfg.qcb
    Memory.bytes (s.putImage q img).host k 8 = img.take 8 ∧
      Memory.bytes (s.putImage q img).host (k + 16) 1 = (img.drop 8).take 1 ∧
      Memory.bytes (s.putImage q img).host (k + 64) 64 = img.drop 9 := by
  intro k
  have hkey (n : Nat) : queueHostKey q.cfg (q.cfg.qcb + n) = k + n := by simp only [k, queueHostKey]; omega
  have h8 : (img.take 8).length = 8 := by simp [hl]
  have h1 : ((img.drop 8).take 1).length = 1 := by simp [hl]
  have h64 : (img.drop 9).length = 64 := by simp [hl]
  simp only [State.putImage, State.host_ringWrite _ h, hkey]
  refine ⟨?_, ?_, ?_⟩
  · rw [Memory.bytes_putBytes_apart _ _ _ (.inl (by omega)), Memory.bytes_putBytes_apart _ _ _ (.inl (by omega))]
    simpa only [h8] using Memory.bytes_putBytes s.host k (img.take 8)
  · rw [Memory.bytes_putBytes_apart _ _ _ (.inl (by omega))]
    simpa only [h1] using Memory.bytes_putBytes (Memory.putBytes s.host k (img.take 8)) (k + 16) ((img.drop 8).take 1)
  · simpa only [h64] using Memory.bytes_putBytes _ (k + 64) (img.drop 9)

/-- A queue whose image has been written back over a QCB that differed in these words. -/
def Queue.backed (q : Queue) (ifn now : Nat) (diff : List Nat) : Queue :=
  { q with wbDue := false, wbAt := some now, shadow := q.image ifn
           tamper := if diff = [] then q.tamper else min (q.tamper + 1) 65535 }

theorem exec_qcbWriteback_due {ifn : Nat} {s : State} {q : Queue} {found : List Byte} (hq : s.queue ifn = some q)
    (hdue : q.wbDue = true) (hlate : ∀ tm, q.wbAt = some tm → tm + 1000 ≤ s.wtime)
    (hread : s.ringRead q.cfg q.cfg.qcb 128 = .ok found) (hfound : found ≠ []) :
    let diff := if q.shadow = [] then [] else diffWords found q.shadow
    let u := (s.setQueue ifn (q.backed ifn s.wtime diff)).putImage q (q.image ifn)
    ∃ t, exec (.qcbWriteback ifn) s = .next t ∧ Notified u t ∧ (diff = [] → t = u) := by
  intro diff u
  rw [exec_qcbWriteback, execQcbWriteback, hq]
  simp only [hdue, hread, hfound, Bool.not_true, Bool.false_eq_true, if_false, decide_false, Bool.false_or, decide_eq_true_eq]
  rw [if_neg]
  swap
  · split
    · next tm h => simpa using hlate tm h
    · exact Bool.false_ne_true
  change ∃ t, (Host.Outcome.next (match diff with
    | [] => u
    | i :: _ => u.post q.cfg.tag q.cfg.ctx _) : Res) = .next t ∧ Notified u t ∧ (diff = [] → t = u)
  cases hd : diff with
  | nil => exact ⟨u, rfl, .refl u, fun _ => rfl⟩
  | cons i l => exact ⟨_, rfl, State.post_notified _ _ _ _, fun h => (by cases h)⟩

theorem writeBack : WriteBack := by
  intro ifn s q found hq hdue hlate hread hfound diff
  obtain ⟨t, ht, hk, hsame⟩ := exec_qcbWriteback_due hq hdue hlate hread hfound
  set words := if q.shadow = [] then [] else diffWords found q.shadow with hwords
  have hdiff : diff ↔ words ≠ [] := by
    simp only [diff, hwords]
    split <;> simp_all
  have hr : t.queue ifn = some (q.backed ifn s.wtime words) := by
    rw [hk.keepsQueues.queue, (State.putImage_keepsQueues _ _ _).queue, State.queue_setQueue_same]
  refine ⟨t, _, ht, hr, rfl, rfl, rfl, fun h => if_neg (hdiff.1 h), fun h => if_pos (not_not.1 fun e => h (hdiff.2 e)), fun h hsp => ?_⟩
  rw [hsame (not_not.1 fun e => h (hdiff.2 e))]
  exact State.host_putImage _ hsp (q.length_image ifn)

/-! ## Locked items, function level reset, moderation (R416, R323) -/

theorem lockedItems (ifn off req : Nat) (s : State) (q : Queue) (hq : s.queue ifn = some q) :
    ((q.state = .locked ∨ q.state = .run) →
      ∃ t, exec (.lockedItemWrite ifn off req) s = .next t ∧ QErrored s t ifn 10 off req) ∧
    (q.state = .run → ∃ t, exec (.lockedRangeRead ifn off req) s = .next t ∧ QErrored s t ifn 11 off req) := by
  refine ⟨fun h => ?_, fun h => ?_⟩
  · have hb : (q.state == .locked || q.state == .run) = true := by
      rcases h with h | h <;> rw [h] <;> rfl
    rw [exec_lockedItemWrite, execLockedItemWrite, hq]
    simp only [hb, if_true]
    exact ⟨_, rfl, State.queueErr_errored 10 off req hq (by rcases h with h | h <;> rw [h] <;> decide)⟩
  · rw [exec_lockedRangeRead, execLockedRangeRead, hq]
    simp only [h, beq_self_eq_true, if_true]
    exact ⟨_, rfl, State.queueErr_errored 11 off req hq (by rw [h]; decide)⟩

/-- A round of a function level reset: the interface goes to ERROR where it is of the function. -/
def State.resetQueue (tag : Nat) (s : State) (x : Nat × Queue) : State := if x.2.cfg.tag = tag then s.queueErr x.1 13 0 0 else s

theorem State.queueErr_other (s : State) {ifn j : Nat} (code d1 d2 : Nat) (hj : j ≠ ifn) :
    (s.queueErr ifn code d1 d2).queue j = s.queue j := by
  cases hq : s.queue ifn with
  | none =>
    unfold State.queueErr
    rw [hq]
  | some q =>
    by_cases he : q.state = .error
    · unfold State.queueErr
      simp only [hq, he, beq_self_eq_true, if_true]
    · obtain ⟨-, hothers, -⟩ := State.queueErr_errored code d1 d2 hq he
      exact hothers j hj

theorem State.resetQueue_other {tag : Nat} (s : State) {x : Nat × Queue} {j : Nat} (h : j ≠ x.1 ∨ x.2.cfg.tag ≠ tag) :
    (s.resetQueue tag x).queue j = s.queue j := by
  unfold State.resetQueue
  split
  · next e => exact s.queueErr_other 13 0 0 (h.resolve_right fun hn => absurd e hn)
  · rfl

theorem State.resetQueues_other {tag : Nat} {l : List (Nat × Queue)} {j : Nat} (s : State)
    (h : ∀ x ∈ l, j ≠ x.1 ∨ x.2.cfg.tag ≠ tag) : (l.foldl (State.resetQueue tag) s).queue j = s.queue j := by
  induction l generalizing s with
  | nil => rfl
  | cons x l ih =>
    rw [List.foldl_cons, ih _ fun y hy => h y (List.mem_cons_of_mem _ hy)]
    exact s.resetQueue_other (h x List.mem_cons_self)

theorem amGet_of_mem {α : Type} {m : AMap α} (hm : (m.map (·.1)).Nodup) {x : Nat × α} (hx : x ∈ m) : amGet m x.1 = some x.2 := by
  induction m with
  | nil => cases hx
  | cons y m ih =>
    obtain ⟨hy, hm⟩ := List.nodup_cons.1 hm
    rw [amGet]
    rcases List.mem_cons.1 hx with rfl | hx
    · exact if_pos rfl
    · rw [if_neg fun e => hy (List.mem_map.2 ⟨x, hx, e.symm⟩), ih hm hx]

/-- An interface of the function is in ERROR with code 13 once its round has been. -/
theorem State.resetQueues_errored {tag : Nat} {l : List (Nat × Queue)} (hl : (l.map (·.1)).Nodup) {x : Nat × Queue} (hx : x ∈ l)
    {s : State} (hq : s.queue x.1 = some x.2) (ht : x.2.cfg.tag = tag) (he : x.2.state ≠ .error) :
    ∃ r, (l.foldl (State.resetQueue tag) s).queue x.1 = some r ∧ r.state = .error ∧ r.err.map (·.code) = some 13 := by
  induction l generalizing s with
  | nil => cases hx
  | cons y l ih =>
    obtain ⟨hy, hl⟩ := List.nodup_cons.1 hl
    rw [List.foldl_cons]
    rcases List.mem_cons.1 hx with rfl | hx
    · rw [State.resetQueues_other _ fun z hz => .inl fun e => hy (List.mem_map.2 ⟨z, hz, e.symm⟩), State.resetQueue, if_pos ht]
      obtain ⟨⟨r, hr, hs, -, -, hcode⟩, -⟩ := State.queueErr_errored 13 0 0 hq he
      obtain ⟨e, he, h13⟩ := Option.map_eq_some_iff.1 hcode
      exact ⟨r, hr, hs, by rw [he]; exact congrArg (fun z => some z.1) h13⟩
    · refine ih hl hx ((s.resetQueue_other (.inl fun e => hy ?_)).trans hq)
      exact List.mem_map.2 ⟨x, hx, e⟩

theorem functionResets (tag : Nat) (s : State) (hn : (s.queues.map (·.1)).Nodup) :
    ∃ t, exec (.functionLevelReset tag) s = .next t ∧
      ∀ x ∈ s.queues, (x.2.cfg.tag = tag → x.2.state ≠ .error →
        ∃ r, t.queue x.1 = some r ∧ r.state = .error ∧ r.err.map (·.code) = some 13) ∧
        (x.2.cfg.tag ≠ tag → t.queue x.1 = some x.2) := by
  refine ⟨s.queues.foldl (State.resetQueue tag) s, exec_functionLevelReset tag s, fun x hx => ?_⟩
  have hq : s.queue x.1 = some x.2 := amGet_of_mem hn hx
  refine ⟨State.resetQueues_errored hn hx hq, fun ht => ?_⟩
  rw [State.resetQueues_other s fun y hy => ?_, hq]
  by_cases e : x.1 = y.1
  · rw [← List.inj_on_of_nodup_map hn hx hy e]
    exact .inr ht
  · exact .inl e

theorem moderatedVectors (s : State) (q : Queue) (P : Part) (v tm : Nat) (hq : s.queue s.cur.tile = some q)
    (he : q.state ≠ .error) (hv : q.vecPend = some v) (htm : q.vecAt = some tm) (hlate : tm + q.imodNs ≤ s.wtime)
    (hP : s.part q.cfg.tag = some P) (hvec : v < P.msix) (hmask : tbit (P.msixEntry v) 96 = false) :
    ∃ t, exec .interruptModerationExpire s = .next t ∧
      t.queue s.cur.tile = some { q with vecPend := none, vecAt := some s.wtime } ∧
      (t.link P.link).msix = (s.link P.link).msix ++ [(q.cfg.tag, v)] := by
  rw [exec_interruptModerationExpire, execInterruptModerationExpire]
  simp only [hq, hv, htm, beq_eq_false_iff_ne.2 he, Nat.not_lt.2 hlate, Bool.false_eq_true, if_false]
  set u := s.setQueue s.cur.tile { q with vecPend := none, vecAt := some s.wtime } with hu
  refine ⟨_, rfl, ?_, ?_⟩
  · rw [(State.raiseVector_notified _ _ _).keepsQueues.queue, hu, State.queue_setQueue_same]
  · have hPu : u.part q.cfg.tag = some P := hP
    unfold State.raiseVector
    simp only [hPu, Nat.not_le.2 hvec, hmask, Bool.false_eq_true, if_false, State.link_setLink, if_true]
    rfl

theorem queueStops : QueueStops := ⟨lockedItems, functionResets, moderatedVectors⟩

/-- Settles O34: every error by the one lemma on what it makes of its queue; the write-back by the bytes that it puts. -/
theorem queueHeadsUpkeep : Obligations.QueueHeadsUpkeep := ⟨doorbells, packetHead, signalsRead, writeBack, queueStops⟩

end Sys2Proof.Machine
end

section
/-! PROOFS. Admission of packets: what the arbiter's writes store, what consuming a packet leaves, the list that a launch enters,
and from it the statement on packets that are admitted. -/

namespace Sys2Proof.Machine
open Sys2Proof.Claims

/-! ## Values in memory -/

/-- A value written reads back, reduced to the bytes written. -/
theorem Memory.read_write (m : List Host.Cell) (a n v : Nat) : Memory.read (Memory.write m a n v) a n = v % 256 ^ n := by
  induction n generalizing m a v with
  | zero => simp [Memory.read, Nat.mod_one]
  | succ n ih =>
    rw [Memory.read, Memory.write, ih, Memory.get_write_outside _ _ _ _ _ (.inl (by omega)), Memory.get_set, if_pos rfl,
      BitVec.toNat_ofNat]
    exact (Nat.mod_mul (x := v) (a := 256) (b := 256 ^ n)).symm.trans (by rw [pow_succ'])

/-- Plinth memory or host memory: where the device's writes store bytes. -/
def Stores (pa : Nat) : Prop := regionOf pa = .plinth ∨ ∃ w off, regionOf pa = .host w off

/-- A state whose memories are those in which the device has written `v` reads it there. -/
theorem deviceStored_of_write {s t u : State} {c : Option Ctx} {pa n v : Nat} (hr : Stores pa) (hum : u.mem = s.mem)
(hm : t.mem = (u.devMemWrite c pa n v).mem) (hh : t.host = (u.devMemWrite c pa n v).host) :
    DeviceStored s t c pa n v := by
  have h256 : (256 : Nat) ^ n = 2 ^ (8 * n) := by rw [pow_mul]; norm_num
  rcases hr with h | ⟨w, off, h⟩
  · have hw : (u.devMemWrite c pa n v).mem = Memory.write u.mem pa n v := by
      simp only [State.devMemWrite, h]
      exact u.mem_putMem pa n v
    rw [hw, hum] at hm
    refine ⟨?_, fun a ha => ?_⟩
    · simp only [State.devMemRead, h, hm, Memory.read_write, h256]
    · rw [hm]
      exact Memory.get_write_outside _ _ _ _ _ (ha h)
  · have hw : (u.devMemWrite c pa n v).host = Memory.write u.host (hostKey w c off) n v ∧ (u.devMemWrite c pa n v).mem = u.mem := by
      simp only [State.devMemWrite, h]
      exact ⟨rfl, rfl⟩
    refine ⟨?_, fun a _ => ?_⟩
    · simp only [State.devMemRead, h, hh, hw.1, Memory.read_write, h256]
    · rw [hm, hw.2, hum]

theorem deviceStored_mod {s t : State} {c : Option Ctx} {pa n v w : Nat} (h : DeviceStored s t c pa n v)
    (hv : v % 2 ^ (8 * n) = w % 2 ^ (8 * n)) : DeviceStored s t c pa n w :=
  ⟨h.1.trans hv, h.2⟩

/-! ## Steps beside the memories -/

/-- Memories and tiles are as before. -/
structure KeepsBytes (s t : State) : Prop where
  mem : t.mem = s.mem
  host : t.host = s.host
  tiles : t.tiles = s.tiles

theorem KeepsBytes.refl (s : State) : KeepsBytes s s := ⟨rfl, rfl, rfl⟩
theorem KeepsBytes.trans {s t u : State} (h : KeepsBytes s t) (k : KeepsBytes t u) : KeepsBytes s u :=
  ⟨k.mem.trans h.mem, k.host.trans h.host, k.tiles.trans h.tiles⟩
theorem DueGrows.keepsBytes {s t : State} (h : DueGrows s t) : KeepsBytes s t := by
  refine ⟨?_, ?_, ?_⟩ <;> rw [h.frame]
theorem State.modPart_keepsBytes (s : State) (tag : Nat) (f : Part → Part) : KeepsBytes s (s.modPart tag f) := by
  refine ⟨?_, ?_, ?_⟩ <;> rw [s.modPart_frame]

theorem State.raiseVector_keepsBytes (s : State) (tag vec : Nat) : KeepsBytes s (s.raiseVector tag vec) := by
  unfold State.raiseVector
  split
  · split
    · exact .refl s
    · split
      · exact s.modPart_keepsBytes tag _
      · exact ⟨rfl, rfl, rfl⟩
  · exact .refl s

theorem State.raiseVector_keepsLists (s : State) (tag vec : Nat) : KeepsLists s (s.raiseVector tag vec) := by
  unfold State.raiseVector
  split
  · split
    · exact .refl s
    · split
      · exact s.modPart_keepsLists tag fun _ => rfl
      · exact .of_eq rfl rfl
  · exact .refl s

/-- A posted record changes no queue, no launch and no sequence number. -/
theorem State.post_keepsLists (s : State) (tag ctx : Nat) (e : EvRec) : KeepsLists s (s.post tag ctx e) := by
  rcases s.post_cases tag ctx e with h | h | ⟨c, pa, v, -, h⟩ <;> rw [h]
  · exact .refl s
  · exact s.modCtx_keepsLists tag ctx fun _ => ⟨rfl, rfl⟩
  · have hp := (s.devMemWrite (some c) pa 32 v).modCtx_keepsLists tag ctx
      (f := fun c => { c with evprod := (c.evprod + 1) % 2 ^ 32 }) fun _ => ⟨rfl, rfl⟩
    exact (s.devMemWrite_keepsLists (some c) pa 32 v).trans (.ite (hp.trans (State.raiseVector_keepsLists _ _ _)) hp)

theorem Part.ctxs_idleOwners (P : Part) (rs : List (Nat × Queue)) : (P.idleOwners rs).ctxs = P.ctxs := by
  unfold Part.idleOwners
  refine List.foldlRecOn (motive := fun Q : Part => Q.ctxs = P.ctxs) _ _ rfl fun Q hQ v _ => ?_
  dsimp only
  split <;> exact hQ

theorem State.ctx_of_parts {s t : State} (h : t.parts = s.parts) (tag ctx : Nat) : t.ctx tag ctx = s.ctx tag ctx := by
  simp only [State.ctx, State.part, h]

/-- The arbiter looks for a packet: shares, and at most one step due. -/
theorem State.kick_leaves (s : State) (tag : Nat) : KeepsBytes s (s.kick tag) ∧ KeepsQueues s (s.kick tag) ∧
    ∀ a b, (s.kick tag).ctx a b = s.ctx a b := by
  have hb := s.modPart_keepsBytes tag fun P => P.idleOwners (s.readyQueues tag ++ s.unreadQueues tag)
  have hc := s.ctx_modPart tag (fun P => P.idleOwners (s.readyQueues tag ++ s.unreadQueues tag)) fun P => P.ctxs_idleOwners _
  refine ⟨?_, s.kick_keepsQueues tag, ?_⟩ <;> unfold State.kick <;> dsimp only <;> split
  · exact hb.trans (State.again_grows _ _).keepsBytes
  · exact hb
  · exact fun a b => ((State.again_grows _ _).ctx a b).trans (hc a b)
  · exact hc

/-! ## A packet leaves the head (R53, R316) -/

/-- A queue whose head packet has been consumed. -/
def Queue.consumed (q : Queue) : Queue :=
  { q with ridx := (q.ridx + 1) % 2 ^ 32, head := none, satisfied := false, waits := [], wbDue := true }

theorem State.consume_grows {s : State} {ifn : Nat} {q : Queue} (hq : s.queue ifn = some q) :
    DueGrows (s.setQueue ifn q.consumed) (s.consume ifn) ∧ Consumed (s.consume ifn) ifn q := by
  have he : s.consume ifn = ((s.setQueue ifn q.consumed).again (.qcbWriteback ifn)).push [.packetAtHead ifn] := by
    unfold State.consume State.backSoon
    rw [State.modQueue_of_queue hq, State.modQueue_of_queue (s.queue_setQueue_same ifn _), State.setQueue_setQueue]
    rfl
  have hg := (State.again_grows (s.setQueue ifn q.consumed) (.qcbWriteback ifn)).trans (State.push_grows _ [.packetAtHead ifn])
  rw [he]
  refine ⟨hg, ⟨q.consumed, ?_, rfl, rfl, rfl, rfl⟩, State.dueEv_push _ (List.mem_singleton.2 rfl),
    (State.push_grows _ _).keeps _ (State.dueEv_again _ _)⟩
  rw [hg.keepsQueues.queue, s.queue_setQueue_same]

theorem State.consume_leaves {s : State} {ifn : Nat} {q : Queue} (hq : s.queue ifn = some q) :
    KeepsBytes s (s.consume ifn) ∧ (s.consume ifn).parts = s.parts ∧ ∀ i, DueEv s i → DueEv (s.consume ifn) i := by
  obtain ⟨hg, -⟩ := State.consume_grows hq
  exact ⟨(⟨rfl, rfl, rfl⟩ : KeepsBytes s (s.setQueue ifn q.consumed)).trans hg.keepsBytes, by rw [hg.frame]; rfl, hg.keeps⟩

theorem consumed_keepsQueues {s t : State} {ifn : Nat} {q : Queue} (h : Consumed s ifn q) (k : KeepsQueues s t) : Consumed t ifn q := by
  obtain ⟨⟨r, hr, h1⟩, h2, h3⟩ := h
  exact ⟨⟨r, (k.queue ifn).trans hr, h1⟩, k.keeps _ h2, k.keeps _ h3⟩

/-- A change of the queue beside its indices, its head and its waits. -/
theorem consumed_setQueue {s : State} {ifn : Nat} {q r : Queue} (h : Consumed s ifn q)
    (hr : r.ridx = (q.ridx + 1) % 2 ^ 32 ∧ r.head = none ∧ r.waits = [] ∧ r.widx = q.widx) : Consumed (s.setQueue ifn r) ifn q :=
  ⟨⟨r, s.queue_setQueue_same ifn r, hr⟩, h.2⟩

/-- The vector of a packet that has been consumed. -/
theorem consumed_queueVector {s : State} {ifn : Nat} {q : Queue} (h : Consumed s ifn q) (vec : Nat) :
    Consumed (s.queueVector ifn vec) ifn q ∧ KeepsBytes s (s.queueVector ifn vec) := by
  obtain ⟨r, hr, hfields⟩ := h.1
  have hs (x : Queue) : KeepsBytes s (s.setQueue ifn x) := ⟨rfl, rfl, rfl⟩
  have hlater := State.againAt_grows (s.setQueue ifn { r with vecPend := some vec }) ifn 0 .interruptModerationExpire
  have hnow := State.raiseVector_notified (s.setQueue ifn { r with vecAt := some s.wtime }) r.cfg.tag vec
  unfold State.queueVector
  rw [hr]
  dsimp only
  split
  · exact ⟨h, .refl s⟩
  · have key (early : Bool) : let t := if early = true then
          (s.setQueue ifn { r with vecPend := some vec }).againAt ifn 0 .interruptModerationExpire
        else (s.setQueue ifn { r with vecAt := some s.wtime }).raiseVector r.cfg.tag vec
        Consumed t ifn q ∧ KeepsBytes s t := by
      cases early with
      | true =>
        exact ⟨consumed_keepsQueues (consumed_setQueue h (r := { r with vecPend := some vec }) hfields) hlater.keepsQueues,
          (hs _).trans hlater.keepsBytes⟩
      | false =>
        exact ⟨consumed_keepsQueues (consumed_setQueue h (r := { r with vecAt := some s.wtime }) hfields) hnow.keepsQueues,
          (hs _).trans (State.raiseVector_keepsBytes _ _ _)⟩
    exact key _

theorem State.finish_leaves {s : State} {ifn : Nat} {q : Queue} (hq : s.queue ifn = some q) (h : List Byte) :
    Consumed (s.finish ifn h) ifn q ∧ KeepsBytes s (s.finish ifn h) := by
  obtain ⟨-, hc⟩ := State.consume_grows hq
  obtain ⟨hb, -⟩ := State.consume_leaves hq
  unfold State.finish State.packetIrq
  split
  · obtain ⟨hv, hvb⟩ := consumed_queueVector hc (bits (sliceNum h 0 8) 16 11)
    exact ⟨hv, hb.trans hvb⟩
  · exact ⟨hc, hb⟩

/-! ## The arbiter's writes -/

/-- An access of the arbiter that allocates or passes by changes slices and owners' accounts alone. -/
theorem State.l2Pass_cached (s : State) (tag own pa d due : Nat) (wr : Bool) : Cached s (s.l2Touch tag own pa d due false wr).1 := by
  unfold State.l2Touch
  extract_lets f i now line hi S u k due dirty cost
  have hu : Cached s u := (Cached.refl s).setSlice f i _
  have hcost {v : State} (hv : Cached s v) : Cached s (cost v) := hv.charge own _
  clear_value u cost
  rw [if_pos (by decide)]
  split
  · extract_lets has
    split
    · exact hu.setSlice f i _
    · exact hcost hu
  · exact hcost hu

/-- What a write of the arbiter to plinth or host memory stores (R319). -/
theorem State.arbWrite_stores (s : State) (c : QueueCfg) {pa : Nat} (n v : Nat) (hr : Stores pa) : ∃ u : State,
    s.arbWrite c pa n v = u.devMemWrite (s.ctx c.tag c.ctx) pa n v ∧ u.mem = s.mem ∧ u.host = s.host ∧ u.queues = s.queues := by
  unfold State.arbWrite
  rcases hr with h | ⟨w, off, h⟩ <;> simp only [h]
  · have hc := (s.l2Pass_cached c.tag c.owner pa 14 s.wtime true).twin
    exact ⟨(s.l2Touch c.tag c.owner pa 14 s.wtime false true).1.clearPoison pa n, rfl, hc.mem, hc.host, hc.queues⟩
  · exact ⟨s, rfl, rfl, rfl, rfl⟩

/-- What a signal is added to or exchanged with lies in plinth or host memory (R334). -/
theorem State.arbAddr_stores {s : State} {tag ctx va pa : Nat} {shut : Bool} (h : s.arbAddr tag ctx va .readWrite shut = .ok pa) :
    Stores pa := by
  have hreg {e : Nat} (k : (match regionOf e with
      | .plinth | .host _ _ => .ok e
      | .device _ _ | .peer _ _ _ => if AccKind.readWrite = .readWrite then .error 8 else .ok e
      | .reserved => .error 8 : Except Nat Nat) = .ok pa) : Stores pa := by
    cases hr : regionOf e <;> simp only [hr] at k
    case plinth => cases k; exact .inl hr
    case host w off => cases k; exact .inr ⟨w, off, hr⟩
    all_goals cases k
  unfold State.arbAddr at h
  split at h
  · cases h
  · split at h
    · cases h
    · split at h
      · split at h
        · cases h
        · exact hreg h
      · cases h
      · cases h

theorem State.waitAddr_ok {s : State} {c : QueueCfg} {va n pa : Nat} {kind : AccKind} (h : s.waitAddr c va n kind = .ok pa) :
    s.arbAddr c.tag c.ctx va kind true = .ok pa := by
  unfold State.waitAddr at h
  split at h
  · cases h
  · next ha =>
    split at h
    · cases h
    · cases h
      exact ha

/-! ## Admission (R53, R319) -/

theorem State.arbAtomic_ok {s : State} {c : QueueCfg} {va pa : Nat} (v : Nat) (set : Bool)
    (h : s.waitAddr c va 8 .readWrite = .ok pa) : s.arbAtomic c va v set = .ok (s.arbWrite c pa 8
      (if set = true then v else (s.devMemRead (s.ctx c.tag c.ctx) pa 8 + v) % 2 ^ 64)) := by
  unfold State.arbAtomic
  rw [h]

theorem exec_admitNop (tag : Nat) (s : State) : exec (.admitNop tag) s = execAdmitNop tag s := rfl
theorem exec_admitWait (tag : Nat) (s : State) : exec (.admitWait tag) s = execAdmitWait tag s := rfl
theorem exec_admitTimestamp (tag : Nat) (s : State) : exec (.admitTimestamp tag) s = execAdmitTimestamp tag s := rfl
theorem exec_admitSignal (tag : Nat) (s : State) : exec (.admitSignal tag) s = execAdmitSignal tag s := rfl
theorem exec_admitCopy (tag : Nat) (s : State) : exec (.admitCopy tag) s = execAdmitCopy tag s := rfl
theorem exec_admitLaunch (tag : Nat) (s : State) : exec (.admitLaunch tag) s = execAdmitLaunch tag s := rfl

section
variable {s : State} {tag ty ifn : Nat} {P : Part} {q : Queue}

theorem queue_of_chosen (h : Chosen s tag ty P ifn q) {u : State} (hu : u.queues = s.queues) : u.queue ifn = some q := by
  obtain ⟨-, hq, -⟩ := h
  rw [State.queue, hu]
  exact hq

/-- The chosen packet is carried out, and the arbiter looks for the next one. -/
theorem State.takePacket_of_ok (h : Chosen s tag ty P ifn q)
    {f : State → Nat → Queue → List Byte → Except (Nat × Nat × Nat) State}
    {v : State} (hf : f (s.setPart tag P) ifn q (q.head.getD []) = .ok v) : s.takePacket tag ty f = v.kick tag := by
  obtain ⟨hsel, -, hty⟩ := h
  unfold State.takePacket
  rw [hsel]
  dsimp only
  rw [if_neg (not_not.2 hty), hf]

/-- A packet that is only consumed. -/
theorem plainAdmits (h : Chosen s tag ty P ifn q) : ∃ t,
    (Host.Outcome.next (s.takePacket tag ty fun s ifn _ h => .ok (s.finish ifn h)) : Res) = .next t ∧
      Consumed t ifn q ∧ t.mem = s.mem := by
  obtain ⟨hc, hb⟩ := State.finish_leaves (s := s.setPart tag P) (queue_of_chosen h rfl) (q.head.getD [])
  obtain ⟨hkb, hkq, -⟩ := ((s.setPart tag P).finish ifn (q.head.getD [])).kick_leaves tag
  exact ⟨_, congrArg Host.Outcome.next (State.takePacket_of_ok h rfl), consumed_keepsQueues hc hkq, hkb.mem.trans hb.mem⟩

/-- A packet that writes a value and is consumed: the value stands where it was written, every other plinth byte is as before. -/
theorem writeAdmits (h : Chosen s tag ty P ifn q) {pa n v : Nat}
    {f : State → Nat → Queue → List Byte → Except (Nat × Nat × Nat) State}
    (hf : f (s.setPart tag P) ifn q (q.head.getD []) =
      .ok (((s.setPart tag P).arbWrite q.cfg pa n v).finish ifn (q.head.getD [])))
    (hq : ((s.setPart tag P).arbWrite q.cfg pa n v).queue ifn = some q) :
    ∃ t, (Host.Outcome.next (s.takePacket tag ty f) : Res) = .next t ∧ Consumed t ifn q ∧
      (Stores pa → DeviceStored s t ((s.setPart tag P).ctx q.cfg.tag q.cfg.ctx) pa n v) := by
  obtain ⟨hc, hb⟩ := State.finish_leaves hq (q.head.getD [])
  obtain ⟨hkb, hkq, -⟩ := (((s.setPart tag P).arbWrite q.cfg pa n v).finish ifn (q.head.getD [])).kick_leaves tag
  refine ⟨_, congrArg Host.Outcome.next (State.takePacket_of_ok h hf), consumed_keepsQueues hc hkq, fun hr => ?_⟩
  obtain ⟨u, hu, hum, -⟩ := (s.setPart tag P).arbWrite_stores q.cfg n v hr
  have hk := hb.trans hkb
  exact deviceStored_of_write hr hum (hk.mem.trans (congrArg State.mem hu)) (hk.host.trans (congrArg State.host hu))

theorem State.arbWrite_queues (s : State) (c : QueueCfg) (pa n v : Nat) : (s.arbWrite c pa n v).queues = s.queues := by
  unfold State.arbWrite
  split
  · have hc := (s.l2Pass_cached c.tag c.owner pa 14 s.wtime true).twin
    exact (State.devMemWrite_keepsQueues _ _ pa n v).queues.trans hc.queues
  · dsimp only
    split
    · rfl
    · exact (State.post_notified _ _ _ _).keepsQueues.queues
  · exact (s.devMemWrite_keepsQueues _ pa n v).queues

end

theorem admissions : Admissions := by
  intro tag s P ifn q h u c
  have hq (hs : s.queue ifn = some q) (pa n v : Nat) : (u.arbWrite q.cfg pa n v).queue ifn = some q :=
    (congrArg (amGet · ifn) (u.arbWrite_queues q.cfg pa n v)).trans hs
  refine ⟨fun hch => ?_, fun hch => ?_, fun pa hch htag ha => ?_, fun pa hch ha => ?_, fun hch => ?_⟩
  · exact plainAdmits hch
  · exact plainAdmits hch
  · rw [exec_admitTimestamp, execAdmitTimestamp]
    refine writeAdmits hch ?_ (hq (queue_of_chosen hch rfl) pa 8 (u.gtime tag))
    rw [ha]
  · rw [exec_admitSignal, execAdmitSignal]
    refine (writeAdmits hch (pa := pa) (n := 8) (v := if (sliceNum h 24 1 == 1) = true then sliceNum h 16 8 else
      (u.devMemRead c pa 8 + sliceNum h 16 8) % 2 ^ 64) ?_ (hq (queue_of_chosen hch rfl) pa 8 _)).imp fun t ⟨ht, hcons, hst⟩ => ⟨ht, hcons, ?_⟩
    · rw [State.arbAtomic_ok _ _ ha]
    · refine deviceStored_mod (hst (State.arbAddr_stores (State.waitAddr_ok ha))) ?_
      simp only [beq_iff_eq]
      split
      · rfl
      · exact Nat.mod_mod _ _
  · rw [exec_admitCopy, execAdmitCopy, State.takePacket_of_ok hch rfl]
    obtain ⟨-, hcons⟩ := State.consume_grows (s := u) (queue_of_chosen hch rfl)
    obtain ⟨r, hr, hfields⟩ := hcons.1
    rw [State.modQueue_of_queue hr]
    have hk (v : State) : KeepsQueues v ((v.push [.copyPacketComplete ifn]).kick tag) :=
      (v.push_grows _).keepsQueues.trans (State.kick_leaves _ tag).2.1
    refine ⟨_, _, _, rfl, consumed_keepsQueues (consumed_setQueue hcons (r := { r with copy := some _ }) hfields) (hk _),
      ((hk _).queue ifn).trans (State.queue_setQueue_same _ _ _), rfl, rfl, rfl, rfl, rfl, rfl, rfl,
      (State.kick_leaves _ tag).2.1.keeps _ (State.dueEv_push _ (List.mem_singleton.2 rfl))⟩

/-! ## Rounds over tiles -/

/-- Rounds that each touch their own tile: a tile that has one round is what that round makes of it. -/
theorem tile_foldl_of_mem {f : State → Nat → State} (hf : ∀ s t x, x ≠ t → (f s t).tile x = s.tile x) {l : List Nat}
    (hl : l.Nodup) {x : Nat} (hx : x ∈ l) (s : State) : ∃ u, u.tile x = s.tile x ∧ (l.foldl f s).tile x = (f u x).tile x := by
  have hother {l : List Nat} (h : x ∉ l) (s : State) : (l.foldl f s).tile x = s.tile x :=
    List.foldlRecOn l f (motive := fun t => t.tile x = s.tile x) rfl fun t ht y hy =>
      (hf t y x fun e => h (by rwa [e])).trans ht
  induction l generalizing s with
  | nil => cases hx
  | cons y l ih =>
    obtain ⟨hy, hl⟩ := List.nodup_cons.1 hl
    rw [List.foldl_cons]
    rcases List.mem_cons.1 hx with rfl | hx
    · exact ⟨s, rfl, hother hy _⟩
    · obtain ⟨u, hu, h⟩ := ih hl hx (f s y)
      exact ⟨u, hu.trans (hf s y x fun e => hy (e ▸ hx)), h⟩

/-- The entry that a table gives for a key, or one of another key, stays when a key is set. -/
theorem mem_amSet_of_mem {α : Type} {m : AMap α} {k : Nat} (x : α) {z : Nat × α} (h : z ∈ m) :
    z ∈ amSet m k x ∨ (z.1 = k ∧ amGet m k = some z.2) := by
  induction m with
  | nil => cases h
  | cons y m ih =>
    obtain ⟨j, b⟩ := y
    rw [amSet, amGet]
    split
    · next hlt =>
      rw [if_neg (Nat.ne_of_lt hlt)]
      rcases List.mem_cons.1 h with rfl | h
      · exact .inl List.mem_cons_self
      · exact (ih h).imp_left (List.mem_cons_of_mem _)
    · split
      · next e =>
        rcases List.mem_cons.1 h with rfl | h
        · exact .inr ⟨e, rfl⟩
        · exact .inl (List.mem_cons_of_mem _ h)
      · exact .inl (List.mem_cons_of_mem _ h)

theorem self_mem_amSet {α : Type} (m : AMap α) (k : Nat) (x : α) : (k, x) ∈ amSet m k x :=
  mem_of_amGet (amGet_amSet_same m k x)

/-- A tile of a partition stays one where a step leaves its tag. -/
theorem State.mem_tilesOf_modTile {s : State} {tag x : Nat} (h : x ∈ s.tilesOf tag) (t : Nat) {f : Tile → Tile}
    (hf : ∀ T, (f T).tag = T.tag) : x ∈ (s.modTile t f).tilesOf tag := by
  obtain ⟨z, hz, rfl⟩ := List.mem_map.1 h
  obtain ⟨hz, htag⟩ := List.mem_filter.1 hz
  refine List.mem_map.2 ?_
  rcases mem_amSet_of_mem (k := t) (f (s.tile t)) hz with h | ⟨rfl, hget⟩
  · exact ⟨z, List.mem_filter.2 ⟨h, htag⟩, rfl⟩
  · refine ⟨_, List.mem_filter.2 ⟨self_mem_amSet _ _ _, ?_⟩, rfl⟩
    have ht : s.tile z.1 = z.2 := by rw [State.tile, hget]; rfl
    simpa only [hf, ht] using htag

/-! ## LAUNCH (R53, R54) -/

/-- A tile's agent is told of a launch. -/
def State.tellLaunch (s : State) (t : Nat) : State := s.notify t 3 (s.tile t).act

theorem Tile.tag_aevtPush (T : Tile) (e : Aevt) : (T.aevtPush e).tag = T.tag := by
  unfold Tile.aevtPush
  split <;> rfl

theorem State.tellLaunch_other (s : State) {t x : Nat} (h : x ≠ t) : (s.tellLaunch t).tile x = s.tile x := by
  have ht : (s.tellLaunch t).tile x = (s.modTile t fun T => T.aevtPush
      { kind := 3, gslot := 0, slot := (s.tile t).act, info := Config.freeNat s.free % 2 ^ 52 }).tile x := rfl
  rw [ht, State.tile_modTile, if_neg h]

/-- Every tile of a list is told: tiles and free values change alone. -/
theorem State.tellLaunches_frame (l : List Nat) (s : State) : l.foldl State.tellLaunch s =
    { s with tiles := (l.foldl State.tellLaunch s).tiles, free := (l.foldl State.tellLaunch s).free } :=
  List.foldlRecOn l State.tellLaunch (motive := fun t => t = { s with tiles := t.tiles, free := t.free }) rfl fun t ht x _ => by
    generalize hu : t.tellLaunch x = u
    have h : u = { t with tiles := u.tiles, free := u.free } := by rw [← hu]; rfl
    rw [h, ht]

theorem State.mem_tilesOf_tellLaunches {s : State} {tag x : Nat} (h : x ∈ s.tilesOf tag) (l : List Nat) :
    x ∈ (l.foldl State.tellLaunch s).tilesOf tag :=
  List.foldlRecOn l State.tellLaunch (motive := fun t => x ∈ t.tilesOf tag) h fun t ht y _ =>
    State.mem_tilesOf_modTile (s := t) ht y fun T => T.tag_aevtPush _

/-- A tile with room in its agent's queue hears of the launch once. -/
theorem State.tellLaunches_aevt {l : List Nat} (hl : l.Nodup) {x : Nat} (hx : x ∈ l) {s : State}
    (hroom : (s.tile x).aevtFull = false) : ∃ e, ((l.foldl State.tellLaunch s).tile x).aevt = (s.tile x).aevt ++ [e] ∧
      e.kind = 3 ∧ e.slot = (s.tile x).act := by
  obtain ⟨u, hu, h⟩ := tile_foldl_of_mem (fun s t y hy => s.tellLaunch_other hy) hl hx s
  rw [h, State.tellLaunch, State.notify_tile, hu, Tile.aevtPush_of_room hroom]
  exact ⟨_, rfl, rfl, rfl⟩

/-- The launch that a LAUNCH packet asks for, under a context's next sequence number. -/
def packetLaunch (h : List Byte) (ifn owner seq : Nat) : Launch := {
  seq := seq, ifn := ifn, cookie := sliceNum h 4 4, vec := bits (sliceNum h 0 8) 16 11
  irq := tbit (sliceNum h 0 8) 11, owner := owner, units := sliceNum h 32 4, g := sliceNum h 36 1
  cw := sliceNum h 37 1, ch := sliceNum h 38 1, image := sliceNum h 8 8, signal := sliceNum h 16 8, listed := true
  complete := false, aborted := none, awaiting := [] }

/-- A launch enters a context's list. -/
def Ctx.enter (l : Launch) (root : Nat) (c : Ctx) : Ctx :=
  { c with nextSeq := c.nextSeq + 1, s1root := root, launches := c.launches.filter (fun x => x.seq % 64 != l.seq % 64) ++ [l] }

/-- The record of a launch is written, and it is listed. -/
def State.listLaunch (s : State) (tag ctx : Nat) (c : Ctx) (l : Launch) (root : Nat) : State :=
  (s.virtWrite tag ctx (recordVa c l.seq) 64 l.record .agent).modCtx tag ctx (Ctx.enter l root)

/-- A launch is listed and the tiles are told; its packet is consumed. -/
def State.launchListed (s : State) (tag ifn ctx : Nat) (c : Ctx) (l : Launch) (root : Nat) : State :=
  let s := s.listLaunch tag ctx c l root
  let s := (s.tilesOf tag).foldl State.tellLaunch s
  ((s.consume ifn).push ((s.tilesOf tag).map fun t => .agentClaim t)).pushAt tag 0 .sliceBoundary

theorem State.virtWrite_leaves (s : State) (tag ctx va n v : Nat) (priv : Priv) : let t := s.virtWrite tag ctx va n v priv
    KeepsQueues s t ∧ KeepsLists s t ∧ t.tiles = s.tiles := by
  unfold State.virtWrite
  split
  · exact ⟨s.devMemWrite_keepsQueues _ _ _ _, s.devMemWrite_keepsLists _ _ _ _, ((Stable.devMemWrite _ _ _ _).quiet s).work.tiles⟩
  · exact ⟨.refl s, .refl s, rfl⟩

/-- A launch listed: the queues and the tiles stand, and the context has it under its next number. -/
theorem State.listLaunch_leaves {s : State} {tag ctx : Nat} {c : Ctx} (hc : s.ctx tag ctx = some c) (l : Launch) (root : Nat) :
    let t := s.listLaunch tag ctx c l root
    KeepsQueues s t ∧ t.tiles = s.tiles ∧
      ∃ d, t.ctx tag ctx = some d ∧ d.nextSeq = c.nextSeq + 1 ∧ d.s1root = root ∧ l ∈ d.launches := by
  intro t
  obtain ⟨hq, hl, ht⟩ := s.virtWrite_leaves tag ctx (recordVa c l.seq) 64 l.record .agent
  have hk := hl.lists tag ctx
  rw [hc, Option.map_some] at hk
  obtain ⟨d, hd, he⟩ := Option.map_eq_some_iff.1 hk
  refine ⟨hq.trans (State.modPart_keepsQueues _ _ _), ?_, d.enter l root, ?_, ?_, rfl, ?_⟩
  · exact (congrArg State.tiles (State.modCtx_frame _ _ _ _)).trans ht
  · exact (State.ctx_modCtx_same _ _ _ _).trans (by rw [hd]; rfl)
  · exact congrArg (· + 1) (Prod.mk.inj he).2
  · exact List.mem_append_right _ (List.mem_singleton.2 rfl)

section
variable {tag ifn pa : Nat} {s : State} {P : Part} {q : Queue} {c : Ctx}

/-- What a LAUNCH packet becomes once its image is read: it is listed, or it is consumed and reported. -/
theorem exec_admitLaunch_read (hch : Chosen s tag 1 P ifn q) : let h := q.head.getD []
    let u := s.setPart tag P
    u.arbAddr tag q.cfg.ctx (sliceNum h 8 8) .read false = .ok pa → u.arbPoison pa 64 = false → u.ctx tag q.cfg.ctx = some c →
    let i := parseImage (u.devMemRead (some c) pa 64)
    let ok := u.larea tag q.cfg.ctx = true ∧ u.placeable P i (sliceNum h 37 1) (sliceNum h 38 1) = true
    (ok → exec (.admitLaunch tag) s = .next
      ((u.launchListed tag ifn q.cfg.ctx c (packetLaunch h ifn q.cfg.owner c.nextSeq) i.s1root).kick tag)) ∧
    (¬ ok → exec (.admitLaunch tag) s = .next (((u.consume ifn).post tag q.cfg.ctx
      { kind := 4, n := ifn, value := 4, info := sliceNum h 4 4 }).kick tag)) := by
  intro h u ha hpoison hc i ok
  have hP : u.part tag = some P := amGet_amSet_same _ _ _
  refine ⟨fun hok => ?_, fun hok => ?_⟩ <;>
    refine (exec_admitLaunch tag s).trans (congrArg Host.Outcome.next (State.takePacket_of_ok hch ?_)) <;>
    dsimp only <;> rw [ha] <;> dsimp only <;> rw [if_neg (by rw [hpoison]; exact Bool.false_ne_true), hc, hP] <;> dsimp only
  · rw [if_neg (by rw [hok.1, hok.2]; exact Bool.false_ne_true)]
    rfl
  · rw [if_pos]
    rw [Bool.or_eq_true, Bool.not_eq_true', Bool.not_eq_true', ← Bool.not_eq_true, ← Bool.not_eq_true]
    exact not_and_or.1 hok

/-- A launch listed leaves the arbiter with the tiles told and their agents' next claims due. -/
theorem State.launchListed_leaves {u : State} {ctx : Nat} (hc : u.ctx tag ctx = some c) (hq : u.queue ifn = some q)
    (l : Launch) (root : Nat) : let t := (u.launchListed tag ifn ctx c l root).kick tag
    Consumed t ifn q ∧ (∃ d, t.ctx tag ctx = some d ∧ d.nextSeq = c.nextSeq + 1 ∧ d.s1root = root ∧ l ∈ d.launches) ∧
      ∀ x ∈ u.tilesOf tag, DueEv t (.agentClaim x) ∧ ((u.tilesOf tag).Nodup → (u.tile x).aevtFull = false →
        ∃ e, (t.tile x).aevt = (u.tile x).aevt ++ [e] ∧ e.kind = 3 ∧ e.slot = (u.tile x).act) := by
  intro t
  obtain ⟨hkq, htiles, d, hd, hfields⟩ := State.listLaunch_leaves hc l root
  set v := u.listLaunch tag ctx c l root with hv
  set w := (v.tilesOf tag).foldl State.tellLaunch v with hw
  have hf : w = { v with tiles := w.tiles, free := w.free } := State.tellLaunches_frame _ _
  have hwq : w.queue ifn = some q := ((congrArg (amGet · ifn) (congrArg State.queues hf)).trans (hkq.queue ifn)).trans hq
  obtain ⟨hb, hparts, -⟩ := State.consume_leaves hwq
  obtain ⟨-, hcons⟩ := State.consume_grows hwq
  have hg : DueGrows ((w.consume ifn).push ((w.tilesOf tag).map fun t => .agentClaim t)) (u.launchListed tag ifn ctx c l root) :=
    State.pushAt_grows _ _ _ _
  have hg' := (State.push_grows (w.consume ifn) ((w.tilesOf tag).map fun t => .agentClaim t)).trans hg
  obtain ⟨hkb, hkk, hkc⟩ := (u.launchListed tag ifn ctx c l root).kick_leaves tag
  have hctx : t.ctx tag ctx = v.ctx tag ctx := by
    rw [hkc, hg'.ctx]
    exact State.ctx_of_parts (hparts.trans (by rw [hf])) _ _
  have htile (x : Nat) : t.tile x = w.tile x := State.tile_of_tiles (hkb.tiles.trans (hg'.keepsBytes.tiles.trans hb.tiles)) x
  have hvtile (x : Nat) : v.tile x = u.tile x := State.tile_of_tiles htiles x
  have hvof : v.tilesOf tag = u.tilesOf tag := by rw [State.tilesOf, htiles]; rfl
  refine ⟨consumed_keepsQueues hcons (hg'.keepsQueues.trans hkk), ⟨d, hctx.trans hd, hfields⟩, fun x hx => ⟨?_, fun hn hroom => ?_⟩⟩
  · have hxw : x ∈ w.tilesOf tag := State.mem_tilesOf_tellLaunches (hvof ▸ hx) _
    exact hkk.keeps _ (hg.keeps _ (State.dueEv_push _ (List.mem_map_of_mem hxw)))
  · rw [htile, hw, hvof, ← hvtile x]
    exact State.tellLaunches_aevt hn hx (by rw [hvtile]; exact hroom)

end

theorem launchAdmission : LaunchAdmission := by
  intro tag s P ifn q pa c hch h u ha hpoison hc i fits
  obtain ⟨hlisted, hrefused⟩ := exec_admitLaunch_read hch ha hpoison hc
  refine ⟨fun hl hf => ?_, fun hno => ?_⟩
  · obtain ⟨hcons, ⟨d, hd, hseq, hroot, hmem⟩, htold⟩ := State.launchListed_leaves (u := u) hc (queue_of_chosen hch rfl)
      (packetLaunch h ifn q.cfg.owner c.nextSeq) i.s1root
    exact ⟨_, d, _, hlisted ⟨hl, hf⟩, hcons, hd, hseq, hroot, hmem, rfl, rfl, rfl, rfl, rfl, rfl, rfl, rfl, htold⟩
  · obtain ⟨-, hcons⟩ := State.consume_grows (s := u) (queue_of_chosen hch rfl)
    obtain ⟨-, hparts, -⟩ := State.consume_leaves (s := u) (queue_of_chosen hch rfl)
    have hp := State.post_notified (u.consume ifn) tag q.cfg.ctx { kind := 4, n := ifn, value := 4, info := sliceNum h 4 4 }
    have hpl := State.post_keepsLists (u.consume ifn) tag q.cfg.ctx { kind := 4, n := ifn, value := 4, info := sliceNum h 4 4 }
    obtain ⟨-, hkk, hkc⟩ := State.kick_leaves ((u.consume ifn).post tag q.cfg.ctx
      { kind := 4, n := ifn, value := 4, info := sliceNum h 4 4 }) tag
    refine ⟨_, hrefused fun hok => ?_, consumed_keepsQueues hcons (hp.keepsQueues.trans hkk), ?_⟩
    · rcases hno with h | h
      · rw [hok.1] at h
        cases h
      · exact h hok.2
    · have hctx : (u.consume ifn).ctx tag q.cfg.ctx = some c :=
        (State.ctx_of_parts hparts _ _).trans hc
      rw [hkc, hpl.lists, hctx]
      rfl

/-- Settles O32: every packet by what its type carries out before the arbiter looks for the next one; a launch by the list that
it enters and the rounds over the partition's tiles. -/
theorem packetAdmission : Obligations.PacketAdmission := ⟨admissions, launchAdmission⟩

end Sys2Proof.Machine
end

section
/-! PROOFS. A turn of the schedule: the pipeline's oldest group, its first subset and the word that it runs; turns that name an
event; and from it the statement on what a step runs. -/

namespace Sys2Proof.Machine
open Sys2Proof.Claims

/-! ## The word of a subset (R171, R176) -/

/-- The subset's word is in place. -/
def State.atWord (s : State) (w : W64) : State := { s with cur := { s.cur with word := w } }

/-- A word that nothing holds back and nothing traps is performed. -/
theorem State.runWord_of_free {s : State} {w : W64} {i : Instr} {c : Ctl} (h : Free (s.atWord w) w i c) :
    s.runWord w = (s.atWord w).perform c i := by
  obtain ⟨hhead, hdec, hctl, hend, hallow, hguard, -⟩ := h
  have hblock : (endsBlock i && ((s.atWord w).G.lane ((lanesOf (s.atWord w).cur.sub).headD 0)).left != 1) = false := by
    cases he : endsBlock i with
    | false => rfl
    | true => simp only [hend he, bne_self_eq_false, Bool.and_false]
  unfold State.atWord at *
  unfold State.runWord
  simp only [hhead, hdec, hctl, hblock, hallow, Bool.not_true, Bool.false_eq_true, if_false]
  split
  · next hc => simp only [hguard hc]
  · rfl

/-- The state in which a subset is tried. -/
def State.atSubset (s : State) (t g : Nat) (m : BitVec 32) : State :=
  { s with cur := { tile := t, slot := g, sub := m, pc := (((s.tile t).group g).lane ((lanesOf m).headD 0)).pc, word := 0 } }

/-- A subset inside its block at a word that can be fetched. -/
theorem State.trySubset_of_word {s : State} {t g : Nat} {m : BitVec 32} {w : W64}
    (hentry : (((s.tile t).group g).lane ((lanesOf m).headD 0)).entry = false)
    (hfetch : (s.atSubset t g m).fetch t g (s.atSubset t g m).cur.pc = .word w) :
    s.trySubset t g m = (s.atSubset t g m).runWord w := by
  have hrun : s.trySubset t g m = (s.atSubset t g m).runAt := by
    unfold State.trySubset
    simp only [hentry, Bool.not_false, if_true]
    rfl
  have hat : (s.atSubset t g m).fetch (s.atSubset t g m).cur.tile (s.atSubset t g m).cur.slot (s.atSubset t g m).cur.pc = .word w :=
    hfetch
  rw [hrun, State.runAt, hat]

/-! ## The group of a turn (R61, R62) -/

/-- What a group's turn leaves of it before its subsets are tried. -/
def State.turned (u : State) (t g : Nat) : State :=
  u.modGroup t g fun G =>
    { (G.wakePlanes (u.tile t).arr.holder.isNone).handOffDue.select with haz := G.haz.filter fun h => decide (u.cycle t < h.ready) }

theorem issueState_eq (u : State) (t g : Nat) (m : BitVec 32) (w : W64) : issueState u t g m w = ((u.turned t g).atSubset t g m).atWord w :=
  rfl

/-- Groups that may not issue, and an agent that gives way, are passed over. -/
theorem State.tryGroups_skip {u : State} {pre : List (Nat × Nat)} (l : List (Nat × Nat))
    (h : ∀ x ∈ pre, u.groupReady x.1 x.2 = false ∨ (x.2 = 32 ∧ u.agentYields x.1 = true)) :
    State.tryGroups (pre ++ l) u = State.tryGroups l u := by
  induction pre with
  | nil => rfl
  | cons x pre ih =>
    have hx : (u.groupReady x.1 x.2 && !(x.2 == 32 && u.agentYields x.1)) = false := by
      rcases h x List.mem_cons_self with h | ⟨h32, hy⟩
      · rw [h]; rfl
      · rw [h32, hy]; exact Bool.and_false _
    rw [List.cons_append, State.tryGroups, hx, if_neg Bool.false_ne_true]
    exact ih fun y hy => h y (List.mem_cons_of_mem _ hy)

/-- A group's turn tries its subsets in order. -/
theorem State.tryGroup_eq (u : State) (t g : Nat) :
    u.tryGroup t g = State.trySubsets t g (((u.turned t g).tile t).group g).subsets (u.turned t g) := rfl

/-- The oldest group that may issue has the turn; the groups after it have it where its subsets pass. -/
theorem State.tryGroups_oldest {u : State} {t g : Nat} (h : Oldest u t g) : ∃ post, (u.pipeline t g = [(t, g)] → post = []) ∧
    (∀ r, u.tryGroup t g = .used r → State.tryGroups (u.pipeline t g) u = r) ∧
    (∀ r, u.tryGroup t g = .pass r → State.tryGroups (u.pipeline t g) u = State.tryGroups post r) := by
  obtain ⟨hready, hagent, pre, post, hpipe, hpre⟩ := h
  have hgo : (u.groupReady t g && !(g == 32 && u.agentYields t)) = true := by
    by_cases h32 : g = 32
    · rw [hready, hagent h32, Bool.and_false]; rfl
    · rw [hready, beq_eq_false_iff_ne.2 h32]; rfl
  refine ⟨post, fun hone => ?_, fun r hr => ?_, fun r hr => ?_⟩
  · rw [hone] at hpipe
    have hlen := congrArg List.length hpipe
    simp only [List.length_append, List.length_cons, List.length_nil] at hlen
    exact List.eq_nil_of_length_eq_zero (by omega)
  all_goals
    rw [hpipe, State.tryGroups_skip _ hpre, State.tryGroups, hgo, if_pos rfl]
    simp only [hr]

/-- A turn that the schedule offers to a pipeline. -/
theorem step_issueTurn {s u : State} {t p : Nat} (h : IssueTurn s u t p) (hm : u.mode = .running) {r : Res}
    (hr : State.tryGroups (u.pipeline t p) u = r) (hplanes : u.tookPlanes r = none) : step s = r := by
  obtain ⟨x, rest, k, hin, hev, hat, hk, hu⟩ := h
  have hpipe : u.pipeline t k = u.pipeline t p := by
    unfold State.pipeline
    rw [hk]
  unfold step
  rw [hin]
  dsimp only
  unfold State.turnOf
  rw [hev, hat]
  dsimp only
  rw [← hu, hm, if_pos (beq_self_eq_true _), State.issueTurn, hpipe, hr, State.planesFirst, hplanes]

section
variable {s u : State} {t g : Nat} {m : BitVec 32} {w : W64} {i : Instr} {c : Ctl} {r : State}

/-- The offered group's turn begins with its first subset, at the word there. -/
theorem tryGroup_offered (h : Offered s u t g m w) (hf : Free (issueState u t g m w) w i c) : ∃ rest,
    ((issueState u t g m w).G.subsets = [m] → rest = []) ∧
    (∀ v, (issueState u t g m w).perform c i = .used v → u.tryGroup t g = .used v) ∧
    (∀ v, (issueState u t g m w).perform c i = .pass v → u.tryGroup t g = State.trySubsets t g rest v) := by
  obtain ⟨-, -, -, hhead, hentry, hfetch⟩ := h
  obtain ⟨rest, hsubs⟩ : ∃ rest, (((u.turned t g).tile t).group g).subsets = m :: rest := List.head?_eq_some_iff.1 hhead
  have hrun : (u.turned t g).trySubset t g m = (issueState u t g m w).perform c i := by
    rw [issueState_eq] at hf ⊢
    rw [State.trySubset_of_word (s := u.turned t g) hentry hfetch, State.runWord_of_free hf]
  refine ⟨rest, fun hone => ?_, fun v hv => ?_, fun v hv => ?_⟩
  · have hone' : (((u.turned t g).tile t).group g).subsets = [m] := hone
    rw [hsubs] at hone'
    exact (List.cons.inj hone').2
  all_goals simp only [State.tryGroup_eq, hsubs, State.trySubsets, hrun, hv]

/-- An instruction that takes the turn is the turn's outcome. -/
theorem tryGroups_used (h : Offered s u t g m w) (hf : Free (issueState u t g m w) w i c) {v : Res}
    (hv : (issueState u t g m w).perform c i = .used v) : State.tryGroups (u.pipeline t g) u = v := by
  obtain ⟨rest, -, hused, -⟩ := tryGroup_offered h hf
  obtain ⟨-, -, hold, -⟩ := h
  obtain ⟨post, -, htry, -⟩ := State.tryGroups_oldest hold
  exact htry v (hused v hv)

/-- One that passes ends the turn where no other subset and no other group is there to take it. -/
theorem tryGroups_pass (h : Offered s u t g m w) (hf : Free (issueState u t g m w) w i c)
    (hsubs : (issueState u t g m w).G.subsets = [m]) (hpipe : u.pipeline t g = [(t, g)])
    (hv : (issueState u t g m w).perform c i = .pass r) : State.tryGroups (u.pipeline t g) u = .next r := by
  obtain ⟨rest, hrest, -, hpass⟩ := tryGroup_offered h hf
  obtain ⟨-, -, hold, -⟩ := h
  obtain ⟨post, hpost, -, htry⟩ := State.tryGroups_oldest hold
  have hlast := hpass r hv
  rw [hrest hsubs] at hlast
  rw [htry r hlast, hpost hpipe, State.tryGroups]

theorem perform_issued (hx : exec i s = .next r) (hi : s.issued r = true) (hb : s.badSource c i = none) :
    s.perform c i = .used (.next (r.afterIssue s c i)) := by
  unfold State.perform
  simp only [hx, hi, hb, if_true]

theorem perform_trapped (hx : exec i s = .next r) (hi : s.issued r = false) (ht : r.G.traps.length ≠ s.G.traps.length) :
    s.perform c i = .used (.next r) := by
  unfold State.perform
  simp only [hx, hi, Bool.false_eq_true, if_false, ht]

theorem perform_waits (hx : exec i s = .next r) (hi : s.issued r = false) (ht : r.G.traps.length = s.G.traps.length) :
    s.perform c i = .pass r := by
  unfold State.perform
  simp only [hx, hi, Bool.false_eq_true, if_false, ht, if_true]

end

/-! ## Events and the model's own turns -/

theorem step_event {s : State} {x : Input} {rest : List Input} {i : Instr} (hin : s.inputs = x :: rest) (hev : x.ev = some i)
    (hi : i.ctl = none) (htaken : (({ s with inputs := rest } : State).environment x).stillTaken i = true) :
    let u := ({ s with inputs := rest } : State).environment x
    let p := x.at_.getD (0, 0)
    step s = exec i { u with due := u.due.erase { tile := p.1, slot := p.2, ev := i }, cur := { tile := p.1, slot := p.2 } } := by
  intro u p
  unfold step
  rw [hin]
  dsimp only
  unfold State.turnOf
  simp only [hev, htaken, if_true]
  unfold State.event
  rw [hi]
  rfl

theorem step_due {s : State} {d : Due} {rest : List Due} (hin : s.inputs = []) (hdue : s.due = d :: rest) (hturn : s.turn = false)
    (hm : s.mode = .running) (hd : d.ev.ctl = none) :
    step s = exec d.ev { s.drawn with due := rest, turn := true, cur := { tile := d.tile, slot := d.slot } } := by
  unfold step
  rw [hin]
  dsimp only
  unfold State.ownTurn
  simp only [hdue, hturn, hm, decide_true, beq_self_eq_true, Bool.and_self, if_true]
  unfold State.event
  rw [hd]
  rfl

/-- Settles O54: the offered group's turn comes down to one instruction performed, and its outcome to the three that it can
have. -/
theorem stepRunsDecoded : Obligations.StepRunsDecoded := by
  refine ⟨fun s u t g m w i c ho hf r hx => ?_, fun s u x rest i hin hev hi hu htaken => ?_, fun s d rest hin hdue hturn hm hd => ?_⟩
  · obtain ⟨hturn, hm, -⟩ := id ho
    obtain ⟨-, -, -, -, -, -, hsource⟩ := id hf
    refine ⟨fun hi hp => ?_, fun hi ht hp => ?_, fun hi ht hsubs hpipe hp => ?_⟩
    · exact step_issueTurn hturn hm (tryGroups_used ho hf (perform_issued hx hi hsource)) hp
    · exact step_issueTurn hturn hm (tryGroups_used ho hf (perform_trapped hx hi ht)) hp
    · exact step_issueTurn hturn hm (tryGroups_pass ho hf hsubs hpipe (perform_waits hx hi ht)) hp
  · subst hu
    exact step_event hin hev hi htaken
  · exact step_due hin hdue hturn hm hd

end Sys2Proof.Machine
end

section
/-! PROOFS. Against the statement on lend and recall: a recall of a tile whose borrower and lender have no partition record. -/

namespace Sys2Proof.Machine
open Sys2Proof.Claims

/-- Tile 1 is lent by tag 1, which has tile 0, to tag 2, which has tile 2; no partition stands behind either tag. -/
def orphanLoan : State := { State.reset with tiles :=
  [(0, { tag := 1, quiesce := .paused, routes := [(0, 5)] }), (1, { tag := 2, lender := some (1, 1), quiesce := .paused }),
   (2, { tag := 2, quiesce := .paused })] }

/-- The events that are due after a step. -/
def dueAfter : Res → List Due
  | .next t => t.due
  | _ => []

/-- The recall counts as begun, for no partition is there in which it is not: no bound on its steps is set. -/
theorem dueAfter_recall_orphanLoan : dueAfter (exec (.recallTile 1 false) orphanLoan) = [{ ev := .recallTile 1 false }] := by
  decide

/-- Refutes O49: a recall is said to set the bound on its steps also where neither the borrower's tag nor the lender's has a
partition; the model then takes the recall for one that has begun, and sets none. -/
theorem not_lendRecallSteps : ¬ Obligations.LendRecallSteps := by
  rintro ⟨⟨-, -, htold, -⟩, -⟩
  obtain ⟨-, htold⟩ := htold 1 1 1 orphanLoan rfl rfl (by decide)
  have hparts : ∀ g ∈ [(orphanLoan.tile 1).tag, 1], ∀ P, orphanLoan.part g = some P → P.op ≠ some (.recallTile 1 false) :=
    fun _ _ _ hP => nomatch hP
  obtain ⟨t, e, hstep, -, -, -, -, hbound, -⟩ :=
    htold (by decide) (by decide) (by decide) (by decide) (by decide) hparts
  have hdue : t.due = [{ ev := .recallTile 1 false }] := by
    rw [← dueAfter_recall_orphanLoan, hstep, dueAfter]
  rw [DueAt, hdue] at hbound
  exact absurd hbound (by decide)

end Sys2Proof.Machine
end

section
/-! PROOFS. Contexts on a tile: parking, streamed slots, the pool exchange, slice boundaries, the preemption timeout and the
restore list. -/

namespace Sys2Proof.Machine
open Sys2Proof.Claims

theorem exec_groupPark (tile slot : Nat) (s : State) : exec (.groupPark tile slot) s = execGroupPark tile slot s := rfl
theorem exec_shadowLoaded (tile cslot : Nat) (s : State) : exec (.shadowLoaded tile cslot) s = execShadowLoaded tile cslot s := rfl
theorem exec_poolSegmentExchange (s : State) : exec .poolSegmentExchange s = execPoolSegmentExchange s := rfl
theorem exec_sliceBoundary (s : State) : exec .sliceBoundary s = execSliceBoundary s := rfl
theorem exec_preemptionTimeout (s : State) : exec .preemptionTimeout s = execPreemptionTimeout s := rfl
theorem exec_restoreListLoad (s : State) : exec .restoreListLoad s = execRestoreListLoad s := rfl

/-! ## Parking (R67) -/

theorem parks : Parks := by
  intro tile slot live s h
  rw [exec_groupPark, execGroupPark, h]
  refine ⟨_, rfl, rfl, ?_⟩
  rw [State.modGroup, State.tile_modTile, if_pos rfl, Tile.group_setGroup_same]

/-! ## Slots that are streamed and become active (R69, R70) -/

/-- A tile that streams ahead keeps its active slot and every slot in use. -/
structure KeepsSlots (T U : Tile) : Prop where
  act : U.act = T.act
  l1 : U.l1 = T.l1
  segs : U.segs = T.segs
  slot : ∀ i, (T.slot i).st ≠ .empty → U.slot i = T.slot i

theorem KeepsSlots.refl (T : Tile) : KeepsSlots T T := ⟨rfl, rfl, rfl, fun _ _ => rfl⟩

theorem Tile.emptySlot_st {T : Tile} {k : Nat} (h : T.emptySlot = some k) : (T.slot k).st = .empty := by
  simpa only [beq_iff_eq] using List.find?_some h

/-- A control state that streams into an empty slot. -/
theorem State.stream_keepsSlots {s u : State} {t k : Nat} (c : CtxCtl) (hu : u.tile t = s.tile t)
    (hk : (s.tile t).emptySlot = some k) : KeepsSlots (s.tile t) ((u.stream t k c).tile t) := by
  unfold State.stream
  rw [(State.push_grows _ _).tile, State.tile_modTile, if_pos rfl, hu]
  refine ⟨rfl, rfl, rfl, fun i hi => ?_⟩
  have hik : i ≠ k := fun e => hi (e ▸ Tile.emptySlot_st hk)
  exact (Tile.slot_setSlot _ _ _ _).trans (if_neg hik)

theorem State.tile_rehome (s : State) (t : Nat) (c : CtxCtl) (x : Nat) : (s.rehome t c).tile x = s.tile x := rfl

theorem State.streamAhead_keepsSlots (s : State) (t : Nat) : KeepsSlots (s.tile t) ((s.streamAhead t).tile t) := by
  unfold State.streamAhead
  dsimp only
  split
  · exact .refl _
  · split
    · exact .refl _
    · split
      · next x k _ hk =>
        split
        · exact .refl _
        · refine State.stream_keepsSlots x.ctl ?_ hk
          rw [State.tile_rehome, State.tile_modPart]
      · exact .refl _

theorem DueGrows.ite {p : Prop} [Decidable p] {s u v : State} (hu : DueGrows s u) (hv : DueGrows s v) :
    DueGrows s (if p then u else v) := by
  split <;> assumption

/-- Steps that a resumed context has pending are only added to those due. -/
theorem State.resumeSteps_grows (s : State) (t : Nat) : DueGrows s (s.resumeSteps t) := by
  unfold State.resumeSteps
  extract_lets T c s1 s2 s3 s4 s5 s6 s7 s8
  have h1 : DueGrows s s1 := s.push_grows _
  have h2 : DueGrows s s2 := h1.trans (s1.push_grows _)
  have h3 : DueGrows s s3 := h2.trans (.foldl (fun s b => s.againAt_grows _ _ _) _ _)
  have h4 : DueGrows s s4 := h3.trans (s3.push_grows _)
  have h5 : DueGrows s s5 := h4.trans (s4.push_grows _)
  have h6 : DueGrows s s6 := .ite h5 (h5.trans (s5.againAt_grows _ _ _))
  have h7 : DueGrows s s7 := .ite (h6.trans (s6.againAt_grows _ _ _)) h6
  have h8 : DueGrows s s8 := by
    refine h7.trans (.foldl (fun s g => ?_) _ _)
    extract_lets g1 g2 g3
    have k1 : DueGrows s g1 := s.push_grows _
    have k2 : DueGrows s g2 := .ite (k1.trans (g1.againAt_grows _ _ _)) k1
    have k3 : DueGrows s g3 := .ite (k2.trans (g2.againAt_grows _ _ _)) k2
    exact .ite k3 (k3.trans (g3.push_grows _))
  exact h8.trans (s8.push_grows _)

theorem Tile.foldl_aevtPush (T : Tile) (l : List Aevt) :
    l.foldl Tile.aevtPush T = { T with aevt := (l.foldl Tile.aevtPush T).aevt, aevtWait := (l.foldl Tile.aevtPush T).aevtWait } := by
  refine List.foldlRecOn (motive := fun U : Tile => U = { T with aevt := U.aevt, aevtWait := U.aevtWait }) _ _ rfl fun U hU e _ => ?_
  unfold Tile.aevtPush
  split <;> rw [hU]

/-- The segments to exchange depend on the incoming context's groups, pool and, by team, on what its regions and slabs take. -/
theorem exchangeOrder_congr (o : Option PoolOut) {c d : CtxCtl} (f : Nat × Team → Nat × Team) (hg : d.groups = c.groups)
    (hp : d.pool = c.pool) (ht : d.teams = c.teams.map f) (hf : ∀ x, (f x).2.accUse = x.2.accUse ∧ (f x).2.accAt = x.2.accAt ∧
      (f x).2.slabs = x.2.slabs ∧ (f x).2.spAt = x.2.spAt) : exchangeOrder o d = exchangeOrder o c := by
  have hacc : d.accSegs (·.accUse) = c.accSegs (·.accUse) := by
    have hseg (x : Nat × Team) : regionSeg c.pool (f x).2 = regionSeg c.pool x.2 := funext fun r => by simp only [regionSeg, hf]
    simp only [CtxCtl.accSegs, ht, hp, List.flatMap_map, hseg, hf]
  have hsp : d.spSegs = c.spSegs := by
    have hseg (x : Nat × Team) : slabSeg c.pool (f x).2 = slabSeg c.pool x.2 := funext fun j => by simp only [slabSeg, hf]
    simp only [CtxCtl.spSegs, ht, hp, List.flatMap_map, hseg, hf]
  simp only [exchangeOrder, CtxCtl.regsSegs, hg, hp, hacc, hsp]

/-- The tile after a slot became active. -/
theorem State.activate_tile (s : State) (t k : Nat) : let T := s.tile t
    let U := (s.activate t k).tile t
    U.act = k ∧ (U.slot k).st = .active ∧ U.l1 = [] ∧ U.segs = exchangeOrder T.poolOut (T.slot k).ctl ∧
      (U.slot k).ctl.ctx = (T.slot k).ctl.ctx := by
  dsimp only
  unfold State.activate
  extract_lets T c now away open_ d arr again T0 T1 T2 shift s0 s1
  have htile : ((s1.drawn.fresh.pushAt t 0 .poolSegmentExchange).resumeSteps t).tile t = T2 := by
    rw [(State.resumeSteps_grows _ _).tile, (State.pushAt_grows _ _ _ _).tile]
    exact (State.tile_setTile s t t T2).trans (if_pos rfl)
  have hT2 : T2 = { T1 with aevt := T2.aevt, aevtWait := T2.aevtWait } := T1.foldl_aevtPush again
  have hslot : T2.slot k = { st := .active, ctl := { d with arr := none, copies := [] } } := by
    rw [hT2]
    exact (Tile.slot_setSlot T k k _).trans (if_pos rfl)
  rw [htile, hslot]
  refine ⟨?_, rfl, ?_, ?_, rfl⟩ <;> rw [hT2]
  exact exchangeOrder_congr T.poolOut _ rfl rfl rfl fun x => ⟨rfl, rfl, rfl, rfl⟩

/-- The tile as the last of a slot's control state comes in. -/
def Tile.loaded (T : Tile) (k : Nat) (agent : Group) : Tile :=
  { T.setSlot k { T.slot k with st := .loaded } with agent := agent }

theorem Tile.slot_loaded (T : Tile) (k : Nat) (agent : Group) (i : Nat) :
    (T.loaded k agent).slot i = if i = k then { T.slot k with st := .loaded } else T.slot i :=
  Tile.slot_setSlot T k i _

/-- A streamed slot reads loaded, and the tile switches to it where a switch is due. -/
theorem exec_shadowLoaded_streaming {s : State} {t k : Nat} (h : ((s.tile t).slot k).st = .streaming) : ∃ u : State,
    (∃ agent, u.tile t = (s.tile t).loaded k agent) ∧ u.parts = s.parts ∧
    exec (.shadowLoaded t k) s =
      .next (if u.switchDue t ((s.tile t).slot k).ctl.ctx then (u.activate t k).streamAhead t else u) := by
  rw [exec_shadowLoaded]
  unfold execShadowLoaded
  extract_lets T S mine ids A agent T0 T1 u
  rw [if_neg (fun hne => hne h)]
  have htile : u.tile t = T.loaded k agent := ((State.push_grows _ _).tile t).trans ((State.tile_setTile s t t T1).trans (if_pos rfl))
  exact ⟨u, ⟨agent, htile⟩, rfl, rfl⟩

theorem shadowLoads (t k : Nat) (s : State) (h : ((s.tile t).slot k).st = .streaming) :
    (((s.tile t).slot (s.tile t).act).st ≠ .empty →
      ∃ u, exec (.shadowLoaded t k) s = .next u ∧ ((u.tile t).slot k).st = .loaded ∧
        (u.tile t).act = (s.tile t).act ∧ ((u.tile t).slot k).ctl = ((s.tile t).slot k).ctl) ∧
    (∀ P, ((s.tile t).slot (s.tile t).act).st = .empty → s.part (s.tile t).tag = some P → P.boundary = none →
      P.current = some ((s.tile t).slot k).ctl.ctx →
      ∃ u, exec (.shadowLoaded t k) s = .next u ∧ (u.tile t).act = k ∧
        ((u.tile t).slot k).st = .active ∧ (u.tile t).l1 = [] ∧
        (u.tile t).segs = exchangeOrder (s.tile t).poolOut ((s.tile t).slot k).ctl ∧
        (u.tile t).ctl.ctx = ((s.tile t).slot k).ctl.ctx) := by
  obtain ⟨u, ⟨agent, htile⟩, hparts, hstep⟩ := exec_shadowLoaded_streaming h
  rw [hstep]
  have hk : (u.tile t).slot k = { (s.tile t).slot k with st := .loaded } := by
    rw [htile, Tile.slot_loaded, if_pos rfl]
  have hact : (u.tile t).act = (s.tile t).act := by rw [htile]; rfl
  refine ⟨fun hfull => ?_, fun P hfree hP hb hcur => ?_⟩
  · have hdue : u.switchDue t ((s.tile t).slot k).ctl.ctx = false := by
      have hst : ((u.tile t).slot (u.tile t).act).st ≠ .empty := by
        rw [hact, htile, Tile.slot_loaded]
        split
        · exact fun e => nomatch e
        · exact hfull
      rw [State.switchDue, beq_eq_false_iff_ne.2 hst, Bool.false_and]
    rw [hdue, if_neg Bool.false_ne_true]
    exact ⟨_, rfl, by rw [hk], hact, by rw [hk]⟩
  · have hother : (s.tile t).act ≠ k := fun e => by
      rw [e, h] at hfree
      cases hfree
    have hdue : u.switchDue t ((s.tile t).slot k).ctl.ctx = true := by
      have hst : ((u.tile t).slot (u.tile t).act).st = .empty := by
        rw [hact, htile, Tile.slot_loaded, if_neg hother, hfree]
      have hpart : u.part (u.tile t).tag = some P := by
        rw [State.part, hparts, htile]
        exact hP
      simp only [State.switchDue, hst, hpart, hcur, hb, beq_self_eq_true, Option.isNone_none, Bool.and_self]
    rw [hdue, if_pos rfl]
    obtain ⟨hact', hst', hl1, hsegs, hctx⟩ := u.activate_tile t k
    have hkeep := (u.activate t k).streamAhead_keepsSlots t
    have hslot := hkeep.slot k (by rw [hst']; exact fun e => nomatch e)
    refine ⟨_, rfl, hkeep.act.trans hact', by rw [hslot, hst'], hkeep.l1.trans hl1, ?_, ?_⟩
    · rw [hkeep.segs, hsegs, hk, htile]
      rfl
    · rw [Tile.ctl, hkeep.act, hact', hslot, hctx, hk]

/-! ## The pool exchange (R70) -/

theorem State.putBytes_frame (s : State) (pa : Nat) (l : List Byte) :
    s.putBytes pa l = { s with mem := (s.putBytes pa l).mem, writes := (s.putBytes pa l).writes, due := (s.putBytes pa l).due } := by
  have h := (State.report_grows ((s.setMem (Memory.putBytes s.mem pa l)).noteWords pa l.length)).frame
  unfold State.putBytes
  rw [h]
  rfl

/-- Memory was written, steps due were added, and values drawn. -/
def MemWritten (s t : State) : Prop := t = { s with mem := t.mem, writes := t.writes, due := t.due, free := t.free }

theorem MemWritten.refl (s : State) : MemWritten s s := rfl

theorem MemWritten.trans {s t u : State} (h : MemWritten s t) (k : MemWritten t u) : MemWritten s u := by
  unfold MemWritten at *
  rw [k, h]

theorem State.drawn_memWritten (s : State) : MemWritten s s.drawn := rfl

theorem State.putBytes_memWritten (s : State) (pa : Nat) (l : List Byte) : MemWritten s (s.putBytes pa l) := by
  unfold MemWritten
  rw [s.putBytes_frame]

/-- Bytes written through the agent's addresses change memory alone. -/
theorem State.virtPut_memWritten (s : State) (tag ctx va : Nat) (l : List Byte) (n : Nat) :
    MemWritten s (s.virtPut tag ctx va l n) := by
  induction n generalizing s va l with
  | zero => exact .refl s
  | succ n ih =>
    rw [State.virtPut]
    refine .trans ?_ (ih _ _ _)
    split
    · split
      · exact s.putBytes_memWritten _ _
      · exact .refl s
    · exact .refl s

theorem State.poolWrite_memWritten (s : State) (t : Nat) (o : PoolOut) (i : Nat) : MemWritten s (s.poolWrite t o i) := by
  unfold State.poolWrite
  split
  · exact s.drawn_memWritten.trans (s.drawn.virtPut_memWritten _ _ _ _ _)
  · exact .refl s

theorem poolExchanges (s : State) (i : Nat) (l : List Nat) (h : (s.tile s.cur.tile).segs = i :: l) :
    (s.haltedAt s.cur.tile = false → ∃ t, exec .poolSegmentExchange s = .next t ∧ (t.tile s.cur.tile).segs = l ∧
      ((s.tile s.cur.tile).poolOut = none → t = { s with tiles := t.tiles, due := t.due })) ∧
    (s.haltedAt s.cur.tile = true → ∃ t, exec .poolSegmentExchange s = .next t ∧ t = { s with due := t.due }) := by
  rw [exec_poolSegmentExchange]
  unfold execPoolSegmentExchange
  extract_lets t T
  have hsegs : T.segs = i :: l := h
  simp -zeta only [hsegs]
  refine ⟨fun hrun => ?_, fun hhalt => ?_⟩
  · rw [hrun, if_neg Bool.false_ne_true]
    extract_lets u v
    have hv : (v.tile t).segs = l := by rw [State.tile_modTile, if_pos rfl]
    have hgrow : DueGrows v (if l = [] then v else v.pushAt t 0 .poolSegmentExchange) := .ite (.refl v) (v.pushAt_grows _ _ _)
    refine ⟨_, rfl, by rw [hgrow.tile, hv], fun hout => ?_⟩
    have hu : u = s := by
      unfold u
      rw [hout]
    rw [hgrow.frame]
    unfold v
    rw [hu]
    rfl
  · rw [hhalt, if_pos rfl]
    exact ⟨_, rfl, (s.againAt_grows _ _ _).frame⟩

theorem slotSteps : SlotSteps := ⟨fun t k s h => shadowLoads t k s h, poolExchanges⟩

/-! ## The end of a slice (R65 to R68) -/

/-- What each round of a fold establishes of its own tile, and other rounds leave, holds of every tile of the list. -/
theorem tile_foldl_each {f : State → Nat → State} {p : Tile → Prop} (hown : ∀ s t, p ((f s t).tile t))
    (hother : ∀ s t x, x ≠ t → (f s t).tile x = s.tile x) {l : List Nat} {x : Nat} (hx : x ∈ l) (s : State) :
    p ((l.foldl f s).tile x) := by
  have key : ∀ (l : List Nat) (s : State), p (s.tile x) ∨ x ∈ l → p ((l.foldl f s).tile x) := by
    intro l
    induction l with
    | nil => exact fun s h => h.elim id fun h => nomatch h
    | cons t l ih =>
      intro s h
      refine ih (f s t) ?_
      by_cases hxt : x = t
      · exact .inl (hxt ▸ hown s t)
      · rw [hother s t x hxt]
        exact h.imp_right fun h => (List.mem_cons.1 h).resolve_left hxt
  exact key l s (.inr hx)

/-- A tile's agent is told of a switch: claims stop and its groups are marked. -/
def State.warnTile (s : State) (t : Nat) : State := (s.markTile t).notify t 2 (s.tile t).act

/-- Claims have stopped and every group is marked. -/
def Tile.Warned (T : Tile) : Prop := T.ctl.noClaim = true ∧ ∀ g ∈ T.ctl.groups, g.2.marked = true

theorem Tile.ctl_aevtPush (T : Tile) (e : Aevt) : (T.aevtPush e).ctl = T.ctl := by
  unfold Tile.aevtPush
  split <;> rfl

theorem State.warnTile_warned (s : State) (t : Nat) : ((s.warnTile t).tile t).Warned := by
  have hctl : ((s.warnTile t).tile t).ctl = { (s.tile t).ctl with
      noClaim := true, timersOff := some ((s.tile t).ctl.timersOff.getD (s.tileTime t))
      groups := (s.tile t).ctl.groups.map fun g => (g.1, { g.2 with marked := true }) } := by
    rw [State.warnTile, State.notify_tile, Tile.ctl_aevtPush, State.markTile, State.tile_modTile, if_pos rfl, Tile.ctl_setCtl]
  rw [Tile.Warned, hctl]
  refine ⟨rfl, fun g hg => ?_⟩
  obtain ⟨z, -, rfl⟩ := List.mem_map.1 hg
  rfl

theorem State.warnTile_other (s : State) (t x : Nat) (h : x ≠ t) : (s.warnTile t).tile x = s.tile x := by
  have hdrawn (v : State) : v.drawn.tile x = v.tile x := rfl
  rw [State.warnTile, State.notify, hdrawn, State.tile_modTile, if_neg h, State.markTile, State.tile_modTile, if_neg h]

theorem State.warnTiles_frame (s : State) (l : List Nat) : l.foldl State.warnTile s =
    { s with tiles := (l.foldl State.warnTile s).tiles, free := (l.foldl State.warnTile s).free } := by
  refine List.foldlRecOn (motive := fun u : State => u = { s with tiles := u.tiles, free := u.free }) _ _ rfl fun u hu t _ => ?_
  rw [hu]
  rfl

theorem Part.takeSets_of_none {P : Part} (h : P.pendSet = []) (put : Part → SettingsReq → Part)
    (rest : SettingsReq → SettingsReq) : P.takeSets put rest = P := by
  unfold Part.takeSets
  rw [h, List.foldl_nil, List.map_nil, ← h]

theorem Part.atBoundary_of_none {P : Part} (h : P.pendSet = []) (last : Bool) : P.atBoundary last = P := by
  simp only [Part.atBoundary, Part.takeSets_of_none h, ite_self]

/-- A partition for which no settings wait is written back as it is. -/
theorem State.settled_of_none {s : State} {tag : Nat} {P : Part} (hP : s.part tag = some P) (h : P.pendSet = []) :
    s.settled tag = s.setPart tag P := by
  unfold State.settled
  simp only [hP, h, List.filter_nil, List.foldl_nil]
  rw [← h]

theorem State.idle_congr {s t : State} {tag : Nat} (hp : t.part tag = s.part tag) (ht : t.tiles = s.tiles) (ctx : Nat) :
    t.idle tag ctx = s.idle tag ctx := by
  simp only [State.idle, State.ctx, State.tilesOf, State.tile, hp, ht]

theorem State.nextEntry_congr {s t : State} {tag : Nat} (hp : t.part tag = s.part tag) (ht : t.tiles = s.tiles) (P : Part) :
    t.nextEntry tag P = s.nextEntry tag P := by
  simp only [State.nextEntry, State.idle_congr hp ht]

/-- The partition as the switch to the schedule's entry `i` begins. -/
def Part.switching (P : Part) (i at_ : Nat) : Part := { P with schedPos := i, sliceAt := at_, resting := false, boundary := some at_ }

theorem exec_sliceBoundary_over {s : State} {P : Part} {i : Nat} {e : Nat × Nat} (hP : s.part s.cur.tile = some P)
    (hb : P.boundary = none) (hpause : P.paused = none) (hheld : P.heldStop = false) (hop : P.op = none) (hset : P.pendSet = [])
    (hover : s.sliceOver s.cur.tile P = true) (hctxs : 1 < P.ctxs.length) (hi : s.nextEntry s.cur.tile P = some i)
    (he : P.sched[i]? = some e) (hcur : P.current ≠ some e.1) : ∃ v : State,
    v.part s.cur.tile = some (P.switching i (s.sliceEnd P)) ∧ v.tiles = s.tiles ∧ v.mem = s.mem ∧
    exec .sliceBoundary s = .next ((((s.tilesOf s.cur.tile).foldl State.warnTile v).pushAt s.cur.tile 0 .sliceBoundary).pushAt
      s.cur.tile 0 .preemptionTimeout) := by
  have hP1 : ((s.setPart s.cur.tile P).setPart s.cur.tile P).part s.cur.tile = some P := by rw [State.part_setPart, if_pos rfl]
  have hsettled : ((s.setPart s.cur.tile P).settled s.cur.tile) = (s.setPart s.cur.tile P).setPart s.cur.tile P :=
    State.settled_of_none ((State.part_setPart _ _ _ _).trans (if_pos rfl)) hset
  have hnext : ((s.setPart s.cur.tile P).setPart s.cur.tile P).nextEntry s.cur.tile P = some i :=
    (State.nextEntry_congr (hP1.trans hP.symm) rfl P).trans hi
  have hgo : (P.paused.isSome || P.heldStop || P.op.isSome || !s.sliceOver s.cur.tile P) = false := by
    rw [hpause, hheld, hop, hover]
    rfl
  refine ⟨((s.setPart s.cur.tile P).setPart s.cur.tile P).setPart s.cur.tile (P.switching i (s.sliceEnd P)), ?_, rfl, rfl, ?_⟩
  · rw [State.part_setPart, if_pos rfl]
  · rw [exec_sliceBoundary, execSliceBoundary]
    simp only [hP, hb, hgo, Part.atBoundary_of_none hset, hsettled, hP1, Nat.not_le.2 hctxs, hnext, he, Bool.false_eq_true, if_false,
      Option.map_some, Option.getD_some, hcur]
    rfl

theorem sliceEnds (s : State) (P : Part) (i : Nat) (e : Nat × Nat) (hP : s.part s.cur.tile = some P) (hb : P.boundary = none)
    (hpause : P.paused = none) (hheld : P.heldStop = false) (hop : P.op = none) (hset : P.pendSet = [])
    (hover : s.sliceOver s.cur.tile P = true) (hctxs : 1 < P.ctxs.length) (hi : s.nextEntry s.cur.tile P = some i)
    (he : P.sched[i]? = some e) (hcur : P.current ≠ some e.1) :
    ∃ t Q o, exec .sliceBoundary s = .next t ∧ t.part s.cur.tile = some Q ∧ P.sched[P.schedPos]? = some o ∧
      Q.sliceAt = (if P.resting then s.wtime else min (P.sliceAt + 1000 * o.2) s.wtime) ∧ Q.boundary = some Q.sliceAt ∧
      Q.schedPos = i ∧ DueEv t .preemptionTimeout ∧ t.mem = s.mem ∧ ∀ u ∈ s.tilesOf s.cur.tile,
        (t.tile u).ctl.noClaim = true ∧ ∀ g ∈ (t.tile u).ctl.groups, g.2.marked = true := by
  obtain ⟨v, hv, htiles, hmem, hstep⟩ := exec_sliceBoundary_over hP hb hpause hheld hop hset hover hctxs hi he hcur
  obtain ⟨o, ho⟩ : ∃ o, P.sched[P.schedPos]? = some o := by
    cases ho : P.sched[P.schedPos]? with
    | none => rw [State.sliceOver, ho] at hover; cases hover
    | some o => exact ⟨o, rfl⟩
  have hframe := v.warnTiles_frame (s.tilesOf s.cur.tile)
  refine ⟨_, P.switching i (s.sliceEnd P), o, hstep, ?_, ho, ?_, rfl, rfl,
    ⟨_, List.mem_append_right _ (List.mem_singleton_self _), rfl⟩, ?_, fun u hu => ?_⟩
  · rw [← hv, State.part, (State.pushAt_grows _ _ _ _).frame, (State.pushAt_grows _ _ _ _).frame, hframe]
    rfl
  · simp only [Part.switching, State.sliceEnd, ho]
  · rw [(State.pushAt_grows _ _ _ _).frame, (State.pushAt_grows _ _ _ _).frame, hframe]
    exact hmem
  · rw [(State.pushAt_grows _ _ _ _).tile, (State.pushAt_grows _ _ _ _).tile]
    exact tile_foldl_each (p := Tile.Warned) State.warnTile_warned State.warnTile_other hu v

/-! ## The preemption timeout (R68) -/

/-- Every group is parked or stopped. -/
def Tile.Halted (T : Tile) : Prop := ∀ g ∈ T.ctl.groups, g.2.parked = true ∨ g.2.stopped = true

theorem State.stopTile_halted (s : State) (t : Nat) : ((s.stopTile t).tile t).Halted := by
  intro g hg
  rw [State.stopTile, State.tile_modTile, if_pos rfl, Tile.ctl_setCtl] at hg
  obtain ⟨z, -, rfl⟩ := List.mem_map.1 hg
  split
  · exact .inl rfl
  · cases z.2.parked
    · exact .inr (Bool.or_true _)
    · exact .inl rfl

theorem State.stopTile_other (s : State) (t x : Nat) (h : x ≠ t) : (s.stopTile t).tile x = s.tile x := by
  rw [State.stopTile, State.tile_modTile, if_neg h]

theorem preemptionEnds (s : State) (P : Part) (b : Nat) (hP : s.part s.cur.tile = some P) (hb : P.boundary = some b)
    (hover : b + P.preempt ≤ s.wtime) : ∃ t, exec .preemptionTimeout s = .next t ∧ t.mem = s.mem ∧
      ∀ u ∈ s.tilesOf s.cur.tile, ∀ g ∈ (t.tile u).ctl.groups, g.2.parked = true ∨ g.2.stopped = true := by
  rw [exec_preemptionTimeout, execPreemptionTimeout]
  simp only [hP, hb, hover, if_true]
  refine ⟨_, rfl, ?_, fun u hu => ?_⟩
  · exact List.foldlRecOn (motive := fun v : State => v.mem = s.mem) _ _ rfl fun v hv _ _ => hv
  · rw [(State.push_grows _ _).tile]
    exact tile_foldl_each (p := Tile.Halted) State.stopTile_halted State.stopTile_other hu s

/-! ## The end of a boundary (R68): what a switch leaves of a partition's schedule -/

/-- Every partition stands at the same entry of its schedule, with the same boundary or none. -/
def SameSlices (s t : State) : Prop :=
  ∀ g, (t.part g).map (fun P => (P.boundary, P.schedPos)) = (s.part g).map fun P => (P.boundary, P.schedPos)

theorem SameSlices.refl (s : State) : SameSlices s s := fun _ => rfl
theorem SameSlices.trans {s t u : State} (h : SameSlices s t) (k : SameSlices t u) : SameSlices s u := fun g => (k g).trans (h g)

theorem SameSlices.of_parts {s t : State} (h : t.parts = s.parts) : SameSlices s t := fun g => by
  rw [State.part, State.part, h]

theorem SameSlices.ite {p : Prop} [Decidable p] {s u v : State} (hu : SameSlices s u) (hv : SameSlices s v) :
    SameSlices s (if p then u else v) := by
  split <;> assumption

theorem SameSlices.foldl {α : Type} {f : State → α → State} (hf : ∀ s x, SameSlices s (f s x)) (l : List α) (s : State) :
    SameSlices s (l.foldl f s) :=
  List.foldlRecOn l f (.refl s) fun t ht x _ => ht.trans (hf t x)

theorem DueGrows.sameSlices {s t : State} (h : DueGrows s t) : SameSlices s t := .of_parts (by rw [h.frame])
theorem MemWritten.sameSlices {s t : State} (h : MemWritten s t) : SameSlices s t := .of_parts (by rw [h])

theorem State.modTile_sameSlices (s : State) (t : Nat) (f : Tile → Tile) : SameSlices s (s.modTile t f) := .of_parts rfl

theorem State.modPart_sameSlices (s : State) (tag : Nat) {f : Part → Part}
    (hf : ∀ P, (f P).boundary = P.boundary ∧ (f P).schedPos = P.schedPos) : SameSlices s (s.modPart tag f) := by
  intro g
  rw [s.part_modPart]
  split
  · next hg =>
    rw [hg, Option.map_map]
    exact congrArg (Option.map · _) (funext fun P => Prod.ext (hf P).1 (hf P).2)
  · rfl

theorem State.modCtx_sameSlices (s : State) (tag ctx : Nat) (f : Ctx → Ctx) : SameSlices s (s.modCtx tag ctx f) := by
  refine s.modPart_sameSlices tag fun P => ?_
  split <;> exact ⟨rfl, rfl⟩

theorem State.raiseVector_sameSlices (s : State) (tag vec : Nat) : SameSlices s (s.raiseVector tag vec) := by
  unfold State.raiseVector
  split
  · exact .ite (.refl s) (.ite (s.modPart_sameSlices tag fun _ => ⟨rfl, rfl⟩) (.of_parts rfl))
  · exact .refl s

theorem State.devMemWrite_sameSlices (s : State) (c : Option Ctx) {pa : Nat} (n v : Nat)
    (h : regionOf pa = .plinth ∨ ∃ t off, regionOf pa = .host t off) : SameSlices s (s.devMemWrite c pa n v) := by
  unfold State.devMemWrite
  rcases h with h | ⟨t, off, h⟩ <;> rw [h]
  · exact (SameSlices.of_parts rfl : SameSlices s ((s.setMem (Memory.write s.mem pa n v)).noteWords pa n)).trans
      (State.report_grows _).sameSlices
  · exact .of_parts rfl

theorem State.post_sameSlices (s : State) (tag ctx : Nat) (e : EvRec) : SameSlices s (s.post tag ctx e) := by
  rcases s.post_cases tag ctx e with h | h | ⟨c, pa, v, hr, h⟩ <;> rw [h]
  · exact .refl s
  · exact s.modCtx_sameSlices tag ctx _
  · have hctx := (s.devMemWrite_sameSlices (some c) 32 v hr).trans (State.modCtx_sameSlices _ tag ctx
      fun c => { c with evprod := (c.evprod + 1) % 2 ^ 32 })
    exact .ite (hctx.trans (State.raiseVector_sameSlices _ _ _)) hctx

theorem State.overflow_sameSlices (s : State) (t cslot i : Nat) : SameSlices s (s.overflow t cslot i) := by
  unfold State.overflow
  extract_lets T S c s1
  have h1 : SameSlices s s1 := .of_parts rfl
  have hnotify (u : State) : SameSlices u (u.notify t 5 cslot) := .of_parts rfl
  exact .ite (h1.trans ((s1.post_sameSlices _ _ _).trans (hnotify _))) h1

theorem State.savePlanes_memWritten (s : State) (t : Nat) (c : CtxCtl) : MemWritten s (s.savePlanes t c) := by
  unfold State.savePlanes
  extract_lets T key base one
  have hone (u : State) (i : Nat) (p : Plane) : MemWritten u (one u i p) := by
    unfold one
    split
    · exact u.virtPut_memWritten _ _ _ _ _
    · exact .refl u
  exact (hone s 0 _).trans (hone _ 1 _)

theorem State.saveImage_sameSlices (s : State) (t va : Nat) (full : Bool) (tag ctx : Nat) :
    SameSlices s (s.saveImage t va full (State.imagePut tag ctx va)) := by
  unfold State.saveImage
  extract_lets T c bytes s1 s2
  have h1 : SameSlices s s1 :=
    ((s.savePlanes_memWritten t c).trans ((State.drawn_memWritten _).trans (State.virtPut_memWritten _ _ _ _ _ _))).sameSlices
  have h2 : SameSlices s1 s2 := s1.modPart_sameSlices _ fun _ => ⟨rfl, rfl⟩
  exact h1.trans (h2.trans (s2.modTile_sameSlices _ _))

theorem State.poolFlush_sameSlices (s : State) (t : Nat) : SameSlices s (s.poolFlush t) := by
  unfold State.poolFlush
  dsimp only
  split
  · exact .refl s
  · exact .trans (.foldl (fun u i => (u.poolWrite_memWritten t _ i).sameSlices) _ _) (State.modTile_sameSlices _ _ _)

theorem State.vacate_sameSlices (s : State) (t : Nat) : SameSlices s (s.vacate t) :=
  (s.poolFlush_sameSlices t).trans (State.modTile_sameSlices _ _ _)

theorem State.stream_sameSlices (s : State) (t k : Nat) (c : CtxCtl) : SameSlices s (s.stream t k c) :=
  (s.modTile_sameSlices t _).trans (State.push_grows _ _).sameSlices

theorem State.dropImage_sameSlices (s : State) (tag : Nat) (x : SavedImage) :
    SameSlices s (s.modPart tag fun P => { P with images := P.images.filter (· != x) }) :=
  s.modPart_sameSlices tag fun _ => ⟨rfl, rfl⟩

theorem State.takeOver_sameSlices (s : State) (tag t k : Nat) (x : SavedImage) :
    SameSlices s (((s.modPart tag fun P => { P with images := P.images.filter (· != x) }).rehome t x.ctl).stream t k x.ctl) :=
  (s.dropImage_sameSlices tag x).trans (State.stream_sameSlices _ t k x.ctl)

theorem State.streamAhead_sameSlices (s : State) (t : Nat) : SameSlices s (s.streamAhead t) := by
  unfold State.streamAhead
  dsimp only
  split
  · exact .refl s
  · split
    · exact .refl s
    · split
      · exact .ite (.refl s) (s.takeOver_sameSlices _ _ _ _)
      · exact .refl s

theorem State.activate_sameSlices (s : State) (t k : Nat) : SameSlices s (s.activate t k) := by
  unfold State.activate
  extract_lets T c now away open_ d arr again T0 T1 T2 shift s0 s1
  have h1 : SameSlices s s1 := .of_parts rfl
  exact h1.trans ((State.pushAt_grows _ _ _ _).trans (State.resumeSteps_grows _ _) : DueGrows s1.drawn.fresh _).sameSlices

theorem State.refuseImage_sameSlices (s : State) (tag : Nat) (x : SavedImage) : SameSlices s (s.refuseImage tag x) :=
  (s.dropImage_sameSlices tag x).trans (State.push_grows _ _).sameSlices

theorem State.listImage_sameSlices (s : State) (tag : Nat) (x : SavedImage) : SameSlices s (s.listImage tag x) := by
  unfold State.listImage
  extract_lets u slabs admits
  have hu : SameSlices s u := s.modPart_sameSlices tag fun _ => ⟨rfl, rfl⟩
  exact .ite hu (hu.trans (State.push_grows _ _).sameSlices)

theorem State.bringIn_sameSlices (s : State) (t ctx : Nat) : SameSlices s (s.bringIn t ctx) := by
  unfold State.bringIn
  dsimp only
  split
  · exact .refl s
  · split
    · exact .ite ((s.activate_sameSlices _ _).trans (State.streamAhead_sameSlices _ _)) (.refl s)
    · split
      · exact s.stream_sameSlices _ _ _
      · exact .ite ((s.refuseImage_sameSlices _ _).trans (State.stream_sameSlices _ _ _ _))
          (.ite (s.takeOver_sameSlices _ _ _ _) ((s.listImage_sameSlices _ _).trans (State.stream_sameSlices _ _ _ _)))

theorem State.switchAll_sameSlices (s : State) (tag ctx : Nat) : SameSlices s (s.switchAll tag ctx) := by
  refine .foldl (fun s t => ?_) _ _
  extract_lets T full s1 va s2
  have h1 : SameSlices s s1 := .foldl (fun u i => u.overflow_sameSlices _ _ _) _ _
  have h2 : SameSlices s s2 := .ite (h1.trans (s1.saveImage_sameSlices _ _ _ _ _)) h1
  exact h2.trans ((s2.vacate_sameSlices t).trans (State.bringIn_sameSlices _ _ _))

theorem boundaryEnds (s : State) (P : Part) (b : Nat) (hP : s.part s.cur.tile = some P) (hb : P.boundary = some b)
    (hquiet : ∀ u ∈ s.tilesOf s.cur.tile, s.quiet u = true) : ∃ t Q, exec .sliceBoundary s = .next t ∧
      t.part s.cur.tile = some Q ∧ Q.boundary = none ∧ Q.schedPos = P.schedPos := by
  have hall : ((s.tilesOf s.cur.tile).all fun t => s.quiet t || (s.tile t).quiesce == .retag) = true :=
    List.all_eq_true.2 fun u hu => by rw [hquiet u hu, Bool.true_or]
  rw [exec_sliceBoundary, execSliceBoundary]
  simp only [hP, hb, hall, if_true]
  have hsame := (State.switchAll_sameSlices (s.modPart s.cur.tile fun P => { P with boundary := none }) s.cur.tile
    (P.current.getD 0)).trans (State.pushAt_grows _ s.cur.tile 0 .sliceBoundary).sameSlices
  have hpart := hsame s.cur.tile
  rw [State.part_modPart, if_pos rfl, hP, Option.map_some, Option.map_some] at hpart
  obtain ⟨Q, hQ, hQs⟩ := Option.map_eq_some_iff.1 hpart
  obtain ⟨hQb, hQp⟩ := Prod.mk.inj hQs
  exact ⟨_, Q, rfl, hQ, hQb, hQp⟩

theorem slices : Slices := ⟨sliceEnds, boundaryEnds, preemptionEnds⟩

/-! ## The restore list (R363) -/

theorem CtxCtl.returnBin_teams (c : CtxCtl) (b : Bin) : (c.returnBin b).1.teams = c.teams := by
  unfold CtxCtl.returnBin
  dsimp only
  split
  · rfl
  · split <;> rfl

theorem CtxCtl.returnBins_teams (c : CtxCtl) (l : List Bin) : (c.returnBins l).teams = c.teams :=
  List.foldlRecOn (motive := fun a : CtxCtl × List HeldItem => a.1.teams = c.teams) l _ rfl
    fun a ha b _ => (a.1.returnBin_teams b).trans ha

theorem CtxCtl.merge_teams (c x : CtxCtl) : (c.merge x).teams = x.teams.foldl (fun m y => amSet m y.1 y.2) c.teams := by
  unfold CtxCtl.merge
  extract_lets base b
  have hbase : base.teams = c.teams := by
    unfold base
    split <;> rfl
  exact (CtxCtl.returnBins_teams b _).trans (congrArg (x.teams.foldl fun m y => amSet m y.1 y.2) hbase)

/-- What is written to a map stands in it. -/
theorem isSome_amGet_foldl_amSet {α : Type} (l : List (Nat × α)) (m : AMap α) {k : Nat}
    (h : (amGet m k).isSome = true ∨ k ∈ l.map (·.1)) :
    (amGet (l.foldl (fun m y => amSet m y.1 y.2) m) k).isSome = true := by
  induction l generalizing m with
  | nil => exact h.elim id fun h => nomatch h
  | cons y l ih =>
    refine ih _ ?_
    by_cases hk : k = y.1
    · rw [hk, amGet_amSet_same]
      exact .inl rfl
    · rw [amGet_amSet_other _ _ _ _ hk]
      exact h.imp_right fun h => (List.mem_cons.1 h).resolve_left hk

/-- One team finds room beside those before it. -/
def CtxCtl.rePlaceTeam (a : CtxCtl × AMap Team) (x : Nat × Team) : CtxCtl × AMap Team :=
  let y := { x.2 with spAt := lowestFree x.2.slabs a.1.slabsHeld, accAt := lowestFree (x.2.accRows / 16) a.1.unitsHeld }
  ({ a.1 with teams := amSet a.1.teams x.1 y }, a.2 ++ [(x.1, y)])

theorem CtxCtl.rePlace_eq (c : CtxCtl) (l : AMap Team) :
    c.rePlace l = if c.teams = [] then l else (l.foldl CtxCtl.rePlaceTeam (c, [])).2 := rfl

theorem CtxCtl.keys_rePlaceTeams (l : AMap Team) (a : CtxCtl × AMap Team) :
    (l.foldl CtxCtl.rePlaceTeam a).2.map (·.1) = a.2.map (·.1) ++ l.map (·.1) := by
  induction l generalizing a with
  | nil => rw [List.foldl_nil, List.map_nil, List.append_nil]
  | cons x l ih => rw [List.foldl_cons, ih, CtxCtl.rePlaceTeam, List.map_append, List.append_assoc]; rfl

theorem CtxCtl.keys_rePlace (c : CtxCtl) (l : AMap Team) : (c.rePlace l).map (·.1) = l.map (·.1) := by
  rw [CtxCtl.rePlace_eq]
  split
  · rfl
  · exact CtxCtl.keys_rePlaceTeams l _

/-- An image that a tile takes leaves those of its partition; the tile keeps its tag and has the image's teams. -/
theorem State.takeImage_leaves (s : State) (t : Nat) (x : SavedImage) : let u := s.takeImage t x
    u.parts = (s.modPart (s.tile t).tag fun P => { P with images := P.images.filter (· != x) }).parts ∧
    (∀ v, (u.tile v).tag = (s.tile v).tag) ∧ ∀ y ∈ x.ctl.teams, ((u.tile t).team y.1).isSome = true := by
  dsimp only
  unfold State.takeImage
  extract_lets T now away c anchor open_ d u arr again T0 T1
  have hgrow := State.resumeSteps_grows ((u.setTile t (again.foldl Tile.aevtPush T1)).drawn.fresh) t
  have htile (v : Nat) : (((u.setTile t (again.foldl Tile.aevtPush T1)).drawn.fresh.resumeSteps t).tile v) =
      if v = t then again.foldl Tile.aevtPush T1 else s.tile v := by
    rw [hgrow.tile]
    refine (State.tile_setTile u t v _).trans ?_
    rw [State.tile_rehome, State.tile_modPart]
  refine ⟨by rw [hgrow.frame]; rfl, fun v => ?_, fun y hy => ?_⟩
  · rw [htile]
    split
    · next hv => rw [Tile.foldl_aevtPush, hv]; rfl
    · rfl
  · have hctl : (again.foldl Tile.aevtPush T1).ctl = T.ctl.merge d := by
      rw [Tile.foldl_aevtPush]
      exact Tile.ctl_setCtl T _
    rw [htile, if_pos rfl, Tile.team, hctl, CtxCtl.merge_teams]
    refine isSome_amGet_foldl_amSet _ _ (.inr ?_)
    have hkeys : c.teams.map (·.1) = x.ctl.teams.map (·.1) := List.map_map ..
    have hy' : y.1 ∈ c.teams.map (·.1) := hkeys ▸ List.mem_map_of_mem hy
    rw [CtxCtl.keys_rePlace, List.map_map]
    exact hy'

/-- Images that are taken in turn leave their partition, and no other does. -/
theorem State.takeImages_images {tag : Nat} (l : List (Nat × SavedImage)) {s : State} {P : Part} (hP : s.part tag = some P)
    (hl : ∀ z ∈ l, (s.tile z.1).tag = tag) : ∃ Q, (l.foldl (fun s y => s.takeImage y.1 y.2) s).part tag = some Q ∧
      ∀ y, y ∈ Q.images ↔ y ∈ P.images ∧ ∀ z ∈ l, z.2 ≠ y := by
  induction l generalizing s P with
  | nil => exact ⟨P, hP, fun y => ⟨fun h => ⟨h, fun _ hz => nomatch hz⟩, fun h => h.1⟩⟩
  | cons z l ih =>
    obtain ⟨hparts, htags, -⟩ := s.takeImage_leaves z.1 z.2
    have hpart : (s.takeImage z.1 z.2).part tag = some { P with images := P.images.filter (· != z.2) } := by
      rw [State.part, hparts, hl z List.mem_cons_self]
      exact (s.part_modPart tag tag _).trans ((if_pos rfl).trans (congrArg _ hP))
    obtain ⟨Q, hQ, himages⟩ := ih hpart fun w hw => (htags w.1).trans (hl w (List.mem_cons_of_mem _ hw))
    refine ⟨Q, hQ, fun y => (himages y).trans ?_⟩
    rw [List.mem_filter, bne_iff_ne, List.forall_mem_cons, and_assoc, ne_comm]

theorem restores : Restores := by
  intro s P l T hP hl hgood htags
  have hnone : (P.images.filter fun x => x.ctx == T.ctl.ctx && x.listed).find? (fun x => !s.imageGood T.tag x) = none := by
    refine List.find?_eq_none.2 fun x hx => ?_
    obtain ⟨hmem, hx⟩ := List.mem_filter.1 hx
    obtain ⟨hctx, hlisted⟩ := Bool.and_eq_true_iff.1 hx
    rw [hgood x hmem (beq_iff_eq.1 hctx) hlisted]
    exact Bool.false_ne_true
  have hstep : exec .restoreListLoad s = .next (l.foldl (fun s y => s.takeImage y.1 y.2) s) := by
    rw [exec_restoreListLoad, execRestoreListLoad]
    simp only [T] at hP hl hnone
    simp only [hP, hl, hnone, Option.map_some, Option.getD_some]
  obtain ⟨Q, hQ, himages⟩ := State.takeImages_images l hP htags
  refine ⟨_, Q, hstep, hQ, fun z hz hmem => ((himages z.2).1 hmem).2 z hz rfl, fun x hx hne => (himages x).2 ⟨hx, hne⟩, ?_⟩
  rintro u x rfl y hy
  obtain ⟨-, -, hteams⟩ := s.takeImage_leaves u x
  exact hteams y hy

/-- Settles O36, from what each event of a context's life on a tile does. -/
theorem contextSteps : Obligations.ContextSteps := ⟨parks, slotSteps, slices, restores⟩

end Sys2Proof.Machine
end

section
/-! PROOFS. Memory instructions at issue: what the issuing group keeps while its lanes' accesses are sent, the addresses that pass
their checks, and the end of the instruction. -/

namespace Sys2Proof.Machine
open Sys2Proof.Claims

/-! ## What the issuing group keeps -/

/-- The issuing group has changed in its records and walk answers alone; its registers' store and memory are as before. -/
structure Recorded (s u : State) : Prop where
  cur : u.cur = s.cur
  group : u.G = { s.G with out := u.G.out, walkAns := u.G.walkAns }
  store : u.T.store = s.T.store
  mem : u.mem = s.mem
  host : u.host = s.host

/-- The issuing group sees no difference: its registers, its records, its teams, memory and the fields are as before. -/
structure SameView (s u : State) : Prop where
  cur : u.cur = s.cur
  G : u.G = s.G
  store : u.T.store = s.T.store
  mem : u.mem = s.mem
  host : u.host = s.host
  team : ∀ i, u.T.team i = s.T.team i
  fields : u.fields = s.fields

theorem Recorded.refl (s : State) : Recorded s s := ⟨rfl, rfl, rfl, rfl, rfl⟩

theorem Recorded.trans {s t u : State} (h : Recorded s t) (k : Recorded t u) : Recorded s u where
  cur := k.cur.trans h.cur
  group := by rw [k.group, h.group]
  store := k.store.trans h.store
  mem := k.mem.trans h.mem
  host := k.host.trans h.host

theorem SameView.refl (s : State) : SameView s s := ⟨rfl, rfl, rfl, rfl, rfl, fun _ => rfl, rfl⟩

theorem SameView.trans {s t u : State} (h : SameView s t) (k : SameView t u) : SameView s u where
  cur := k.cur.trans h.cur
  G := k.G.trans h.G
  store := k.store.trans h.store
  mem := k.mem.trans h.mem
  host := k.host.trans h.host
  team i := (k.team i).trans (h.team i)
  fields := k.fields.trans h.fields

theorem SameView.recorded {s u : State} (h : SameView s u) : Recorded s u :=
  ⟨h.cur, by rw [h.G], h.store, h.mem, h.host⟩

theorem SameView.curTeam {s u : State} (h : SameView s u) : u.curTeam = s.curTeam := by
  rw [State.curTeam, State.curTeam, h.G, h.team]

theorem Counted.sameView {s u : State} (h : Counted s u) : SameView s u :=
  ⟨h.cur, h.G, h.T.store, h.mem, h.host, h.T.team, by rw [h.frame]⟩

theorem SameView.of_tiles {s u : State} (hc : u.cur = s.cur) (ht : u.tiles = s.tiles) (hm : u.mem = s.mem) (hh : u.host = s.host)
    (hf : u.fields = s.fields) : SameView s u := by
  have hT : u.T = s.T := by rw [State.T, State.T, State.tile_of_tiles ht, hc]
  exact ⟨hc, by rw [State.G, State.G, hT, hc], by rw [hT], hm, hh, fun i => by rw [hT], hf⟩

theorem State.send_sameView (s : State) (r : Req) (h : r.kind.isPeer = false) : SameView s (s.send r) := by
  obtain ⟨hf, -⟩ := s.send_leaves r h
  exact .of_tiles (by rw [hf]) (by rw [hf]) (by rw [hf]) (by rw [hf]) (by rw [hf])

theorem State.push_sameView (s : State) (l : List Instr) : SameView s (s.push l) := .of_tiles rfl rfl rfl rfl rfl

theorem State.modG_recorded (s : State) (f : Group → Group)
    (hf : f s.G = { s.G with out := (f s.G).out, walkAns := (f s.G).walkAns }) : Recorded s (s.modG f) := by
  have hG : (s.modG f).G = f s.G := s.modG_G f
  have ho : OnlyGroup s (s.modG f) := OnlyGroup.of_setG s (f s.G) s.due s.nextId
  exact ⟨rfl, by rw [hG]; exact hf, ho.store, rfl, rfl⟩

/-- Of the requests those of the group are the same. -/
theorem State.reqsOf_congr {s u : State} (hr : u.reqs = s.reqs) {t g : Nat}
    (hg : ((u.tile t).group g).gid = ((s.tile t).group g).gid) : u.reqsOf t g = s.reqsOf t g := by
  rw [State.reqsOf, State.reqsOf, hr, hg]

/-- The subset of a group that has changed in its records alone passes to the next word. -/
theorem Recorded.next_issued {s u : State} (h : Recorded s u) : Issued s u.next ∧ u.next.G.gang = s.G.gang ∧
    u.next.G.out = u.G.out ∧ u.next.G.gid = s.G.gid ∧ ∀ i, u.next.T.team i = u.T.team i := by
  have hG : u.next.G = u.G.advance s.cur.sub := by
    rw [← h.cur]
    exact u.modG_G _
  have ho : OnlyGroup u u.next := OnlyGroup.of_setG u _ u.due u.nextId
  have hgroup := h.group
  have hlane (l : Nat) (hl : l < 32) : u.next.G.lane l = if bit s.cur.sub l then (s.G.lane l).stepped else s.G.lane l := by
    have hul : u.G.lane l = s.G.lane l := by
      rw [hgroup]
      rfl
    rw [hG, Group.lane_advance _ _ _ hl, hul]
  have hframe := Group.advance_frame u.G s.cur.sub
  rw [← hG] at hframe
  refine ⟨⟨fun l hl => ?_, .of_lanes (ho.store.trans h.store) ?_ fun l hl => ?_, ⟨?_, ?_⟩, h.mem, h.host, ?_, ?_⟩,
    ?_, ?_, ?_, ho.team⟩
  · rw [hlane l hl]
  · rw [hframe, hgroup]
  · rw [hlane l hl]
    split <;> exact ⟨rfl, rfl, rfl, rfl⟩
  all_goals rw [hframe]
  all_goals rw [hgroup]

/-! ## Addresses that pass their checks -/

/-- The issuing group has taken the answers of its walks. -/
def State.heard (s : State) : State := s.modG fun g => { g with walkAns := [] }

theorem State.heard_G (s : State) : s.heard.G = { s.G with walkAns := [] } := s.modG_G _
theorem State.heard_T (s : State) : s.heard.T = s.T.setGroup s.cur.slot { s.G with walkAns := [] } := s.setG_T _
theorem State.heard_recorded (s : State) : Recorded s s.heard := s.modG_recorded _ rfl
theorem State.heard_team (s : State) (i : Nat) : s.heard.T.team i = s.T.team i := by rw [s.heard_T, Tile.team_setGroup]
theorem State.heard_curTeam (s : State) : s.heard.curTeam = s.curTeam := by
  rw [State.curTeam, State.curTeam, s.heard_team, s.heard_G]

theorem State.heard_reqsOf (s : State) : s.heard.reqsOf s.cur.tile s.cur.slot = s.reqsOf s.cur.tile s.cur.slot :=
  State.reqsOf_congr (s := s) (u := s.heard) rfl (show s.heard.G.gid = s.G.gid by rw [s.heard_G])

theorem State.heard_relOk (s : State) (sc : Scope) (upto : Nat) :
    s.heard.relOk s.cur.tile s.cur.slot sc upto = s.relOk s.cur.tile s.cur.slot sc upto := by
  have hrh : ((s.heard.tile s.cur.tile).group s.cur.slot).rh = ((s.tile s.cur.tile).group s.cur.slot).rh :=
    show s.heard.G.rh = s.G.rh by rw [s.heard_G]
  have hp (h : Nat) : s.heard.passed s.cur.tile h = s.passed s.cur.tile h := rfl
  unfold State.relOk
  rw [s.heard_reqsOf, hrh, hp]

theorem State.heard_src (s : State) (l : Nat) (r : Reg) (n : Nat) : s.heard.src l r n = s.src l r n := by
  have hreg (i j : Nat) : s.heard.reg i j = s.reg i j := by
    have ho : s.heard.G.oldVal (s.heard.cycle s.heard.cur.tile) i j = s.G.oldVal (s.cycle s.cur.tile) i j := by
      rw [s.heard_G]
      rfl
    have hv : s.heard.T.regNow s.heard.G i j = s.T.regNow s.G i j := by
      rw [s.heard_T, Tile.regNow_setGroup, s.heard_G]
      exact Tile.regNow_congr _ _ _ _ _ rfl rfl rfl rfl rfl
    unfold State.reg
    rw [ho, hv]
    rfl
  have hregs (i j n : Nat) : s.heard.regs i j n = s.regs i j n := by
    induction n generalizing j with
    | zero => rfl
    | succ n ih => rw [State.regs, State.regs, hreg, ih]
  unfold State.src
  cases r <;> simp only [hregs]

theorem Tile.setGroup_fixed (T : Tile) (g : Nat) (x : Group) : (T.setGroup g x).segs = T.segs ∧ (T.setGroup g x).l1 = T.l1 ∧
    (T.setGroup g x).badWords = T.badWords ∧ (T.setGroup g x).tableBad = T.tableBad := by
  unfold Tile.setGroup
  split <;> exact ⟨rfl, rfl, rfl, rfl⟩

/-- An address in plinth memory, or one in a scratchpad whose slabs have all come back. -/
def EA.Good (s : State) : EA → Prop
  | .mem va e => regionOf (e.phys va) = .plinth
  | .loc _ => s.T.segs = []
  | _ => False

/-- No lane waits for a walk. -/
theorem missing_eq_nil {s : State} {eas : List (Nat × EA)} (h : ∀ x ∈ eas, x.2.Good s) : missing eas = [] := by
  refine List.filterMap_eq_nil_iff.2 fun x hx => ?_
  have := h x hx
  generalize x.2 = ea at this ⊢
  cases ea with
  | miss va => exact this.elim
  | _ => rfl

/-- No lane faults. -/
theorem firstBad_eq_none {s : State} {eas : List (Nat × EA)} (h : ∀ x ∈ eas, x.2.Good s) : firstBad eas = none := by
  induction eas with
  | nil => rfl
  | cons x l ih =>
    obtain ⟨i, ea⟩ := x
    have hx := h _ List.mem_cons_self
    have hl := ih fun y hy => h y (List.mem_cons_of_mem _ hy)
    cases ea with
    | bad c k i j => exact hx.elim
    | _ => exact hl

/-- Where every lane's address is good the instruction goes on at once (R236). -/
theorem State.withAddrs_of_good {s : State} {eas : List (Nat × EA)} (h : ∀ x ∈ eas, x.2.Good s) (regs : List Reg) (kind : AccKind)
    (k : State → Res) : s.withAddrs regs kind eas k = k s.heard := by
  have hseg : s.heard.T.segs = s.T.segs := by rw [s.heard_T, (Tile.setGroup_fixed _ _ _).1]
  have haway : s.heard.slabAway eas = false := by
    refine List.any_eq_false.2 fun x hx => ?_
    have := h x hx
    generalize x.2 = ea at this ⊢
    cases ea with
    | loc off => simp [Tile.slabsHere, hseg, show s.T.segs = [] from this]
    | _ => exact Bool.false_ne_true
  unfold State.withAddrs
  rw [if_neg, missing_eq_nil h]
  · dsimp only
    rw [firstBad_eq_none h]
    dsimp only
    rw [if_neg, show s.modG (fun g => { g with walkAns := [] }) = s.heard from rfl, if_neg (by rw [haway]; exact Bool.false_ne_true)]
    refine fun hc => ?_
    obtain ⟨x, hx, hr⟩ := List.any_eq_true.1 hc
    have := h x hx
    generalize x.2 = ea at this hr
    cases ea with
    | mem va e => simp [show regionOf (e.phys va) = .plinth from this] at hr
    | _ => cases hr
  · refine fun hc => ?_
    obtain ⟨x, hx, hr⟩ := List.any_eq_true.1 (Bool.and_eq_true_iff.1 hc).2
    have := h x hx
    generalize x.2 = ea at this hr
    cases ea with
    | far p t i o => exact this.elim
    | bad c k i j => exact this.elim
    | _ => cases hr

theorem widthBytes_eq (w : Wd) : widthBytes w = wdBytes w := by cases w <;> rfl

/-- Registers of a load's destination (R165, R240). -/
theorem wdRegs_eq (w : Wd) : max 1 (wdBytes w / 4) = w.regs := by cases w <;> rfl

theorem wdBytes_pos (w : Wd) : 0 < wdBytes w := by cases w <;> decide

/-! ## The end of a memory instruction -/

/-- TCLK advances, and no more of the team changes (R98). -/
theorem State.tick_cases (s : State) : s.tick = s ∨ ∃ x k l, s.curTeam = some x ∧
    s.tick = s.modTile s.cur.tile fun T => T.setTeam { x with tclk := k, ticks := l } := by
  unfold State.tick
  cases h : s.curTeam with
  | none => exact .inl rfl
  | some x => exact .inr ⟨x, _, _, rfl, rfl⟩

/-- A team but for its clock. -/
def Team.timed (x : Team) (k : Nat) (l : List Nat) : Team := { x with tclk := k, ticks := l }

theorem State.tick_leaves (s : State) : Recorded s s.tick ∧ s.tick.G = s.G ∧ s.tick.reqs = s.reqs ∧ s.tick.teamData = s.teamData ∧
    ∀ x, s.curTeam = some x → ∃ k l, s.tick.curTeam = some (x.timed k l) := by
  rcases s.tick_cases with h | ⟨x, k, l, hx, h⟩
  · rw [h]
    exact ⟨.refl s, rfl, rfl, rfl, fun x hx => ⟨x.tclk, x.ticks, hx⟩⟩
  have hT : s.tick.T = s.T.setTeam (x.timed k l) := by
    rw [h]
    exact (s.tile_modTile _ _ _).trans (if_pos rfl)
  have hcur : s.tick.cur = s.cur := by rw [h]; rfl
  have hG : s.tick.G = s.G := by rw [State.G, hT, Tile.group_setTeam, hcur]; rfl
  have hteam : ∃ i j, s.tick.curTeam = some (x.timed i j) := by
    rw [State.curTeam, hG, hT, Tile.team_setTeam]
    split
    · exact ⟨k, l, rfl⟩
    · exact ⟨x.tclk, x.ticks, hx⟩
  refine ⟨⟨hcur, by rw [hG], by rw [hT, Tile.store_setTeam], by rw [h]; rfl, by rw [h]; rfl⟩, hG, by rw [h]; rfl, ?_, fun y hy => ?_⟩
  · obtain ⟨i, j, hij⟩ := hteam
    rw [State.teamData, State.teamData, hij, hx]
    rfl
  · rw [hx] at hy
    exact Option.some.inj hy ▸ hteam

/-- The state in which a memory instruction has entered its record and its lanes' accesses begin. -/
def State.memBegun (s : State) (o : OutInst) : State := s.heard.issueOut o

theorem State.memBegun_G (s : State) (o : OutInst) : (s.memBegun o).G = s.heard.G.record o := s.heard.issueOut_G o

theorem State.issueOut_recorded (s : State) (o : OutInst) : Recorded s (s.issueOut o) :=
  (s.modG_recorded (fun g => g.record o) rfl).trans
    (SameView.of_tiles (s := s.modG fun g => g.record o) (u := s.issueOut o) rfl rfl rfl rfl rfl).recorded

theorem State.memBegun_recorded (s : State) (o : OutInst) : Recorded s (s.memBegun o) :=
  s.heard_recorded.trans (s.heard.issueOut_recorded o)

theorem State.memBegun_only (s : State) (o : OutInst) : OnlyGroup s (s.memBegun o) :=
  (OnlyGroup.of_setG s { s.G with walkAns := [] } s.due s.nextId).issueOut o

theorem State.memBegun_curTeam (s : State) (o : OutInst) : (s.memBegun o).curTeam = s.curTeam := by
  have hg : (s.memBegun o).G.team = s.G.team := by rw [(s.memBegun_recorded o).group]
  rw [State.curTeam, State.curTeam, (s.memBegun_only o).team, hg]

/-- The record of the instruction holds the writes made so far and the operations outstanding. -/
theorem Group.mem_outMod_record (g : Group) (o : OutInst) (f : OutInst → OutInst) : f o ∈ ((g.record o).outMod o.iid f).out := by
  refine List.mem_map.2 ⟨o, List.mem_append_right _ (List.mem_singleton.2 rfl), if_pos rfl⟩

/-- What the end of a memory instruction leaves that has not held its subset (R156): the subset stands at the next word, the record
counts the operations, and requests are as they were; the team has ticked. -/
structure Ends (s : State) (a : Acc) (t : State) : Prop where
  issued : Issued s t
  gang : t.G.gang = s.G.gang
  gid : t.G.gid = s.G.gid
  cur : t.cur = s.cur
  out : ∃ o ∈ t.G.out, o.iid = s.nextId ∧ o.rem = a.n ∧ o.res = a.ws
  reqs : t.reqs = a.s.reqs
  data : t.teamData = a.s.teamData
  team : ∀ x, a.s.curTeam = some x → ∃ k l, t.curTeam = some (x.timed k l)

theorem State.memEnd_ends {s : State} {o : OutInst} {a : Acc} (ho : o.iid = s.nextId) (hr : Recorded (s.memBegun o) a.s)
    (hout : a.s.G.out = (s.memBegun o).G.out) (dst : List (Nat × Nat)) : Ends s a (s.heard.memEnd s.nextId a dst false) := by
  set f : OutInst → OutInst := fun o => { o with rem := a.n, res := a.ws, dst := dst } with hf
  set u := a.s.modG fun g => g.outMod s.nextId f with hu
  have hur : Recorded a.s u := a.s.modG_recorded _ rfl
  have hun : OnlyGroup a.s u := OnlyGroup.of_setG a.s _ a.s.due a.s.nextId
  have huteam : u.curTeam = a.s.curTeam := by
    rw [State.curTeam, State.curTeam, hun.team, hur.group]
  obtain ⟨hv, hvG, hvreqs, hvdata, hvteam⟩ := u.tick_leaves
  set v := u.tick with hv0
  obtain ⟨w, hw, hwv, hwreqs⟩ : ∃ w, s.heard.memEnd s.nextId a dst false = w.next ∧ SameView v w ∧ w.reqs = v.reqs := by
    by_cases hn : a.n = 0
    · refine ⟨v.push [.instructionComplete s.heard.cur.tile s.heard.cur.slot s.nextId], ?_, v.push_sameView _, rfl⟩
      simp only [State.memEnd, hn, if_true, Bool.false_and, Bool.false_eq_true, if_false]
      simp only [hv0, hu, hf, hn]
    · refine ⟨v, ?_, .refl v, rfl⟩
      simp only [State.memEnd, hn, if_false, Bool.false_and, Bool.false_eq_true]
      rfl
  have hrec : Recorded s w := (((s.memBegun_recorded o).trans hr).trans hur).trans (hv.trans hwv.recorded)
  obtain ⟨hissued, hgang, hnout, hgid, hnteam⟩ := hrec.next_issued
  have hteam : w.next.curTeam = v.curTeam := by
    have hg : w.next.G.team = s.G.team := by
      have := Group.advance_frame w.G w.cur.sub
      rw [State.next, State.modG_G, this, hrec.group]
    have hgv : v.G.team = s.G.team := by rw [← hwv.G, hrec.group]
    rw [State.curTeam, State.curTeam, hnteam, hwv.team, hg, hgv]
  rw [hw]
  refine ⟨hissued, hgang, hgid, hrec.cur, ⟨f o, ?_, ho, rfl, rfl⟩, ?_, ?_, fun x hx => ?_⟩
  · have hG : u.G.out = ((s.heard.G.record o).outMod o.iid f).out := by
      rw [hu, State.modG_G, ho]
      unfold Group.outMod
      rw [hout, s.memBegun_G]
    rw [hnout, hwv.G, hvG, hG]
    exact Group.mem_outMod_record _ _ _
  · exact hwreqs.trans hvreqs
  · rw [State.teamData, hteam, ← State.teamData, hvdata, State.teamData, huteam, ← State.teamData]
  · rw [hteam]
    exact hvteam x (huteam.trans hx)

theorem Ends.steady {s t : State} {a : Acc} (h : Ends s a t) (hd : a.s.teamData = s.teamData) : IssuedOnly s t := by
  obtain ⟨-, -, hf, hm, hh, hx, hxs⟩ := h.issued
  exact ⟨h.issued, ⟨hm, hh, h.gang, hx, hxs, h.data.trans hd⟩, hf⟩

end Sys2Proof.Machine
end

section
/-! PROOFS. Accesses that leave their tile as requests: what a lane's request leaves, and from it the statements on loads, stores
and prefetches at issue. -/

namespace Sys2Proof.Machine
open Sys2Proof.Claims

/-! ## Requests of a memory instruction -/

/-- A request of these data has been sent and is not yet performed; its identifier is one that has been given out. -/
def Listed (u : State) (lane iid va pa size : Nat) (k : ReqKind) : Prop :=
  ∃ id < u.nextId, ∃ q, u.req id = some q ∧ q.lane = lane ∧ q.iid = iid ∧ q.va = va ∧ q.pa = pa ∧ q.size = size ∧ q.kind = k ∧
    q.perf = false

theorem Listed.inFlight {u t : State} {lane iid va pa size : Nat} {k : ReqKind} (h : Listed u lane iid va pa size k)
    (ht : t.reqs = u.reqs) : InFlight t lane iid va pa size k := by
  obtain ⟨id, -, q, hq, hrest⟩ := h
  exact ⟨id, q, by rw [ht]; exact hq, hrest⟩

theorem Listed.of_send {u : State} {lane iid va pa size : Nat} {k : ReqKind} (h : Listed u lane iid va pa size k) {r : Req}
    (hr : r.kind.isPeer = false) : Listed (u.send r) lane iid va pa size k := by
  obtain ⟨id, hid, q, hq, hrest⟩ := h
  obtain ⟨hf, -⟩ := u.send_leaves r hr
  refine ⟨id, by rw [hf]; exact Nat.lt_succ_of_lt hid, q, ?_, hrest⟩
  rw [State.req, hf]
  exact (amGet_amSet_other u.reqs u.nextId id r (Nat.ne_of_lt hid)).trans hq

/-- One request more has been sent, of these data, and the issuing group sees no difference. -/
structure Sends (s t : State) (lane iid va pa size : Nat) (k : ReqKind) : Prop where
  view : SameView s t
  nextId : t.nextId = s.nextId + 1
  listed : Listed t lane iid va pa size k
  keeps : ∀ {l i v p z j}, Listed s l i v p z j → Listed t l i v p z j
  reqs : ∃ r, t.reqs = amSet s.reqs s.nextId r ∧ r.kind = k

/-- A lane's request, sent from a state in which the group sees no difference. -/
theorem sends_of_send {s v : State} (hv : SameView s v) (hr : v.reqs = s.reqs) (hn : v.nextId = s.nextId) {k : ReqKind}
    (hk : k.isPeer = false) (lane iid va pa size d : Nat) (vol noAlloc : Bool) (dst : Option Reg) :
    Sends s (v.send (v.mkReq lane iid k va pa size d vol noAlloc dst)) lane iid va pa size k := by
  set r := v.mkReq lane iid k va pa size d vol noAlloc dst with hr0
  have hp : r.kind.isPeer = false := hk
  obtain ⟨hf, -⟩ := v.send_leaves r hp
  have hnext : (v.send r).nextId = v.nextId + 1 := by rw [hf]
  refine ⟨hv.trans (v.send_sameView r hp), by rw [hnext, hn], ?_, fun h => Listed.of_send ?_ hp, r, ?_, rfl⟩
  · refine ⟨v.nextId, by rw [hnext]; exact Nat.lt_succ_self _, r, ?_, rfl, rfl, rfl, rfl, rfl, rfl, rfl⟩
    rw [State.req, hf]
    exact amGet_amSet_same _ _ _
  · obtain ⟨id, hid, q, hq, hrest⟩ := h
    exact ⟨id, by rwa [hn], q, by rw [State.req, hr]; exact hq, hrest⟩
  · rw [hf, hn, hr]

/-- Lanes that each send one request: at the end every one is listed, and the group sees no difference. -/
theorem foldl_sends {α : Type} {st : α → State} {f : α → Nat → α} {P : α → Prop} {ls : List Nat} {iid size : Nat}
    {lane va pa : Nat → Nat} {k : Nat → ReqKind}
    (hf : ∀ a, ∀ l ∈ ls, P a → P (f a l) ∧ Sends (st a) (st (f a l)) (lane l) iid (va l) (pa l) size (k l)) {a : α} (ha : P a) :
    let b := ls.foldl f a
    P b ∧ SameView (st a) (st b) ∧ (st b).nextId = (st a).nextId + ls.length ∧
      (∀ l ∈ ls, Listed (st b) (lane l) iid (va l) (pa l) size (k l)) ∧
      ∀ {l i v p z j}, Listed (st a) l i v p z j → Listed (st b) l i v p z j := by
  induction ls generalizing a with
  | nil => exact ⟨ha, .refl _, rfl, fun _ h => absurd h List.not_mem_nil, fun h => h⟩
  | cons l ls ih =>
    obtain ⟨hp, hs⟩ := hf a l List.mem_cons_self ha
    obtain ⟨hP, hview, hnext, hlisted, hkeeps⟩ := ih (fun a m hm => hf a m (List.mem_cons_of_mem _ hm)) hp
    refine ⟨hP, hs.view.trans hview, ?_, fun m hm => ?_, fun h => hkeeps (hs.keeps h)⟩
    · rw [List.foldl_cons, hnext, hs.nextId, List.length_cons]
      omega
    · rcases List.mem_cons.1 hm with rfl | hm
      · exact hkeeps hs.listed
      · exact hlisted m hm

theorem State.countU_counted (s : State) (ev n : Nat) : Counted s (s.countU ev n) := by
  unfold State.countU
  split
  · exact s.count_counted _ _ _
  · exact .refl s

theorem Counted.fixed {s u : State} (h : Counted s u) : u.T.l1 = s.T.l1 ∧ u.reqs = s.reqs ∧ u.nextId = s.nextId :=
  ⟨by rw [h.T.rest], h.reqs, h.nextId⟩

theorem SameView.field {s u : State} (h : SameView s u) (f : Nat) : u.field f = s.field f := by
  rw [State.field, State.field, h.fields]

theorem State.send_T (s : State) {r : Req} (h : r.kind.isPeer = false) : (s.send r).T = s.T := by
  obtain ⟨hf, -⟩ := s.send_leaves r h
  rw [State.T, State.tile_of_tiles (s := s) (by rw [hf]), (s.send_sameView r h).cur]
  rfl

/-- An access through no window and no device page is volatile where its instruction or its page says so. -/
theorem isVol_plinth {m : Bool} {e : TlbEnt} {pa : Nat} (h : regionOf pa = .plinth) : isVol m e pa = (m || e.dev) := by
  unfold isVol
  rw [h]
  exact Bool.or_false _

/-! ## Loads from the own scratchpad -/

theorem exec_ld (x : LdR) (s : State) : exec (.ld x) s = execLd x s := rfl
theorem exec_st (x : StR) (s : State) : exec (.st x) s = execSt x s := rfl
theorem exec_pref (x : PrefR) (s : State) : exec (.pref x) s = execPref x s := rfl

/-- The scope of a load's acquire. -/
def ldAcquire (x : LdR) : Option Scope :=
  match x.ord with
  | .acq sc => some sc
  | _ => none

/-- The addresses of a load's lanes. -/
def State.ldAddrs (s : State) (x : LdR) : List (Nat × EA) :=
  (s.memLanes x.c [x.d, x.a]).map fun l => (l, s.eaOf x.m .read (wdBytes x.w) x.a l)

/-- The lanes under which a load's accesses are listed. -/
def State.ldLanes (s : State) (x : LdR) : List Nat := (s.memLanes x.c [x.d, x.a]).map (accLane [x.d, x.a])

/-- The record that a load enters. -/
def State.ldEntry (s : State) (x : LdR) : OutInst := { s.heard.outInst x.c with rem := 1, kind := 64 }

/-- One lane's load. -/
def State.ldLane (s : State) (x : LdR) (a : Acc) (l : Nat) : Acc :=
  a.ld (accLane [x.d, x.a] l) s.nextId x.reuse.val (wdBytes x.w) (x.ord == .vol) x.d (s.eaOf x.m .read (wdBytes x.w) x.a l)

/-- The lanes' loads one after the other, with their record entered. -/
def State.ldAcc (s : State) (x : LdR) : Acc :=
  (s.memLanes x.c [x.d, x.a]).foldl (s.ldLane x) { s := s.memBegun (s.ldEntry x) }

/-- A load whose addresses are good, that nothing holds and that cannot trap any more. -/
structure LdReady (s : State) (x : LdR) : Prop where
  good : ∀ y ∈ s.ldAddrs x, y.2.Good s
  traps : s.heard.mayTrap (s.ldAddrs x) (wdBytes x.w) = false
  vol : anyVol (x.ord == .vol) (s.ldAddrs x) = true → s.heard.volBusy (s.ldLanes x) = false
  early : s.heard.hitsEarly (s.ldLanes x) x.reuse.val (x.ord == .vol) (s.ldAddrs x) = false
  ecc : s.heard.spEcc (s.ldAddrs x) (wdBytes x.w) = none

/-- The state after such a load: its lanes' accesses are performed and its subset has passed, or waits for its acquire. -/
def State.ldDone (s : State) (x : LdR) : State :=
  (s.heard.memEnd s.nextId (s.ldAcc x) (dstCodes (s.ldLanes x) x.d (max 1 (wdBytes x.w / 4))) false).withAcquire (ldAcquire x) s.cur.sub

theorem LdReady.runs {s : State} {x : LdR} (h : LdReady s x) : exec (.ld x) s = .next (s.ldDone x) := by
  have hidle : ¬ ((anyVol (x.ord == .vol) (s.ldAddrs x) && s.heard.volBusy (s.ldLanes x)) || s.heard.acqBusy (ldAcquire x) false ||
      s.heard.hitsEarly (s.ldLanes x) x.reuse.val (x.ord == .vol) (s.ldAddrs x)) = true := by
    rw [h.early, Bool.or_false, show s.heard.acqBusy (ldAcquire x) false = false from rfl, Bool.or_false]
    cases hv : anyVol (x.ord == .vol) (s.ldAddrs x) with
    | false => exact Bool.false_ne_true
    | true => rw [h.vol hv]; exact Bool.false_ne_true
  rw [exec_ld]
  unfold execLd
  extract_lets regs n ls eas vol acq
  refine (State.withAddrs_of_good h.good regs .read _).trans ?_
  extract_lets held
  have hheld : held = false := h.traps
  clear_value held
  subst hheld
  refine (if_neg hidle).trans ?_
  have hecc : s.heard.spEcc eas n = none := h.ecc
  have hfold : s.ldAcc x = _ := (List.foldl_map (f := fun l => (l, s.eaOf x.m .read n x.a l)) (l := ls)
    (g := fun (a : Acc) y => a.ld (accLane regs y.1) s.nextId x.reuse.val n vol x.d y.2)).symm
  rw [hecc, State.ldDone, hfold]
  rfl

/-- No request of the group is in flight where none was and the group has kept its number. -/
theorem quiet_of_eq {s t : State} (h : Claims.Quiet s) (hc : t.cur = s.cur) (hr : t.reqs = s.reqs) (hg : t.G.gid = s.G.gid) :
    Claims.Quiet t := by
  have hg' : ((t.tile s.cur.tile).group s.cur.slot).gid = ((s.tile s.cur.tile).group s.cur.slot).gid := by
    rw [State.G, State.T, hc] at hg
    exact hg
  rw [Claims.Quiet, hc, State.reqsOf_congr hr hg']
  exact h

theorem State.volBusy_of_quiet {s : State} (h : Claims.Quiet s) (lanes : List Nat) : s.volBusy lanes = false := by
  rw [State.volBusy, h]
  rfl

theorem State.heard_quiet {s : State} (h : Claims.Quiet s) : Claims.Quiet s.heard :=
  quiet_of_eq h rfl rfl (by rw [s.heard_G])

theorem State.withAcquire_of_quiet {t : State} {acq : Option Scope} (h : acq ≠ none → Claims.Quiet t) (lanes : BitVec 32) :
    t.withAcquire acq lanes = t := by
  cases acq with
  | none => rfl
  | some sc =>
    have hq : t.reqsOf t.cur.tile t.cur.slot = [] := h (Option.some_ne_none _)
    refine if_pos ?_
    rw [State.acqOk, hq]
    rfl

theorem ldAcquire_ne_none {x : LdR} (h : ldAcquire x ≠ none) : ∃ sc, x.ord = .acq sc := by
  unfold ldAcquire at h
  split at h
  · next sc e => exact ⟨sc, e⟩
  · exact absurd rfl h

/-- The writes of a load whose lanes read their team's scratchpad at these offsets. -/
def ldWrites (x : LdR) (y : Team) (off : Nat → Nat) (ls : List Nat) : List (Nat × Nat × W32) :=
  ls.flatMap fun l => spread (accLane [x.d, x.a] l) x.d x.w.regs (y.spRead (off l) (wdBytes x.w))

/-- Loads of the own scratchpad send nothing: each lane's writes join those before (R240). -/
theorem State.foldl_ldLane_loc {s : State} {x : LdR} {y : Team} {off : Nat → Nat} {ls : List Nat}
    (hea : ∀ l ∈ ls, s.eaOf x.m .read (wdBytes x.w) x.a l = .loc (off l)) {a : Acc} (hy : a.s.curTeam = some y) :
    ls.foldl (s.ldLane x) a = { a with ws := a.ws ++ ldWrites x y off ls } := by
  induction ls generalizing a with
  | nil => simp [ldWrites]
  | cons l ls ih =>
    have hl : s.ldLane x a l = { a with ws := a.ws ++ ldWrites x y off [l] } := by
      rw [State.ldLane, hea l List.mem_cons_self, Acc.ld, hy, ldWrites, List.flatMap_singleton, ← wdRegs_eq]
      rfl
    have hws : ldWrites x y off (l :: ls) = ldWrites x y off [l] ++ ldWrites x y off ls := by simp [ldWrites]
    rw [List.foldl_cons, hl, ih (fun m hm => hea m (List.mem_cons_of_mem _ hm)) (a := { a with ws := a.ws ++ ldWrites x y off [l] }) hy,
      hws, List.append_assoc]

theorem LdReady.of_local {x : LdR} {s : State} {off : Nat → Nat}
    (hea : ∀ l ∈ s.memLanes x.c [x.d, x.a], s.eaOf x.m .read (wdBytes x.w) x.a l = .loc (off l) ∧
      s.T.badSp s.G.team (off l) (wdBytes x.w) = false)
    (hsegs : s.T.segs = []) (hq : x.ord ≠ .plain → Claims.Quiet s) : LdReady s x := by
  have hloc : ∀ y ∈ s.ldAddrs x, ∃ o, y.2 = .loc o ∧ s.T.badSp s.G.team o (wdBytes x.w) = false := by
    intro y hy
    obtain ⟨l, hl, rfl⟩ := List.mem_map.1 hy
    exact ⟨off l, hea l hl⟩
  refine ⟨fun y hy => ?_, List.any_eq_false.2 fun y hy => ?_, fun hv => ?_, ?_, ?_⟩
  · obtain ⟨o, ho, -⟩ := hloc y hy
    rw [ho]
    exact hsegs
  · obtain ⟨o, ho, -⟩ := hloc y hy
    rw [ho]
    exact Bool.false_ne_true
  · refine State.volBusy_of_quiet (State.heard_quiet (hq fun hp => ?_)) _
    obtain ⟨y, hy, hr⟩ := List.any_eq_true.1 hv
    obtain ⟨o, ho, -⟩ := hloc y hy
    rw [ho, hp] at hr
    cases hr
  · refine Bool.and_eq_false_imp.2 fun _ => List.any_eq_false.2 fun y hy => ?_
    obtain ⟨o, ho, -⟩ := hloc y hy
    rw [ho]
    exact Bool.false_ne_true
  · refine Option.map_eq_none_iff.2 (List.find?_eq_none.2 fun y hy => ?_)
    obtain ⟨o, ho, hb⟩ := hloc y hy
    have hbad : s.heard.T.badSp s.heard.G.team o (wdBytes x.w) = s.T.badSp s.G.team o (wdBytes x.w) := by
      rw [Tile.badSp, s.heard_T, (Tile.setGroup_fixed _ _ _).2.2.1, s.heard_G]
      rfl
    rw [ho]
    dsimp only
    rw [hbad, hb]
    exact Bool.false_ne_true

theorem loadLocal : LoadLocal := by
  intro nv x s y off _ _ hy hea hsegs hq
  simp only [widthBytes_eq] at hea ⊢
  have hready := LdReady.of_local hea hsegs hq
  have hacc : s.ldAcc x = { s := s.memBegun (s.ldEntry x), ws := ldWrites x y off (s.memLanes x.c [x.d, x.a]), n := 0 } := by
    exact State.foldl_ldLane_loc (fun l hl => (hea l hl).1) ((s.memBegun_curTeam _).trans hy)
  have hends := State.memEnd_ends (s := s) (o := s.ldEntry x) (a := s.ldAcc x) rfl (by rw [hacc]; exact .refl _) (by rw [hacc])
    (dstCodes (s.ldLanes x) x.d (max 1 (wdBytes x.w / 4)))
  have hdone : s.ldDone x = s.heard.memEnd s.nextId (s.ldAcc x) (dstCodes (s.ldLanes x) x.d (max 1 (wdBytes x.w / 4))) false := by
    refine State.withAcquire_of_quiet (fun h => ?_) _
    obtain ⟨sc, hsc⟩ := ldAcquire_ne_none h
    exact quiet_of_eq (hq (by rw [hsc]; exact LdOrd.noConfusion)) hends.cur (by rw [hends.reqs, hacc]; rfl) hends.gid
  have hdata : (s.ldAcc x).s.teamData = s.teamData := by
    rw [hacc, State.teamData, s.memBegun_curTeam]
    rfl
  rw [← hdone] at hends
  obtain ⟨o, ho, hiid, hrem, hres⟩ := hends.out
  exact ⟨_, hready.runs, hends.steady hdata, o, ho, hiid, by rw [hrem, hacc], by rw [hres, hacc]; rfl⟩

/-! ## Loads from plinth memory -/

/-- The group has no store in flight. -/
def NoStores (s : State) : Prop := ∀ q ∈ s.reqsOf s.cur.tile s.cur.slot, ∀ v, q.2.kind ≠ .store v

/-- Where the group has no store in flight, none gives its bytes to a load (R108). -/
theorem State.forwarded_eq_none {s : State} (h : NoStores s) (lane pa : Nat) {n : Nat} (hn : 0 < n) :
    s.forwarded lane pa n = none := by
  have hown (m : BitVec 32) (a : Nat) : s.ownByte m a = none := by
    unfold State.ownByte
    refine List.foldlRecOn (motive := (· = none)) _ _ rfl fun o ho q hq => ?_
    have := h q hq
    generalize q.2.kind = k at this
    cases k with
    | store v => exact absurd rfl (this v)
    | _ => exact ho
  obtain ⟨k, rfl⟩ := Nat.exists_eq_succ_of_ne_zero hn.ne'
  rw [State.forwarded, List.range_succ_eq_map, List.foldr_cons, hown]

/-- A load of one lane from plinth memory that no L1 line and no store in flight answers is sent (R93, R108). -/
theorem Acc.load_sends {a : Acc} {va n : Nat} {e : TlbEnt} (hr : regionOf (e.phys va) = .plinth) (hl1 : a.s.T.l1 = [])
    (hold : (a.s.field (fieldOf a.s.cur.tile)).hold = false) (hst : NoStores a.s) (hn : 0 < n) (lane iid d : Nat) (vol : Bool)
    (dst : Reg) : ∃ s', a.load lane iid d n vol dst va e = { a with s := s', n := a.n + 1 } ∧
      Sends a.s s' lane iid va (e.phys va) n (.load (decide (d ≠ 0) && !vol && !e.dev)) ∧ s'.T.l1 = [] := by
  set pa := e.phys va with hpa
  set d' := if vol || e.dev then 0 else d with hd'
  have hkind : (d' != 0) = (decide (d ≠ 0) && !vol && !e.dev) := by
    rw [hd']
    cases vol <;> cases e.dev <;> simp [bne, beq_eq_decide]
  set v := if d' = 0 then a.s else a.s.countU 5 1 with hv
  have hcounted : Counted a.s v := by
    rw [hv]
    split
    · exact .refl _
    · exact a.s.countU_counted 5 1
  obtain ⟨hvl1, hvreqs, hvnext⟩ := hcounted.fixed
  have hvst : NoStores v := by
    have hg : ((v.tile a.s.cur.tile).group a.s.cur.slot).gid = ((a.s.tile a.s.cur.tile).group a.s.cur.slot).gid := by
      rw [(hcounted.tile _).group]
    rw [NoStores, hcounted.cur, State.reqsOf_congr hvreqs hg]
    exact hst
  have hrun : a.load lane iid d n vol dst va e = { a with
      s := v.send (v.mkReq lane iid (.load (d' != 0)) va pa n d' (vol || e.dev) (vol || e.dev) (some dst)), n := a.n + 1 } := by
    have hvol : isVol vol e pa = (vol || e.dev) := isVol_plinth hr
    have hd : (if (vol || e.dev) || (a.s.field (fieldOf a.s.cur.tile)).hold then 0 else d) = d' := by rw [hold, Bool.or_false]
    have hfind : a.s.T.l1Find (a.s.tileTime a.s.cur.tile) (pa / 128) = none := by rw [Tile.l1Find, hl1]; rfl
    have hfwd : (if (vol || e.dev) = true then none else v.forwarded lane pa n) = none := by
      rw [State.forwarded_eq_none hvst _ _ hn, ite_self]
    unfold Acc.load
    simp only [← hpa, hr, hvol, hd, hfind, ite_self, ← hv, hfwd]
  refine ⟨_, hrun, hkind ▸ sends_of_send hcounted.sameView hvreqs hvnext rfl _ _ _ _ _ _ _ _ _, ?_⟩
  rw [v.send_T rfl, hvl1, hl1]

/-- What the lanes' loads find of the state before them: no line, no skew hold and no store of the group. -/
structure Unanswered (u : State) : Prop where
  l1 : u.T.l1 = []
  hold : (u.field (fieldOf u.cur.tile)).hold = false
  stores : NoStores u

theorem Unanswered.sends {s t : State} (h : Unanswered s) {lane iid va pa size : Nat} {b : Bool}
    (hs : Sends s t lane iid va pa size (.load b)) (hl1 : t.T.l1 = []) : Unanswered t := by
  obtain ⟨r, hr, hk⟩ := hs.reqs
  have hg : ((t.tile s.cur.tile).group s.cur.slot) = s.G := by
    have hG := hs.view.G
    rwa [State.G, State.T, hs.view.cur] at hG
  refine ⟨hl1, by rw [hs.view.field, hs.view.cur]; exact h.hold, fun q hq v hv => ?_⟩
  rw [hs.view.cur] at hq
  obtain ⟨hmem, hmine⟩ := List.mem_filter.1 hq
  rw [hr] at hmem
  rcases mem_amSet _ _ _ _ hmem with rfl | hmem
  · rw [hk] at hv
    cases hv
  · rw [hg] at hmine
    exact h.stores q (List.mem_filter.2 ⟨hmem, hmine⟩) v hv

theorem LdReady.of_global {x : LdR} {s : State} {va : Nat → Nat} {e : Nat → TlbEnt} (hq : Claims.Quiet s) (hl1 : s.T.l1 = [])
    (hea : ∀ l ∈ s.memLanes x.c [x.d, x.a], s.eaOf x.m .read (wdBytes x.w) x.a l = .mem (va l) (e l) ∧
      regionOf ((e l).phys (va l)) = .plinth ∧ s.poisoned ((e l).phys (va l)) (wdBytes x.w) = false) : LdReady s x := by
  have hmem : ∀ y ∈ s.ldAddrs x, ∃ a t, y.2 = .mem a t ∧ regionOf (t.phys a) = .plinth ∧
      s.poisoned (t.phys a) (wdBytes x.w) = false := by
    intro y hy
    obtain ⟨l, hl, rfl⟩ := List.mem_map.1 hy
    exact ⟨va l, e l, hea l hl⟩
  refine ⟨fun y hy => ?_, List.any_eq_false.2 fun y hy => ?_, fun _ => State.volBusy_of_quiet (State.heard_quiet hq) _, ?_, ?_⟩
  · obtain ⟨a, t, hy, hr, -⟩ := hmem y hy
    rw [hy]
    exact hr
  · obtain ⟨a, t, hy, hr, hp⟩ := hmem y hy
    rw [hy]
    dsimp only
    rw [hr]
    exact (Bool.eq_false_iff.1 hp)
  · refine Bool.and_eq_false_imp.2 fun _ => List.any_eq_false.2 fun y hy => ?_
    obtain ⟨a, t, hy, -⟩ := hmem y hy
    have hfind (i j : Nat) : s.heard.T.l1Find i j = none := by
      rw [Tile.l1Find, s.heard_T, (Tile.setGroup_fixed _ _ _).2.1, hl1]
      rfl
    rw [hy]
    dsimp only
    rw [hfind]
    simp
  · refine Option.map_eq_none_iff.2 (List.find?_eq_none.2 fun y hy => ?_)
    obtain ⟨a, t, hy, -⟩ := hmem y hy
    rw [hy]
    exact Bool.false_ne_true

theorem State.memBegun_fixed (s : State) (o : OutInst) : (s.memBegun o).reqs = s.reqs ∧ (s.memBegun o).nextId = s.nextId + 1 ∧
    (s.memBegun o).T.l1 = s.T.l1 ∧ (s.memBegun o).teamData = s.teamData := by
  refine ⟨rfl, rfl, ?_, ?_⟩
  · rw [(s.memBegun_only o).T, (Tile.setGroup_fixed _ _ _).2.1]
  · rw [State.teamData, s.memBegun_curTeam]
    rfl

theorem State.memBegun_quiet {s : State} (h : Claims.Quiet s) (o : OutInst) : Claims.Quiet (s.memBegun o) :=
  quiet_of_eq h rfl rfl (by rw [(s.memBegun_recorded o).group])

theorem noStores_of_quiet {s : State} (h : Claims.Quiet s) : NoStores s := fun q hq => by
  rw [h] at hq
  cases hq

theorem SameView.teamData {s t : State} (h : SameView s t) : t.teamData = s.teamData := by
  rw [State.teamData, State.teamData, h.curTeam]

theorem loadGlobal : LoadGlobal := by
  intro x s va e hq hl1 hacq hhold hea
  simp only [widthBytes_eq] at hea ⊢
  set ls := s.memLanes x.c [x.d, x.a] with hls
  have hready : LdReady s x := .of_global hq hl1 hea
  set u := s.memBegun (s.ldEntry x) with hu
  obtain ⟨-, -, hul1, hudata⟩ := s.memBegun_fixed (s.ldEntry x)
  have hstep (a : Acc) (l : Nat) (hl : l ∈ ls) (ha : Unanswered a.s ∧ a.s.nextId = u.nextId + a.n) :
      let b := s.ldLane x a l
      (Unanswered b.s ∧ b.s.nextId = u.nextId + b.n) ∧ Sends a.s b.s (accLane [x.d, x.a] l) s.nextId (va l) ((e l).phys (va l))
        (wdBytes x.w) (.load (decide (x.reuse.val ≠ 0) && !(x.ord == .vol) && !(e l).dev)) := by
    obtain ⟨hun, hn⟩ := ha
    obtain ⟨hal, hr, -⟩ := hea l hl
    obtain ⟨v, hv, hsends, hvl1⟩ := a.load_sends hr hun.l1 hun.hold hun.stores (wdBytes_pos x.w) (accLane [x.d, x.a] l) s.nextId
      x.reuse.val (x.ord == .vol) x.d
    have hrun : s.ldLane x a l = { a with s := v, n := a.n + 1 } := by rw [State.ldLane, hal, Acc.ld, hv]
    rw [hrun]
    exact ⟨⟨hun.sends hsends hvl1, hsends.nextId.trans (congrArg (· + 1) hn)⟩, hsends⟩
  have hbegin : Unanswered u ∧ u.nextId = u.nextId + 0 := ⟨⟨hul1.trans hl1, hhold, noStores_of_quiet (State.memBegun_quiet hq _)⟩, rfl⟩
  obtain ⟨⟨-, hn⟩, hview, hnext, hlisted, -⟩ := foldl_sends (st := Acc.s) (f := s.ldLane x) hstep (a := { s := u }) hbegin
  have hends := State.memEnd_ends (s := s) (o := s.ldEntry x) (a := s.ldAcc x) rfl hview.recorded (by rw [← hview.G]; rfl)
    (dstCodes (s.ldLanes x) x.d (max 1 (wdBytes x.w / 4)))
  have hdone : s.ldDone x = s.heard.memEnd s.nextId (s.ldAcc x) (dstCodes (s.ldLanes x) x.d (max 1 (wdBytes x.w / 4))) false := by
    refine State.withAcquire_of_quiet (fun h => ?_) _
    obtain ⟨sc, hsc⟩ := ldAcquire_ne_none h
    exact absurd hsc (hacq sc)
  rw [← hdone] at hends
  obtain ⟨o, ho, hiid, hrem, -⟩ := hends.out
  exact ⟨_, hready.runs, hends.steady (hview.teamData.trans hudata),
    ⟨o, ho, hiid, hrem.trans (Nat.add_left_cancel (hn.symm.trans hnext))⟩,
    fun l hl => (hlisted l hl).inFlight hends.reqs⟩

end Sys2Proof.Machine
end

section
/-! PROOFS. Stores and prefetches at issue: the bytes that stores of several lanes leave in a scratchpad, and the requests of stores
to plinth memory and of prefetches. -/

namespace Sys2Proof.Machine
open Sys2Proof.Claims

/-! ## Stores of several lanes to one scratchpad -/

/-- A team's scratchpad after one write for each lane of a list, in their order. -/
def Team.spWrites (x : Team) (n : Nat) (off v : Nat → Nat) (ls : List Nat) : Team :=
  ls.foldl (fun z l => z.spWrite (off l) n (v l)) x

theorem Team.spWrites_cons (x : Team) (n : Nat) (off v : Nat → Nat) (l : Nat) (ls : List Nat) :
    x.spWrites n off v (l :: ls) = (x.spWrite (off l) n (v l)).spWrites n off v ls := rfl

theorem Team.spWrites_frame (x : Team) (n : Nat) (off v : Nat → Nat) (ls : List Nat) :
    x.spWrites n off v ls = { x with sp := (x.spWrites n off v ls).sp } := by
  induction ls generalizing x with
  | nil => rfl
  | cons l ls ih => rw [Team.spWrites_cons, ih, Team.spWrite_frame]

theorem Team.spGet_spWrites_outside {n : Nat} {off v : Nat → Nat} {ls : List Nat} {a : Nat}
    (h : ∀ l ∈ ls, a < off l ∨ off l + n ≤ a) (x : Team) : (x.spWrites n off v ls).spGet a = x.spGet a := by
  induction ls generalizing x with
  | nil => rfl
  | cons l ls ih =>
    rw [Team.spWrites_cons, ih fun m hm => h m (List.mem_cons_of_mem _ hm), Team.spGet_spWrite_outside _ _ (h l List.mem_cons_self)]

theorem Team.spRead_congr_range {x y : Team} {o n : Nat} (h : ∀ a, o ≤ a → a < o + n → x.spGet a = y.spGet a) :
    x.spRead o n = y.spRead o n := by
  induction n generalizing o with
  | zero => rfl
  | succ n ih => rw [Team.spRead, Team.spRead, h o (Nat.le_refl o) (by omega), ih fun a h1 h2 => h a (by omega) (by omega)]

/-- Where the lanes' bytes are apart each reads back. -/
theorem Team.spRead_spWrites {n : Nat} {off v : Nat → Nat} {ls : List Nat}
    (h : ls.Pairwise fun l m => off l + n ≤ off m ∨ off m + n ≤ off l) (x : Team) {l : Nat} (hl : l ∈ ls) :
    (x.spWrites n off v ls).spRead (off l) n = v l % 256 ^ n := by
  induction ls generalizing x with
  | nil => cases hl
  | cons m ls ih =>
    obtain ⟨hm, hls⟩ := List.pairwise_cons.1 h
    rw [Team.spWrites_cons]
    rcases List.mem_cons.1 hl with rfl | hl
    · rw [Team.spRead_congr_range fun a h1 h2 => Team.spGet_spWrites_outside (fun k hk => ?_) _, Team.spRead_spWrite]
      rcases hm k hk with h | h <;> omega
    · exact ih hls _ hl

/-- The issuing group's team is replaced: nothing else of what the group keeps changes. -/
theorem State.putTeam_leaves {s : State} {z : Team} (hz : z.id = s.G.team) : let t := s.putTeam s.cur.tile z
    Recorded s t ∧ t.G = s.G ∧ t.curTeam = some z := by
  intro t
  have hT : t.T = s.T.setTeam z := (s.tile_setTile _ _ _).trans (if_pos rfl)
  have hG : t.G = s.G := by
    rw [State.G, hT, Tile.group_setTeam]
    rfl
  refine ⟨⟨rfl, by rw [hG], by rw [hT, Tile.store_setTeam], rfl, rfl⟩, hG, ?_⟩
  rw [State.curTeam, hG, hT, Tile.team_setTeam, if_pos hz.symm]

/-! ## ST -/

/-- The addresses of a store's lanes. -/
def State.stAddrs (s : State) (x : StR) : List (Nat × EA) :=
  (s.memLanes x.c [x.d, x.a]).map fun l => (l, s.eaOf x.m .write (wdBytes x.w) x.a l)

/-- What a lane of a store writes. -/
def State.stValue (s : State) (x : StR) (l : Nat) : Nat := s.src l x.d x.w.regs % 256 ^ wdBytes x.w

/-- One lane's store. -/
def State.stLane (s : State) (x : StR) (a : Acc) (l : Nat) : Acc :=
  a.st (accLane [x.d, x.a] l) s.nextId x.reuse.val (wdBytes x.w) (x.ord == .vol) (s.stValue x l) (s.eaOf x.m .write (wdBytes x.w) x.a l)

/-- The record that a store enters. -/
def State.stEntry (s : State) (x : StR) : OutInst := { s.heard.outInst x.c with rem := 1 }

/-- The lanes' stores one after the other, with their record entered. -/
def State.stAcc (s : State) (x : StR) : Acc :=
  (s.memLanes x.c [x.d, x.a]).foldl (s.stLane x) { s := s.memBegun (s.stEntry x) }

/-- A store whose addresses are good and that no earlier access and no release holds performs its lanes' accesses and passes. -/
theorem exec_st_of_good {x : StR} {s : State} (hgood : ∀ y ∈ s.stAddrs x, y.2.Good s)
    (hvol : anyVol (x.ord == .vol) (s.stAddrs x) = true → Claims.Quiet s)
    (hrel : ∀ sc, x.ord = .rel sc → s.relOk s.cur.tile s.cur.slot sc s.nextId = true) :
    exec (.st x) s = .next (s.heard.memEnd s.nextId (s.stAcc x) [] false) := by
  rw [exec_st]
  unfold execSt
  extract_lets regs n ls eas vol rel
  have hidle : ¬ (anyVol vol eas && s.heard.volBusy (ls.map (accLane regs))) = true := fun h => by
    obtain ⟨hv, hb⟩ := Bool.and_eq_true_iff.1 h
    rw [State.volBusy_of_quiet (State.heard_quiet (hvol hv))] at hb
    cases hb
  refine (State.withAddrs_of_good hgood regs .write _).trans ((if_neg hidle).trans ?_)
  rw [State.withRelease_of_ok]
  · have hfold : s.stAcc x = _ := (List.foldl_map (f := fun l => (l, s.eaOf x.m .write n x.a l)) (l := ls)
      (g := fun (a : Acc) y => a.st (accLane regs y.1) s.nextId x.reuse.val n vol (s.stValue x y.1) y.2)).symm
    rw [hfold]
    simp only [State.heard_src]
    rfl
  · intro sc hsc
    refine (s.heard_relOk sc s.nextId).trans (hrel sc ?_)
    simp only [rel] at hsc
    split at hsc
    · next sc' e => rw [e, Option.some.inj hsc]
    · cases hsc

/-- Stores to the own scratchpad are performed as they issue (log 105): no request is sent, and the team holds the bytes. -/
theorem State.foldl_stLane_loc {s : State} {x : StR} {off : Nat → Nat} {ls : List Nat}
    (hea : ∀ l ∈ ls, s.eaOf x.m .write (wdBytes x.w) x.a l = .loc (off l)) {a : Acc} {y : Team} (hy : a.s.curTeam = some y)
    (hid : y.id = a.s.G.team) : ∃ v, ls.foldl (s.stLane x) a = { a with s := v } ∧ Recorded a.s v ∧ v.G = a.s.G ∧
      v.reqs = a.s.reqs ∧ v.curTeam = some (y.spWrites (wdBytes x.w) off (s.stValue x) ls) := by
  induction ls generalizing a y with
  | nil => exact ⟨a.s, rfl, .refl _, rfl, rfl, hy⟩
  | cons l ls ih =>
    set z := y.spWrite (off l) (wdBytes x.w) (s.stValue x l) with hz
    have hzid : z.id = a.s.G.team := (y.id_spWrite _ _ _).trans hid
    have hl : s.stLane x a l = { a with s := a.s.putTeam a.s.cur.tile z } := by
      have hT : (a.s.tile a.s.cur.tile).team a.s.G.team = some y := hy
      rw [State.stLane, hea l List.mem_cons_self, Acc.st, State.modTile, Tile.modTeam_of_team hT]
      rfl
    obtain ⟨hr, hG, hteam⟩ := State.putTeam_leaves hzid
    obtain ⟨v, hv, hrv, hGv, hreqs, hvteam⟩ := ih (fun m hm => hea m (List.mem_cons_of_mem _ hm))
      (a := { a with s := a.s.putTeam a.s.cur.tile z }) hteam (hzid.trans (congrArg Group.team hG.symm))
    exact ⟨v, by rw [List.foldl_cons, hl, hv], hr.trans hrv, hGv.trans hG, hreqs, hvteam⟩

theorem storeLocal : StoreLocal := by
  intro x s y off hy hid hsegs hvol hea hrel
  simp only [widthBytes_eq] at hea ⊢
  set ls := s.memLanes x.c [x.d, x.a] with hls
  have hloc : ∀ z ∈ s.stAddrs x, ∃ o, z.2 = .loc o := by
    intro z hz
    obtain ⟨l, hl, rfl⟩ := List.mem_map.1 hz
    exact ⟨off l, hea l hl⟩
  have hrun := exec_st_of_good (x := x) (s := s)
    (fun z hz => by obtain ⟨o, ho⟩ := hloc z hz; rw [ho]; exact hsegs)
    (fun hv => hvol (by
      obtain ⟨z, hz, hr⟩ := List.any_eq_true.1 hv
      obtain ⟨o, ho⟩ := hloc z hz
      rw [ho] at hr
      exact beq_iff_eq.1 hr)) hrel
  have hgroup := (s.memBegun_recorded (s.stEntry x)).group
  obtain ⟨v, hv, hrv, hGv, -, hvteam⟩ := State.foldl_stLane_loc hea (a := { s := s.memBegun (s.stEntry x) })
    ((s.memBegun_curTeam _).trans hy) (hid.trans (by rw [hgroup]))
  have hacc : s.stAcc x = { s := v } := hv
  have hends := State.memEnd_ends (s := s) (o := s.stEntry x) (a := s.stAcc x) rfl (by rw [hacc]; exact hrv) (by rw [hacc, hGv]) []
  obtain ⟨k, i, hteam⟩ := hends.team _ (by rw [hacc]; exact hvteam)
  set w := y.spWrites (wdBytes x.w) off (s.stValue x) ls with hw
  have hframe : w = { y with sp := w.sp } := y.spWrites_frame _ _ _ _
  have hget (a : Nat) : (w.timed k i).spGet a = w.spGet a := rfl
  refine ⟨_, w.timed k i, hrun, hends.issued, hteam, ?_, ?_, hends.gang, fun a ha => ?_, fun hp l hl => ?_⟩
  · rw [Team.timed, hframe]
  · rw [Team.timed, hframe]
  · rw [hget, hw, Team.spGet_spWrites_outside ha]
  · rw [Team.spRead_congr hget, hw, Team.spRead_spWrites hp _ hl, State.stValue, Nat.mod_mod]

/-- A store of one lane to plinth memory is sent (R93, R112). -/
theorem Acc.store_sends {va : Nat} {e : TlbEnt} (hr : regionOf (e.phys va) = .plinth) (a : Acc) (lane iid d n : Nat)
    (vol : Bool) (v : Nat) : ∃ s', a.store lane iid d n vol v va e = { a with s := s', n := a.n + 1 } ∧
      Sends a.s s' lane iid va (e.phys va) n (.store v) := by
  set pa := e.phys va with hpa
  have hview (f : L1Line → L1Line) : SameView a.s (a.s.setTile a.s.cur.tile (a.s.T.l1Mod (pa / 128) f)) := by
    have hT : (a.s.setTile a.s.cur.tile (a.s.T.l1Mod (pa / 128) f)).T = a.s.T.l1Mod (pa / 128) f :=
      (a.s.tile_setTile _ _ _).trans (if_pos rfl)
    exact ⟨rfl, by rw [State.G, hT]; rfl, by rw [hT]; rfl, rfl, rfl, fun i => by rw [hT]; rfl, rfl⟩
  unfold Acc.store
  simp only [← hpa, hr]
  refine ⟨_, rfl, ?_⟩
  split
  · exact sends_of_send (hview _) rfl rfl rfl _ _ _ _ _ _ _ _ _
  · exact sends_of_send (.refl _) rfl rfl rfl _ _ _ _ _ _ _ _ _

theorem storeGlobal : StoreGlobal := by
  intro x s va e hq hrel hea
  simp only [widthBytes_eq] at hea ⊢
  set ls := s.memLanes x.c [x.d, x.a] with hls
  have hrun := exec_st_of_good (x := x) (s := s)
    (fun z hz => by
      obtain ⟨l, hl, rfl⟩ := List.mem_map.1 hz
      obtain ⟨ha, hr⟩ := hea l hl
      rw [ha]
      exact hr) (fun _ => hq) hrel
  set u := s.memBegun (s.stEntry x) with hu
  have hstep (a : Acc) (l : Nat) (hl : l ∈ ls) (hn : a.s.nextId = u.nextId + a.n) : let b := s.stLane x a l
      b.s.nextId = u.nextId + b.n ∧ Sends a.s b.s (accLane [x.d, x.a] l) s.nextId (va l) ((e l).phys (va l)) (wdBytes x.w)
        (.store (s.src l x.d x.w.regs % 256 ^ wdBytes x.w)) := by
    obtain ⟨hal, hr⟩ := hea l hl
    obtain ⟨v, hv, hsends⟩ := Acc.store_sends hr a (accLane [x.d, x.a] l) s.nextId x.reuse.val (wdBytes x.w) (x.ord == .vol)
      (s.stValue x l)
    have hlane : s.stLane x a l = { a with s := v, n := a.n + 1 } := by rw [State.stLane, hal, Acc.st, hv]
    rw [hlane]
    exact ⟨hsends.nextId.trans (congrArg (· + 1) hn), hsends⟩
  obtain ⟨hn, hview, hnext, hlisted, -⟩ := foldl_sends (st := Acc.s) (f := s.stLane x) hstep (a := { s := u }) rfl
  have hends := State.memEnd_ends (s := s) (o := s.stEntry x) (a := s.stAcc x) rfl hview.recorded (by rw [← hview.G]; rfl) []
  obtain ⟨o, ho, hiid, hrem, -⟩ := hends.out
  exact ⟨_, hrun, hends.steady (hview.teamData.trans (s.memBegun_fixed _).2.2.2),
    ⟨o, ho, hiid, hrem.trans (Nat.add_left_cancel (hn.symm.trans hnext))⟩, fun l hl => (hlisted l hl).inFlight hends.reqs⟩

/-- Settles O24: local stores by the bytes that they leave in the team's scratchpad, global ones by the requests that they send. -/
theorem storesIssue : Obligations.StoresIssue := ⟨storeLocal, storeGlobal⟩

/-! ## PREF -/

/-- A group that has changed in its records alone, with its team's data kept, reads what it read. -/
theorem Recorded.unseen {s u : State} (h : Recorded s u) (hd : u.teamData = s.teamData) : Unseen s u := by
  have hgroup := h.group
  have hlane (l : Nat) : u.G.lane l = s.G.lane l := by
    rw [hgroup]
    rfl
  exact ⟨h.cur, fun l _ => by rw [hlane], fun l _ _ => by rw [hlane],
    .of_lanes h.store (by rw [hgroup]) fun l _ => by rw [hlane]; exact ⟨rfl, rfl, rfl, rfl⟩,
    ⟨by rw [hgroup], by rw [hgroup]⟩, ⟨by rw [hgroup], by rw [hgroup], by rw [hgroup]⟩, hd⟩

/-- The address of a lane's prefetch. -/
def State.prefAddr (s : State) (x : PrefR) (l : Nat) : EA :=
  s.eaGlobal .read false 1 (wrap 64 ((s.src l x.a 2 : Int) + x.off.toInt * wdBytes x.w))

theorem prefetch : Prefetch := by
  intro x s va e hhold hea
  simp only [widthBytes_eq] at hea
  set ls := s.memLanes x.c [x.a] with hls
  replace hea : ∀ l ∈ ls, s.prefAddr x l = .mem (va l) (e l) ∧ regionOf ((e l).phys (va l)) = .plinth ∧ (e l).dev = false := hea
  have hgood : ∀ y ∈ ls.map (fun l => (l, s.prefAddr x l)), y.2.Good s := by
    intro y hy
    obtain ⟨l, hl, rfl⟩ := List.mem_map.1 hy
    obtain ⟨ha, hr, -⟩ := hea l hl
    rw [ha]
    exact hr
  have hrun : ∃ f : State → Nat → State, exec (.pref x) s = .next ((ls.foldl f s.heard).tick.passed0 x.c) ∧
      ∀ a : State, ∀ l ∈ ls, (a.field (fieldOf a.cur.tile)).hold = false → ∃ v, Counted a v ∧
        f a l = v.send (v.mkReq (accLane [x.a] l) 0 .pref (va l) ((e l).phys (va l)) 1 x.reuse.val false false none) := by
    rw [exec_pref]
    unfold execPref
    extract_lets regs ls' eas one
    rw [missing_eq_nil (s := s) (eas := eas) hgood]
    refine ⟨fun a l => one a (l, s.prefAddr x l), congrArg (fun b : State => Host.Outcome.next (b.tick.passed0 x.c)) List.foldl_map,
      fun a l hl hh => ⟨a.countU (if (a.T.l1Find (a.tileTime a.cur.tile) ((e l).phys (va l) / 128)).isSome then 4 else 5) 1,
        a.countU_counted _ 1, ?_⟩⟩
    obtain ⟨ha, hr, hd⟩ := hea l hl
    simp only [one, ha]
    rw [if_neg (by simp [hr, hd, hh])]
  obtain ⟨f, hrun, hf⟩ := hrun
  have hstep (a : State) (l : Nat) (hl : l ∈ ls) (hh : (a.field (fieldOf a.cur.tile)).hold = false) :
      ((f a l).field (fieldOf (f a l).cur.tile)).hold = false ∧
        Sends a (f a l) (accLane [x.a] l) 0 (va l) ((e l).phys (va l)) 1 .pref := by
    obtain ⟨v, hv, hfal⟩ := hf a l hl hh
    obtain ⟨-, hreqs, hnext⟩ := hv.fixed
    have hs : Sends a (f a l) (accLane [x.a] l) 0 (va l) ((e l).phys (va l)) 1 .pref :=
      hfal ▸ sends_of_send hv.sameView hreqs hnext rfl _ _ _ _ _ _ _ _ _
    exact ⟨by rw [hs.view.field, hs.view.cur]; exact hh, hs⟩
  obtain ⟨-, hview, -, hlisted, -⟩ := foldl_sends (st := id) hstep (a := s.heard) hhold
  obtain ⟨hb, -, hreqs, hdata, -⟩ := (ls.foldl f s.heard).tick_leaves
  have hrec : Recorded s (ls.foldl f s.heard).tick := (s.heard_recorded.trans hview.recorded).trans hb
  have hheard : s.heard.teamData = s.teamData := by rw [State.teamData, s.heard_curTeam]; rfl
  have hun : Unseen s (ls.foldl f s.heard).tick := hrec.unseen ((hdata.trans hview.teamData).trans hheard)
  obtain ⟨hr, hl, hs⟩ := hun.passes_steady hrec.mem hrec.host x.c
  obtain ⟨⟨hm, hh, hrest⟩, hflags⟩ := hs
  obtain ⟨hgang, hxpc, hxstat, hteam⟩ := hrest
  have ho := ((ls.foldl f s.heard).tick.passed0_passes x.c).1.1
  exact ⟨_, hrun, ⟨⟨hl, hr, hflags, hm, hh, hxpc, hxstat⟩, ⟨hm, hh, hgang, hxpc, hxstat, hteam⟩, hflags⟩,
    fun l hl => (hlisted l hl).inFlight ((by rw [ho]; rfl : _ = (ls.foldl f s.heard).tick.reqs).trans hreqs)⟩

/-- Settles O23: a load by the record and the requests that its lanes leave one after the other, a prefetch by its requests. -/
theorem loadsIssue : Obligations.LoadsIssue := ⟨loadLocal, loadGlobal, prefetch⟩

end Sys2Proof.Machine
end

section
/-! PROOFS. Loads in flight: a home slice serves them, their sectors are filled into the L1, and their values or errors return to
the records of their instructions. -/

namespace Sys2Proof.Machine
open Sys2Proof.Claims

/-! ## A home slice serves a load (R107, R111) -/

theorem exec_sliceRead (id : Nat) (s : State) : exec (.sliceRead id) s = execSliceRead id s := rfl
theorem exec_l1Fill (id : Nat) (s : State) : exec (.l1Fill id) s = execL1Fill id s := rfl
theorem exec_loadResponse (id : Nat) (s : State) : exec (.loadResponse id) s = execLoadResponse id s := rfl

theorem Counted.twin {s u : State} (h : Counted s u) : Twin s u := by
  unfold Twin
  rw [h.frame]

theorem Twin.reqs {s t : State} (h : Twin s t) : t.reqs = s.reqs := by rw [h]

theorem State.countServed_counted (s : State) (r : Req) (hit : Bool) : Counted s (s.countServed r hit) := by
  unfold State.countServed
  dsimp only
  split
  · exact s.count_counted _ _ _
  · exact .refl s

/-- An access at a slice changes slices, owners' accounts and counters alone. -/
theorem State.served_twin (s : State) (r : Req) (alloc wr : Bool) : let x := s.l2Touch r.tag r.owner r.pa r.d r.due alloc wr
    Twin s (x.1.countServed r x.2) := by
  have hc : Cached s (s.l2Touch r.tag r.owner r.pa r.d r.due alloc wr).1 := by
    cases alloc with
    | false => exact s.l2Pass_cached _ _ _ _ _ _
    | true => exact s.l2Touch_cached _ _ _ _ _ _
  exact hc.twin.trans (State.countServed_counted _ _ _).twin

theorem State.grantLease_cached (s : State) (pa lease : Nat) : Cached s (s.grantLease pa lease) := by
  unfold State.grantLease
  dsimp only
  split <;> exact (Cached.refl s).setSlice _ _ _

/-- A request has taken its answer, and a step for it is due. -/
theorem setReq_push_leaves {s u : State} (h : Twin s u) (id : Nat) (q : Req) (i : Instr) : let t := (u.setReq id q).push [i]
    t.mem = s.mem ∧ t.req id = some q ∧ DueEv t i :=
  ⟨h.mem, amGet_amSet_same _ _ _, State.dueEv_push _ (List.mem_singleton.2 rfl)⟩

section
variable {id : Nat} {s : State} {r : Req} {f : Bool} (ht : Turn s id r) (hteam : s.teamOrder id r = true) (hk : r.kind = .load f)
include ht hteam hk

/-- A poisoned granule gives the load its error (R375). -/
theorem exec_sliceRead_poisoned (hp : s.poisoned r.pa r.size = true) : ∃ u, Twin s u ∧ exec (.sliceRead id) s =
    .next ((u.setReq id { r with perf := true, ecc := 1 + s.eccSource r.pa, kind := .load false }).push [.loadResponse id]) := by
  obtain ⟨hreq, hperf, hline⟩ := ht
  refine ⟨_, s.served_twin r (!r.vol && !r.noAlloc) false, ?_⟩
  rw [exec_sliceRead, execSliceRead]
  simp only [hreq, hk, hperf, hline, hteam, hp]
  rfl

/-- A load of sound granules takes its bytes and its sector from memory. -/
theorem exec_sliceRead_sound (hp : s.poisoned r.pa r.size = false) : let fill := f && !s.poisoned (r.pa / 128 * 128) 128
    ∃ u n, Twin s u ∧ exec (.sliceRead id) s = .next ((u.setReq id { r with
      perf := true, val := Memory.read s.mem r.pa r.size, sect := Memory.read s.mem (r.pa / 128 * 128) 128, kind := .load fill
      ord := n }).fresh.push [if fill then .l1Fill id else .loadResponse id]) := by
  intro fill
  obtain ⟨hreq, hperf, hline⟩ := ht
  have hv := s.served_twin r (!r.vol && !r.noAlloc) false
  set x := s.l2Touch r.tag r.owner r.pa r.d r.due (!r.vol && !r.noAlloc) false with hx
  set v := x.1.countServed r x.2 with hv0
  set u := if fill then v.grantLease r.pa r.lease else v with hu
  have huv : Twin s u := by
    rw [hu]
    split
    · exact hv.trans (v.grantLease_cached _ _).twin
    · exact hv
  refine ⟨u, u.nextId, huv, ?_⟩
  rw [exec_sliceRead, execSliceRead]
  simp only [hreq, hk, hperf, hline, hteam, hp, ← hx, ← hv0]
  rw [← huv.mem, hu]
  rfl

end

theorem sliceLoads : SliceLoads := by
  intro id s r f ht hteam hk
  refine ⟨fun hp => ?_, fun hp => ?_⟩
  · obtain ⟨u, n, hu, hrun⟩ := exec_sliceRead_sound ht hteam hk hp
    obtain ⟨hm, hreq, hdue⟩ := setReq_push_leaves hu id { r with
      perf := true, val := Memory.read s.mem r.pa r.size, sect := Memory.read s.mem (r.pa / 128 * 128) 128
      kind := .load (f && !s.poisoned (r.pa / 128 * 128) 128), ord := n }
      (if f && !s.poisoned (r.pa / 128 * 128) 128 then .l1Fill id else .loadResponse id)
    exact ⟨_, _, hrun, hm, hreq, rfl, rfl, rfl, rfl, rfl, hdue⟩
  · obtain ⟨u, hu, hrun⟩ := exec_sliceRead_poisoned ht hteam hk hp
    obtain ⟨hm, hreq, hdue⟩ := setReq_push_leaves hu id { r with perf := true, ecc := 1 + s.eccSource r.pa, kind := .load false }
      (.loadResponse id)
    exact ⟨_, _, hrun, hm, hreq, rfl, rfl, rfl, hdue⟩

/-! ## Fills (R93, R109) -/

theorem fills : Fills := by
  intro id s r hreq hperf hk
  have hfill : r.isFill r.tile (r.pa / 128) = true := by simp [Req.isFill, hperf, hk]
  refine ⟨fun ⟨q, hq, hne, hqf, hord⟩ => ?_, fun hfirst => ?_⟩
  · have hany : (s.reqs.any fun q => q.1 != id && q.2.isFill r.tile (r.pa / 128) && decide (q.2.ord < r.ord)) = true :=
      List.any_eq_true.2 ⟨q, hq, by simp [hne, hqf, hord]⟩
    refine ⟨s.again (.l1Fill id), ?_, (s.again_grows _).frame, s.dueEv_again _⟩
    rw [exec_l1Fill, execL1Fill]
    simp only [hreq, hfill, hany]
    rfl
  · have hany : (s.reqs.any fun q => q.1 != id && q.2.isFill r.tile (r.pa / 128) && decide (q.2.ord < r.ord)) = false := by
      refine List.any_eq_false.2 fun q hq h => ?_
      obtain ⟨h, hord⟩ := Bool.and_eq_true_iff.1 h
      obtain ⟨hne, hqf⟩ := Bool.and_eq_true_iff.1 h
      exact absurd (of_decide_eq_true hord) (Nat.not_lt.2 (hfirst q hq (bne_iff_ne.1 hne) hqf))
    refine ⟨fun htag hgen hctx hhold hperfs => ?_, fun hhold => ?_⟩
    · have hmine : (s.reqs.filter fun q => q.2.tile == r.tile && q.2.pa / 128 == r.pa / 128 && !q.2.perf) = [] := by
        refine List.filter_eq_nil_iff.2 fun q hq h => ?_
        simp only [Bool.and_eq_true, beq_iff_eq, Bool.not_eq_true'] at h
        obtain ⟨⟨h1, h2⟩, h3⟩ := h
        rw [hperfs q hq h1 h2] at h3
        cases h3
      have hlive : s.reqLive r = true := by simp [State.reqLive, htag, hgen]
      have hctx' : ((s.tile r.tile).ctl.ctx == r.ctx) = true := beq_iff_eq.2 hctx
      set x : L1Line := { line := r.pa / 128, data := leBytes 128 r.sect, lease := r.lease, due := r.due,
                          dist := r.due - s.tileTime r.tile, fill := s.tileTime r.tile, held := r.d == 15 } with hx
      set u := s.setTile r.tile ((s.tile r.tile).l1Put (s.tileTime r.tile) x) with hu
      have hrun : exec (.l1Fill id) s = .next ((u.setReq id { r with kind := .load false }).push [.loadResponse id]) := by
        rw [exec_l1Fill, execL1Fill]
        simp only [hreq, hfill, hany, hmine, hlive, hctx', hhold, hk]
        rfl
      refine ⟨_, x, _, hrun, ?_, rfl, rfl, rfl, rfl, amGet_amSet_same _ _ _, rfl, State.dueEv_push _ (List.mem_singleton.2 rfl)⟩
      have hT : ((u.setReq id { r with kind := .load false }).push [.loadResponse id]).tile r.tile =
          (s.tile r.tile).l1Put (s.tileTime r.tile) x := (s.tile_setTile r.tile r.tile _).trans (if_pos rfl)
      rw [hT]
      exact List.mem_cons_self
    · have hrun : exec (.l1Fill id) s = .next ((s.setReq id { r with kind := .load false }).push [.loadResponse id]) := by
        rw [exec_l1Fill, execL1Fill]
        simp only [hreq, hfill, hany, hhold, hk, Bool.not_true, Bool.and_false]
        rfl
      exact ⟨_, hrun, rfl, State.dueEv_push _ (List.mem_singleton.2 rfl)⟩

/-! ## Answers and records -/

theorem Group.outOf_outMod {g : Group} {iid : Nat} {o : OutInst} (h : g.outOf iid = some o) {f : OutInst → OutInst}
    (hf : ∀ o, (f o).iid = o.iid) : (g.outMod iid f).outOf iid = some (f o) := by
  unfold Group.outOf Group.outMod at *
  dsimp only
  generalize g.out = l at h ⊢
  induction l with
  | nil => cases h
  | cons p l ih =>
    rw [List.map_cons, List.find?_cons]
    rw [List.find?_cons] at h
    by_cases hp : p.iid = iid
    · have hb : (p.iid == iid) = true := beq_iff_eq.2 hp
      rw [hb] at h
      rw [if_pos hp, hf, hb, Option.some.inj h]
    · have hb : (p.iid == iid) = false := beq_eq_false_iff_ne.2 hp
      rw [hb] at h
      rw [if_neg hp, hb]
      exact ih h

theorem Group.outOf_outDel (g : Group) (iid : Nat) : (g.outDel iid).outOf iid = none := by
  refine List.find?_eq_none.2 fun o ho h => ?_
  have := (List.mem_filter.1 ho).2
  rw [bne, h] at this
  cases this

/-- The record of a request takes its answer; requests are as before (R156). -/
theorem State.outDone_answered {s : State} {r : Req} {o : OutInst} (h : ((s.tile r.tile).group r.slot).outOf r.iid = some o)
    (ws : List (Nat × Nat × W32)) (fl : Nat) : let t := s.outDone r.tile r.slot r.iid ws fl
    Answered s t r o ws fl ∧ t.reqs = s.reqs := by
  set f : OutInst → OutInst := fun p => { p with rem := p.rem - 1, res := p.res ++ ws, fps := p.fps ||| fl } with hf
  set u := s.modGroup r.tile r.slot fun G => G.outMod r.iid f with hu
  have hout : ((u.tile r.tile).group r.slot).outOf r.iid = some (f o) := by
    rw [hu, State.modGroup_group]
    exact Group.outOf_outMod h fun _ => rfl
  have hrun : s.outDone r.tile r.slot r.iid ws fl =
      if o.rem ≤ 1 then u.push [.instructionComplete r.tile r.slot r.iid] else u := by
    unfold State.outDone
    rw [h]
  dsimp only
  rw [hrun]
  split
  · exact ⟨⟨⟨f o, hout, rfl, rfl, rfl⟩, fun _ => State.dueEv_push _ (List.mem_singleton.2 rfl), rfl⟩, rfl⟩
  · next hrem => exact ⟨⟨⟨f o, hout, rfl, rfl, rfl⟩, fun h => absurd h hrem, rfl⟩, rfl⟩

/-- A request that ends hands its writes to the record; tiles, memory and the other requests are as before. -/
theorem State.answers_and_ends {s : State} (u : State) {id : Nat} {r : Req} {o : OutInst}
    (ho : ((s.tile r.tile).group r.slot).outOf r.iid = some o) (ht : u.tiles = s.tiles) (hm : u.mem = s.mem) (hr : u.reqs = amDel s.reqs id) (ws : List (Nat × Nat × W32)) (fl : Nat) :
    let t := u.outDone r.tile r.slot r.iid ws fl
    t.req id = none ∧ Answered s t r o ws fl := by
  obtain ⟨⟨hrec, hdue, hmem⟩, hreqs⟩ := State.outDone_answered (s := u) (r := r) (o := o) (by rwa [State.tile_of_tiles ht]) ws fl
  refine ⟨?_, hrec, hdue, hmem.trans hm⟩
  rw [State.req, hreqs, hr, amGet_amDel, if_pos rfl]

/-- A trap leaves the records of its group. -/
theorem State.raise_out (s : State) (lanes : BitVec 32) (lane : Nat) {cls : TrapClass} (cause info1 info2 : Nat)
    (h : ¬ (s.cur.slot = 32 ∧ cls = .resource)) : (s.raise lanes lane cls cause info1 info2).G.out = s.G.out := by
  have hr : (decide (s.cur.slot = 32) && cls == .resource) = false := by
    rw [Bool.eq_false_iff]
    exact fun hc => h (by simpa using hc)
  obtain ⟨g, u, hrun, hu, hg⟩ : ∃ g u, s.raise lanes lane cls cause info1 info2 = u.push [.trapDeliver s.cur.tile s.cur.slot] ∧
      (u = s.setG g ∨ s.cur.slot = 32 ∧ ∃ l, u = ((s.setG g).modTile s.cur.tile fun T => { T with agentStop := true }).push l) ∧
      g.out = s.G.out := by
    unfold State.raise
    simp only [hr, Bool.false_eq_true, if_false]
    split
    · next h32 => exact ⟨_, _, rfl, .inr ⟨h32, _, rfl⟩, rfl⟩
    · exact ⟨_, _, rfl, .inl rfl, rfl⟩
  rw [hrun, State.push_G]
  rcases hu with rfl | ⟨h32, l, rfl⟩
  · rw [State.setG_G, hg]
  · have hT : (((s.setG g).modTile s.cur.tile fun T => { T with agentStop := true }).push l).T =
        { s.T.setGroup s.cur.slot g with agentStop := true } := by
      rw [← State.setG_T]
      exact ((s.setG g).tile_modTile s.cur.tile s.cur.tile fun T => { T with agentStop := true }).trans (if_pos rfl)
    rw [← hg, State.G, hT]
    show (Tile.group { s.T.setGroup s.cur.slot g with agentStop := true } s.cur.slot).out = g.out
    rw [h32]
    rfl

theorem State.raiseAt_out (s : State) (t g pc : Nat) (word : W64) (lanes : BitVec 32) (lane : Nat) {cls : TrapClass}
    (cause info1 info2 : Nat) (h : ¬ (g = 32 ∧ cls = .resource)) (iid : Nat) :
    (((s.raiseAt t g pc word lanes lane cls cause info1 info2).tile t).group g).outOf iid = ((s.tile t).group g).outOf iid := by
  set v : State := { s with cur := { tile := t, slot := g, sub := lanes, pc := pc, word := word } } with hv
  have ho := v.raise_out lanes lane cause info1 info2 h
  have hc : (v.raise lanes lane cls cause info1 info2).cur = v.cur := by rw [v.raise_frame]
  rw [State.G, State.T, hc] at ho
  exact congrArg (List.find? fun o => o.iid == iid) ho

/-! ## Responses (R107, R334, R375) -/

theorem respondsLater (id : Nat) (s : State) (r : Req) (o : OutInst) (h : Waiting s id r o) (hw : s.flitWaits id = true) :
    ∃ t, exec (.loadResponse id) s = .next t ∧ t = { s with due := t.due } ∧ DueEv t (.loadResponse id) := by
  obtain ⟨hreq, hlive, -⟩ := h
  refine ⟨s.again (.loadResponse id), ?_, (s.again_grows _).frame, s.dueEv_again _⟩
  rw [exec_loadResponse, execLoadResponse]
  simp only [hreq, hlive, hw]
  rfl

section
variable {id : Nat} {s : State} {r : Req} {o : OutInst} (h : Waiting s id r o) (hw : s.flitWaits id = false)
include h hw

/-- The value of a load or gather that its home has served returns. -/
theorem valueReturns (hperf : r.perf = true) (hecc : r.ecc = 0) (hr : regionOf r.pa = .plinth)
    (hk : r.kind = .load false ∨ ∃ i, r.kind = .gather i) :
    ∃ t, exec (.loadResponse id) s = .next t ∧ t.req id = none ∧ Answered s t r o (r.writes r.val) 0 := by
  obtain ⟨hreq, hlive, ho⟩ := h
  refine ⟨_, ?_, State.answers_and_ends (s.delReq id) ho rfl rfl rfl (r.writes r.val) 0⟩
  rw [exec_loadResponse, execLoadResponse]
  rcases hk with hk | ⟨i, hk⟩
  all_goals
    simp only [hreq, hlive, hw, hk, hr, hperf, hecc]
    rfl

/-- A load through a host window takes its value from host memory. -/
theorem hostValueReturns {w off : Nat} (hk : r.kind = .load false) (hr : regionOf r.pa = .host w off) :
    ∃ t, exec (.loadResponse id) s = .next t ∧ t.req id = none ∧
      Answered s t r o (r.writes (Memory.read s.host (hostKey w (s.ctx r.tag r.ctx) off) r.size)) 0 := by
  obtain ⟨hreq, hlive, ho⟩ := h
  refine ⟨_, ?_, State.answers_and_ends ((s.delReq id).chargeHost r.owner r.size) ho rfl rfl rfl _ 0⟩
  rw [exec_loadResponse, execLoadResponse]
  simp only [hreq, hlive, hw, hk, hr]
  rfl

/-- The state in which an instruction that a load of its has stopped is given up: its requests and its record are gone. -/
def State.givenUp (s : State) (r : Req) : State :=
  ({ s with reqs := s.reqs.filter fun q => !(q.2.tile == r.tile && q.2.slot == r.slot && q.2.iid == r.iid) }).modGroup r.tile r.slot
    fun G => G.outDel r.iid

omit h hw in
/-- A trap of an instruction that has been given up. -/
theorem givenUp_traps {u : State} (hu : u.tiles = (s.givenUp r).tiles) (lanes : BitVec 32) (lane : Nat) {cls : TrapClass}
    (cause info1 info2 : Nat) (hcls : cls ≠ .resource) :
    let t := u.raiseAt r.tile r.slot r.pc r.word lanes lane cls cause info1 info2
    ∃ y, ((t.tile r.tile).group r.slot).lastTrap = some y ∧ y.cls = cls ∧ y.cause = cause ∧ y.info1 = info1 ∧ y.info2 = info2 ∧
      ((t.tile r.tile).group r.slot).outOf r.iid = none := by
  have hno : ¬ (r.slot = 32 ∧ cls = .resource) := fun h => hcls h.2
  obtain ⟨-, y, hy, h1, h2, -, -, h3, h4, -⟩ := u.raiseAt_leaves r.tile r.slot r.pc r.word lanes lane cls cause info1 info2 hno
  refine ⟨y, hy, h1, h2, h3, h4, ?_⟩
  rw [u.raiseAt_out _ _ _ _ _ _ _ _ _ hno, State.tile_of_tiles hu, State.givenUp, State.modGroup_group]
  exact Group.outOf_outDel _ _

/-- A peer answers with a value or a refusal, by a free choice (log 34). -/
theorem peerAnswers (hk : r.kind = .peerLoad) : ∃ t, exec (.loadResponse id) s = .next t ∧
    if r.ecc ≠ 0 ∨ Config.pick s.free 2 % 2 = 1 then ∃ y, ((t.tile r.tile).group r.slot).lastTrap = some y ∧ y.cls = .xlate ∧
      y.cause = 8 ∧ y.info1 = r.va ∧ ((t.tile r.tile).group r.slot).outOf r.iid = none
    else t.req id = none ∧ Answered s t r o (r.writes (Config.freeNat (s.free + 1))) 0 := by
  obtain ⟨hreq, hlive, ho⟩ := h
  by_cases hc : r.ecc ≠ 0 ∨ Config.pick s.free 2 % 2 = 1
  · refine ⟨(s.givenUp r).drawn.raiseAt r.tile r.slot r.pc r.word o.lanes (if r.lane = 32 then 0xFF else r.lane) .xlate 8 r.va 0,
      ?_, ?_⟩
    · rw [exec_loadResponse, execLoadResponse]
      simp only [hreq, hlive, hw, hk, ho, Bool.not_true, Bool.false_eq_true, if_false]
      refine (if_pos ?_).trans rfl
      simpa using hc
    · rw [if_pos hc]
      obtain ⟨y, hy, h1, h2, h3, -, h4⟩ := givenUp_traps (u := (s.givenUp r).drawn) rfl o.lanes (if r.lane = 32 then 0xFF else r.lane)
        (cls := .xlate) 8 r.va 0 TrapClass.noConfusion
      exact ⟨y, hy, h1, h2, h3, h4⟩
  · refine ⟨((s.delReq id).drawn).outDone r.tile r.slot r.iid (r.writes (Config.freeNat (s.free + 1))) 0, ?_, ?_⟩
    · rw [exec_loadResponse, execLoadResponse]
      simp only [hreq, hlive, hw, hk, Bool.not_true, Bool.false_eq_true, if_false]
      refine (if_neg ?_).trans rfl
      simpa using hc
    · rw [if_neg hc]
      exact State.answers_and_ends (s.delReq id).drawn ho rfl rfl rfl _ 0

/-- A load that met an uncorrectable error traps precisely (R375). -/
theorem poisonedLoadTraps (hk : r.kind = .load false) (hperf : r.perf = true) (hecc : r.ecc ≠ 0) (hr : regionOf r.pa = .plinth) :
    ∃ t y, exec (.loadResponse id) s = .next t ∧ ((t.tile r.tile).group r.slot).lastTrap = some y ∧ y.cls = .ecc ∧
      y.cause = 4 ∧ y.info1 = r.va ∧ y.info2 = r.ecc - 1 ∧ ((t.tile r.tile).group r.slot).outOf r.iid = none := by
  obtain ⟨hreq, hlive, ho⟩ := h
  obtain ⟨y, hy⟩ := givenUp_traps (s := s) (r := r) (u := s.givenUp r) rfl o.lanes (if r.lane = 32 then 0xFF else r.lane)
    (cls := .ecc) 4 r.va (r.ecc - 1) TrapClass.noConfusion
  refine ⟨_, y, ?_, hy⟩
  have hrun : s.eccLoad id r = (s.givenUp r).raiseAt r.tile r.slot r.pc r.word o.lanes (if r.lane = 32 then 0xFF else r.lane) .ecc 4
      r.va (r.ecc - 1) := by
    unfold State.eccLoad
    simp only [ho]
    rfl
  rw [exec_loadResponse, execLoadResponse, ← hrun]
  simp only [hreq, hlive, hw, hk, hr, hperf, Bool.not_true, Bool.false_eq_true, if_false]
  exact if_pos hecc

end

/-- A response to a tile that has changed hands is dropped and counted (R292, R388). -/
theorem strayResponse (id : Nat) (s : State) (r : Req) (hreq : s.req id = some r) (hlive : s.reqLive r = false) :
    ∃ t, exec (.loadResponse id) s = .next t ∧ t.req id = none ∧ t.mem = s.mem ∧
      (t.tile r.tile).drops = min ((s.tile r.tile).drops + 1) (2 ^ 32 - 1) := by
  refine ⟨s.stray id r, ?_, ?_, rfl, ?_⟩
  · rw [exec_loadResponse, execLoadResponse]
    simp only [hreq, hlive]
    rfl
  · exact (amGet_amDel s.reqs id id).trans (if_pos rfl)
  · unfold State.stray State.logDrop
    exact congrArg Tile.drops (((s.delReq id).tile_modTile r.tile r.tile fun T =>
      { T with drops := min (T.drops + 1) (2 ^ 32 - 1) }).trans (if_pos rfl))

theorem responses : Responses := by
  refine ⟨respondsLater, fun id s r o h hw => ⟨valueReturns h hw, fun w off => hostValueReturns h hw, peerAnswers h hw,
    poisonedLoadTraps h hw⟩, strayResponse⟩

/-- Settles O38: a load by what its slice writes into the request, a fill by the line that it puts, a response by what the record
of its instruction takes. -/
theorem loadSteps : Obligations.LoadSteps := ⟨sliceLoads, fills, responses⟩

end Sys2Proof.Machine
end

section
/-! PROOFS. An issued instruction completes: its register writes one after the other, its record, its lanes, and the trap of a flag
that is enabled. -/

namespace Sys2Proof.Machine
open Sys2Proof.Claims

theorem exec_instructionComplete (t g iid : Nat) (s : State) :
    exec (.instructionComplete t g iid) s = execInstructionComplete t g iid s := rfl

/-! ## Register writes one after the other (R156) -/

/-- A write reaches a register of a lane; a k register has no lane. -/
def reaches (w : Nat × Nat × W32) (l r : Nat) : Bool := w.2.1 == r && ((decide (128 ≤ r) && decide (r < 160)) || w.1 == l)

/-- A write to a k register is made for every lane, whatever lane it names. -/
theorem Group.wr_hazLane (g : Group) (w : Nat × Nat × W32) : g.wr w = g.wr (hazLane w.1 w.2.1, w.2) := by
  unfold Group.wr hazLane
  dsimp only
  by_cases h : 128 ≤ w.2.1 ∧ w.2.1 < 160
  · obtain ⟨h1, h2⟩ := h
    rw [if_neg (Nat.not_lt.2 h1), if_pos h2, if_neg (Nat.not_lt.2 h1), if_pos h2]
  · have hb : (decide (128 ≤ w.2.1) && decide (w.2.1 < 160)) = false := by simpa using h
    rw [hb]
    rfl

theorem Group.wr_reads (T : Tile) (g : Group) (w : Nat × Nat × W32) {l r : Nat} (hl : l < 32) (hr : r < 168) :
    T.regNow (g.wr w) l r = if reaches w l r then readBack r w.2.2 else T.regNow g l r := by
  classical
  have hk : kWrite (hazLane w.1 w.2.1, w.2) := fun h1 h2 => if_pos (Bool.and_eq_true_iff.2 ⟨decide_eq_true h1, decide_eq_true h2⟩)
  have hits_iff : hits (hazLane w.1 w.2.1, w.2) l r ↔ reaches w l r = true := by
    unfold hits reaches hazLane
    by_cases hc : w.2.1 = r
    · subst hc
      by_cases h : 128 ≤ w.2.1 ∧ w.2.1 < 160 <;> simp [h]
    · simp [hc]
  rw [g.wr_hazLane, Group.wr_regNow T g _ l r hl hr hk]
  simp only [hits_iff]

theorem lastWrite_concat (ws : List (Nat × Nat × W32)) (w : Nat × Nat × W32) (l r : Nat) :
    lastWrite (ws ++ [w]) l r = if reaches w l r then some w.2.2 else lastWrite ws l r := by
  unfold lastWrite reaches
  rw [List.filter_append, List.filter_singleton]
  split
  · next h => simp [h]
  · next h => simp [h]

/-- After a list of writes a register reads the last one that reaches it. -/
theorem Group.wrs_reads (T : Tile) (g : Group) (ws : List (Nat × Nat × W32)) {l r : Nat} (hl : l < 32) (hr : r < 168) :
    T.regNow (ws.foldl Group.wr g) l r = ((lastWrite ws l r).map (readBack r)).getD (T.regNow g l r) := by
  induction ws using List.reverseRecOn with
  | nil => rfl
  | append_singleton ws w ih =>
    rw [List.foldl_append, List.foldl_cons, List.foldl_nil, Group.wr_reads T _ w hl hr, lastWrite_concat, ih]
    split <;> rfl

/-! ## Templates and slots that the end of an instruction frees -/

/-- Bound templates have the values they had. -/
theorem Tile.regNow_bindFrz (T : Tile) (l : List OutInst) (g : Group) (i n : Nat) :
    (T.bindFrz l).regNow g i n = T.regNow g i n := by
  have hstore (sl : Nat) : ∃ f : Template → Template, amGet (T.bindFrz l).store sl = (amGet T.store sl).map f ∧
      ∀ t, (f t).link = t.link ∧ (f t).parent = t.parent ∧ (f t).v = t.v := by
    refine ⟨_, amGet_map_keys T.store _ (fun z => ?_) sl, fun t => ?_⟩
    · dsimp only
      split <;> rfl
    · dsimp only
      split <;> exact ⟨rfl, rfl, rfl⟩
  have htval (k : Nat) (o : Option Nat) (j : Nat) : (T.bindFrz l).tval k o j = T.tval k o j := by
    induction k generalizing o with
    | zero => rfl
    | succ k ih =>
      cases o with
      | none => rfl
      | some sl =>
        obtain ⟨f, hf, hkeep⟩ := hstore sl
        rw [Tile.tval, Tile.tval, hf]
        cases amGet T.store sl with
        | none => rfl
        | some t =>
          obtain ⟨h1, h2, h3⟩ := hkeep t
          simp only [Option.map_some, h1, h2, h3, ih]
  unfold Tile.regNow Tile.vreg
  simp only [htval]

theorem Tile.group_bindFrz (T : Tile) (l : List OutInst) (g : Nat) : (T.bindFrz l).group g = T.group g := rfl

theorem Tile.group_savesDone (T : Tile) (l : List OutInst) (g : Nat) : (T.savesDone l).group g = T.group g := by
  have hctl : (T.savesDone l).ctl = T.ctl := by
    unfold Tile.ctl Tile.slot
    have h := amGet_map_keys T.slots (fun x => if l.any fun (o : OutInst) => o.kind / (1024 * 2 ^ x.1) % 2 == 1
      then (x.1, { x.2 with saving := false }) else x) (fun x => by dsimp only; split <;> rfl) T.act
    refine (congrArg (fun x : Option Slot => (x.getD {}).ctl) h).trans ?_
    cases amGet T.slots T.act with
    | none => rfl
    | some S =>
      dsimp only [Option.map_some, Option.getD_some]
      split <;> rfl
  unfold Tile.group
  rw [hctl]
  rfl

/-! ## The end of the instruction -/

/-- The group once a completing instruction has left its record and ORed its flags in. -/
def Group.flagged (G : Group) (cyc iid : Nat) (o : OutInst) : Group := (G.outLose cyc iid).orFlags o.fps o.ist

/-- The state once a completing instruction has left its record and ORed its flags in. -/
def State.flagged (s : State) (t g iid : Nat) (o : OutInst) : State := s.modGroup t g fun G => G.flagged (s.cycle t) iid o

/-- The state once its writes are made and the lanes that waited have gone on. -/
def State.written (s : State) (t g iid : Nat) (o : OutInst) (ws : List (Nat × Nat × W32)) (w : BitVec 32) : State :=
  ((s.flagged t g iid o).modTile t fun T => (T.bindFrz [{ o with res := ws }]).savesDone [{ o with res := ws }]).modGroup t g
    fun G => (ws.foldl Group.wr G).advance w

theorem Group.outOf_flagged (G : Group) (cyc iid : Nat) (o : OutInst) : (G.flagged cyc iid o).outOf iid = none := G.outOf_outDel iid

theorem State.flagged_regNow (s : State) (t g iid : Nat) (o : OutInst) (l r : Nat) : let u := s.flagged t g iid o
    (u.tile t).regNow ((u.tile t).group g) l r = (s.tile t).regNow ((s.tile t).group g) l r := by
  have ht : (s.flagged t g iid o).tile t = (s.tile t).setGroup g (((s.tile t).group g).flagged (s.cycle t) iid o) :=
    (s.tile_modTile _ _ _).trans (if_pos rfl)
  dsimp only
  rw [ht, Tile.regNow_setGroup, Tile.group_setGroup_same]
  exact Tile.regNow_congr _ _ _ _ _ rfl rfl rfl rfl rfl

theorem State.written_group (s : State) (t g iid : Nat) (o : OutInst) (ws : List (Nat × Nat × W32)) (w : BitVec 32) :
    ((s.written t g iid o ws w).tile t).group g =
      (ws.foldl Group.wr (((s.tile t).group g).flagged (s.cycle t) iid o)).advance w := by
  rw [State.written, State.modGroup_group, State.tile_modTile, if_pos rfl, Tile.group_savesDone, Tile.group_bindFrz, State.flagged,
    State.modGroup_group]

/-- A register reads the last write to it, or what it held. -/
theorem State.written_regNow (s : State) (t g iid : Nat) (o : OutInst) (ws : List (Nat × Nat × W32)) (w : BitVec 32) {l r : Nat}
    (hl : l < 32) (hr : r < 168) : let u := s.written t g iid o ws w
    (u.tile t).regNow ((u.tile t).group g) l r =
      ((lastWrite ws l r).map (readBack r)).getD ((s.tile t).regNow ((s.tile t).group g) l r) := by
  set u := s.flagged t g iid o with hu
  have hT : ∀ G, ((s.written t g iid o ws w).tile t).regNow G l r = (u.tile t).regNow G l r := by
    intro G
    rw [State.written, State.modGroup, State.tile_modTile, if_pos rfl, Tile.regNow_setGroup, State.tile_modTile, if_pos rfl]
    exact (Tile.regNow_store (((u.tile t).bindFrz _).savesDone _) ((u.tile t).bindFrz _) rfl G l r).trans
      (Tile.regNow_bindFrz _ _ G l r)
  have hG : (u.tile t).group g = ((s.tile t).group g).flagged (s.cycle t) iid o := s.modGroup_group _ _ _
  dsimp only
  rw [hT, s.written_group, Tile.regNow_advance _ _ _ _ _ hl, Group.wrs_reads _ _ _ hl hr, ← hG, hu, s.flagged_regNow]

/-- Writes and the advance of lanes leave records and flags. -/
theorem Group.wrs_advance (g : Group) (ws : List (Nat × Nat × W32)) (w : BitVec 32) : let h := (ws.foldl Group.wr g).advance w
    h.out = g.out ∧ h.fps = g.fps ∧ h.istat = g.istat := by
  dsimp only
  rw [Group.advance_frame, Group.wrs_frame]
  exact ⟨rfl, rfl, rfl⟩

/-- Beside registers, record and flags the group changes in the lanes that go on. -/
theorem State.written_leaves (s : State) (t g iid : Nat) (o : OutInst) (ws : List (Nat × Nat × W32)) (w : BitVec 32) :
    let G := (s.tile t).group g
    let H := ((s.written t g iid o ws w).tile t).group g
    H.outOf iid = none ∧ H.fps = G.fps ||| BitVec.ofNat 32 (o.fps % 32) ∧ H.istat = G.istat ||| BitVec.ofNat 32 (o.ist % 4) ∧
      ∀ l < 32, (H.lane l).pc = if bit w l then ((G.lane l).pc + 8) % 2 ^ 56 else (G.lane l).pc := by
  dsimp only
  rw [s.written_group]
  have hout := Group.outOf_flagged ((s.tile t).group g) (s.cycle t) iid o
  generalize hF : ((s.tile t).group g).flagged (s.cycle t) iid o = F at hout ⊢
  obtain ⟨hfout, hffps, hfist⟩ := Group.wrs_advance F ws w
  refine ⟨?_, by rw [hffps, ← hF]; rfl, by rw [hfist, ← hF]; rfl, fun l hl => ?_⟩
  · rw [Group.outOf, hfout]
    exact hout
  · rw [Group.lane_advance _ _ _ hl, Group.lane_wrs _ _ _ hl]
    subst hF
    split <;> rfl

/-! ## The completion and its trap (R137, R156) -/

/-- A trap raised against lanes of a group leaves its registers. -/
theorem State.raiseAt_regNow (s : State) (t g pc : Nat) (word : W64) (lanes : BitVec 32) (lane : Nat) {cls : TrapClass}
    (cause info1 info2 : Nat) (h : ¬ (g = 32 ∧ cls = .resource)) {l r : Nat} (hl : l < 32) (hr : r < 168) :
    let u := s.raiseAt t g pc word lanes lane cls cause info1 info2
    (u.tile t).regNow ((u.tile t).group g) l r = (s.tile t).regNow ((s.tile t).group g) l r := by
  set v : State := { s with cur := { tile := t, slot := g, sub := lanes, pc := pc, word := word } } with hv
  obtain ⟨⟨hregs, -⟩, -⟩ := v.trapLane_trapped lane cls cause info1 info2 h
  have hc : (v.raise lanes lane cls cause info1 info2).cur = v.cur := by rw [v.raise_frame]
  have := hregs l hl r hr
  rw [State.val, State.val, State.G, State.T, State.trapLane, hc] at this
  exact this

/-- An instruction that has nothing outstanding and that nothing puts off. -/
structure Completable (s : State) (t g iid : Nat) (o : OutInst) : Prop where
  out : ((s.tile t).group g).outOf iid = some o
  rem : o.rem = 0
  cmds : o.cmds = []
  ready : o.ready ≤ s.cycle t
  flags : ((s.tile t).group g).flagsPending o = false
  hor : o.hor = 0 ∨ s.passed t o.hor = true
  halted : s.haltedAt t = false

/-- The flags of its lanes that are enabled in FPS, where the instruction held its lanes for them. -/
def Group.fpsHeld (G : Group) (o : OutInst) (w : BitVec 32) : Nat := if w ≠ 0 && o.kind % 2 = 1 then G.fpsTrap o.fps else 0

/-- The flags of its lanes that are enabled in ISTAT, where the instruction held its lanes for them. -/
def Group.istHeld (G : Group) (o : OutInst) (w : BitVec 32) : Nat := if w ≠ 0 && o.kind / 2 % 2 = 1 then G.istTrap o.ist else 0

section
variable {G : Group} {o : OutInst} {w : BitVec 32}

theorem Group.fpsHeld_eq_zero (h : w = 0 ∨ (o.kind % 2 = 1 → G.fpsTrap o.fps = 0)) : G.fpsHeld o w = 0 := by
  refine ite_eq_right_iff.2 fun hc => ?_
  obtain ⟨hw, hk⟩ := Bool.and_eq_true_iff.1 hc
  exact h.resolve_left (of_decide_eq_true hw) (of_decide_eq_true hk)

theorem Group.istHeld_eq_zero (h : w = 0 ∨ (o.kind / 2 % 2 = 1 → G.istTrap o.ist = 0)) : G.istHeld o w = 0 := by
  refine ite_eq_right_iff.2 fun hc => ?_
  obtain ⟨hw, hk⟩ := Bool.and_eq_true_iff.1 hc
  exact h.resolve_left (of_decide_eq_true hw) (of_decide_eq_true hk)

theorem Group.fpsHeld_eq (hw : w ≠ 0) (hk : o.kind % 2 = 1) : G.fpsHeld o w = G.fpsTrap o.fps :=
  if_pos (Bool.and_eq_true_iff.2 ⟨decide_eq_true hw, decide_eq_true hk⟩)

theorem Group.istHeld_eq (hw : w ≠ 0) (hk : o.kind / 2 % 2 = 1) : G.istHeld o w = G.istTrap o.ist :=
  if_pos (Bool.and_eq_true_iff.2 ⟨decide_eq_true hw, decide_eq_true hk⟩)

end

section
variable {s : State} {t g iid : Nat} {o : OutInst} (h : Completable s t g iid o)
include h

/-- It completes: a flag that holds its lanes traps, else its writes are made. -/
theorem Completable.runs : let G := (s.tile t).group g
    let w := G.waitersOf iid
    let s1 := s.flagged t g iid o
    exec (.instructionComplete t g iid) s =
      if G.fpsHeld o w ≠ 0 then
        .next (s1.raiseAt t g o.pc o.word w (flagLane G.fpsTrap (o.byLane.map fun x => (x.1, x.2.1))) .arith 1 o.fps 0)
      else if G.istHeld o w ≠ 0 then
        .next (s1.raiseAt t g o.pc o.word w (flagLane G.istTrap (o.byLane.map fun x => (x.1, x.2.2))) .arith 2 o.ist 0)
      else
        let ws := o.res ++ G.flagWrites o
        let u := s.written t g iid o ws w
        .next (if G.priv = .user then u.count t 3 (G.copies ws) else u) := by
  obtain ⟨hout, hrem, hcmds, hready, hflags, hhor, hhalted⟩ := h
  have hgo : ¬ (s.haltedAt t || decide (o.rem ≠ 0) || s.cmdsLive o.cmds || decide (s.cycle t < o.ready) ||
      ((s.tile t).group g).flagsPending o || !(o.hor == 0 || s.passed t o.hor)) = true := by
    have hh : (o.hor == 0 || s.passed t o.hor) = true := by
      rcases hhor with hh | hh <;> simp [hh]
    have hc : s.cmdsLive o.cmds = false := by rw [hcmds]; rfl
    simp [hhalted, hrem, hc, hflags, hh, hready]
  rw [exec_instructionComplete, execInstructionComplete]
  simp only [hout]
  exact if_neg hgo

theorem Completable.writes (hf : ((s.tile t).group g).fpsHeld o (((s.tile t).group g).waitersOf iid) = 0)
    (hi : ((s.tile t).group g).istHeld o (((s.tile t).group g).waitersOf iid) = 0) :
    ∃ u, exec (.instructionComplete t g iid) s = .next u ∧
      Counted (s.written t g iid o (o.res ++ ((s.tile t).group g).flagWrites o) (((s.tile t).group g).waitersOf iid)) u := by
  have hrun := h.runs
  dsimp only at hrun
  rw [if_neg (not_not.2 hf), if_neg (not_not.2 hi)] at hrun
  refine ⟨_, hrun, ?_⟩
  split
  · exact State.count_counted _ _ _ _
  · exact .refl _

end

/-- The trap of a flag stands last among the group's records, and no register has been written. -/
theorem flagged_traps {s : State} {t g iid : Nat} {o : OutInst} (lane : Nat) {cause info : Nat}
    (hrun : exec (.instructionComplete t g iid) s = .next ((s.flagged t g iid o).raiseAt t g o.pc o.word
      (((s.tile t).group g).waitersOf iid) lane .arith cause info 0)) :
    ∃ u r, exec (.instructionComplete t g iid) s = .next u ∧ ((u.tile t).group g).lastTrap = some r ∧ r.cls = .arith ∧
      r.cause = cause ∧ r.pc = o.pc ∧ r.info1 = info ∧ r.lanes = ((s.tile t).group g).waitersOf iid ∧
      ∀ l < 32, ∀ n < 168, (u.tile t).regNow ((u.tile t).group g) l n = (s.tile t).regNow ((s.tile t).group g) l n := by
  have hno : ¬ (g = 32 ∧ TrapClass.arith = .resource) := fun h => TrapClass.noConfusion h.2
  obtain ⟨-, r, hr, h1, h2, -, h3, h4, -, h5⟩ := (s.flagged t g iid o).raiseAt_leaves t g o.pc o.word
    (((s.tile t).group g).waitersOf iid) lane .arith cause info 0 hno
  refine ⟨_, r, hrun, hr, h1, h2, h3, h4, h5, fun l hl n hn => ?_⟩
  rw [State.raiseAt_regNow _ _ _ _ _ _ _ _ _ _ hno hl hn, s.flagged_regNow]

theorem completions : Completions := by
  intro t g iid s o T G hout hrem hcmds hready hflags hhor hhalted
  have h : Completable s t g iid o := ⟨hout, hrem, hcmds, hready, hflags, hhor, hhalted⟩
  set w := G.waitersOf iid with hw
  refine ⟨fun hfree => ?_, fun hw0 hk hf => ?_, fun hw0 hkf hk hi => ?_⟩
  · obtain ⟨u, hrun, hu⟩ := h.writes (Group.fpsHeld_eq_zero (hfree.imp_right And.left))
      (Group.istHeld_eq_zero (hfree.imp_right And.right))
    obtain ⟨hgone, hfps, hist, hpc⟩ := s.written_leaves t g iid o (o.res ++ G.flagWrites o) w
    refine ⟨u, hrun, hu.mem, ?_⟩
    rw [(hu.tile t).group g]
    refine ⟨hgone, hfps, hist, fun l hl => ⟨fun r hr => ?_, hpc l hl⟩⟩
    rw [Tile.regNow_store _ _ (hu.tile t).store, State.written_regNow _ _ _ _ _ _ _ hl hr]
    cases lastWrite (o.res ++ G.flagWrites o) l r <;> rfl
  · have hheld : G.fpsHeld o w ≠ 0 := by rwa [Group.fpsHeld_eq hw0 hk]
    exact flagged_traps _ (h.runs.trans (if_pos hheld))
  · have hnone : ¬ G.fpsHeld o w ≠ 0 := not_not.2 (Group.fpsHeld_eq_zero (.inr hkf))
    have hheld : G.istHeld o w ≠ 0 := by rwa [Group.istHeld_eq hw0 hk]
    exact flagged_traps _ (h.runs.trans ((if_neg hnone).trans (if_pos hheld)))

end Sys2Proof.Machine
end

section
/-! PROOFS. Waits that end: fences, the units of a WAITO, the release of a BAR, the flush of a host link, and page walks. -/

namespace Sys2Proof.Machine
open Sys2Proof.Claims

theorem exec_fenceWaitEnd (t g lane : Nat) (s : State) : exec (.fenceWaitEnd t g lane) s = execFenceWaitEnd t g lane s := rfl
theorem exec_pageWalk (w : Nat) (s : State) : exec (.pageWalk w) s = execPageWalk w s := rfl
theorem exec_walkComplete (w : Nat) (s : State) : exec (.walkComplete w) s = execWalkComplete w s := rfl

/-! ## Lanes that wait alike (R114, R115) -/

/-- The lanes of a group that wait for one thing. -/
def Group.alike (G : Group) (w : Wait) : BitVec 32 := maskOf ((List.range 32).filter fun l => (G.lane l).wait == w)

theorem Group.bit_alike (G : Group) (w : Wait) {l : Nat} (hl : l < 32) : bit (G.alike w) l = decide ((G.lane l).wait = w) := by
  rw [Group.alike, bit_maskOf _ hl]
  simp [hl]

theorem Group.lane_modAlike (G : Group) (w : Wait) (f : Lane → Lane) {l : Nat} (hl : l < 32) :
    (G.modMask (G.alike w) f).lane l = if (G.lane l).wait = w then f (G.lane l) else G.lane l := by
  simp only [Group.lane_modMask _ _ _ _ hl, G.bit_alike w hl, decide_eq_true_iff]

theorem State.waitEnds_lane (s : State) (t g : Nat) (m : BitVec 32) (l : Nat) :
    (((s.waitEnds t g m).tile t).group g).lane l = ((s.tile t).group g).lane l := by
  unfold State.waitEnds
  rw [(State.push_grows _ _).tile, State.modGroup_group]
  rfl

/-- Lanes that acquire after an instruction that has ended stand where they stood. -/
theorem State.acquireThen_pc (s : State) (t g : Nat) (sc : Scope) (m : BitVec 32) {l : Nat} (hl : l < 32) :
    ((((s.acquireThen t g sc m).tile t).group g).lane l).pc = (((s.tile t).group g).lane l).pc := by
  unfold State.acquireThen
  split
  · rw [s.waitEnds_lane]
  · rw [(State.push_grows _ _).tile, State.modGroup_group, Group.lane_modMask _ _ _ _ hl]
    split <;> rfl

theorem State.acquireThen_mem (s : State) (t g : Nat) (sc : Scope) (m : BitVec 32) : (s.acquireThen t g sc m).mem = s.mem := by
  unfold State.acquireThen
  split <;> rfl

theorem fenceEnds_fence (t g lane upto : Nat) (k : FenceKind) (sc : Scope) (rpt : Bool) (s : State) :
    let G := (s.tile t).group g
    let w := Wait.fence k sc upto rpt
    let ls := (List.range 32).filter fun l => (G.lane l).wait == w
    (G.lane lane).wait = w → s.fenceOk t g k sc (maskOf ls) upto = true →
    ∃ u, exec (.fenceWaitEnd t g lane) s = .next u ∧ u.mem = s.mem ∧ ∀ l < 32, ((u.tile t).group g).lane l =
      if l ∈ ls then { G.lane l with wait := .none, relDone := rpt } else G.lane l := by
  intro G w ls hw hok
  set f : Lane → Lane := fun L => { L with wait := .none, relDone := rpt } with hf
  refine ⟨(s.modGroup t g fun G => G.modMask (maskOf ls) f).waitEnds t g (if rpt then 0 else maskOf ls), ?_, rfl, fun l hl => ?_⟩
  · rw [exec_fenceWaitEnd, execFenceWaitEnd]
    simp only [show (((s.tile t).group g).lane lane).wait = w from hw]
    exact if_pos hok
  · rw [State.waitEnds_lane, State.modGroup_group, Group.lane_modMask _ _ _ _ hl, bit_maskOf _ hl]
    simp only [decide_eq_true_iff]
    rfl

theorem fenceEnds_release (t g lane upto : Nat) (cl : Bool) (sc : Scope) (s : State) : let G := (s.tile t).group g
    (G.lane lane).wait = .relBar cl sc upto →
    (s.relOk t g sc upto = true → ∃ u, exec (.fenceWaitEnd t g lane) s = .next u ∧ u.mem = s.mem ∧
      DueEv u (.barrierComplete t G.team cl) ∧ ∀ l < 32, ((u.tile t).group g).lane l =
        if (G.lane l).wait = .relBar cl sc upto then { G.lane l with wait := .bar cl } else G.lane l) ∧
    (s.relOk t g sc upto = false → ∃ u, exec (.fenceWaitEnd t g lane) s = .next u ∧ u = { s with due := u.due } ∧
      DueEv u (.fenceWaitEnd t g lane)) := by
  intro G hw
  have hrun : exec (.fenceWaitEnd t g lane) s = if s.relOk t g sc upto then
      .next ((s.modGroup t g fun G' => G'.modMask (G.alike (.relBar cl sc upto)) fun L => { L with wait := .bar cl }).push
        [.barrierComplete t G.team cl])
      else .next (s.again (.fenceWaitEnd t g lane)) := by
    rw [exec_fenceWaitEnd, execFenceWaitEnd]
    simp only [show (((s.tile t).group g).lane lane).wait = _ from hw]
    rfl
  refine ⟨fun hok => ?_, fun hno => ?_⟩
  · refine ⟨_, hrun.trans (if_pos hok), rfl, State.dueEv_push _ (List.mem_singleton.2 rfl), fun l hl => ?_⟩
    rw [(State.push_grows _ _).tile, State.modGroup_group]
    exact G.lane_modAlike _ _ hl
  · exact ⟨_, hrun.trans (if_neg (by rw [hno]; exact Bool.false_ne_true)), (s.again_grows _).frame, s.dueEv_again _⟩

theorem fenceEnds_units (t g lane : Nat) (acc ph : Bool) (us : List Nat) (s : State) : let G := (s.tile t).group g
    (G.lane lane).wait = .units acc ph us →
    (s.unitsReady t G.team acc ph us = true → ∃ u, exec (.fenceWaitEnd t g lane) s = .next u ∧ u.mem = s.mem ∧
      ∀ l < 32, (((u.tile t).group g).lane l).pc =
        if (G.lane l).wait = .units acc ph us then ((G.lane l).pc + 8) % 2 ^ 56 else (G.lane l).pc) ∧
    (s.unitsReady t G.team acc ph us = false → ∃ u, exec (.fenceWaitEnd t g lane) s = .next u ∧
      u = { s with due := u.due } ∧ DueEv u (.fenceWaitEnd t g lane)) := by
  intro G hw
  have hrun : exec (.fenceWaitEnd t g lane) s = if s.unitsReady t G.team acc ph us then
      .next ((s.modGroup t g fun G' => G'.advance (G.alike (.units acc ph us))).acquireThen t g .part (G.alike (.units acc ph us)))
      else .next (s.again (.fenceWaitEnd t g lane)) := by
    rw [exec_fenceWaitEnd, execFenceWaitEnd]
    simp only [show (((s.tile t).group g).lane lane).wait = _ from hw]
    rfl
  refine ⟨fun hok => ?_, fun hno => ?_⟩
  · refine ⟨_, hrun.trans (if_pos hok), State.acquireThen_mem _ _ _ _ _, fun l hl => ?_⟩
    rw [State.acquireThen_pc _ _ _ _ _ hl, State.modGroup_group, Group.lane_advance _ _ _ hl, G.bit_alike _ hl]
    by_cases hl : (G.lane l).wait = .units acc ph us
    · simp only [hl, decide_true, if_true]
      rfl
    · simp only [hl, decide_false, Bool.false_eq_true, if_false]
      rfl
  · exact ⟨_, hrun.trans (if_neg (by rw [hno]; exact Bool.false_ne_true)), (s.again_grows _).frame, s.dueEv_again _⟩

/-! ## The flush of a host link (R114, R319) -/

theorem State.invalDone_frame (s : State) (tag pasid page : Nat) :
    s.invalDone tag pasid page = { s with links := (s.invalDone tag pasid page).links } := by
  unfold State.invalDone
  split <;> rfl

theorem foldl_invalDone_frame {α : Type} (f : α → Nat × Nat × Nat) (l : List α) (s : State) :
    let t := l.foldl (fun s x => s.invalDone (f x).1 (f x).2.1 (f x).2.2) s
    t = { s with links := t.links } := by
  induction l generalizing s with
  | nil => rfl
  | cons x l ih =>
    dsimp only [List.foldl_cons]
    rw [ih, s.invalDone_frame]

/-- The partitions that a host link carries. -/
def State.onLink (s : State) (tag : Nat) : Bool := ((s.part tag).map (·.link)).getD 0 == s.cur.tile

/-- A store of the host that its link has performed. -/
def Req.hostDone (r : Req) : Bool := r.perf && (match r.kind with
  | .hostStore _ => true
  | _ => false)

/-- A queue once the host has confirmed its writes. -/
def Queue.flushed (q : Queue) : Queue :=
  { q with copy := q.copy.map fun (j : CopyJob) => { j with flush := false }, drain := [] }

/-- The state once a link's flush has confirmed its stores and copies. -/
def State.flushed (s : State) : State := { s with
  reqs := s.reqs.filter fun q => !(q.2.hostDone && s.onLink q.2.tag)
  queues := s.queues.map fun q => if s.onLink q.2.cfg.tag then (q.1, q.2.flushed) else q }

theorem hostFlush_runs (s : State) : ∃ t, exec .hostFlushCompletion s = .next t ∧ t = { s.flushed with links := t.links } := by
  refine ⟨_, rfl, ?_⟩
  exact foldl_invalDone_frame (fun x : QueueCfg × Nat => (x.1.tag, x.1.pasid, x.2)) _ s.flushed

theorem fenceEnds_flush (s : State) : let mine (tag : Nat) : Prop := ((s.part tag).map (·.link)).getD 0 = s.cur.tile
    ∃ t, exec .hostFlushCompletion s = .next t ∧ t = { s with reqs := t.reqs, queues := t.queues, links := t.links } ∧
      (∀ q ∈ t.reqs, q ∈ s.reqs ∧ ∀ v, q.2.kind = .hostStore v → q.2.perf = true → ¬ mine q.2.tag) ∧
      (∀ q ∈ t.queues, mine q.2.cfg.tag → q.2.drain = [] ∧ ∀ j, q.2.copy = some j → j.flush = false) := by
  intro mine
  have hmine (tag : Nat) : s.onLink tag = true ↔ mine tag := beq_iff_eq
  obtain ⟨t, hrun, ht⟩ := hostFlush_runs s
  refine ⟨t, hrun, ?_, ?_, ?_⟩
  · rw [ht]
    rfl
  · rw [ht]
    intro q hq
    obtain ⟨hq, hkeep⟩ := List.mem_filter.1 hq
    refine ⟨hq, fun v hk hp hm => ?_⟩
    have hdone : q.2.hostDone = true := by rw [Req.hostDone, hk, hp]; rfl
    rw [hdone, (hmine _).2 hm] at hkeep
    cases hkeep
  · rw [ht]
    intro q hq hm
    obtain ⟨y, -, rfl⟩ := List.mem_map.1 hq
    by_cases hy : s.onLink y.2.cfg.tag = true
    · rw [if_pos hy]
      refine ⟨rfl, fun j hj => ?_⟩
      obtain ⟨i, -, rfl⟩ := Option.map_eq_some_iff.1 hj
      rfl
    · rw [if_neg hy] at hm
      exact absurd ((hmine _).2 hm) hy

theorem fenceEnds : FenceEnds := ⟨fenceEnds_fence, fenceEnds_release, fenceEnds_units, fenceEnds_flush⟩

/-! ## Page walks (R82 to R86) -/

theorem walkStarts (w : Nat) (s : State) (W : Walk) (hW : amGet s.walks w = some W) (hst : W.started = false)
    (hfield : (s.field W.field).stopped = false)
    (hfree : (s.walks.filter fun x => x.2.field == W.field && x.2.started).length < (s.field W.field).walkers) :
    ∃ t, exec (.pageWalk w) s = .next t ∧ amGet t.walks w = some { W with started := true } ∧ DueEv t (.walkComplete w) ∧
      t = { s with walks := t.walks, due := t.due } := by
  refine ⟨({ s with walks := amSet s.walks w { W with started := true } } : State).push [.walkComplete w], ?_,
    amGet_amSet_same _ _ _, State.dueEv_push _ (List.mem_singleton.2 rfl), rfl⟩
  rw [exec_pageWalk, execPageWalk]
  simp only [hW, hst, hfield, hfree]
  rfl

/-- The requester runs the context that the walk was for. -/
def Walk.For (W : Walk) (T : Tile) : Prop := T.tag = W.tag ∧ T.gen = W.gen ∧ T.ctl.ctx = W.ctx

/-- A group has the walk's answer, and no lane of it waits for a walk. -/
def Group.told (G : Group) (page : Nat) (r : WalkRes) : Prop :=
  G.walkAns.find? (fun a => a.1 == page) = some (page, r) ∧ ∀ l < 32, (G.lane l).wait ≠ Wait.walk

/-- A lane that waits for a walk goes on. -/
def Lane.awake (L : Lane) : Lane := if L.wait = .walk then { L with wait := .none } else L

/-- A group that takes the answer of a walk. -/
def Group.tell (G : Group) (page : Nat) (r : WalkRes) : Group :=
  { G with walkAns := (page, r) :: G.walkAns.filter fun a => a.1 != page }.mapLanes fun _ L => L.awake

theorem Lane.wait_awake (L : Lane) : L.awake.wait ≠ .walk := by
  unfold Lane.awake
  split
  · exact Wait.noConfusion
  · assumption

theorem Group.told_tell (G : Group) (page : Nat) (r : WalkRes) : (G.tell page r).told page r := by
  refine ⟨?_, fun l hl => ?_⟩
  · simp [Group.tell, Group.mapLanes]
  · rw [Group.tell, Group.lane_mapLanes _ _ _ hl]
    exact Lane.wait_awake _

/-- An answer reaches a requester that still runs the context, whose tile may take a translation; it passes any other by. -/
theorem State.answer_cases (s : State) (W : Walk) (r : WalkRes) (q : WalkReq) :
    ¬ W.For (s.tile q.tile) ∧ s.answer W r q = s ∨ W.For (s.tile q.tile) ∧ ∃ a b,
      s.answer W r q = s.setTile q.tile ({ s.tile q.tile with tlb1 := a, tlb2 := b }.setGroup q.slot
        (((s.tile q.tile).group q.slot).tell W.page r)) := by
  have hguard : (decide ((s.tile q.tile).tag ≠ W.tag) || decide ((s.tile q.tile).gen ≠ W.gen) ||
      decide ((s.tile q.tile).ctl.ctx ≠ W.ctx)) = true ↔ ¬ W.For (s.tile q.tile) := by
    simp only [Walk.For, Bool.or_eq_true, decide_eq_true_iff]
    tauto
  by_cases hfor : W.For (s.tile q.tile)
  · refine .inr ⟨hfor, ?_⟩
    obtain ⟨U, hrun, hU⟩ : ∃ U : Tile, s.answer W r q = s.setTile q.tile (U.setGroup q.slot ((U.group q.slot).tell W.page r)) ∧
        (U = s.tile q.tile ∨ ∃ e, U = (s.tile q.tile).install e) := by
      refine ⟨_, (if_neg (mt hguard.1 (not_not.2 hfor))).trans rfl, ?_⟩
      cases r with
      | ok e =>
        dsimp only
        split
        · exact .inr ⟨e, rfl⟩
        · exact .inl rfl
      | one lvl => exact .inl rfl
      | two lvl ppa => exact .inl rfl
    rw [hrun]
    rcases hU with rfl | ⟨e, rfl⟩ <;> exact ⟨_, _, rfl⟩
  · exact .inl ⟨hfor, if_pos (hguard.2 hfor)⟩

/-- What an answer of a walk leaves: memory, the other walks, the contexts that tiles run, and the answers given before. -/
structure Answering (W : Walk) (r : WalkRes) (s t : State) : Prop where
  mem : t.mem = s.mem
  walks : t.walks = s.walks
  runs : ∀ x, W.For (t.tile x) ↔ W.For (s.tile x)
  told : ∀ x g, ((s.tile x).group g).told W.page r → ((t.tile x).group g).told W.page r

theorem Answering.refl (W : Walk) (r : WalkRes) (s : State) : Answering W r s s := ⟨rfl, rfl, fun _ => .rfl, fun _ _ h => h⟩

theorem Answering.trans {W : Walk} {r : WalkRes} {s t u : State} (h : Answering W r s t) (k : Answering W r t u) :
    Answering W r s u where
  mem := k.mem.trans h.mem
  walks := k.walks.trans h.walks
  runs x := (k.runs x).trans (h.runs x)
  told x g := k.told x g ∘ h.told x g

theorem Walk.for_setGroup (W : Walk) (T : Tile) (g : Nat) (x : Group) : W.For (T.setGroup g x) ↔ W.For T := by
  have htag : (T.setGroup g x).tag = T.tag ∧ (T.setGroup g x).gen = T.gen := by
    unfold Tile.setGroup
    split <;> exact ⟨rfl, rfl⟩
  unfold Walk.For
  rw [htag.1, htag.2, Tile.ctl_setGroup]

theorem State.answer_answering (s : State) (W : Walk) (r : WalkRes) (q : WalkReq) : Answering W r s (s.answer W r q) := by
  rcases s.answer_cases W r q with ⟨-, h⟩ | ⟨-, a, b, h⟩
  · rw [h]
    exact .refl W r s
  rw [h]
  refine ⟨rfl, rfl, fun x => ?_, fun x g hx => ?_⟩
  · rw [State.tile_setTile]
    split
    · next e =>
      rw [e]
      exact W.for_setGroup _ _ _
    · rfl
  · rw [State.tile_setTile]
    split
    · next e =>
      rw [e] at hx
      by_cases hg : g = q.slot
      · rw [hg, Tile.group_setGroup_same]
        exact Group.told_tell _ _ _
      · rw [Tile.group_setGroup_other _ _ _ _ hg]
        exact hx
    · exact hx

theorem State.answer_told (s : State) (W : Walk) (r : WalkRes) (q : WalkReq) (h : W.For (s.tile q.tile)) :
    (((s.answer W r q).tile q.tile).group q.slot).told W.page r := by
  rcases s.answer_cases W r q with ⟨hno, -⟩ | ⟨-, a, b, hrun⟩
  · exact absurd h hno
  · rw [hrun, State.tile_setTile, if_pos rfl, Tile.group_setGroup_same]
    exact Group.told_tell _ _ _

/-- After its answers every requester that still runs the context is told. -/
theorem foldl_answer (W : Walk) (r : WalkRes) (l : List WalkReq) (s : State) : let t := l.foldl (fun s q => s.answer W r q) s
    Answering W r s t ∧ ∀ q ∈ l, W.For (s.tile q.tile) → ((t.tile q.tile).group q.slot).told W.page r := by
  induction l generalizing s with
  | nil => exact ⟨.refl W r s, fun _ h => absurd h List.not_mem_nil⟩
  | cons p l ih =>
    obtain ⟨hkept, htold⟩ := ih (s.answer W r p)
    have hp := s.answer_answering W r p
    refine ⟨hp.trans hkept, fun q hq hfor => ?_⟩
    rcases List.mem_cons.1 hq with rfl | hq
    · exact hkept.told _ _ (s.answer_told W r q hfor)
    · exact htold q hq ((hp.runs _).2 hfor)

theorem walkAnswers (w : Nat) (s : State) (W : Walk) (hW : amGet s.walks w = some W) (hst : W.started = true) :
    ∃ t, exec (.walkComplete w) s = .next t ∧ amGet t.walks w = none ∧ t.mem = s.mem ∧ ∀ q ∈ W.req,
      (s.tile q.tile).tag = W.tag → (s.tile q.tile).gen = W.gen → (s.tile q.tile).ctl.ctx = W.ctx →
      ((t.tile q.tile).group q.slot).walkAns.find? (fun a => a.1 == W.page) =
        some (W.page, s.walk W.tag W.ctx W.root (W.page * 65536)) ∧
      ∀ l < 32, (((t.tile q.tile).group q.slot).lane l).wait ≠ .walk := by
  set r := s.walk W.tag W.ctx W.root (W.page * 65536) with hr
  obtain ⟨hkept, htold⟩ := foldl_answer W r W.req { s with walks := amDel s.walks w }
  refine ⟨_, ?_, ?_, hkept.mem, fun q hq htag hgen hctx => htold q hq ⟨htag, hgen, hctx⟩⟩
  · rw [exec_walkComplete, execWalkComplete]
    simp only [hW, hst]
    rfl
  · rw [hkept.walks, amGet_amDel, if_pos rfl]

theorem walks : Walks := ⟨walkStarts, walkAnswers⟩

/-- Settles O39: a completion by its writes taken one after the other, a fence by the lanes that wait alike, a walk by what each
answer leaves of those before it. -/
theorem completionWaitSteps : Obligations.CompletionWaitSteps := ⟨completions, fenceEnds, walks⟩

end Sys2Proof.Machine
end

section
/-! PROOFS. Canonical memories: the form (log 8), and that the operations on the state keep it. -/

namespace Sys2Proof.Machine
open Host

/-- Plinth memory and host memory are in canonical form. -/
def State.Canon (s : State) : Prop := Memory.wf s.mem = true ∧ Memory.wf s.host = true

/-- Where the outcome is a next state, its memories are in canonical form. -/
def Res.Canon : Res → Prop
  | .next t => t.Canon
  | _ => True

namespace State.Canon
variable {s : State}

theorem ite {c : Prop} [Decidable c] {a b : State} (ha : a.Canon) (hb : b.Canon) : (if c then a else b).Canon := by
  split <;> assumption

theorem ite1 {α : Type} {c : Prop} [Decidable c] {a b : State × α} (ha : a.1.Canon) (hb : b.1.Canon) :
    (if c then a else b).1.Canon := by
  split <;> assumption

theorem foldl {α : Type} {f : State → α → State} {l : List α} (h : s.Canon) (hf : ∀ s x, s.Canon → (f s x).Canon) :
    (l.foldl f s).Canon := by
  induction l generalizing s with
  | nil => exact h
  | cons x l ih => exact ih (hf s x h)

theorem foldAcc {α : Type} {f : Acc → α → Acc} {l : List α} {a : Acc} (h : a.s.Canon)
    (hf : ∀ a x, a.s.Canon → (f a x).s.Canon) : (l.foldl f a).s.Canon := by
  induction l generalizing a with
  | nil => exact h
  | cons x l ih => exact ih (hf a x h)

theorem setMem (h : s.Canon) {m : List Host.Cell} (hm : Memory.wf m = true) : (s.setMem m).Canon := ⟨hm, h.2⟩
theorem setHost (h : s.Canon) {m : List Host.Cell} (hm : Memory.wf m = true) : (s.setHost m).Canon := ⟨h.1, hm⟩

end State.Canon

theorem Res.Canon.next {t : State} (h : t.Canon) : Res.Canon (.next t) := h
theorem Res.Canon.ite {c : Prop} [Decidable c] {a b : Res} (ha : a.Canon) (hb : b.Canon) : Res.Canon (if c then a else b) := by
  split <;> assumption

variable {s : State}

/-! ## The state at reset -/

theorem State.Canon.reset : State.reset.Canon := ⟨rfl, rfl⟩

/-! ## Fields of the state, memory writes, holds and traps -/

theorem State.Canon.setTile {t : Nat} {x : Tile} (h : s.Canon) : (s.setTile t x).Canon := h
theorem State.Canon.modTile {t : Nat} {f : Tile → Tile} (h : s.Canon) : (s.modTile t f).Canon := h
theorem State.Canon.modGroup {t g : Nat} {f : Group → Group} (h : s.Canon) : (s.modGroup t g f).Canon := h
theorem State.Canon.modG {f : Group → Group} (h : s.Canon) : (s.modG f).Canon := h
theorem State.Canon.setField {f : Nat} {x : Field} (h : s.Canon) : (s.setField f x).Canon := h
theorem State.Canon.setPart {tag : Nat} {x : Part} (h : s.Canon) : (s.setPart tag x).Canon := h

theorem State.Canon.modPart {tag : Nat} {f : Part → Part} (h : s.Canon) : (s.modPart tag f).Canon := by
  unfold State.modPart
  split <;> exact h

theorem State.Canon.modCtx {tag ctx : Nat} {f : Ctx → Ctx} (h : s.Canon) : (s.modCtx tag ctx f).Canon := .modPart h
theorem State.Canon.modKs {f : Keystone → Keystone} (h : s.Canon) : (s.modKs f).Canon := h
theorem State.Canon.setQueue {n : Nat} {q : Queue} (h : s.Canon) : (s.setQueue n q).Canon := h

theorem State.Canon.modQueue {n : Nat} {f : Queue → Queue} (h : s.Canon) : (s.modQueue n f).Canon := by
  unfold State.modQueue
  split <;> exact h

theorem State.Canon.setSlice {f i : Nat} {x : Slice} (h : s.Canon) : (s.setSlice f i x).Canon := h
theorem State.Canon.setLink {n : Nat} {x : HostLink} (h : s.Canon) : (s.setLink n x).Canon := h
theorem State.Canon.tally {cls f i n : Nat} (h : s.Canon) : (s.tally cls f i n).Canon := h
theorem State.Canon.setReq {r : Nat} {x : Req} (h : s.Canon) : (s.setReq r x).Canon := h
theorem State.Canon.delReq {r : Nat} (h : s.Canon) : (s.delReq r).Canon := h
theorem State.Canon.push {l : List Instr} (h : s.Canon) : (s.push l).Canon := h
theorem State.Canon.pushAt {tile slot : Nat} {i : Instr} (h : s.Canon) : (s.pushAt tile slot i).Canon := h
theorem State.Canon.again {i : Instr} (h : s.Canon) : (s.again i).Canon := .ite h h
theorem State.Canon.againAt {tile slot : Nat} {i : Instr} (h : s.Canon) : (s.againAt tile slot i).Canon := .ite h h
theorem State.Canon.drawn (h : s.Canon) : s.drawn.Canon := h
theorem State.Canon.fresh (h : s.Canon) : s.fresh.Canon := h
theorem State.Canon.report (h : s.Canon) : s.report.Canon := .foldl h (fun _ _ h => .ite (.again h) h)
theorem State.Canon.wake {tag : Nat} (h : s.Canon) : (s.wake tag).Canon := .foldl h (fun _ _ h => .ite (.again h) h)

theorem State.Canon.putMem {pa n v : Nat} (h : s.Canon) : (s.putMem pa n v).Canon :=
  .report (.setMem h (Memory.wf_write _ _ _ _ h.1))

theorem State.Canon.putBytes {pa : Nat} {l : List Byte} (h : s.Canon) : (s.putBytes pa l).Canon :=
  .report (.setMem h (Memory.wf_putBytes _ _ _ h.1))

theorem State.Canon.result {i : Instr} {r : Nat} (h : s.Canon) : (s.result i r).Canon := h
theorem State.Canon.next (h : s.Canon) : s.next.Canon := h
theorem State.Canon.hold {w : Wait} (h : s.Canon) : (s.hold w).Canon := h

theorem State.Canon.raise {lanes : BitVec 32} {lane : Nat} {cls : TrapClass} {cause info1 info2 : Nat} (h : s.Canon) :
    (s.raise lanes lane cls cause info1 info2).Canon :=
  .push (.ite h (.ite h h))

theorem State.Canon.trapAll {cls : TrapClass} {cause info1 info2 : Nat} (h : s.Canon) :
    (s.trapAll cls cause info1 info2).Canon :=
  .raise h

theorem State.Canon.trapLane {lane : Nat} {cls : TrapClass} {cause info1 info2 : Nat} (h : s.Canon) :
    (s.trapLane lane cls cause info1 info2).Canon :=
  .raise h

theorem State.Canon.needPriv {k : Bool} {f : State → State} (h : s.Canon) (hf : ∀ s, s.Canon → (f s).Canon) :
    (s.needPriv k f).Canon :=
  .ite (hf _ h) (.trapAll h)

/-! ## Walks and the time of a tile -/

theorem State.Canon.startWalk {t g va : Nat} {kind : AccKind} (h : s.Canon) : (s.startWalk t g va kind).Canon := by
  unfold State.startWalk
  dsimp only
  split
  · exact .ite h h
  · exact h

theorem State.Canon.tick (h : s.Canon) : s.tick.Canon := by
  unfold State.tick
  split <;> exact h

theorem State.Canon.charge {o : Nat} {f : Owner → Owner} (h : s.Canon) : (s.charge o f).Canon := h
theorem State.Canon.chargeHost {o n : Nat} (h : s.Canon) : (s.chargeHost o n).Canon := h
theorem State.Canon.chargeJar {o n : Nat} (h : s.Canon) : (s.chargeJar o n).Canon := h

theorem State.Canon.countIn {t slot cyc : Nat} {sel : W32 → Bool} {n : Nat} (h : s.Canon) :
    (s.countIn t slot cyc sel n).Canon :=
  h

theorem State.Canon.count {t ev n : Nat} (h : s.Canon) : (s.count t ev n).Canon := .ite h h

theorem State.Canon.countFrom {t ev cyc n : Nat} (h : s.Canon) : (s.countFrom t ev cyc n).Canon :=
  .ite (.ite h h) (.countIn (.ite h h))

theorem State.Canon.countU {ev n : Nat} (h : s.Canon) : (s.countU ev n).Canon := .ite (.count h) h

/-! ## Device memory, queues of vectors and events -/

theorem State.Canon.clearStatus {tag f v : Nat} (h : s.Canon) : (s.clearStatus tag f v).Canon := .ite h h

theorem State.Canon.blockStore {tag ctx off n v : Nat} {priv : Priv} (h : s.Canon) :
    (s.blockStore tag ctx off n v priv).Canon := by
  unfold State.blockStore
  split
  · exact .modCtx h
  · exact .push (.modCtx h)

theorem State.Canon.devWrite {tag off n v : Nat} {priv : Priv} (h : s.Canon) : (s.devWrite tag off n v priv).Canon :=
  .ite (.foldl h (fun _ _ h => .ite h h)) (.ite (.foldl h (fun _ _ h => .clearStatus h)) (.ite (.blockStore h)
    (.ite (.ite h (.foldl h (fun _ _ h => h))) (.ite (.ite (.modCtx h) h) h))))

theorem State.Canon.devMemWrite {c : Option Ctx} {pa n v : Nat} (h : s.Canon) : (s.devMemWrite c pa n v).Canon := by
  unfold State.devMemWrite
  split
  · exact .putMem h
  · exact .setHost h (Memory.wf_write _ _ _ _ h.2)
  · exact .devWrite h
  · exact h
  · exact h

theorem State.Canon.virtWrite {tag ctx va n v : Nat} {priv : Priv} (h : s.Canon) :
    (s.virtWrite tag ctx va n v priv).Canon := by
  unfold State.virtWrite
  split
  · exact .devMemWrite h
  · exact h

theorem State.Canon.raiseVector {tag vec : Nat} (h : s.Canon) : (s.raiseVector tag vec).Canon := by
  unfold State.raiseVector
  split
  · exact .ite h (.ite (.modPart h) h)
  · exact h

theorem State.Canon.queueVector {ifn vec : Nat} (h : s.Canon) : (s.queueVector ifn vec).Canon := by
  unfold State.queueVector
  split
  · exact h
  · exact .ite h (.ite (.againAt h) (.raiseVector h))

theorem State.Canon.post {tag ctx : Nat} {e : EvRec} (h : s.Canon) : (s.post tag ctx e).Canon := by
  unfold State.post
  split
  · exact h
  · refine .ite h (.ite (.modCtx h) ?_)
    split
    · exact .modCtx h
    · exact .ite (.modCtx h) (.ite (.raiseVector (.modCtx (.devMemWrite h))) (.modCtx (.devMemWrite h)))

theorem State.Canon.invalDone {tag pasid page : Nat} (h : s.Canon) : (s.invalDone tag pasid page).Canon := .ite h h

theorem State.Canon.postAll {tag : Nat} {e : EvRec} (h : s.Canon) : (s.postAll tag e).Canon := by
  unfold State.postAll
  split
  · exact .foldl h (fun _ _ h => .post h)
  · exact h

/-! ## Lines of the second-level cache -/

theorem State.Canon.l2Evict {f i now : Nat} {x : L2Line} (h : s.Canon) : (s.l2Evict f i now x).Canon := by
  unfold State.l2Evict
  dsimp only
  split
  · exact .charge (by split <;> exact h)
  · split <;> exact h

theorem State.Canon.l2Touch {tag own pa d due : Nat} {alloc wr : Bool} (h : s.Canon) :
    (s.l2Touch tag own pa d due alloc wr).1.Canon := by
  unfold State.l2Touch
  dsimp only
  split
  · split
    · exact .ite1 h h
    · exact h
  · split
    · exact .ite h h
    · refine .ite1 h (.setSlice ?_)
      split
      · split
        · exact .l2Evict h
        · exact h
      · exact h

theorem State.Canon.grantLease {pa lease : Nat} (h : s.Canon) : (s.grantLease pa lease).Canon := .ite h h
theorem State.Canon.clearPoison {pa n : Nat} (h : s.Canon) : (s.clearPoison pa n).Canon := h

/-! ## Results of an instruction -/

theorem State.Canon.issueOut {o : OutInst} (h : s.Canon) : (s.issueOut o).Canon := h

theorem State.Canon.retire {c : Ctl} {ws : List (Nat × Nat × W32)} {flags : List (Nat × Nat × Nat)} {lat : Option Nat}
    {canF canI : Bool} (h : s.Canon) : (s.retire c ws flags lat canF canI).Canon := by
  unfold State.retire
  dsimp only
  split
  · exact .ite (.trapLane h) (.ite (.trapLane h) (.next (.ite h h)))
  · exact .ite h h

theorem State.Canon.alu {c : Ctl} {d : Reg} {n : Nat} {srcs : List Reg} {lat : Option Nat} {canF canI : Bool}
    {f : Nat → LaneOut} (h : s.Canon) : (s.alu c d n srcs lat canF canI f).Canon :=
  .retire h

theorem State.Canon.aluP {c : Ctl} {pd : Fin 8} {lat : Nat} {f : Nat → Bool × Nat} (h : s.Canon) :
    (s.aluP c pd lat f).Canon :=
  .retire h

end Sys2Proof.Machine
end

section
/-! PROOFS. Canonical memories: the instructions of a group, and the steps that finish what they began. -/

namespace Sys2Proof.Machine
open Host

variable {s : State}

/-! ## Integer instructions -/

theorem Res.Canon.intR {x : IntR} {lat : Option Nat} {f : ℤ → ℤ → ℤ} (h : s.Canon) : Res.Canon (s.intR x lat f) :=
  .next (.alu h)

theorem Res.Canon.intI {x : IntI} {lat : Option Nat} {f : ℤ → ℤ → ℤ} (h : s.Canon) : Res.Canon (s.intI x lat f) :=
  .next (.alu h)

theorem Res.Canon.intU {x : IntU} {f : ℤ → ℤ} (h : s.Canon) : Res.Canon (s.intU x f) := .next (.alu h)
theorem Res.Canon.bitR {x : BitR} {f : Nat → Nat → Nat} (h : s.Canon) : Res.Canon (s.bitR x f) := .next (.alu h)
theorem Res.Canon.bitI {x : BitI} {f : Nat → Nat → Nat} (h : s.Canon) : Res.Canon (s.bitI x f) := .next (.alu h)
theorem Res.Canon.bitU {x : BitU} {n : Nat} {f : Nat → Nat} (h : s.Canon) : Res.Canon (s.bitU x n f) := .next (.alu h)
theorem Res.Canon.shR {x : BitR} {f : Nat → Nat → Nat → Nat} (h : s.Canon) : Res.Canon (s.shR x f) := .next (.alu h)
theorem Res.Canon.shI {x : ShI} {f : Nat → Nat → Nat → Nat} (h : s.Canon) : Res.Canon (s.shI x f) := .next (.alu h)
theorem execAdd_canon {x : IntR} (h : s.Canon) : Res.Canon (execAdd x s) := .intR h
theorem execAddI_canon {x : IntI} (h : s.Canon) : Res.Canon (execAddI x s) := .intI h
theorem execSub_canon {x : IntR} (h : s.Canon) : Res.Canon (execSub x s) := .intR h
theorem execSubI_canon {x : IntI} (h : s.Canon) : Res.Canon (execSubI x s) := .intI h
theorem execMul_canon {x : IntR} (h : s.Canon) : Res.Canon (execMul x s) := .intR h
theorem execMulI_canon {x : IntI} (h : s.Canon) : Res.Canon (execMulI x s) := .intI h
theorem execMulh_canon {x : IntR} (h : s.Canon) : Res.Canon (execMulh x s) := .intR h
theorem execMad_canon {x : IntRC} (h : s.Canon) : Res.Canon (execMad x s) := .next (.alu h)
theorem execMin_canon {x : IntR} (h : s.Canon) : Res.Canon (execMin x s) := .intR h
theorem execMinI_canon {x : IntI} (h : s.Canon) : Res.Canon (execMinI x s) := .intI h
theorem execMax_canon {x : IntR} (h : s.Canon) : Res.Canon (execMax x s) := .intR h
theorem execMaxI_canon {x : IntI} (h : s.Canon) : Res.Canon (execMaxI x s) := .intI h
theorem execAbs_canon {x : IntU} (h : s.Canon) : Res.Canon (execAbs x s) := .intU h
theorem execNeg_canon {x : IntU} (h : s.Canon) : Res.Canon (execNeg x s) := .intU h
theorem execDiv_canon {x : IntR} (h : s.Canon) : Res.Canon (execDiv x s) := .next (.alu h)
theorem execRem_canon {x : IntR} (h : s.Canon) : Res.Canon (execRem x s) := .next (.alu h)
theorem execAnd_canon {x : BitR} (h : s.Canon) : Res.Canon (execAnd x s) := .bitR h
theorem execAndI_canon {x : BitI} (h : s.Canon) : Res.Canon (execAndI x s) := .bitI h
theorem execOr_canon {x : BitR} (h : s.Canon) : Res.Canon (execOr x s) := .bitR h
theorem execOrI_canon {x : BitI} (h : s.Canon) : Res.Canon (execOrI x s) := .bitI h
theorem execXor_canon {x : BitR} (h : s.Canon) : Res.Canon (execXor x s) := .bitR h
theorem execXorI_canon {x : BitI} (h : s.Canon) : Res.Canon (execXorI x s) := .bitI h
theorem execNot_canon {x : BitU} (h : s.Canon) : Res.Canon (execNot x s) := .bitU h
theorem execShl_canon {x : BitR} (h : s.Canon) : Res.Canon (execShl x s) := .shR h
theorem execShlI_canon {x : ShI} (h : s.Canon) : Res.Canon (execShlI x s) := .shI h
theorem execShr_canon {x : BitR} (h : s.Canon) : Res.Canon (execShr x s) := .shR h
theorem execShrI_canon {x : ShI} (h : s.Canon) : Res.Canon (execShrI x s) := .shI h
theorem execSar_canon {x : BitR} (h : s.Canon) : Res.Canon (execSar x s) := .shR h
theorem execSarI_canon {x : ShI} (h : s.Canon) : Res.Canon (execSarI x s) := .shI h
theorem execRot_canon {x : BitR} (h : s.Canon) : Res.Canon (execRot x s) := .shR h
theorem execRotI_canon {x : ShI} (h : s.Canon) : Res.Canon (execRotI x s) := .shI h
theorem execPopc_canon {x : BitU} (h : s.Canon) : Res.Canon (execPopc x s) := .bitU h
theorem execClz_canon {x : BitU} (h : s.Canon) : Res.Canon (execClz x s) := .bitU h
theorem execBrev_canon {x : BitU} (h : s.Canon) : Res.Canon (execBrev x s) := .bitU h
theorem execBfx_canon {x : IntR} (h : s.Canon) : Res.Canon (execBfx x s) := .next (.alu h)
theorem execBfi_canon {x : BitRC} (h : s.Canon) : Res.Canon (execBfi x s) := .next (.alu h)
theorem execLea_canon {x : LeaR} (h : s.Canon) : Res.Canon (execLea x s) := .next (.alu h)
theorem execLeaI_canon {x : LeaI} (h : s.Canon) : Res.Canon (execLeaI x s) := .next (.alu h)
theorem execMov_canon {x : BitU} (h : s.Canon) : Res.Canon (execMov x s) := .bitU h
theorem execMovi_canon {x : MoviR} (h : s.Canon) : Res.Canon (execMovi x s) := .next (.alu h)
theorem execSel_canon {x : SelR} (h : s.Canon) : Res.Canon (execSel x s) := .next (.alu h)
theorem execCmp_canon {x : CmpR} (h : s.Canon) : Res.Canon (execCmp x s) := .next (.aluP h)
theorem execCmpI_canon {x : CmpI} (h : s.Canon) : Res.Canon (execCmpI x s) := .next (.aluP h)
theorem execPand_canon {x : PredR} (h : s.Canon) : Res.Canon (execPand x s) := .next (.aluP h)
theorem execPor_canon {x : PredR} (h : s.Canon) : Res.Canon (execPor x s) := .next (.aluP h)
theorem execPxor_canon {x : PredR} (h : s.Canon) : Res.Canon (execPxor x s) := .next (.aluP h)
theorem execPnot_canon {x : PredU} (h : s.Canon) : Res.Canon (execPnot x s) := .next (.aluP h)

/-! ## The way of a memory access after its issue -/

theorem State.Canon.outDone {t g iid : Nat} {ws : List (Nat × Nat × W32)} {fps : Nat} (h : s.Canon) :
    (s.outDone t g iid ws fps).Canon := by
  unfold State.outDone
  split
  · exact h
  · exact .ite h h

theorem State.Canon.raiseAt {t g pc : Nat} {word : W64} {lanes : BitVec 32} {lane : Nat} {cls : TrapClass}
    {cause info1 info2 : Nat} (h : s.Canon) : (s.raiseAt t g pc word lanes lane cls cause info1 info2).Canon :=
  .raise h

theorem State.Canon.noteTrap {t g pc : Nat} {word : W64} {cls : TrapClass} {cause info1 info2 : Nat} (h : s.Canon) :
    (s.noteTrap t g pc word cls cause info1 info2).Canon :=
  h

theorem execInstructionComplete_canon {t g iid : Nat} (h : s.Canon) :
    Res.Canon (execInstructionComplete t g iid s) := by
  unfold execInstructionComplete
  dsimp only
  split
  · exact .next h
  · exact .ite (.next (.again h)) (.ite (.next (.raiseAt h)) (.ite (.next (.raiseAt h)) (.next (.ite (.count h) h))))

theorem State.Canon.logDrop {t : Nat} {p : Packet} {reason : Nat} (h : s.Canon) : (s.logDrop t p reason).Canon := h

theorem State.Canon.send {r : Req} (h : s.Canon) : (s.send r).Canon := by
  unfold State.send
  dsimp only
  split
  · exact h
  · exact .again h

theorem State.Canon.ackRh {r : Req} {c : Nat} (h : s.Canon) : (s.ackRh r c).Canon := h
theorem State.Canon.countServed {r : Req} {hit : Bool} (h : s.Canon) : (s.countServed r hit).Canon := .ite (.count h) h

theorem execSliceRead_canon {id : Nat} (h : s.Canon) : Res.Canon (execSliceRead id s) := by
  unfold execSliceRead
  split
  · exact .next h
  · dsimp only
    split
    · exact .next h
    · exact .ite (.next h) (.ite (.next (.again h)) (.ite (.next (.push (.setReq (.countServed (.l2Touch h)))))
        (.ite (.next (.delReq (.countServed (.l2Touch h))))
          (.next (.push (.fresh (.setReq (.ite (.grantLease (.countServed (.l2Touch h))) (.countServed
            (.l2Touch h))))))))))

theorem execL1Fill_canon {id : Nat} (h : s.Canon) : Res.Canon (execL1Fill id s) := by
  unfold execL1Fill
  split
  · exact .next h
  · refine .ite (.next h) (.ite (.next (.again h)) ?_)
    dsimp only
    split
    · exact .next (.delReq (.ite h h))
    · exact .next (.push (.setReq (.ite h h)))

theorem State.Canon.eccLoad {id : Nat} {r : Req} (h : s.Canon) : (s.eccLoad id r).Canon := by
  unfold State.eccLoad
  dsimp only
  split
  · exact h
  · exact .raiseAt h

theorem execLoadResponse_canon {id : Nat} (h : s.Canon) : Res.Canon (execLoadResponse id s) := by
  unfold execLoadResponse
  split
  · exact .next h
  · refine .ite (.next h) (.ite (.next (.again h)) ?_)
    split
    · exact .next h
    · exact .next (.outDone h)
    · exact .ite (.next (.raiseAt h)) (.next (.outDone h))
    · exact .ite (.next h) (.ite (.next (.eccLoad h)) (.next (.outDone h)))
    · exact .ite (.next h) (.ite (.next (.eccLoad h)) (.next (.outDone h)))
    · exact .next h

theorem State.Canon.patchFills {r : Req} {v : Nat} (h : s.Canon) : (s.patchFills r v).Canon := h
theorem State.Canon.killFills {r : Req} (h : s.Canon) : (s.killFills r).Canon := h

theorem execSliceStoreApply_canon {id : Nat} (h : s.Canon) : Res.Canon (execSliceStoreApply id s) := by
  unfold execSliceStoreApply
  split
  · exact .next h
  · split
    · exact .ite (.next h) (.ite (.next (.again h)) (.ite (.next h)
        (.next (.push (.setReq (.patchFills (.putMem (.clearPoison (.countServed (.l2Touch h))))))))))
    · exact .next h

theorem execStoreAck_canon {id : Nat} (h : s.Canon) : Res.Canon (execStoreAck id s) := by
  unfold execStoreAck
  dsimp only
  split
  · exact .next h
  refine .ite (.next h) ?_
  split
  · exact .ite (.next h) (.ite (.next (.again h)) (.next (.outDone (.ite h h))))
  · exact .ite (.next h) (.ite (.next (.again h))
      (.next (.outDone (.setReq (.chargeHost (.setHost h (Memory.wf_write _ _ _ _ h.2)))))))
  · exact .ite (.next (.again h)) (.ite (.next (.outDone (.post (.drawn (.ite h h)))))
      (.next (.outDone (.ackRh (.drawn (.ite h h))))))
  · exact .next h

theorem execSliceAtomicApply_canon {id : Nat} (h : s.Canon) : Res.Canon (execSliceAtomicApply id s) := by
  unfold execSliceAtomicApply
  dsimp only
  split
  · exact .next h
  split
  · exact .next h
  refine .ite (.next h) (.ite (.next (.again h)) ?_)
  split
  · exact .ite (.next (.again h))
      (.next (.push (.setReq (.chargeHost (.ite (.setHost h (Memory.wf_write _ _ _ _ h.2)) h)))))
  · have h1 := fun own pa due tag d (r : Req) b => State.Canon.countServed (r := r) (hit := b)
      (.l2Touch (tag := tag) (own := own) (pa := pa) (due := due) (d := d) (alloc := true) (wr := true) h)
    exact .ite (.next h) (.next (.push (.setReq (.ite (.setField (.killFills (.ite (.putMem (h1 ..)) (h1 ..))))
      (.killFills (.ite (.putMem (h1 ..)) (h1 ..)))))))

theorem execAtomResponse_canon {id : Nat} (h : s.Canon) : Res.Canon (execAtomResponse id s) := by
  unfold execAtomResponse
  split
  · exact .next h
  · refine .ite (.next h) (.ite (.next h) ?_)
    dsimp only
    split
    · exact .ite (.next (.eccLoad h)) (.next (.outDone h))
    · exact .next (.outDone (.ite h h))
    · exact .next h

theorem execSliceGather_canon {id : Nat} (h : s.Canon) : Res.Canon (execSliceGather id s) := by
  unfold execSliceGather
  split
  · exact .next h
  split
  · refine .ite (.next h) (.ite (.next (.again h)) ?_)
    dsimp only
    split <;> exact .next (.push (.setReq (.foldl h fun _ _ h => .countServed (.l2Touch h))))
  · exact .next h

theorem execHostFlushCompletion_canon (h : s.Canon) : Res.Canon (execHostFlushCompletion s) :=
  .next (.foldl h (fun _ _ h => .invalDone h))

theorem State.Canon.flushFor {t : Nat} {sc : Scope} (h : s.Canon) : (s.flushFor t sc).Canon := .ite (.againAt h) h

theorem State.Canon.acquireThen {t g : Nat} {sc : Scope} {lanes : BitVec 32} (h : s.Canon) :
    (s.acquireThen t g sc lanes).Canon :=
  .ite h h

theorem execFenceWaitEnd_canon {t g lane : Nat} (h : s.Canon) : Res.Canon (execFenceWaitEnd t g lane s) := by
  unfold execFenceWaitEnd
  dsimp only
  split
  · exact .ite (.next h) (.next (.again (.flushFor h)))
  · exact .ite (.next h) (.next (.again h))
  · exact .ite (.next (.acquireThen h)) (.next (.again h))
  · exact .next h

theorem State.Canon.startFence {lanes : BitVec 32} {k : FenceKind} {sc : Scope} {upto : Nat} {rpt : Bool}
    (h : s.Canon) : (s.startFence lanes k sc upto rpt).Canon := by
  unfold State.startFence
  split
  · exact h
  · exact .flushFor h

theorem State.Canon.withRelease {rel : Option Scope} {k : State → State} (h : s.Canon)
    (hk : ∀ s, s.Canon → (k s).Canon) : (s.withRelease rel k).Canon := by
  unfold State.withRelease
  split
  · exact hk _ h
  · exact .ite (hk _ h) (.ite (hk _ h) (.startFence h))

theorem State.Canon.withAcquire {acq : Option Scope} {lanes : BitVec 32} (h : s.Canon) :
    (s.withAcquire acq lanes).Canon := by
  unfold State.withAcquire
  split
  · exact h
  · exact .ite h (.startFence h)

theorem execPageWalk_canon {w : Nat} (h : s.Canon) : Res.Canon (execPageWalk w s) := by
  unfold execPageWalk
  split
  · exact .next h
  · exact .ite (.next h) (.ite (.next h) (.next (.again h)))

theorem State.Canon.answer {W : Walk} {r : WalkRes} {q : WalkReq} (h : s.Canon) : (s.answer W r q).Canon := .ite h h

theorem execWalkComplete_canon {w : Nat} (h : s.Canon) : Res.Canon (execWalkComplete w s) := by
  unfold execWalkComplete
  split
  · exact .next h
  · exact .ite (.next h) (.next (.foldl h (fun _ _ h => .answer h)))

/-! ## Memory instructions -/

theorem Res.Canon.withAddrs {regs : List Reg} {kind : AccKind} {eas : List (Nat × EA)} {k : State → Res} (h : s.Canon)
    (hk : ∀ s, s.Canon → (k s).Canon) : Res.Canon (s.withAddrs regs kind eas k) := by
  refine .ite (.next h) ?_
  split
  · dsimp only
    split
    · exact .next (.trapLane (.ite h h))
    · exact .ite trivial (.ite (.next h) (hk _ h))
  · exact .next (.hold (.foldl h (fun _ _ h => .startWalk h)))

theorem State.Canon.memEnd {iid : Nat} {a : Acc} {dst : List (Nat × Nat)} {held : Bool} (h : a.s.Canon) :
    (s.memEnd iid a dst held).Canon :=
  .ite (.hold (.ite (.push (.tick (.modG h))) (.tick (.modG h)))) (.next (.ite (.push (.tick (.modG h)))
    (.tick (.modG h))))

theorem State.Canon.acqEnd {acq : Option Scope} {held : Bool} {lanes : BitVec 32} (h : s.Canon) :
    (s.acqEnd acq held lanes).Canon :=
  .ite h (.withAcquire h)

theorem State.Canon.load {a : Acc} {lane iid d n va : Nat} {vol : Bool} {dst : Reg} {e : TlbEnt} (h : a.s.Canon) :
    (a.load lane iid d n vol dst va e).s.Canon := by
  unfold Acc.load
  lift_lets
  intro s pa now send
  have hs : s.Canon := h
  have hnow : ∀ {u : State} {v : Nat}, u.Canon → (now u v).s.Canon := fun h => h
  have hsend : ∀ {u : State} {k : ReqKind} {d : Nat} {vol : Bool}, u.Canon → (send u k d vol).s.Canon := fun h =>
    .send h
  split
  · exact hnow hs
  · exact hsend (.countU hs)
  · exact hsend hs
  intro vol d t hit
  clear_value hit d
  cases hit with
  | some x => exact hnow (.setTile (.countU hs))
  | none =>
    have h1 : (if d = 0 then s else s.countU 5 1).Canon := .ite hs (.countU hs)
    dsimp only
    split
    · exact hnow (.ite h1 (.send h1))
    · exact hsend h1

theorem State.Canon.ld {a : Acc} {lane iid d n : Nat} {vol : Bool} {dst : Reg} {x : EA} (h : a.s.Canon) :
    (a.ld lane iid d n vol dst x).s.Canon := by
  cases x with
  | mem va e => exact .load h
  | loc off => exact h
  | far place tile team off => exact .send h
  | miss va => exact h
  | bad cls k i j => exact h

theorem execLd_canon {x : LdR} (h : s.Canon) : Res.Canon (execLd x s) := by
  unfold execLd
  lift_lets
  intro regs n ls eas vol acq
  refine .withAddrs h fun u h => ?_
  lift_lets
  refine .ite (.next (.hold h)) ?_
  split
  · exact .next (.trapLane h)
  · exact .next (.acqEnd (.memEnd (.foldAcc (.issueOut h) fun _ _ h => .ld h)))

theorem State.Canon.raiseRh {c : Nat} (h : s.Canon) : (s.raiseRh c).Canon := h

theorem State.Canon.store {a : Acc} {lane iid d n v va : Nat} {vol : Bool} {e : TlbEnt} (h : a.s.Canon) :
    (a.store lane iid d n vol v va e).s.Canon := by
  unfold Acc.store
  lift_lets
  intro s pa send
  have hs : s.Canon := h
  have hsend : ∀ {u : State} {k : ReqKind} {d : Nat} {vol : Bool}, u.Canon → (send u k d vol).s.Canon := fun h =>
    .send h
  split
  · exact .raiseRh (.devWrite h)
  · exact hsend (.countU h)
  · exact hsend h
  · refine hsend ?_
    split
    · exact .setTile h
    · exact h

theorem State.Canon.st {a : Acc} {lane iid d n v : Nat} {vol : Bool} {x : EA} (h : a.s.Canon) :
    (a.st lane iid d n vol v x).s.Canon := by
  cases x with
  | mem va e => exact .store h
  | loc off => exact .modTile h
  | far place tile team off => exact .send h
  | miss va => exact h
  | bad cls k i j => exact h

theorem execSt_canon {x : StR} (h : s.Canon) : Res.Canon (execSt x s) := by
  unfold execSt
  lift_lets
  intro regs n ls eas vol rel
  refine .withAddrs h fun u h => .ite (.next (.hold h)) (.next (.withRelease h fun u h => ?_))
  exact .memEnd (.foldAcc (.issueOut h) fun _ _ h => .st h)

theorem execPref_canon {x : PrefR} (h : s.Canon) : Res.Canon (execPref x s) := by
  unfold execPref
  dsimp only
  split
  · exact (.next (.retire (.tick (.foldl h (fun _ _ h => by
    split
    · exact .ite h (.send (.countU h))
    · exact h)))))
  · exact .next (.hold (.foldl h (fun _ _ h => .startWalk h)))

theorem Res.Canon.feQueue {x : FeR} {kind : AccKind} {mk : Nat → ReqKind} {dst : Option Reg} (h : s.Canon) :
    Res.Canon (s.feQueue x kind mk dst) := by
  unfold State.feQueue
  lift_lets
  intro regs ls eas
  refine .withAddrs h fun u h => ?_
  split
  · exact .next (.trapLane h)
  refine .next (.withRelease h fun u h => ?_)
  lift_lets
  intro iid o s0 one s1
  have h1 : s1.Canon := by
    refine .tick (.foldl (.issueOut h) fun u x h => ?_)
    obtain ⟨l, ea⟩ := x
    cases ea with
    | mem va e => exact h
    | loc off => exact .push (.fresh (.setReq h))
    | far place tile team off => exact .send h
    | miss va => exact h
    | bad cls k i j => exact h
  exact .ite (.next (.push h1)) (.pushAt (.hold h1))

theorem execLdf_canon {x : FeR} (h : s.Canon) : Res.Canon (execLdf x s) := .feQueue h
theorem execSte_canon {x : FeR} (h : s.Canon) : Res.Canon (execSte x s) := .feQueue h

theorem Res.Canon.feWrite {c : Ctl} {regs : List Reg} {m : MSp} {a : Reg} {rel : Option Bool}
    {loc : Nat → Nat → Team → Team}
    {mk : Nat → ReqKind} (h : s.Canon) : Res.Canon (s.feWrite c regs m a rel loc mk) := by
  unfold State.feWrite
  lift_lets
  intro ls eas
  refine .withAddrs h fun u h => .next (.withRelease h fun u h => .memEnd (.foldAcc (.issueOut h) fun a x h => ?_))
  obtain ⟨l, ea⟩ := x
  cases ea with
  | mem va e => exact h
  | loc off => exact .push (.modTile h)
  | far place tile team off => exact .send h
  | miss va => exact h
  | bad cls k i j => exact h

theorem execStf_canon {x : FeR} (h : s.Canon) : Res.Canon (execStf x s) := .feWrite h
theorem execSetfe_canon {x : SetfeR} (h : s.Canon) : Res.Canon (execSetfe x s) := .feWrite h

theorem State.Canon.atLocal {op : AtOp} {off b d : Nat} (h : s.Canon) : (s.atLocal op off b d).1.Canon := by
  unfold State.atLocal
  split
  · exact h
  · exact .ite h h

theorem State.Canon.atLanes {regs : List Reg} {iid : Nat} {op : AtOp} {mk : Nat → ReqKind} {vals : Nat → Nat × Nat}
    {dst : Option Reg} {eas : List (Nat × EA)} (h : s.Canon) : (s.atLanes regs iid op mk vals dst eas).1.s.Canon := by
  unfold State.atLanes
  refine List.foldlRecOn (motive := fun a : Acc × Nat => a.1.s.Canon) _ _ h fun a h x _ => ?_
  obtain ⟨l, ea⟩ := x
  cases ea with
  | mem va e => exact .send (.setTile h)
  | loc off => exact .atLocal h
  | far place tile team off => exact h
  | miss va => exact h
  | bad cls k i j => exact h

theorem execAtom_canon {x : AtomR} (h : s.Canon) : Res.Canon (execAtom x s) := by
  unfold execAtom
  lift_lets
  intro regs n ls eas rel acq
  refine .withAddrs h fun u h => .ite (.next (.hold h)) ?_
  split
  · exact .next (.trapLane h)
  · refine .next (.withRelease h fun u h => ?_)
    exact .acqEnd (.memEnd (.modG (.atLanes (.issueOut h))))

theorem execRed_canon {x : RedR} (h : s.Canon) : Res.Canon (execRed x s) := by
  unfold execRed
  lift_lets
  intro regs n ls eas
  refine .withAddrs h fun u h => .next (.withRelease h fun u h => .memEnd (.atLanes (.issueOut h)))

theorem execGth_canon {x : GthR} (h : s.Canon) : Res.Canon (execGth x s) := by
  unfold execGth
  lift_lets
  intro regs k ls eas
  refine .withAddrs h fun u h => .ite (.next (.hold h)) (.next (.acqEnd (.memEnd (.foldAcc (.issueOut h) fun a x h =>
    ?_))))
  obtain ⟨l, ea⟩ := x
  cases ea with
  | mem va e => exact .send (.setTile h)
  | loc off => exact h
  | far place tile team off => exact h
  | miss va => exact h
  | bad cls k i j => exact h

theorem State.Canon.waitOut {c : Ctl} (h : s.Canon) : (s.waitOut c).Canon := .ite h h

theorem State.Canon.fence {c : Ctl} {k : FenceKind} {sc : Scope} (h : s.Canon) : (s.fence c k sc).Canon :=
  .ite (.retire h) (.startFence (.next (.waitOut h)))

theorem execFenceR_canon {c : Ctl} {sc : Scope} (h : s.Canon) : Res.Canon (execFenceR c sc s) := .next (.fence h)
theorem execFenceA_canon {c : Ctl} {sc : Scope} (h : s.Canon) : Res.Canon (execFenceA c sc s) := .next (.fence h)
theorem execFenceAr_canon {c : Ctl} {sc : Scope} (h : s.Canon) : Res.Canon (execFenceAr c sc s) := .next (.fence h)

theorem State.Canon.bar {c : Ctl} {cluster : Bool} (h : s.Canon) : (s.bar c cluster).Canon :=
  .ite (.fence h) (.ite (.push (.hold (.waitOut h))) (.push (.hold (.waitOut h))))

theorem execBarT_canon {c : Ctl} (h : s.Canon) : Res.Canon (execBarT c s) := .next (.bar h)
theorem execBarC_canon {c : Ctl} (h : s.Canon) : Res.Canon (execBarC c s) := .next (.bar h)

theorem execOwn_canon {x : OwnR} (h : s.Canon) : Res.Canon (execOwn x s) := by
  unfold execOwn
  dsimp only
  split
  · exact .next (.trapLane h)
  · exact .next (.ite (.withAcquire (.alu h)) (.alu h))

theorem execWaito_canon {x : WaitoR} (h : s.Canon) : Res.Canon (execWaito x s) := by
  unfold execWaito
  dsimp only
  split
  · exact .next (.trapLane h)
  · exact .ite (.next (.retire h)) (.ite (.next (.push (.hold (.waitOut h)))) (.ite (.next (.retire h))
      (.next (.startFence (.next (.waitOut h))))))

/-! ## Launches of groups and spawns -/

theorem State.Canon.launchGroup {tile g team slot : Nat} {items : List Nat} {fromBin : Bool} (h : s.Canon) :
    (s.launchGroup tile g team slot items fromBin).Canon := by
  unfold State.launchGroup
  dsimp only
  split <;> exact h

theorem execFrz_canon {c : Ctl} {idx : Fin 128} {mask : Reg} {t : Fin 16} {off : BitVec 16} (h : s.Canon) :
    Res.Canon (execFrz c idx mask t off s) := by
  unfold execFrz
  split
  · exact .next (.retire h)
  · exact .next (.trapAll h)
  · refine .ite (.next (.trapLane h)) ?_
    split
    · exact .next (.trapLane h)
    · exact .ite (.next (.trapLane h)) (.ite (.next (.trapLane h)) (.ite (.next (.trapLane h)) (.next h)))

theorem execStamp_canon {c : Ctl} {t : Fin 16} {base n : Reg} (h : s.Canon) : Res.Canon (execStamp c t base n s) := by
  unfold execStamp
  split
  · exact .next (.retire h)
  · exact .next (.trapAll h)
  · dsimp only
    split
    · exact .next (.trapAll h)
    · exact .ite (.next (.trapAll h)) (.ite (.next (.trapAll h)) (.ite (.next h) (.next (.retire h))))

theorem execStampedGroupLaunch_canon {tile team : Nat} (h : s.Canon) :
    Res.Canon (execStampedGroupLaunch tile team s) := by
  unfold execStampedGroupLaunch
  dsimp only
  split
  · exact .next h
  split
  · exact .ite (.next h) (.next (.launchGroup h))
  · exact .next h

theorem State.Canon.binTook {tile srcTile : Nat} {user : Bool} (h : s.Canon) : (s.binTook tile srcTile user).Canon :=
  .ite (.count (.foldl h (fun _ _ h => .ite (.againAt h) h))) (.foldl h (fun _ _ h => .ite (.againAt h) h))

theorem execBinTimerExpire_canon (h : s.Canon) : Res.Canon (execBinTimerExpire s) := by
  unfold execBinTimerExpire
  dsimp only
  split
  · exact .next h
  · split
    · exact .next h
    · exact .ite (.next h) (.ite (.next h) (.next (.againAt h)))

theorem execBinGroupLaunch_canon {tile : Nat} (h : s.Canon) : Res.Canon (execBinGroupLaunch tile s) := by
  unfold execBinGroupLaunch
  dsimp only
  split
  · exact .ite (.next h) (.ite (.next (.again h))
      (.next (.ite (.ite (.push (.ite (.count (.launchGroup h)) (.againAt (.count (.launchGroup h)))))
        (.ite (.count (.launchGroup h)) (.againAt (.count (.launchGroup h)))))
          (.push (.ite (.push (.ite (.count (.launchGroup h)) (.againAt (.count (.launchGroup h)))))
            (.ite (.count (.launchGroup h)) (.againAt (.count (.launchGroup h)))))))))
  · exact .next h

theorem State.Canon.respond {id : Nat} {r : Req} (h : s.Canon) : (s.respond id r).Canon := h

theorem execBinItemAccept_canon {tile : Nat} (h : s.Canon) : Res.Canon (execBinItemAccept tile s) := by
  unfold execBinItemAccept
  dsimp only
  split
  · exact .next h
  refine .ite ?_ (.ite (.next (.binTook (.ite h h))) (.next (.modGroup (.binTook (.ite h h)))))
  split
  · exact .next (.respond (.binTook (.ite h h)))
  · exact .next (.binTook (.ite h h))

theorem State.Canon.spawnLanes {c : Ctl} {num : Nat} {idx : Nat → Nat} {place : Option (Nat → Nat)} {ls : List Nat}
    (h : s.Canon) :
    (State.spawnLanes c num idx place ls s).Canon := by
  induction ls generalizing s with
  | nil => exact .retire h
  | cons l ls ih =>
    unfold State.spawnLanes
    extract_lets T t user
    split
    · exact .trapLane h
    extract_lets own
    have hown : (own s).Canon := by
      unfold own
      split
      · exact .trapLane h
      · refine .ite (.trapLane h) ?_
        extract_lets it
        generalize (if T.ctl.held = [] then _ else _) = z
        cases z with
        | some z => exact ih (.modG (.binTook (.setTile h)))
        | none => exact .pushAt (.push (.hold (.setTile h)))
    split
    · exact hown
    split
    · exact .trapLane h
    refine .ite hown ?_
    split
    · exact .ite (.trapLane h) (.trapLane h)
    · exact .hold (.send h)

theorem execSpawn_canon {c : Ctl} {t : Fin 16} {idx : Reg} (h : s.Canon) : Res.Canon (execSpawn c t idx s) :=
  .next (.withRelease h (fun _ h => .spawnLanes h))

theorem execSpawnRem_canon {c : Ctl} {t : Fin 16} {idx place : Reg} (h : s.Canon) :
    Res.Canon (execSpawnRem c t idx place s) :=
  .ite (.next h) (.next (.withRelease h (fun _ h => .spawnLanes h)))

theorem execSpawnWaitTimeout_canon (h : s.Canon) : Res.Canon (execSpawnWaitTimeout s) := by
  unfold execSpawnWaitTimeout
  dsimp only
  split
  · exact .ite (.next (.againAt h)) (.next h)
  · exact .next (.raiseAt h)

theorem State.Canon.freeGroup {t g : Nat} (h : s.Canon) : (s.freeGroup t g).Canon := .ite h h

theorem execExit_canon {c : Ctl} (h : s.Canon) :
    Res.Canon (execExit c s) := .next (.freeGroup (.push (.modG (.retire h))))

/-! ## Packets between tiles, full/empty words and barriers -/

theorem State.Canon.coverDrop {tag tile ctx reason place off : Nat} (h : s.Canon) :
    (s.coverDrop tag tile ctx reason place off).Canon := by
  unfold State.coverDrop
  split
  · exact h
  · exact .ite (.modPart h) (.push (.modPart h))

theorem State.Canon.dropPacket {t : Nat} {p : Packet} {reason : Nat} (h : s.Canon) :
    (s.dropPacket t p reason).Canon := by
  refine .ite h ?_
  split
  · exact h
  · exact .push (.coverDrop h)

theorem execDropRecordPost_canon {tile tag ctx : Nat} (h : s.Canon) :
    Res.Canon (execDropRecordPost tile tag ctx s) := by
  unfold execDropRecordPost
  split
  · exact .next h
  · split
    · exact .next h
    · exact .ite (.next (.again h)) (.next (.post (.modPart h)))

theorem State.Canon.feDone {id : Nat} {r : Req} {ws : List (Nat × Nat × W32)} (h : s.Canon) :
    (s.feDone id r ws).Canon := by
  unfold State.feDone
  dsimp only
  split
  · exact h
  · exact .ite h (.ite h h)

theorem execFeRequestServed_canon {tile team word : Nat} (h : s.Canon) :
    Res.Canon (execFeRequestServed tile team word s) := by
  unfold execFeRequestServed
  dsimp only
  split
  · exact .next h
  refine .ite (.next (.again h)) ?_
  split
  · exact .next h
  · exact .next (.ite (.feDone h) (.respond h))

theorem execFewaitTimeout_canon (h : s.Canon) : Res.Canon (execFewaitTimeout s) := by
  unfold execFewaitTimeout
  dsimp only
  split
  · exact .ite (.next (.againAt h)) (.next h)
  · exact .next (.raiseAt h)

theorem State.Canon.meshAnswer {id : Nat} {r : Req} (h : s.Canon) : (s.meshAnswer id r).Canon := by
  unfold State.meshAnswer
  split
  · exact .ite h (.ite (.raiseAt h) (.raiseAt h))
  · exact .ite (.raiseAt h) (.feDone h)
  · exact .ite (.raiseAt h) (.feDone h)
  · exact .ite (.outDone h) (.ite (.outDone h) (.eccLoad h))
  · exact .outDone (.delReq (.ite h h))

theorem execDropResponse_canon {id : Nat} (h : s.Canon) : Res.Canon (execDropResponse id s) := by
  unfold execDropResponse
  split
  · exact .next h
  · refine .ite (.next h) (.ite (.next (.again h)) ?_)
    split
    · exact .next (.meshAnswer h)
    · exact .next (.feDone h)
    · exact .next (.feDone h)
    · exact .next (.outDone h)
    · exact .next (.outDone h)
    · exact .next (.outDone h)
    · exact .next (.outDone h)
    · exact .next h

theorem State.Canon.deliver {p : Packet} (h : s.Canon) : (s.deliver p).Canon := by
  refine .ite h ?_
  split
  · exact .ite (.meshAnswer h) h
  · exact h

theorem State.Canon.dropOther {ctx : Nat} {p : Packet} {at_ : Nat × Nat} (h : s.Canon) :
    (s.dropOther ctx p at_).Canon :=
  .coverDrop h

theorem execRouterPacketReceive_canon {t : Nat} {p : Packet} (h : s.Canon) :
    Res.Canon (execRouterPacketReceive t p s) := by
  refine .ite (.next (.again h)) (.ite (.next (.setTile (.ite (.count h) h))) (.ite (.next (.again (.ite (.count h) h)))
    (.ite (.ite (.next (.ite (.logDrop (.ite (.count h) h)) (.deliver (.ite (.count h) h))))
      (.ite (.next (.dropPacket (.ite (.count h) h))) (.ite (.next (.dropPacket (.ite (.count h) h)))
        (.next (.deliver (.ite (.count h) h)))))) ?_)))
  split
  · exact .next (.dropPacket (.ite (.count h) h))
  · exact .next (.fresh (.push (.ite (.count h) h)))

theorem execRemoteScratchpadRequest_canon {id : Nat} (h : s.Canon) : Res.Canon (execRemoteScratchpadRequest id s) := by
  unfold execRemoteScratchpadRequest
  split
  · exact .next h
  lift_lets
  intro U
  refine .ite (.next h) (.ite (.next (.again h)) (.ite (.next (.dropPacket h)) (.ite (.next (.dropPacket h))
    (.ite (.next (.again h)) (.ite (.next (.again h)) ?_)))))
  split
  · exact .next (.respond h)
  split
  · exact .ite (.next (.respond h)) (.next (.respond h))
  · exact .next (.respond (.setTile h))
  · exact .next (.push (.respond (.setTile h)))
  · exact .next (.push (.respond (.setTile h)))
  · exact .next (.push (.fresh (.setReq h)))
  · exact .next (.push (.fresh (.setReq h)))
  · refine .ite (.next (.respond h)) ?_
    generalize U.tmplOf _ _ = z
    cases z with
    | none => exact .next (.respond h)
    | some z =>
      dsimp only
      split
      · exact .next (.respond (.binTook (.setTile h)))
      · exact .next (.push (.setTile (.setReq h)))
  · exact .next h

theorem State.Canon.sendArrivals {ms : List (Nat × Team)} (h : s.Canon) : (s.sendArrivals ms).Canon := by
  refine .foldl h fun u m h => ?_
  split
  · exact h
  refine .ite h ?_
  dsimp only
  split
  · exact h
  split
  · exact .noteTrap (.modTile (.dropOther h))
  · exact .modTile (.dropOther h)

theorem State.Canon.leaveBarrier {tile team : Nat} {cluster : Bool} (h : s.Canon) :
    (s.leaveBarrier tile team cluster).Canon :=
  .foldl h (fun _ _ h => .ite h (.acquireThen h))

theorem execBarrierComplete_canon {tile team : Nat} {cluster : Bool} (h : s.Canon) :
    Res.Canon (execBarrierComplete tile team cluster s) := by
  unfold execBarrierComplete
  split
  · exact .next h
  · exact .ite (.ite (.next (.ite (.sendArrivals h) h)) (.next (.foldl (.ite (.sendArrivals h) h) (fun _ _ h => .modTile
      (.leaveBarrier h))))) (.next h)

/-! ## Branches, traps and returns -/

theorem execBackwardBranchHandoff_canon (h : s.Canon) : Res.Canon (execBackwardBranchHandoff s) := .next (.ite h h)

theorem State.Canon.takeBranch {c : Ctl} {act : List Nat} {link : Option Reg} {via : Via} {dest : Nat → Nat}
    (h : s.Canon) : (s.takeBranch c act link via dest).Canon :=
  .ite (.ite h h) (.push (.issueOut (.ite h h)))

theorem State.Canon.branch {c : Ctl} {tgt link : Option Reg} {via : Via} {dest : Nat → Int} (h : s.Canon) :
    (s.branch c tgt link via dest).Canon := by
  unfold State.branch
  dsimp only
  split
  · exact .trapLane h
  · exact .trapLane h
  refine .ite ?_ (.takeBranch h)
  split
  · exact .hold (.startWalk h)
  · exact .trapAll h
  · exact .ite (.takeBranch h) (.trapAll h)

theorem execBra_canon {c : Ctl} {off : BitVec 24} (h : s.Canon) : Res.Canon (execBra c off s) := .next (.branch h)
theorem execBrx_canon {c : Ctl} {tgt : Reg} (h : s.Canon) : Res.Canon (execBrx c tgt s) := .next (.branch h)

theorem execCall_canon {c : Ctl} {link : Reg} {off : BitVec 24} (h : s.Canon) : Res.Canon (execCall c link off s) :=
  .next (.branch h)

theorem execRet_canon {c : Ctl} {tgt : Reg} (h : s.Canon) : Res.Canon (execRet c tgt s) := .next (.branch h)
theorem execNop_canon {c : Ctl} (h : s.Canon) : Res.Canon (execNop c s) := .next (.retire h)

theorem execYield_canon {c : Ctl} (h : s.Canon) :
    Res.Canon (execYield c s) := .next (.ite (.retire h) (.modG (.retire h)))

theorem execTrap_canon {c : Ctl} {code : BitVec 15} (h : s.Canon) : Res.Canon (execTrap c code s) :=
  .next (.ite (.retire h) (.trapAll h))

theorem State.Canon.clearInh (h : s.Canon) : s.clearInh.Canon := .ite h h
theorem State.Canon.retireRest {c : Ctl} {m : BitVec 32} (h : s.Canon) : (s.retireRest c m).Canon := .retire h

theorem execTrapRet_canon {c : Ctl} (h : s.Canon) : Res.Canon (execTrapRet c s) :=
  .ite (.next (.retire h)) (.ite (.next (.trapAll h)) (.next (.modG (.drawn (.clearInh (.retireRest h))))))

theorem State.Canon.eretOn {c : Ctl} {r : Reg} {f : Group → Option Group} (h : s.Canon) : (s.eretOn c r f).Canon := by
  refine .needPriv h fun _ h => ?_
  split
  · exact .retire h
  · refine .ite (.trapAll h) ?_
    split
    · exact .trapAll h
    · exact .retire h

theorem execEretRetry_canon {c : Ctl} {r : Reg} (h : s.Canon) : Res.Canon (execEretRetry c r s) := .next (.eretOn h)
theorem execEretSkip_canon {c : Ctl} {r : Reg} (h : s.Canon) : Res.Canon (execEretSkip c r s) := .next (.eretOn h)
theorem execEretRedir_canon {c : Ctl} {r t : Reg} (h : s.Canon) : Res.Canon (execEretRedir c r t s) := .next (.eretOn h)

/-! ## Images of contexts, their streaming and switching -/

theorem State.Canon.notify {t kind cslot : Nat} (h : s.Canon) : (s.notify t kind cslot).Canon := h

theorem execGroupPark_canon {tile slot : Nat} (h : s.Canon) : Res.Canon (execGroupPark tile slot s) := by
  unfold execGroupPark
  split <;> exact (.next h)

theorem State.Canon.markTile {t : Nat} (h : s.Canon) : (s.markTile t).Canon := h
theorem State.Canon.stopTile {t : Nat} (h : s.Canon) : (s.stopTile t).Canon := h

theorem State.Canon.virtPut {tag ctx va n : Nat} {l : List Byte} (h : s.Canon) : (s.virtPut tag ctx va l n).Canon := by
  induction n generalizing s va l with
  | zero => exact h
  | succ n ih =>
    refine ih ?_
    split
    · exact .ite (.putBytes h) h
    · exact h

theorem State.Canon.savePlanes {t : Nat} {c : CtxCtl} (h : s.Canon) : (s.savePlanes t c).Canon :=
  .ite (.virtPut (.ite (.virtPut h) h)) (.ite (.virtPut h) h)

theorem State.Canon.saveImage {t va : Nat} {full : Bool} {put : State → List Byte → State} (h : s.Canon)
    (hput : ∀ s l, s.Canon → (put s l).Canon) : (s.saveImage t va full put).Canon :=
  .modTile (.modPart (hput _ _ (.drawn (.savePlanes h))))

theorem State.Canon.poolWrite {t : Nat} {o : PoolOut} {i : Nat} (h : s.Canon) : (s.poolWrite t o i).Canon :=
  .ite (.virtPut h) h

theorem State.Canon.imagePut {tag ctx va : Nat} {bytes : List Byte} (h : s.Canon) :
    (State.imagePut tag ctx va s bytes).Canon :=
  .virtPut h

theorem State.Canon.poolFlush {t : Nat} (h : s.Canon) : (s.poolFlush t).Canon := by
  unfold State.poolFlush
  dsimp only
  split
  · exact h
  · exact .modTile (.foldl h (fun _ _ h => .poolWrite h))

theorem State.Canon.stream {t cslot : Nat} {c : CtxCtl} (h : s.Canon) : (s.stream t cslot c).Canon := h
theorem State.Canon.rehome {t : Nat} {c : CtxCtl} (h : s.Canon) : (s.rehome t c).Canon := h

theorem State.Canon.resumeSteps {t : Nat} (h : s.Canon) : (s.resumeSteps t).Canon :=
  .push (.foldl (.ite (.againAt (.ite (.push (.push (.foldl h (fun _ _ h => .againAt h))))
    (.againAt (.push (.push (.foldl h (fun _ _ h => .againAt h)))))))
      (.ite (.push (.push (.foldl h (fun _ _ h => .againAt h))))
        (.againAt (.push (.push (.foldl h (fun _ _ h => .againAt h))))))) (fun _ _ h => .ite
          (.ite (.againAt (.ite (.againAt h) h)) (.ite (.againAt h) h)) (.push (.ite (.againAt (.ite (.againAt h) h))
            (.ite (.againAt h) h)))))

theorem State.Canon.activate {t cslot : Nat} (h : s.Canon) : (s.activate t cslot).Canon := .resumeSteps h
theorem State.Canon.vacate {t : Nat} (h : s.Canon) : (s.vacate t).Canon := .modTile (.poolFlush h)
theorem State.Canon.shelve {t k : Nat} (h : s.Canon) : (s.shelve t k).Canon := .ite h (.modTile (.ite h (.modPart h)))

theorem State.Canon.overflow {t cslot i : Nat} (h : s.Canon) :
    (s.overflow t cslot i).Canon := .ite (.notify (.post h)) h

theorem execCounterOverflow_canon {tile cslot n : Nat} (h : s.Canon) : Res.Canon (execCounterOverflow tile cslot n s) :=
  .ite (.next (.ite (.again h) (.overflow h))) (.next h)

theorem State.Canon.listImage {tag : Nat} {x : SavedImage} (h : s.Canon) : (s.listImage tag x).Canon :=
  .ite (.modPart h) (.push (.modPart h))

theorem State.Canon.refuseImage {tag : Nat} {x : SavedImage} (h : s.Canon) : (s.refuseImage tag x).Canon :=
  .push (.modPart h)

theorem State.Canon.streamAhead {t : Nat} (h : s.Canon) : (s.streamAhead t).Canon := by
  unfold State.streamAhead
  dsimp only
  split
  · exact h
  · split
    · exact h
    · split
      · exact .ite h (.stream (.rehome (.modPart h)))
      · exact h

theorem State.Canon.bringIn {t ctx : Nat} (h : s.Canon) : (s.bringIn t ctx).Canon := by
  unfold State.bringIn
  dsimp only
  split
  · exact h
  · split
    · exact .ite (.streamAhead (.activate h)) h
    · split
      · exact h
      · exact .ite (.stream (.refuseImage h)) (.ite (.stream (.rehome (.modPart h))) (.stream (.listImage h)))

theorem execShadowLoaded_canon {tile cslot : Nat} (h : s.Canon) : Res.Canon (execShadowLoaded tile cslot s) :=
  .ite (.next h) (.next (.ite (.streamAhead (.activate h)) h))

theorem execPoolSegmentExchange_canon (h : s.Canon) : Res.Canon (execPoolSegmentExchange s) := by
  unfold execPoolSegmentExchange
  extract_lets +onlyGivenNames t T
  split
  · exact .next (.poolFlush h)
  refine .ite (.next (.againAt h)) ?_
  extract_lets +onlyGivenNames u v
  have hu : u.Canon := by
    unfold u
    split
    · exact .poolWrite h
    · exact h
  exact .next (.ite (.modTile hu) (.pushAt (.modTile hu)))

theorem State.Canon.switchAll {tag ctx : Nat} (h : s.Canon) : (s.switchAll tag ctx).Canon :=
  .foldl h fun _ _ h => .bringIn (.vacate (.ite (.saveImage (.foldl h fun _ _ h => .overflow h) fun _ _ h =>
    .imagePut h)
    (.foldl h fun _ _ h => .overflow h)))

theorem State.Canon.settled {tag : Nat} (h : s.Canon) : (s.settled tag).Canon := by
  unfold State.settled
  split
  · exact h
  · exact .foldl h (fun _ _ h => by split <;> exact h)

theorem execSliceBoundary_canon (h : s.Canon) : Res.Canon (execSliceBoundary s) := by
  have waits {u : State} {tag : Nat} (b : Bool) (h : u.Canon) : (if b then u.againAt tag 0
    .sliceBoundary else u).Canon :=
    .ite (.againAt h) h
  unfold execSliceBoundary
  dsimp only
  split
  · exact .next h
  split
  · refine .ite (.next (waits _ h)) ?_
    have h1 {x : Part} : ((s.setPart s.cur.tile x).settled s.cur.tile).Canon := .settled h
    split
    · exact .next h1
    refine .ite (.next (waits _ (.setPart h1))) ?_
    split
    · exact .next h1
    · exact .ite (.next h1) (.next (.pushAt (.pushAt (.foldl h1 fun _ _ h => h))))
  · refine .ite (.next (.pushAt (.switchAll (.modPart h)))) (.next (.againAt h))

theorem execPreemptionTimeout_canon (h : s.Canon) : Res.Canon (execPreemptionTimeout s) := by
  unfold execPreemptionTimeout
  dsimp only
  split
  · exact .next h
  · split
    · exact .next h
    · exact .ite (.next (.push (.foldl h (fun _ _ h => h)))) (.next (.againAt h))

/-! ## System instructions -/

theorem execMfs_canon {c : Ctl} {d : Reg} {n : BitVec 10} (h : s.Canon) : Res.Canon (execMfs c d n s) :=
  .ite (.next (.trapAll h)) (.ite (.ite (.next (.retire h)) (.next h)) (.next (.alu h)))

theorem execMfsAevt_canon {c : Ctl} {d : Reg} (h : s.Canon) : Res.Canon (execMfsAevt c d s) :=
  .ite (.next (.trapAll h)) (.ite (.next (.retire h)) (.next (.alu h)))

theorem State.Canon.modCtl {f : CtxCtl → CtxCtl} (h : s.Canon) : (s.modCtl f).Canon := h

theorem State.Canon.mtsWrite {r v : Nat} (h : s.Canon) : (s.mtsWrite r v).Canon :=
  .ite h (.ite h (.ite h (.ite h (.ite h (.ite h (.ite h (.ite h (.ite h h))))))))

theorem execMts_canon {c : Ctl} {n : BitVec 10} {a : Reg} (h : s.Canon) : Res.Canon (execMts c n a s) := by
  refine .ite (.next (.trapAll h)) ?_
  split
  · exact .next (.retire h)
  · exact .ite (.next h) (.next (.retire (.ite (.clearInh (.mtsWrite h)) (.mtsWrite h))))

theorem execMtsApool_canon {c : Ctl} {a : Reg} (h : s.Canon) : Res.Canon (execMtsApool c a s) := by
  refine .ite (.next (.trapAll h)) ?_
  split
  · exact .next (.retire h)
  · exact .ite (.next (.trapAll h)) (.next (.retire h))

theorem execMtsPmc_canon {c : Ctl} {i : Fin 4} {a : Reg} (h : s.Canon) : Res.Canon (execMtsPmc c i a s) := by
  unfold execMtsPmc
  split <;> exact (.next (.retire h))

theorem State.Canon.countEvt {n : Nat} (h : s.Canon) : (s.countEvt n).Canon := .ite h h

theorem execEvt_canon {c : Ctl} {n : BitVec 8} (h : s.Canon) : Res.Canon (execEvt c n s) :=
  .next (.retire (.ite h (.countEvt h)))

theorem execEvtH_canon {c : Ctl} {n : BitVec 8} {a : Reg} (h : s.Canon) : Res.Canon (execEvtH c n a s) := by
  unfold execEvtH
  split
  · exact .next (.retire h)
  · exact .ite (.next h) (.next (.retire (.post (.countEvt h))))

theorem State.Canon.slotOp {c : Ctl} {va : Option (Nat × Nat)} {f : Nat → State → State} (h : s.Canon)
    (hf : ∀ x1 s, s.Canon → (f x1 s).Canon) : (s.slotOp c va f).Canon :=
  .needPriv h (fun _ h => by
    split
    · exact .retire h
    · exact (by
      split
      · exact .ite (.trapAll h) (hf _ _ h)
      · exact (hf _ _ h)))

theorem State.Canon.dropAns (h : s.Canon) : s.dropAns.Canon := h

theorem State.Canon.withImage {va len : Nat} {kind : AccKind} {f : ImagePages → State → State} (h : s.Canon)
    (hf : ∀ x1 s, s.Canon → (f x1 s).Canon) : (s.withImage va len kind f).Canon := by
  unfold State.withImage
  split
  · exact .hold (.startWalk h)
  · exact .trapAll (.ite h h)
  · exact hf _ _ h

theorem State.Canon.pagesPut {va : Nat} {ps : ImagePages} {bytes : List Byte} (h : s.Canon) :
    (State.pagesPut va ps s bytes).Canon :=
  .foldl h (fun _ _ h => .ite (.putBytes h) h)

theorem State.Canon.ctxSave {c : Ctl} {d sl a : Reg} {full : Bool} (h : s.Canon) : (s.ctxSave c d sl a full).Canon := by
  refine .slotOp h fun l u h => ?_
  lift_lets
  intro va n T t done
  have hdone : ∀ {v : State} {len hor kind : Nat}, v.Canon → (done v len hor kind).Canon := fun h => .next
    (.push (.issueOut h))
  refine .ite (.trapAll h) (.ite (.trapAll h) (.ite (.withImage h fun _ _ h => hdone (.dropAns h)) (.ite ?_ ?_)))
  · exact .withImage h fun _ _ h => hdone (.modTile (.modPart (.pagesPut (.drawn (.dropAns h)))))
  · refine .ite (.hold (.ite (.stopTile (.markTile h)) (.markTile h))) ?_
    exact .withImage (.ite (.stopTile (.markTile h)) (.markTile h)) fun _ _ h =>
      hdone (.modCtl (.saveImage (.dropAns h) fun _ _ h => .pagesPut h))

theorem execCtxsave_canon {c : Ctl} {d sl a : Reg} (h : s.Canon) :
    Res.Canon (execCtxsave c d sl a s) := .next (.ctxSave h)

theorem execCtxsaveFull_canon {c : Ctl} {d sl a : Reg} (h : s.Canon) : Res.Canon (execCtxsaveFull c d sl a s) :=
  .next (.ctxSave h)

theorem execCtxload_canon {c : Ctl} {sl a : Reg} (h : s.Canon) : Res.Canon (execCtxload c sl a s) := by
  refine .next (.slotOp h fun l u h => ?_)
  lift_lets
  intro va n t
  refine .ite (.trapAll h) (.withImage h fun p v h => .ite (.trapAll (.modTile (.dropAns h))) (.withImage h fun q w h =>
    ?_))
  lift_lets
  intro b img w0
  have hw : w0.Canon := .modTile (.dropAns h)
  clear_value img
  cases img with
  | none => exact .trapAll hw
  | some x => exact .ite (.trapAll hw) (.next (.stream (.issueOut (.rehome hw))))

theorem execCtxsw_canon {c : Ctl} {sl : Reg} (h : s.Canon) : Res.Canon (execCtxsw c sl s) :=
  .next (.slotOp h (fun _ _ h => .ite (.trapAll h) (.ite h (.ite (.trapAll h)
    (.retire (.activate (.vacate (.foldl h (fun _ _ h => .overflow h)))))))))

theorem State.Canon.tlbi {c : Ctl} {k bcast : Bool} {tag : State → Nat → Nat} {f : State → Nat → TlbEnt → Bool}
    {w : State → Nat → Walk → Bool} (h : s.Canon) : (s.tlbi c k bcast tag f w).Canon :=
  .needPriv h (fun _ h => by
    split
    · exact .retire h
    · exact (.withRelease h (fun _ h => .ite (.retire h) h)))

theorem execTlbiCtx_canon {c : Ctl} {bcast : Bool} (h : s.Canon) : Res.Canon (execTlbiCtx c bcast s) := .next (.tlbi h)

theorem execTlbiPart_canon {c : Ctl} {bcast : Bool} (h : s.Canon) :
    Res.Canon (execTlbiPart c bcast s) := .next (.tlbi h)

theorem execTlbiPage_canon {c : Ctl} {a : Reg} {bcast : Bool} (h : s.Canon) : Res.Canon (execTlbiPage c a bcast s) :=
  .next (.tlbi h)

theorem execTlbiGrain_canon {c : Ctl} {a t : Reg} {bcast : Bool} (h : s.Canon) :
    Res.Canon (execTlbiGrain c a t bcast s) :=
  .next (.tlbi h)

theorem execPlacew_canon {c : Ctl} {d a b : Reg} (h : s.Canon) : Res.Canon (execPlacew c d a b s) :=
  .next (.needPriv h (fun _ h => by
    split
    · exact .retire h
    · exact (.ite (.trapAll h) (.ite (.trapAll h) (.ite (.trapAll h) (.ite (.trapAll h) (.retire h)))))))

theorem State.Canon.putRecord {tag ctx : Nat} {rec : BitVec 512} (h : s.Canon) : (s.putRecord tag ctx rec).1.Canon := by
  unfold State.putRecord
  split
  · exact h
  · exact .modCtx h

theorem State.Canon.agentActs {t slot n : Nat} {rec : BitVec 512} (h : s.Canon) : (s.agentActs t slot n rec).Canon :=
  .ite h (.ite (by split <;> exact h) h)

theorem State.Canon.agentTakes {t : Nat} (h : s.Canon) : (s.agentTakes t).Canon := by
  refine .ite h ?_
  dsimp only
  split
  · exact .ite (.agentActs (.modCtx h)) (.push (.agentActs (.modCtx h)))
  · exact h

theorem execTrapDeliver_canon {tile slot : Nat} (h : s.Canon) : Res.Canon (execTrapDeliver tile slot s) := by
  have again {u : State} (b : Bool) (h : u.Canon) : (if b then u.again (.trapDeliver tile slot) else u).Canon := .ite
    (.again h) h
  unfold execTrapDeliver
  dsimp only
  split
  · exact .next (.agentTakes h)
  split
  · exact .next (again _ (.ite h h))
  · exact .ite (.next (again _ (.modGroup (.modCtx h)))) (.ite (.next (.again h))
      (.next (again _ (.ite (.modGroup (.modTile (.putRecord h))) (.modGroup (.modTile (.putRecord h)))))))

theorem State.Canon.modLaunch {tag ctx seq : Nat} {f : Launch → Launch} (h : s.Canon) :
    (s.modLaunch tag ctx seq f).Canon :=
  .modCtx h

theorem State.Canon.abortLaunch {tag ctx : Nat} {l : Launch} {code slot : Nat} (h : s.Canon) :
    (s.abortLaunch tag ctx l code slot).Canon :=
  .ite h (.wake (.push (.modLaunch h)))

theorem execAbortPortWrite_canon {tag ctx value : Nat} (h : s.Canon) :
    Res.Canon (execAbortPortWrite tag ctx value s) := by
  unfold execAbortPortWrite
  split
  · exact .next h
  · exact .next (.abortLaunch h)

theorem State.Canon.stopLaunch {t seq : Nat} (h : s.Canon) : (s.stopLaunch t seq).Canon := .ite h h

theorem execAbortNotice_canon {tile tag ctx seq : Nat} (h : s.Canon) : Res.Canon (execAbortNotice tile tag ctx seq s) :=
  .ite (.next h) (.ite (.next (.again (.ite h h)))
    (.next (.push (.modLaunch (.modPart (.modTile (.ite (.stopLaunch (.ite h h)) (.ite h h))))))))

theorem execAbortComplete_canon {tag ctx seq : Nat} (h : s.Canon) : Res.Canon (execAbortComplete tag ctx seq s) := by
  unfold execAbortComplete
  split
  · exact .next h
  · split
    · exact .next h
    · exact .ite (.next h) (.ite (.next h) (.next (.wake (.pushAt (.post (.modLaunch h))))))

theorem State.Canon.takeImage {t : Nat} {x : SavedImage} (h : s.Canon) : (s.takeImage t x).Canon :=
  .resumeSteps (.fresh (.drawn (.setTile (.rehome (.modPart h)))))

theorem execRestoreListLoad_canon (h : s.Canon) : Res.Canon (execRestoreListLoad s) := by
  unfold execRestoreListLoad
  dsimp only
  split
  · exact .next (.pushAt (.refuseImage h))
  · split
    · exact .next h
    · exact .next (.foldl h (fun _ _ h => .takeImage h))

theorem execContextBlockWrite_canon {tag ctx off value size : Nat} {user tbit : Bool} (h : s.Canon) :
    Res.Canon (execContextBlockWrite tag ctx off value size user tbit s) := by
  unfold execContextBlockWrite
  dsimp only
  split
  · exact .ite (.next (.modCtx h)) (.next h)
  · exact .next (.modCtx h)

theorem execRegisterWrite_canon {tile reg value : Nat} (h : s.Canon) : Res.Canon (execRegisterWrite tile reg value s) :=
  .ite (.next h) (.next (.mtsWrite h))

end Sys2Proof.Machine
end

section
/-! PROOFS. Canonical memories: the agent, the queues, the copy engine and the array. -/

namespace Sys2Proof.Machine
open Host

variable {s : State}

/-! ## The agent of a tile -/

theorem State.Canon.failLaunch {tag ctx seq code : Nat} (h : s.Canon) : (s.failLaunch tag ctx seq code).Canon := h

theorem State.Canon.buildTeam {t num anchor : Nat} {l : Launch} {i : CtxImage} {resv : List Nat} {tslot : Option Nat}
    (h : s.Canon) :
    (s.buildTeam t num l i anchor resv tslot).Canon := by
  unfold State.buildTeam
  lift_lets
  intro T ctx x T1 s1 T2 g stamp
  have hs : s1.Canon := h
  have hstamp : ∀ T n, (stamp T n).Canon := fun _ _ => .push (.setTile hs)
  refine .ite (.fresh (.setTile hs)) ?_
  split
  · exact hstamp _ _
  · split
    · exact hstamp _ _
    · exact .failLaunch hs

theorem State.Canon.agentAdd {tag ctx va n k : Nat} {u : State} (h : s.Canon)
    (hu : s.agentAdd tag ctx va n = some (u, k)) :
    u.Canon := by
  obtain ⟨pa, -, hu⟩ := Option.map_eq_some_iff.1 hu
  cases hu
  exact .devMemWrite (.ite (.l2Touch h) h)

theorem State.Canon.claimFrom {t : Nat} {ls : List Launch} (h : s.Canon) : (s.claimFrom t ls).Canon := by
  induction ls generalizing s with
  | nil => exact h
  | cons l ls ih =>
    unfold State.claimFrom
    dsimp only
    split
    · refine .ite (ih (.failLaunch h)) (.ite (ih h) ?_)
      split
      · exact ih h
      · next ha =>
        have h1 := State.Canon.agentAdd h ha
        have h2 {c : Prop} [Decidable c] {tag ctx seq : Nat} {f : Launch → Launch} :
            (if c then (State.modLaunch _ tag ctx seq f).wake tag else _).Canon := .ite (.wake (.modLaunch h1)) h1
        exact .ite (ih h2) (.ite (.push (.buildTeam h2)) (.push (.modTile h2)))
    · exact ih h

theorem State.Canon.agentHears {t : Nat} (h : s.Canon) : (s.agentHears t).Canon := .ite h h

theorem execAgentClaim_canon {tile : Nat} (h : s.Canon) : Res.Canon (execAgentClaim tile s) := by
  refine .ite (.next (.agentHears h)) (.ite (.next (.again (.again (.agentHears h)))) ?_)
  split
  · exact .ite (.next (.push (.pushAt (.agentHears h)))) (.ite (.next (.push (.agentHears h)))
      (.next (.claimFrom (.agentHears h))))
  · exact .next (.agentHears h)

theorem State.Canon.serveResv {t : Nat} (h : s.Canon) : (s.serveResv t).Canon := by
  refine .ite (.again (.again h)) ?_
  split
  · exact h
  · exact .ite h h

theorem execClusterReservation_canon {tile anchor seq c : Nat} (h : s.Canon) :
    Res.Canon (execClusterReservation tile anchor seq c s) := by
  unfold execClusterReservation
  lift_lets
  intro A T
  split
  · exact .next h
  split
  · refine .ite (.next h) ?_
    split
    · lift_lets
      intro r s1
      generalize (if tile = anchor then none else s.dropOnWay _ _ _) = d
      cases d with
      | none =>
        dsimp only
        exact .next (.ite (.serveResv (.setTile h)) (.setTile h))
      | some d => exact .next (.modTile (.noteTrap (.dropOther h)))
    · exact .next h
  · exact .next h

theorem execClusterReservationGrant_canon {tile : Nat} (h : s.Canon) : Res.Canon (execClusterReservationGrant tile s) :=
  .next (.ite (.serveResv h) h)

theorem execClusterBuild_canon {anchor seq c : Nat} (h : s.Canon) : Res.Canon (execClusterBuild anchor seq c s) := by
  unfold execClusterBuild
  dsimp only
  split
  · refine .ite (.next h) ?_
    split
    · exact .next h
    · exact (.ite (.next h) (.next (.foldl h (fun _ _ h => by
      split
      · exact h
      · exact (.push (.buildTeam h))))))
  · exact .next h

theorem State.Canon.feOrphans {t team : Nat} (h : s.Canon) : (s.feOrphans t team).Canon := .foldl h fun _ _ h => h

theorem State.Canon.staleHeld {t team : Nat} (h : s.Canon) : (s.staleHeld t team).Canon :=
  .foldl h (fun _ _ h => by split <;> exact h)

theorem State.Canon.ending {tile team : Nat} {x : Team} {rel : Bool} (h : s.Canon) : (s.ending tile team x rel).Canon :=
  .ite (.againAt (.feOrphans (.staleHeld (.setTile h)))) (.feOrphans (.staleHeld (.setTile h)))

theorem State.Canon.finishLaunch {tag ctx : Nat} {l : Launch} (h : s.Canon) : (s.finishLaunch tag ctx l).Canon := by
  have h1 {b : Bool} {f : Launch → Launch} : (State.wake
    (if b then (s.modLaunch tag ctx l.seq f).queueVector l.ifn l.vec
    else s.modLaunch tag ctx l.seq f) tag).Canon := .wake (.ite (.queueVector (.modLaunch h)) (.modLaunch h))
  refine .ite h1 ?_
  split
  · next ha => exact .agentAdd h1 ha
  · exact h1

theorem State.Canon.countEnd {tag ctx : Nat} {x : Team} (h : s.Canon) : (s.countEnd tag ctx x).Canon := by
  unfold State.countEnd
  split
  · refine .ite h ?_
    split
    · exact h
    · next ha => exact .ite (.finishLaunch (.agentAdd h ha)) (.agentAdd h ha)
  · exact h

theorem execTeamEnd_canon {tile team : Nat} (h : s.Canon) : Res.Canon (execTeamEnd tile team s) := by
  unfold execTeamEnd
  lift_lets
  intro T
  split
  · exact .next h
  next x hx =>
  refine .ite (.next h) ?_
  have h1 := State.Canon.ending (tile := tile) (team := team) (x := x) (rel := (T.arr.holder == some team)) h
  refine .ite (.next (.again (.flushFor h1))) ?_
  exact .next (.pushAt (.push (State.Canon.countEnd (s := s.left tile team x (T.arr.holder == some team))
    (.modTile h1))))

/-! ## Queues and their packets -/

theorem State.Canon.ringWrite {c : QueueCfg} {a : Nat} {l : List Byte} (h : s.Canon) : (s.ringWrite c a l).Canon := by
  refine .ite (.setHost h (Memory.wf_putBytes _ _ _ h.2)) ?_
  split
  · exact h
  · exact .devMemWrite h

theorem State.Canon.backNow {ifn : Nat} (h : s.Canon) : (s.backNow ifn).Canon := .again (.modQueue h)
theorem State.Canon.backSoon {ifn : Nat} (h : s.Canon) : (s.backSoon ifn).Canon := .again (.modQueue h)

theorem execQcbWriteback_canon {ifn : Nat} (h : s.Canon) : Res.Canon (execQcbWriteback ifn s) := by
  unfold execQcbWriteback
  split
  · exact .next h
  · refine .ite (.next h) (.ite (.next (.again h)) (.next ?_))
    split
    · exact .ite h (.ringWrite (.ringWrite (.ringWrite h)))
    · exact .post (.ite h (.ringWrite (.ringWrite (.ringWrite h))))

theorem State.Canon.postOrRaise {tag ctx : Nat} {e : EvRec} (h : s.Canon) : (s.postOrRaise tag ctx e).Canon := by
  unfold State.postOrRaise
  dsimp only
  split
  · exact .ite (.raiseVector (.post h)) (.post h)
  · exact .post h

theorem State.Canon.queueErr {ifn code d1 d2 : Nat} (h : s.Canon) : (s.queueErr ifn code d1 d2).Canon := by
  unfold State.queueErr
  split
  · exact h
  · exact .ite h (.ite (.foldl (.foldl (.postOrRaise (.setLink (.backNow h))) (fun _ _ h => .invalDone h)) (fun _ _ h =>
      .ite (.abortLaunch h) h)) (.foldl (.postOrRaise (.setLink (.backNow h))) (fun _ _ h => .invalDone h)))

theorem execDoorbell_canon {tag q value : Nat} {tbit : Bool} (h : s.Canon) :
    Res.Canon (execDoorbell tag q value tbit s) := by
  unfold execDoorbell
  split
  · exact .next h
  · exact .ite (.next h) (.ite (.next h) (.ite (.next h) (.ite (.next h) (.next (.queueErr h)))))

theorem State.Canon.kick {tag : Nat} (h : s.Canon) : (s.kick tag).Canon := by
  unfold State.kick
  dsimp only
  split
  · exact .again (.modPart h)
  · exact .modPart h

theorem execPacketAtHead_canon {ifn : Nat} (h : s.Canon) : Res.Canon (execPacketAtHead ifn s) := by
  unfold execPacketAtHead
  split
  · exact .next h
  · refine .ite (.next h) ?_
    split
    · exact .next (.queueErr h)
    · split
      · exact .next (.queueErr h)
      · dsimp only
        split
        · exact .next (.queueErr h)
        · split
          · exact .next (.queueErr h)
          · exact .next (.kick h)

theorem execWaitSignalReread_canon {ifn : Nat} (h : s.Canon) : Res.Canon (execWaitSignalReread ifn s) := by
  unfold execWaitSignalReread
  split
  · exact .next h
  · refine .ite (.next h) ?_
    split
    · exact .next (.queueErr h)
    · exact .next (.kick h)

theorem State.Canon.consume {ifn : Nat} (h : s.Canon) : (s.consume ifn).Canon := .push (.backSoon (.modQueue h))

theorem State.Canon.packetIrq {ifn : Nat} {l : List Byte} (h : s.Canon) :
    (s.packetIrq ifn l).Canon := .ite (.queueVector h) h

theorem State.Canon.takePacket {tag ty : Nat} {f : State → Nat → Queue → List Byte → Except (Nat × Nat × Nat) State}
    (h : s.Canon)
    (hf : ∀ s n q l t, s.Canon → f s n q l = .ok t → t.Canon) : (s.takePacket tag ty f).Canon := by
  unfold State.takePacket
  dsimp only
  split
  · exact h
  · refine .ite (.kick h) ?_
    split
    · next hs => exact .kick (hf _ _ _ _ _ (.setPart h) hs)
    · exact .kick (.queueErr h)

theorem State.Canon.finish {ifn : Nat} {l : List Byte} (h : s.Canon) : (s.finish ifn l).Canon := .packetIrq (.consume h)

theorem State.Canon.arbWrite {c : QueueCfg} {pa n v : Nat} (h : s.Canon) : (s.arbWrite c pa n v).Canon := by
  unfold State.arbWrite
  split
  · exact .devMemWrite (.clearPoison (.l2Touch h))
  · exact .ite h (.post h)
  · exact .devMemWrite h

theorem execAdmitNop_canon {tag : Nat} (h : s.Canon) : Res.Canon (execAdmitNop tag s) :=
  .next (.takePacket h fun _ _ _ _ _ h ht => by cases ht; exact .finish h)

theorem execAdmitWait_canon {tag : Nat} (h : s.Canon) : Res.Canon (execAdmitWait tag s) :=
  .next (.takePacket h fun _ _ _ _ _ h ht => by cases ht; exact .finish h)

theorem execAdmitTimestamp_canon {tag : Nat} (h : s.Canon) : Res.Canon (execAdmitTimestamp tag s) :=
  .next (.takePacket h fun _ _ _ _ _ h ht => by
    split at ht <;> cases ht
    exact .finish (.arbWrite h))

theorem State.Canon.arbAtomic {c : QueueCfg} {va v : Nat} {set : Bool} {t : State} (h : s.Canon)
    (ht : s.arbAtomic c va v set = .ok t) : t.Canon := by
  unfold State.arbAtomic at ht
  split at ht <;> cases ht
  exact .arbWrite h

theorem execAdmitSignal_canon {tag : Nat} (h : s.Canon) : Res.Canon (execAdmitSignal tag s) :=
  .next (.takePacket h fun _ _ _ _ _ h ht => by
    split at ht <;> cases ht
    next hs => exact .finish (.arbAtomic h hs))

theorem execAdmitLaunch_canon {tag : Nat} (h : s.Canon) : Res.Canon (execAdmitLaunch tag s) :=
  .next (.takePacket h fun _ _ _ _ _ h ht => by
    dsimp only at ht
    split at ht
    · cases ht
    split at ht
    · cases ht
    split at ht
    · split at ht <;> cases ht
      · exact .post (.consume h)
      · exact .pushAt (.push (.consume (.foldl (.modCtx (.virtWrite h)) fun _ _ h => h)))
    · cases ht)

theorem execAdmitCopy_canon {tag : Nat} (h : s.Canon) : Res.Canon (execAdmitCopy tag s) :=
  .next (.takePacket h fun _ _ _ _ _ h ht => by
    cases ht
    exact .push (.modQueue (.consume h)))

theorem State.Canon.copyChunk {ifn : Nat} {q : Queue} {j : CopyJob} (h : s.Canon) : (s.copyChunk ifn q j).Canon := by
  unfold State.copyChunk
  dsimp only
  split
  · exact .queueErr h
  have h1 : (if tbit j.spaces 0 = true then s.chargeHost q.cfg.owner
      (min (j.len - j.done) (min (64 - (j.src + j.done) % 64) (64 - (j.dst + j.done) % 64))) else s).Canon := .ite h h
  refine .ite (.againAt (.again (.setQueue (.chargeHost (.setHost h1 (Memory.wf_write _ _ _ _ h1.2)))))) ?_
  split
  · exact .queueErr h1
  split
  · exact .againAt (.again (.setQueue (.chargeHost (.arbWrite h1))))
  · exact .again (.setQueue (.arbWrite h1))
  · exact .again (.setQueue (.arbWrite h1))
  · exact .again (.setQueue (.arbWrite h1))

theorem execCopyPacketComplete_canon {ifn : Nat} (h : s.Canon) : Res.Canon (execCopyPacketComplete ifn s) := by
  unfold execCopyPacketComplete
  split
  · exact .next h
  split
  · exact .next h
  refine .ite (.next h) (.ite ?_ (.ite (.next (.again h)) (.ite (.next ?_) ?_)))
  · split
    · exact .next (.copyChunk h)
    · exact .ite (.next (.again h)) (.next h)
  · exact .kick (.push (.ite (.queueVector (.modQueue h)) (.modQueue h)))
  · split
    · next hs =>
      have h1 := State.Canon.arbAtomic h hs
      exact .next (.kick (.push (.ite (.queueVector (.modQueue h1)) (.modQueue h1))))
    · exact .next (.queueErr (.setQueue h))

theorem execAtsPriResponse_canon {ifn : Nat} {ok : Bool} {page : Nat} (h : s.Canon) :
    Res.Canon (execAtsPriResponse ifn ok page s) := by
  unfold execAtsPriResponse
  split
  · exact .next h
  · split
    · exact .next h
    · exact .ite (.next h) (.ite (.next (.again h)) (.next (.queueErr h)))

theorem execHostErrorCompletion_canon {ifn addr : Nat} (h : s.Canon) :
    Res.Canon (execHostErrorCompletion ifn addr s) := by
  unfold execHostErrorCompletion
  split
  · exact .next h
  · split
    · exact .next h
    · exact .ite (.next h) (.next (.queueErr h))

theorem execAtsInvalidation_canon {tag pasid page : Nat} (h : s.Canon) :
    Res.Canon (execAtsInvalidation tag pasid page s) :=
  .next (.invalDone (.foldl h (fun _ _ h => by
    split
    · exact h
    · exact (.ite (.ite (.againAt h) h) h))))

theorem execAtsDrainTimeout_canon (h : s.Canon) : Res.Canon (execAtsDrainTimeout s) := by
  unfold execAtsDrainTimeout
  dsimp only
  split
  · exact .next h
  · split
    · exact .next h
    · split
      · exact .next (.againAt h)
      · exact .next (.queueErr h)

theorem execInterruptModerationExpire_canon (h : s.Canon) : Res.Canon (execInterruptModerationExpire s) := by
  unfold execInterruptModerationExpire
  dsimp only
  split
  · exact .next h
  · split
    · exact .ite (.next h) (.ite (.next (.againAt h)) (.next (.raiseVector h)))
    · exact .next h

theorem execLockedItemWrite_canon {ifn off requester : Nat} (h : s.Canon) :
    Res.Canon (execLockedItemWrite ifn off requester s) := by
  unfold execLockedItemWrite
  split
  · exact .next h
  · exact .ite (.next (.queueErr h)) (.next h)

theorem execLockedRangeRead_canon {ifn off requester : Nat} (h : s.Canon) :
    Res.Canon (execLockedRangeRead ifn off requester s) := by
  unfold execLockedRangeRead
  split
  · exact .next h
  · exact .ite (.next (.queueErr h)) (.next h)

theorem execFunctionLevelReset_canon {tag : Nat} (h : s.Canon) : Res.Canon (execFunctionLevelReset tag s) :=
  .next (.foldl h (fun _ _ h => .ite (.queueErr h) h))

/-! ## The copy engine -/

theorem State.Canon.copyIssue {c : Ctl} {kind : Nat} {two : Bool} {pat : Nat} {a b : Reg} (h : s.Canon) :
    (s.copyIssue c kind two pat a b).Canon := by
  unfold State.copyIssue
  split
  · exact .retire (.tick h)
  · split
    · exact .trapAll h
    · dsimp only
      split
      · exact .trapAll (.modG (.ite h h))
      · exact .hold (.foldl h (fun _ _ h => .startWalk h))
      · exact h
      · refine .ite h ?_
        split
        · exact .trapAll h
        · exact .ite h (.retire (.tick (.push (.ite h h))))

theorem execCpyG2s_canon {x : CpyR} (h : s.Canon) : Res.Canon (execCpyG2s x s) := .next (.copyIssue h)
theorem execCpyS2g_canon {x : CpyR} (h : s.Canon) : Res.Canon (execCpyS2g x s) := .next (.copyIssue h)
theorem execCpyS2r_canon {x : CpyR} (h : s.Canon) : Res.Canon (execCpyS2r x s) := .next (.copyIssue h)
theorem execCpyR2s_canon {x : CpyR} (h : s.Canon) : Res.Canon (execCpyR2s x s) := .next (.copyIssue h)
theorem execFillS_canon {x : FillR} (h : s.Canon) : Res.Canon (execFillS x s) := .next (.copyIssue h)
theorem execFillG_canon {x : FillR} (h : s.Canon) : Res.Canon (execFillG x s) := .next (.copyIssue h)

/-- Where an engine's read succeeds, the state that it leaves is in canonical form. -/
theorem State.Canon.engRead {t team owner d due : Nat} {held : List TlbEnt} {priv : Priv} {ps : List (Nat × Nat)}
    {u : State}
    {l : List Byte} (h : s.Canon) (hu : s.engRead t team owner held priv d due ps = .ok u l) : u.Canon := by
  induction ps generalizing s u l with
  | nil =>
    cases hu
    exact h
  | cons p ps ih =>
    unfold State.engRead at hu
    split at hu
    · cases hu
    · dsimp only at hu
      split at hu
      · split at hu
        · cases hu
        · split at hu
          · next hs =>
            cases hu
            exact ih (.l2Touch h) hs
          · next hno => exact absurd hu (hno _ _)
      · split at hu
        · next hs =>
          cases hu
          exact ih (s := s.chargeHost owner p.2) h hs
        · next hno => exact absurd hu (hno _ _)
      · split at hu
        · next hs =>
          cases hu
          exact ih h hs
        · next hno => exact absurd hu (hno _ _)
      · split at hu
        · next hs =>
          cases hu
          exact ih (s := s.drawn) h hs
        · next hno => exact absurd hu (hno _ _)

theorem State.Canon.engWrite {t team owner d due hor k : Nat} {held : List TlbEnt} {priv : Priv} {ps : List (Nat × Nat)}
    {l : List Byte} {u : State} (h : s.Canon) (hu : s.engWrite t team owner held priv d due hor ps l = some
      (u, k)) : u.Canon := by
  induction ps generalizing s l hor with
  | nil =>
    cases hu
    exact h
  | cons p ps ih =>
    unfold State.engWrite at hu
    split at hu
    · cases hu
    · dsimp only at hu
      split at hu
      · exact ih (.putBytes (.clearPoison (.l2Touch h))) hu
      · exact ih (.chargeHost (.setHost h (Memory.wf_putBytes _ _ _ h.2))) hu
      · exact ih (.devWrite h) hu
      · exact ih (s := s.drawn.chargeJar owner p.2) h hu

/-- Where a row has been copied, the state that it leaves is in canonical form. -/
theorem State.Canon.copyRow {t hor r k : Nat} {x : CopyCmd} {u : State} (h : s.Canon)
    (hu : s.copyRow t x hor r = .ok u k) :
    u.Canon := by
  unfold State.copyRow at hu
  dsimp only at hu
  split at hu
  · split at hu <;> cases hu
    next hs => exact .modTile (.engRead h hs)
  · split at hu
    · split at hu
      · cases hu
      · split at hu <;> cases hu
        next hs => exact .engWrite h hs
    · split at hu
      · split at hu <;> cases hu
        exact h
      · split at hu
        · split at hu <;> cases hu
          exact h
        · cases hu
          exact h

/-- The rows copied leave canonical memories, also in the state that their result carries. -/
theorem State.Canon.copyRows {t hor r n : Nat} {x : CopyCmd} (h : s.Canon) :
    (s.copyRows t x hor r n).1.Canon ∧ ∀ u k, (s.copyRows t x hor r n).2 = .ok u k → u.Canon := by
  induction n generalizing s hor r with
  | zero =>
    refine ⟨h, fun u k hu => ?_⟩
    cases hu
    exact h
  | succ n ih =>
    unfold State.copyRows
    split
    · next hs => exact ih (.copyRow h hs)
    · next hno => exact ⟨h, fun u k hu => .copyRow h hu⟩

theorem State.Canon.copyStops {tile : Nat} {x : CopyCmd} (h : s.Canon) : (s.copyStops tile x).Canon := h

theorem execCopyEngineCommand_canon {tile : Nat} (h : s.Canon) : Res.Canon (execCopyEngineCommand tile s) := by
  unfold execCopyEngineCommand
  dsimp only
  split
  · exact .next h
  · refine .ite (.next (.again h)) ?_
    split
    · exact .next (.noteTrap (.copyStops (.dropOther h)))
    · split
      · next hs => exact .next (.push (.modTile ((State.Canon.copyRows h).2 _ _ hs)))
      · exact .next (.push (State.Canon.copyRows h).1)
      · exact .next (.noteTrap (.copyStops (State.Canon.copyRows h).1))

theorem State.Canon.copyBack {tile : Nat} {x : CopyCmd} (h : s.Canon) : (s.copyBack tile x).Canon := .ite h h

/-! ## The array -/

theorem State.Canon.arrKick {t : Nat} (h : s.Canon) : (s.arrKick t).Canon := by
  unfold State.arrKick
  split
  · exact h
  · split
    · exact .again h
    · exact .again h
    · exact .again h
    · exact .again h
    · exact .againAt h

theorem State.Canon.arrAccept {t : Nat} {cs : List ArrCmd} (h : s.Canon) : (s.arrAccept t cs).Canon := .arrKick h

theorem State.Canon.holdPlanes {team : Nat} {t : State} (h : s.Canon) (ht : s.holdPlanes team = some t) : t.Canon := by
  unfold State.holdPlanes at ht
  split at ht <;> split at ht <;> cases ht
  · exact h
  · exact .modTile h

theorem State.Canon.gangFail {t cause : Nat} {es : List LatchEntry} (h : s.Canon) : (s.gangFail t cause es).Canon :=
  .foldl h (fun _ _ h => .raiseAt h)

theorem State.Canon.latchIn {c : Ctl} {kind : Nat} {cmd : ArrCmd} (h : s.Canon) : (s.latchIn c kind cmd).Canon := by
  unfold State.latchIn
  dsimp only
  split
  · exact .againAt h
  · exact .gangFail h

theorem State.Canon.arrayIssue {c : Ctl} {gang tick : Bool} {kind : Nat} {build : State → Team → Nat → EngRes ArrParts}
    (h : s.Canon) : (s.arrayIssue c gang tick kind build).Canon := by
  unfold State.arrayIssue
  extract_lets +onlyGivenNames fin
  have hfin : ∀ {v : State}, v.Canon → (fin v).Canon := fun h => .retire (.ite (.tick h) h)
  split
  · exact hfin h
  · exact .trapAll h
  split
  · exact .hold h
  next u hs =>
  have hu := State.Canon.holdPlanes h hs
  refine .ite (.trapAll hu) ?_
  split
  · extract_lets +onlyGivenNames v
    exact .trapAll (.modG (.ite hu hu))
  · exact .hold (.foldl hu fun _ _ h => .startWalk h)
  · exact .hold hu
  split
  · exact .trapAll hu
  · exact .trapAll hu
  refine .ite (.hold hu) ?_
  extract_lets +onlyGivenNames cmd v w z
  have hw : w.Canon := .modTile (.fresh hu)
  have hz : z.Canon := .ite (.countU hw) hw
  exact .ite (.latchIn (.ite (.tick hz) hz)) (hfin (.arrAccept hz))

theorem execLds_canon {x : LdsR} (h : s.Canon) : Res.Canon (execLds x s) := .next (.arrayIssue h)
theorem execLdsSlab_canon {x : LdsR} (h : s.Canon) : Res.Canon (execLdsSlab x s) := .next (.arrayIssue h)
theorem execSwp_canon {c : Ctl} {g : Bool} (h : s.Canon) : Res.Canon (execSwp c g s) := .next (.arrayIssue h)
theorem execSwpFree_canon {c : Ctl} {g : Bool} (h : s.Canon) : Res.Canon (execSwpFree c g s) := .next (.arrayIssue h)
theorem execMma_canon {x : MmaR} (h : s.Canon) : Res.Canon (execMma x s) := .next (.arrayIssue h)

theorem execGangset_canon {c : Ctl} {m : Reg} {n : Fin 8} (h : s.Canon) : Res.Canon (execGangset c m n s) := by
  refine .ite (.next (.trapAll h)) ?_
  split
  · exact .next (.retire h)
  · exact .ite (.next (.trapAll h)) (.ite (.next h) (.next (.retire h)))

theorem State.Canon.gangAccept {t : Nat} {es : List LatchEntry} (h : s.Canon) : (s.gangAccept t es).Canon :=
  .foldl (.arrAccept h) fun _ _ h => h

theorem execGangRendezvous_canon {tile team seq : Nat} (h : s.Canon) :
    Res.Canon (execGangRendezvous tile team seq s) := by
  unfold execGangRendezvous
  dsimp only
  split
  · exact .next h
  · exact .ite (.next (.again h)) (.next (.gangAccept h))

theorem execGangTimeout_canon (h : s.Canon) : Res.Canon (execGangTimeout s) :=
  .ite (.next (.againAt h)) (.next (.ite (.gangFail h) (.againAt (.gangFail h))))

theorem State.Canon.arrRan {t id : Nat} (h : s.Canon) : (s.arrRan t id).Canon := .arrKick h

theorem State.Canon.placeImage {t : Nat} {c : ArrCmd} {key base : Nat} {fmt : MFmt} {sp : Bool} {img : List Byte}
    (h : s.Canon) : (s.placeImage t c key base fmt sp img).Canon :=
  .arrRan h

theorem execArrayLdsRun_canon {tile : Nat} (h : s.Canon) : Res.Canon (execArrayLdsRun tile s) := by
  unfold execArrayLdsRun
  dsimp only
  split
  · exact .next h
  · refine .ite (.next (.again h)) ?_
    split
    · split
      · next hs => exact .next (.placeImage (.engRead h hs))
      · exact .next (.push h)
      · exact .next (.arrKick h)
    · split
      · exact .next (.push h)
      · exact .next (.placeImage h)
    · exact .next h

theorem execArraySwpRun_canon {tile : Nat} (h : s.Canon) : Res.Canon (execArraySwpRun tile s) := by
  unfold execArraySwpRun
  dsimp only
  split
  · exact .next h
  · refine .ite (.next (.again h)) ?_
    split
    · exact .next (.arrRan h)
    · exact .next h

theorem State.Canon.mmaRows {t team row off stride r n : Nat} {af : MFmt} {sp z : Bool} {cols : List Column}
    (h : s.Canon) :
    (s.mmaRows t team row off stride af sp z cols r n).1.Canon := by
  induction n generalizing s r with
  | zero => exact h
  | succ n ih =>
    unfold State.mmaRows
    dsimp only
    split
    · exact h
    · exact h
    · exact h
    · exact ih (.modTile h)

theorem execArrayMmaRun_canon {tile : Nat} (h : s.Canon) : Res.Canon (execArrayMmaRun tile s) := by
  unfold execArrayMmaRun
  dsimp only
  split
  · exact .next h
  · refine .ite (.next (.again h)) ?_
    split
    · split
      · next hs => exact .next (.arrRan (hs ▸ State.Canon.mmaRows h :))
      · next hs => exact .next (.push (hs ▸ State.Canon.mmaRows h :))
    · exact .next h

theorem execPlaneRelease_canon (h : s.Canon) : Res.Canon (execPlaneRelease s) :=
  .ite (.next (.arrKick h)) (.ite (.next (.againAt h)) (.next h))

theorem execEngineFlipBack_canon {tile : Nat} {array : Bool} (h : s.Canon) :
    Res.Canon (execEngineFlipBack tile array s) := by
  refine .ite ?_ ?_
  · split
    · exact .next h
    · exact .next (.arrKick h)
  · split
    · exact .next h
    split
    · exact .next (.again h)
    · exact .next (.ite (.again (.modTile (.copyBack h))) (.modTile (.copyBack h)))

theorem execEngineEccError_canon {tile : Nat} {array : Bool} {src info : Nat} (h : s.Canon) :
    Res.Canon (execEngineEccError tile array src info s) := by
  refine .ite ?_ ?_ <;>
  · split <;> exact .next h

theorem State.Canon.accz {c : Ctl} {rr nr : Reg} {free : Bool} (h : s.Canon) : (s.accz c rr nr free).Canon := by
  unfold State.accz
  split
  · exact .retire (.tick h)
  · refine .ite (.trapAll h) (.ite (.trapAll h) (.ite (.retire (.tick h)) ?_))
    split
    · exact .trapAll h
    · exact .ite h (.retire (.tick h))

theorem execAccz_canon {c : Ctl} {row n : Reg} (h : s.Canon) : Res.Canon (execAccz c row n s) := .next (.accz h)
theorem execAcczFree_canon {c : Ctl} {row n : Reg} (h : s.Canon) : Res.Canon (execAcczFree c row n s) := .next (.accz h)

theorem execAccrd_canon {c : Ctl} {d x : Reg} (h : s.Canon) : Res.Canon (execAccrd c d x s) := by
  unfold execAccrd
  dsimp only
  split
  · exact .next (.trapLane h)
  · refine .ite (.next h) ?_
    split
    · exact .next (.trapLane h)
    · exact .next (.retire (.tick h))

theorem execAccwr_canon {c : Ctl} {x b : Reg} (h : s.Canon) : Res.Canon (execAccwr c x b s) := by
  unfold execAccwr
  dsimp only
  split
  · exact .next (.trapLane h)
  · exact .ite (.next h) (.next (.retire (.tick h)))

theorem execAccst_canon {x : AccstR} (h : s.Canon) : Res.Canon (execAccst x s) := by
  unfold execAccst
  split
  · exact .next (.retire (.tick h))
  · refine .ite (.next (.trapAll h)) (.ite (.next (.trapAll h)) (.ite (.next (.trapAll h)) ?_))
    split
    · exact .next (.trapAll h)
    · dsimp only
      split
      · exact .next (.trapAll h)
      · split
        · exact .next (.trapAll h)
        · refine .ite (.next h) ?_
          split
          · exact .next (.trapAll h)
          · exact .next (.retire (.tick h))

theorem execAccscl_canon {x : AccsclR} (h : s.Canon) : Res.Canon (execAccscl x s) := by
  unfold execAccscl
  split
  · exact .next (.retire (.tick h))
  · refine .ite (.next (.retire (.tick h))) ?_
    split
    · exact .next (.trapAll h)
    · refine .ite (.next h) ?_
      split
      · exact .next (.trapAll h)
      · exact .next (.retire (.tick h))

end Sys2Proof.Machine
end

section
/-! PROOFS. Canonical memories: the keystone, clocks and links, and the float and lane instructions. -/

namespace Sys2Proof.Machine
open Host

variable {s : State}

/-! ## Routes -/

theorem State.Canon.writeRoutes {mem : List Nat} (h : s.Canon) : (s.writeRoutes mem).Canon := .foldl h fun _ _ h => h

theorem State.Canon.addRoutes {mem new : List Nat} (h : s.Canon) :
    (s.addRoutes mem new).Canon := .foldl h fun _ _ h => h

theorem State.Canon.writePlaces {tag : Nat} (h : s.Canon) : (s.writePlaces tag).Canon := by
  unfold State.writePlaces
  split
  · exact h
  · exact .foldl h fun _ _ h => h

theorem State.Canon.zeroGrain {x : Nat × Nat} (h : s.Canon) : (s.zeroGrain x).Canon := ⟨Memory.wf_filter _ _ h.1, h.2⟩

theorem State.Canon.putWords {l : List (Nat × Nat)} (h : s.Canon) : (s.putWords l).Canon := by
  refine .setMem h ?_
  have hm := h.1
  generalize s.mem = m at hm
  induction l generalizing m with
  | nil => exact hm
  | cons x l ih => exact ih _ (Memory.wf_write _ _ _ _ hm)

theorem State.Canon.clearTables {tag : Nat} {grains : List (Nat × Nat)} (h : s.Canon) :
    (s.clearTables tag grains).Canon :=
  .setMem h (Memory.wf_filter _ _ h.1)

theorem State.Canon.dropTlbs {tag : Nat} {f : TlbEnt → Bool} (h : s.Canon) : (s.dropTlbs tag f).Canon := h

/-! ## Partitions and their devices -/

theorem State.Canon.retag {t tag gen : Nat} (h : s.Canon) : (s.retag t tag gen).Canon := h

theorem State.Canon.startTile {t : Nat} (h : s.Canon) : (s.startTile t).Canon := by
  unfold State.startTile
  split
  · exact .bringIn h
  · exact h

theorem State.Canon.restStart {t : Nat} (h : s.Canon) : (s.restStart t).Canon := .ite h h

theorem State.Canon.restTile {t limit : Nat} {pause : Bool} (h : s.Canon) : (s.restTile t limit pause).Canon := by
  unfold State.restTile
  dsimp only
  split
  · exact .restStart h
  · exact .ite h (.ite h h)
  · exact .ite h h
  · exact h

theorem State.Canon.resumeTile {t : Nat} (h : s.Canon) : (s.resumeTile t).Canon :=
  .ite h (.ite (.resumeSteps h) (.startTile h))

theorem State.Canon.saveOut {t : Nat} {list : Bool} (h : s.Canon) : (s.saveOut t list).Canon := by
  refine .ite (.modTile (.foldl (.poolFlush (.vacate (.ite (.saveImage (.foldl h (fun _ _ h => .overflow h))
    (fun _ _ h => .imagePut h)) (.foldl h (fun _ _ h => .overflow h))))) (fun _ _ h => .shelve h))) ?_
  split
  · exact .modTile (.foldl (.poolFlush (.vacate (.ite (.saveImage (.foldl h (fun _ _ h => .overflow h)) (fun _ _ h =>
      .imagePut h)) (.foldl h (fun _ _ h => .overflow h))))) (fun _ _ h => .shelve h))
  · exact .foldl (.modTile (.foldl (.poolFlush (.vacate (.ite (.saveImage (.foldl h (fun _ _ h => .overflow h))
      (fun _ _ h => .imagePut h)) (.foldl h (fun _ _ h => .overflow h))))) (fun _ _ h => .shelve h))) (fun _ _ h =>
        .listImage h)

theorem State.Canon.takeSlots {tag : Nat} (h : s.Canon) : (s.takeSlots tag).Canon := by
  unfold State.takeSlots
  split
  · exact h
  · exact .settled (.setPart (.foldl h (fun _ _ h => by split <;> exact h)))

theorem State.Canon.slotBoundary (h : s.Canon) : s.slotBoundary.Canon := by
  unfold State.slotBoundary
  split
  · exact h
  · exact .ite h (.foldl h (fun _ _ h => .takeSlots h))

theorem execSlotTableBoundary_canon (h : s.Canon) : Res.Canon (execSlotTableBoundary s) :=
  .next (.ite (.again (.slotBoundary h)) (.slotBoundary h))

theorem State.Canon.awaitSlots (h : s.Canon) : s.awaitSlots.Canon := .again h

theorem execPartitionCut_canon {x0 : CutReq} (h : s.Canon) : Res.Canon (execPartitionCut x0 s) :=
  .ite (.next h) (.ite (.next h)
    (.next (.result (.foldl
      (.modKs (.ite (.putWords (.clearTables (.foldl (.writeRoutes (.writePlaces
        (.foldl (.drawn (.setPart (.ite h (.slotBoundary h)))) (fun _ _ h => h)))) (fun _ _ h => .zeroGrain h))))
          (.awaitSlots (.putWords (.clearTables (.foldl (.writeRoutes (.writePlaces
            (.foldl (.drawn (.setPart (.ite h (.slotBoundary h)))) (fun _ _ h => h)))) (fun _ _ h => .zeroGrain h)))))))
              (fun _ _ h => .startTile h)))))

theorem execPartitionSet_canon {tag : Nat} {x : SettingsReq} (h : s.Canon) : Res.Canon (execPartitionSet tag x s) := by
  unfold execPartitionSet
  split
  · exact .next h
  · exact .ite (.next h) (.ite (.next h)
      (.next (.ite (.againAt (.ite (.awaitSlots (.modPart (.ite (.slotBoundary h) h)))
        (.modPart (.ite (.slotBoundary h) h)))) (.ite (.awaitSlots (.modPart (.ite (.slotBoundary h) h)))
          (.modPart (.ite (.slotBoundary h) h))))))

theorem State.Canon.dropQueues {tag : Nat} (h : s.Canon) : (s.dropQueues tag).Canon := h

theorem State.Canon.freePart {tag : Nat} (h : s.Canon) : (s.freePart tag).Canon := by
  unfold State.freePart
  split
  · exact h
  · exact .ite (.awaitSlots (.modKs (.slotBoundary (.modKs (.foldl (.clearTables (.foldl h (fun _ _ h => h)))
      (fun _ _ h => .zeroGrain h)))))) (.modKs (.foldl (.clearTables (.foldl h (fun _ _ h => h))) (fun _ _ h =>
        .zeroGrain h)))

theorem State.Canon.postStop {tag info : Nat} (h : s.Canon) : (s.postStop tag info).Canon := .postAll h

theorem execPartitionReset_canon {tag : Nat} (h : s.Canon) : Res.Canon (execPartitionReset tag s) := by
  unfold execPartitionReset
  split
  · exact .next h
  · exact .ite (.next (.again (.modPart h))) (.ite (.next (.again (.modPart h)))
      (.ite (.next (.again (.push (.foldl (.modPart h) (fun _ _ h => .ite h (.restTile h))))))
        (.next (.result (.foldl (.writeRoutes (.foldl (.modPart (.dropQueues (.foldl (.ite (.postStop (.modPart h))
          (.modPart h)) (fun _ _ h => h)))) (fun _ _ h => by split <;> exact h))) (fun _ _ h => .startTile h))))))

theorem execPartitionPause_canon {tag : Nat} (h : s.Canon) : Res.Canon (execPartitionPause tag s) := by
  unfold execPartitionPause
  split
  · exact .next h
  extract_lets +onlyGivenNames u ts
  have hu : u.Canon := by
    unfold u
    split
    · exact h
    · exact .modPart h
  exact .ite (.next hu) (.next (.again (.foldl hu fun _ _ h => .restTile h)))

theorem State.Canon.retagImage {tag ctx place src : Nat} {P : Part} (h : s.Canon) :
    (s.retagImage tag ctx place src P).Canon :=
  .ite h (.ite h (.modPart (.imagePut h)))

theorem State.Canon.relist {tag ctx : Nat} (h : s.Canon) : (s.relist tag ctx).Canon := by
  unfold State.relist
  split
  · exact h
  · exact .ite h (.modCtx h)

theorem State.Canon.resumeHere {tag src : Nat} (h : s.Canon) : (s.resumeHere tag src).Canon := by
  unfold State.resumeHere
  split
  · exact h
  · exact .foldl (.foldl h (fun _ _ h => .relist (.foldl h (fun _ _ h => .retagImage h)))) (fun _ _ h => .startTile h)

theorem execPartitionResume_canon {tag : Nat} {wall : Bool} {d : Nat} (h : s.Canon) :
    Res.Canon (execPartitionResume tag wall d s) := by
  unfold execPartitionResume
  split
  · exact .next h
  · split
    · exact .next h
    · refine .ite (.next h) ?_
      dsimp only
      split
      · exact .next (.wake (.resumeHere (.modPart h)))
      · exact .next (.wake (.foldl (.modPart h) (fun _ _ h => .resumeTile h)))

theorem execPeerWindowMap_canon {tag w module rtag rbase size : Nat} {write : Bool} (h : s.Canon) :
    Res.Canon (execPeerWindowMap tag w module rtag rbase size write s) := by
  unfold execPeerWindowMap
  dsimp only
  split
  · exact .next h
  · refine .ite (.next h) (.next (.result (.modPart (.dropTlbs (.putWords (.setMem h ?_))))))
    exact Memory.wf_filter _ _ h.1

theorem State.Canon.peerAnswer {kind : Nat} {x : PeerAccess} {data : List Nat} (h : s.Canon) :
    (s.peerAnswer kind x data).Canon :=
  h

theorem execPeerAccessRemote_canon {x : PeerAccess} (h : s.Canon) : Res.Canon (execPeerAccessRemote x s) := by
  unfold execPeerAccessRemote
  split
  · exact .next (.ite h h)
  · split
    · exact .next h
    · dsimp only
      split
      · exact .next h
      · exact .ite (.next h) (.ite (.next (.peerAnswer (.putBytes (.clearPoison (.l2Touch h))))) (.ite (.next h)
          (.next (.peerAnswer (.chargeJar (.l2Touch h))))))

theorem execPeerForwardExpire_canon (h : s.Canon) : Res.Canon (execPeerForwardExpire s) := .next h

theorem execOwnerWeightSet_canon {owner weight : Nat} (h : s.Canon) : Res.Canon (execOwnerWeightSet owner weight s) :=
  .ite (.next h) (.next h)

theorem execOwnerRelease_canon {owner : Nat} (h : s.Canon) :
    Res.Canon (execOwnerRelease owner s) := .ite (.next h) (.next h)

theorem execQueuePrivilegedWrite_canon {ifn : Nat} {x : QueueCfg} (h : s.Canon) :
    Res.Canon (execQueuePrivilegedWrite ifn x s) := by
  unfold execQueuePrivilegedWrite
  dsimp only
  split
  · exact .ite (.next h) (.ite (.next h) (.next h))
  · exact .ite (.next h) (.next h)

theorem State.Canon.flitGoes {link tag : Nat} (h : s.Canon) : (s.flitGoes link tag).Canon := .ite h h
theorem State.Canon.countOver {link tag n : Nat} (h : s.Canon) : (s.countOver link tag n).Canon := .ite h h

theorem execLinkFlitSend_canon {link : Nat} {waiting : List Nat} {flitNs : Nat} (h : s.Canon) :
    Res.Canon (execLinkFlitSend link waiting flitNs s) := by
  refine .ite (.next (.slotBoundary h)) (.ite (.next (.ite (.modKs (.slotBoundary h))
    (.again (.modKs (.slotBoundary h))))) ?_)
  split
  · exact .next (.ite (.modKs (.slotBoundary h)) (.again (.modKs (.slotBoundary h))))
  · exact .ite (.next (.pushAt (.ite (.modKs (.slotBoundary h)) (.again (.modKs (.slotBoundary h))))))
      (.next (.ite (.countOver (.flitGoes (.modKs (.slotBoundary h))))
        (.again (.countOver (.flitGoes (.modKs (.slotBoundary h)))))))

/-! ## Shapes, recalls, retirement and migration -/

theorem State.Canon.listJoined {tag : Nat} (h : s.Canon) : (s.listJoined tag).Canon := by
  unfold State.listJoined
  split
  · exact h
  · exact .foldl h (fun _ _ h => .listImage h)

theorem State.Canon.listPlace {tag place : Nat} (h : s.Canon) : (s.listPlace tag place).Canon := by
  unfold State.listPlace
  split
  · exact h
  · exact .listJoined (.foldl h (fun _ _ h => .listImage h))

theorem State.Canon.restTurn {out rest : List Nat} {limit : Nat} {list : Bool} (h : s.Canon) :
    (s.restTurn out rest limit list).1.Canon := by
  unfold State.restTurn
  dsimp only
  split
  · exact .foldl (.foldl h fun _ _ h => .ite h (.restTile h)) fun _ _ h => .ite h (.restTile h)
  · split
    · exact .foldl h fun _ _ h => .ite h (.saveOut h)
    · exact h

theorem State.Canon.letRun {t : Nat} (h : s.Canon) : (s.letRun t).Canon := by
  unfold State.letRun
  dsimp only
  split
  · exact h
  · exact .ite h (.ite (.startTile h) (.resumeTile h))

theorem State.Canon.letRunAll {tag : Nat} (h : s.Canon) : (s.letRunAll tag).Canon := .foldl h (fun _ _ h => .letRun h)

theorem State.Canon.setOp {tags : List Nat} {op : Option Instr} (h : s.Canon) : (s.setOp tags op).Canon :=
  .foldl h (fun _ _ h => .modPart h)

theorem State.Canon.queueOp {tags : List Nat} {me : Instr} (h : s.Canon) : (s.queueOp tags me).Canon :=
  .ite h (.foldl h (fun _ _ h => .modPart h))

theorem State.Canon.unqueueOp {me : Instr} (h : s.Canon) : (s.unqueueOp me).Canon := h

theorem State.Canon.opTurn {me : Instr} {kind : ReshapeOp} {tags out : List Nat} {rest : State → List Nat}
    {limit fault : Nat} {lost : Bool} {finish : State → State} (h : s.Canon) (hfinish : ∀ s, s.Canon →
      (finish s).Canon) : (s.opTurn me kind tags out rest limit fault lost finish).Canon :=
  .ite (.ite (.again (.queueOp h)) (.ite (.result (.unqueueOp (.queueOp h)))
    (.again (.setOp (.unqueueOp (.queueOp h)))))) (.ite (.result (hfinish _ (.setOp (.restTurn h))))
      (.again (.push (.restTurn h))))

theorem State.Canon.reanchor {tag : Nat} {lost : List Anchored} (h : s.Canon) : (s.reanchor tag lost).Canon := by
  unfold State.reanchor
  split
  · exact h
  · exact .foldl (.foldl h (fun _ _ h => h)) (fun _ _ h => by split <;> exact h)

theorem State.Canon.joinPart {tag : Nat} {tiles places : List Nat} (h : s.Canon) :
    (s.joinPart tag tiles places).Canon := by
  unfold State.joinPart
  split
  · exact h
  · exact .addRoutes (.writePlaces (.modPart (.foldl h (fun _ _ h => h))))

theorem State.Canon.leavePart {tag : Nat} {tiles : List Nat} {dest : Nat} (h : s.Canon) :
    (s.leavePart tag tiles dest).Canon := by
  unfold State.leavePart
  split
  · exact h
  · exact .reanchor (.writeRoutes (.writePlaces (.foldl (.modPart (.foldl h (fun _ _ h => .listPlace h))) (fun _ _ h =>
      h))))

theorem State.Canon.movePlaces {tag : Nat} {moves : List (Nat × Nat)} (h : s.Canon) :
    (s.movePlaces tag moves).Canon := by
  unfold State.movePlaces
  split
  · exact h
  · exact .writeRoutes (.writePlaces (.foldl (.modPart (.foldl (.foldl h (fun _ _ h => h)) (fun _ _ h => h)))
      (fun _ _ h => h)))

theorem execPartitionGrow_canon {tag : Nat} {tiles places : List Nat} (h : s.Canon) :
    Res.Canon (execPartitionGrow tag tiles places s) := by
  unfold execPartitionGrow
  dsimp only
  split
  · exact .next h
  · exact .next (.opTurn h (fun _ h => .letRunAll (.joinPart h)))

theorem State.Canon.abortOn {tag place : Nat} {l : List (Nat × Nat)} (h : s.Canon) : (s.abortOn tag place l).Canon :=
  .foldl h (fun _ _ h => by
    dsimp only
    split
    · exact .abortLaunch (.modPart h)
    · exact (.modPart h))

theorem State.Canon.haltTile {t : Nat} (h : s.Canon) : (s.haltTile t).Canon := .modTile (.foldl h (fun _ _ h => h))

theorem State.Canon.forceOut {tag t dest : Nat} (h : s.Canon) : (s.forceOut tag t dest).Canon := by
  unfold State.forceOut
  split
  · exact h
  · exact .reanchor (.listPlace (.abortOn (.modPart (.retag (.haltTile h)))))

theorem State.Canon.haltNow {force : Bool} {tags : List Nat} {me : Instr} {ts : List Nat} (h : s.Canon) :
    (s.haltNow force tags me ts).Canon :=
  .ite (.foldl h (fun _ _ h => .ite h (.haltTile h))) h

theorem execPartitionShrink_canon {tag : Nat} {tiles : List Nat} {force : Bool} (h : s.Canon) :
    Res.Canon (execPartitionShrink tag tiles force s) := by
  unfold execPartitionShrink
  dsimp only
  split
  · exact .next h
  · exact .next (.opTurn (.haltNow h) (fun _ h => .letRunAll
      (.ite (.writeRoutes (.writePlaces (.foldl h (fun _ _ h => .forceOut h)))) (.leavePart h))))

theorem execPartitionCompact_canon {tag : Nat} {moves : List (Nat × Nat)} (h : s.Canon) :
    Res.Canon (execPartitionCompact tag moves s) := by
  unfold execPartitionCompact
  dsimp only
  split
  · exact .next h
  · exact .next (.opTurn h (fun _ h => .letRunAll (.movePlaces (.ite (.foldl h (fun _ _ h => h)) h))))

theorem execLendTile_canon {tile borrower place : Nat} {force : Bool} (h : s.Canon) :
    Res.Canon (execLendTile tile borrower place force s) := by
  unfold execLendTile
  dsimp only
  split
  · exact .next (.opTurn (.haltNow h) (fun _ h => .letRunAll (.letRunAll
      (.modTile (.joinPart (.ite (.writeRoutes (.writePlaces (.forceOut h))) (.leavePart h)))))))
  · exact .next h

theorem State.Canon.giveBack {t : Nat} (h : s.Canon) : (s.giveBack t).Canon := by
  unfold State.giveBack
  dsimp only
  split
  · exact h
  · exact .ite (.joinPart h) h

theorem execRecallTile_canon {tile : Nat} {force : Bool} (h : s.Canon) : Res.Canon (execRecallTile tile force s) := by
  unfold execRecallTile
  dsimp only
  split
  · exact .next (.ite h h)
  · exact .ite (.next h) (.ite (.next h) (.ite (.next (.result (.letRunAll (.giveBack (.ite h h)))))
      (.ite (.next (.pushAt (.ite h h))) (.next (.opTurn (.ite (.ite h h) (.settled (.modPart (.againAt (.ite h h)))))
        (fun _ h => .letRunAll (.letRunAll (.giveBack (.modTile (.leavePart h))))))))))

theorem execRecallStepOverrun_canon (h : s.Canon) : Res.Canon (execRecallStepOverrun s) := by
  unfold execRecallStepOverrun
  dsimp only
  split
  · exact .next h
  · exact .ite (.next h) (.ite (.next h) (.next (.againAt h)))

theorem execForcedRecall_canon (h : s.Canon) : Res.Canon (execForcedRecall s) := by
  unfold execForcedRecall
  extract_lets +onlyGivenNames t T
  split
  · extract_lets +onlyGivenNames me
    refine .ite (.ite (.next (.againAt h)) (.next (.againAt (.haltTile (.setOp h)))))
      (.ite (.next (.againAt (.listPlace (.abortOn (.foldl h fun _ _ h => h))))) ?_)
    extract_lets +onlyGivenNames lend u paused v w
    have hu : u.Canon := .foldl h fun _ _ h => .restTile h
    have hv : v.Canon := by
      unfold v
      split
      · exact hu
      · exact .ite (.letRunAll (.reanchor (.writePlaces (.modPart (.foldl hu fun _ _ h => .restTile h)))))
          (.foldl hu fun _ _ h => .restTile h)
    exact .ite (.next (.againAt hv)) (.next (.result (.letRunAll (.setOp (.giveBack (.modTile hv))))))
  · exact .next h

theorem State.Canon.migFails {tag : Nat} (h : s.Canon) : (s.migFails tag).Canon := by
  unfold State.migFails
  split
  · exact h
  · exact .ite h (.ite (.freePart h) (.modPart h))

theorem State.Canon.portDown {p : Nat} {inService : Bool} (h : s.Canon) : (s.portDown p inService).Canon :=
  .foldl h (fun _ _ h => .migFails h)

theorem State.Canon.cancelOp {tags : List Nat} {me : Instr} (h : s.Canon) : (s.cancelOp tags me).Canon :=
  .result (.foldl (.setOp h) (fun _ _ h => .letRunAll h))

theorem State.Canon.markBad {t new : Nat} (h : s.Canon) : (s.markBad t new).Canon := h

theorem execQuiesceStepOverrun_canon {op : ReshapeOp} {tag tile : Nat} (h : s.Canon) :
    Res.Canon (execQuiesceStepOverrun op tag tile s) := by
  unfold execQuiesceStepOverrun
  dsimp only
  split
  · exact .next h
  · split
    · exact .next (.ite h h)
    · exact .next (.ite (.cancelOp h) h)
    · exact .next (.ite (.cancelOp h) h)
    · exact .ite (.next (.abortOn h)) (.next h)
    · exact .next (.ite (.modTile (.haltTile h)) h)
    · exact .ite (.next (.result (.modPart (.setOp h)))) (.next h)
    · refine .ite (.next (.againAt h)) ?_
      split
      · exact .next h
      · exact .ite (.next (.again h)) (.next (.abortOn (.foldl h (fun _ _ h => .stopLaunch h))))
    · exact .next h

theorem execTileRetire_canon {tile new : Nat} (h : s.Canon) : Res.Canon (execTileRetire tile new s) := by
  unfold execTileRetire
  extract_lets +onlyGivenNames me
  refine .ite (.next h) ?_
  extract_lets +onlyGivenNames T u
  have hu : u.Canon := .ite h h
  refine .ite (.next (.again hu)) ?_
  split
  · exact .ite (.next hu) (.next (.modTile (.markBad hu)))
  · extract_lets tag place dest
    clear_value dest
    refine .next (.opTurn hu fun v hv => ?_)
    extract_lets +onlyGivenNames seq a b c d
    have ha : a.Canon := by
      unfold a
      split
      · exact .movePlaces hv
      · exact .leavePart hv
    have hb : b.Canon := .letRunAll (.modTile (.markBad ha))
    have hc : c.Canon := .postAll hb
    have hd : d.Canon := by
      unfold d
      split
      · exact .postAll hc
      · exact hc
    exact .ite (.push hd) hd

theorem State.Canon.stopParts {tags : List Nat} {info : Nat} (h : s.Canon) : (s.stopParts tags info).Canon :=
  .foldl h (fun _ _ h => .again (.postStop (.modPart h)))

theorem State.Canon.retireField {f : Nat} (h : s.Canon) : (s.retireField f).Canon := h
theorem State.Canon.noteRepair {unit old new : Nat} (h : s.Canon) : (s.noteRepair unit old new).Canon := h

theorem State.Canon.dropSegment {t : Nat} (h : s.Canon) : (s.dropSegment t).Canon :=
  .ite (.modTile (.modTile (.ite (.poolFlush (.vacate (.saveImage h (fun _ _ h => .imagePut h)))) h)))
    (.modTile (.ite (.poolFlush (.vacate (.saveImage h (fun _ _ h => .imagePut h)))) h))

theorem State.Canon.repairNow {a : RepairUnit} (h : s.Canon) : (s.repairNow a).Canon := by
  unfold State.repairNow
  split
  · exact .ite h h
  · exact .ite h (.noteRepair (.dropSegment h))
  · exact by dsimp only; split <;> exact h
  · dsimp only
    split
    · exact h
    · exact .ite h (.ite h h)
  · exact h
  · exact .ite h h
  · exact .ite h h
  · exact .ite h h
  · exact .ite h (.ite h h)
  · exact .noteRepair (.retireField (.stopParts h))
  · exact .noteRepair (.portDown h)

theorem execRepair_canon {u : RepairUnit} (h : s.Canon) : Res.Canon (execRepair u s) := by
  unfold execRepair
  dsimp only
  split
  · exact .next (.repairNow h)
  · exact .ite (.next h) (.ite (.next (.ite (.modKs (.repairNow h)) (.letRun (.modKs (.repairNow h)))))
      (.next (.again (.ite (.restTile (.ite h h)) (.ite h h)))))

theorem execTableRewrite_canon (h : s.Canon) : Res.Canon (execTableRewrite s) := .next h

theorem State.Canon.sendCopy {tag : Nat} {l : List Host.Cell} {left : Nat} (h : s.Canon) :
    (s.sendCopy tag l left).Canon := h

theorem State.Canon.copyRound {tag : Nat} {P : Part} {m : Migration} {phase : Nat} (h : s.Canon) :
    (s.copyRound tag P m phase).Canon :=
  .sendCopy (.modPart h)

/-- The cells that a migration has received, written into memory. -/
theorem State.Canon.putCells {P : Part} {l : List Host.Cell} (h : s.Canon) :
    State.Canon (l.foldl (fun (s : State) c => match P.paOf c.1 with
      | some a => (s.clearPoison a 1).putBytes a [c.2]
      | none => s) s) := by
  refine .foldl h fun _ _ h => ?_
  split
  · exact .putBytes h
  · exact h

theorem execMigrate_canon {tag phase : Nat} {x : MigReq} (h : s.Canon) : Res.Canon (execMigrate tag phase x s) := by
  unfold execMigrate
  extract_lets +onlyGivenNames me
  split
  · exact .next h
  refine .ite ?_ (.ite ?_ (.ite (.next h) (.ite ?_ ?_)))
  · split
    · exact .ite (.next h) (.ite (.next (.result (.freePart h))) (.next (.result (.migFails h))))
    · exact .next h
  · split
    · exact .next (.result (.modPart (.putCells h)))
    · exact .next (.result (.modPart (.putCells h)))
    · exact .next (.result (.modPart (.putCells h)))
    · exact .next h
  · split
    · exact .next (.result (.sendCopy (.modPart h)))
    · exact .ite (.next h) (.next (.result (.copyRound h)))
  · split
    · exact .next h
    refine .ite (.next h) (.ite (.next (.again (.copyRound h))) (.next (.opTurn (.ite (.modPart h) h) fun _ h => ?_)))
    split
    · exact .copyRound h
    · exact h

theorem State.Canon.modMig {tag : Nat} {f : Migration → Migration} (h : s.Canon) : (s.modMig tag f).Canon := .modPart h

theorem execMigrationApproval_canon {tag : Nat} (h : s.Canon) :
    Res.Canon (execMigrationApproval tag s) := .next (.modMig h)

theorem execMigrationKeyTransfer_canon {tag : Nat} (h : s.Canon) : Res.Canon (execMigrationKeyTransfer tag s) := by
  unfold execMigrationKeyTransfer
  split
  · exact .next h
  · split
    · exact .next h
    · exact .ite (.next h) (.next (.modKs (.drawn (.modMig h))))

theorem execMigrationReceiptAck_canon {tag : Nat} (h : s.Canon) : Res.Canon (execMigrationReceiptAck tag s) := by
  unfold execMigrationReceiptAck
  split
  · exact .next h
  · exact .ite (.next h) (.next (.pushAt (.modKs (.modPart h))))

theorem execMigrationRunConfirm_canon {tag : Nat} (h : s.Canon) : Res.Canon (execMigrationRunConfirm tag s) := by
  unfold execMigrationRunConfirm
  split
  · exact .next h
  · exact .next (.ite (.freePart h) h)

theorem execMigrationConfirmTimeout_canon (h : s.Canon) : Res.Canon (execMigrationConfirmTimeout s) := .next (.modMig h)

/-! ## Clocks, energy and errors -/

theorem State.Canon.foldStep {f : Nat} (h : s.Canon) : (s.foldStep f).Canon := .ite h h

theorem State.Canon.foldMonitors {f : Nat} (h : s.Canon) : (s.foldMonitors f).Canon :=
  .foldl (.foldl h fun _ _ h => h) fun _ _ h => h

theorem execLifetimeFold_canon (h : s.Canon) : Res.Canon (execLifetimeFold s) :=
  .ite (.next (.modKs (.drawn (.foldl h fun _ _ h => .foldMonitors (.foldStep h))))) (.next h)

theorem execScrubPass_canon (h : s.Canon) : Res.Canon (execScrubPass s) :=
  .ite (.next (.modKs (.foldl h (fun _ _ h => h)))) (.next h)

theorem State.Canon.chargeTile {t dt : Nat} (h : s.Canon) : (s.chargeTile t dt).Canon := by
  unfold State.chargeTile
  dsimp only
  split
  · exact h
  · exact .ite h (.ite h (.foldl h (fun _ _ h => h)))

theorem State.Canon.countCycles {t dt cyc n : Nat} (h : s.Canon) : (s.countCycles t dt cyc n).Canon :=
  .ite h (.ite (.countFrom h) (.countFrom (.countFrom h)))

theorem State.Canon.elapse {units : Nat} (h : s.Canon) : (s.elapse units).Canon :=
  .foldl h (fun _ _ h => .ite h (.countCycles (.chargeTile h)))

theorem execEnergyAttribution_canon {activity : List (Nat × Nat)} {measured : Nat} (h : s.Canon) :
    Res.Canon (execEnergyAttribution activity measured s) :=
  .next (.modKs (.foldl h (fun _ _ h => h)))

theorem State.Canon.fatal {cause f : Nat} (h : s.Canon) : (s.fatal cause f).Canon := .foldl h fun _ _ h => h

theorem execModuleFatal_canon {cause field : Nat} (h : s.Canon) : Res.Canon (execModuleFatal cause field s) :=
  .ite (.next (.fatal h)) (.next h)

theorem State.Canon.changeStep {f step : Nat} (h : s.Canon) : (s.changeStep f step).Canon :=
  .pushAt (.tally (.setField (.foldStep h)))

theorem State.Canon.askStep {f step : Nat} {now : Bool} (h : s.Canon) : (s.askStep f step now).Canon :=
  .ite (.againAt h) (.changeStep h)

theorem execClockStepDown_canon {field : Nat} {temps : List ℤ} (h : s.Canon) :
    Res.Canon (execClockStepDown field temps s) :=
  .ite (.next h) (.ite (.next (.askStep (.ite h h))) (.next (.ite h h)))

theorem execClockStepUp_canon {field : Nat} {temps : List ℤ} (h : s.Canon) :
    Res.Canon (execClockStepUp field temps s) := by
  refine .ite (.next h) (.ite (.next h) ?_)
  split
  · exact .next h
  · exact .ite (.next (.askStep h)) (.next h)

theorem execClockStepDeferred_canon (h : s.Canon) : Res.Canon (execClockStepDeferred s) := by
  unfold execClockStepDeferred
  dsimp only
  split
  · exact .next h
  · exact .ite (.next (.againAt h)) (.next (.changeStep h))

theorem execClockHaltResume_canon (h : s.Canon) : Res.Canon (execClockHaltResume s) := .next (.ite h h)

theorem execThermalStop_canon {field : Nat} {temps : List ℤ} (h : s.Canon) :
    Res.Canon (execThermalStop field temps s) :=
  .ite (.next (.fatal h)) (.next h)

theorem execSensorDisagree_canon {field sensor : Nat} {temps : List ℤ} (h : s.Canon) :
    Res.Canon (execSensorDisagree field sensor temps s) := by
  unfold execSensorDisagree
  dsimp only
  split
  · exact .next h
  · refine .ite (.next h) (.ite (.next h) ?_)
    split
    · exact .next h
    · exact .ite (.next h) (.next (.ite (.askStep h) h))

theorem State.Canon.stopField {f : Nat} (h : s.Canon) : (s.stopField f).Canon := .ite h (.retireField (.stopParts h))

theorem execTimeBeacon_canon {field : Nat} {skew : ℤ} (h : s.Canon) : Res.Canon (execTimeBeacon field skew s) :=
  .ite (.next h) (.ite (.next (.stopField h)) (.ite (.next h) (.next h)))

theorem execTimeBeaconMissing_canon (h : s.Canon) : Res.Canon (execTimeBeaconMissing s) :=
  .ite (.next (.stopField h)) (.next h)

theorem execWtimeCounterMismatch_canon (h : s.Canon) : Res.Canon (execWtimeCounterMismatch s) :=
  .ite (.next h) (.next (.ite h h))

theorem execAccuracyTick_canon (h : s.Canon) :
    Res.Canon (execAccuracyTick s) := .ite (.next h) (.next (.ite h (.again h)))

theorem execSharedStructureError_canon {st : SharedStruct} {field unit : Nat} (h : s.Canon) :
    Res.Canon (execSharedStructureError st field unit s) := by
  refine .ite (.next h) (.next (.push (.tally ?_)))
  split
  · exact .setSlice (.modKs (.stopParts h))
  · exact .setSlice (.modKs (.stopParts h))
  · exact .modKs (.stopParts h)

theorem State.Canon.erased (h : s.Canon) : s.erased.Canon := ⟨rfl, h.2⟩
theorem execPowerLoss_canon (h : s.Canon) : Res.Canon (execPowerLoss s) := .next (.erased h)

theorem execModuleReset_canon (h : s.Canon) : Res.Canon (execModuleReset s) :=
  .next (.erased (s := s.modKs fun k => k.fold s.wtime) h)

/-! ## Float instructions -/

theorem Res.Canon.fpR {x : FpR} {lat : Option Nat} {f : Fmt → RM → Nat → Nat → Nat × Nat} (h : s.Canon) :
    Res.Canon (s.fpR x lat f) :=
  .next (.alu h)

theorem execFadd_canon {x : FpR} (h : s.Canon) : Res.Canon (execFadd x s) := .fpR h
theorem execFsub_canon {x : FpR} (h : s.Canon) : Res.Canon (execFsub x s) := .fpR h
theorem execFmul_canon {x : FpR} (h : s.Canon) : Res.Canon (execFmul x s) := .fpR h
theorem execFdiv_canon {x : FpR} (h : s.Canon) : Res.Canon (execFdiv x s) := .fpR h
theorem execFfma_canon {x : FpRC} (h : s.Canon) : Res.Canon (execFfma x s) := .next (.alu h)
theorem execFmin_canon {x : FpM} (h : s.Canon) : Res.Canon (execFmin x s) := .next (.alu h)
theorem execFmax_canon {x : FpM} (h : s.Canon) : Res.Canon (execFmax x s) := .next (.alu h)
theorem execFcmp_canon {x : FCmpR} (h : s.Canon) : Res.Canon (execFcmp x s) := .next (.aluP h)
theorem execFcvt_canon {x : FCvtR} (h : s.Canon) : Res.Canon (execFcvt x s) := .next (.alu h)
theorem execFclass_canon {x : FClassR} (h : s.Canon) : Res.Canon (execFclass x s) := .next (.alu h)
theorem execFsqrt_canon {x : FpU} (h : s.Canon) : Res.Canon (execFsqrt x s) := .next (.alu h)
theorem execSfn_canon {x : SfnR} (h : s.Canon) : Res.Canon (execSfn x s) := .next (.alu h)
theorem execPadd2_canon {x : FpR} (h : s.Canon) : Res.Canon (execPadd2 x s) := .next (.alu h)
theorem execPmul2_canon {x : FpR} (h : s.Canon) : Res.Canon (execPmul2 x s) := .next (.alu h)
theorem execPfma2_canon {x : FpRC} (h : s.Canon) : Res.Canon (execPfma2 x s) := .next (.alu h)

/-! ## Instructions across lanes -/

theorem execShfl_canon {x : ShflR} (h : s.Canon) : Res.Canon (execShfl x s) := .next (.alu h)
theorem execRedl_canon {x : RedlR} (h : s.Canon) : Res.Canon (execRedl x s) := .next (.retire h)
theorem execScanl_canon {x : ScanR} (h : s.Canon) : Res.Canon (execScanl x s) := .next (.retire h)
theorem execVote_canon {x : VoteR} (h : s.Canon) : Res.Canon (execVote x s) := .next (.retire h)

/-! ## Sessions and keys -/

theorem State.Canon.reply {kind : Nat} {data : List Nat} {signed : Bool} (h : s.Canon) :
    (s.reply kind data signed).Canon := by
  unfold State.reply
  split <;> exact h

theorem State.Canon.refuse {code : Nat} (h : s.Canon) : (s.refuse code).Canon := .reply h

theorem State.Canon.bindSession {sess ifn : Nat} {t : State} (h : s.Canon) (ht : s.bindSession sess ifn = some t) :
    t.Canon := by
  unfold State.bindSession at ht
  split at ht
  · cases ht
  · split at ht
    · split at ht <;> cases ht
      exact h
    · cases ht
      exact h

theorem execChallenge_canon {nonce : Nat} (h : s.Canon) : Res.Canon (execChallenge nonce s) := .next (.reply h)

theorem execKeyExchange_canon {sess : Nat} (h : s.Canon) : Res.Canon (execKeyExchange sess s) :=
  .ite (.next h) (.ite (.next (.refuse h)) (.next (.reply h)))

theorem State.Canon.closeSession {sess : Nat} (h : s.Canon) : (s.closeSession sess).Canon :=
  .ite h (.foldl h (fun _ _ h => .ite (.queueErr h) h))

theorem execSecuredMessageFail_canon {sess : Nat} (h : s.Canon) : Res.Canon (execSecuredMessageFail sess s) :=
  .next (.closeSession h)

theorem execEndSession_canon {sess : Nat} (h : s.Canon) : Res.Canon (execEndSession sess s) := .next (.closeSession h)

theorem execMeasurements_canon {sess index : Nat} (h : s.Canon) : Res.Canon (execMeasurements sess index s) := by
  unfold execMeasurements
  split
  · exact .next (.reply h)
  · exact .next (.refuse h)

theorem execLockInterface_canon {ifn sess : Nat} (h : s.Canon) : Res.Canon (execLockInterface ifn sess s) := by
  unfold execLockInterface
  split
  · next hs =>
    have h1 := State.Canon.bindSession h hs
    dsimp only
    split
    · exact .next (.refuse h1)
    · exact .ite (.next (.refuse h1)) (.next (.reply (.backNow h1)))
  · exact .next (.refuse h)

theorem execStartInterface_canon {ifn sess : Nat} (h : s.Canon) : Res.Canon (execStartInterface ifn sess s) := by
  unfold execStartInterface
  split
  · next hs =>
    have h1 := State.Canon.bindSession h hs
    exact .ite (.next (.refuse h1)) (.next (.reply (.push (.backNow h1))))
  · exact .next (.refuse h)

theorem execStopInterface_canon {ifn sess : Nat} (h : s.Canon) : Res.Canon (execStopInterface ifn sess s) := by
  unfold execStopInterface
  split
  · exact .next (.refuse h)
  · have h1 : ((s.bindSession sess ifn).getD s).Canon := by
      cases hs : s.bindSession sess ifn with
      | none => exact h
      | some t => exact .bindSession h hs
    exact .ite (.next (.refuse h1)) (.ite (.next (.again h1)) (.next (.reply (.backNow h1))))

theorem execGetDeviceInterfaceReport_canon {ifn sess : Nat} (h : s.Canon) :
    Res.Canon (execGetDeviceInterfaceReport ifn sess s) := by
  unfold execGetDeviceInterfaceReport
  split
  · next hs =>
    have h1 := State.Canon.bindSession h hs
    split
    · exact .next (.refuse h1)
    · exact .ite (.next (.refuse h1)) (.next (.reply h1))
  · exact .next (.refuse h)

theorem State.Canon.changeKey {me : Instr} {sess slot : Nat} {new : KeySlot} (h : s.Canon) :
    (s.changeKey me sess slot new).Canon := by
  unfold State.changeKey
  split
  · exact .refuse h
  · exact .ite (.refuse h) (.ite (.reply (.modPart h)) (.again (.modPart h)))

theorem execKeySet_canon {sess slot : Nat} {clear : Bool} {key wdid : Nat} (h : s.Canon) :
    Res.Canon (execKeySet sess slot clear key wdid s) :=
  .next (.changeKey h)

theorem execKeyErase_canon {sess slot : Nat} (h : s.Canon) :
    Res.Canon (execKeyErase sess slot s) := .next (.changeKey h)

theorem execKeyQuery_canon {sess : Nat} (h : s.Canon) : Res.Canon (execKeyQuery sess s) := by
  unfold execKeyQuery
  split
  · exact .next (.refuse h)
  · exact .next (.reply h)

theorem execKeyEscrow_canon {sess key : Nat} (h : s.Canon) : Res.Canon (execKeyEscrow sess key s) := by
  unfold execKeyEscrow
  split
  · exact .next (.refuse h)
  · exact .next (.reply (.modPart h))

theorem execKeyImport_canon {sess : Nat} {blob : List Nat} {kb : Nat} (h : s.Canon) :
    Res.Canon (execKeyImport sess blob kb s) := by
  unfold execKeyImport
  split
  · exact .next (.refuse h)
  · exact .ite (.next (.refuse h)) (.next (.reply (.modPart h)))

theorem execIdeKm_canon {sess link stream tag key : Nat} (h : s.Canon) :
    Res.Canon (execIdeKm sess link stream tag key s) :=
  .ite (.next (.refuse h)) (.next (.reply h))

theorem execIdeIntegrityFail_canon {link stream : Nat} (h : s.Canon) : Res.Canon (execIdeIntegrityFail link stream s) :=
  .next (.foldl (.ite h h) (fun _ _ h => .ite (.queueErr h) h))

/-! ## Links between plinths -/

theorem execJarletLinkTrain_canon {port : Nat} {off : ℤ} (h : s.Canon) : Res.Canon (execJarletLinkTrain port off s) :=
  .ite (.next h) (.next h)

theorem State.Canon.flitFails {port : Nat} (h : s.Canon) : (s.flitFails port).Canon := .ite h h
theorem State.Canon.slotConflict {port : Nat} (h : s.Canon) : (s.slotConflict port).Canon := .ite h (.ite h h)

theorem execJarletFlitReceive_canon {port : Nat} {x : JFlit} (h : s.Canon) :
    Res.Canon (execJarletFlitReceive port x s) :=
  .ite (.next h) (.ite (.next (.flitFails h)) (.next (.ite (.pushAt (.ite (.slotConflict h) h))
    (.ite (.slotConflict h) h))))

theorem execJarletKeyUpdate_canon {port : Nat} {dir : Bool} (h : s.Canon) :
    Res.Canon (execJarletKeyUpdate port dir s) :=
  .ite (.next h) (.next h)

theorem execJarletPortDown_canon (h : s.Canon) :
    Res.Canon (execJarletPortDown s) := .ite (.next (.portDown h)) (.next h)

theorem execJarletKeyAgreement_canon {port : Nat} {ok : Bool} (h : s.Canon) :
    Res.Canon (execJarletKeyAgreement port ok s) :=
  .ite (.next h) (.ite (.next h) (.ite (.next h) (.next h)))

end Sys2Proof.Machine
end

section
/-! PROOFS. Canonical memories: every instruction, every turn and every step. -/

namespace Sys2Proof.Machine
open Host

variable {s : State}

/-! ## Every instruction -/

theorem exec_canon {i : Instr} (h : s.Canon) : Res.Canon (exec i s) := by
  unfold exec
  split
  · exact execNop_canon h
  · exact execBra_canon h
  · exact execBrx_canon h
  · exact execCall_canon h
  · exact execRet_canon h
  · exact execExit_canon h
  · exact execYield_canon h
  · exact execTrap_canon h
  · exact execTrapRet_canon h
  · exact execEretRetry_canon h
  · exact execEretSkip_canon h
  · exact execEretRedir_canon h
  · exact execMfs_canon h
  · exact execMfsAevt_canon h
  · exact execMts_canon h
  · exact execMtsApool_canon h
  · exact execMtsPmc_canon h
  · exact execEvt_canon h
  · exact execEvtH_canon h
  · exact execFrz_canon h
  · exact execStamp_canon h
  · exact execSpawn_canon h
  · exact execSpawnRem_canon h
  · exact execCtxsave_canon h
  · exact execCtxsaveFull_canon h
  · exact execCtxload_canon h
  · exact execCtxsw_canon h
  · exact execTlbiCtx_canon h
  · exact execTlbiPart_canon h
  · exact execTlbiPage_canon h
  · exact execTlbiGrain_canon h
  · exact execPlacew_canon h
  · exact execAdd_canon h
  · exact execAddI_canon h
  · exact execSub_canon h
  · exact execSubI_canon h
  · exact execMul_canon h
  · exact execMulI_canon h
  · exact execMulh_canon h
  · exact execMad_canon h
  · exact execDiv_canon h
  · exact execRem_canon h
  · exact execMin_canon h
  · exact execMinI_canon h
  · exact execMax_canon h
  · exact execMaxI_canon h
  · exact execAbs_canon h
  · exact execNeg_canon h
  · exact execAnd_canon h
  · exact execAndI_canon h
  · exact execOr_canon h
  · exact execOrI_canon h
  · exact execXor_canon h
  · exact execXorI_canon h
  · exact execNot_canon h
  · exact execShl_canon h
  · exact execShlI_canon h
  · exact execShr_canon h
  · exact execShrI_canon h
  · exact execSar_canon h
  · exact execSarI_canon h
  · exact execRot_canon h
  · exact execRotI_canon h
  · exact execPopc_canon h
  · exact execClz_canon h
  · exact execBrev_canon h
  · exact execBfx_canon h
  · exact execBfi_canon h
  · exact execLea_canon h
  · exact execLeaI_canon h
  · exact execMov_canon h
  · exact execMovi_canon h
  · exact execSel_canon h
  · exact execCmp_canon h
  · exact execCmpI_canon h
  · exact execPand_canon h
  · exact execPor_canon h
  · exact execPxor_canon h
  · exact execPnot_canon h
  · exact execFadd_canon h
  · exact execFsub_canon h
  · exact execFmul_canon h
  · exact execFfma_canon h
  · exact execFmin_canon h
  · exact execFmax_canon h
  · exact execFcmp_canon h
  · exact execFcvt_canon h
  · exact execFclass_canon h
  · exact execFdiv_canon h
  · exact execFsqrt_canon h
  · exact execSfn_canon h
  · exact execPadd2_canon h
  · exact execPmul2_canon h
  · exact execPfma2_canon h
  · exact execShfl_canon h
  · exact execRedl_canon h
  · exact execScanl_canon h
  · exact execVote_canon h
  · exact execLd_canon h
  · exact execSt_canon h
  · exact execPref_canon h
  · exact execLdf_canon h
  · exact execSte_canon h
  · exact execStf_canon h
  · exact execSetfe_canon h
  · exact execAtom_canon h
  · exact execRed_canon h
  · exact execGth_canon h
  · exact execFenceR_canon h
  · exact execFenceA_canon h
  · exact execFenceAr_canon h
  · exact execBarT_canon h
  · exact execBarC_canon h
  · exact execOwn_canon h
  · exact execWaito_canon h
  · exact execCpyG2s_canon h
  · exact execCpyS2g_canon h
  · exact execCpyS2r_canon h
  · exact execCpyR2s_canon h
  · exact execFillS_canon h
  · exact execFillG_canon h
  · exact execGangset_canon h
  · exact execLds_canon h
  · exact execLdsSlab_canon h
  · exact execSwp_canon h
  · exact execSwpFree_canon h
  · exact execMma_canon h
  · exact execAccz_canon h
  · exact execAcczFree_canon h
  · exact execAccrd_canon h
  · exact execAccwr_canon h
  · exact execAccst_canon h
  · exact execAccscl_canon h
  · exact execDoorbell_canon h
  · exact execPacketAtHead_canon h
  · exact execWaitSignalReread_canon h
  · exact execAdmitLaunch_canon h
  · exact execAdmitCopy_canon h
  · exact execCopyPacketComplete_canon h
  · exact execAdmitSignal_canon h
  · exact execAdmitWait_canon h
  · exact execAdmitTimestamp_canon h
  · exact execAdmitNop_canon h
  · exact execQcbWriteback_canon h
  · exact execAgentClaim_canon h
  · exact execClusterReservation_canon h
  · exact execClusterReservationGrant_canon h
  · exact execClusterBuild_canon h
  · exact execStampedGroupLaunch_canon h
  · exact execBinItemAccept_canon h
  · exact execBinGroupLaunch_canon h
  · exact execTeamEnd_canon h
  · exact execGroupPark_canon h
  · exact execShadowLoaded_canon h
  · exact execLendTile_canon h
  · exact execRecallTile_canon h
  · exact execL1Fill_canon h
  · exact execLoadResponse_canon h
  · exact execSliceRead_canon h
  · exact execSliceStoreApply_canon h
  · exact execSliceAtomicApply_canon h
  · exact execSliceGather_canon h
  · exact execStoreAck_canon h
  · exact execAtomResponse_canon h
  · exact execPageWalk_canon h
  · exact execWalkComplete_canon h
  · exact execFenceWaitEnd_canon h
  · exact execRemoteScratchpadRequest_canon h
  · exact execFeRequestServed_canon h
  · exact execBarrierComplete_canon h
  · exact execCopyEngineCommand_canon h
  · exact execEngineFlipBack_canon h
  · exact execArrayLdsRun_canon h
  · exact execArraySwpRun_canon h
  · exact execArrayMmaRun_canon h
  · exact execGangRendezvous_canon h
  · exact execEngineEccError_canon h
  · exact execTrapDeliver_canon h
  · exact execAbortPortWrite_canon h
  · exact execAbortNotice_canon h
  · exact execAbortComplete_canon h
  · exact execCounterOverflow_canon h
  · exact execContextBlockWrite_canon h
  · exact execClockStepDown_canon h
  · exact execClockStepUp_canon h
  · exact execThermalStop_canon h
  · exact execSensorDisagree_canon h
  · exact execModuleFatal_canon h
  · exact execPartitionCut_canon h
  · exact execPartitionSet_canon h
  · exact execPartitionGrow_canon h
  · exact execPartitionShrink_canon h
  · exact execPartitionCompact_canon h
  · exact execPartitionReset_canon h
  · exact execMigrate_canon h
  · exact execMigrationKeyTransfer_canon h
  · exact execMigrationRunConfirm_canon h
  · exact execPeerAccessRemote_canon h
  · exact execTileRetire_canon h
  · exact execRepair_canon h
  · exact execOwnerWeightSet_canon h
  · exact execOwnerRelease_canon h
  · exact execQueuePrivilegedWrite_canon h
  · exact execLinkFlitSend_canon h
  · exact execJarletLinkTrain_canon h
  · exact execJarletFlitReceive_canon h
  · exact execJarletKeyUpdate_canon h
  · exact execRouterPacketReceive_canon h
  · exact execDropResponse_canon h
  · exact execDropRecordPost_canon h
  · exact execSharedStructureError_canon h
  · exact execTimeBeacon_canon h
  · exact execEnergyAttribution_canon h
  · exact execChallenge_canon h
  · exact execMeasurements_canon h
  · exact execKeyExchange_canon h
  · exact execSecuredMessageFail_canon h
  · exact execLockInterface_canon h
  · exact execStartInterface_canon h
  · exact execStopInterface_canon h
  · exact execGetDeviceInterfaceReport_canon h
  · exact execKeySet_canon h
  · exact execKeyErase_canon h
  · exact execKeyQuery_canon h
  · exact execKeyEscrow_canon h
  · exact execKeyImport_canon h
  · exact execIdeKm_canon h
  · exact execIdeIntegrityFail_canon h
  · exact execLockedItemWrite_canon h
  · exact execLockedRangeRead_canon h
  · exact execFunctionLevelReset_canon h
  · exact execAtsInvalidation_canon h
  · exact execRegisterWrite_canon h
  · exact execInstructionComplete_canon h
  · exact execPartitionPause_canon h
  · exact execPartitionResume_canon h
  · exact execPeerWindowMap_canon h
  · exact execQuiesceStepOverrun_canon h
  · exact execAtsPriResponse_canon h
  · exact execHostErrorCompletion_canon h
  · exact execEndSession_canon h
  · exact execJarletKeyAgreement_canon h
  · exact execMigrationReceiptAck_canon h
  · exact execMigrationApproval_canon h
  · exact execInterruptModerationExpire_canon h
  · exact execBinTimerExpire_canon h
  · exact execPreemptionTimeout_canon h
  · exact execRecallStepOverrun_canon h
  · exact execFewaitTimeout_canon h
  · exact execGangTimeout_canon h
  · exact execSpawnWaitTimeout_canon h
  · exact execClockStepDeferred_canon h
  · exact execClockHaltResume_canon h
  · exact execMigrationConfirmTimeout_canon h
  · exact execPeerForwardExpire_canon h
  · exact execTimeBeaconMissing_canon h
  · exact execAtsDrainTimeout_canon h
  · exact execWtimeCounterMismatch_canon h
  · exact execHostFlushCompletion_canon h
  · exact execJarletPortDown_canon h
  · exact execForcedRecall_canon h
  · exact execPlaneRelease_canon h
  · exact execTableRewrite_canon h
  · exact execRestoreListLoad_canon h
  · exact execSliceBoundary_canon h
  · exact execBackwardBranchHandoff_canon h
  · exact execPoolSegmentExchange_canon h
  · exact execAccuracyTick_canon h
  · exact execModuleReset_canon h
  · exact execPowerLoss_canon h
  · exact execSlotTableBoundary_canon h
  · exact execScrubPass_canon h
  · exact execLifetimeFold_canon h

/-! ## Issue of a tile -/

theorem State.Canon.fetchTrap {two : Bool} {lvl ppa : Nat} (h : s.Canon) : (s.fetchTrap two lvl ppa).Canon :=
  .trapAll (.ite h h)

theorem State.Canon.fetchMiss {pc : Nat} (h : s.Canon) : (s.fetchMiss pc).Canon := .hold (.startWalk h)

theorem State.Canon.afterIssue {r : State} {c : Ctl} {i : Instr} (h : r.Canon) : (State.afterIssue r s c i).Canon :=
  .ite (.count (.count (.ite h h))) (.ite h h)

theorem State.Canon.illegal {e : Ill} (h : s.Canon) : (s.illegal e).Canon := .trapAll h

/-- An attempt to issue ends in canonical memories, whether it issues or passes the turn on. -/
def Try.Canon : Try → Prop
  | .used r => Res.Canon r
  | .pass s => s.Canon

theorem Try.Canon.used {r : Res} (h : Res.Canon r) : Try.Canon (.used r) := h

theorem Try.Canon.pass (h : s.Canon) : Try.Canon (.pass s) := h

theorem Try.Canon.ite {c : Prop} [Decidable c] {a b : Try} (ha : a.Canon) (hb : b.Canon) :
    (if c then a else b).Canon := by
  split <;> assumption

theorem Try.Canon.land (h : s.Canon) : s.land.Canon := by
  unfold State.land
  lift_lets
  intro t g pc
  refine .ite (.used (.next (.trapAll h))) ?_
  split
  · exact .pass (.fetchMiss h)
  · exact .used (.next (.fetchTrap h))
  lift_lets
  intro u G lanes
  have hu : u.Canon := h
  refine .ite (.used (.next (.trapAll hu))) (.ite (.pass (.modG hu)) ?_)
  split
  · exact .used (.next (.trapAll hu))
  · exact .ite (.used (.next (.trapAll hu))) (.ite (.pass hu) (.ite (.used (execGroupPark_canon hu))
      (.pass (.modG hu))))

theorem Try.Canon.perform {c : Ctl} {i : Instr} (h : s.Canon) : (s.perform c i).Canon := by
  have hi : Res.Canon (exec i s) := exec_canon h
  unfold State.perform
  split
  · next r hr =>
    rw [hr] at hi
    split
    · split
      · exact .used (.next (.trapLane h))
      · exact .used (.next (.afterIssue hi))
    · exact .ite (.pass hi) (.used hi)
  · exact hi

theorem Try.Canon.runWord {w : W64} (h : s.Canon) : (s.runWord w).Canon := by
  unfold State.runWord
  lift_lets
  intro c u L
  have hu : u.Canon := h
  refine .ite (.used (.next (.trapAll hu))) ?_
  split
  · exact .used (.next (.illegal hu))
  split
  · exact .pass hu
  refine .ite (.used (.next (.trapAll hu))) (.ite (.pass hu) (.ite ?_ (.perform hu)))
  split
  · exact .used (.next (.raise hu))
  · exact .perform hu

theorem Try.Canon.runAt (h : s.Canon) : s.runAt.Canon := by
  unfold State.runAt
  split
  · exact .pass (.fetchMiss h)
  · exact .used (.next (.fetchTrap h))
  · exact .runWord h

theorem Try.Canon.trySubset {t g : Nat} {m : BitVec 32} (h : s.Canon) : (s.trySubset t g m).Canon := by
  unfold State.trySubset
  lift_lets
  intro l L u
  have hu : u.Canon := h
  have hl : u.land.Canon := .land hu
  refine .ite (.runAt hu) ?_
  split
  · next hr =>
    rw [hr] at hl
    exact hl
  · next r hr =>
    rw [hr] at hl
    refine .ite hl (.runAt ?_)
    exact hl

theorem Try.Canon.trySubsets {t g : Nat} {ms : List (BitVec 32)} (h : s.Canon) : (State.trySubsets t g ms s).Canon := by
  induction ms generalizing s with
  | nil => exact h
  | cons m ms ih =>
    have hm : (s.trySubset t g m).Canon := .trySubset h
    unfold State.trySubsets
    split
    · next hr =>
      rw [hr] at hm
      exact hm
    · next hr =>
      rw [hr] at hm
      exact ih hm

theorem Res.Canon.tryGroups {l : List (Nat × Nat)} (h : s.Canon) : Res.Canon (State.tryGroups l s) := by
  induction l generalizing s with
  | nil => exact h
  | cons x l ih =>
    refine .ite ?_ (ih h)
    have hx : (s.tryGroup x.1 x.2).Canon := .trySubsets (.modGroup h)
    split
    · next hr =>
      rw [hr] at hx
      exact hx
    · next hr =>
      rw [hr] at hx
      exact ih hx

theorem Res.Canon.planesFirst {r : Res} (h : s.Canon) (hr : r.Canon) : (s.planesFirst r).Canon := by
  unfold State.planesFirst
  dsimp only
  split
  · exact hr
  · split
    · exact .ite (.tryGroups h) hr
    · exact hr

theorem Res.Canon.issueTurn {p : Option (Nat × Nat)} (h : s.Canon) :
    (s.issueTurn p).Canon := .planesFirst h (.tryGroups h)

theorem State.Canon.countIdle {units : Nat} (h : s.Canon) : (s.countIdle units).Canon :=
  .foldl h (fun _ _ h => .ite h (.foldl h (fun _ _ h => h)))

theorem Res.Canon.event {tile slot : Nat} {i : Instr} (h : s.Canon) : Res.Canon (s.event tile slot i) :=
  .ite (.next h) (exec_canon h)

theorem State.Canon.upset {u : Nat × Nat × Nat} (h : s.Canon) : (s.upset u).Canon :=
  .ite (.ite h h) (.ite h (.ite h (.ite h h)))

theorem State.Canon.lasting {f cls : Nat} {u : RepairUnit} (h : s.Canon) : (s.lasting f cls u).Canon := h

theorem State.Canon.classFault {x : Finding} (h : s.Canon) : (s.classFault x).Canon := by
  unfold State.classFault
  split
  · exact .ite (.lasting (.modKs (.tally h))) (.modKs (.tally h))
  · exact .ite (.lasting (.modKs (.tally (.tally h)))) (.modKs (.tally (.tally h)))
  · exact .ite (.lasting h) (.tally h)

theorem State.Canon.environment {x : Input} (h : s.Canon) : (s.environment x).Canon := by
  have h1 : ((s.countIdle x.units).elapse x.units).drawn.Canon := .drawn (.elapse (.countIdle h))
  have hhost : ∀ (l : List Host.Cell) (m : List Host.Cell), Memory.wf m = true →
      Memory.wf (l.foldl (fun m b => Memory.set m b.1 b.2) m) = true := by
    intro l
    induction l with
    | nil => exact fun m hm => hm
    | cons b l ih => exact fun m hm => ih _ (Memory.wf_set _ _ _ hm)
  exact .foldl (.foldl ⟨h1.1, hhost _ _ h1.2⟩ fun _ _ h => .upset h) fun _ _ h => .classFault h

theorem Res.Canon.turnOf {x : Input} (h : s.Canon) : Res.Canon (s.turnOf x) := by
  unfold State.turnOf
  dsimp only
  split
  · exact .ite (.event (.environment h)) (.next (.environment h))
  · exact .ite (.issueTurn (.environment h)) (.next (.environment h))

theorem Res.Canon.ownTurn (h : s.Canon) : Res.Canon (s.ownTurn) := by
  unfold State.ownTurn
  split
  · exact .ite (.event h) (.turnOf h)
  · exact .turnOf h

/-! ## Every step -/

theorem step_canon (h : s.Canon) : Res.Canon (Machine.step s) := by
  unfold Machine.step
  split
  · exact .turnOf h
  · exact .ownTurn h

/-- Settles O59: every function that a step calls keeps both memories in canonical form, for each write goes through
`Memory.write`, `Memory.putBytes`, `Memory.set` or a filter. -/
theorem stepsKeepCanonical : Obligations.StepsKeepCanonical := by
  intro s t hm hh hst
  have h : Res.Canon (Machine.step s) := step_canon ⟨hm, hh⟩
  rw [hst] at h
  exact h

end Sys2Proof.Machine
end

section
/-! PROOFS. Fences and barriers at issue: a subset that passes, one that waits where it stands and one that waits at the next
word. -/

namespace Sys2Proof.Machine
open Sys2Proof.Claims

/-! ## Subsets that wait -/

theorem Steady.trans {s t u : State} (h : Steady s t) (k : Steady t u) : Steady s u := by
  obtain ⟨⟨h1, h2, h3, h4, h5, h6⟩, h7, h8⟩ := h
  obtain ⟨⟨k1, k2, k3, k4, k5, k6⟩, k7, k8⟩ := k
  exact ⟨⟨k1.trans h1, k2.trans h2, k3.trans h3, k4.trans h4, k5.trans h5, k6.trans h6⟩, k7.trans h7, k8.trans h8⟩

theorem DueGrows.steady {s t : State} (h : DueGrows s t) : Steady s t :=
  h.counted.unseen.steady h.counted.mem h.counted.host

theorem HeldBack.waits {s t : State} {w : Wait} (h : HeldBack s t w) : Waits s t w :=
  ⟨h.1, h.2.1, fun l hl hb => ⟨(h.2.2 l hl).2 hb, (h.2.2 l hl).1⟩⟩

theorem Waits.grows {s t u : State} {w : Wait} (h : Waits s t w) (k : DueGrows t u) : Waits s u w :=
  ⟨h.1.trans k.counted.unseen.regs, h.2.1.trans k.steady, by rw [k.counted.G]; exact h.2.2⟩

theorem WaitsAfter.grows {s t u : State} {w : Wait} (h : WaitsAfter s t w) (k : DueGrows t u) : WaitsAfter s u w :=
  ⟨h.1.trans k.counted.unseen.regs, h.2.1.trans k.steady, by rw [k.counted.G]; exact h.2.2⟩

/-- A subset that has passed and is held then waits at the next word. -/
theorem waitsAfter_of_passed {s u : State} (hc : u.cur = s.cur) (hl : LanesStepped s u) (hr : SameRegs s u) (hs : Steady s u)
    (w : Wait) : WaitsAfter s (u.hold w) w := by
  obtain ⟨kr, ks, kl⟩ := (Unseen.refl u).holds rfl rfl w
  refine ⟨hr.trans kr, hs.trans ks, fun l hl32 hb => ⟨(kl l hl32).2 (by rwa [hc]), ?_⟩⟩
  rw [(kl l hl32).1, hl l hl32, if_pos hb]

/-! ## The record of an instruction that waits -/

theorem State.waitOut_recorded (s : State) (c : Ctl) : Recorded s (s.waitOut c) := by
  unfold State.waitOut
  split
  · exact .refl s
  · exact s.issueOut_recorded _

theorem State.issueOut_teamData (s : State) (o : OutInst) : (s.issueOut o).teamData = s.teamData := by
  have ho : OnlyGroup s (s.issueOut o) := onlyGroup_iff.2 ⟨s.G.record o, s.due, s.nextId + 1, rfl⟩
  have hg : (s.issueOut o).G.team = s.G.team := by rw [(s.issueOut_recorded o).group]
  rw [State.teamData, State.teamData, State.curTeam, State.curTeam, ho.team, hg]

theorem State.waitOut_unseen (s : State) (c : Ctl) : Unseen s (s.waitOut c) := by
  refine (s.waitOut_recorded c).unseen ?_
  unfold State.waitOut
  split
  · rfl
  · exact s.issueOut_teamData _

/-- What a group reads after it has passed that has changed in its records alone. -/
theorem Recorded.next_steady {s u : State} (h : Recorded s u) (hd : u.teamData = s.teamData) : IssuedOnly s u.next := by
  obtain ⟨hi, hgang, -, -, hteam⟩ := h.next_issued
  have ⟨_, _, hf, hm, hh, hx, hxs⟩ := hi
  refine ⟨hi, ⟨hm, hh, hgang, hx, hxs, ?_⟩, hf⟩
  have hg : u.next.G.team = u.G.team := by rw [State.next, State.modG_G, Group.advance_frame]
  rw [← hd, State.teamData, State.teamData, State.curTeam, State.curTeam, hteam, hg]

/-! ## Fences (R115, R249) -/

theorem lanesOf_ne_nil {s : State} {c : Ctl} (h : s.active c ≠ []) : ∃ l ls, lanesOf s.cur.sub = l :: ls := by
  cases hl : lanesOf s.cur.sub with
  | nil => exact absurd (by rw [State.active, hl]; rfl) h
  | cons l ls => exact ⟨l, ls, rfl⟩

theorem State.flushFor_grows (s : State) (t : Nat) (sc : Scope) : DueGrows s (s.flushFor t sc) := by
  unfold State.flushFor
  split
  · exact s.againAt_grows _ _ _
  · exact .refl s

/-- A subset with a lane begins its fence: it is held, and its completion is due. -/
theorem State.startFence_grows {s : State} {l : Nat} {ls : List Nat} (h : lanesOf s.cur.sub = l :: ls) (k : FenceKind) (sc : Scope)
    (upto : Nat) (rpt : Bool) : DueGrows (s.hold (.fence k sc upto rpt)) (s.startFence s.cur.sub k sc upto rpt) := by
  unfold State.startFence
  rw [h]
  exact (State.push_grows _ [.fenceWaitEnd s.cur.tile s.cur.slot l]).trans (State.flushFor_grows _ _ _)

theorem State.fence_passes {s : State} {c : Ctl} {k : FenceKind} {sc : Scope}
    (h : s.fenceOk s.cur.tile s.cur.slot k sc s.cur.sub s.nextId = true ∨ s.active c = []) : s.fence c k sc = s.passed0 c :=
  if_pos (by simpa [or_comm] using h)

theorem State.fence_waits {s : State} {c : Ctl} {k : FenceKind} {sc : Scope}
    (h : s.fenceOk s.cur.tile s.cur.slot k sc s.cur.sub s.nextId = false) (ha : s.active c ≠ []) :
    WaitsAfter s (s.fence c k sc) (.fence k sc s.nextId false) := by
  obtain ⟨l, ls, hl⟩ := lanesOf_ne_nil ha
  have hu := s.waitOut_unseen c
  have hcur : (s.waitOut c).next.cur = s.cur := hu.cur
  obtain ⟨⟨hstep, hregs, -⟩, hst⟩ := (s.waitOut_recorded c).next_steady hu.team
  have hw := waitsAfter_of_passed hcur hstep hregs hst (.fence k sc s.nextId false)
  have hg := State.startFence_grows (s := (s.waitOut c).next) (by rw [hcur]; exact hl) k sc s.nextId false
  rw [hcur] at hg
  unfold State.fence
  rw [if_neg (by simp [h, ha])]
  exact WaitsAfter.grows hw hg

/-- What a fence of any kind does (R115). -/
theorem State.fence_settles (s : State) (c : Ctl) (k : FenceKind) (sc : Scope) :
    (s.fenceOk s.cur.tile s.cur.slot k sc s.cur.sub s.nextId = true ∨ s.active c = [] →
      Passed s (s.fence c k sc) ∧ SameRegs s (s.fence c k sc) ∧ FlagsKept s (s.fence c k sc)) ∧
    (s.fenceOk s.cur.tile s.cur.slot k sc s.cur.sub s.nextId = false → s.active c ≠ [] →
      WaitsAfter s (s.fence c k sc) (.fence k sc s.nextId false)) := by
  refine ⟨fun h => ?_, fun h ha => s.fence_waits h ha⟩
  obtain ⟨hp, hf, hr⟩ := s.passed0_passes c
  rw [State.fence_passes h]
  exact ⟨hp, hr, hf⟩

theorem exec_fences {f : (Ctl → Scope → Instr) × FenceKind} (hf : f ∈ fences) (c : Ctl) (sc : Scope) (s : State) :
    exec (f.1 c sc) s = .next (s.fence c f.2 sc) := by
  simp only [fences, List.mem_cons, List.not_mem_nil, or_false] at hf
  rcases hf with rfl | rfl | rfl <;> rfl

theorem fencesHold : Fences := by
  intro f hf c sc s
  rw [exec_fences hf]
  obtain ⟨hp, hw⟩ := s.fence_settles c f.2 sc
  exact ⟨fun h => ⟨_, rfl, hp h⟩, fun h ha => ⟨_, rfl, hw h ha⟩⟩

/-! ## Barriers (R250) -/

theorem exec_barriers {f : (Ctl → Instr) × Bool} (hf : f ∈ barriers) (c : Ctl) (s : State) :
    exec (f.1 c) s = .next (s.bar c f.2) := by
  simp only [barriers, List.mem_cons, List.not_mem_nil, or_false] at hf
  rcases hf with rfl | rfl <;> rfl

/-- A barrier whose subset is held, with steps due beside it. -/
theorem State.waitOut_holds (s : State) (c : Ctl) (w : Wait) (l : List Instr) : Waits s (((s.waitOut c).hold w).push l) w :=
  have hw := (s.waitOut_unseen c).holds (s.waitOut_recorded c).mem (s.waitOut_recorded c).host w
  Waits.grows (HeldBack.waits hw) (State.push_grows _ l)

theorem barriersHold : Barriers := by
  intro f hf c s y hy sc cl
  have hcl : (f.2 && !((s.curTeam.map (·.plain)).getD true)) = cl := by rw [hy]; rfl
  rw [exec_barriers hf]
  refine ⟨fun hb hr => ⟨_, rfl, ?_⟩, fun hb hr => ⟨_, rfl, ?_⟩, fun hb => ?_⟩
  · rw [State.bar, if_neg (by simp [hb]), hcl, if_pos hr]
    exact ⟨s.waitOut_holds c _ _, List.mem_append_right _ (List.mem_singleton.2 rfl)⟩
  · rw [State.bar, if_neg (by simp [hb]), hcl, if_neg (by rw [hr]; exact Bool.false_ne_true)]
    exact s.waitOut_holds c _ _
  · rw [State.bar, if_pos hb]
    obtain ⟨hp, hw⟩ := s.fence_settles c .acqRel sc
    exact ⟨fun h => ⟨_, rfl, hp (.inl h)⟩, fun h ha => ⟨_, rfl, hw h ha⟩⟩

/-- Settles O27: both read the same test of the accesses before them, and differ in where the subset is held. -/
theorem fencesBarriers : Obligations.FencesBarriers := ⟨fencesHold, barriersHold⟩

end Sys2Proof.Machine
end

section
/-! PROOFS. Full/empty accesses at issue: the requests that LDF and STE queue, and the words that STF and SETFE write at once. -/

namespace Sys2Proof.Machine
open Sys2Proof.Claims

/-! ## LDF and STE of local words (R124) -/

theorem exec_ldf (x : FeR) (s : State) : exec (.ldf x) s = s.feQueue x .read (fun _ => .spLdf x.take) (some x.d) := rfl
theorem exec_ste (x : FeR) (s : State) : exec (.ste x) s = s.feQueue x .write (fun l => .spSte (s.src l x.d 1)) none := rfl

/-- No lane's words of the own scratchpad hold an uncorrectable error. -/
theorem State.heard_spEcc_eq_none {s : State} {eas : List (Nat × EA)} {n : Nat}
    (h : ∀ y ∈ eas, ∃ o, y.2 = .loc o ∧ s.T.badSp s.G.team o n = false) : s.heard.spEcc eas n = none := by
  refine Option.map_eq_none_iff.2 (List.find?_eq_none.2 fun y hy => ?_)
  obtain ⟨o, ho, hb⟩ := h y hy
  have hbad : s.heard.T.badSp s.heard.G.team o n = s.T.badSp s.G.team o n := by
    rw [Tile.badSp, s.heard_T, (Tile.setGroup_fixed _ _ _).2.2.1, s.heard_G]
    rfl
  rw [ho]
  dsimp only
  rw [hbad, hb]
  exact Bool.false_ne_true

/-- Accesses of local words alone have the scope of their own form (R124). -/
theorem feScope_local {wide : Bool} {eas : List (Nat × EA)} (h : ∀ y ∈ eas, ∃ o, y.2 = .loc o) : feScope wide eas = localFe wide := by
  have hany : (eas.any fun x => match x.2 with
      | .far _ _ _ _ => true
      | _ => false) = false := by
    refine List.any_eq_false.2 fun y hy => ?_
    obtain ⟨o, ho⟩ := h y hy
    rw [ho]
    exact Bool.false_ne_true
  unfold feScope localFe
  refine congrArg (fun b : Bool => if b = true then Scope.cluster else Scope.team) ?_
  exact (congrArg (wide || ·) hany).trans (Bool.or_false _)

/-- The lanes of a full/empty access that are not done. -/
def State.feLanes (s : State) (x : FeR) : List Nat := (s.memLanes x.c [x.d, x.a]).filter fun l => !(s.G.lane l).done

section
variable {x : FeR} {s : State} {kind : AccKind} {off : Nat → Nat}

/-- The request that a lane of a full/empty access queues at its own tile. -/
def State.feReq (s u : State) (x : FeR) (k : ReqKind) (dst : Option Reg) (off l : Nat) : Req :=
  { u.mkReq (accLane [x.d, x.a] l) s.nextId k off 0 4 0 false false dst with
    place := 0xFFFFFFFF, rtile := u.cur.tile, rteam := u.G.team, since := u.wtime, arr := true, ord := u.nextId }

/-- A request joins the queue of its word. -/
def State.fePut (u : State) (r : Req) (word : Nat) : State :=
  ((u.setReq u.nextId r).fresh).push [.feRequestServed u.cur.tile u.G.team word]

/-- One lane's request. -/
def State.feLane (s : State) (x : FeR) (mk : Nat → ReqKind) (dst : Option Reg) (off : Nat → Nat) (u : State) (l : Nat) : State :=
  u.fePut (s.feReq u x (mk l) dst (off l) l) (off l / 4)

/-- The record that such an access enters. -/
def State.feEntry (s : State) (x : FeR) (kind : AccKind) : OutInst :=
  { s.heard.outInst x.c with
    rem := (s.feLanes x).length, dst := if kind = .read then dstCodes ((s.feLanes x).map (accLane [x.d, x.a])) x.d 1 else [] }

/-- The state in which the lanes' requests are queued. -/
def State.feQueued (s : State) (x : FeR) (kind : AccKind) (mk : Nat → ReqKind) (dst : Option Reg) (off : Nat → Nat) : State :=
  ((s.feLanes x).foldl (s.feLane x mk dst off) (s.memBegun (s.feEntry x kind))).tick

/-- A full/empty access of local words queues one request for each lane and holds its subset. -/
theorem State.feQueue_local (hne : s.feLanes x ≠ []) (hsegs : s.T.segs = [])
    (hea : ∀ l ∈ s.feLanes x, s.eaOf x.m kind 4 x.a l = .loc (off l))
    (hecc : kind = .read → ∀ l ∈ s.feLanes x, s.T.badSp s.G.team (off l) 4 = false)
    (hrel : kind = .write → s.relOk s.cur.tile s.cur.slot (localFe x.wide) s.nextId = true) (mk : Nat → ReqKind) (dst : Option Reg) :
    let u := s.feQueued x kind mk dst off
    s.feQueue x kind mk dst = .next ((u.hold (.fe s.nextId)).pushAt u.cur.tile u.cur.slot .fewaitTimeout) := by
  intro u
  unfold State.feQueue
  extract_lets regs ls eas
  have hloc : ∀ y ∈ eas, ∃ l ∈ s.feLanes x, y.2 = .loc (off l) := by
    intro y hy
    obtain ⟨l, hl, rfl⟩ := List.mem_map.1 hy
    exact ⟨l, hl, hea l hl⟩
  have hgood : ∀ y ∈ eas, y.2.Good s := by
    intro y hy
    obtain ⟨l, -, h⟩ := hloc y hy
    rw [h]
    exact hsegs
  have hnoecc : (if kind = .read then s.heard.spEcc eas 4 else none) = none := by
    split
    · next hk =>
      refine State.heard_spEcc_eq_none fun y hy => ?_
      obtain ⟨l, hl, h⟩ := hloc y hy
      exact ⟨off l, h, hecc hk l hl⟩
    · rfl
  have hfold (one : State → Nat × EA → State) (h : ∀ v l, one v (l, .loc (off l)) = s.feLane x mk dst off v l) (v : State) :
      eas.foldl one v = (s.feLanes x).foldl (s.feLane x mk dst off) v := by
    refine List.foldl_map.trans (List.foldl_ext _ _ _ fun v l hl => ?_)
    rw [hea l hl, h]
  have hlen : eas.length = (s.feLanes x).length := List.length_map _
  refine (State.withAddrs_of_good hgood [x.d, x.a] kind _).trans ?_
  rw [hnoecc]
  refine congrArg Host.Outcome.next ((State.withRelease_of_ok _ ?_).trans ?_)
  · intro sc hsc
    split at hsc
    · next hk =>
      rw [← Option.some.inj hsc, feScope_local fun y hy => ?_]
      · exact (s.heard_relOk _ _).trans (hrel hk)
      · obtain ⟨l, -, h⟩ := hloc y hy
        exact ⟨off l, h⟩
    · cases hsc
  · extract_lets iid src s0 one s1
    have hs0 : s0 = s.memBegun (s.feEntry x kind) := by
      refine congrArg (fun n => s.heard.issueOut { s.feEntry x kind with rem := n }) hlen
    have hs1 : s1 = u := congrArg State.tick ((hfold one (fun _ _ => rfl) s0).trans (by rw [hs0]))
    refine (if_neg fun h => hne (List.map_eq_nil_iff.1 h)).trans ?_
    rw [hs1]
    rfl

/-- Each such request is in flight, and the group sees no difference. -/
theorem State.feLane_sends (s u : State) (x : FeR) (mk : Nat → ReqKind) (dst : Option Reg) (off : Nat → Nat) (l : Nat) :
    Sends u (s.feLane x mk dst off u l) (accLane [x.d, x.a] l) s.nextId (off l) 0 4 (mk l) := by
  set r := s.feReq u x (mk l) dst (off l) l with hr
  have hreq (id : Nat) : (s.feLane x mk dst off u l).req id = if id = u.nextId then some r else u.req id := u.req_setReq _ _ _
  refine ⟨.of_tiles rfl rfl rfl rfl rfl, rfl, ?_, fun ⟨id, hid, q, hq, h⟩ => ?_, r, rfl, rfl⟩
  · exact ⟨u.nextId, Nat.lt_succ_self _, r, by rw [hreq, if_pos rfl], rfl, rfl, rfl, rfl, rfl, rfl, rfl⟩
  · exact ⟨id, Nat.lt_succ_of_lt hid, q, by rw [hreq, if_neg (Nat.ne_of_lt hid), hq], h⟩

/-- What such an access leaves: its subset waits where it stands, and one request of each lane is in flight. -/
theorem State.feQueue_waits (hne : s.feLanes x ≠ []) (hsegs : s.T.segs = [])
    (hea : ∀ l ∈ s.feLanes x, s.eaOf x.m kind 4 x.a l = .loc (off l))
    (hecc : kind = .read → ∀ l ∈ s.feLanes x, s.T.badSp s.G.team (off l) 4 = false)
    (hrel : kind = .write → s.relOk s.cur.tile s.cur.slot (localFe x.wide) s.nextId = true) (mk : Nat → ReqKind) (dst : Option Reg) :
    ∃ t, s.feQueue x kind mk dst = .next t ∧ Waits s t (.fe s.nextId) ∧
      ∀ l ∈ s.feLanes x, InFlight t (accLane [x.d, x.a] l) s.nextId (off l) 0 4 (mk l) := by
  obtain ⟨-, hview, -, hlisted, -⟩ := foldl_sends (st := id) (P := fun _ => True) (f := s.feLane x mk dst off) (ls := s.feLanes x)
    (fun u l _ _ => ⟨trivial, s.feLane_sends u x mk dst off l⟩) (a := s.memBegun (s.feEntry x kind)) trivial
  obtain ⟨hrec, -, hreqs, hdata, -⟩ := State.tick_leaves ((s.feLanes x).foldl (s.feLane x mk dst off) (s.memBegun (s.feEntry x kind)))
  refine ⟨_, State.feQueue_local hne hsegs hea hecc hrel mk dst, ?_⟩
  have hu : Recorded s (s.feQueued x kind mk dst off) := ((s.memBegun_recorded _).trans hview.recorded).trans hrec
  have hd : (s.feQueued x kind mk dst off).teamData = s.teamData := hdata.trans (hview.teamData.trans (s.memBegun_fixed _).2.2.2)
  have hlist (l : Nat) (hl : l ∈ s.feLanes x) :
      InFlight (s.feQueued x kind mk dst off) (accLane [x.d, x.a] l) s.nextId (off l) 0 4 (mk l) := (hlisted l hl).inFlight hreqs
  generalize s.feQueued x kind mk dst off = u at hu hd hlist
  have hh : HeldBack s (u.hold (.fe s.nextId)) (.fe s.nextId) := (hu.unseen hd).holds hu.mem hu.host _
  exact ⟨Waits.grows (HeldBack.waits hh) (State.pushAt_grows _ _ _ _), hlist⟩

end

/-! ## STF and SETFE of local words (R242) -/

/-- One lane's word is written at once, and the requests that wait for it are served next. -/
def feSet (loc : Nat → Nat → Team → Team) (off : Nat → Nat) (a : Acc) (l : Nat) : Acc :=
  let u := a.s.modTile a.s.cur.tile fun T => T.modTeam a.s.G.team (loc l (off l))
  { a with s := u.push [.feRequestServed u.cur.tile u.G.team (off l / 4)] }

/-- The lanes' writes one after the other. -/
theorem foldl_feSet {loc : Nat → Nat → Team → Team} {off : Nat → Nat} (hloc : ∀ l o y, (loc l o y).id = y.id) {ls : List Nat}
    {a : Acc} {y : Team} (hy : a.s.curTeam = some y) (hid : y.id = a.s.G.team) :
    ∃ v, ls.foldl (feSet loc off) a = { a with s := v } ∧ Recorded a.s v ∧ v.G = a.s.G ∧
      v.curTeam = some (ls.foldl (fun y l => loc l (off l) y) y) := by
  induction ls generalizing a y with
  | nil => exact ⟨a.s, rfl, .refl _, rfl, hy⟩
  | cons l ls ih =>
    set z := loc l (off l) y with hz
    have hzid : z.id = a.s.G.team := (hloc _ _ _).trans hid
    obtain ⟨hr, hG, hteam⟩ := State.putTeam_leaves hzid
    set p := a.s.putTeam a.s.cur.tile z with hp
    set u := p.push [.feRequestServed p.cur.tile p.G.team (off l / 4)] with hu
    have hl : feSet loc off a l = { a with s := u } := by
      have hT : (a.s.tile a.s.cur.tile).team a.s.G.team = some y := hy
      have hmod : (a.s.modTile a.s.cur.tile fun T => T.modTeam a.s.G.team (loc l (off l))) = p := by
        rw [State.modTile, Tile.modTeam_of_team hT]
        rfl
      rw [feSet, hmod]
    obtain ⟨v, hv, hrv, hGv, hvteam⟩ := ih (a := { a with s := u }) (y := z) hteam (hzid.trans (congrArg Group.team hG.symm))
    exact ⟨v, by rw [List.foldl_cons, hl, hv], (hr.trans (p.push_sameView _).recorded).trans hrv, hGv.trans hG, hvteam⟩

section
variable {s : State} {c : Ctl} {regs : List Reg} {m : MSp} {a : Reg} {off : Nat → Nat} {rel : Option Bool}

/-- The lanes' words are local, and a release before them has been performed. -/
theorem State.feWrite_local (hsegs : s.T.segs = []) (hea : ∀ l ∈ s.memLanes c regs, s.eaOf m .write 4 a l = .loc (off l))
    (hrel : ∀ w, rel = some w → s.relOk s.cur.tile s.cur.slot (localFe w) s.nextId = true)
    (loc : Nat → Nat → Team → Team) (mk : Nat → ReqKind) :
    s.feWrite c regs m a rel loc mk = .next (s.heard.memEnd s.nextId
      ((s.memLanes c regs).foldl (feSet loc off) { s := s.memBegun { s.heard.outInst c with rem := 1 } }) [] false) := by
  unfold State.feWrite
  extract_lets ls eas
  have hloc : ∀ y ∈ eas, ∃ o, y.2 = .loc o := by
    intro y hy
    obtain ⟨l, hl, rfl⟩ := List.mem_map.1 hy
    exact ⟨off l, hea l hl⟩
  have hgood : ∀ y ∈ eas, y.2.Good s := by
    intro y hy
    obtain ⟨o, h⟩ := hloc y hy
    rw [h]
    exact hsegs
  refine (State.withAddrs_of_good hgood regs .write _).trans (congrArg Host.Outcome.next ((State.withRelease_of_ok _ ?_).trans ?_))
  · intro sc hsc
    obtain ⟨w, hw, rfl⟩ := Option.map_eq_some_iff.1 hsc
    rw [feScope_local hloc]
    exact (s.heard_relOk _ _).trans (hrel w hw)
  · refine congrArg (fun a => s.heard.memEnd s.nextId a [] false) (List.foldl_map.trans (List.foldl_ext _ _ _ fun v l hl => ?_))
    rw [hea l hl]
    rfl

/-- What such an access leaves: its subset has passed, and the team holds every lane's write. -/
theorem State.feWrite_ends {y : Team} (hy : s.curTeam = some y) (hid : y.id = s.G.team) (hsegs : s.T.segs = [])
    (hea : ∀ l ∈ s.memLanes c regs, s.eaOf m .write 4 a l = .loc (off l))
    (hrel : ∀ w, rel = some w → s.relOk s.cur.tile s.cur.slot (localFe w) s.nextId = true)
    {loc : Nat → Nat → Team → Team} (hloc : ∀ l o y, (loc l o y).id = y.id) (mk : Nat → ReqKind) :
    ∃ t k i, s.feWrite c regs m a rel loc mk = .next t ∧ Issued s t ∧ t.G.gang = s.G.gang ∧
      t.curTeam = some (((s.memLanes c regs).foldl (fun y l => loc l (off l) y) y).timed k i) := by
  set o : OutInst := { s.heard.outInst c with rem := 1 }
  obtain ⟨v, hv, hrv, hGv, hvteam⟩ := foldl_feSet hloc (off := off) (ls := s.memLanes c regs) (a := { s := s.memBegun o })
    ((s.memBegun_curTeam o).trans hy) (hid.trans (by rw [(s.memBegun_recorded o).group]))
  have hends := State.memEnd_ends (s := s) (o := o) (a := { s := v }) rfl hrv (by rw [hGv]) []
  obtain ⟨k, i, hteam⟩ := hends.team _ hvteam
  refine ⟨_, k, i, State.feWrite_local hsegs hea hrel loc mk, ?_⟩
  rw [hv]
  exact ⟨hends.issued, hends.gang, hteam⟩

end

/-! ## Words of a team -/

theorem Team.mem_full_setFull (x : Team) (w : Nat) (f : Bool) (v : Nat) :
    v ∈ (x.setFull w f).full ↔ if v = w then f = true else v ∈ x.full := by
  split
  · next h => rw [h, ← List.contains_iff_mem, Team.contains_setFull]
  · next h =>
    unfold Team.setFull
    cases f with
    | false => simp [h]
    | true =>
      dsimp only
      rw [if_pos rfl]
      split
      · rfl
      · simp [h]

/-- A team after one state has been given to the words of a list. -/
theorem Team.foldl_setFull (x : Team) (off : Nat → Nat) (f : Bool) (ls : List Nat) :
    let z := ls.foldl (fun y l => y.setFull (off l / 4) f) x
    z = { x with full := z.full } ∧ ∀ v, v ∈ z.full ↔ if ∃ l ∈ ls, v = off l / 4 then f = true else v ∈ x.full := by
  induction ls generalizing x with
  | nil => exact ⟨rfl, fun v => by simp⟩
  | cons l ls ih =>
    obtain ⟨hz, hm⟩ := ih (x.setFull (off l / 4) f)
    refine ⟨hz, fun v => (hm v).trans ?_⟩
    rw [Team.mem_full_setFull]
    by_cases h1 : ∃ l ∈ ls, v = off l / 4 <;> by_cases h2 : v = off l / 4 <;> simp [h1, h2]

theorem fullEmptyHolds : FullEmpty := by
  refine ⟨?_, ?_, ?_⟩
  · intro x s off ls hne hsegs
    refine ⟨fun hea => ?_, fun hea hrel => ?_⟩
    · rw [exec_ldf]
      exact State.feQueue_waits (kind := .read) hne hsegs (fun l hl => (hea l hl).1) (fun _ l hl => (hea l hl).2) nofun _ _
    · rw [exec_ste]
      exact State.feQueue_waits (kind := .write) hne hsegs hea nofun (fun _ => hrel) _ _
  · intro x s y l off hy hid hsegs hls hea hoff hv hrel
    obtain ⟨t, k, i, hrun, hissued, hgang, hteam⟩ := State.feWrite_ends (off := fun _ => off) hy hid hsegs
      (by rw [hls]; intro m hm; rw [List.mem_singleton.1 hm]; exact hea) (rel := some x.wide)
      (fun w hw => by rw [← Option.some.inj hw]; exact hrel)
      (loc := fun l off y => (y.spWrite off 4 (s.src l x.d 1)).setFull (off / 4) true) (fun _ _ _ => by simp)
      fun l => .spStf (s.src l x.d 1)
    rw [hls] at hteam
    set w := y.spWrite off 4 (s.src l x.d 1) with hw
    have hframe : w = { y with sp := w.sp } := y.spWrite_frame _ _ _
    have hfull (v : Nat) := w.mem_full_setFull (off / 4) true v
    have hget (a : Nat) : ((w.setFull (off / 4) true).timed k i).spGet a = w.spGet a := rfl
    refine ⟨t, (w.setFull (off / 4) true).timed k i, hrun, hissued, hteam, ?_, hgang, (hfull _).2 (by simp), ?_, fun v hv => ?_,
      fun a ha => ?_⟩
    · exact (by rw [hframe] : w.acc = y.acc)
    · rw [Team.spRead_congr hget, Team.spRead_spWrite]
      exact Nat.mod_eq_of_lt hv
    · refine (hfull v).trans ?_
      rw [if_neg hv, hframe]
    · rw [hget, Team.spGet_spWrite_outside _ _ ha]
  · intro x s y off hy hid hsegs hea
    obtain ⟨t, k, i, hrun, hissued, hgang, hteam⟩ := State.feWrite_ends hy hid hsegs hea (rel := none) nofun
      (loc := fun _ off y => y.setFull (off / 4) x.full) (fun _ _ _ => rfl) fun _ => .spSet x.full
    obtain ⟨hz, hm⟩ := y.foldl_setFull off x.full (s.memLanes x.c [x.a])
    set z := (s.memLanes x.c [x.a]).foldl (fun y l => y.setFull (off l / 4) x.full) y
    refine ⟨t, z.timed k i, hrun, hissued, hteam, (by rw [hz] : z.acc = y.acc), hgang, fun l hl => ?_, fun w hw => ?_, fun a => ?_⟩
    · exact (hm _).trans (by rw [if_pos ⟨l, hl, rfl⟩])
    · exact (hm w).trans (by rw [if_neg (by simpa using hw)])
    · exact (by rw [hz]; rfl : z.spGet a = y.spGet a)

/-- Settles O25: a local access that waits queues requests, one that writes changes its words in the team. -/
theorem fullEmptyAccess : Obligations.FullEmptyAccess := fullEmptyHolds

end Sys2Proof.Machine
end

section
/-! PROOFS. Atomics and gathers at issue: the words that a local ATOM or RED leaves in the team, the requests of global ones, and the
acquire that may hold the subset after them. -/

namespace Sys2Proof.Machine
open Sys2Proof.Claims

theorem exec_atom (x : AtomR) (s : State) : exec (.atom x) s = execAtom x s := rfl
theorem exec_red (x : RedR) (s : State) : exec (.red x) s = execRed x s := rfl
theorem exec_gth (x : GthR) (s : State) : exec (.gth x) s = execGth x s := rfl

/-! ## The new value of an atomic (Table 10.4) -/

theorem atApply_value (op : AtOp) (old b d : Nat) : (atApply op old b d).1 = atomNew op old b d := by
  cases op with
  | add t =>
    show wrap (tyBits t) ((old + b : Nat) : Int) = (old + b) % 2 ^ tyBits t
    have hpow : (2 : Int) ^ tyBits t = ((2 ^ tyBits t : Nat) : Int) := by push_cast; rfl
    rw [wrap, hpow, ← Int.natCast_mod, Int.toNat_natCast]
  | fadd t => cases t <;> rfl
  | _ => rfl

/-- Where an atomic does not write, the word keeps its value. -/
theorem atomNew_of_not_written {op : AtOp} {old b d : Nat} (h : (atApply op old b d).2.1 = false) : atomNew op old b d = old := by
  cases op with
  | cas t => exact if_neg (of_decide_eq_false h)
  | fadd t => cases t <;> cases h
  | _ => cases h

theorem State.heard_regs (s : State) (l : Nat) (r : Reg) (n : Nat) (h : ∀ x, r ≠ .c x) : s.heard.regs l r.code n = s.regs l r.code n := by
  have := s.heard_src l r n
  cases r with
  | c x => exact absurd rfl (h x)
  | _ => exact this

theorem State.heard_srcAt (s : State) (l : Nat) (op : AtOp) (r : Reg) : s.heard.srcAt l op r = s.srcAt l op r := by
  have hp (f : Fmt) : s.heard.srcP l r f = s.srcP l r f := by
    cases r with
    | c x => rfl
    | _ => exact s.heard_regs l _ 1 nofun
  have hf (f : Fmt) : s.heard.srcF l r f = s.srcF l r f := by
    cases r with
    | c x => rfl
    | _ => exact congrArg (· % 2 ^ f.width) (s.heard_regs l _ _ nofun)
  cases op with
  | fadd t => cases t with
    | bf16 => exact hp _
    | _ => exact hf _
  | _ => exact s.heard_src l r _

/-! ## Atomics of several lanes on one scratchpad -/

/-- A team after the atomic of one lane. -/
def Team.at (op : AtOp) (off : Nat → Nat) (v : Nat → Nat × Nat) (y : Team) (l : Nat) : Team :=
  let r := atApply op (y.spRead (off l) (4 * op.regs)) (v l).1 (v l).2
  if r.2.1 then y.spWrite (off l) (4 * op.regs) r.1 else y

section
variable {op : AtOp} {off : Nat → Nat} {v : Nat → Nat × Nat}

theorem Team.at_frame (y : Team) (l : Nat) : y.at op off v l = { y with sp := (y.at op off v l).sp } := by
  unfold Team.at
  dsimp only
  split
  · exact y.spWrite_frame _ _ _
  · rfl

theorem Team.spGet_at_outside (y : Team) {l a : Nat} (h : a < off l ∨ off l + 4 * op.regs ≤ a) :
    (y.at op off v l).spGet a = y.spGet a := by
  unfold Team.at
  dsimp only
  split
  · exact y.spGet_spWrite_outside _ h
  · rfl

theorem Team.spRead_lt (y : Team) (o n : Nat) : y.spRead o n < 256 ^ n := by
  induction n generalizing o with
  | zero => exact Nat.one_pos
  | succ n ih =>
    have hb := (y.spGet o).isLt
    have hr := ih (o + 1)
    rw [Team.spRead, Nat.pow_succ']
    omega

/-- The word holds the new value of Table 10.4. -/
theorem Team.spRead_at_same (y : Team) (l : Nat) : (y.at op off v l).spRead (off l) (4 * op.regs) =
    atomNew op (y.spRead (off l) (4 * op.regs)) (v l).1 (v l).2 % 256 ^ (4 * op.regs) := by
  unfold Team.at
  dsimp only
  split
  · rw [Team.spRead_spWrite, atApply_value]
  · next h =>
    rw [atomNew_of_not_written (Bool.eq_false_iff.2 h), Nat.mod_eq_of_lt (y.spRead_lt _ _)]

theorem Team.spRead_at_apart (y : Team) {l m : Nat}
    (h : off l + 4 * op.regs ≤ off m ∨ off m + 4 * op.regs ≤ off l) :
    (y.at op off v l).spRead (off m) (4 * op.regs) = y.spRead (off m) (4 * op.regs) :=
  Team.spRead_congr_range fun a h1 h2 => y.spGet_at_outside (by omega)

/-- A team after the atomics of the lanes of a list, in their order. -/
theorem Team.foldl_at (y : Team) (ls : List Nat) : let z := ls.foldl (Team.at op off v) y
    z = { y with sp := z.sp } ∧
      (∀ a, (∀ l ∈ ls, a < off l ∨ off l + 4 * op.regs ≤ a) → z.spGet a = y.spGet a) ∧
      (Apart ls off (4 * op.regs) → ∀ l ∈ ls, z.spRead (off l) (4 * op.regs) =
        atomNew op (y.spRead (off l) (4 * op.regs)) (v l).1 (v l).2 % 256 ^ (4 * op.regs)) := by
  induction ls generalizing y with
  | nil => exact ⟨rfl, fun _ _ => rfl, fun _ _ h => absurd h List.not_mem_nil⟩
  | cons l ls ih =>
    obtain ⟨hz, hget, hread⟩ := ih (y.at op off v l)
    rw [List.foldl_cons]
    refine ⟨?_, fun a ha => ?_, fun hp m hm => ?_⟩
    · rw [hz, y.at_frame]
    · rw [hget a fun m hm => ha m (List.mem_cons_of_mem _ hm), y.spGet_at_outside (ha l List.mem_cons_self)]
    · obtain ⟨hl, hls⟩ := List.pairwise_cons.1 hp
      rcases List.mem_cons.1 hm with rfl | hm
      · rw [← Team.spRead_at_same]
        exact Team.spRead_congr_range fun a h1 h2 => hget a fun k hk => by have := hl k hk; omega
      · rw [hread hls m hm, y.spRead_at_apart (hl m hm)]

/-- The writes of old values that the lanes of an ATOM make one after the other. -/
def atWrites (op : AtOp) (off : Nat → Nat) (v : Nat → Nat × Nat) (ws : Nat → Nat → List (Nat × Nat × W32)) :
    Team → List Nat → List (Nat × Nat × W32)
  | _, [] => []
  | y, l :: ls => ws l (y.spRead (off l) (4 * op.regs)) ++ atWrites op off v ws (y.at op off v l) ls

/-- Where the words are apart the old values are those before the instruction. -/
theorem atWrites_apart {ws : Nat → Nat → List (Nat × Nat × W32)} {ls : List Nat} (h : Apart ls off (4 * op.regs)) {y z : Team}
    (hz : ∀ l ∈ ls, z.spRead (off l) (4 * op.regs) = y.spRead (off l) (4 * op.regs)) :
    atWrites op off v ws z ls = ls.flatMap fun l => ws l (y.spRead (off l) (4 * op.regs)) := by
  induction ls generalizing z with
  | nil => rfl
  | cons l ls ih =>
    obtain ⟨hl, hls⟩ := List.pairwise_cons.1 h
    rw [atWrites, List.flatMap_cons, hz l List.mem_cons_self,
      ih hls fun m hm => (z.spRead_at_apart (hl m hm)).trans (hz m (List.mem_cons_of_mem _ hm))]

end

/-! ## The lanes of an atomic one after the other -/

/-- A line leaves the tile's L1. -/
def State.dropLine (s : State) (line : Nat) : State := s.setTile s.cur.tile (s.T.l1Drop line)

theorem State.dropLine_sameView (s : State) (line : Nat) : SameView s (s.dropLine line) := by
  have hT : (s.dropLine line).T = s.T.l1Drop line := (s.tile_setTile _ _ _).trans (if_pos rfl)
  exact ⟨rfl, by rw [State.G, hT]; rfl, by rw [hT]; rfl, rfl, rfl, fun i => by rw [hT]; rfl, rfl⟩

/-- The lanes of an atomic are taken one after the other: one on plinth memory sends its request, one on the own scratchpad acts
at once (log 105). -/
theorem State.atLanes_fold (s : State) (regs : List Reg) (iid : Nat) (op : AtOp) (mk : Nat → ReqKind) (v : Nat → Nat × Nat)
    (dst : Option Reg) (ea : Nat → EA) (ls : List Nat) :
    ∃ f : Acc × Nat → Nat → Acc × Nat, s.atLanes regs iid op mk v dst (ls.map fun l => (l, ea l)) = ls.foldl f ({ s := s }, 0) ∧
      (∀ a l va e, ea l = .mem va e → f a l = ({ a.1 with
        s := (a.1.s.dropLine (e.phys va / 128)).send ((a.1.s.dropLine (e.phys va / 128)).mkReq (accLane regs l) iid (mk l) va
          (e.phys va) (4 * op.regs) 14 false false dst), n := a.1.n + 1 }, a.2)) ∧
      (∀ a l off, ea l = .loc off → f a l = ({ a.1 with
        s := (a.1.s.atLocal op off (v l).1 (v l).2).1
        ws := a.1.ws ++ (match dst with
          | some d => spread (accLane regs l) d op.regs (a.1.s.atLocal op off (v l).1 (v l).2).2.1
          | none => []) }, a.2 ||| (a.1.s.atLocal op off (v l).1 (v l).2).2.2)) := by
  refine ⟨_, List.foldl_map, fun a l va e h => ?_, fun a l off h => ?_⟩
  · simp only [h]
    rfl
  · simp only [h] <;> rfl

/-- What a local atomic of one lane does to the team. -/
theorem State.atLocal_leaves {s : State} {y : Team} (hy : s.curTeam = some y) (hid : y.id = s.G.team) (op : AtOp) (off : Nat → Nat)
    (v : Nat → Nat × Nat) (l : Nat) : ∃ u, (s.atLocal op (off l) (v l).1 (v l).2).1 = u ∧
      (s.atLocal op (off l) (v l).1 (v l).2).2.1 = y.spRead (off l) (4 * op.regs) ∧
      Recorded s u ∧ u.G = s.G ∧ u.reqs = s.reqs ∧ u.curTeam = some (y.at op off v l) := by
  refine ⟨_, rfl, ?_, ?_⟩
  · unfold State.atLocal
    rw [hy]
  unfold State.atLocal Team.at
  rw [hy]
  dsimp only
  split
  · set z := y.spWrite (off l) (4 * op.regs) (atApply op (y.spRead (off l) (4 * op.regs)) (v l).1 (v l).2).1 with hz
    have hT : (s.tile s.cur.tile).team s.G.team = some y := hy
    have hmod : (s.modTile s.cur.tile fun T => T.modTeam s.G.team fun x =>
        x.spWrite (off l) (4 * op.regs) (atApply op (y.spRead (off l) (4 * op.regs)) (v l).1 (v l).2).1) = s.putTeam s.cur.tile z := by
      rw [State.modTile, Tile.modTeam_of_team hT]
      rfl
    obtain ⟨hr, hG, hteam⟩ := State.putTeam_leaves (s := s) (z := z) ((y.id_spWrite _ _ _).trans hid)
    rw [hmod]
    exact ⟨hr, hG, rfl, hteam⟩
  · exact ⟨.refl s, rfl, rfl, hy⟩

/-- Atomics of several lanes on the own scratchpad: no request is sent, and the team holds the new words. -/
theorem foldl_atLocal {op : AtOp} {off : Nat → Nat} {v : Nat → Nat × Nat} {ws : Nat → Nat → List (Nat × Nat × W32)} {ls : List Nat}
    {f : Acc × Nat → Nat → Acc × Nat} (hf : ∀ a : Acc × Nat, ∀ l ∈ ls, f a l = ({ a.1 with
      s := (a.1.s.atLocal op (off l) (v l).1 (v l).2).1
      ws := a.1.ws ++ ws l (a.1.s.atLocal op (off l) (v l).1 (v l).2).2.1 }, a.2 ||| (a.1.s.atLocal op (off l) (v l).1 (v l).2).2.2))
    {a : Acc × Nat} {y : Team} (hy : a.1.s.curTeam = some y) (hid : y.id = a.1.s.G.team) :
    ∃ u n, ls.foldl f a = ({ a.1 with s := u, ws := a.1.ws ++ atWrites op off v ws y ls }, n) ∧ Recorded a.1.s u ∧
      u.G = a.1.s.G ∧ u.reqs = a.1.s.reqs ∧ u.curTeam = some (ls.foldl (Team.at op off v) y) := by
  induction ls generalizing a y with
  | nil => exact ⟨a.1.s, a.2, by simp [atWrites], .refl _, rfl, rfl, hy⟩
  | cons l ls ih =>
    obtain ⟨u, hu, hold, hr, hG, hreqs, hteam⟩ := State.atLocal_leaves hy hid op off v l
    have hl := hf a l List.mem_cons_self
    rw [hu, hold] at hl
    have hzid : (y.at op off v l).id = u.G.team := by rw [y.at_frame, hG]; exact hid
    obtain ⟨w, n, hw, hrw, hGw, hreqsw, hteamw⟩ := ih (fun a m hm => hf a m (List.mem_cons_of_mem _ hm)) (a := f a l)
      (y := y.at op off v l) (by rw [hl]; exact hteam) (by rw [hl]; exact hzid)
    rw [hl] at hw hrw hGw hreqsw
    refine ⟨w, n, ?_, hr.trans hrw, hGw.trans hG, hreqsw.trans hreqs, hteamw⟩
    rw [List.foldl_cons, hl, hw, atWrites, List.append_assoc]

/-! ## The end of an atomic, and its acquire -/

/-- A state that has the record of the instruction ends it: as `State.memEnd_ends`, where the record may already hold flags. -/
theorem State.memEnd_recorded {s : State} {a : Acc} (hr : Recorded s a.s) (hout : ∃ o ∈ a.s.G.out, o.iid = s.nextId)
    (dst : List (Nat × Nat)) : Ends s a (s.heard.memEnd s.nextId a dst false) := by
  set f : OutInst → OutInst := fun o => { o with rem := a.n, res := a.ws, dst := dst } with hf
  set u := a.s.modG fun g => g.outMod s.nextId f with hu
  have hur : Recorded a.s u := a.s.modG_recorded _ rfl
  have huo : OnlyGroup a.s u := OnlyGroup.of_setG a.s _ a.s.due a.s.nextId
  have hud : u.curTeam = a.s.curTeam := by rw [State.curTeam, State.curTeam, huo.team, hur.group]
  obtain ⟨hv, hvG, hvreqs, hvdata, hvteam⟩ := u.tick_leaves
  obtain ⟨w, hw, hwv, hwreqs⟩ : ∃ w, s.heard.memEnd s.nextId a dst false = w.next ∧ SameView u.tick w ∧ w.reqs = u.tick.reqs := by
    unfold State.memEnd
    simp only [Bool.false_and, Bool.false_eq_true, if_false]
    refine ⟨_, rfl, ?_, ?_⟩ <;> split
    · exact State.push_sameView _ _
    · exact .refl _
    · rfl
    · rfl
  have hrec : Recorded s w := (hr.trans hur).trans (hv.trans hwv.recorded)
  obtain ⟨hissued, hgang, hnout, hgid, hnteam⟩ := hrec.next_issued
  have hteam : w.next.curTeam = u.tick.curTeam := by
    have hg : w.next.G.team = u.tick.G.team := by rw [State.next, State.modG_G, Group.advance_frame, hwv.G]
    rw [State.curTeam, State.curTeam, hnteam, hwv.team, hg]
  obtain ⟨o, ho, hiid⟩ := hout
  rw [hw]
  refine ⟨hissued, hgang, hgid, hrec.cur, ⟨f o, ?_, hiid, rfl, rfl⟩, hwreqs.trans hvreqs, ?_, fun x hx => ?_⟩
  · rw [hnout, hwv.G, hvG, hu, State.modG_G]
    exact List.mem_map.2 ⟨o, ho, if_pos hiid⟩
  · rw [State.teamData, hteam, ← State.teamData, hvdata, State.teamData, hud, ← State.teamData]
  · rw [hteam]
    exact hvteam x (hud.trans hx)

theorem Issued.wentOn {s t : State} (h : Issued s t) (acq : Option Scope) : WentOn s t acq := by
  intro l hl L
  have hlane : t.G.lane l = { L with v := (t.G.lane l).v, back := (t.G.lane l).back, p := (t.G.lane l).p } := h.1 l hl
  generalize t.G.lane l = K at hlane ⊢
  rw [hlane]
  exact ⟨rfl, .inl rfl⟩

/-- What a state keeps in which the subset has gone on, and may wait for an acquire. -/
structure Acquires (s t u : State) (acq : Option Scope) : Prop where
  issued : IssuedAcq s u acq
  reqs : u.reqs = t.reqs
  out : u.G.out = t.G.out
  team : u.curTeam = t.curTeam

theorem Ends.acquires {s t : State} {a : Acc} (h : Ends s a t) (acq : Option Scope) :
    Acquires s t (t.withAcquire acq s.cur.sub) acq := by
  have ⟨hl, hr, hf, hm, hh, hx, hxs⟩ := h.issued
  have hself : Acquires s t t acq := ⟨⟨Issued.wentOn h.issued acq, hr, hf, hm, hh, hx, hxs, h.gang⟩, rfl, rfl, rfl⟩
  unfold State.withAcquire
  split
  · exact hself
  next sc =>
  split
  · exact hself
  rw [← h.cur]
  cases hls : lanesOf t.cur.sub with
  | nil =>
    unfold State.startFence
    rw [hls]
    exact hself
  | cons i is =>
    have hg := State.startFence_grows hls .acq sc t.nextId false
    set w := Wait.fence .acq sc t.nextId false with hw
    set u := t.startFence t.cur.sub .acq sc t.nextId false
    have hvG : (t.hold w).G = t.G.modMask t.cur.sub fun L => { L with wait := w } := State.modG_G _ _
    have hvo : OnlyGroup t (t.hold w) := OnlyGroup.of_setG t _ t.due t.nextId
    have huG : u.G = (t.hold w).G := hg.counted.G
    obtain ⟨kr, ks, -⟩ := (Unseen.refl t).holds rfl rfl w
    obtain ⟨⟨k1, k2, k3, k4, k5, -⟩, k6, k7⟩ := ks.trans hg.steady
    refine ⟨⟨fun l hl32 => ?_, (hr.trans kr).trans hg.counted.unseen.regs, ⟨k6.trans hf.1, k7.trans hf.2⟩, k1.trans hm, k2.trans hh,
      k4.trans hx, k5.trans hxs, k3.trans h.gang⟩, ?_, by rw [huG, hvG]; rfl, ?_⟩
    · intro L
      have hlane : t.G.lane l = { L with v := (t.G.lane l).v, back := (t.G.lane l).back, p := (t.G.lane l).p } := hl l hl32
      rw [huG, hvG, Group.lane_modMask _ _ _ _ hl32]
      generalize t.G.lane l = K at hlane ⊢
      rw [hlane]
      split
      · next hb => exact ⟨rfl, .inr ⟨by rwa [h.cur] at hb, sc, t.nextId, rfl, rfl⟩⟩
      · exact ⟨rfl, .inl rfl⟩
    · exact hg.counted.reqs
    · have hteam : (t.hold w).curTeam = t.curTeam := by
        rw [State.curTeam, State.curTeam, hvo.team, hvG]
        rfl
      exact hg.counted.sameView.curTeam.trans hteam

/-! ## ATOM (R244, R245) -/

theorem teamData_of_curTeam {s t : State} (h : t.curTeam = s.curTeam) : t.teamData = s.teamData := by
  rw [State.teamData, State.teamData, h]

theorem acqBusy_false (s : State) (acq : Option Scope) : s.acqBusy acq false = false := rfl

/-- The lanes of an ATOM, and the addresses that they access. -/
def State.atomLanes (s : State) (x : AtomR) : List Nat := s.memLanes x.c [x.d, x.a, x.b]
def State.atomAddrs (s : State) (x : AtomR) : List (Nat × EA) :=
  (s.atomLanes x).map fun l => (l, s.eaAt x.sp (4 * x.op.regs) x.a l)

/-- The operands of a lane's ATOM. -/
def State.atomVals (s : State) (x : AtomR) (l : Nat) : Nat × Nat := (s.srcAt l x.op x.b, s.src l x.d x.op.regs)

theorem State.heard_atomVals (s : State) (x : AtomR) : s.heard.atomVals x = s.atomVals x :=
  funext fun l => Prod.ext (s.heard_srcAt l _ _) (s.heard_src l _ _)

/-- The record that an ATOM enters. -/
def State.atomEntry (s : State) (x : AtomR) : OutInst := { s.heard.outInst x.c with rem := 1, kind := 4 + 64 }

/-- The accesses of an ATOM's lanes, with their floating flags. -/
def State.atomAcc (s : State) (x : AtomR) : Acc × Nat :=
  (s.memBegun (s.atomEntry x)).atLanes [x.d, x.a, x.b] s.nextId x.op (fun l => .atom x.op (s.atomVals x l).1 (s.atomVals x l).2)
    (s.atomVals x) (some x.d) (s.atomAddrs x)

/-- The floating flags stand in the record of the instruction. -/
def flagRecord (iid : Nat) (r : Acc × Nat) : Acc := { r.1 with s := r.1.s.modG fun g => g.outMod iid fun o => { o with fps := r.2 } }

theorem exec_atom_of_good {x : AtomR} {s : State} (hgood : ∀ y ∈ s.atomAddrs x, y.2.Good s)
    (htrap : s.heard.mayTrap (s.atomAddrs x) (4 * x.op.regs) = false) (hecc : s.heard.spEcc (s.atomAddrs x) (4 * x.op.regs) = none)
    (hrel : Released s (relOf x.ord)) : ∃ dst, exec (.atom x) s = .next
      ((s.heard.memEnd s.nextId (flagRecord s.nextId (s.atomAcc x)) dst false).withAcquire (acqOf x.ord) s.cur.sub) := by
  refine ⟨dstCodes ((s.atomLanes x).map (accLane [x.d, x.a, x.b])) x.d x.op.regs, ?_⟩
  rw [exec_atom]
  unfold execAtom
  extract_lets regs n ls eas rel acq
  refine (State.withAddrs_of_good hgood regs .readWrite _).trans ?_
  have hheld : s.heard.mayTrap eas n = false := htrap
  have hecc' : s.heard.spEcc eas n = none := hecc
  simp only [hheld, acqBusy_false, hecc', Bool.false_eq_true, if_false]
  refine congrArg Host.Outcome.next ((State.withRelease_of_ok _ fun sc hsc => ?_).trans ?_)
  · exact (s.heard_relOk sc s.nextId).trans (hrel sc hsc)
  · rw [State.atomAcc, ← s.heard_atomVals]
    rfl

/-- What the flags of the lanes leave of the state after their accesses. -/
theorem flagRecord_leaves {s : State} {o : OutInst} {r : Acc × Nat} (ho : o.iid = s.nextId) (hr : Recorded (s.memBegun o) r.1.s)
    (hout : r.1.s.G.out = (s.memBegun o).G.out) : let a := flagRecord s.nextId r
    Recorded s a.s ∧ (∃ o ∈ a.s.G.out, o.iid = s.nextId) ∧ a.s.reqs = r.1.s.reqs ∧ a.s.curTeam = r.1.s.curTeam := by
  intro a
  have hrec : Recorded r.1.s a.s := r.1.s.modG_recorded (fun g => g.outMod s.nextId fun o => { o with fps := r.2 }) rfl
  have honly : OnlyGroup r.1.s a.s := OnlyGroup.of_setG r.1.s _ r.1.s.due r.1.s.nextId
  refine ⟨((s.memBegun_recorded o).trans hr).trans hrec, ⟨{ o with fps := r.2 }, ?_, ho⟩, rfl, ?_⟩
  · have hG : a.s.G = r.1.s.G.outMod s.nextId fun o => { o with fps := r.2 } := State.modG_G _ _
    rw [hG, ← ho]
    show _ ∈ List.map _ r.1.s.G.out
    rw [hout, s.memBegun_G]
    exact Group.mem_outMod_record _ _ _
  · rw [State.curTeam, State.curTeam, honly.team, hrec.group]

theorem atomLocal (x : AtomR) (s : State) (y : Team) (off : Nat → Nat) (hy : s.curTeam = some y) (hid : y.id = s.G.team)
    (hsegs : s.T.segs = []) (hea : ∀ l ∈ s.atomLanes x, s.eaAt x.sp (4 * x.op.regs) x.a l = .loc (off l) ∧
      s.T.badSp s.G.team (off l) (4 * x.op.regs) = false) (hrel : Released s (relOf x.ord)) :
    ∃ t z, exec (.atom x) s = .next t ∧ IssuedAcq s t (acqOf x.ord) ∧ t.curTeam = some z ∧ z.full = y.full ∧ z.acc = y.acc ∧
      (∀ a, (∀ l ∈ s.atomLanes x, a < off l ∨ off l + 4 * x.op.regs ≤ a) → z.spGet a = y.spGet a) ∧
      (Apart (s.atomLanes x) off (4 * x.op.regs) →
        (∀ l ∈ s.atomLanes x, z.spRead (off l) (4 * x.op.regs) = atomNew x.op (y.spRead (off l) (4 * x.op.regs))
          (s.atomVals x l).1 (s.atomVals x l).2 % 256 ^ (4 * x.op.regs)) ∧
        ∃ o ∈ t.G.out, o.iid = s.nextId ∧ o.rem = 0 ∧ o.res = (s.atomLanes x).flatMap fun l =>
          spread (accLane [x.d, x.a, x.b] l) x.d x.op.regs (y.spRead (off l) (4 * x.op.regs))) := by
  have hloc : ∀ z ∈ s.atomAddrs x, ∃ o, z.2 = .loc o ∧ s.T.badSp s.G.team o (4 * x.op.regs) = false := by
    intro z hz
    obtain ⟨l, hl, rfl⟩ := List.mem_map.1 hz
    exact ⟨off l, hea l hl⟩
  obtain ⟨dst, hrun⟩ := exec_atom_of_good (x := x) (s := s)
    (fun z hz => by obtain ⟨o, ho, -⟩ := hloc z hz; rw [ho]; exact hsegs)
    (List.any_eq_false.2 fun z hz => by obtain ⟨o, ho, -⟩ := hloc z hz; rw [ho]; exact Bool.false_ne_true)
    (State.heard_spEcc_eq_none hloc) hrel
  obtain ⟨f, hf, -, hfloc⟩ := (s.memBegun (s.atomEntry x)).atLanes_fold [x.d, x.a, x.b] s.nextId x.op
    (fun l => .atom x.op (s.atomVals x l).1 (s.atomVals x l).2) (s.atomVals x) (some x.d) (s.eaAt x.sp (4 * x.op.regs) x.a) (s.atomLanes x)
  obtain ⟨u, n, hu, hr, hG, -, hteam⟩ := foldl_atLocal (op := x.op) (off := off) (v := s.atomVals x)
    (ws := fun l old => spread (accLane [x.d, x.a, x.b] l) x.d x.op.regs old) (fun a l hl => hfloc a l _ (hea l hl).1)
    (a := ({ s := s.memBegun (s.atomEntry x) }, 0)) ((s.memBegun_curTeam _).trans hy)
    (hid.trans (by rw [(s.memBegun_recorded _).group]))
  have hacc : s.atomAcc x = _ := hf.trans hu
  obtain ⟨hrec, hout, -, hteam'⟩ := flagRecord_leaves (s := s) (o := s.atomEntry x) (r := s.atomAcc x) rfl (by rw [hacc]; exact hr)
    (by rw [hacc]; exact congrArg Group.out hG)
  have hends := State.memEnd_recorded hrec hout dst
  obtain ⟨k, i, hz⟩ := hends.team _ (hteam'.trans (by rw [hacc]; exact hteam))
  obtain ⟨hissued, -, hout2, hteam2⟩ := hends.acquires (acqOf x.ord)
  obtain ⟨hframe, hget, hread⟩ := y.foldl_at (op := x.op) (off := off) (v := s.atomVals x) (s.atomLanes x)
  set z := (s.atomLanes x).foldl (Team.at x.op off (s.atomVals x)) y
  have hget' (a : Nat) : (z.timed k i).spGet a = z.spGet a := rfl
  obtain ⟨o, ho, hiid, hrem, hres⟩ := hends.out
  refine ⟨_, z.timed k i, hrun, hissued, hteam2.trans hz, (by rw [hframe] : z.full = y.full), (by rw [hframe] : z.acc = y.acc),
    fun a ha => hget a ha, fun hp => ⟨fun l hl => ?_, o, by rw [hout2]; exact ho, hiid, ?_, ?_⟩⟩
  · rw [Team.spRead_congr hget', hread hp l hl]
  · rw [hrem, flagRecord, hacc]
  · rw [hres, flagRecord, hacc]
    exact atWrites_apart hp fun _ _ => rfl

/-- Atomics of several lanes on plinth memory: one request of each lane is sent, and the group sees no difference. -/
theorem foldl_atSends {u : State} {regs : List Reg} {iid : Nat} {op : AtOp} {mk : Nat → ReqKind} {dst : Option Reg} {va : Nat → Nat}
    {e : Nat → TlbEnt} {ls : List Nat} {f : Acc × Nat → Nat → Acc × Nat} (hmk : ∀ l, (mk l).isPeer = false)
    (hf : ∀ a : Acc × Nat, ∀ l ∈ ls, f a l = ({ a.1 with
      s := (a.1.s.dropLine ((e l).phys (va l) / 128)).send ((a.1.s.dropLine ((e l).phys (va l) / 128)).mkReq (accLane regs l) iid (mk l)
        (va l) ((e l).phys (va l)) (4 * op.regs) 14 false false dst), n := a.1.n + 1 }, a.2)) :
    let b := ls.foldl f ({ s := u }, 0)
    SameView u b.1.s ∧ b.1.n = ls.length ∧
      ∀ l ∈ ls, Listed b.1.s (accLane regs l) iid (va l) ((e l).phys (va l)) (4 * op.regs) (mk l) := by
  have hstep (a : Acc × Nat) (l : Nat) (hl : l ∈ ls) (hn : a.1.s.nextId = u.nextId + a.1.n) :
      (f a l).1.s.nextId = u.nextId + (f a l).1.n ∧
        Sends a.1.s (f a l).1.s (accLane regs l) iid (va l) ((e l).phys (va l)) (4 * op.regs) (mk l) := by
    have hs := sends_of_send (a.1.s.dropLine_sameView ((e l).phys (va l) / 128)) rfl rfl (hmk l) (accLane regs l) iid (va l)
      ((e l).phys (va l)) (4 * op.regs) 14 false false dst
    rw [hf a l hl]
    exact ⟨hs.nextId.trans (congrArg (· + 1) hn), hs⟩
  obtain ⟨hn, hview, hnext, hlisted, -⟩ := foldl_sends (st := fun a : Acc × Nat => a.1.s) (f := f) hstep (a := ({ s := u }, 0)) rfl
  exact ⟨hview, Nat.add_left_cancel (hn.symm.trans hnext), hlisted⟩

theorem atomGlobal (x : AtomR) (s : State) (va : Nat → Nat) (e : Nat → TlbEnt) (hrel : Released s (relOf x.ord))
    (hea : ∀ l ∈ s.atomLanes x, s.eaAt x.sp (4 * x.op.regs) x.a l = .mem (va l) (e l) ∧
      regionOf ((e l).phys (va l)) = .plinth ∧ s.poisoned ((e l).phys (va l)) (4 * x.op.regs) = false) :
    ∃ t, exec (.atom x) s = .next t ∧ IssuedAcq s t (acqOf x.ord) ∧ t.teamData = s.teamData ∧
      (∃ o ∈ t.G.out, o.iid = s.nextId ∧ o.rem = (s.atomLanes x).length) ∧
      ∀ l ∈ s.atomLanes x, InFlight t (accLane [x.d, x.a, x.b] l) s.nextId (va l) ((e l).phys (va l)) (4 * x.op.regs)
        (.atom x.op (s.atomVals x l).1 (s.atomVals x l).2) := by
  have hmem : ∀ y ∈ s.atomAddrs x, ∃ a t, y.2 = .mem a t ∧ regionOf (t.phys a) = .plinth ∧
      s.poisoned (t.phys a) (4 * x.op.regs) = false := by
    intro y hy
    obtain ⟨l, hl, rfl⟩ := List.mem_map.1 hy
    exact ⟨va l, e l, hea l hl⟩
  obtain ⟨dst, hrun⟩ := exec_atom_of_good (x := x) (s := s)
    (fun y hy => by obtain ⟨a, t, hy, hr, -⟩ := hmem y hy; rw [hy]; exact hr)
    (List.any_eq_false.2 fun y hy => by
      obtain ⟨a, t, hy, hr, hp⟩ := hmem y hy
      rw [hy]
      dsimp only
      rw [hr]
      exact Bool.eq_false_iff.1 hp)
    (Option.map_eq_none_iff.2 (List.find?_eq_none.2 fun y hy => by
      obtain ⟨a, t, hy, -⟩ := hmem y hy
      rw [hy]
      exact Bool.false_ne_true)) hrel
  obtain ⟨f, hf, hfmem, -⟩ := (s.memBegun (s.atomEntry x)).atLanes_fold [x.d, x.a, x.b] s.nextId x.op
    (fun l => .atom x.op (s.atomVals x l).1 (s.atomVals x l).2) (s.atomVals x) (some x.d) (s.eaAt x.sp (4 * x.op.regs) x.a) (s.atomLanes x)
  obtain ⟨hview, hn, hlisted⟩ := foldl_atSends (u := s.memBegun (s.atomEntry x)) (fun _ => rfl)
    (fun a l hl => hfmem a l _ _ (hea l hl).1)
  rw [← hf, ← State.atomAddrs, ← State.atomAcc] at hview hn hlisted
  obtain ⟨hrec, hout, hreqs, hteam⟩ := flagRecord_leaves (s := s) (o := s.atomEntry x) (r := s.atomAcc x) rfl hview.recorded
    (congrArg Group.out hview.G)
  have hends := State.memEnd_recorded hrec hout dst
  obtain ⟨hissued, hreqs2, hout2, hteam2⟩ := hends.acquires (acqOf x.ord)
  obtain ⟨o, ho, hiid, hrem, -⟩ := hends.out
  refine ⟨_, hrun, hissued, ?_, ⟨o, by rw [hout2]; exact ho, hiid, hrem.trans hn⟩,
    fun l hl => (hlisted l hl).inFlight ((hreqs2.trans hends.reqs).trans hreqs)⟩
  exact ((teamData_of_curTeam hteam2).trans hends.data).trans ((teamData_of_curTeam hteam).trans
    (hview.teamData.trans (s.memBegun_fixed _).2.2.2))

/-! ## RED (R244, R245) -/

/-- The lanes of a RED, and the addresses that they access. -/
def State.redLanes (s : State) (x : RedR) : List Nat := s.memLanes x.c [x.a, x.b]
def State.redAddrs (s : State) (x : RedR) : List (Nat × EA) :=
  (s.redLanes x).map fun l => (l, s.eaAt x.sp (4 * x.op.regs) x.a l)

/-- The operand of a lane's RED. -/
def State.redVals (s : State) (x : RedR) (l : Nat) : Nat × Nat := (s.srcAt l x.op x.b, 0)

theorem State.heard_redVals (s : State) (x : RedR) : s.heard.redVals x = s.redVals x :=
  funext fun l => Prod.ext (s.heard_srcAt l _ _) rfl

/-- The record that a RED enters. -/
def State.redEntry (s : State) (x : RedR) : OutInst := { s.heard.outInst x.c with rem := 1 }

/-- The accesses of a RED's lanes. -/
def State.redAcc (s : State) (x : RedR) : Acc × Nat :=
  (s.memBegun (s.redEntry x)).atLanes [x.a, x.b] s.nextId x.op (fun l => .red x.op (s.redVals x l).1) (s.redVals x) none (s.redAddrs x)

theorem exec_red_of_good {x : RedR} {s : State} (hgood : ∀ y ∈ s.redAddrs x, y.2.Good s) (hrel : Released s x.rel) :
    exec (.red x) s = .next (s.heard.memEnd s.nextId (s.redAcc x).1 [] false) := by
  rw [exec_red]
  unfold execRed
  extract_lets regs n ls eas
  refine (State.withAddrs_of_good hgood regs .readWrite _).trans
    (congrArg Host.Outcome.next ((State.withRelease_of_ok _ fun sc hsc => ?_).trans ?_))
  · exact (s.heard_relOk sc s.nextId).trans (hrel sc hsc)
  · rw [State.redAcc, ← s.heard_redVals]
    rfl

theorem redLocal (x : RedR) (s : State) (y : Team) (off : Nat → Nat) (hy : s.curTeam = some y) (hid : y.id = s.G.team)
    (hsegs : s.T.segs = []) (hea : ∀ l ∈ s.redLanes x, s.eaAt x.sp (4 * x.op.regs) x.a l = .loc (off l)) (hrel : Released s x.rel) :
    ∃ t z, exec (.red x) s = .next t ∧ Issued s t ∧ t.curTeam = some z ∧ z.full = y.full ∧ z.acc = y.acc ∧ t.G.gang = s.G.gang ∧
      (∀ a, (∀ l ∈ s.redLanes x, a < off l ∨ off l + 4 * x.op.regs ≤ a) → z.spGet a = y.spGet a) ∧
      (Apart (s.redLanes x) off (4 * x.op.regs) →
        ∀ l ∈ s.redLanes x, z.spRead (off l) (4 * x.op.regs) = atomNew x.op (y.spRead (off l) (4 * x.op.regs))
          (s.redVals x l).1 (s.redVals x l).2 % 256 ^ (4 * x.op.regs)) := by
  have hrun := exec_red_of_good (x := x) (s := s) (fun z hz => by
    obtain ⟨l, hl, rfl⟩ := List.mem_map.1 hz
    rw [hea l hl]
    exact hsegs) hrel
  obtain ⟨f, hf, -, hfloc⟩ := (s.memBegun (s.redEntry x)).atLanes_fold [x.a, x.b] s.nextId x.op
    (fun l => .red x.op (s.redVals x l).1) (s.redVals x) none (s.eaAt x.sp (4 * x.op.regs) x.a) (s.redLanes x)
  obtain ⟨u, n, hu, hr, hG, -, hteam⟩ := foldl_atLocal (op := x.op) (off := off) (v := s.redVals x) (ws := fun _ _ => [])
    (fun a l hl => hfloc a l _ (hea l hl)) (a := ({ s := s.memBegun (s.redEntry x) }, 0)) ((s.memBegun_curTeam _).trans hy)
    (hid.trans (by rw [(s.memBegun_recorded _).group]))
  have hacc : s.redAcc x = _ := hf.trans hu
  have hends := State.memEnd_ends (s := s) (o := s.redEntry x) (a := (s.redAcc x).1) rfl (by rw [hacc]; exact hr)
    (by rw [hacc]; exact congrArg Group.out hG) []
  obtain ⟨k, i, hz⟩ := hends.team _ (by rw [hacc]; exact hteam)
  obtain ⟨hframe, hget, hread⟩ := y.foldl_at (op := x.op) (off := off) (v := s.redVals x) (s.redLanes x)
  set z := (s.redLanes x).foldl (Team.at x.op off (s.redVals x)) y
  have hget' (a : Nat) : (z.timed k i).spGet a = z.spGet a := rfl
  exact ⟨_, z.timed k i, hrun, hends.issued, hz, (by rw [hframe] : z.full = y.full), (by rw [hframe] : z.acc = y.acc), hends.gang,
    fun a ha => hget a ha, fun hp l hl => (Team.spRead_congr hget' _ _).trans (hread hp l hl)⟩

theorem redGlobal (x : RedR) (s : State) (va : Nat → Nat) (e : Nat → TlbEnt) (hrel : Released s x.rel)
    (hea : ∀ l ∈ s.redLanes x, s.eaAt x.sp (4 * x.op.regs) x.a l = .mem (va l) (e l) ∧ regionOf ((e l).phys (va l)) = .plinth) :
    ∃ t, exec (.red x) s = .next t ∧ IssuedOnly s t ∧ (∃ o ∈ t.G.out, o.iid = s.nextId ∧ o.rem = (s.redLanes x).length) ∧
      ∀ l ∈ s.redLanes x, InFlight t (accLane [x.a, x.b] l) s.nextId (va l) ((e l).phys (va l)) (4 * x.op.regs)
        (.red x.op (s.redVals x l).1) := by
  have hrun := exec_red_of_good (x := x) (s := s) (fun z hz => by
    obtain ⟨l, hl, rfl⟩ := List.mem_map.1 hz
    rw [(hea l hl).1]
    exact (hea l hl).2) hrel
  obtain ⟨f, hf, hfmem, -⟩ := (s.memBegun (s.redEntry x)).atLanes_fold [x.a, x.b] s.nextId x.op
    (fun l => .red x.op (s.redVals x l).1) (s.redVals x) none (s.eaAt x.sp (4 * x.op.regs) x.a) (s.redLanes x)
  obtain ⟨hview, hn, hlisted⟩ := foldl_atSends (u := s.memBegun (s.redEntry x)) (fun _ => rfl) (fun a l hl => hfmem a l _ _ (hea l hl).1)
  rw [← hf, ← State.redAddrs, ← State.redAcc] at hview hn hlisted
  have hends := State.memEnd_ends (s := s) (o := s.redEntry x) (a := (s.redAcc x).1) rfl hview.recorded (congrArg Group.out hview.G) []
  obtain ⟨o, ho, hiid, hrem, -⟩ := hends.out
  exact ⟨_, hrun, hends.steady (hview.teamData.trans (s.memBegun_fixed _).2.2.2), ⟨o, ho, hiid, hrem.trans hn⟩,
    fun l hl => (hlisted l hl).inFlight hends.reqs⟩

/-! ## GTH (R248) -/

/-- The lanes of a GTH, and the addresses that they access. -/
def State.gthLanes (s : State) (x : GthR) : List Nat := s.memLanes x.c [x.d, x.a, x.b]
def State.gthAddrs (s : State) (x : GthR) : List (Nat × EA) := (s.gthLanes x).map fun l => (l, s.eaGth x l)

/-- The indices of a lane's GTH. -/
def State.gthIndices (s : State) (x : GthR) (l : Nat) : List Nat :=
  gthIdx (s.src l x.b (if 2 ^ x.lk.val ≤ 2 then 1 else 2 ^ x.lk.val / 2)) (2 ^ x.lk.val)

/-- A lane whose gather has an address has good indices, and the address of its table. -/
theorem State.eaGth_mem {s : State} {x : GthR} {l va : Nat} {e : TlbEnt} (h : s.eaGth x l = .mem va e) :
    ∀ i ∈ s.gthIndices x l, i < 1024 := by
  unfold State.eaGth at h
  dsimp only at h
  split at h
  · split at h
    · cases h
    · next hf =>
      intro i hi
      have := List.find?_eq_none.1 hf i hi
      simpa using this
  · next hn => exact absurd h (hn _ _)

/-- The lines of a lane's words leave the tile's L1. -/
def State.dropLines (s : State) (pa : Nat) (idx : List Nat) : State :=
  s.setTile s.cur.tile (idx.foldl (fun T i => T.l1Drop ((pa + 4 * i) / 128)) s.T)

theorem Tile.foldl_l1Drop (T : Tile) (pa : Nat) (idx : List Nat) :
    ∃ l1, idx.foldl (fun T i => T.l1Drop ((pa + 4 * i) / 128)) T = { T with l1 := l1 } := by
  induction idx generalizing T with
  | nil => exact ⟨T.l1, rfl⟩
  | cons i idx ih => exact ih (T.l1Drop ((pa + 4 * i) / 128))

theorem State.dropLines_sameView (s : State) (pa : Nat) (idx : List Nat) : SameView s (s.dropLines pa idx) := by
  obtain ⟨l1, hl1⟩ := s.T.foldl_l1Drop pa idx
  have hT : (s.dropLines pa idx).T = { s.T with l1 := l1 } := (s.tile_setTile _ _ _).trans ((if_pos rfl).trans hl1)
  exact ⟨rfl, by rw [State.G, hT]; rfl, by rw [hT], rfl, rfl, fun i => by rw [hT]; rfl, rfl⟩

/-- The record that a GTH enters. -/
def State.gthEntry (s : State) (x : GthR) : OutInst := { s.heard.outInst x.c with rem := 1, kind := 64 }

/-- One lane's gather. -/
def State.gthLane (s : State) (x : GthR) (va : Nat → Nat) (e : Nat → TlbEnt) (a : Acc) (l : Nat) : Acc :=
  let u := a.s.dropLines ((e l).phys (va l)) (s.gthIndices x l)
  { a with
    s := u.send (u.mkReq (accLane [x.d, x.a, x.b] l) s.nextId (.gather (s.gthIndices x l)) (va l) ((e l).phys (va l))
      (4 * 2 ^ x.lk.val) 14 false false (some x.d))
    n := a.n + 1 }

section
variable {x : GthR} {s : State} {va : Nat → Nat} {e : Nat → TlbEnt}

theorem exec_gth_of_good (hea : ∀ l ∈ s.gthLanes x, s.eaGth x l = .mem (va l) (e l) ∧ regionOf ((e l).phys (va l)) = .plinth ∧
      s.poisoned ((e l).phys (va l)) 4096 = false) :
    ∃ dst, exec (.gth x) s = .next ((s.heard.memEnd s.nextId ((s.gthLanes x).foldl (s.gthLane x va e) { s := s.memBegun (s.gthEntry x) })
      dst false).withAcquire x.acq s.cur.sub) := by
  have hmem : ∀ y ∈ s.gthAddrs x, ∃ a t, y.2 = .mem a t ∧ regionOf (t.phys a) = .plinth ∧ s.poisoned (t.phys a) 4096 = false := by
    intro y hy
    obtain ⟨l, hl, rfl⟩ := List.mem_map.1 hy
    exact ⟨va l, e l, hea l hl⟩
  have hgood : ∀ y ∈ s.gthAddrs x, y.2.Good s := by
    intro y hy
    obtain ⟨a, t, hy, hr, -⟩ := hmem y hy
    rw [hy]
    exact hr
  refine ⟨dstCodes ((s.gthLanes x).map (accLane [x.d, x.a, x.b])) x.d (2 ^ x.lk.val), ?_⟩
  rw [exec_gth]
  unfold execGth
  extract_lets regs k ls eas
  refine (State.withAddrs_of_good hgood regs .read _).trans ?_
  extract_lets held iid src s0 one s1
  have hheld : held = false := List.any_eq_false.2 fun y hy => by
    obtain ⟨a, t, hy, -, hp⟩ := hmem y hy
    rw [hy]
    exact Bool.eq_false_iff.1 hp
  have hfold : eas.foldl one { s := s0 } = (s.gthLanes x).foldl (s.gthLane x va e) { s := s.memBegun (s.gthEntry x) } := by
    refine List.foldl_map.trans (List.foldl_ext _ _ _ fun a l hl => ?_)
    simp only [one, (hea l hl).1, s.heard_src]
    rfl
  clear_value held
  subst hheld
  refine (if_neg Bool.false_ne_true).trans (congrArg Host.Outcome.next ?_)
  simp only [s1, hfold]
  rfl

theorem gthGlobal (hea : ∀ l ∈ s.gthLanes x, s.eaGth x l = .mem (va l) (e l) ∧ regionOf ((e l).phys (va l)) = .plinth ∧
      s.poisoned ((e l).phys (va l)) 4096 = false) :
    ∃ t, exec (.gth x) s = .next t ∧ IssuedAcq s t x.acq ∧ t.teamData = s.teamData ∧
      (∃ o ∈ t.G.out, o.iid = s.nextId ∧ o.rem = (s.gthLanes x).length) ∧
      ∀ l ∈ s.gthLanes x, (∀ i ∈ s.gthIndices x l, i < 1024) ∧ InFlight t (accLane [x.d, x.a, x.b] l) s.nextId (va l)
        ((e l).phys (va l)) (4 * 2 ^ x.lk.val) (.gather (s.gthIndices x l)) := by
  obtain ⟨dst, hrun⟩ := exec_gth_of_good hea
  set u := s.memBegun (s.gthEntry x) with hu
  have hstep (a : Acc) (l : Nat) (hl : l ∈ s.gthLanes x) (hn : a.s.nextId = u.nextId + a.n) :
      (s.gthLane x va e a l).s.nextId = u.nextId + (s.gthLane x va e a l).n ∧ Sends a.s (s.gthLane x va e a l).s
        (accLane [x.d, x.a, x.b] l) s.nextId (va l) ((e l).phys (va l)) (4 * 2 ^ x.lk.val) (.gather (s.gthIndices x l)) := by
    have hs := sends_of_send (k := .gather (s.gthIndices x l)) (a.s.dropLines_sameView ((e l).phys (va l)) (s.gthIndices x l)) rfl rfl
      rfl (accLane [x.d, x.a, x.b] l) s.nextId (va l) ((e l).phys (va l)) (4 * 2 ^ x.lk.val) 14 false false (some x.d)
    exact ⟨hs.nextId.trans (congrArg (· + 1) hn), hs⟩
  obtain ⟨hn, hview, hnext, hlisted, -⟩ := foldl_sends (st := Acc.s) (f := s.gthLane x va e) hstep (a := { s := u }) rfl
  have hends := State.memEnd_ends (s := s) (o := s.gthEntry x) (a := (s.gthLanes x).foldl (s.gthLane x va e) { s := u }) rfl
    hview.recorded (congrArg Group.out hview.G) dst
  obtain ⟨hissued, hreqs, hout, hteam⟩ := hends.acquires x.acq
  obtain ⟨o, ho, hiid, hrem, -⟩ := hends.out
  refine ⟨_, hrun, hissued, ?_, ⟨o, by rw [hout]; exact ho, hiid, hrem.trans (Nat.add_left_cancel (hn.symm.trans hnext))⟩,
    fun l hl => ⟨State.eaGth_mem (hea l hl).1, (hlisted l hl).inFlight (hreqs.trans hends.reqs)⟩⟩
  exact ((teamData_of_curTeam hteam).trans hends.data).trans (hview.teamData.trans (s.memBegun_fixed _).2.2.2)

end

theorem atomicLocal : AtomicLocal :=
  ⟨fun x s y off hy hid hsegs hea hrel => atomLocal x s y off hy hid hsegs hea hrel,
    fun x s y off hy hid hsegs hea hrel => redLocal x s y off hy hid hsegs hea hrel⟩

theorem atomicGlobal : AtomicGlobal := by
  refine ⟨atomGlobal, redGlobal, ?_⟩
  intro x s va e k hea
  obtain ⟨t, hrun, hissued, hdata, ho, hl⟩ := gthGlobal hea
  exact ⟨t, hrun, hissued, hdata, ho, fun l hl' => ⟨s.gthIndices x l, rfl, hl l hl'⟩⟩

/-- Settles O26: local atomics by the team's words one after the other, global ones and gathers by the requests that they send. -/
theorem atomicsIssue : Obligations.AtomicsIssue := ⟨atomicLocal, atomicGlobal⟩

end Sys2Proof.Machine
end

section
/-! PROOFS. OWN and WAITO, which read the owner bits of a team's units, and the copies and fills that the copy engine accepts. -/

namespace Sys2Proof.Machine
open Sys2Proof.Claims

/-! ## OWN and WAITO (R251, R252, R127) -/

theorem exec_own (x : OwnR) (s : State) : exec (.own x) s = execOwn x s := rfl
theorem exec_waito (x : WaitoR) (s : State) : exec (.waito x) s = execWaito x s := rfl

theorem State.unitCount_of_team {s : State} {y : Team} (hy : s.curTeam = some y) (acc : Bool) :
    s.unitCount acc = if acc then y.accRows / 16 else y.slabs := by
  rw [State.unitCount, hy]
  rfl

theorem State.unitOf_of_team {s : State} {y : Team} (hy : s.curTeam = some y) (acc : Bool) (j : Nat) :
    s.unitOf acc j = unitState y acc j := by
  rw [State.unitOf, hy]
  rfl

/-- Where every lane's unit exists, no lane traps. -/
theorem State.units_exist {s : State} {y : Team} (hy : s.curTeam = some y) {acc : Bool} {unit : Nat → Nat} {ls : List Nat}
    (h : ∀ l ∈ ls, unit l < if acc then y.accRows / 16 else y.slabs) : (ls.find? fun l => s.unitCount acc ≤ unit l) = none := by
  refine List.find?_eq_none.2 fun l hl => ?_
  rw [State.unitCount_of_team hy]
  simpa using h l hl

theorem Passed.quiet {s t : State} (h : Passed s t) (hq : Claims.Quiet s) : Claims.Quiet t := by
  obtain ⟨ho, hg, -⟩ := h
  exact quiet_of_eq hq ho.cur (by rw [ho]; rfl) (by rw [hg])

theorem ownReads (nv : Nat) (x : OwnR) (s : State) (y : Team) (hnv : nv ≤ 128) (hwf : (Instr.own x).wf nv = true)
    (hy : s.curTeam = some y) (hq : Claims.Quiet s)
    (hu : ∀ l ∈ s.laneSet x.c x.d [x.u], s.src l x.u 1 < if x.acc then y.accRows / 16 else y.slabs) :
    ∃ t, exec (.own x) s = .next t ∧ FlagsKept s t ∧ Result s t x.c x.d 1 [x.u] fun l =>
      (unitState y x.acc (s.src l x.u 1)).word := by
  have hd : x.d.dst nv 1 [x.u] = true := by
    have hall := (Bool.and_eq_true_iff.1 hwf).2
    exact List.all_eq_true.1 hall _ List.mem_cons_self
  obtain ⟨t, ht, hf, hr⟩ := s.alu_plain x.c x.d 1 nv [x.u] 2 (fun l => (unitState y x.acc (s.src l x.u 1)).word) hnv (by decide) hd
  refine ⟨t, ?_, hf, hr⟩
  have hqt : Claims.Quiet t := hr.1.quiet hq
  rw [exec_own]
  unfold execOwn
  extract_lets ls unit free s1
  rw [show (ls.find? fun l => s.unitCount x.acc ≤ unit l) = none from State.units_exist hy hu]
  have hs1 : s1 = t := by
    have he : (fun l => ({ val := (s.unitOf x.acc (unit l)).word } : LaneOut)) =
        fun l => { val := (unitState y x.acc (s.src l x.u 1)).word } := by
      funext l
      rw [State.unitOf_of_team hy]
    rw [← Host.Outcome.next.inj ht]
    exact congrArg (s.alu x.c x.d 1 [x.u] (some 2) false false) he
  rw [hs1]
  refine congrArg Host.Outcome.next ?_
  split
  · exact State.withAcquire_of_quiet (fun _ => hqt) _
  · rfl

/-- The lanes whose units a WAITO reads are active, and there is one where a lane is active. -/
theorem waitoLanes {s : State} {x : WaitoR} : let ls := if x.u.isV then s.active x.c else (s.active x.c).take 1
    (∀ l ∈ ls, l ∈ s.active x.c) ∧ (ls = [] ↔ s.active x.c = []) := by
  intro ls
  unfold ls
  split
  · exact ⟨fun _ h => h, .rfl⟩
  · refine ⟨fun _ h => List.mem_of_mem_take h, ?_⟩
    cases s.active x.c <;> simp

theorem waitoReads (x : WaitoR) (s : State) (y : Team) (hy : s.curTeam = some y) (hq : Claims.Quiet s)
    (hu : ∀ l ∈ s.active x.c, s.src l x.u 1 < if x.acc then y.accRows / 16 else y.slabs) :
    ((∀ l ∈ s.active x.c, (unitState y x.acc (s.src l x.u 1)).own = false ∧
        (unitState y x.acc (s.src l x.u 1)).phase = x.ph ∧
        (unitState y x.acc (s.src l x.u 1)).backAt ≤ s.cycle s.cur.tile) →
      ∃ t, exec (.waito x) s = .next t ∧ Passed s t ∧ SameRegs s t) ∧
    ((∀ l ∈ s.active x.c, (unitState y x.acc (s.src l x.u 1)).own = true) → s.active x.c ≠ [] →
      ∃ t us, exec (.waito x) s = .next t ∧ Waits s t (.units x.acc x.ph us) ∧
        (∀ u ∈ us, ∃ l ∈ s.active x.c, u = s.src l x.u 1) ∧ us ≠ []) := by
  obtain ⟨hmem, hnil⟩ := waitoLanes (s := s) (x := x)
  obtain ⟨hp, -, hr⟩ := s.passed0_passes x.c
  rw [exec_waito]
  unfold execWaito
  extract_lets ls unit us t g
  have hus : ∀ u ∈ us, ∃ l ∈ ls, u = unit l := by
    intro u hu
    obtain ⟨l, hl, h⟩ := List.mem_map.1 (List.mem_eraseDups.1 hu)
    exact ⟨l, hl, h.symm⟩
  have hready : s.unitsReady t s.G.team x.acc x.ph us = us.all fun j => (unitState y x.acc j).ready (s.cycle t) x.ph := by
    have hT : (s.tile t).team s.G.team = some y := hy
    rw [State.unitsReady, hT]
    rfl
  rw [show (ls.find? fun l => s.unitCount x.acc ≤ unit l) = none from State.units_exist hy fun l hl => hu l (hmem l hl)]
  dsimp only
  refine ⟨fun hfree => ⟨s.passed0 x.c, ?_, hp, hr⟩, fun hown hne => ?_⟩
  · have hok : s.unitsReady t s.G.team x.acc x.ph us = true := by
      rw [hready]
      refine List.all_eq_true.2 fun u hu => ?_
      obtain ⟨l, hl, rfl⟩ := hus u hu
      obtain ⟨h1, h2, h3⟩ := hfree l (hmem l hl)
      simp [UnitSt.ready, unit, h1, h2, t, h3]
    have hacq : s.acqOk t g s.cur.sub s.nextId = true := by
      rw [State.acqOk, show s.reqsOf t g = [] from hq]
      rfl
    rw [hok, hacq]
    split <;> rfl
  · have hls : ls ≠ [] := fun h => hne (hnil.1 h)
    obtain ⟨l, ls', hl⟩ := List.exists_cons_of_ne_nil hls
    have hl' : l ∈ ls := by rw [hl]; exact List.mem_cons_self
    have humem : unit l ∈ us := List.mem_eraseDups.2 (List.mem_map_of_mem hl')
    have hno : s.unitsReady t s.G.team x.acc x.ph us = false := by
      rw [hready]
      refine List.all_eq_false.2 ⟨unit l, humem, ?_⟩
      simp [UnitSt.ready, unit, hown l (hmem l hl')]
    rw [if_neg hls, hno]
    refine ⟨_, us, rfl, s.waitOut_holds x.c _ _, fun u hu => ?_, List.ne_nil_of_mem humem⟩
    obtain ⟨m, hm, h⟩ := hus u hu
    exact ⟨m, hmem m hm, h⟩

theorem ownerBits : OwnerBits := ⟨ownReads, waitoReads⟩


/-! ## Copies and fills (R122, R253 to R255) -/

theorem amGet_foldl_amSet {α : Type} (f : Nat → α) (ls : List Nat) (m : AMap α) (k : Nat) :
    amGet (ls.foldl (fun m j => amSet m j (f j)) m) k = if k ∈ ls then some (f k) else amGet m k := by
  induction ls generalizing m with
  | nil => rfl
  | cons j ls ih =>
    rw [List.foldl_cons, ih, amGet_amSet]
    by_cases h1 : k ∈ ls <;> by_cases h2 : k = j <;> simp [h1, h2]

/-- A team whose slabs of a list have been flipped. -/
def Team.flipSlabs (y : Team) (ls : List Nat) : Team :=
  { y with slabSt := ls.foldl (fun m j => amSet m j (y.slab j).flip) y.slabSt }

theorem Team.flipSlabs_own (y : Team) {ls : List Nat} {j : Nat} (h : j ∈ ls) : ((y.flipSlabs ls).slab j).own = true := by
  have hg : (y.flipSlabs ls).slab j = (y.slab j).flip := by
    unfold Team.flipSlabs
    rw [Team.slab]
    dsimp only
    rw [amGet_foldl_amSet (fun j => (y.slab j).flip), if_pos h]
    rfl
  rw [hg]
  rfl

/-- Units at another tile are asked of a remote copy alone. -/
theorem State.copyCheck_far {s : State} {kind : Nat} {x : CopyDesc} {far place : Nat} {p : CopyParts}
    (h : s.copyCheck kind x far place = .ok p) : p.runits = [] ∨ p.rtile ≠ s.cur.tile := by
  unfold State.copyCheck at h
  split at h
  · cases h
  dsimp only at h
  split at h
  · cases h
  · cases h
  · cases h
  split at h
  · cases h
  split at h
  · cases h
  split at h
  · split at h
    · cases h
    split at h
    · cases h
    split at h
    · cases h
    split at h
    · cases h
      exact .inl rfl
    · next hne =>
      cases h
      exact .inr hne
  split at h
  · cases h
    exact .inl rfl
  split at h
  · cases h
  split at h
  · cases h
  split at h <;> cases h
  exact .inl rfl

theorem Tile.copies_setGroup (T : Tile) (g : Nat) (x : Group) : (T.setGroup g x).copies = T.copies := by
  unfold Tile.setGroup
  split <;> rfl

theorem State.tick_copies (s : State) : s.tick.T.copies = s.T.copies ∧ s.tick.due = s.due := by
  rcases s.tick_cases with h | ⟨x, k, l, -, h⟩
  · rw [h]
    exact ⟨rfl, rfl⟩
  · rw [h]
    refine ⟨?_, rfl⟩
    have hT : (s.modTile s.cur.tile fun T => T.setTeam { x with tclk := k, ticks := l }).T = s.T.setTeam { x with tclk := k, ticks := l } :=
      (s.tile_modTile _ _ _).trans (if_pos rfl)
    rw [hT]
    rfl

/-- What was due stays due when an instruction without a result passes. -/
theorem State.passed0_due (s : State) (c : Ctl) {d : Due} (h : d ∈ s.due) : d ∈ (s.passed0 c).due := by
  have hf : s.G.fpsTrap 0 = 0 := by simp [Group.fpsTrap]
  have hi : s.G.istTrap 0 = 0 := by simp [Group.istTrap]
  unfold State.passed0 State.retire
  simp only [List.foldl_nil, hf, hi, ne_eq, not_true_eq_false, if_false]
  split
  · exact h
  · exact List.mem_append_left _ h

/-- The state in which the copy engine has a command last in its queue, with its local slabs engine-owned. -/
def State.copyQueued (s : State) (cmd : CopyCmd) : State :=
  s.heard.fresh.modTile s.cur.tile fun T =>
    { T.modUnits cmd.team cmd.lunits [] UnitSt.flip with copies := T.copies ++ [cmd] }

theorem State.copyQueued_leaves {s : State} {y : Team} (hy : s.curTeam = some y) (hid : y.id = s.G.team) {cmd : CopyCmd}
    (hteam : cmd.team = s.G.team) : let u := s.copyQueued cmd
    Recorded s u ∧ u.curTeam = some (y.flipSlabs cmd.lunits) ∧ u.T.copies = s.T.copies ++ [cmd] := by
  intro u
  have hT : u.T = { s.heard.T.setTeam (y.flipSlabs cmd.lunits) with copies := s.heard.T.copies ++ [cmd] } := by
    refine ((s.heard.fresh.tile_modTile _ _ _).trans (if_pos rfl)).trans ?_
    have hteam' : (s.heard.fresh.tile s.cur.tile).team cmd.team = some y := by
      rw [hteam]
      exact (s.heard_team _).trans hy
    rw [Tile.modUnits, Tile.modTeam_of_team hteam']
    rfl
  have hG : u.G = s.heard.G := by
    rw [State.G, hT]
    exact Tile.group_setTeam _ _ _
  have hrec := s.heard_recorded
  refine ⟨⟨rfl, by rw [hG]; exact hrec.group, ?_, rfl, rfl⟩, ?_, ?_⟩
  · rw [hT]
    exact hrec.store
  · have hg : u.G.team = s.G.team := by rw [hG, hrec.group]
    have hteams (i : Nat) : u.T.team i = (s.heard.T.setTeam (y.flipSlabs cmd.lunits)).team i := by rw [hT]; rfl
    rw [State.curTeam, hteams, hg, Tile.team_setTeam]
    exact if_pos hid.symm
  · rw [hT, s.heard_T, Tile.copies_setGroup]

/-- The units at another tile become engine-owned there, and the issuing group sees no difference. -/
def State.farOwned (s : State) (p : CopyParts) : State :=
  if p.runits = [] then s else s.modTile p.rtile fun T => T.modUnits p.rteam p.runits [] UnitSt.flip

theorem State.farOwned_T {s : State} {p : CopyParts} (h : p.runits = [] ∨ p.rtile ≠ s.cur.tile) :
    (s.farOwned p).T = s.T ∧ (s.farOwned p).cur = s.cur ∧ (s.farOwned p).mem = s.mem ∧ (s.farOwned p).host = s.host := by
  unfold State.farOwned
  split
  · exact ⟨rfl, rfl, rfl, rfl⟩
  · next hne => exact ⟨(s.tile_modTile _ _ _).trans (if_neg (h.resolve_left hne).symm), rfl, rfl, rfl⟩

/-- The far address of a copy: within a tile for the copies between scratchpads (R253). -/
def copyFar (kind v : Nat) : Nat := if kind = 2 || kind = 3 then v % 2 ^ 32 else v

section
variable {s : State} {c : Ctl} {kind l : Nat} {two : Bool} {a b : Reg} {d : CopyDesc} {p : CopyParts} {y : Team}

/-- The command that a copy or fill queues. -/
def State.copyCommand (s : State) (kind : Nat) (d : CopyDesc) (p : CopyParts) (far place pat : Nat) : CopyCmd :=
  { id := s.nextId, kind := kind, team := s.G.team, slot := s.cur.slot, pc := s.cur.pc, word := s.cur.word, loff := d.loff
    rows := d.rows, rowb := d.rowb, fstride := d.fstride, lstride := d.lstride, d := d.d, far := far, rtile := p.rtile
    rteam := p.rteam, place := place, pat := BitVec.ofNat 32 pat, due := s.dueTime s.cur.tile s.curTeam s.T.cap d.d, held := p.held
    lunits := p.lunits, runits := p.runits, ran := false, hor := 0 }

/-- A copy or fill whose checks hold, with room in the queue and free units, is queued and passes. -/
theorem State.copyIssue_queues (hact : (s.active c).head? = some l) (hd : parseDesc (s.src l b 4) two = .ok d)
    (hc : s.copyCheck kind d (copyFar kind (s.src l a 2)) (s.src l a 2 / 2 ^ 32) = .ok p) (hroom : s.T.copies.length < 16)
    (hown : s.copyOwned p = none) (hwait : s.engineWait = false) (pat : Nat) :
    s.copyIssue c kind two pat a b = State.passed0 ((((s.copyQueued (s.copyCommand kind d p (copyFar kind (s.src l a 2))
      (s.src l a 2 / 2 ^ 32) pat)).farOwned p).push [.copyEngineCommand s.cur.tile]).tick) c := by
  obtain ⟨ls, hls⟩ := List.head?_eq_some_iff.1 hact
  have hc' : s.copyCheck kind d (if kind = 2 || kind = 3 then s.src l a 2 % 2 ^ 32 else s.src l a 2) (s.src l a 2 / 2 ^ 32) = .ok p := hc
  unfold State.copyIssue
  rw [hls]
  dsimp only
  rw [hd]
  dsimp only
  rw [hc']
  dsimp only
  rw [if_neg (Nat.not_le.2 hroom), hown]
  dsimp only
  rw [if_neg (by rw [hwait]; exact Bool.false_ne_true)]
  rfl

theorem State.copyIssue_accepted (hact : (s.active c).head? = some l) (hy : s.curTeam = some y) (hid : y.id = s.G.team)
    (hd : parseDesc (s.src l b 4) two = .ok d)
    (hc : s.copyCheck kind d (copyFar kind (s.src l a 2)) (s.src l a 2 / 2 ^ 32) = .ok p) (hroom : s.T.copies.length < 16)
    (hown : s.copyOwned p = none) (hwait : s.engineWait = false) (pat : Nat) :
    Accepted s (s.copyIssue c kind two pat a b) kind d (copyFar kind (s.src l a 2)) p := by
  rw [State.copyIssue_queues hact hd hc hroom hown hwait pat]
  set cmd := s.copyCommand kind d p (copyFar kind (s.src l a 2)) (s.src l a 2 / 2 ^ 32) pat with hcmd
  obtain ⟨hr, hteam, hcopies⟩ := s.copyQueued_leaves hy hid (cmd := cmd) rfl
  set u := s.copyQueued cmd
  obtain ⟨hT, hcur, hm, hh⟩ := u.farOwned_T (p := p) (by rw [hr.cur]; exact s.copyCheck_far hc)
  set v := (u.farOwned p).push [.copyEngineCommand s.cur.tile] with hv
  have hvT : v.T = u.T := hT
  have hvG : v.G = u.G := by rw [State.G, State.G, hvT]; exact congrArg (fun c : Cur => u.T.group c.slot) hcur
  have hvr : Recorded s v := hr.trans ⟨hcur, by rw [hvG], by rw [hvT], hm, hh⟩
  have hvteam : v.curTeam = some (y.flipSlabs p.lunits) := by
    rw [State.curTeam, hvT, hvG]
    exact hteam
  obtain ⟨hwr, hwG, -, hwdata, hwteam⟩ := v.tick_leaves
  obtain ⟨hwcopies, hwdue⟩ := v.tick_copies
  set w := v.tick
  have hdata : w.teamData = s.teamData := by
    rw [hwdata, State.teamData, State.teamData, hvteam, hy]
    rfl
  have hun : Unseen s w := (hvr.trans hwr).unseen hdata
  obtain ⟨hregs, hsteps, hsteady⟩ := hun.passes_steady (hvr.trans hwr).mem (hvr.trans hwr).host c
  obtain ⟨hpass, -, -⟩ := w.passed0_passes c
  obtain ⟨ho, hg, -⟩ := hpass
  have ⟨⟨m1, m2, _, m4, m5, _⟩, hflags⟩ := hsteady
  refine ⟨⟨⟨hsteps, hregs, hflags, m1, m2, m4, m5⟩, hsteady⟩, ?_, cmd, ?_, rfl, rfl, rfl, rfl, rfl, rfl, rfl, rfl, rfl,
    fun _ z hz j hj => ?_⟩
  · refine w.passed0_due c ?_
    rw [hwdue]
    exact List.mem_append_right _ (List.mem_singleton.2 rfl)
  · rw [ho.T, Tile.copies_setGroup, hwcopies, hvT, hcopies]
  · obtain ⟨k, i, hk⟩ := hwteam _ hvteam
    have hpteam : (w.passed0 c).curTeam = w.curTeam := by
      have : (w.passed0 c).G.team = w.G.team := by rw [hg]
      rw [State.curTeam, State.curTeam, ho.team, this]
    rw [hpteam, hk] at hz
    rw [← Option.some.inj hz]
    exact y.flipSlabs_own hj

end

theorem exec_copyOps {k : (CpyR → Instr) × Nat} (hk : k ∈ copyOps) (x : CpyR) (s : State) :
    exec (k.1 x) s = .next (s.copyIssue x.c k.2 x.two 0 x.a x.b) := by
  simp only [copyOps, List.mem_cons, List.not_mem_nil, or_false] at hk
  rcases hk with rfl | rfl | rfl | rfl <;> rfl

theorem exec_fillOps {k : (FillR → Instr) × Nat} (hk : k ∈ fillOps) (x : FillR) (s : State) :
    exec (k.1 x) s = .next (s.copyIssue x.c k.2 x.two (s.fillPat x) x.a x.b) := by
  simp only [fillOps, List.mem_cons, List.not_mem_nil, or_false] at hk
  rcases hk with rfl | rfl <;> rfl

theorem copyAccept : CopyAccept := by
  refine ⟨?_, ?_⟩
  · intro k hk x s l d p y far hact hy hid hd hc hroom hown hwait
    have hfar : copyFar k.2 (s.src l x.a 2) = far := by simp [copyFar, far]
    rw [exec_copyOps hk]
    exact ⟨_, rfl, hfar ▸ State.copyIssue_accepted hact hy hid hd (by rw [hfar]; exact hc) hroom hown hwait 0⟩
  · intro k hk x s l d p y hact hy hid hd hc hroom hown hwait
    have hfar : copyFar k.2 (s.src l x.a 2) = s.src l x.a 2 := by
      simp only [fillOps, List.mem_cons, List.not_mem_nil, or_false] at hk
      rcases hk with rfl | rfl <;> rfl
    rw [exec_fillOps hk]
    exact ⟨_, rfl, hfar ▸ State.copyIssue_accepted hact hy hid hd (by rw [hfar]; exact hc) hroom hown hwait _⟩

/-- Settles O28: OWN and WAITO read the units of the issuing team, and a copy or fill that passes its checks joins the queue. -/
theorem ownersAndCopies : Obligations.OwnersAndCopies := ⟨ownerBits, copyAccept⟩

end Sys2Proof.Machine
end

section
/-! PROOFS. Stores and atomics at their homes: what an application leaves in memory, and what an acknowledgement leaves in the record
of its instruction and in the release horizon. -/

namespace Sys2Proof.Machine
open Sys2Proof.Claims

theorem exec_sliceStoreApply (id : Nat) (s : State) : exec (.sliceStoreApply id) s = execSliceStoreApply id s := rfl
theorem exec_storeAck (id : Nat) (s : State) : exec (.storeAck id) s = execStoreAck id s := rfl
theorem exec_sliceAtomicApply (id : Nat) (s : State) : exec (.sliceAtomicApply id) s = execSliceAtomicApply id s := rfl
theorem exec_atomResponse (id : Nat) (s : State) : exec (.atomResponse id) s = execAtomResponse id s := rfl
theorem exec_sliceGather (id : Nat) (s : State) : exec (.sliceGather id) s = execSliceGather id s := rfl

theorem Memory.read_lt (m : List Host.Cell) (a n : Nat) : Memory.read m a n < 256 ^ n := by
  induction n generalizing a with
  | zero => exact Nat.one_pos
  | succ n ih =>
    have := ih (a + 1)
    have := (Memory.get m a).isLt
    rw [Memory.read, pow_succ]
    omega

/-! ## A store at its home (R107, R112) -/

/-- A completion time is the home field's time or later, and with it wafer time or later (R112, R379). -/
theorem State.wtime_le_complTime (s : State) (pa : Nat) : s.wtime ≤ s.complTime pa :=
  (Nat.le_max_left _ _).trans (Nat.le_max_left _ _)

theorem State.putMem_wtime (s : State) (pa n v : Nat) : (s.putMem pa n v).wtime = s.wtime := by
  rw [State.putMem, (State.report_grows _).frame]
  rfl

theorem Twin.wtime {s t : State} (h : Twin s t) : t.wtime = s.wtime := by
  rw [h]
  rfl

theorem storeApplies : StoreApplies := by
  intro id v s r ⟨hreq, hperf, hline⟩ hk hst
  have hu := s.served_twin r (!r.vol && !r.noAlloc) true
  set x := s.l2Touch r.tag r.owner r.pa r.d r.due (!r.vol && !r.noAlloc) true with hx
  set u := (x.1.countServed r x.2).clearPoison r.pa r.size with hu0
  set w := (u.putMem r.pa r.size v).patchFills r v with hw
  have hmem : w.mem = Memory.write s.mem r.pa r.size v :=
    (u.mem_putMem r.pa r.size v).trans (congrArg (Memory.write · r.pa r.size v) hu.mem)
  have hnow : w.wtime = s.wtime := (u.putMem_wtime r.pa r.size v).trans hu.wtime
  refine ⟨(w.setReq id { r with perf := true, comp := w.complTime r.pa }).push [.storeAck id], _, ?_, amGet_amSet_same _ _ _, rfl,
    hnow ▸ w.wtime_le_complTime r.pa, ?_, fun a ha => ?_, State.dueEv_push _ (List.mem_singleton.2 rfl)⟩
  · rw [exec_sliceStoreApply, execSliceStoreApply]
    simp only [hreq, hk, hperf, hline, hst, ← hx, ← hu0, ← hw]
    rfl
  · exact (congrArg (Memory.read · r.pa r.size) hmem).trans (Memory.read_write _ _ _ _)
  · exact (congrArg (Memory.get · a) hmem).trans (Memory.get_write_outside _ _ _ _ _ ha)

/-! ## Acknowledgements (R107, R112, R114, R334) -/

theorem Group.rh_outMod (g : Group) (iid : Nat) (f : OutInst → OutInst) : (g.outMod iid f).rh = g.rh := rfl

/-- An answer changes records of the tiles and steps due alone, and no release horizon. -/
theorem State.outDone_leaves (s : State) (t g iid : Nat) (ws : List (Nat × Nat × W32)) (fl : Nat) : let u := s.outDone t g iid ws fl
    u = { s with tiles := u.tiles, due := u.due } ∧ ((u.tile t).group g).rh = ((s.tile t).group g).rh := by
  unfold State.outDone
  split
  · exact ⟨rfl, rfl⟩
  · have hrh (f : OutInst → OutInst) : (((s.modGroup t g fun G => G.outMod iid f).tile t).group g).rh = ((s.tile t).group g).rh := by
      rw [State.modGroup_group, Group.rh_outMod]
    dsimp only
    split <;> exact ⟨rfl, hrh _⟩

@[simp] theorem Tile.group_modTeam (T : Tile) (i : Nat) (f : Team → Team) (g : Nat) : (T.modTeam i f).group g = T.group g := by
  unfold Tile.modTeam
  split
  · exact Tile.group_setTeam _ _ _
  · rfl

/-- A completion time enters the horizon of the group that sent the request. -/
theorem State.ackRh_group (s : State) (r : Req) (c : Nat) : let G := (s.tile r.tile).group r.slot
    ((s.ackRh r c).tile r.tile).group r.slot = if G.gid = r.gid then { G with rh := max G.rh c } else G := by
  intro G
  unfold State.ackRh
  rw [State.tile_modTile, if_pos rfl]
  dsimp only
  rw [Tile.group_modTeam]
  split
  · rw [Tile.group_setGroup_same]
  · rw [Tile.group_modTeam]

theorem State.ackRh_rh {s : State} {r : Req} (h : ((s.tile r.tile).group r.slot).gid = r.gid) (c : Nat) :
    (((s.ackRh r c).tile r.tile).group r.slot).rh = max ((s.tile r.tile).group r.slot).rh c := by
  rw [State.ackRh_group, if_pos h]

theorem State.ackRh_out (s : State) (r : Req) (c iid : Nat) :
    (((s.ackRh r c).tile r.tile).group r.slot).outOf iid = ((s.tile r.tile).group r.slot).outOf iid := by
  rw [State.ackRh_group]
  split <;> rfl

/-- A request ends with its completion time in the release horizon and its writes in the record; tiles apart from that, memory and
the other requests are as in the state in which it ends. -/
theorem State.acks_and_ends {s : State} (u : State) {id : Nat} {r : Req} {o : OutInst}
    (ho : ((s.tile r.tile).group r.slot).outOf r.iid = some o) (ht : u.tiles = s.tiles) (hm : u.mem = s.mem)
    (hr : u.reqs = amDel s.reqs id) (c : Nat) (ws : List (Nat × Nat × W32)) (fl : Nat) :
    let t := (u.ackRh r c).outDone r.tile r.slot r.iid ws fl
    t.req id = none ∧ Answered s t r o ws fl ∧ (((s.tile r.tile).group r.slot).gid = r.gid →
      ((t.tile r.tile).group r.slot).rh = max ((s.tile r.tile).group r.slot).rh c) := by
  have htile : u.tile r.tile = s.tile r.tile := State.tile_of_tiles ht _
  obtain ⟨⟨hrec, hdue, hmem⟩, hreqs⟩ := State.outDone_answered (s := u.ackRh r c) (r := r) (o := o)
    (by rw [State.ackRh_out, htile, ho]) ws fl
  refine ⟨?_, ⟨hrec, hdue, hmem.trans hm⟩, fun hgid => ?_⟩
  · rw [State.req, hreqs]
    exact (congrArg (amGet · id) hr).trans ((amGet_amDel _ _ _).trans (if_pos rfl))
  · rw [(State.outDone_leaves _ _ _ _ _ _).2, State.ackRh_rh (by rw [htile, hgid]), htile]

section
variable {id v : Nat} {s : State} {r : Req} {o : OutInst} (h : Waiting s id r o)
include h

/-- The acknowledgement of a store to plinth memory. -/
theorem storeAcked (hk : r.kind = .store v) (hperf : r.perf = true) (hecc : r.ecc = 0)
    (hfill : ∀ q ∈ s.reqs, q.1 ≠ id → q.2.isFill r.tile (r.pa / 128) = false) (hgid : ((s.tile r.tile).group r.slot).gid = r.gid) :
    ∃ t, exec (.storeAck id) s = .next t ∧ t.req id = none ∧ Answered s t r o [] 0 ∧
      ((t.tile r.tile).group r.slot).rh = max ((s.tile r.tile).group r.slot).rh r.comp := by
  obtain ⟨hreq, hlive, ho⟩ := h
  obtain ⟨hnone, hans, hrh⟩ := State.acks_and_ends (s.delReq id) ho rfl rfl rfl r.comp [] 0
  refine ⟨_, ?_, hnone, hans, hrh hgid⟩
  have hany : (s.reqs.any fun q => decide (q.1 ≠ id) && q.2.isFill r.tile (r.pa / 128)) = false :=
    List.any_eq_false.2 fun q hq hc => by
      obtain ⟨hne, hf⟩ := Bool.and_eq_true_iff.1 hc
      rw [hfill q hq (of_decide_eq_true hne)] at hf
      cases hf
  rw [exec_storeAck, execStoreAck]
  simp only [hreq, hlive, hk, hperf, hecc, hany]
  rfl

/-- A store through a host window writes host memory, and its request stays for the flush of its link (R114). -/
theorem hostStoreWritten {w off : Nat} (hk : r.kind = .hostStore v) (hperf : r.perf = false) (hr : regionOf r.pa = .host w off)
    (hw : s.flitWaits id = false) : let k := hostKey w (s.ctx r.tag r.ctx) off
    ∃ t q, exec (.storeAck id) s = .next t ∧ t.req id = some q ∧ q.perf = true ∧ Answered s t r o [] 0 ∧
      Memory.read t.host k r.size = v % 256 ^ r.size ∧
      ∀ a, a < k ∨ k + r.size ≤ a → Memory.get t.host a = Memory.get s.host a := by
  intro k
  obtain ⟨hreq, hlive, ho⟩ := h
  set q : Req := { r with perf := true } with hq
  set u := ((s.setHost (Memory.write s.host k r.size v)).chargeHost r.owner r.size).setReq id q with hu
  obtain ⟨hans, hreqs⟩ := State.outDone_answered (s := u) (r := r) (o := o) ho [] 0
  have hhost : (u.outDone r.tile r.slot r.iid [] 0).host = Memory.write s.host k r.size v := by
    rw [(u.outDone_leaves _ _ _ _ _).1]
    rfl
  refine ⟨_, q, ?_, (congrArg (amGet · id) hreqs).trans (amGet_amSet_same _ _ _), rfl, hans, ?_, fun a ha => ?_⟩
  · rw [exec_storeAck, execStoreAck]
    simp only [hreq, hlive, hk, hperf, hw, hr, hu, hq]
    rfl
  · rw [hhost, Memory.read_write]
  · rw [hhost, Memory.get_write_outside _ _ _ _ _ ha]

/-- A peer answers a store with its completion time or with a refusal, by a free choice (log 34). -/
theorem peerStoreAnswered (hk : r.kind = .peerStore v) (hgid : ((s.tile r.tile).group r.slot).gid = r.gid)
    (hw : s.flitWaits id = false) : ∃ t p, exec (.storeAck id) s = .next t ∧ t.req id = none ∧
      ((t.tile r.tile).group r.slot).outOf r.iid = some p ∧ p.rem = o.rem - 1 ∧ p.res = o.res ∧
      (r.ecc = 0 → Config.pick s.free 3 % 3 = 0 → Answered s t r o [] 0 ∧
        ((t.tile r.tile).group r.slot).rh = max ((s.tile r.tile).group r.slot).rh (Config.freeNat (s.free + 1) + 8)) ∧
      ((r.ecc ≠ 0 ∨ Config.pick s.free 3 % 3 ≠ 0) →
        ((t.tile r.tile).group r.slot).rh = ((s.tile r.tile).group r.slot).rh) := by
  obtain ⟨hreq, hlive, ho⟩ := h
  set u := (if r.ecc = 0 then (s.delReq id).chargeJar r.owner r.size else s.delReq id).drawn with hu
  have hleaves : u.tiles = s.tiles ∧ u.mem = s.mem ∧ u.reqs = amDel s.reqs id := by
    rw [hu]
    split <;> exact ⟨rfl, rfl, rfl⟩
  obtain ⟨ht, hm, hr⟩ := hleaves
  set answer := if r.ecc ≠ 0 then 1 else Config.pick s.free 3 % 3 with hanswer
  by_cases hzero : answer = 0
  · have hecc : r.ecc = 0 := by
      by_contra hne
      rw [hanswer, if_pos hne] at hzero
      cases hzero
    have hpick : Config.pick s.free 3 % 3 = 0 := (if_neg (not_not_intro hecc)).symm.trans hzero
    obtain ⟨hnone, hans, hrh⟩ := State.acks_and_ends u ho ht hm hr (Config.freeNat (s.free + 1) + 8) [] 0
    obtain ⟨p, hp, hrem, hres, -⟩ := hans.1
    refine ⟨_, p, ?_, hnone, hp, hrem, hres.trans (List.append_nil _), fun _ _ => ⟨hans, hrh hgid⟩, fun hor => ?_⟩
    · rw [exec_storeAck, execStoreAck]
      simp only [hreq, hlive, hk, hw, ← hu, ← hanswer, hzero]
      rfl
    · rcases hor with h | h
      · exact absurd hecc h
      · exact absurd hpick h
  · set e : EvRec := { kind := 3, gslot := r.slot, place := (s.tile r.tile).place, value := answer
                       info := if answer = 2 then Config.freeNat (s.free + 2) % 2 ^ 64 else 0 } with he
    have hpost : (u.post r.tag r.ctx e).tiles = s.tiles := (u.post_sameWork r.tag r.ctx e).tiles.trans ht
    have hpreqs : (u.post r.tag r.ctx e).reqs = amDel s.reqs id := by rw [(u.post_notified r.tag r.ctx e).frame, hr]
    have htile : (u.post r.tag r.ctx e).tile r.tile = s.tile r.tile := State.tile_of_tiles hpost _
    obtain ⟨⟨⟨p, hp, hrem, hres, -⟩, -⟩, hreqs⟩ := State.outDone_answered (s := u.post r.tag r.ctx e) (r := r) (o := o)
      (by rw [htile, ho]) [] 0
    refine ⟨_, p, ?_, ?_, hp, hrem, hres.trans (List.append_nil _), fun hecc hpick => ?_, fun _ => ?_⟩
    · rw [exec_storeAck, execStoreAck]
      simp only [hreq, hlive, hk, hw, ← hu, ← hanswer, ← he]
      exact if_pos hzero
    · rw [State.req, hreqs, hpreqs, amGet_amDel, if_pos rfl]
    · exact absurd ((if_neg (not_not_intro hecc)).trans hpick) hzero
    · rw [(State.outDone_leaves _ _ _ _ _ _).2, htile]

end

theorem storeAcks : StoreAcks := fun _ _ _ _ h =>
  ⟨fun _ => storeAcked h, fun _ _ _ => hostStoreWritten h, fun _ => peerStoreAnswered h⟩

/-! ## Atomics at their homes (R119, R245) -/

/-- What an atomic leaves of memory and of the fields when it has read `old` and its slice has been touched. -/
def State.atWritten (s : State) (r : Req) (n : Nat × Bool × Nat) : State :=
  (if n.2.1 then s.putMem r.pa r.size n.1 else s).killFills r

theorem State.atWritten_leaves (s : State) (r : Req) (op : AtOp) (b d : Nat) : let old := Memory.read s.mem r.pa r.size
    let t := s.atWritten r (atApply op old b d)
    Memory.read t.mem r.pa r.size = atomNew op old b d % 256 ^ r.size ∧
      (∀ a, a < r.pa ∨ r.pa + r.size ≤ a → Memory.get t.mem a = Memory.get s.mem a) ∧ ∀ f, t.field f = s.field f := by
  intro old t
  by_cases hn : (atApply op old b d).2.1 = true
  · have ht : t = (s.putMem r.pa r.size (atApply op old b d).1).killFills r := congrArg (State.killFills · r) (if_pos hn)
    have hmem : t.mem = Memory.write s.mem r.pa r.size (atomNew op old b d) := by
      rw [ht, ← atApply_value]
      exact s.mem_putMem r.pa r.size _
    refine ⟨by rw [hmem, Memory.read_write], fun a ha => by rw [hmem, Memory.get_write_outside _ _ _ _ _ ha], fun f => ?_⟩
    have hf : (s.putMem r.pa r.size (atApply op old b d).1).field f = s.field f := by
      rw [State.putMem, (State.report_grows _).frame]
      rfl
    rw [ht]
    exact hf
  · have ht : t = s.killFills r := congrArg (State.killFills · r) (if_neg hn)
    have hmem : t.mem = s.mem := by rw [ht]; rfl
    refine ⟨?_, fun a _ => by rw [hmem], fun f => by rw [ht]; rfl⟩
    rw [hmem, atomNew_of_not_written (Bool.not_eq_true _ ▸ hn), Nat.mod_eq_of_lt (Memory.read_lt _ _ _)]

/-- The state in which a slice has met an access of a request, at a line of its own for each element of a gather. -/
def State.met (s : State) (r : Req) (pa : Nat) (wr : Bool) : State :=
  let x := s.l2Touch r.tag r.owner pa r.d r.due true wr
  x.1.countServed r x.2

theorem State.met_twin (s : State) (r : Req) (pa : Nat) (wr : Bool) : Twin s (s.met r pa wr) :=
  (s.l2Touch_cached _ _ _ _ _ _).twin.trans (State.countServed_counted _ _ _).twin

section
variable {id : Nat} {s : State} {r : Req} (ht : Turn s id r) (hr : regionOf r.pa = .plinth)
  (hp : s.poisoned r.pa r.size = false)
include ht hr hp

/-- An ATOM at its home reads and writes its word in one step and keeps the old value for its answer. -/
theorem atomApplied {op : AtOp} {b d : Nat} (hk : r.kind = .atom op b d) : let old := Memory.read s.mem r.pa r.size
    ∃ t q, exec (.sliceAtomicApply id) s = .next t ∧ t.req id = some q ∧ q.perf = true ∧ q.val = old ∧
      Memory.read t.mem r.pa r.size = atomNew op old b d % 256 ^ r.size ∧
      (∀ a, a < r.pa ∨ r.pa + r.size ≤ a → Memory.get t.mem a = Memory.get s.mem a) ∧ DueEv t (.atomResponse id) := by
  intro old
  obtain ⟨hreq, hperf, hline⟩ := ht
  set u := s.met r r.pa true with hu
  have hmem : u.mem = s.mem := (s.met_twin r r.pa true).mem
  set w := u.atWritten r (atApply op (Memory.read u.mem r.pa r.size) b d) with hw
  obtain ⟨hnew, hout, -⟩ := u.atWritten_leaves r op b d
  rw [← hw] at hnew hout
  refine ⟨(w.setReq id { r with
      perf := true, val := Memory.read u.mem r.pa r.size, flags := (atApply op (Memory.read u.mem r.pa r.size) b d).2.2
      comp := w.complTime r.pa }).push [.atomResponse id], _, ?_, amGet_amSet_same _ _ _, rfl, by rw [hmem], ?_, ?_,
    State.dueEv_push _ (List.mem_singleton.2 rfl)⟩
  · rw [exec_sliceAtomicApply, execSliceAtomicApply]
    simp only [hreq, hk, hperf, hline, hr, hp]
    rfl
  · rw [hmem] at hnew
    exact hnew
  · rw [hmem] at hout
    exact hout

/-- A RED at its home leaves its flags in the status entry of its partition there. -/
theorem redApplied {op : AtOp} {b : Nat} (hk : r.kind = .red op b) : let old := Memory.read s.mem r.pa r.size
    ∃ t q, exec (.sliceAtomicApply id) s = .next t ∧ t.req id = some q ∧ q.perf = true ∧
      Memory.read t.mem r.pa r.size = atomNew op old b 0 % 256 ^ r.size ∧
      (∀ a, a < r.pa ∨ r.pa + r.size ≤ a → Memory.get t.mem a = Memory.get s.mem a) ∧
      (amGet (t.field (homeField r.pa)).status r.tag).getD 0 =
        ((amGet (s.field (homeField r.pa)).status r.tag).getD 0 ||| q.flags) ∧ DueEv t (.atomResponse id) := by
  intro old
  obtain ⟨hreq, hperf, hline⟩ := ht
  set u := s.met r r.pa true with hu
  have hmem : u.mem = s.mem := (s.met_twin r r.pa true).mem
  set n := atApply op (Memory.read u.mem r.pa r.size) b 0 with hn
  set w := u.atWritten r n with hw
  set F := w.field (homeField r.pa) with hF
  set v := w.setField (homeField r.pa) { F with status := amPut 0 F.status r.tag ((amGet F.status r.tag).getD 0 ||| n.2.2) } with hv
  obtain ⟨hnew, hout, hfield⟩ := u.atWritten_leaves r op b 0
  rw [← hn, ← hw] at hnew hout hfield
  refine ⟨(v.setReq id { r with
      perf := true, val := Memory.read u.mem r.pa r.size, flags := n.2.2, comp := v.complTime r.pa }).push [.atomResponse id], _, ?_,
    amGet_amSet_same _ _ _, rfl, ?_, ?_, ?_, State.dueEv_push _ (List.mem_singleton.2 rfl)⟩
  · rw [exec_sliceAtomicApply, execSliceAtomicApply]
    simp only [hreq, hk, hperf, hline, hr, hp]
    rfl
  · rw [hmem] at hnew
    exact hnew
  · rw [hmem] at hout
    exact hout
  · have hsF : F = s.field (homeField r.pa) := (hfield _).trans ((s.met_twin r r.pa true).field _)
    rw [← hsF]
    have hvF : v.field (homeField r.pa) = _ := w.field_setField_same _ _
    refine (congrArg (fun G : Field => (amGet G.status r.tag).getD 0) hvF).trans ?_
    rw [amGet_amPut]
    simp

end

theorem atomicApplies : AtomicApplies := fun _ _ _ ht hr hp =>
  ⟨fun _ _ _ hk => atomApplied ht hr hp hk, fun _ _ hk => redApplied ht hr hp hk⟩

/-! ## Answers of atomics (R119, R246) -/

section
variable {id : Nat} {s : State} {r : Req} {o : OutInst} (h : Waiting s id r o) (hperf : r.perf = true) (hecc : r.ecc = 0)
include h hperf hecc

theorem atomAnswered {op : AtOp} {b d : Nat} (hk : r.kind = .atom op b d) :
    ∃ t, exec (.atomResponse id) s = .next t ∧ t.req id = none ∧ Answered s t r o (r.writes r.val) r.flags := by
  obtain ⟨hreq, hlive, ho⟩ := h
  obtain ⟨hnone, hans, -⟩ := State.acks_and_ends (s.delReq id) ho rfl rfl rfl r.comp (r.writes r.val) r.flags
  refine ⟨_, ?_, hnone, hans⟩
  rw [exec_atomResponse, execAtomResponse]
  simp only [hreq, hlive, hk, hperf, hecc]
  rfl

theorem redAnswered {op : AtOp} {b : Nat} (hk : r.kind = .red op b) :
    ∃ t, exec (.atomResponse id) s = .next t ∧ t.req id = none ∧ Answered s t r o [] 0 := by
  obtain ⟨hreq, hlive, ho⟩ := h
  obtain ⟨hnone, hans, -⟩ := State.acks_and_ends (s.delReq id) ho rfl rfl rfl r.comp [] 0
  refine ⟨_, ?_, hnone, hans⟩
  rw [exec_atomResponse, execAtomResponse]
  simp only [hreq, hlive, hk, hperf, hecc]
  rfl

end

/-! ## Gathers (R248) -/

/-- Words set side by side, the first in the low bits, come back one by one. -/
theorem foldr_words_div_mod {w : Nat → Nat} (hw : ∀ a, w a < 2 ^ 32) {l : List Nat} {j : Nat} (hj : j < l.length) :
    (l.foldr (fun a acc => w a + 2 ^ 32 * acc) 0) / 2 ^ (32 * j) % 2 ^ 32 = w l[j] := by
  induction l generalizing j with
  | nil => cases hj
  | cons a l ih =>
    have ha := hw a
    rw [List.foldr_cons]
    cases j with
    | zero =>
      rw [Nat.mul_zero, Nat.pow_zero, Nat.div_one, Nat.add_mul_mod_self_left, Nat.mod_eq_of_lt ha]
      rfl
    | succ j =>
      rw [Nat.mul_succ, Nat.add_comm (32 * j), pow_add, ← Nat.div_div_eq_div_mul, Nat.add_mul_div_left _ _ (by norm_num),
        Nat.div_eq_of_lt ha, Nat.zero_add, ih (Nat.lt_of_succ_lt_succ hj)]
      rfl

/-- A gather that meets no poison takes each of its words from memory. -/
theorem gatherServed {id : Nat} {s : State} {r : Req} {idx : List Nat} (hreq : s.req id = some r) (hperf : r.perf = false)
    (hline : s.lineOrder id r = true) (hteam : s.teamOrder id r = true) (hk : r.kind = .gather idx)
    (hp : ∀ i ∈ idx, s.poisoned (r.pa + 4 * i) 4 = false) :
    ∃ t q, exec (.sliceGather id) s = .next t ∧ t.mem = s.mem ∧ t.req id = some q ∧ q.perf = true ∧
      (∀ j < idx.length, q.val / 2 ^ (32 * j) % 2 ^ 32 = Memory.read s.mem (r.pa + 4 * idx.getD j 0) 4) ∧
      DueEv t (.loadResponse id) := by
  set pas := idx.map fun i => r.pa + 4 * i with hpas
  set u := pas.foldl (fun s a => s.met r a false) s with hu
  have htwin : Twin s u :=
    List.foldlRecOn pas _ (motive := Twin s) (.refl s) fun v hv a _ => hv.trans (v.met_twin r a false)
  have hfind : (pas.find? fun a => u.poisoned a 4) = none := by
    refine List.find?_eq_none.2 fun a ha hpa => ?_
    obtain ⟨i, hi, rfl⟩ := List.mem_map.1 ha
    have hpoison : u.poisoned (r.pa + 4 * i) 4 = s.poisoned (r.pa + 4 * i) 4 := by rw [htwin]; rfl
    rw [hpoison, hp i hi] at hpa
    cases hpa
  refine ⟨_, _, ?_, (setReq_push_leaves htwin id { r with
      perf := true, val := pas.foldr (fun a acc => Memory.read u.mem a 4 + 2 ^ 32 * acc) 0 } (.loadResponse id)).1,
    amGet_amSet_same _ _ _, rfl, fun j hj => ?_, State.dueEv_push _ (List.mem_singleton.2 rfl)⟩
  · rw [exec_sliceGather, execSliceGather]
    simp only [hreq, hk, hperf, hline, hteam]
    refine (if_neg (by decide)).trans ((if_neg (by decide)).trans ?_)
    split
    · next a e => cases hfind.symm.trans e
    · rfl
  · have hlen : j < pas.length := by rwa [hpas, List.length_map]
    rw [foldr_words_div_mod (fun a => Memory.read_lt u.mem a 4) hlen, htwin.mem]
    simp [hpas, hj]

theorem atomicAnswers : AtomicAnswers :=
  ⟨fun _ _ _ _ h hperf hecc => ⟨fun _ _ _ => atomAnswered h hperf hecc, fun _ _ => redAnswered h hperf hecc⟩,
    fun _ _ _ _ => gatherServed⟩

/-- Settles O40: stores and atomics by the memory that their application leaves, acknowledgements by the record and the horizon. -/
theorem storeAtomicSteps : Obligations.StoreAtomicSteps := ⟨storeApplies, storeAcks, atomicApplies, atomicAnswers⟩

end Sys2Proof.Machine
end

section
/-! PROOFS. The copy engine: bytes that it puts into scratchpads and memory, the end of a command whose traffic is dropped, and the
return of units by the engines. -/

namespace Sys2Proof.Machine
open Sys2Proof.Claims

theorem exec_copyEngineCommand (tile : Nat) (s : State) : exec (.copyEngineCommand tile) s = execCopyEngineCommand tile s := rfl
theorem exec_engineFlipBack (tile : Nat) (array : Bool) (s : State) :
    exec (.engineFlipBack tile array) s = execEngineFlipBack tile array s := rfl

theorem State.tile_modTile_same (s : State) (t : Nat) (f : Tile → Tile) : (s.modTile t f).tile t = f (s.tile t) :=
  (s.tile_modTile t t f).trans (if_pos rfl)

/-! ## Records that stop no lane (R377, R390) -/

theorem Tile.arr_setGroup (T : Tile) (g : Nat) (x : Group) : (T.setGroup g x).arr = T.arr := by
  unfold Tile.setGroup
  split <;> rfl

theorem Tile.teams_setGroup (T : Tile) (g : Nat) (x : Group) : (T.setGroup g x).ctl.teams = T.ctl.teams := by
  rw [Tile.ctl_setGroup]

/-- What a record of an engine leaves: its own fields last among the group's records, and teams, copies and array as before. -/
structure Noted (s t : State) (tile slot pc : Nat) (cls : TrapClass) (cause info1 : Nat) : Prop where
  mem : t.mem = s.mem
  copies : (t.tile tile).copies = (s.tile tile).copies
  teams : (t.tile tile).ctl.teams = (s.tile tile).ctl.teams
  arr : (t.tile tile).arr = (s.tile tile).arr
  record : ∃ y, ((t.tile tile).group slot).lastTrap = some y ∧ y.cls = cls ∧ y.cause = cause ∧ y.info1 = info1 ∧ y.pc = pc ∧
    y.lanes = 0

theorem State.noteTrap_noted (s : State) (t g pc : Nat) (word : W64) (cls : TrapClass) (cause info1 info2 : Nat) :
    Noted s (s.noteTrap t g pc word cls cause info1 info2) t g pc cls cause info1 := by
  set y : Trap := {
    cls := cls, cause := cause, lane := 0xFF, pc := pc, word := word, info1 := info1, info2 := info2, lanes := 0
    time := s.wtime, nested := ((s.tile t).group g).inh } with hy
  set G : Group := { (s.tile t).group g with traps := ((s.tile t).group g).traps ++ [y] } with hG
  have hT : (s.noteTrap t g pc word cls cause info1 info2).tile t = (s.tile t).setGroup g G :=
    s.tile_modTile_same t fun T => T.setGroup g G
  refine ⟨rfl, ?_, ?_, ?_, y, ?_, rfl, rfl, rfl, rfl, rfl⟩ <;> rw [hT]
  · exact Tile.copies_setGroup _ _ _
  · exact Tile.teams_setGroup _ _ _
  · exact Tile.arr_setGroup _ _ _
  · rw [Tile.group_setGroup_same]
    exact List.getLast?_concat

/-! ## Bytes of a scratchpad -/

theorem Team.spPut_cons (x : Team) (o : Nat) (b : Byte) (l : List Byte) : x.spPut o (b :: l) = (x.putByte o b).spPut (o + 1) l := rfl

theorem Team.id_spPut (x : Team) (o : Nat) (l : List Byte) : (x.spPut o l).id = x.id := by
  induction l generalizing x o with
  | nil => rfl
  | cons b l ih => exact ih _ _

theorem Team.spGet_spPut_outside (x : Team) {o : Nat} (l : List Byte) {a : Nat} (h : a < o ∨ o + l.length ≤ a) :
    (x.spPut o l).spGet a = x.spGet a := by
  induction l generalizing x o with
  | nil => rfl
  | cons b l ih =>
    rw [List.length_cons] at h
    rw [Team.spPut_cons, ih _ (by omega), Team.spGet_putByte, if_neg (by omega)]

theorem Team.length_spBytes (x : Team) (o n : Nat) : (x.spBytes o n).length = n := by simp [Team.spBytes]

theorem Team.spBytes_succ (x : Team) (o n : Nat) : x.spBytes o (n + 1) = x.spGet o :: x.spBytes (o + 1) n := by
  unfold Team.spBytes
  rw [List.range_succ_eq_map, List.map_cons, List.map_map]
  refine congrArg _ (List.map_congr_left fun i _ => congrArg x.spGet ?_)
  exact (Nat.succ_add_eq_add_succ o i).symm

theorem Team.spBytes_spPut (x : Team) (o : Nat) (l : List Byte) : (x.spPut o l).spBytes o l.length = l := by
  induction l generalizing x o with
  | nil => rfl
  | cons b l ih =>
    rw [List.length_cons, Team.spBytes_succ, Team.spPut_cons, ih, Team.spGet_spPut_outside _ _ (.inl (by omega)),
      Team.spGet_putByte, if_pos rfl]

/-! ## An extent inside one sector -/

theorem sectorsOf_one {va n : Nat} (h0 : n ≠ 0) (h : va % 128 + n ≤ 128) : sectorsOf va n = [(va, n)] := by
  have hlast : (va + n - 1) / 128 = va / 128 := by omega
  have hlo : max va (va / 128 * 128) = va := by omega
  have hhi : min (va + n) ((va / 128 + 1) * 128) - va = n := by omega
  unfold sectorsOf
  rw [if_neg h0, hlast, Nat.sub_self]
  simp [hlo, hhi]

theorem wrap_of_lt {n v : Nat} (h : v < 2 ^ n) : wrap n (v : Int) = v := by
  have : (v : Int) % 2 ^ n = ((v % 2 ^ n : Nat) : Int) := by push_cast; rfl
  rw [wrap, this, Int.toNat_natCast, Nat.mod_eq_of_lt h]

section
variable {s : State} {t team owner va pa n d due : Nat} {held : List TlbEnt} {priv : Priv} {dev : Bool}

theorem State.l2Touch_cached_any (s : State) (tag own pa d due : Nat) (alloc wr : Bool) :
    Cached s (s.l2Touch tag own pa d due alloc wr).1 := by
  cases alloc with
  | false => exact s.l2Pass_cached _ _ _ _ _ _
  | true => exact s.l2Touch_cached _ _ _ _ _ _

/-- An engine reads the bytes of memory (R122). -/
theorem State.engRead_one (ha : s.engPhys t team held .engRead priv va = some (pa, dev)) (hr : regionOf pa = .plinth)
    (hp : s.poisoned pa n = false) : ∃ u, Cached s u ∧
      s.engRead t team owner held priv d due [(va, n)] = .ok u (Memory.bytes s.mem pa n) := by
  have hc := s.l2Touch_cached_any (s.tile t).tag owner pa d due (!dev) false
  refine ⟨_, hc, ?_⟩
  rw [State.engRead]
  simp only [ha, hr, hp]
  refine (if_neg (by decide)).trans ?_
  simp only [State.engRead]
  rw [hc.twin.mem, List.append_nil]

/-- An engine writes bytes into memory. -/
theorem State.engWrite_one {hor : Nat} {l : List Byte} (ha : s.engPhys t team held .engWrite priv va = some (pa, dev))
    (hr : regionOf pa = .plinth) (hl : l.length = n) : ∃ u h, u.mem = Memory.putBytes s.mem pa l ∧
      s.engWrite t team owner held priv d due hor [(va, n)] l = some (u, h) := by
  have hc := s.l2Touch_cached_any (s.tile t).tag owner pa d due (!dev) true
  set v := (s.l2Touch (s.tile t).tag owner pa d due (!dev) true).1.clearPoison pa n with hv
  have hmem : (v.putBytes pa (l.take n)).mem = Memory.putBytes s.mem pa l := by
    rw [← hl, List.take_length, State.putBytes, (State.report_grows _).frame]
    exact congrArg (Memory.putBytes · pa l) hc.twin.mem
  refine ⟨v.putBytes pa (l.take n), max hor ((v.putBytes pa (l.take n)).complTime pa), hmem, ?_⟩
  rw [State.engWrite]
  simp only [ha, hr]
  rfl

end

/-! ## The copy engine takes a command (R256) -/

/-- The state in which a command has run. -/
def State.copyRan (s : State) (tile : Nat) (x : CopyCmd) (hor : Nat) : State :=
  (s.modTile tile fun T => T.modCopy x.id fun y => { y with ran := true, hor := hor, rtile := x.rtile }).push
    [.engineFlipBack tile false, .copyEngineCommand tile]

theorem State.copyRan_tile (s : State) (tile : Nat) (x : CopyCmd) (hor : Nat) : (s.copyRan tile x hor).tile tile =
    (s.tile tile).modCopy x.id fun y => { y with ran := true, hor := hor, rtile := x.rtile } :=
  s.tile_modTile_same tile fun T => T.modCopy x.id fun y => { y with ran := true, hor := hor, rtile := x.rtile }

theorem State.copyRan_copies (s : State) (tile : Nat) (x : CopyCmd) (hor : Nat) :
    ∀ y ∈ ((s.copyRan tile x hor).tile tile).copies, y.id = x.id → y.ran = true ∧ y.hor = hor := by
  rw [State.copyRan_tile]
  intro y hy hid
  obtain ⟨z, hz, rfl⟩ := List.mem_map.1 hy
  by_cases h : z.id = x.id
  · rw [if_pos h]
    exact ⟨rfl, rfl⟩
  · rw [if_neg h] at hid
    exact absurd hid h

theorem State.copyRan_team (s : State) (tile : Nat) (x : CopyCmd) (hor i : Nat) :
    ((s.copyRan tile x hor).tile tile).team i = (s.tile tile).team i := by
  rw [State.copyRan_tile]
  rfl

/-- A packet that is dropped leaves memory, and of each tile everything but the count of drops. -/
theorem State.dropOther_leaves (s : State) (ctx : Nat) (p : Packet) (d : Nat × Nat) (x : Nat) : let u := s.dropOther ctx p d
    u.mem = s.mem ∧ ∃ n, u.tile x = { s.tile x with drops := n } := by
  have hcover (v : State) : let w := v.coverDrop p.tag p.stile ctx d.2 p.place p.off
      w.mem = v.mem ∧ w.tile x = v.tile x := by
    unfold State.coverDrop
    split
    · exact ⟨rfl, rfl⟩
    · dsimp only
      split <;> exact ⟨(v.modPart_keepsBytes _ _).mem, State.tile_modPart _ _ _ _⟩
  have hlog : ∃ n, (s.logDrop d.1 p d.2).tile x = { s.tile x with drops := n } := by
    have hT : (s.logDrop d.1 p d.2).tile x = (s.modTile d.1 fun T => { T with drops := min (T.drops + 1) (2 ^ 32 - 1) }).tile x := rfl
    rw [hT, State.tile_modTile]
    split
    · next h => exact ⟨_, by rw [h]⟩
    · exact ⟨(s.tile x).drops, rfl⟩
  obtain ⟨hm, ht⟩ := hcover (s.logDrop d.1 p d.2)
  exact ⟨hm, hlog.imp fun n h => ht.trans h⟩

section
variable {tile : Nat} {s : State} {x0 : CopyCmd} (hfind : (s.tile tile).copies.find? (fun x => !x.ran) = some x0)
include hfind

/-- The next command waits for its remote tile or for its slabs. -/
theorem copyWaits (h : s.remoteAway tile { x0 with rtile := s.homeOf x0 } = true ∨
      (s.tile tile).slabsHere x0.team x0.lunits = false) :
    ∃ t, exec (.copyEngineCommand tile) s = .next t ∧ t = { s with due := t.due } ∧ DueEv t (.copyEngineCommand tile) := by
  refine ⟨s.again (.copyEngineCommand tile), ?_, (s.again_grows _).frame, s.dueEv_again _⟩
  rw [exec_copyEngineCommand, execCopyEngineCommand]
  simp only [hfind]
  refine if_pos ?_
  rcases h with h | h <;> rw [h] <;> simp

variable (haway : s.remoteAway tile { x0 with rtile := s.homeOf x0 } = false)
  (hhere : (s.tile tile).slabsHere x0.team x0.lunits = true)
  (hthere : (s.tile (s.homeOf x0)).slabsHere x0.rteam x0.runits = true)
include haway hhere hthere

/-- A command whose traffic a router drops ends with a record (R390). -/
theorem copyDropped {d : Packet × Nat × Nat} (hdrop : s.copyDrop tile { x0 with rtile := s.homeOf x0 } = some d) :
    ∃ t y, exec (.copyEngineCommand tile) s = .next t ∧ t.mem = s.mem ∧
      (t.tile tile).copies = (s.tile tile).copies.filter (fun y => y.id != x0.id) ∧
      (t.tile tile).ctl.teams = (s.tile tile).ctl.teams ∧ ((t.tile tile).group x0.slot).lastTrap = some y ∧ y.cls = .xlate ∧
      y.cause = 5 ∧ y.info1 = x0.place ∧ y.lanes = 0 := by
  set u := s.dropOther (s.tile tile).ctl.ctx d.1 d.2 with hu
  set v := u.copyStops tile { x0 with rtile := s.homeOf x0 } with hv
  obtain ⟨hmem, n, htile⟩ := s.dropOther_leaves (s.tile tile).ctl.ctx d.1 d.2 tile
  rw [← hu] at hmem htile
  have hvtile : v.tile tile = { u.tile tile with copies := (u.tile tile).copies.filter fun y => y.id != x0.id } :=
    u.tile_modTile_same tile fun T => { T with copies := T.copies.filter fun y => y.id != x0.id }
  obtain ⟨hm, hc, hteams, -, y, hy, h1, h2, h3, -, h4⟩ := v.noteTrap_noted tile x0.slot x0.pc x0.word .xlate 5 x0.place 0
  refine ⟨_, y, ?_, hm.trans hmem, hc.trans ?_, hteams.trans ?_, hy, h1, h2, h3, h4⟩
  · rw [exec_copyEngineCommand, execCopyEngineCommand]
    simp only [hfind, haway, hhere, hthere, hdrop]
    rfl
  · rw [hvtile, htile]
  · rw [hvtile, htile]
    rfl

variable (hdrop : s.copyDrop tile { x0 with rtile := s.homeOf x0 } = none)
include hdrop

theorem exec_copyEngineCommand_ran {r u : State} {h : Nat}
    (hrows : s.copyRows tile { x0 with rtile := s.homeOf x0 } 0 0 x0.rows = (r, .ok u h)) :
    exec (.copyEngineCommand tile) s = .next (u.copyRan tile { x0 with rtile := s.homeOf x0 } h) := by
  rw [exec_copyEngineCommand, execCopyEngineCommand]
  simp only [hfind, haway, hhere, hthere, hdrop, hrows]
  rfl

theorem copyRuns {r u : State} {h : Nat} (hrows : s.copyRows tile { x0 with rtile := s.homeOf x0 } 0 0 x0.rows = (r, .ok u h)) :
    ∃ t, exec (.copyEngineCommand tile) s = .next t ∧ t.mem = u.mem ∧ t.host = u.host ∧ DueEv t (.engineFlipBack tile false) ∧
      ∀ y ∈ (t.tile tile).copies, y.id = x0.id → y.ran = true ∧ y.hor = h :=
  ⟨_, exec_copyEngineCommand_ran hfind haway hhere hthere hdrop hrows, rfl, rfl,
    State.dueEv_push _ List.mem_cons_self, u.copyRan_copies tile _ h⟩

variable {y : Team} (hy : (s.tile tile).team x0.team = some y) (hid : y.id = x0.team) (hrows1 : x0.rows = 1)
include hy hid hrows1

omit hfind haway hhere hthere hdrop hrows1 hy in
/-- The team of a command after bytes have been put into its scratchpad. -/
theorem State.putBytes_team {u : State} (hu : (u.tile tile).team x0.team = some y) (l : List Byte) (h : Nat) :
    let v := (u.modTile tile fun T => T.modTeam x0.team fun y => y.spPut (x0.loff + 0 * x0.lstride) l).copyRan tile
      { x0 with rtile := s.homeOf x0 } h
    (v.tile tile).team x0.team = some (y.spPut x0.loff l) := by
  intro v
  rw [State.copyRan_team, State.tile_modTile_same, Tile.modTeam_of_team hu, Tile.team_setTeam,
    Team.id_spPut, if_pos hid.symm, Nat.zero_mul, Nat.add_zero]

/-- A fill of one row of the scratchpad. -/
theorem fillRuns (hk : x0.kind = 4) :
    ∃ t z, exec (.copyEngineCommand tile) s = .next t ∧ t.mem = s.mem ∧ (t.tile tile).team x0.team = some z ∧
      z.spBytes x0.loff x0.rowb = fillBytes x0.pat x0.rowb ∧
      ∀ a, a < x0.loff ∨ x0.loff + x0.rowb ≤ a → z.spGet a = y.spGet a := by
  have hlen : (fillBytes x0.pat x0.rowb).length = x0.rowb := by simp [fillBytes]
  refine ⟨_, y.spPut x0.loff (fillBytes x0.pat x0.rowb), exec_copyEngineCommand_ran hfind haway hhere hthere hdrop
    (r := s.modTile tile fun T => T.modTeam x0.team fun y => y.spPut (x0.loff + 0 * x0.lstride) (fillBytes x0.pat x0.rowb))
    (u := s.modTile tile fun T => T.modTeam x0.team fun y => y.spPut (x0.loff + 0 * x0.lstride) (fillBytes x0.pat x0.rowb))
    (h := 0) ?_, rfl,
    State.putBytes_team hid hy _ _, ?_, fun a ha => Team.spGet_spPut_outside _ _ (by rwa [hlen])⟩
  · rw [hrows1]
    simp only [State.copyRows, State.copyRow, hk]
    rfl
  · exact (congrArg (Team.spBytes _ x0.loff) hlen.symm).trans (Team.spBytes_spPut _ _ _)

section
variable {pa : Nat} {dev : Bool} (hb : x0.rowb ≠ 0) (hsec : x0.far % 128 + x0.rowb ≤ 128) (hfar : x0.far < 2 ^ 56)
  (hreg : regionOf pa = .plinth)
include hb hsec hfar hreg

/-- A copy of one row from plinth memory puts the bytes of memory into the scratchpad. -/
theorem copyInRuns (hk : x0.kind = 0)
    (ha : s.engPhys tile x0.team x0.held .engRead ((s.tile tile).group x0.slot).priv x0.far = some (pa, dev))
    (hp : s.poisoned pa x0.rowb = false) :
    ∃ t z, exec (.copyEngineCommand tile) s = .next t ∧ t.mem = s.mem ∧ (t.tile tile).team x0.team = some z ∧
      z.spBytes x0.loff x0.rowb = Memory.bytes s.mem pa x0.rowb := by
  obtain ⟨u, hu, hread⟩ := State.engRead_one (owner := s.ownerOf tile ((s.tile tile).team x0.team)) (d := x0.d) (due := x0.due)
    ha hreg hp
  set l := Memory.bytes s.mem pa x0.rowb with hl
  have hfva : wrap 64 ((x0.far : Int) + (0 : Nat) * x0.fstride) = x0.far := by
    rw [Nat.cast_zero, zero_mul, add_zero, wrap_of_lt (hfar.trans (by norm_num))]
  have hteam : (u.tile tile).team x0.team = some y := by rw [hu.quiet.tile, hy]
  set v := u.modTile tile fun T => T.modTeam x0.team fun y => y.spPut (x0.loff + 0 * x0.lstride) l with hv
  refine ⟨_, y.spPut x0.loff l, exec_copyEngineCommand_ran hfind haway hhere hthere hdrop (r := v) (u := v) (h := 0) ?_,
    hu.twin.mem, State.putBytes_team hid hteam _ _, ?_⟩
  · rw [hrows1]
    simp only [State.copyRows, State.copyRow, hk, hfva, sectorsOf_one hb hsec, hread]
    rfl
  · exact (congrArg (Team.spBytes _ x0.loff) (Memory.length_bytes s.mem pa x0.rowb).symm).trans (Team.spBytes_spPut _ _ _)

omit hid in
/-- A copy of one row to plinth memory writes the bytes of the scratchpad and none beside them. -/
theorem copyOutRuns (hk : x0.kind = 1)
    (ha : s.engPhys tile x0.team x0.held .engWrite ((s.tile tile).group x0.slot).priv x0.far = some (pa, dev))
    (hsp : (s.tile tile).spBad x0.team x0.loff x0.rowb = none) :
    ∃ t, exec (.copyEngineCommand tile) s = .next t ∧ Memory.bytes t.mem pa x0.rowb = y.spBytes x0.loff x0.rowb ∧
      ∀ a, a < pa ∨ pa + x0.rowb ≤ a → Memory.get t.mem a = Memory.get s.mem a := by
  have hlen := y.length_spBytes x0.loff x0.rowb
  obtain ⟨u, h, hmem, hwrite⟩ := State.engWrite_one (owner := s.ownerOf tile ((s.tile tile).team x0.team)) (d := x0.d)
    (due := x0.due) (hor := 0) ha hreg hlen
  have hfva : wrap 64 ((x0.far : Int) + (0 : Nat) * x0.fstride) = x0.far := by
    rw [Nat.cast_zero, zero_mul, add_zero, wrap_of_lt (hfar.trans (by norm_num))]
  refine ⟨_, exec_copyEngineCommand_ran hfind haway hhere hthere hdrop (r := u) (u := u) (h := h) ?_, ?_, fun a ha => ?_⟩
  · rw [hrows1]
    simp only [State.copyRows, State.copyRow, hk, hfva, sectorsOf_one hb hsec]
    rw [Nat.zero_mul, Nat.add_zero, hsp, hy]
    rw [hy] at hwrite
    simp [hwrite]
  · refine (congrArg (Memory.bytes · pa x0.rowb) hmem).trans ?_
    exact (congrArg (Memory.bytes _ pa) hlen.symm).trans (Memory.bytes_putBytes _ _ _)
  · refine (congrArg (Memory.get · a) hmem).trans (Memory.get_putBytes_outside _ _ _ _ ?_)
    rwa [hlen]

end

end

theorem copyEngine : CopyEngine := by
  intro tile s x0 T hfind x
  refine ⟨copyWaits hfind, fun haway hhere hthere => ⟨fun d => copyDropped hfind haway hhere hthere, fun hdrop => ⟨fun r u h =>
    copyRuns hfind haway hhere hthere hdrop, fun y hy hid h1 _ => fillRuns hfind haway hhere hthere hdrop hy hid h1,
    fun y pa dev hy hid h1 hb hsec hfar hreg => ⟨?_, ?_⟩⟩⟩⟩
  · exact copyInRuns hfind haway hhere hthere hdrop hy hid h1 hb hsec hfar hreg
  · exact copyOutRuns hfind haway hhere hthere hdrop hy h1 hb hsec hfar hreg

/-! ## The return of units (R123, R127) -/

theorem UnitSt.back_last {u : UnitSt} (h : u.pend ≤ 1) (cyc : Nat) :
    u.back true cyc = { own := false, phase := !u.phase, pend := 0, backAt := cyc + 1 } := by
  rw [UnitSt.back, if_pos h]
  cases u.phase <;> rfl

theorem UnitSt.back_more {u : UnitSt} (h : 1 < u.pend) (cyc : Nat) : u.back true cyc = { u with pend := u.pend - 1 } :=
  if_neg (Nat.not_le.2 h)

/-- A team with units of it changed. -/
def Team.modUnits (y : Team) (slabs regions : List Nat) (f : UnitSt → UnitSt) : Team :=
  { y with
    slabSt := slabs.foldl (fun m j => amSet m j (f (y.slab j))) y.slabSt
    accSt := regions.foldl (fun m j => amSet m j (f (y.region j))) y.accSt }

theorem Tile.team_modUnits {T : Tile} {i : Nat} {y : Team} (hy : T.team i = some y) (hid : y.id = i) (slabs regions : List Nat)
    (f : UnitSt → UnitSt) : (T.modUnits i slabs regions f).team i = some (y.modUnits slabs regions f) := by
  rw [Tile.modUnits, Tile.modTeam_of_team hy, Tile.team_setTeam]
  exact if_pos hid.symm

theorem Team.slab_modUnits (y : Team) {slabs : List Nat} (regions : List Nat) (f : UnitSt → UnitSt) {j : Nat} (h : j ∈ slabs) :
    (y.modUnits slabs regions f).slab j = f (y.slab j) := by
  rw [Team.slab, Team.modUnits]
  dsimp only
  rw [amGet_foldl_amSet (fun j => f (y.slab j)), if_pos h]
  rfl

theorem Team.region_modUnits (y : Team) (slabs : List Nat) {regions : List Nat} (f : UnitSt → UnitSt) {j : Nat} (h : j ∈ regions) :
    (y.modUnits slabs regions f).region j = f (y.region j) := by
  rw [Team.region, Team.modUnits]
  dsimp only
  rw [amGet_foldl_amSet (fun j => f (y.region j)), if_pos h]
  rfl

/-- The units of a copy come back once its stores have passed their horizon. -/
theorem copyUnitsReturn {tile : Nat} {s : State} {x : CopyCmd} {y : Team} (hran : (s.tile tile).copies.filter (·.ran) = [x])
    (hpassed : s.passed tile x.hor = true) (haway : s.remoteAway tile { x with rtile := s.homeOf x } = false)
    (hy : (s.tile tile).team x.team = some y) (hid : y.id = x.team) (hr : x.runits = []) :
    let z := y.modUnits x.lunits [] (UnitSt.back true (s.cycle tile))
    ∃ t, exec (.engineFlipBack tile false) s = .next t ∧ t.mem = s.mem ∧ (t.tile tile).team x.team = some z ∧
      (t.tile tile).copies = (s.tile tile).copies.filter (fun c => c.id != x.id) := by
  intro z
  set f : Tile → Tile := fun T => T.modUnits x.team x.lunits [] (UnitSt.back true (s.cycle tile)) with hf
  set g : Tile → Tile := fun T => { T with copies := T.copies.filter fun c => c.id != x.id } with hg
  have hT : ((s.modTile tile f).modTile tile g).tile tile = g (f (s.tile tile)) := by
    rw [State.tile_modTile_same, State.tile_modTile_same]
  refine ⟨(s.modTile tile f).modTile tile g, ?_, rfl, ?_, ?_⟩
  · have hback : s.copyBack tile x = s.modTile tile f := by
      unfold State.copyBack
      exact if_pos hr
    rw [exec_engineFlipBack, execEngineFlipBack, ← hback]
    simp only [hran, List.find?_cons, hpassed, haway]
    rfl
  · rw [hT]
    exact Tile.team_modUnits hy hid _ _ _
  · rw [hT]
    have hcopies : (f (s.tile tile)).copies = (s.tile tile).copies := by
      rw [hf]
      dsimp only
      rw [Tile.modUnits, Tile.modTeam_of_team hy]
      rfl
    exact congrArg (List.filter fun c => c.id != x.id) hcopies

theorem State.arrKick_grows (s : State) (t : Nat) : DueGrows s (s.arrKick t) := by
  unfold State.arrKick
  split
  · exact .refl s
  · split
    case h_5 => exact s.againAt_grows _ _ _
    all_goals exact s.again_grows _

theorem Tile.arr_giveBack (T : Tile) (toggle : Bool) (cyc : Nat) (us : List Units) : (T.giveBack toggle cyc us).arr = T.arr := by
  refine List.foldlRecOn us _ (motive := fun U : Tile => U.arr = T.arr) rfl fun U hU u _ => ?_
  rw [Tile.modUnits, Tile.modTeam]
  split <;> exact hU

/-- The units of an array command come back. -/
theorem arrayUnitsReturn {tile : Nat} {s : State} {c : ArrCmd} {u : Units} {y : Team} (hran : (s.tile tile).arr.q.find? (·.ran) = some c)
    (hu : c.units = [u]) (hy : (s.tile tile).team u.team = some y) (hid : y.id = u.team) :
    let z := y.modUnits u.slabs u.regions (UnitSt.back true (s.cycle tile))
    ∃ t, exec (.engineFlipBack tile true) s = .next t ∧ t.mem = s.mem ∧ (t.tile tile).team u.team = some z ∧
      (t.tile tile).arr.q = (s.tile tile).arr.q.filter (fun d => d.id != c.id) := by
  intro z
  set f : Tile → Tile := fun T => (T.giveBack true (s.cycle tile) c.units).modArr fun a =>
    { a with q := a.q.filter fun d => d.id != c.id } with hf
  have hk := ((s.modTile tile f).arrKick_grows tile).frame
  have hT : ((s.modTile tile f).arrKick tile).tile tile = f (s.tile tile) := by
    rw [hk]
    exact s.tile_modTile_same tile f
  refine ⟨(s.modTile tile f).arrKick tile, ?_, by rw [hk]; rfl, ?_, ?_⟩
  · rw [exec_engineFlipBack, execEngineFlipBack]
    simp only [hran]
    rfl
  · rw [hT, hf, hu]
    exact Tile.team_modUnits hy hid _ _ _
  · rw [hT, hf]
    exact congrArg (fun a : Arr => a.q.filter fun d => d.id != c.id) ((s.tile tile).arr_giveBack _ _ _)

theorem unitsReturn : UnitsReturn := by
  refine ⟨fun tile s x y hran hpassed haway hy hid hr _ => ?_, fun tile s c u y hran hu hy hid _ _ => ?_⟩
  · obtain ⟨t, hrun, hmem, hteam, hcopies⟩ := copyUnitsReturn hran hpassed haway hy hid hr
    refine ⟨t, _, hrun, hmem, hteam, hcopies, rfl, fun j hj => ?_⟩
    rw [Team.slab_modUnits _ _ _ hj]
    refine ⟨fun h => ?_, fun h => ?_⟩
    · rw [UnitSt.back_last h]
      exact ⟨rfl, rfl, rfl, rfl⟩
    · rw [UnitSt.back_more h]
      exact ⟨rfl, rfl⟩
  · obtain ⟨t, hrun, hmem, hteam, hq⟩ := arrayUnitsReturn hran hu hy hid
    refine ⟨t, _, hrun, hmem, hteam, hq, fun j hj h => ?_, fun j hj h => ?_⟩
    · rw [Team.slab_modUnits _ _ _ hj, UnitSt.back_last h]
      exact ⟨rfl, rfl, rfl⟩
    · rw [Team.region_modUnits _ _ _ hj, UnitSt.back_last h]
      exact ⟨rfl, rfl, rfl⟩

end Sys2Proof.Machine
end

section
/-! PROOFS. The matrix array: what LDS, SWP and MMA leave in the planes and in the accumulators. -/

namespace Sys2Proof.Machine
open Sys2Proof.Claims

theorem exec_arrayLdsRun (tile : Nat) (s : State) : exec (.arrayLdsRun tile) s = execArrayLdsRun tile s := rfl
theorem exec_arraySwpRun (tile : Nat) (s : State) : exec (.arraySwpRun tile) s = execArraySwpRun tile s := rfl
theorem exec_arrayMmaRun (tile : Nat) (s : State) : exec (.arrayMmaRun tile) s = execArrayMmaRun tile s := rfl

/-! ## A command that has run -/

/-- An array whose command of an identifier has run. -/
def Arr.ran (a : Arr) (id : Nat) : Arr := { a with q := a.q.map fun c => if c.id = id then { c with ran := true } else c }

theorem Arr.ran_of_id {a : Arr} {id : Nat} {d : ArrCmd} (hd : d ∈ (a.ran id).q) (h : d.id = id) : d.ran = true := by
  obtain ⟨c, -, rfl⟩ := List.mem_map.1 hd
  by_cases hc : c.id = id
  · rw [if_pos hc]
  · rw [if_neg hc] at h
    exact absurd h hc

theorem State.arrRan_leaves (s : State) (t id : Nat) : let u := s.arrRan t id
    u.mem = s.mem ∧ u.tile t = { s.tile t with arr := (s.tile t).arr.ran id } ∧ DueEv u (.engineFlipBack t true) := by
  set f : Tile → Tile := fun T => T.modArr fun a => a.ran id with hf
  set v := (s.modTile t f).push [.engineFlipBack t true] with hv
  have hk := v.arrKick_grows t
  have hrun : s.arrRan t id = v.arrKick t := rfl
  refine ⟨by rw [hrun, hk.frame]; rfl, ?_, hk.keeps _ (State.dueEv_push _ (List.mem_singleton.2 rfl))⟩
  rw [hrun, hk.frame]
  exact s.tile_modTile_same t f

/-! ## Planes (R263, R269, R270) -/

theorem Arr.plane_setPlane (a : Arr) (i : Nat) (p : Plane) : (a.setPlane i p).plane i = p := by
  unfold Arr.plane Arr.setPlane
  by_cases h : i = 0 <;> simp [h]

theorem Arr.act_setPlane (a : Arr) (i : Nat) (p : Plane) : (a.setPlane i p).act = a.act := by
  unfold Arr.setPlane
  split <;> rfl

section
variable {tile : Nat} {s : State} {c : ArrCmd} (hhead : (s.tile tile).arr.head = some c) (hready : (s.tile tile).arrReady c = true)
include hhead hready

/-- An LDS of a clear image in the scratchpad fills the shadow plane. -/
theorem ldsRuns {off tweak key : Nat} {fmt : MFmt} {sp : Bool} {x : Team} (hop : c.op = .ldsS off tweak key fmt sp)
    (hkey : c.key = none) (hx : (s.tile tile).team c.team = some x)
    (hbad : (s.tile tile).spBad c.team off (imgSize fmt sp) = none) :
    ∃ t, exec (.arrayLdsRun tile) s = .next t ∧ t.mem = s.mem ∧ (t.tile tile).arr.act = (s.tile tile).arr.act ∧
      (t.tile tile).arr.plane (1 - (s.tile tile).arr.act) =
        { image := x.spBytes off (imgSize fmt sp), st := { fmt := fmt, sparse := sp, inuse := true }, dirty := true } ∧
      DueEv t (.engineFlipBack tile true) := by
  set p : Plane :=
    { image := x.spBytes off (imgSize fmt sp), st := { fmt := fmt, sparse := sp, inuse := true }, dirty := true } with hp
  set f : Tile → Tile := fun T => { T.modArr fun a => a.setPlane (1 - a.act) p with
    badWords := T.badWords.filter fun w => !(w.1 == 4 && w.2 / 2 ^ 32 == 1 - T.arr.act) } with hf
  obtain ⟨hmem, htile, hdue⟩ := (s.modTile tile f).arrRan_leaves tile c.id
  have hT : (s.modTile tile f).tile tile = f (s.tile tile) := s.tile_modTile_same tile f
  rw [hT] at htile
  refine ⟨_, ?_, hmem, ?_, ?_, hdue⟩
  · rw [exec_arrayLdsRun, execArrayLdsRun]
    simp only [hhead, hready, hop, hbad, hx, State.placeImage, hkey]
    rfl
  · rw [htile]
    exact Arr.act_setPlane _ _ _
  · rw [htile]
    exact Arr.plane_setPlane _ _ _

/-- SWP exchanges the roles of the planes. -/
theorem swpRuns (hop : c.op = .swp) :
    ∃ t, exec (.arraySwpRun tile) s = .next t ∧ t.mem = s.mem ∧ (t.tile tile).arr.act = 1 - (s.tile tile).arr.act ∧
      (t.tile tile).arr.p0 = (s.tile tile).arr.p0 ∧ (t.tile tile).arr.p1 = (s.tile tile).arr.p1 ∧
      DueEv t (.engineFlipBack tile true) ∧ ∀ d ∈ (t.tile tile).arr.q, d.id = c.id → d.ran = true := by
  set f : Tile → Tile := fun T => T.modArr fun a => { a with act := 1 - a.act } with hf
  obtain ⟨hmem, htile, hdue⟩ := (s.modTile tile f).arrRan_leaves tile c.id
  have hT : (s.modTile tile f).tile tile = f (s.tile tile) := s.tile_modTile_same tile f
  rw [hT] at htile
  refine ⟨_, ?_, hmem, ?_, ?_, ?_, hdue, fun d hd h => ?_⟩
  · rw [exec_arraySwpRun, execArraySwpRun]
    simp only [hhead, hready, hop]
    rfl
  · rw [htile]
    rfl
  · rw [htile]
    rfl
  · rw [htile]
    rfl
  · rw [htile] at hd
    exact Arr.ran_of_id hd h

end

/-! ## Cells of the accumulators (R262) -/

theorem Team.accGet_accSet (x : Team) (row i : Nat) (v : W32) (r j : Nat) :
    (x.accSet row i v).accGet r j = if r * 64 + j = row * 64 + i then v else x.accGet r j := by
  unfold Team.accGet Team.accSet
  dsimp only
  rw [amGet_amSet]
  split <;> rfl

theorem Team.accGet_accSet_row (x : Team) (row i : Nat) (v : W32) (j : Nat) :
    (x.accSet row i v).accGet row j = if j = i then v else x.accGet row j := by
  rw [Team.accGet_accSet]
  exact if_congr (Nat.add_left_cancel_iff) rfl rfl

/-- Width of a cell. -/
def cellBits (f : MFmt) : Nat := if f = .f64 then 64 else 32

/-- A cell of a row reads back, and the other cells of the row are as before. -/
theorem Team.cell_setCell (x : Team) (f : MFmt) (row n v k : Nat) :
    (x.setCell f row n v).cell f row k = if k = n then v % 2 ^ cellBits f else x.cell f row k := by
  unfold Team.cell Team.setCell cellBits
  by_cases hf : f = .f64
  · simp only [if_pos hf, Team.accGet_accSet_row]
    by_cases hk : k = n
    · subst hk
      simp
      omega
    · rw [if_neg hk, if_neg (by omega), if_neg (by omega), if_neg (by omega), if_neg (by omega)]
  · simp only [if_neg hf, Team.accGet_accSet_row]
    split <;> simp

/-- A cell that a format has lies inside its row. -/
theorem cell_in_row {f : MFmt} {n : Nat} (h : n < mfN f) : n < 64 ∧ (f = .f64 → 2 * n + 1 < 64) := by
  have hle : mfN f ≤ 64 := by cases f <;> decide
  refine ⟨h.trans_le hle, fun hf => ?_⟩
  rw [hf, mfN] at h
  omega

theorem Team.accGet_setCell_other (x : Team) {f : MFmt} {row n : Nat} (v : Nat) {r j : Nat} (hn : n < mfN f) (hr : r ≠ row)
    (hj : j < 64) : (x.setCell f row n v).accGet r j = x.accGet r j := by
  obtain ⟨hlt, hpair⟩ := cell_in_row hn
  unfold Team.setCell
  split
  · next hf =>
    have := hpair hf
    rw [Team.accGet_accSet, if_neg (by omega), Team.accGet_accSet, if_neg (by omega)]
  · rw [Team.accGet_accSet, if_neg (by omega)]

theorem Team.id_setCell (x : Team) (f : MFmt) (row n v : Nat) : (x.setCell f row n v).id = x.id := by
  unfold Team.setCell
  split <;> rfl

/-- A team with the first cells of a row written. -/
def Team.fillRow (x : Team) (f : MFmt) (row : Nat) (v : Nat → Nat) (n : Nat) : Team :=
  (List.range n).foldl (fun y j => y.setCell f row j (v j)) x

theorem Team.fillRow_succ (x : Team) (f : MFmt) (row : Nat) (v : Nat → Nat) (n : Nat) :
    x.fillRow f row v (n + 1) = (x.fillRow f row v n).setCell f row n (v n) := by
  unfold Team.fillRow
  rw [List.range_succ, List.foldl_append]
  rfl

theorem Team.id_fillRow (x : Team) (f : MFmt) (row : Nat) (v : Nat → Nat) (n : Nat) : (x.fillRow f row v n).id = x.id := by
  induction n with
  | zero => rfl
  | succ n ih => rw [Team.fillRow_succ, Team.id_setCell, ih]

theorem Team.cell_fillRow (x : Team) (f : MFmt) (row : Nat) (v : Nat → Nat) {n k : Nat} (hk : k < n) :
    (x.fillRow f row v n).cell f row k = v k % 2 ^ cellBits f := by
  induction n with
  | zero => cases hk
  | succ n ih =>
    rw [Team.fillRow_succ, Team.cell_setCell]
    split
    · next h => rw [h]
    · exact ih (by omega)

theorem Team.accGet_fillRow_other (x : Team) {f : MFmt} {row : Nat} (v : Nat → Nat) {n r j : Nat} (hn : n ≤ mfN f) (hr : r ≠ row)
    (hj : j < 64) : (x.fillRow f row v n).accGet r j = x.accGet r j := by
  induction n with
  | zero => rfl
  | succ n ih => rw [Team.fillRow_succ, Team.accGet_setCell_other _ _ hn hr hj, ih (Nat.le_of_succ_le hn)]

/-! ## One row through the active plane (R271) -/

/-- The new value of a cell of an activation row. -/
def Team.rowSum (x : Team) (p : Plane) (row : Nat) (af : MFmt) (z : Bool) (a : ActRow) (n : Nat) : Nat :=
  matrixSum p.st.fmt af p.st.sparse (if z then 0 else x.cell p.st.fmt row n) a (column p.st.fmt p.st.sparse p.image n)

/-- A row through a plane writes the matrix sum of each cell. -/
theorem Team.mmaRow_eq (x : Team) (p : Plane) (af : MFmt) (z : Bool) (row : Nat) (a : ActRow) :
    x.mmaRow p.st ((List.range (mfN p.st.fmt)).map (column p.st.fmt p.st.sparse p.image)) af z row a =
      (x.fillRow p.st.fmt row (x.rowSum p row af z a) (mfN p.st.fmt)).mark [row / 16] := by
  unfold Team.mmaRow Team.fillRow
  refine congrArg (Team.mark · [row / 16]) (List.foldl_ext _ _ _ fun y n hn => ?_)
  have hlt := List.mem_range.1 hn
  simp [Team.rowSum, hlt]

theorem Tile.sound_of_no_bad_words {T : Tile} (h : T.badWords = []) (team off n row p : Nat) :
    T.spBad team off n = none ∧ T.accBad team row 0 256 = none ∧ T.planeBad p = none := by
  refine ⟨List.find?_eq_none.2 fun i _ hi => ?_, List.find?_eq_none.2 fun i _ hi => ?_, ?_⟩
  · rw [Tile.badSp, h] at hi
    cases hi
  · rw [h] at hi
    cases hi
  · rw [Tile.planeBad, h]
    rfl

/-- An MMA of one row without an uncorrectable word. -/
theorem mmaRuns {tile : Nat} {s : State} {c : ArrCmd} (hhead : (s.tile tile).arr.head = some c)
    (hready : (s.tile tile).arrReady c = true) {row off stride : Nat} {af : MFmt} {sp z : Bool} {x : Team}
    (hop : c.op = .mma row off stride 1 af sp z) (hbad : (s.tile tile).badWords = []) (hx : (s.tile tile).team c.team = some x)
    (hid : x.id = c.team) : let p := (s.tile tile).arr.plane (s.tile tile).arr.act
    ∃ t, exec (.arrayMmaRun tile) s = .next t ∧ t.mem = s.mem ∧ DueEv t (.engineFlipBack tile true) ∧
      (t.tile tile).team c.team = some ((x.fillRow p.st.fmt row
        (x.rowSum p row af z (actRow af sp (x.spBytes off (rowImage af sp)))) (mfN p.st.fmt)).mark [row / 16]) := by
  intro p
  obtain ⟨hsp, hacc, hplane⟩ := Tile.sound_of_no_bad_words hbad c.team off (rowImage af sp) row (s.tile tile).arr.act
  set cols := (List.range (mfN p.st.fmt)).map (column p.st.fmt p.st.sparse p.image) with hcols
  set g : Team → Team := fun x => x.mmaRow p.st cols af z row (actRow af sp (x.spBytes off (rowImage af sp))) with hg
  set f : Tile → Tile := fun T => (T.accClean c.team (row * 256) 256).modTeam c.team fun x =>
    x.mmaRow (T.arr.plane T.arr.act).st cols af z row (actRow af sp (x.spBytes off (rowImage af sp))) with hf
  have hrows : s.mmaRows tile c.team row off stride af sp z cols 0 1 = (s.modTile tile f, none) := by
    rw [State.mmaRows, State.mmaRows, Nat.zero_mul, Nat.add_zero, Nat.add_zero]
    simp only [hsp, hacc, hplane, ite_self]
    rfl
  obtain ⟨hmem, htile, hdue⟩ := (s.modTile tile f).arrRan_leaves tile c.id
  have hT : (s.modTile tile f).tile tile = f (s.tile tile) := s.tile_modTile_same tile f
  rw [hT] at htile
  refine ⟨_, ?_, hmem, hdue, ?_⟩
  · rw [exec_arrayMmaRun, execArrayMmaRun]
    simp only [hhead, hready, hop]
    refine (if_neg (by decide)).trans ?_
    rw [← hcols, hrows]
  · have hteam : (f (s.tile tile)).team c.team = some (g x) := by
      have hclean : ((s.tile tile).accClean c.team (row * 256) 256).team c.team = some x := hx
      have hgid : (g x).id = c.team :=
        (congrArg Team.id (x.mmaRow_eq p af z row _)).trans ((Team.id_fillRow _ _ _ _ _).trans hid)
      rw [hf]
      dsimp only
      rw [Tile.modTeam_of_team hclean, Tile.team_setTeam]
      exact if_pos hgid.symm
    rw [htile]
    exact hteam.trans (congrArg some (x.mmaRow_eq p af z row _))

theorem arrayRuns : ArrayRuns := by
  intro tile s c T hhead hready
  refine ⟨fun off tweak key fmt sp x hop => ldsRuns hhead hready hop, swpRuns hhead hready, ?_⟩
  intro row off stride af sp z x p hop hbad hx hid
  obtain ⟨t, hrun, hmem, hdue, hteam⟩ := mmaRuns hhead hready hop hbad hx hid
  refine ⟨t, _, hrun, hmem, hteam, hdue, fun n hn => ?_, fun r n hr hn => ?_⟩
  · exact Team.cell_fillRow _ _ _ _ hn
  · exact Team.accGet_fillRow_other _ _ le_rfl hr hn

end Sys2Proof.Machine
end

section
/-! PROOFS. Gangs of array commands, the release of the planes, and errors of the engines. -/

namespace Sys2Proof.Machine
open Sys2Proof.Claims

theorem exec_gangRendezvous (tile team seq : Nat) (s : State) :
    exec (.gangRendezvous tile team seq) s = execGangRendezvous tile team seq s := rfl
theorem exec_gangTimeout (s : State) : exec .gangTimeout s = execGangTimeout s := rfl
theorem exec_planeRelease (s : State) : exec .planeRelease s = execPlaneRelease s := rfl
theorem exec_engineEccError (tile : Nat) (array : Bool) (src info : Nat) (s : State) :
    exec (.engineEccError tile array src info) s = execEngineEccError tile array src info s := rfl

/-! ## A complete gang (R272) -/

theorem Arr.queued_leaves (a : Arr) (op : ArrOp) : (a.queued op).q = a.q ∧ (a.queued op).latch = a.latch := by
  have hset (i : Nat) (p : PlaneSt) : (a.setQs i p).q = a.q ∧ (a.setQs i p).latch = a.latch := by
    unfold Arr.setQs
    split <;> exact ⟨rfl, rfl⟩
  cases op with
  | ldsG => exact hset _ _
  | ldsS => exact hset _ _
  | swp => exact ⟨rfl, rfl⟩
  | mma => exact ⟨rfl, rfl⟩
  | free => exact ⟨rfl, rfl⟩

/-- An array that has accepted commands. -/
def Arr.accepted (a : Arr) (cs : List ArrCmd) : Arr := cs.foldl (fun a c => { a.queued c.op with q := a.q ++ [c] }) a

theorem Arr.accepted_leaves (a : Arr) (cs : List ArrCmd) : (a.accepted cs).q = a.q ++ cs ∧ (a.accepted cs).latch = a.latch := by
  induction cs generalizing a with
  | nil => exact ⟨(List.append_nil _).symm, rfl⟩
  | cons c cs ih =>
    obtain ⟨hq, hlatch⟩ := ih { a.queued c.op with q := a.q ++ [c] }
    exact ⟨hq.trans (List.append_assoc _ _ _), hlatch.trans (a.queued_leaves c.op).2⟩

theorem State.arrAccept_leaves (s : State) (t : Nat) (cs : List ArrCmd) : let u := s.arrAccept t cs
    u.mem = s.mem ∧ u.tile t = { s.tile t with arr := (s.tile t).arr.accepted cs } := by
  set f : Tile → Tile := fun T => T.modArr fun a => a.accepted cs with hf
  have hrun : s.arrAccept t cs = (s.modTile t f).arrKick t := rfl
  have hk := ((s.modTile t f).arrKick_grows t).frame
  refine ⟨by rw [hrun, hk]; rfl, ?_⟩
  rw [hrun, hk]
  exact s.tile_modTile_same t f

section
variable {α : Type} {slot : α → Nat} (t : Nat) (f : State → α → Group → Group)

/-- Groups changed one after the other: nothing of the tile but groups changes. -/
theorem State.foldl_modGroup_leaves (l : List α) (s : State) : let u := l.foldl (fun s e => s.modGroup t (slot e) (f s e)) s
    u.mem = s.mem ∧ (u.tile t).arr = (s.tile t).arr := by
  refine List.foldlRecOn l _ (motive := fun u : State => u.mem = s.mem ∧ (u.tile t).arr = (s.tile t).arr) ⟨rfl, rfl⟩
    fun u ⟨hm, ha⟩ e _ => ⟨hm, ?_⟩
  rw [State.modGroup, State.tile_modTile_same, Tile.arr_setGroup, ha]

theorem State.foldl_modGroup_other {g : Nat} (l : List α) (hg : ∀ e ∈ l, g ≠ slot e) (s : State) :
    ((l.foldl (fun s e => s.modGroup t (slot e) (f s e)) s).tile t).group g = (s.tile t).group g := by
  refine List.foldlRecOn l _ (motive := fun u : State => (u.tile t).group g = (s.tile t).group g) rfl fun u hu e he => ?_
  rw [State.modGroup, State.tile_modTile_same, Tile.group_setGroup_other _ _ _ _ (hg e he), hu]

/-- Each group is changed once where the groups are apart. -/
theorem State.foldl_modGroup_group {l : List α} (hl : (l.map slot).Nodup) (s : State) {e : α} (he : e ∈ l) :
    ∃ u, ((l.foldl (fun s e => s.modGroup t (slot e) (f s e)) s).tile t).group (slot e) = f u e ((s.tile t).group (slot e)) := by
  induction l generalizing s with
  | nil => cases he
  | cons d l ih =>
    rw [List.map_cons, List.nodup_cons] at hl
    obtain ⟨hd, hl⟩ := hl
    have hne (b : α) (hb : b ∈ l) : slot d ≠ slot b := fun h => hd (h ▸ List.mem_map_of_mem hb)
    rw [List.foldl_cons]
    rcases List.mem_cons.1 he with rfl | he
    · exact ⟨s, by rw [State.foldl_modGroup_other t f l hne, State.modGroup_group]⟩
    · obtain ⟨u, hu⟩ := ih hl (s.modGroup t (slot d) (f s d)) he
      refine ⟨u, hu.trans ?_⟩
      rw [State.modGroup, State.tile_modTile_same, Tile.group_setGroup_other _ _ _ _ (hne e he).symm]

end

/-- The group of a member once its gang is accepted. -/
def Group.gangGoes (G : Group) (cyc : Nat) (e : LatchEntry) : Group :=
  ({ G.outLose cyc e.iid with gseq := G.gseq + 1 }).advance e.lanes

theorem Group.gseq_gangGoes (G : Group) (cyc : Nat) (e : LatchEntry) : (G.gangGoes cyc e).gseq = G.gseq + 1 := by
  rw [Group.gangGoes, Group.advance_frame]

theorem gangAccepted (tile team seq : Nat) (s : State) (es : List LatchEntry)
    (hes : ((s.tile tile).arr.latch.filter fun e => e.team == team && e.seq == seq).findSome?
      (fun e => (s.tile tile).arr.gathered team seq e) = some es)
    (hroom : (s.tile tile).arr.q.length + (gangCmds es).length ≤ 8) :
    ∃ t, exec (.gangRendezvous tile team seq) s = .next t ∧ t.mem = s.mem ∧
      (t.tile tile).arr.q = (s.tile tile).arr.q ++ gangCmds es ∧
      (t.tile tile).arr.latch = (s.tile tile).arr.latch.filter (fun f => !es.contains f) ∧
      ((es.map (·.slot)).Nodup → ∀ e ∈ es, ((t.tile tile).group e.slot).gseq = ((s.tile tile).group e.slot).gseq + 1) := by
  set f : Tile → Tile := fun T => T.modArr fun a => { a with latch := a.latch.filter fun f => !es.contains f } with hf
  set u := (s.modTile tile f).arrAccept tile (gangCmds es) with hu
  set g : State → LatchEntry → Group → Group := fun s e G => G.gangGoes (s.cycle tile) e with hg
  obtain ⟨humem, hutile⟩ := (s.modTile tile f).arrAccept_leaves tile (gangCmds es)
  have hT : (s.modTile tile f).tile tile = f (s.tile tile) := s.tile_modTile_same tile f
  rw [hT, ← hu] at hutile
  obtain ⟨hq, hlatch⟩ := (f (s.tile tile)).arr.accepted_leaves (gangCmds es)
  obtain ⟨hmem, harr⟩ := State.foldl_modGroup_leaves (slot := LatchEntry.slot) tile g es u
  have hrun : exec (.gangRendezvous tile team seq) s = .next (es.foldl (fun s e => s.modGroup tile e.slot (g s e)) u) := by
    rw [exec_gangRendezvous, execGangRendezvous]
    simp only [hes]
    exact if_neg (Nat.not_lt.2 hroom)
  refine ⟨_, hrun, hmem.trans humem, ?_, ?_, fun hnd e he => ?_⟩
  · rw [harr, hutile]
    exact hq
  · rw [harr, hutile]
    exact hlatch
  · obtain ⟨v, hv⟩ := State.foldl_modGroup_group tile g hnd u he
    rw [hv, Group.gseq_gangGoes, hutile]
    rfl

/-! ## A gang that stays incomplete (R273) -/

theorem State.raiseAt_arr (s : State) (t g pc : Nat) (word : W64) (lanes : BitVec 32) (lane : Nat) {cls : TrapClass}
    (cause info1 info2 : Nat) (h : cls ≠ .resource) :
    ((s.raiseAt t g pc word lanes lane cls cause info1 info2).tile t).arr = (s.tile t).arr := by
  set v : State := { s with cur := { tile := t, slot := g, sub := lanes, pc := pc, word := word } } with hv
  have hsetG (G : Group) : (((v.setG G).tile t).arr = (v.tile t).arr) := by
    rw [State.setG, State.tile_setTile, if_pos rfl, Tile.arr_setGroup]
    rfl
  have hraise : ((v.raise lanes lane cls cause info1 info2).tile t).arr = (v.tile t).arr := by
    have hr : (decide (v.cur.slot = 32) && cls == .resource) = false := by simp [h]
    unfold State.raise
    simp only [hr, Bool.false_eq_true, if_false]
    rw [State.push_tile]
    split
    · rw [State.push_tile, State.tile_modTile]
      exact (congrArg Tile.arr (if_pos rfl)).trans (hsetG _)
    · exact hsetG _
  exact hraise

/-- A member that is alone in the latch fails. -/
theorem State.gangFail_one (s : State) {t : Nat} (cause : Nat) {e : LatchEntry} (hl : (s.tile t).arr.latch = [e]) :
    let u := s.gangFail t cause [e]
    u.mem = s.mem ∧ (u.tile t).arr.latch = [] ∧ ∃ y, ((u.tile t).group e.slot).lastTrap = some y ∧ y.cls = .gang ∧ y.cause = cause ∧
      y.info1 = e.seq ∧ y.lanes = e.lanes := by
  set f : Tile → Tile := fun T => (T.giveBack false (s.cycle t) e.cmd.units).modArr fun a =>
    { a with latch := a.latch.filter fun f => f != e } with hf
  set v := (s.modTile t f).modGroup t e.slot fun G => G.outDel e.iid with hv
  have hrun : s.gangFail t cause [e] =
      v.raiseAt t e.slot e.cmd.pc e.cmd.word e.lanes 0xFF .gang cause e.seq ((s.tile t).arr.arrived e) := rfl
  obtain ⟨hframe, y, hy, h1, h2, -, -, h3, -, h4⟩ := v.raiseAt_leaves t e.slot e.cmd.pc e.cmd.word e.lanes 0xFF .gang cause e.seq
    ((s.tile t).arr.arrived e) (fun h => nomatch h.2)
  dsimp only
  rw [hrun]
  refine ⟨by rw [hframe]; rfl, ?_, y, hy, h1, h2, h3, h4⟩
  have hvt : (v.tile t).arr = (f (s.tile t)).arr := by
    rw [hv, State.modGroup, State.tile_modTile_same, Tile.arr_setGroup, State.tile_modTile_same]
  have hft : (f (s.tile t)).arr.latch = ((s.tile t).giveBack false (s.cycle t) e.cmd.units).arr.latch.filter fun f => f != e := rfl
  rw [State.raiseAt_arr _ _ _ _ _ _ _ _ _ _ TrapClass.noConfusion, hvt, hft, Tile.arr_giveBack, hl]
  simp

theorem gangExpires (s : State) (e : LatchEntry) (hl : s.T.arr.latch = [e]) (hg : s.T.arr.gathered e.team e.seq e = none)
    (htimers : s.T.ctl.timersOff = none)
    (htime : e.time + gangLimit + (stepUnits (s.field (fieldOf s.cur.tile)).step / 2100 + 1) ≤ s.tileTime s.cur.tile) :
    ∃ t y, exec .gangTimeout s = .next t ∧ t.mem = s.mem ∧ (t.tile s.cur.tile).arr.latch = [] ∧
      ((t.tile s.cur.tile).group e.slot).lastTrap = some y ∧ y.cls = .gang ∧ y.cause = 1 ∧ y.info1 = e.seq ∧
      y.lanes = e.lanes := by
  have hlate : e.time + gangLimit ≤ s.tileTime s.cur.tile - (stepUnits (s.field (fieldOf s.cur.tile)).step / 2100 + 1) := by omega
  set u := s.push [] with hu
  obtain ⟨hmem, hlatch, y, hy⟩ := u.gangFail_one (t := s.cur.tile) 1 hl
  refine ⟨u.gangFail s.cur.tile 1 [e], y, ?_, hmem, hlatch, hy⟩
  rw [exec_gangTimeout, execGangTimeout]
  simp only [htimers, hl, List.filter_cons, List.filter_nil, hg, hlate]
  exact congrArg Host.Outcome.next (if_pos hlatch)

/-! ## The release of the planes (R264) -/

theorem planesReleased (s : State) (hrel : s.T.arr.releasing = true) (hmine : ∀ c ∈ s.T.arr.q, some c.team ≠ s.T.arr.holder) :
    ∃ t, exec .planeRelease s = .next t ∧ t.mem = s.mem ∧ let b := (t.tile s.cur.tile).arr
      b.p0 = {} ∧ b.p1 = {} ∧ b.holder = none ∧ b.releasing = false ∧ b.q = s.T.arr.q := by
  set f : Tile → Tile := fun T => T.modArr fun a => ({ a with
    p0 := {}, p1 := {}, holder := none, releasing := false, q := a.q.filter fun c => some c.team != a.holder } : Arr).resync with hf
  have hnone : (s.T.arr.q.filter fun c => some c.team == s.T.arr.holder) = [] :=
    List.filter_eq_nil_iff.2 fun c hc h => hmine c hc (beq_iff_eq.1 h)
  have hall : (s.T.arr.q.filter fun c => some c.team != s.T.arr.holder) = s.T.arr.q :=
    List.filter_eq_self.2 fun c hc => bne_iff_ne.2 (hmine c hc)
  have hk := ((s.modTile s.cur.tile f).arrKick_grows s.cur.tile).frame
  have hT : ((s.modTile s.cur.tile f).arrKick s.cur.tile).tile s.cur.tile = f s.T := by
    rw [hk]
    exact s.tile_modTile_same s.cur.tile f
  refine ⟨(s.modTile s.cur.tile f).arrKick s.cur.tile, ?_, by rw [hk]; rfl, ?_⟩
  · rw [exec_planeRelease, execPlaneRelease]
    simp only [hnone, hrel]
    rfl
  · rw [hT]
    exact ⟨rfl, rfl, rfl, rfl, hall⟩

theorem gangs : Gangs := ⟨gangAccepted, gangExpires, planesReleased⟩

/-! ## Errors (R377) -/

theorem copyFails (tile src info : Nat) (s : State) (x : CopyCmd) (hx : (s.tile tile).copies.find? (fun x => !x.ran) = some x) :
    ∃ t y, exec (.engineEccError tile false src info) s = .next t ∧ t.mem = s.mem ∧
      (t.tile tile).copies = (s.tile tile).copies.filter (fun y => y.id != x.id) ∧ (t.tile tile).ctl.teams = (s.tile tile).ctl.teams ∧
      ((t.tile tile).group x.slot).lastTrap = some y ∧ y.cls = .ecc ∧ y.cause = (if src < 4 then 4 else 3) ∧
      y.info1 = info ∧ y.pc = x.pc ∧ y.lanes = 0 := by
  set f : Tile → Tile := fun T => { T with copies := T.copies.filter fun y => y.id != x.id } with hf
  have hT : (s.copyStops tile x).tile tile = f (s.tile tile) := s.tile_modTile_same tile f
  obtain ⟨hm, hc, hteams, -, y, hy, h1, h2, h3, h4, h5⟩ :=
    (s.copyStops tile x).noteTrap_noted tile x.slot x.pc x.word .ecc (eccInfo src).1 info (eccInfo src).2
  refine ⟨_, y, ?_, hm, ?_, ?_, hy, h1, h2.trans (apply_ite Prod.fst _ _ _), h3, h4, h5⟩
  · rw [exec_engineEccError, execEngineEccError]
    simp only [hx]
    rfl
  · rw [hc, hT]
  · rw [hteams, hT]
    rfl

/-- An array with the shadow plane zeroed where the command is a load. -/
def Arr.unloaded (a : Arr) : ArrOp → Arr
  | .ldsG _ _ _ _ _ _ _ | .ldsS _ _ _ _ _ => a.setPlane (1 - a.act) {}
  | _ => a

theorem arrayFails (tile src info : Nat) (s : State) (c : ArrCmd) (hc : (s.tile tile).arr.head = some c) :
    ∃ t y, exec (.engineEccError tile true src info) s = .next t ∧ t.mem = s.mem ∧
      (t.tile tile).arr.q = (s.tile tile).arr.q.filter (·.ran) ∧ ((t.tile tile).group c.slot).lastTrap = some y ∧ y.cls = .ecc ∧
      y.cause = (if src < 4 then 4 else 3) ∧ y.info1 = info ∧ y.pc = c.pc ∧ y.lanes = 0 := by
  set us := ((s.tile tile).arr.q.filter fun y => !y.ran && y.id != c.id).flatMap fun y => y.units with hus
  set f : Tile → Tile := fun T => (T.giveBack false (s.cycle tile) us).modArr fun a =>
    ({ a.unloaded c.op with q := a.q.filter (·.ran) } : Arr).resync with hf
  have hT : (s.modTile tile f).tile tile = f (s.tile tile) := s.tile_modTile_same tile f
  obtain ⟨hm, -, -, harr, y, hy, h1, h2, h3, h4, h5⟩ :=
    (s.modTile tile f).noteTrap_noted tile c.slot c.pc c.word .ecc (eccInfo src).1 info (eccInfo src).2
  refine ⟨_, y, ?_, hm, ?_, hy, h1, h2.trans (apply_ite Prod.fst _ _ _), h3, h4, h5⟩
  · rw [exec_engineEccError, execEngineEccError]
    simp only [hc]
    rfl
  · rw [harr, hT]
    exact congrArg (fun a : Arr => a.q.filter (·.ran)) ((s.tile tile).arr_giveBack _ _ _)

theorem engineErrors : EngineErrors := fun tile src info s => ⟨copyFails tile src info s, arrayFails tile src info s⟩

/-- Settles O43: each step of an engine by what it leaves in its tile, in the team's units and bytes, and in memory. -/
theorem engineSteps : Obligations.EngineSteps := ⟨copyEngine, unitsReturn, arrayRuns, gangs, engineErrors⟩

end Sys2Proof.Machine
end
